-- ==== Sys2Proof/Word.lean ====
section
/-!
DEFINITION. Word.lean: the word types of the Oznen module and their plainest names.
A general register holds 64 bits (R27); memory is addressed by bytes.
-/

namespace Sys2Proof

/-- A 64-bit register value (R27). -/
abbrev Word := BitVec 64

/-- One byte of memory. -/
abbrev Byte := BitVec 8

/-- A hardware thread of the module: 16 × core + thread, 48 cores of 16 threads (R16, R106). -/
abbrev Tid := Fin 768

/-- A core of the module, 12 × quarter + core within the quarter (R138). -/
abbrev CoreId := Fin 48

/-- A general register number (R27) or a long-vector register number (R139). -/
abbrev RIdx := Fin 32

/-- The number n of a register pair cn (R28). -/
abbrev PIdx := Fin 16

/-- A tile group member m0 to m7 (R167). -/
abbrev MIdx := Fin 8

/-- The core that holds a thread. -/
def Tid.core (t : Tid) : CoreId := ⟨t.val / 16, by omega⟩

/-- The even register of pair cn (R28). -/
def PIdx.even (c : PIdx) : RIdx := ⟨2 * c.val, by omega⟩

/-- The odd register of pair cn (R28). -/
def PIdx.odd (c : PIdx) : RIdx := ⟨2 * c.val + 1, by omega⟩

end Sys2Proof
end

