-- ==== Sys2Proof/Machine/Bits.lean ====
section
/-!
DEFINITION. Machine/Bits.lean: bit fields, byte order and small list helpers that every family uses.
Multi-byte values are stored least significant byte first (R37, and the byte tables of every chapter).
-/

namespace Sys2Proof.Machine

/-- The field [hi:lo] of a number, the fields of every register table. -/
def fld (x hi lo : Nat) : Nat := x / 2 ^ lo % 2 ^ (hi + 1 - lo)

/-- One bit of a number. -/
def bit (x i : Nat) : Bool := x / 2 ^ i % 2 == 1

/-- A number whose field [hi:lo] is replaced by v. -/
def setFld (x hi lo v : Nat) : Nat :=
  x - fld x hi lo * 2 ^ lo + v % 2 ^ (hi + 1 - lo) * 2 ^ lo

/-- A flag as a bit. -/
def b2n (b : Bool) : Nat := if b then 1 else 0

/-- The value of a byte string, least significant byte first. -/
def leNat : List Byte → Nat
  | [] => 0
  | b :: bs => b.toNat + 256 * leNat bs

/-- n bytes of a value, least significant byte first. -/
def natLe : Nat → Nat → List Byte
  | 0, _ => []
  | n + 1, v => BitVec.ofNat 8 v :: natLe n (v / 256)

/-- The signed value of an n-bit number. -/
def sext (n v : Nat) : Int :=
  let u := v % 2 ^ n
  if 2 ^ n ≤ 2 * u then (u : Int) - 2 ^ n else u

/-- An integer as an n-bit two's complement number. -/
def intBits (n : Nat) (i : Int) : Nat := (i % (2 ^ n : Int)).toNat

/-- The integer as a 64-bit register value. -/
def ofInt64 (i : Int) : Word := BitVec.ofInt 64 i

/-- A slice of a list: n entries from place k on. -/
def slice {α : Type} (l : List α) (k n : Nat) : List α := (l.drop k).take n

/-- The list 0 … n − 1, as a structurally recursive loop bound. -/
def upto : Nat → List Nat
  | 0 => []
  | n + 1 => upto n ++ [n]

/-- Rounds down to a multiple of k. -/
def alignDown (a k : Nat) : Nat := a / k * k

/-- Floor of the base-2 logarithm, 0 of 0. -/
def log2 (n : Nat) : Nat := Nat.log2 n

/-- The list with place k replaced. -/
def setAt {α : Type} (l : List α) (k : Nat) (v : α) : List α := l.set k v

/-- The integer as a natural number, a negative number as 0. -/
def clampNat (i : Int) : Nat := i.toNat

/-- Ceiling division of naturals. -/
def ceilDiv (a b : Nat) : Nat := (a + b - 1) / b

/-- The lowest place of the list whose entry satisfies the test. -/
def findIdx? {α : Type} (p : α → Bool) : List α → Nat → Option Nat
  | [], _ => none
  | x :: xs, i => if p x then some i else findIdx? p xs (i + 1)

end Sys2Proof.Machine
end

