-- ==== Sys2Proof/Machine/Float.lean ====
section
/-!
DEFINITION. Machine/Float.lean: exact binary arithmetic and its one rounding to a format (R41, R57, R149, R208, R226).
A finite value is a sign, a natural number m and an exponent e, standing for m × 2^e exactly; a result is rounded once.
-/

namespace Sys2Proof.Machine

/-- The four rounding modes of a scalar instruction (R41), in the order of their codes. -/
inductive RMode where
  | rne | rtz | rup | rdn
deriving DecidableEq, Repr

/-- A floating format of R208: exponent and fraction widths, bias, the largest finite magnitude code, and the
magnitude codes of infinity and of the canonical NaN where the format has them. -/
structure FFmt where
  ebits : Nat
  fbits : Nat
  bias : Nat
  maxMag : Nat
  infMag : Option Nat
  nanMag : Option Nat
deriving DecidableEq, Repr

/-- The floating formats of R208. -/
def fp64 : FFmt := ⟨11, 52, 1023, 0x7FEFFFFFFFFFFFFF, some 0x7FF0000000000000, some 0x7FF8000000000000⟩
/-- FP32 (R208). -/
def fp32 : FFmt := ⟨8, 23, 127, 0x7F7FFFFF, some 0x7F800000, some 0x7FC00000⟩
/-- BF16 (R208). -/
def bf16 : FFmt := ⟨8, 7, 127, 0x7F7F, some 0x7F80, some 0x7FC0⟩
/-- FP16 (R208). -/
def fp16 : FFmt := ⟨5, 10, 15, 0x7BFF, some 0x7C00, some 0x7E00⟩
/-- FP8 E4M3 (R208): no infinity. -/
def e4m3 : FFmt := ⟨4, 3, 7, 0x7E, none, some 0x7F⟩
/-- FP8 E5M2 (R208). -/
def e5m2 : FFmt := ⟨5, 2, 15, 0x7B, some 0x7C, some 0x7E⟩
/-- FP6 E3M2 (R208): neither infinity nor NaN. -/
def e3m2 : FFmt := ⟨3, 2, 3, 0x1F, none, none⟩
/-- FP6 E2M3 (R208). -/
def e2m3 : FFmt := ⟨2, 3, 1, 0x1F, none, none⟩
/-- FP4 E2M1 (R208). -/
def e2m1 : FFmt := ⟨2, 1, 1, 0x7, none, none⟩
/-- W22 (R208): FP32 without its 10 lowest fraction bits. -/
def w22 : FFmt := ⟨8, 13, 127, 0x1FDFFF, some 0x1FE000, some 0x1FF000⟩

/-- The width of a format: sign, exponent and fraction. -/
def FFmt.width (f : FFmt) : Nat := 1 + f.ebits + f.fbits

/-- A value: not a number, an infinity, or ± m × 2^e. -/
inductive Num where
  | nan
  | inf (neg : Bool)
  | fin (neg : Bool) (m : Nat) (e : Int)
deriving DecidableEq, Repr

/-- m × 2^k for a shift that may be negative, rounded down. -/
def shiftI (m : Nat) (k : Int) : Nat :=
  match k with
  | .ofNat n => m <<< n
  | .negSucc n => m >>> (n + 1)

/-- The value that a code of the format stands for (R208). -/
def decodeF (f : FFmt) (code : Nat) : Num :=
  let c := code % 2 ^ f.width
  let neg := bit c (f.ebits + f.fbits)
  let mag := c % 2 ^ (f.ebits + f.fbits)
  if mag ≤ f.maxMag then
    let ex := mag / 2 ^ f.fbits
    let fr := mag % 2 ^ f.fbits
    let q : Int := 1 - (f.bias : Int) - (f.fbits : Int)
    if ex = 0 then .fin neg fr q
    else .fin neg (fr + 2 ^ f.fbits) (q + (ex : Int) - 1)
  else if f.infMag = some mag then .inf neg
  else .nan

/-- A sign over a magnitude code. -/
def withSign (f : FFmt) (neg : Bool) (mag : Nat) : Nat := b2n neg * 2 ^ (f.ebits + f.fbits) + mag

/-- Whether a remainder rounds the magnitude up: rem of 2^sh below the unit, with a non-zero tail when sticky. -/
def roundsUp (mode : RMode) (neg : Bool) (n rem sh : Nat) (sticky : Bool) : Bool :=
  let half := 2 ^ (sh - 1)
  match mode with
  | .rne => decide (half < rem) || (rem == half && (sticky || n % 2 == 1))
  | .rtz => false
  | .rup => !neg && (rem != 0 || sticky)
  | .rdn => neg && (rem != 0 || sticky)

/-- m × 2^e, with a non-zero tail below it when sticky, rounded to a whole number of units 2^q (R226 for rne). -/
def quantize (mode : RMode) (neg : Bool) (m : Nat) (e : Int) (sticky : Bool) (q : Int) : Nat :=
  let k := q - e
  let sh := if k < 2 then 2 else k.toNat
  let mm := if k < 2 then m <<< (2 - k).toNat else m
  let n := mm >>> sh
  if roundsUp mode neg n (mm % 2 ^ sh) sh sticky then n + 1 else n

/-- The exponent of the unit in which the format holds a value of that magnitude. -/
def unitOf (f : FFmt) (m : Nat) (e : Int) : Int :=
  let qmin : Int := 1 - (f.bias : Int) - (f.fbits : Int)
  max qmin ((log2 m : Int) + e - (f.fbits : Int))

/-- The magnitude code of the rounded value, not bounded by the largest finite one. -/
def roundMag (f : FFmt) (mode : RMode) (neg : Bool) (m : Nat) (e : Int) (sticky : Bool) : Nat :=
  let qmin : Int := 1 - (f.bias : Int) - (f.fbits : Int)
  let q := unitOf f m e
  (q - qmin).toNat * 2 ^ f.fbits + quantize mode neg m e sticky q

/-- The code of a NaN result: canonical where the format has one, else 0 (R149, R208). -/
def nanCode (f : FFmt) : Nat := f.nanMag.getD 0

/-- The code of an infinity, or of the largest finite value where the format has none. -/
def infCode (f : FFmt) (neg : Bool) : Nat := withSign f neg (f.infMag.getD f.maxMag)

/-- What a magnitude past the largest finite one becomes under a mode: infinity or the largest finite value. -/
def overflowCode (f : FFmt) (mode : RMode) (neg : Bool) : Nat :=
  let toInf := match mode with
    | .rne => true
    | .rtz => false
    | .rup => !neg
    | .rdn => neg
  if toInf then infCode f neg else withSign f neg f.maxMag

/-- One rounding of an exact value to a format, by the rules of IEEE 754 (R41, R149). -/
def encodeF (f : FFmt) (mode : RMode) (x : Num) (sticky : Bool := false) : Nat :=
  match x with
  | .nan => nanCode f
  | .inf neg => infCode f neg
  | .fin neg m e =>
    if m = 0 && !sticky then withSign f neg 0
    else
      let mag := roundMag f mode neg m e sticky
      if mag ≤ f.maxMag then withSign f neg mag else overflowCode f mode neg

/-- Exact negation. -/
def Num.neg : Num → Num
  | .nan => .nan
  | .inf n => .inf (!n)
  | .fin n m e => .fin (!n) m e

/-- Whether the value is a NaN. -/
def Num.isNan : Num → Bool
  | .nan => true
  | _ => false

/-- Whether the value is finite. -/
def Num.isFin : Num → Bool
  | .fin .. => true
  | _ => false

/-- The sign of a value, false for NaN. -/
def Num.sign : Num → Bool
  | .nan => false
  | .inf n => n
  | .fin n _ _ => n

/-- ± m × 2^e as an integer number of units 2^q, q at most e. -/
def unitsOf (neg : Bool) (m : Nat) (e q : Int) : Int :=
  let v : Int := (m <<< (e - q).toNat : Nat)
  if neg then -v else v

/-- The exact sum; an exact zero of unlike signs is +0, or −0 when rounding toward −∞. -/
def Num.add (mode : RMode) (x y : Num) : Num :=
  match x, y with
  | .nan, _ => .nan
  | _, .nan => .nan
  | .inf a, .inf b => if a = b then .inf a else .nan
  | .inf a, _ => .inf a
  | _, .inf b => .inf b
  | .fin a m e, .fin b n g =>
    let q := min e g
    let v := unitsOf a m e q + unitsOf b n g q
    if v = 0 then .fin (if a = b then a else mode == .rdn) 0 q
    else .fin (decide (v < 0)) v.natAbs q

/-- The exact product. -/
def Num.mul (x y : Num) : Num :=
  match x, y with
  | .nan, _ => .nan
  | _, .nan => .nan
  | .inf a, .inf b => .inf (a != b)
  | .inf a, .fin b n _ => if n = 0 then .nan else .inf (a != b)
  | .fin a m _, .inf b => if m = 0 then .nan else .inf (a != b)
  | .fin a m e, .fin b n g => .fin (a != b) (m * n) (e + g)

/-- The exact value scaled by a power of two. -/
def Num.scale (x : Num) (k : Int) : Num :=
  match x with
  | .fin a m e => .fin a m (e + k)
  | y => y

/-- A quotient as a value and a sticky tail: at least 130 significant bits. -/
def Num.divS (x y : Num) : Num × Bool :=
  match x, y with
  | .nan, _ => (.nan, false)
  | _, .nan => (.nan, false)
  | .inf _, .inf _ => (.nan, false)
  | .inf a, .fin b _ _ => (.inf (a != b), false)
  | .fin a _ _, .inf b => (.fin (a != b) 0 0, false)
  | .fin a m e, .fin b n g =>
    if n = 0 then (if m = 0 then .nan else .inf (a != b), false)
    else
      let k := 130 + log2 n
      let num := m <<< k
      (.fin (a != b) (num / n) (e - g - (k : Int)), num % n != 0)

/-- Integer square root, one bit at a time: the largest r with r² at most n, among r below 2^fuel × (r + 1). -/
def isqrtAux (n : Nat) : Nat → Nat → Nat
  | 0, r => r
  | f + 1, r =>
    let c := r + 2 ^ f
    isqrtAux n f (if c * c ≤ n then c else r)

/-- The integer square root. -/
def isqrt (n : Nat) : Nat := isqrtAux n (log2 n / 2 + 1) 0

/-- A square root as a value and a sticky tail. -/
def Num.sqrtS (x : Num) : Num × Bool :=
  match x with
  | .nan => (.nan, false)
  | .inf neg => (if neg then .nan else .inf false, false)
  | .fin neg m e =>
    if m = 0 then (.fin neg 0 0, false)
    else if neg then (.nan, false)
    else
      let odd := e % 2 != 0
      let mm := (if odd then 2 * m else m) <<< 260
      let ee := (if odd then e - 1 else e) - 260
      let r := isqrt mm
      (.fin false r (ee / 2), r * r != mm)

/-- Order of two values that are not NaN, with −0 below +0: −1, 0 or 1. -/
def Num.ord (x y : Num) : Int :=
  match x, y with
  | .inf a, .inf b => if a = b then 0 else if a then -1 else 1
  | .inf a, _ => if a then -1 else 1
  | _, .inf b => if b then 1 else -1
  | .fin a m e, .fin b n g =>
    let q := min e g
    let u := unitsOf a m e q
    let v := unitsOf b n g q
    if u < v then -1 else if v < u then 1
    else if m = 0 && n = 0 && a != b then (if a then -1 else 1) else 0
  | _, _ => 0

/-- Numeric comparison of two values that are not NaN, zeros equal: −1, 0 or 1. -/
def Num.cmp (x y : Num) : Int :=
  match x, y with
  | .fin _ 0 _, .fin _ 0 _ => 0
  | _, _ => Num.ord x y

/-- Add, subtract, multiply of two codes with one rounding. -/
def fAdd (f : FFmt) (mode : RMode) (a b : Nat) : Nat :=
  encodeF f mode ((decodeF f a).add mode (decodeF f b))
/-- Subtract with one rounding. -/
def fSub (f : FFmt) (mode : RMode) (a b : Nat) : Nat :=
  encodeF f mode ((decodeF f a).add mode (decodeF f b).neg)
/-- Multiply with one rounding. -/
def fMul (f : FFmt) (mode : RMode) (a b : Nat) : Nat :=
  encodeF f mode ((decodeF f a).mul (decodeF f b))
/-- Divide with one rounding. -/
def fDiv (f : FFmt) (mode : RMode) (a b : Nat) : Nat :=
  let r := (decodeF f a).divS (decodeF f b)
  encodeF f mode r.1 r.2
/-- Square root with one rounding. -/
def fSqrt (f : FFmt) (mode : RMode) (a : Nat) : Nat :=
  let r := (decodeF f a).sqrtS
  encodeF f mode r.1 r.2

/-- Minimum: a NaN operand gives NaN, −0 orders below +0 (R41). -/
def fMin (f : FFmt) (a b : Nat) : Nat :=
  let x := decodeF f a
  let y := decodeF f b
  if x.isNan || y.isNan then nanCode f else if x.ord y ≤ 0 then a % 2 ^ f.width else b % 2 ^ f.width
/-- Maximum: a NaN operand gives NaN, −0 orders below +0 (R41). -/
def fMax (f : FFmt) (a b : Nat) : Nat :=
  let x := decodeF f a
  let y := decodeF f b
  if x.isNan || y.isNan then nanCode f else if x.ord y ≤ 0 then b % 2 ^ f.width else a % 2 ^ f.width

/-- Fused (± x × y) ± z with one rounding: the negations are exact (R41). -/
def fFma (f : FFmt) (mode : RMode) (negP negC : Bool) (a b c : Nat) : Nat :=
  let x := decodeF f a
  let y := decodeF f b
  let z := decodeF f c
  let p := (if negP then x.neg else x).mul y
  encodeF f mode (p.add mode (if negC then z.neg else z))

/-- One value's code moved from a format to another, rounded once. -/
def fCvt (src dst : FFmt) (mode : RMode) (a : Nat) : Nat := encodeF dst mode (decodeF src a)

/-- Numeric relations of two codes; any NaN makes them false (R42, R148). -/
def fEq (f : FFmt) (a b : Nat) : Bool :=
  let x := decodeF f a
  let y := decodeF f b
  !x.isNan && !y.isNan && x.cmp y == 0
/-- Less-than; any NaN gives false. -/
def fLt (f : FFmt) (a b : Nat) : Bool :=
  let x := decodeF f a
  let y := decodeF f b
  !x.isNan && !y.isNan && decide (x.cmp y < 0)
/-- Unordered: some operand is NaN. -/
def fUn (f : FFmt) (a b : Nat) : Bool := (decodeF f a).isNan || (decodeF f b).isNan

/-- A signed integer as an exact value. -/
def intNum (i : Int) : Num := .fin (decide (i < 0)) i.natAbs 0

/-- A finite value rounded to a whole number by a mode. -/
def numToInt (mode : RMode) (neg : Bool) (m : Nat) (e : Int) : Int :=
  let n := quantize mode neg m e false 0
  if neg then -(n : Int) else n

/-- Conversion to an integer range: saturating, NaN gives 0 (R41). -/
def fToInt (f : FFmt) (mode : RMode) (lo hi : Int) (a : Nat) : Int :=
  match decodeF f a with
  | .nan => 0
  | .inf neg => if neg then lo else hi
  | .fin neg m e => max lo (min hi (numToInt mode neg m e))

end Sys2Proof.Machine
end

