-- ==== Sys2Proof/Syntax.lean ====
section
/-!
DEFINITION. Syntax.lean: the commands of the module, one constructor of Instr per row of spec/opcode_table.json.
An Ixnum instruction names the hardware thread that executes it, and its operands as its format gives them (R37, R145,
R169, R597); a row of another kind names the part of the module it concerns and what it carries.
-/

namespace Sys2Proof

open Sys2Proof.Machine (RMode)

/-- The immediate of an I-format instruction: imm15, or imm32 of the extended form (R597). -/
inductive IForm where
  | short (imm : BitVec 15)
  | ext (imm : BitVec 32)
deriving DecidableEq, Repr

/-- The immediate of LUI: imm20, shifted left by 12, or imm32 of the extended form, with no shift (R597). -/
inductive UForm where
  | short (imm : BitVec 20)
  | ext (imm : BitVec 32)
deriving DecidableEq, Repr

/-- The immediate of CMPI: imm15[11:0], or imm32 of the extended form. -/
inductive KForm where
  | short (imm : BitVec 12)
  | ext (imm : BitVec 32)
deriving DecidableEq, Repr

/-- The kinds of CMPI, in the order of their codes 0 to 5. -/
inductive CmpKind where
  | eq | ne | lt | ltu | ge | geu
deriving DecidableEq, Repr

/-- The address of an M-format instruction beside cs: rx and imm11, or imm32 of the extended form (R597). -/
inductive MForm where
  | short (rx : RIdx) (imm : BitVec 11)
  | ext (imm : BitVec 32)
deriving DecidableEq, Repr

/-- The address and the source of an A-format SCAN or AMO: rx and rs, or imm32, where rd serves as rs too (R597). -/
inductive AForm where
  | short (rx rs : RIdx)
  | ext (imm : BitVec 32)
deriving DecidableEq, Repr

/-- The offset of BZ and BNZ, counted in words. -/
inductive BForm where
  | short (off : BitVec 20)
  | ext (off : BitVec 32)
deriving DecidableEq, Repr

/-- The offset of J and CALL, counted in words. -/
inductive JForm where
  | short (off : BitVec 25)
  | ext (off : BitVec 32)
deriving DecidableEq, Repr

/-- The offset of CALLC: imm11 counted in words, or imm32 counted in bytes; CALLC names no rx (R53, R597). -/
inductive CallForm where
  | short (imm : BitVec 11)
  | ext (imm : BitVec 32)
deriving DecidableEq, Repr

/-- The address and the length or count of a VM or VR instruction (R145, R146). -/
inductive VMForm where
  | short (rx rl : RIdx)
  | ext (rl : RIdx) (imm : BitVec 27)
deriving DecidableEq, Repr

/-- The row addresses of TLD, TLD.ALL and TST (R169, R170). -/
inductive TMForm where
  | short (rx rstride : RIdx)
  | ext (rstride : RIdx) (imm : BitVec 32)
deriving DecidableEq, Repr

/-- The argument of an engine instruction: ra, or imm32 of the extended form in its place (R597). -/
inductive CForm where
  | short (ra : RIdx)
  | ext (imm : BitVec 32)
deriving DecidableEq, Repr

/-- The lanes of SV.FP and SV.FMA: FP32 × 4, BF16 × 8, FP64 × 2 (R56). -/
inductive SvLanes where
  | fp32 | bf16 | fp64
deriving DecidableEq, Repr

/-- The four comparisons of SCAN (R49). -/
inductive ScanKind where
  | eqD | neD | eqW | neW
deriving DecidableEq, Repr

/-- The instruction after REP or REPN (R58); bad is any that may not follow one, extended or not. -/
inductive RepBody where
  | stB (rs : RIdx) (cs : PIdx) (m : MForm)
  | stH (rs : RIdx) (cs : PIdx) (m : MForm)
  | stW (rs : RIdx) (cs : PIdx) (m : MForm)
  | stD (rs : RIdx) (cs : PIdx) (m : MForm)
  | svSt (rs : RIdx) (cs : PIdx) (m : MForm)
  | scan (kind : ScanKind) (rd : RIdx) (cs : PIdx) (a : AForm)
  | vst (aligned : Bool) (vs : RIdx) (cs : PIdx) (m : VMForm)
  | bad (ext : Bool)
deriving DecidableEq, Repr

/-- To whom the Drone delivers an NMI (R102). -/
inductive NmiTarget where
  | thread (t : Tid)
  | core (c : CoreId)
  | running
deriving DecidableEq, Repr


/-- What a TDISP request asks of a virtual function's TDI (R504). -/
inductive TdispOp where
  | lock | start | stop
deriving DecidableEq, Repr

/-- A request of a DOE protocol other than attestation (R503): Discovery with its index; CMA/SPDM, and whether it negotiates the
module's own algorithms; IDE_KM with a stream's key; TDISP. -/
inductive DoeReq where
  | discovery (index : BitVec 8)
  | spdm (own : Bool) (len body : Nat)
  | ideKey (fn : Fin 16) (key : BitVec 256)
  | tdisp (fn : Fin 16) (op : TdispOp)
deriving DecidableEq, Repr

/-- Where a REGISTER_WRITE goes (R15): eight bytes at an offset of a function's BAR0, with the T bit or without; a Stop, on the
physical function's path, with the tenancy of its window and the length of the value; or a register of a thread's SV3 through the
Drone's core access port: its value and tag, and for a pair those of the odd half. -/
inductive RegTarget where
  | bar0 (fn : Fin 16) (off : BitVec 26) (v : BitVec 64) (tee : Bool)
  | stop (idx : BitVec 16) (sub ten : BitVec 8) (len v : Nat)
  | sv3 (t : Tid) (num : BitVec 12) (v odd : BitVec 64) (tag oddTag : BitVec 4)
deriving DecidableEq, Repr

/-- The commands of the module: one constructor per row of spec/opcode_table.json. -/
inductive Instr where
  /-- ADD (R39): Integer add of rs1 and rs2, wrapping modulo 2^64, written to rd as INT. -/
  | add (t : Tid) (rd rs1 rs2 : RIdx)
  /-- SUB (R39): Integer subtract rs1 minus rs2, wrapping; SEQ operands follow R33. -/
  | sub (t : Tid) (rd rs1 rs2 : RIdx)
  /-- AND (R39): Bitwise AND of two integer sources; BOOL when both are BOOL. -/
  | and (t : Tid) (rd rs1 rs2 : RIdx)
  /-- OR (R39): Bitwise OR of two integer sources; BOOL when both are BOOL. -/
  | or (t : Tid) (rd rs1 rs2 : RIdx)
  /-- XOR (R39): Bitwise XOR of two integer sources; BOOL when both are BOOL. -/
  | xor (t : Tid) (rd rs1 rs2 : RIdx)
  /-- SLL (R39): Shift rs1 left by rs2[5:0]. -/
  | sll (t : Tid) (rd rs1 rs2 : RIdx)
  /-- SRL (R39): Logical shift right of rs1 by rs2[5:0]. -/
  | srl (t : Tid) (rd rs1 rs2 : RIdx)
  /-- SRA (R39): Arithmetic shift right of rs1 by rs2[5:0]. -/
  | sra (t : Tid) (rd rs1 rs2 : RIdx)
  /-- MUL (R39): Low 64 bits of the integer product. -/
  | mul (t : Tid) (rd rs1 rs2 : RIdx)
  /-- MULH (R39): High 64 bits of the signed integer product. -/
  | mulh (t : Tid) (rd rs1 rs2 : RIdx)
  /-- MULHU (R39): High 64 bits of the unsigned integer product. -/
  | mulhu (t : Tid) (rd rs1 rs2 : RIdx)
  /-- DIV (R40): Signed quotient truncated toward zero; divisor zero raises ARITH. -/
  | div (t : Tid) (rd rs1 rs2 : RIdx)
  /-- DIVU (R40): Unsigned quotient; divisor zero raises ARITH. -/
  | divu (t : Tid) (rd rs1 rs2 : RIdx)
  /-- REM (R40): Signed remainder with the sign of rs1; divisor zero raises ARITH. -/
  | rem (t : Tid) (rd rs1 rs2 : RIdx)
  /-- REMU (R40): Unsigned remainder; divisor zero raises ARITH. -/
  | remu (t : Tid) (rd rs1 rs2 : RIdx)
  /-- MIN (R39): Signed minimum of two integers. -/
  | min (t : Tid) (rd rs1 rs2 : RIdx)
  /-- MAX (R39): Signed maximum of two integers. -/
  | max (t : Tid) (rd rs1 rs2 : RIdx)
  /-- MINU (R39): Unsigned minimum of two integers. -/
  | minu (t : Tid) (rd rs1 rs2 : RIdx)
  /-- MAXU (R39): Unsigned maximum of two integers. -/
  | maxu (t : Tid) (rd rs1 rs2 : RIdx)
  /-- CLZ (R39): Count of leading zeros of rs1. -/
  | clz (t : Tid) (rd rs1 : RIdx)
  /-- CTZ (R39): Count of trailing zeros of rs1. -/
  | ctz (t : Tid) (rd rs1 : RIdx)
  /-- POPC (R39): Count of ones in rs1. -/
  | popc (t : Tid) (rd rs1 : RIdx)
  /-- ADDI (R597): Adds sign-extended immediate to rs1. -/
  | addi (t : Tid) (rd rs1 : RIdx) (imm : IForm)
  /-- ANDI (R597): ANDs sign-extended immediate with rs1. -/
  | andi (t : Tid) (rd rs1 : RIdx) (imm : IForm)
  /-- ORI (R597): ORs sign-extended immediate with rs1. -/
  | ori (t : Tid) (rd rs1 : RIdx) (imm : IForm)
  /-- XORI (R597): XORs sign-extended immediate with rs1. -/
  | xori (t : Tid) (rd rs1 : RIdx) (imm : IForm)
  /-- SLLI (R597): Shift left by immediate amount. -/
  | slli (t : Tid) (rd rs1 : RIdx) (amount : BitVec 6) (ext : Bool)
  /-- SRLI (R597): Logical shift right by immediate amount. -/
  | srli (t : Tid) (rd rs1 : RIdx) (amount : BitVec 6) (ext : Bool)
  /-- SRAI (R597): Arithmetic shift right by immediate amount. -/
  | srai (t : Tid) (rd rs1 : RIdx) (amount : BitVec 6) (ext : Bool)
  /-- LUI (R597): Loads sign-extended imm20 shifted left 12, or sext(imm32) in the extended form, as INT. -/
  | lui (t : Tid) (rd : RIdx) (imm : UForm)
  /-- CMPI (R597): Compares rs1 with a sign-extended immediate by the kind field and writes BOOL. -/
  | cmpi (t : Tid) (rd rs1 : RIdx) (kind : CmpKind) (imm : KForm)
  /-- FADD (R41): FP64 add with the encoded rounding mode. -/
  | fadd (t : Tid) (rd rs1 rs2 : RIdx) (mode : RMode)
  /-- FSUB (R41): FP64 subtract with the encoded rounding mode. -/
  | fsub (t : Tid) (rd rs1 rs2 : RIdx) (mode : RMode)
  /-- FMUL (R41): FP64 multiply with the encoded rounding mode. -/
  | fmul (t : Tid) (rd rs1 rs2 : RIdx) (mode : RMode)
  /-- FDIV (R41): FP64 divide with the encoded rounding mode. -/
  | fdiv (t : Tid) (rd rs1 rs2 : RIdx) (mode : RMode)
  /-- FSQRT (R41): FP64 square root of rs1. -/
  | fsqrt (t : Tid) (rd rs1 : RIdx) (mode : RMode)
  /-- FMIN (R41): FP64 minimum with NaN propagation and -0 below +0. -/
  | fmin (t : Tid) (rd rs1 rs2 : RIdx)
  /-- FMAX (R41): FP64 maximum with NaN propagation and -0 below +0. -/
  | fmax (t : Tid) (rd rs1 rs2 : RIdx)
  /-- FABS (R41): Exact FP64 absolute value. -/
  | fabs (t : Tid) (rd rs1 : RIdx)
  /-- FNEG (R41): Exact FP64 negation. -/
  | fneg (t : Tid) (rd rs1 : RIdx)
  /-- FMADD (R41): Fused rs1 x rs2 + rs3 with one rounding. -/
  | fmadd (t : Tid) (rd rs1 rs2 rs3 : RIdx) (mode : RMode)
  /-- FMSUB (R41): Fused rs1 x rs2 - rs3 with one rounding. -/
  | fmsub (t : Tid) (rd rs1 rs2 rs3 : RIdx) (mode : RMode)
  /-- FNMADD (R41): Fused -(rs1 x rs2) - rs3 with one rounding. -/
  | fnmadd (t : Tid) (rd rs1 rs2 rs3 : RIdx) (mode : RMode)
  /-- FNMSUB (R41): Fused -(rs1 x rs2) + rs3 with one rounding. -/
  | fnmsub (t : Tid) (rd rs1 rs2 rs3 : RIdx) (mode : RMode)
  /-- I2F (R41): Converts a signed INT to FLT. -/
  | i2f (t : Tid) (rd rs1 : RIdx) (mode : RMode)
  /-- U2F (R41): Converts an unsigned INT to FLT. -/
  | u2f (t : Tid) (rd rs1 : RIdx) (mode : RMode)
  /-- F2I (R41): Converts FLT to signed INT, saturating, NaN to 0. -/
  | f2i (t : Tid) (rd rs1 : RIdx) (mode : RMode)
  /-- F2U (R41): Converts FLT to unsigned INT, saturating, NaN to 0. -/
  | f2u (t : Tid) (rd rs1 : RIdx) (mode : RMode)
  /-- F2S (R41): Converts FP64 to FP32 bits in an INT. -/
  | f2s (t : Tid) (rd rs1 : RIdx) (mode : RMode)
  /-- S2F (R41): Converts FP32 bits in an INT to FP64. -/
  | s2f (t : Tid) (rd rs1 : RIdx) (mode : RMode)
  /-- CMP_EQ (R42): Writes BOOL 1 when two integers are equal. -/
  | cmpEq (t : Tid) (rd rs1 rs2 : RIdx)
  /-- CMP_NE (R42): Writes BOOL 1 when two integers differ. -/
  | cmpNe (t : Tid) (rd rs1 rs2 : RIdx)
  /-- CMP_LT (R42): Signed less-than compare into BOOL. -/
  | cmpLt (t : Tid) (rd rs1 rs2 : RIdx)
  /-- CMP_LTU (R42): Unsigned less-than compare into BOOL. -/
  | cmpLtu (t : Tid) (rd rs1 rs2 : RIdx)
  /-- CMP_GE (R42): Signed greater-or-equal compare into BOOL. -/
  | cmpGe (t : Tid) (rd rs1 rs2 : RIdx)
  /-- CMP_GEU (R42): Unsigned greater-or-equal compare into BOOL. -/
  | cmpGeu (t : Tid) (rd rs1 rs2 : RIdx)
  /-- CMP_FEQ (R42): FP64 equality compare; NaN gives 0. -/
  | cmpFeq (t : Tid) (rd rs1 rs2 : RIdx)
  /-- CMP_FLT (R42): FP64 less-than compare; NaN gives 0. -/
  | cmpFlt (t : Tid) (rd rs1 rs2 : RIdx)
  /-- CMP_FLE (R42): FP64 less-or-equal compare; NaN gives 0. -/
  | cmpFle (t : Tid) (rd rs1 rs2 : RIdx)
  /-- CMP_FUN (R42): FP64 unordered compare; NaN gives 1. -/
  | cmpFun (t : Tid) (rd rs1 rs2 : RIdx)
  /-- CMP_SLT (R33): Serial-number comparison of two SEQ values into BOOL. -/
  | cmpSlt (t : Tid) (rd rs1 rs2 : RIdx)
  /-- SEL (R31): Copies rs1 or rs2 with tag into rd according to rc. -/
  | sel (t : Tid) (rd rs1 rs2 rc : RIdx)
  /-- MOV (R34): Copies value and tag of a move-class register; capability halves trap. -/
  | mov (t : Tid) (rd rs1 : RIdx)
  /-- TGET (R34): Writes the tag of rs1 as an INT. -/
  | tget (t : Tid) (rd rs1 : RIdx)
  /-- TEQ (R34): Writes BOOL 1 when the tag of rs1 equals the given tag. -/
  | teq (t : Tid) (rd rs1 : RIdx) (tag : BitVec 4)
  /-- RETAG (R35): Gives a retag-class value a new tag of INT, FLT, BOOL or SEQ. -/
  | retag (t : Tid) (rd rs1 : RIdx) (tag : BitVec 4)
  /-- HCHK (R35): Tags an INT as HANDLE when it names a live object of the tenancy. -/
  | hchk (t : Tid) (rd rs1 : RIdx)
  /-- FMTCHK (R35): Tags an INT as FMT when it is a valid descriptor encoding. -/
  | fmtchk (t : Tid) (rd rs1 : RIdx)
  /-- LD_B (R45): Loads a sign-extended byte through a capability. -/
  | ldB (t : Tid) (rd : RIdx) (cs : PIdx) (m : MForm)
  /-- LD_BU (R45): Loads a zero-extended byte through a capability. -/
  | ldBu (t : Tid) (rd : RIdx) (cs : PIdx) (m : MForm)
  /-- LD_H (R45): Loads a sign-extended halfword. -/
  | ldH (t : Tid) (rd : RIdx) (cs : PIdx) (m : MForm)
  /-- LD_HU (R45): Loads a zero-extended halfword. -/
  | ldHu (t : Tid) (rd : RIdx) (cs : PIdx) (m : MForm)
  /-- LD_W (R45): Loads a sign-extended word. -/
  | ldW (t : Tid) (rd : RIdx) (cs : PIdx) (m : MForm)
  /-- LD_WU (R45): Loads a zero-extended word. -/
  | ldWu (t : Tid) (rd : RIdx) (cs : PIdx) (m : MForm)
  /-- LD_D (R45): Loads a doubleword tagged INT. -/
  | ldD (t : Tid) (rd : RIdx) (cs : PIdx) (m : MForm)
  /-- LD_F (R46): Loads a doubleword tagged FLT. -/
  | ldF (t : Tid) (rd : RIdx) (cs : PIdx) (m : MForm)
  /-- LDC (R47): Loads 16 bytes as a capability pair when the tag bit is set and LDCAP held, otherwise two INTs. -/
  | ldc (t : Tid) (rd : RIdx) (cs : PIdx) (m : MForm)
  /-- ST_B (R45): Stores a byte and clears the granule tag bit. -/
  | stB (t : Tid) (rs : RIdx) (cs : PIdx) (m : MForm)
  /-- ST_H (R45): Stores a halfword and clears the granule tag bit. -/
  | stH (t : Tid) (rs : RIdx) (cs : PIdx) (m : MForm)
  /-- ST_W (R45): Stores a word and clears the granule tag bit. -/
  | stW (t : Tid) (rs : RIdx) (cs : PIdx) (m : MForm)
  /-- ST_D (R45): Stores a doubleword and clears the granule tag bit. -/
  | stD (t : Tid) (rs : RIdx) (cs : PIdx) (m : MForm)
  /-- STC (R47): Stores a capability pair and sets the tag bit, or two data words. -/
  | stc (t : Tid) (rs : RIdx) (cs : PIdx) (m : MForm)
  /-- SCAN_EQ_D (R49): Compares 8-byte words with rs for equality, unprefixed or under REP or REPN. -/
  | scanEqD (t : Tid) (rd : RIdx) (cs : PIdx) (a : AForm)
  /-- SCAN_NE_D (R49): Compares 8-byte words with rs for inequality. -/
  | scanNeD (t : Tid) (rd : RIdx) (cs : PIdx) (a : AForm)
  /-- SCAN_EQ_W (R49): Compares 4-byte words with rs[31:0] for equality. -/
  | scanEqW (t : Tid) (rd : RIdx) (cs : PIdx) (a : AForm)
  /-- SCAN_NE_W (R49): Compares 4-byte words with rs[31:0] for inequality. -/
  | scanNeW (t : Tid) (rd : RIdx) (cs : PIdx) (a : AForm)
  /-- AMOADD (R48): Atomic add at the slice, old value to rd. -/
  | amoadd (t : Tid) (rd : RIdx) (cs : PIdx) (a : AForm)
  /-- AMOAND (R48): Atomic AND at the slice, old value to rd. -/
  | amoand (t : Tid) (rd : RIdx) (cs : PIdx) (a : AForm)
  /-- AMOOR (R48): Atomic OR at the slice, old value to rd. -/
  | amoor (t : Tid) (rd : RIdx) (cs : PIdx) (a : AForm)
  /-- AMOXOR (R48): Atomic XOR at the slice, old value to rd. -/
  | amoxor (t : Tid) (rd : RIdx) (cs : PIdx) (a : AForm)
  /-- AMOSWAP (R48): Atomic swap at the slice, old value to rd. -/
  | amoswap (t : Tid) (rd : RIdx) (cs : PIdx) (a : AForm)
  /-- AMOCAS (R48): Atomic compare-and-swap against the prior rd. -/
  | amocas (t : Tid) (rd : RIdx) (cs : PIdx) (a : AForm)
  /-- AMOMIN (R48): Atomic signed minimum at the slice. -/
  | amomin (t : Tid) (rd : RIdx) (cs : PIdx) (a : AForm)
  /-- AMOMAX (R48): Atomic signed maximum at the slice. -/
  | amomax (t : Tid) (rd : RIdx) (cs : PIdx) (a : AForm)
  /-- BZ (R42): Branches PC-relative when the condition register is zero. -/
  | bz (t : Tid) (rs : RIdx) (off : BForm)
  /-- BNZ (R42): Branches PC-relative when the condition register is non-zero. -/
  | bnz (t : Tid) (rs : RIdx) (off : BForm)
  /-- J (R43): Unconditional PC-relative jump. -/
  | j (t : Tid) (off : JForm)
  /-- CALL (R52): Pushes a KIND 0x01 return record and jumps PC-relative. -/
  | call (t : Tid) (off : JForm)
  /-- JR (R43): Jumps to the address in rs1. -/
  | jr (t : Tid) (rs1 : RIdx)
  /-- CALLR (R52): Pushes a return record and jumps to the address in rs1. -/
  | callr (t : Tid) (rs1 : RIdx)
  /-- CALLC (R53): Calls through a code capability, or enters a gate with a KIND 0x03 record. -/
  | callc (t : Tid) (cs : PIdx) (m : CallForm)
  /-- RET (R52): Pops a return record, restores PCC and PC, and clears c13 for a gate return. -/
  | ret (t : Tid)
  /-- PUSH (R54): Stores rs at g29 - 8 through c15 and decrements g29. -/
  | push (t : Tid) (rs1 : RIdx)
  /-- POP (R54): Loads from g29 through c15 and increments g29. -/
  | pop (t : Tid) (rd : RIdx)
  /-- PUSHC (R54): Stores a pair through c15 and decrements g29 by 16. -/
  | pushc (t : Tid) (rs1 : RIdx)
  /-- SV_VADD (R55): Short-vector lane add. -/
  | svVadd (t : Tid) (rd rs1 rs2 : RIdx) (lanes : Fin 4)
  /-- SV_VSUB (R55): Short-vector lane subtract. -/
  | svVsub (t : Tid) (rd rs1 rs2 : RIdx) (lanes : Fin 4)
  /-- SV_VMUL (R55): Short-vector lane multiply, low half. -/
  | svVmul (t : Tid) (rd rs1 rs2 : RIdx) (lanes : Fin 4)
  /-- SV_VMIN (R55): Short-vector signed lane minimum. -/
  | svVmin (t : Tid) (rd rs1 rs2 : RIdx) (lanes : Fin 4)
  /-- SV_VMAX (R55): Short-vector signed lane maximum. -/
  | svVmax (t : Tid) (rd rs1 rs2 : RIdx) (lanes : Fin 4)
  /-- SV_VMINU (R55): Short-vector unsigned lane minimum. -/
  | svVminu (t : Tid) (rd rs1 rs2 : RIdx) (lanes : Fin 4)
  /-- SV_VMAXU (R55): Short-vector unsigned lane maximum. -/
  | svVmaxu (t : Tid) (rd rs1 rs2 : RIdx) (lanes : Fin 4)
  /-- SV_VAND (R55): Short-vector bitwise AND. -/
  | svVand (t : Tid) (rd rs1 rs2 : RIdx) (lanes : Fin 4)
  /-- SV_VOR (R55): Short-vector bitwise OR. -/
  | svVor (t : Tid) (rd rs1 rs2 : RIdx) (lanes : Fin 4)
  /-- SV_VXOR (R55): Short-vector bitwise XOR. -/
  | svVxor (t : Tid) (rd rs1 rs2 : RIdx) (lanes : Fin 4)
  /-- SV_VSLL (R55): Short-vector per-lane shift left. -/
  | svVsll (t : Tid) (rd rs1 rs2 : RIdx) (lanes : Fin 4)
  /-- SV_VSRL (R55): Short-vector per-lane logical shift right. -/
  | svVsrl (t : Tid) (rd rs1 rs2 : RIdx) (lanes : Fin 4)
  /-- SV_VSRA (R55): Short-vector per-lane arithmetic shift right. -/
  | svVsra (t : Tid) (rd rs1 rs2 : RIdx) (lanes : Fin 4)
  /-- SV_VCMPEQ (R55): Short-vector lane equality mask. -/
  | svVcmpeq (t : Tid) (rd rs1 rs2 : RIdx) (lanes : Fin 4)
  /-- SV_VCMPLT (R55): Short-vector lane less-than mask. -/
  | svVcmplt (t : Tid) (rd rs1 rs2 : RIdx) (lanes : Fin 4)
  /-- SV_VSADD (R55): Short-vector signed saturating add. -/
  | svVsadd (t : Tid) (rd rs1 rs2 : RIdx) (lanes : Fin 4)
  /-- SV_VDOT4 (R55): Short-vector signed 8-bit dot products accumulated into 32-bit lanes. -/
  | svVdot4 (t : Tid) (rd rs1 rs2 : RIdx)
  /-- SV_VFADD (R57): Short-vector floating add per lane. -/
  | svVfadd (t : Tid) (rd rs1 rs2 : RIdx) (lanes : SvLanes)
  /-- SV_VFSUB (R57): Short-vector floating subtract per lane. -/
  | svVfsub (t : Tid) (rd rs1 rs2 : RIdx) (lanes : SvLanes)
  /-- SV_VFMUL (R57): Short-vector floating multiply per lane. -/
  | svVfmul (t : Tid) (rd rs1 rs2 : RIdx) (lanes : SvLanes)
  /-- SV_VFMIN (R57): Short-vector floating minimum per lane. -/
  | svVfmin (t : Tid) (rd rs1 rs2 : RIdx) (lanes : SvLanes)
  /-- SV_VFMAX (R57): Short-vector floating maximum per lane. -/
  | svVfmax (t : Tid) (rd rs1 rs2 : RIdx) (lanes : SvLanes)
  /-- SV_FMA (R57): Short-vector fused multiply-add per lane with the op of FMA. -/
  | svFma (t : Tid) (rd rs1 rs2 rs3 : RIdx) (op : Fin 4) (lanes : SvLanes)
  /-- SV_VBCAST (R57): Broadcasts a scalar to every 64-bit lane of a pair. -/
  | svVbcast (t : Tid) (rd rs1 : RIdx)
  /-- SV_VSHUF (R55): Selects bytes of rs1 by byte indices in rs2. -/
  | svVshuf (t : Tid) (rd rs1 rs2 : RIdx)
  /-- SV_VEXT (R57): Extracts a 64-bit lane to a scalar INT. -/
  | svVext (t : Tid) (rd rs1 rs2 : RIdx)
  /-- SV_VINS (R57): Inserts a scalar into a 64-bit lane of rd. -/
  | svVins (t : Tid) (rd rs2 : RIdx) (lane : Fin 2)
  /-- SV_LD (R55): Loads 16 aligned bytes into a register pair. -/
  | svLd (t : Tid) (rd : RIdx) (cs : PIdx) (m : MForm)
  /-- SV_ST (R55): Stores a register pair to 16 aligned bytes. -/
  | svSt (t : Tid) (rs : RIdx) (cs : PIdx) (m : MForm)
  /-- FENCE_ACQ (R294): Invalidates every clean sector of the core's L1. -/
  | fenceAcq (t : Tid)
  /-- FENCE_REL (R294): Writes back every dirty byte of the L1 and waits for slice acceptance. -/
  | fenceRel (t : Tid)
  /-- FENCE_AR (R294): FENCE.REL followed by FENCE.ACQ. -/
  | fenceAr (t : Tid)
  /-- FENCE_I (R50): Invalidates the core's L1 instruction cache. -/
  | fenceI (t : Tid)
  /-- REP (R61): Runs the next store, SV.ST, SCAN or repeatable vector store a counted number of times, resumable at iteration boundaries. -/
  | rep (t : Tid) (rn : RIdx) (stride : BitVec 20) (body : RepBody) (lim : Option Nat)
  /-- REPN (R62): Counted repeat of up to 64 iterations with ordinary interrupts deferred. -/
  | repn (t : Tid) (rn : RIdx) (stride : BitVec 20) (body : RepBody) (lim : Option Nat)
  /-- ENGINE_QUEUE_ENQUEUE (R66): An engine instruction waiting on a full command queue is enqueued and receives its handle. -/
  | engineQueueEnqueue (t : Tid)
  /-- CGET_BASE (R75): Reads BASE of a capability into an INT. -/
  | cgetBase (t : Tid) (rd rs1 : RIdx)
  /-- CGET_LEN (R75): Reads the length of a capability into an INT. -/
  | cgetLen (t : Tid) (rd rs1 : RIdx)
  /-- CGET_PERM (R75): Reads PERMS of a capability into an INT. -/
  | cgetPerm (t : Tid) (rd rs1 : RIdx)
  /-- CGET_TEN (R75): Reads DEV and TENANCY of a capability into an INT. -/
  | cgetTen (t : Tid) (rd rs1 : RIdx)
  /-- CGET_TYPE (R75): Reads OTYPE of a capability into an INT. -/
  | cgetType (t : Tid) (rd rs1 : RIdx)
  /-- CGET_QUANT (R75): Gives the representable length quantum for a length. -/
  | cgetQuant (t : Tid) (rd rs1 : RIdx)
  /-- CSET_OFF (R77): Raises BASE and shortens length by rs2, never widening. -/
  | csetOff (t : Tid) (rd rs1 rs2 : RIdx)
  /-- CSET_LEN (R77): Sets a capability's length to rs2, never widening. -/
  | csetLen (t : Tid) (rd rs1 rs2 : RIdx)
  /-- CAND_PERM (R75): ANDs PERMS with a mask. -/
  | candPerm (t : Tid) (rd rs1 rs2 : RIdx)
  /-- CSET_TEN (R77): At L2, turns a DEV capability into a tenancy capability. -/
  | csetTen (t : Tid) (rd rs1 rs2 : RIdx)
  /-- CSEAL (R77): Seals a capability with a software object type. -/
  | cseal (t : Tid) (rd rs1 rs2 : RIdx)
  /-- CGATE (R78): Makes a 48-byte gate sealed with OTYPE 0xF01. -/
  | cgate (t : Tid) (rd rs1 : RIdx)
  /-- CUNSEAL (R77): Unseals a capability with an UNSEAL authority. -/
  | cunseal (t : Tid) (rd rs1 rs2 : RIdx)
  /-- CMOVE (R75): Copies a capability pair with its tags. -/
  | cmove (t : Tid) (rd rs1 : RIdx)
  /-- CTEST (R75): Writes BOOL 1 when a pair is a capability. -/
  | ctest (t : Tid) (rd rs1 : RIdx)
  /-- CTEST_SUB (R75): Writes BOOL 1 when rs2 could be derived from rs1. -/
  | ctestSub (t : Tid) (rd rs1 rs2 : RIdx)
  /-- SYSRD (R86): Reads a single system register. -/
  | sysrd (t : Tid) (rd : RIdx) (sysreg : BitVec 12)
  /-- SYSWR (R86): Writes a single system register. -/
  | syswr (t : Tid) (rs1 : RIdx) (sysreg : BitVec 12)
  /-- SYSRDC (R86): Reads a pair system register. -/
  | sysrdc (t : Tid) (rd : RIdx) (sysreg : BitVec 12)
  /-- SYSWRC (R86): Writes a pair system register. -/
  | syswrc (t : Tid) (rs1 : RIdx) (sysreg : BitVec 12)
  /-- ERET (R99): Restores state from the current save set and returns to PREV_LEVEL. -/
  | eret (t : Tid)
  /-- SVCLR (R100): Clears LIVE in the current level's save set. -/
  | svclr (t : Tid)
  /-- SVSET (R100): Sets LIVE in the current level's save set. -/
  | svset (t : Tid)
  /-- INTERRUPT_ENTRY (R101): A pending enabled interrupt is accepted at a boundary and entered. -/
  | interruptEntry (t : Tid)
  /-- NMI (R102): An NMI is delivered to its threads and entered at L2 or held while SV2 is LIVE. -/
  | nmi (target : NmiTarget)
  /-- NMI_HOLD_EXPIRY (R102): An NMI held 4,096 cycles with SV2 still LIVE ends at L3 with SV3 written. -/
  | nmiHoldExpiry (t : Tid)
  /-- LOCAL_TIMER (R599): TIMER_NOW reaching TIMER_CMP makes vector 56 pending. -/
  | localTimer (t : Tid)
  /-- TASK_NEW (R115): Creates a task from a 128-byte descriptor. -/
  | taskNew (t : Tid) (rd : RIdx) (cs : PIdx) (rx : RIdx)
  /-- TASK_CUE (R113): Decrements a task's cue counter. -/
  | taskCue (t : Tid) (rd : RIdx) (cs : PIdx) (rs : RIdx)
  /-- TASK_DONE (R114): Ends the task: writes back L1, releases the tile group, signals successors. -/
  | taskDone (t : Tid)
  /-- TASK_BIND (R115): Binds a core group to a core mask. -/
  | taskBind (t : Tid) (rd : RIdx) (cs : PIdx) (rx rs : RIdx)
  /-- TASK_EPOCH (R115): Creates a speculation epoch. -/
  | taskEpoch (t : Tid) (rd : RIdx) (cs : PIdx) (rs : RIdx)
  /-- EPOCH_SLOT_WAIT_END (R115): A TASK.EPOCH waiting for a freed epoch slot receives it. -/
  | epochSlotWaitEnd (t : Tid)
  /-- TASK_COMMIT (R134): Commits an epoch, making its overlay architectural and flipping its paired pages. -/
  | taskCommit (t : Tid) (rd : RIdx) (cs : PIdx) (rs : RIdx)
  /-- TASK_DISCARD (R134): Discards an epoch, dropping its overlay and stopping its tasks. -/
  | taskDiscard (t : Tid) (rd : RIdx) (cs : PIdx) (rs : RIdx)
  /-- TASK_STATE (R116): Returns the state code of a task or epoch. -/
  | taskState (t : Tid) (rd : RIdx) (rs : RIdx)
  /-- TASK_SIG (R117): Raises a Chanter signal vector on a task's thread. -/
  | taskSig (t : Tid) (rd : RIdx) (cs : PIdx) (rx rs : RIdx)
  /-- TASK_ABORT (R131): Aborts a task. -/
  | taskAbort (t : Tid) (rd : RIdx) (cs : PIdx) (rs : RIdx)
  /-- TASK_DISPATCH (R119): The Chanter loads a dispatchable task into an EMPTY thread of a chosen core. -/
  | taskDispatch (quarter : Fin 4) (core : CoreId) (t : Tid)
  /-- EPOCH_RESOLUTION_COMPLETE (R116): Background conversion of an epoch's overlay finishes and its slot is freed. -/
  | epochResolutionComplete (ten : Fin 16) (slot : Fin 64)
  /-- SPEC_STORE_RELEASE (R135): A speculative store waiting on overlay quota proceeds or stops when its epoch resolves. -/
  | specStoreRelease (t : Tid)
  /-- HELD_COMMAND_RELEASE (R133): An engine command held for its epoch runs on commit or completes ABORTED on discard. -/
  | heldCommandRelease (cmd : Nat)
  /-- CH_OPEN (R123): Opens a hand-off channel with slots in the consumer's L1. -/
  | chOpen (t : Tid) (rd : RIdx) (cs : PIdx) (rs : RIdx)
  /-- CH_SEND (R124): Copies a tile's rows into the next free slot of a channel. -/
  | chSend (t : Tid) (rd : RIdx) (cs : PIdx) (rx rs : RIdx)
  /-- CH_RECV (R124): Copies the oldest full slot into a tile and frees the slot. -/
  | chRecv (t : Tid) (rd : RIdx) (cs : PIdx) (rx rs : RIdx)
  /-- CHANNEL_SLOT_READY (R124): A CH.SEND or CH.RECV waiting for a slot proceeds. -/
  | channelSlotReady (t : Tid)
  /-- HANDOFF_BLOCK_ARRIVAL (R113): A sent block lands in its slot and decrements the bound task's cue counter. -/
  | handoffBlockArrival (chan : Nat)
  /-- CH_CUE (R123): Binds a channel to a task for cue decrements. -/
  | chCue (t : Tid) (rd : RIdx) (cs : PIdx) (rx rs : RIdx)
  /-- CH_CLOSE (R123): Frees a channel once sent blocks are received. -/
  | chClose (t : Tid) (rd : RIdx) (cs : PIdx) (rs : RIdx)
  /-- CH_SOPEN (R379): Opens the sending or receiving end of a stream channel. -/
  | chSopen (t : Tid) (rd : RIdx) (cs : PIdx) (rs : RIdx)
  /-- CH_SSEND (R382): Sends a memory range as one stream block on credit. -/
  | chSsend (t : Tid) (rd : RIdx) (cs : PIdx) (rx rs : RIdx) (lim : Option Nat)
  /-- LV_WAKE_COMPLETE (R143): A long-vector unit finishes its 2,048-cycle wake and waiting instructions issue. -/
  | lvWakeComplete (core : CoreId)
  /-- LV_POWER_DOWN (R142): A long-vector unit idle for LV_IDLE_CYCLES goes DOWN. -/
  | lvPowerDown (core : CoreId)
  /-- VADD (R148): Long-vector wrapping lane add. -/
  | vadd (t : Tid) (vd vs1 vs2 : RIdx) (lanes : Fin 4)
  /-- VSUB (R148): Long-vector wrapping lane subtract. -/
  | vsub (t : Tid) (vd vs1 vs2 : RIdx) (lanes : Fin 4)
  /-- VMUL (R148): Long-vector lane multiply, low half. -/
  | vmul (t : Tid) (vd vs1 vs2 : RIdx) (lanes : Fin 4)
  /-- VMIN (R148): Long-vector signed lane minimum. -/
  | vmin (t : Tid) (vd vs1 vs2 : RIdx) (lanes : Fin 4)
  /-- VMAX (R148): Long-vector signed lane maximum. -/
  | vmax (t : Tid) (vd vs1 vs2 : RIdx) (lanes : Fin 4)
  /-- VMINU (R148): Long-vector unsigned lane minimum. -/
  | vminu (t : Tid) (vd vs1 vs2 : RIdx) (lanes : Fin 4)
  /-- VMAXU (R148): Long-vector unsigned lane maximum. -/
  | vmaxu (t : Tid) (vd vs1 vs2 : RIdx) (lanes : Fin 4)
  /-- VAND (R148): Long-vector bitwise AND. -/
  | vand (t : Tid) (vd vs1 vs2 : RIdx) (lanes : Fin 4)
  /-- VOR (R148): Long-vector bitwise OR. -/
  | vor (t : Tid) (vd vs1 vs2 : RIdx) (lanes : Fin 4)
  /-- VXOR (R148): Long-vector bitwise XOR. -/
  | vxor (t : Tid) (vd vs1 vs2 : RIdx) (lanes : Fin 4)
  /-- VSLL (R148): Long-vector per-lane shift left. -/
  | vsll (t : Tid) (vd vs1 vs2 : RIdx) (lanes : Fin 4)
  /-- VSRL (R148): Long-vector per-lane logical shift right. -/
  | vsrl (t : Tid) (vd vs1 vs2 : RIdx) (lanes : Fin 4)
  /-- VSRA (R148): Long-vector per-lane arithmetic shift right. -/
  | vsra (t : Tid) (vd vs1 vs2 : RIdx) (lanes : Fin 4)
  /-- VCMPEQ (R148): Long-vector lane equality mask. -/
  | vcmpeq (t : Tid) (vd vs1 vs2 : RIdx) (lanes : Fin 4)
  /-- VCMPLT (R148): Long-vector lane less-than mask. -/
  | vcmplt (t : Tid) (vd vs1 vs2 : RIdx) (lanes : Fin 4)
  /-- VSEL (R148): Long-vector bitwise select under vd. -/
  | vsel (t : Tid) (vd vs1 vs2 : RIdx) (lanes : Fin 4)
  /-- VSADD (R148): Long-vector signed saturating add. -/
  | vsadd (t : Tid) (vd vs1 vs2 : RIdx) (lanes : Fin 4)
  /-- VFADD (R149): Long-vector floating add, one rounding. -/
  | vfadd (t : Tid) (vd vs1 vs2 : RIdx) (lanes : Fin 4)
  /-- VFSUB (R149): Long-vector floating subtract. -/
  | vfsub (t : Tid) (vd vs1 vs2 : RIdx) (lanes : Fin 4)
  /-- VFMUL (R149): Long-vector floating multiply. -/
  | vfmul (t : Tid) (vd vs1 vs2 : RIdx) (lanes : Fin 4)
  /-- VFDIV (R149): Long-vector floating divide. -/
  | vfdiv (t : Tid) (vd vs1 vs2 : RIdx) (lanes : Fin 4)
  /-- VFSQRT (R149): Long-vector floating square root. -/
  | vfsqrt (t : Tid) (vd vs1 : RIdx) (lanes : Fin 4)
  /-- VFMIN (R148): Long-vector floating minimum. -/
  | vfmin (t : Tid) (vd vs1 vs2 : RIdx) (lanes : Fin 4)
  /-- VFMAX (R148): Long-vector floating maximum. -/
  | vfmax (t : Tid) (vd vs1 vs2 : RIdx) (lanes : Fin 4)
  /-- VFCMPLT (R148): Long-vector floating less-than mask. -/
  | vfcmplt (t : Tid) (vd vs1 vs2 : RIdx) (lanes : Fin 4)
  /-- VFCMPEQ (R148): Long-vector floating equality mask. -/
  | vfcmpeq (t : Tid) (vd vs1 vs2 : RIdx) (lanes : Fin 4)
  /-- VFEXP (R150): Correctly rounded FP32 e^x per lane. -/
  | vfexp (t : Tid) (vd vs1 : RIdx) (lanes : Fin 4)
  /-- VFLN (R150): Correctly rounded FP32 natural log per lane. -/
  | vfln (t : Tid) (vd vs1 : RIdx) (lanes : Fin 4)
  /-- VFMADD (R148): Long-vector fused vs1 x vs2 + vd. -/
  | vfmadd (t : Tid) (vd vs1 vs2 : RIdx) (lanes : Fin 4)
  /-- VFMSUB (R148): Long-vector fused vs1 x vs2 - vd. -/
  | vfmsub (t : Tid) (vd vs1 vs2 : RIdx) (lanes : Fin 4)
  /-- VFNMADD (R148): Long-vector fused -(vs1 x vs2) - vd. -/
  | vfnmadd (t : Tid) (vd vs1 vs2 : RIdx) (lanes : Fin 4)
  /-- VFNMSUB (R148): Long-vector fused -(vs1 x vs2) + vd. -/
  | vfnmsub (t : Tid) (vd vs1 vs2 : RIdx) (lanes : Fin 4)
  /-- VWMUL_LO (R151): INT8 lanes 0-255 widened to INT16 products. -/
  | vwmulLo (t : Tid) (vd vs1 vs2 : RIdx)
  /-- VWMUL_HI (R151): INT8 lanes 256-511 widened to INT16 products. -/
  | vwmulHi (t : Tid) (vd vs1 vs2 : RIdx)
  /-- VWMUL16_LO (R151): INT16 lanes 0-127 widened to INT32 products. -/
  | vwmul16Lo (t : Tid) (vd vs1 vs2 : RIdx)
  /-- VWMUL16_HI (R151): INT16 lanes 128-255 widened to INT32 products. -/
  | vwmul16Hi (t : Tid) (vd vs1 vs2 : RIdx)
  /-- VWFMUL_LO (R151): 16-bit float lanes 0-127 multiplied into FP32. -/
  | vwfmulLo (t : Tid) (vd vs1 vs2 : RIdx) (lanes : Fin 4)
  /-- VWFMUL_HI (R151): 16-bit float lanes 128-255 multiplied into FP32. -/
  | vwfmulHi (t : Tid) (vd vs1 vs2 : RIdx) (lanes : Fin 4)
  /-- VDOT4_I8 (R151): INT8 dot products of four accumulated into 32-bit lanes. -/
  | vdot4I8 (t : Tid) (vd vs1 vs2 : RIdx)
  /-- VDOT2_F16 (R151): 16-bit float pair dot products accumulated into FP32. -/
  | vdot2F16 (t : Tid) (vd vs1 vs2 : RIdx) (lanes : Fin 4)
  /-- VDOT4_F8 (R151): FP8 dot products of four in fixed order accumulated into FP32. -/
  | vdot4F8 (t : Tid) (vd vs1 vs2 : RIdx) (lanes : Fin 4)
  /-- VCVT_NARROW (R209): VCVT func 0 converts FP32 lanes into the descriptor's narrow format with scale and retry. -/
  | vcvtNarrow (t : Tid) (vd vs1 rs2 : RIdx)
  /-- VCVT_WIDEN (R209): VCVT func 1 decodes narrow elements into FP32 lanes. -/
  | vcvtWiden (t : Tid) (vd vs1 rs2 : RIdx)
  /-- VZERO (R153): Clears a vector register and its poison. -/
  | vzero (t : Tid) (vd : RIdx)
  /-- VCOPY (R153): Copies a vector register with poison bits. -/
  | vcopy (t : Tid) (vd vs1 : RIdx)
  /-- VBCAST_D (R153): Broadcasts a general register to every 64-bit lane. -/
  | vbcastD (t : Tid) (vd rs : RIdx)
  /-- VBCAST_W (R153): Broadcasts rs[31:0] to every 32-bit lane. -/
  | vbcastW (t : Tid) (vd rs : RIdx)
  /-- VEXT_W (R153): Extracts a 32-bit lane to a general register. -/
  | vextW (t : Tid) (rd vs1 rs2 : RIdx)
  /-- VEXT_D (R153): Extracts a 64-bit lane to a general register. -/
  | vextD (t : Tid) (rd vs1 rs2 : RIdx)
  /-- VINS_W (R153): Inserts rs[31:0] into a 32-bit lane. -/
  | vinsW (t : Tid) (vd rs rs2 : RIdx)
  /-- VINS_D (R153): Inserts rs into a 64-bit lane. -/
  | vinsD (t : Tid) (vd rs rs2 : RIdx)
  /-- VMOVS (R153): Moves a short-vector pair into a 128-bit slot of vd. -/
  | vmovs (t : Tid) (vd rs rs2 : RIdx)
  /-- VMOVL (R153): Moves a 128-bit slot of vs1 to a register pair. -/
  | vmovl (t : Tid) (rd vs1 rs2 : RIdx)
  /-- VLD_A (R155): Aligned vector load of rl bytes, clearing the rest. -/
  | vldA (t : Tid) (vd : RIdx) (cs : PIdx) (m : VMForm)
  /-- VLD_U (R155): Unaligned vector load of rl bytes. -/
  | vldU (t : Tid) (vd : RIdx) (cs : PIdx) (m : VMForm)
  /-- VST_A (R155): Aligned vector store of rl bytes, all or none. -/
  | vstA (t : Tid) (vs : RIdx) (cs : PIdx) (m : VMForm)
  /-- VST_U (R155): Unaligned vector store of rl bytes, all or none. -/
  | vstU (t : Tid) (vs : RIdx) (cs : PIdx) (m : VMForm)
  /-- VNORM_SUM (R160): Fixed-order sum of n elements into lane 127, resumable per block. -/
  | vnormSum (t : Tid) (vd : RIdx) (cs : PIdx) (m : VMForm) (fmt : BitVec 4) (lim : Option Nat)
  /-- VNORM_SSQ (R160): Fixed-order sum of squares of n elements. -/
  | vnormSsq (t : Tid) (vd : RIdx) (cs : PIdx) (m : VMForm) (fmt : BitVec 4) (lim : Option Nat)
  /-- VNORM_SCALE (R158): Scales each element by m in place. -/
  | vnormScale (t : Tid) (vd : RIdx) (cs : PIdx) (m : VMForm) (fmt : BitVec 4) (lim : Option Nat)
  /-- VSMAX_MAX (R159): Maximum of n elements into lane 127. -/
  | vsmaxMax (t : Tid) (vd : RIdx) (cs : PIdx) (m : VMForm) (fmt : BitVec 4) (lim : Option Nat)
  /-- VSMAX_SUM (R160): Fixed-order sum of exp(x - m). -/
  | vsmaxSum (t : Tid) (vd : RIdx) (cs : PIdx) (m : VMForm) (fmt : BitVec 4) (lim : Option Nat)
  /-- VSMAX_NORM (R158): Writes exp(x - m) / s in place. -/
  | vsmaxNorm (t : Tid) (vd : RIdx) (cs : PIdx) (m : VMForm) (fmt : BitVec 4) (lim : Option Nat)
  /-- VLOSS_XENT (R159): Computes the cross-entropy (ln s + m) - x_t. -/
  | vlossXent (t : Tid) (vd : RIdx) (cs : PIdx) (m : VMForm) (fmt : BitVec 4)
  /-- VLOSS_GRAD (R158): Writes softmax minus one-hot gradient in place. -/
  | vlossGrad (t : Tid) (vd : RIdx) (cs : PIdx) (m : VMForm) (fmt : BitVec 4) (lim : Option Nat)
  /-- TCFG (R172): Requests a tile group and partition from a configuration block. -/
  | tcfg (t : Tid) (rd : RIdx) (cs : PIdx) (rx : RIdx)
  /-- TILE_GROUP_GRANT (R128): A waiting TCFG request is granted oldest first, writing handle and member map. -/
  | tileGroupGrant (t : Tid)
  /-- TREL (R174): Releases the thread's group and partition. -/
  | trel (t : Tid)
  /-- TSHAPE (R175): Sets a member's shape and clears its bitmap. -/
  | tshape (t : Tid) (rs : RIdx)
  /-- TVALID (R175): Reads a member's row-valid bitmap into a pair. -/
  | tvalid (t : Tid) (rd rs : RIdx)
  /-- TMASK (R193): Sets the partition's row mask from a pair. -/
  | tmask (t : Tid) (rs : RIdx)
  /-- TLD (R177): Loads every not-yet-valid row of a member. -/
  | tld (t : Tid) (td : MIdx) (cs : PIdx) (m : TMForm) (lim : Option Nat)
  /-- TLD_ALL (R178): Clears the bitmap and loads every row from PROG upward. -/
  | tldAll (t : Tid) (td : MIdx) (cs : PIdx) (m : TMForm) (lim : Option Nat)
  /-- TST (R179): Stores the valid rows of a member from PROG upward. -/
  | tst (t : Tid) (td : MIdx) (cs : PIdx) (m : TMForm) (lim : Option Nat)
  /-- TMMA (R197): Queues a matrix pass of A times B into a bank. -/
  | tmma (t : Tid) (ta tb : MIdx) (bank : Fin 2) (rfa rfb : RIdx)
  /-- TMMA_QUEUE_ACCEPT (R197): A TMMA waiting on a full partition queue is accepted. -/
  | tmmaQueueAccept (t : Tid)
  /-- TMMA_PASS_START (R195): A queued pass starts feeding its partition. -/
  | tmmaPassStart (core : CoreId) (part : Fin 4)
  /-- TMMA_PASS_COMPLETE (R194): A pass completes its last row in the bank. -/
  | tmmaPassComplete (core : CoreId) (part : Fin 4)
  /-- TMMA_CVT (R200): Performs a pass then converts the bank rows into D members. -/
  | tmmaCvt (t : Tid) (td ta tb : MIdx) (bank : Fin 2) (rfa rfb rfd : RIdx)
  /-- TMMA_CVT_F (R201): Fused pass with per-row conversion and recompute on retry. -/
  | tmmaCvtF (t : Tid) (td ta tb : MIdx) (bank : Fin 2) (rfa rfb rfd : RIdx)
  /-- TZ (R198): Queues zero-flagging of a bank. -/
  | tz (t : Tid) (bank : Fin 2)
  /-- TZ_TURN (R198): A queued TZ reaches its turn and zero-flags the bank. -/
  | tzTurn (core : CoreId) (part : Fin 4)
  /-- TRDA_RAW (R199): Copies a bank rectangle raw into a member. -/
  | trdaRaw (t : Tid) (td : MIdx) (bank : Fin 2) (roff : RIdx)
  /-- TRDA_CVT (R199): Converts a bank rectangle into a member under a descriptor. -/
  | trdaCvt (t : Tid) (td : MIdx) (bank : Fin 2) (rfd roff : RIdx)
  /-- PARTITION_DRAIN_COMPLETE (R204): A stopped partition's drain ends and it and its registers are freed. -/
  | partitionDrainComplete (core : CoreId) (part : Fin 4)
  /-- TOUCH_FILL_COMPLETE (R254): The zero-fill finishes, the entry becomes LOCAL and waiting accesses resume. -/
  | touchFillComplete (space : Fin 17) (page : Nat)
  /-- REMOTE_FETCH_FILLED (R260): A shadow frame's last byte arrives and waiting accesses proceed. -/
  | remoteFetchFilled (space : Fin 17) (page : Nat)
  /-- REMOTE_FETCH_TIMEOUT (R259): An unanswered fetch faults with REASON 0xA after the timeout. -/
  | remoteFetchTimeout (space : Fin 17) (page : Nat)
  /-- GE_SCHED (R268): Runs a gather schedule list. -/
  | geSched (t : Tid) (rd : RIdx) (cs : PIdx) (a : CForm)
  /-- GATHER_ENTRY_START (R268): A schedule entry starts once its START task has issued and quota allows. -/
  | gatherEntryStart (cmd : Nat)
  /-- GATHER_ENTRY_FILLED (R268): A schedule entry's pages have arrived and become readable. -/
  | gatherEntryFilled (cmd entry : Nat)
  /-- GE_FETCH (R264): Fetches the REMOTE pages of a range now. -/
  | geFetch (t : Tid) (rd : RIdx) (cs : PIdx) (a : CForm)
  /-- GE_RELEASE (R264): Releases holds on shadow frames of a range. -/
  | geRelease (t : Tid) (rd : RIdx) (cs : PIdx) (a : CForm)
  /-- PG_SET (R265): Sets every page-table entry of a range. -/
  | pgSet (t : Tid) (rd : RIdx) (cs : PIdx) (a : CForm)
  /-- PG_SET_COMPLETE (R252): PG.SET completes once TLBs and engine commands have dropped old translations. -/
  | pgSetComplete (cmd : Nat)
  /-- READ_REQ (R263): A remote read request is served or refused by the pager's frame map. -/
  | readReq (src job frame off len : Nat)
  /-- READ_RSP (R260): A remote read response fills a shadow frame or refuses the fetch. -/
  | readRsp (node job frame off len : Nat) (served : Bool) (data poison : Nat)
  /-- SECTOR_FILL (R281): An HBM sector arrives at a slice and is multicast to its requesters. -/
  | sectorFill (line : Nat) (sector : Fin 4)
  /-- VICTIM_WRITEBACK (R284): A victim buffer's dirty bytes finish writing to HBM. -/
  | victimWriteback (slice : Fin 192)
  /-- REDUCTION_REQUEST (R286): A slice applies a reduction request to a line in accepted order. -/
  | reductionRequest (space : Fin 17) (line : Nat) (op : Fin 3) (fp : Bool) (mask : BitVec 32) (vals : BitVec 1024)
  /-- DISABLE (R307): CACHE_CTL op 1 writes back and disables a slice or L1. -/
  | disable (l1 all : Bool) (number : BitVec 8)
  /-- ENABLE (R308): CACHE_CTL op 2 re-enables a cache with its held lines. -/
  | enable (l1 all : Bool) (number : BitVec 8)
  /-- ENABLE_INV (R308): CACHE_CTL op 3 invalidates then enables a cache. -/
  | enableInv (l1 all : Bool) (number : BitVec 8)
  /-- WINDOW_WRITE (R305): A window record write is checked, demotes its pins and applies to later accesses. -/
  | windowWrite (ten idx : Fin 16) (record : BitVec 256)
  /-- UPDATE (R325): Applies one optimizer step to a parameter range into alternate buffers. -/
  | update (t : Tid) (rd : RIdx) (cs : PIdx) (a : CForm)
  /-- OBOE (R333): Computes y = W x beside memory with fixed-order partial combining. -/
  | oboe (t : Tid) (rd : RIdx) (cs : PIdx) (a : CForm)
  /-- TRANSPOSE (R336): Writes the transpose of a row-major matrix. -/
  | transpose (t : Tid) (rd : RIdx) (cs : PIdx) (a : CForm)
  /-- GATHER (R338): Copies indexed table rows into a dense destination. -/
  | gather (t : Tid) (rd : RIdx) (cs : PIdx) (a : CForm)
  /-- SORTED_GATHER (R339): Gather with requests ordered by HBM bank and row. -/
  | sortedGather (t : Tid) (rd : RIdx) (cs : PIdx) (a : CForm)
  /-- ZERO (R341): Zeroes a range with its tags, poison and code. -/
  | zero (t : Tid) (rd : RIdx) (cs : PIdx) (a : CForm)
  /-- REDUCE_AT_MEMORY (R342): Combines SRC into DST element by element at memory. -/
  | reduceAtMemory (t : Tid) (rd : RIdx) (cs : PIdx) (a : CForm)
  /-- PCODE_SCRUB (R345): Decodes and corrects the code pages of a range. -/
  | pcodeScrub (t : Tid) (rd : RIdx) (cs : PIdx) (a : CForm)
  /-- BELLOWS_COMMAND_COMPLETE (R317): An engine command finishes and writes its completion record. -/
  | bellowsCommandComplete (cmd : Nat)
  /-- PAGE_REENCRYPT (R258): A write to a previous-epoch page waits while the page is re-encrypted, then proceeds. -/
  | pageReencrypt (space : Fin 17) (page : Nat)
  /-- KEY_SWEEP_PAGE (R346): The sweep re-encrypts one page under the current key. -/
  | keySweepPage (space : Fin 17) (page : Nat)
  /-- PORT_TRAINED (R353): Both directions of a port train and it enters HELLO. -/
  | portTrained (p : Fin 16) (tx rx : BitVec 16)
  /-- TRAINING_TIMEOUT (R353): Training not ended within 150 ms starts a fresh attempt. -/
  | trainingTimeout (p : Fin 16)
  /-- BLOCK_LOCK_LOST (R353): Loss of block lock on a lane returns the port to TRAINING. -/
  | blockLockLost (p lane : Fin 16)
  /-- BLOCK_RECEIVE (R356): A received block delivers its header's ACK, NAK and credit and its five flits. -/
  | blockReceive (p : Fin 16) (hdr : BitVec 40) (f0 f1 f2 f3 f4 : BitVec 2048) (badA badB : Bool) (corrected : Fin 3)
  /-- HELLO (R367): A received HELLO is held in NEIGHBOUR and may move the port to KEYING. -/
  | hello (p : Fin 16) (body : BitVec 2016)
  /-- HELLO_TIMER (R368): The HELLO interval expires and a HELLO is sent. -/
  | helloTimer (p : Fin 16)
  /-- KEY_MSG (R484): An OFFER or ACCEPT fragment is received and checked. -/
  | keyMsg (p : Fin 16) (body : BitVec 2016)
  /-- KEYING_TIMEOUT (R484): An exchange not complete within 78.9 ms returns the port to TRAINING. -/
  | keyingTimeout (p : Fin 16)
  /-- KEY_SWITCH (R361): Received key switch makes later packets use the new key epoch. -/
  | keySwitch (p : Fin 16) (epoch : Bool)
  /-- CREDIT_SYNC (R361): Received full credit for each channel on entry to ACTIVE. -/
  | creditSync (p : Fin 16) (credits : BitVec 128)
  /-- REKEY_START (R486): The packet counter reaching 2^39 starts a fresh key exchange. -/
  | rekeyStart (p : Fin 16)
  /-- PACKET_ROUTE (R374): An arriving packet is decrypted and delivered or routed to a port. -/
  | packetRoute (src : Option (Fin 16 × Fin 8))
  /-- ESCAPE_TIMEOUT (R374): No candidate within 512 cycles moves the packet onto escape channels. -/
  | escapeTimeout (src : Option (Fin 16 × Fin 8))
  /-- STR_OPEN (R379): A receiving end answers or refuses a stream open. -/
  | strOpen (src job stream : Nat)
  /-- STR_OPEN_TIMER (R379): The sending end resends STR_OPEN until answered. -/
  | strOpenTimer (stream : Nat)
  /-- STR_CREDIT (R380): Stream credit, refusal or halt arrives at the sending end. -/
  | strCredit (src job stream tspec : Nat)
  /-- STR_DATA (R380): A stream packet is written into its ring slot. -/
  | strData (src job tspec len data : Nat) (last : Bool)
  /-- STREAM_BLOCK_TIMEOUT (R383): An incomplete block past the timeout halts the channel. -/
  | streamBlockTimeout (stream : Nat)
  /-- MGMT_REQ (R557): A Stop Access request carried over the fabric is handled by the Drone. -/
  | mgmtReq (src flags tspec len data : Nat)
  /-- MGMT_RSP (R557): A Stop Access response arrives over the fabric. -/
  | mgmtRsp (src flags tspec len data : Nat)
  /-- CU_GROUP (R387): Defines a reduction group. -/
  | cuGroup (t : Tid) (rd : RIdx) (cs : PIdx) (a : CForm)
  /-- CU_RED (R392): Contributes to one reduction in the fixed tree. -/
  | cuRed (t : Tid) (rd : RIdx) (cs : PIdx) (a : CForm)
  /-- CONTEXT_OPEN (R397): A context opens for an accepted reduction, lowest RID of oldest step first. -/
  | contextOpen (p : Fin 16)
  /-- RED_DATA (R400): A child's chunk arrives and is added in tree order. -/
  | redData (src job tspec len data : Nat)
  /-- GRANT (R398): Parent credit or RESEND request arrives at a child. -/
  | grant (src job tspec : Nat) (resend : Bool)
  /-- DONE (R401): A child's DONE with count and missing roots arrives. -/
  | done (src job tspec count : Nat) (roots : List Nat)
  /-- DROP (R404): A dropped node stops, closes its context and completes DROPPED. -/
  | drop (src job tspec : Nat)
  /-- TORN (R406): A child's TORN tears the reduction at this node. -/
  | torn (src job tspec reason : Nat)
  /-- VOTE (R414): A child's vote total arrives for addition. -/
  | vote (src job tspec total : Nat) (flag : Bool)
  /-- RESULT (R414): The group vote arrives, is passed on, and commits or discards the epoch. -/
  | result (src job tspec total : Nat) (flag : Bool)
  /-- BREADY (R412): A holder's readiness arrives at the owner. -/
  | bready (src job tspec : Nat)
  /-- BABORT (R412): An owner's abort completes the holder's CU.BRECV ABORTED. -/
  | babort (src job tspec : Nat)
  /-- BCAST (R412): A broadcast chunk is written into the holder's alternate buffer. -/
  | bcast (src job tspec len data : Nat)
  /-- RED_DEADLINE_EXPIRY (R403): A child's first-chunk deadline passes and its subtree is dropped and reported. -/
  | redDeadlineExpiry (cmd : Nat) (right : Bool)
  /-- RESEND_TIMEOUT (R405): A stalled child is sent GRANT with RESEND. -/
  | resendTimeout (cmd : Nat) (right : Bool)
  /-- TEAR_TIMEOUT (R406): A second deadline after RESEND tears the reduction. -/
  | tearTimeout (cmd : Nat) (right : Bool)
  /-- GRADIENT_LANDING (R409): A root chunk is delivered to landing areas once space allows. -/
  | gradientLanding (cmd : Nat)
  /-- CU_BCAST (R412): Sends new state to holders. -/
  | cuBcast (t : Tid) (rd : RIdx) (cs : PIdx) (a : CForm)
  /-- CU_BRECV (R412): Declares state expected from an owner and sends BREADY. -/
  | cuBrecv (t : Tid) (rd : RIdx) (cs : PIdx) (a : CForm)
  /-- CU_CHECK (R413): Casts the module's vote in the non-finite check. -/
  | cuCheck (t : Tid) (rd : RIdx) (cs : PIdx) (a : CForm)
  /-- VOTE_TAKEN (R413): The module's vote is taken once its commands complete or the broadcast wait expires. -/
  | voteTaken (cmd : Nat) (expired : Bool)
  /-- VOTE_DEADLINE (R414): A child's VOTE is missing at its deadline and the flag is set. -/
  | voteDeadline (cmd : Nat) (right : Bool)
  /-- SLICE_PATROL (R440): A slice decodes every block once per 2^32 cycles. -/
  | slicePatrol (slice : Fin 192) (failed : Option Nat)
  /-- SN_SET (R454): Replaces the snapshot set and target. -/
  | snSet (t : Tid) (rd : RIdx) (cs : PIdx) (a : CForm)
  /-- SN_POINT (R455): Requests a snapshot at the commit of an epoch. -/
  | snPoint (t : Tid) (rd : RIdx) (cs : PIdx) (a : CForm)
  /-- DRAIN_COMPLETE (R456): The trailer's credit returns and LAST_SNAPSHOT_STEP is set. -/
  | drainComplete (ten : Fin 16)
  /-- MTBF_S_WRITE (R462): A write of MTBF_S recomputes the snapshot interval. -/
  | mtbfSWrite (v : BitVec 32)
  /-- SN_RESTORE (R465): Verifies and writes a snapshot image into current buffers. -/
  | snRestore (t : Tid) (rd : RIdx) (cs : PIdx) (a : CForm)
  /-- SF_BOPEN (R489): Checks a bundle header and unwraps its key into a slot. -/
  | sfBopen (t : Tid) (rd : RIdx) (cs : PIdx) (a : CForm)
  /-- SF_BCHUNK (R490): Decrypts one bundle chunk when its tag verifies. -/
  | sfBchunk (t : Tid) (rd : RIdx) (cs : PIdx) (a : CForm)
  /-- SF_BCLOSE (R490): Compares the payload digest and frees the slot. -/
  | sfBclose (t : Tid) (rd : RIdx) (cs : PIdx) (a : CForm)
  /-- SF_ATTEST (R491): Builds and signs an attestation report. -/
  | sfAttest (t : Tid) (rd : RIdx) (cs : PIdx) (a : CForm)
  /-- SF_ROTATE (R479): Advances a tenancy's key epoch and starts the sweep. -/
  | sfRotate (t : Tid) (rd : RIdx) (cs : PIdx) (a : CForm)
  /-- SF_ERASE (R494): Frees the tenancy's bundle slots and advances its epoch. -/
  | sfErase (t : Tid) (rd : RIdx) (cs : PIdx) (a : CForm)
  /-- KEY_ROTATE (R480): A write of 1 to KEY_ROTATE rotates the tenancy key. -/
  | keyRotate (ten : Fin 16) (v : BitVec 8)
  /-- FUNCTION_ENABLE (R497): Enabling a function creates its tenancy in IDLE. -/
  | functionEnable (fn : Fin 16)
  /-- FUNCTION_DISABLE (R498): Disabling a function stops and scrubs its tenancy to ABSENT. -/
  | functionDisable (fn : Fin 16)
  /-- FUNCTION_LEVEL_RESET (R531): An FLR resets the function's rings and scrubs its tenancy. -/
  | functionLevelReset (fn : Fin 16)
  /-- DRAINING_END (R497): A DRAINING tenancy whose work has finished returns to LOADED. -/
  | drainingEnd (ten : Fin 16)
  /-- SUBMISSION_DOORBELL (R513): A doorbell write advances a submission ring's doorbell value. -/
  | submissionDoorbell (fn : Fin 16) (q : Fin 64) (v : BitVec 32) (tee : Bool)
  /-- SQ_ENTRY_FETCH (R512): The device fetches and accepts the expected entry or posts BAD_SEQ. -/
  | sqEntryFetch (fn : Fin 16) (q : Fin 64) (entry : BitVec 512)
  /-- COMPLETION_HEAD_DOORBELL (R518): A head write frees completion or event ring slots. -/
  | completionHeadDoorbell (fn : Fin 16) (q : Fin 65) (v : BitVec 32) (tee : Bool)
  /-- COMPLETION_POSTING (R518): A completion is written into its ring when space allows, with MSI-X. -/
  | completionPosting (fn : Fin 16) (q : Fin 64)
  /-- EVENT_POSTING (R521): An event is written into the event ring or held and counted as lost. -/
  | eventPosting (fn : Fin 16)
  /-- USER_DOORBELL (R524): A user doorbell write makes vector 32 + i pending on its target thread. -/
  | userDoorbell (fn num : Fin 16) (tee : Bool)
  /-- SQ_CTL_WRITE (R510): A submission ring control write is checked and enables or disables the ring. -/
  | sqCtlWrite (fn : Fin 16) (q : Fin 64) (v : BitVec 32) (tee : Bool)
  /-- CQ_CTL_WRITE (R510): A completion or event ring control write is checked and enables or disables it. -/
  | cqCtlWrite (fn : Fin 16) (q : Fin 65) (v : BitVec 32) (tee : Bool)
  /-- LOAD_PROGRAM (R527): Copies a program image to tenancy memory and records its digest. -/
  | loadProgram (fn : Fin 16) (q : Fin 64) (hseq : BitVec 32) (data : Nat)
  /-- LOAD_BUNDLE (R527): Opens, decrypts and closes a weight bundle. -/
  | loadBundle (fn : Fin 16) (q : Fin 64) (hseq : BitVec 32) (data : Nat)
  /-- MAP (R527): Sets mappings of a range by PG.SET. -/
  | map (fn : Fin 16) (q : Fin 64) (hseq : BitVec 32)
  /-- UNMAP (R527): Invalidates mappings of a range. -/
  | unmap (fn : Fin 16) (q : Fin 64) (hseq : BitVec 32)
  /-- START_JOB (R527): Sets job Stops and creates the first task, making the tenancy RUNNING. -/
  | startJob (fn : Fin 16) (q : Fin 64) (hseq : BitVec 32)
  /-- STEP_CLOSE (R527): Waits for a step to end and with FINAL enters DRAINING. -/
  | stepClose (fn : Fin 16) (q : Fin 64) (hseq : BitVec 32)
  /-- SNAPSHOT_NOW (R527): Requests a snapshot at the next step epoch and waits for the drain. -/
  | snapshotNow (fn : Fin 16) (q : Fin 64) (hseq : BitVec 32)
  /-- RESTORE (R527): Maps a remote image and runs SN.RESTORE. -/
  | restore (fn : Fin 16) (q : Fin 64) (hseq : BitVec 32) (image poison : Nat)
  /-- HOLD (R468): Puts a RUNNING tenancy into HELD. -/
  | hold (fn : Fin 16) (q : Fin 64) (hseq : BitVec 32)
  /-- RELEASE (R469): Returns a HELD tenancy to RUNNING. -/
  | release (fn : Fin 16) (q : Fin 64) (hseq : BitVec 32)
  /-- SCRUB (R499): Scrubs a tenancy and returns it to IDLE. -/
  | scrub (fn : Fin 16) (q : Fin 64) (hseq : BitVec 32)
  /-- QUERY (R525): Returns tenancy, device, step and snapshot state. -/
  | query (fn : Fin 16) (q : Fin 64) (hseq : BitVec 32)
  /-- SET_STOP (R527): Writes a Stop through a host ring. -/
  | setStop (fn : Fin 16) (q : Fin 64) (hseq : BitVec 32) (data : Nat)
  /-- GET_STOP (R527): Reads a Stop through a host ring. -/
  | getStop (fn : Fin 16) (q : Fin 64) (hseq : BitVec 32)
  /-- RING_RESUME (R530): Re-enabling rings after a reset posts RESUME and RESET completions. -/
  | ringResume (fn : Fin 16) (ring : Option (Fin 64))
  /-- BAR2_READ (R533): A host read through the aperture is served at the slice. -/
  | bar2Read (fn : Fin 16) (off : BitVec 36) (len : BitVec 13) (tee : Bool)
  /-- BAR2_WRITE (R533): A host write through the aperture is written, allocated or dropped. -/
  | bar2Write (fn : Fin 16) (off : BitVec 36) (len : BitVec 10) (data : Nat) (tee : Bool)
  /-- DOE_ATTEST (R503): A DOE attestation request returns a signed report. -/
  | doeAttest (req : BitVec 512)
  /-- MANAGEMENT_PERIOD (R535): Every 2^28 cycles the device and port banks latch and PERIOD advances. -/
  | managementPeriod (power : BitVec 32) (short : List (Fin 192 × Fin 16))
  /-- GET (R549): Mailbox GO with OP GET reads a Stop into the data area. -/
  | get (fn box : Fin 16) (tee : Bool)
  /-- SET (R549): Mailbox GO with OP SET writes a Stop from the data area. -/
  | set (fn box : Fin 16) (tee : Bool)
  /-- SAP_GET (R552): A Stop Access GET message returns part of a value. -/
  | sapGet (addr : BitVec 128) (port : BitVec 16) (len data : Nat)
  /-- SAP_SET (R552): A Stop Access SET message writes a whole value. -/
  | sapSet (addr : BitVec 128) (port : BitVec 16) (len data : Nat)
  /-- ATTEST (R556): A Stop Access ATTEST builds a report into ATTEST_REPORT. -/
  | attest (addr : BitVec 128) (port : BitVec 16) (len data : Nat)
  /-- DISCOVER (R556): A Stop Access DISCOVER is answered, after a slot delay for multicast. -/
  | discover (addr : BitVec 128) (port : BitVec 16) (len data : Nat) (multicast : Bool)
  /-- DISCOVER_REPLY (R556): The multicast slot delay expires and the DISCOVER answer is sent. -/
  | discoverReply 
  /-- STORED_STOP_COMMIT (R546): A stored Stop value reaches flash and its write completes. -/
  | storedStopCommit 
  /-- STORED_DEFAULTS (R561): Writing 0x5A returns stored RW Stops to their defaults. -/
  | storedDefaults (v : BitVec 8)
  /-- PORT_CTL_WRITE (R385): Sets a port's ENABLE, label or OUT. -/
  | portCtlWrite (p : Fin 16) (v : BitVec 32)
  /-- REGISTER_WRITE (R15): Write to any Stop or register without a row of its own, under its access code. -/
  | registerWrite (target : RegTarget)
  /-- POWER_ON (R574): VSTBY comes within limits and the boot steps run to STANDBY. -/
  | powerOn (slot : BitVec 6)
  /-- SUPPLY_PGOOD (R563): A supply within limits for 100 us asserts its PGOOD. -/
  | supplyPgood (supply : Fin 8)
  /-- SUPPLY_FAULT (R567): A supply leaves limits and the Drone removes power to STANDBY or OFF. -/
  | supplyFault (supply : Fin 8)
  /-- PWR_REQ (R565): The Drone asserts PWR_REQ once standby conditions hold. -/
  | pwrReq 
  /-- PWR_EN (R565): PWR_EN accepted under PWR_REQ starts BRINGUP. -/
  | pwrEn (level : Bool) (slot : BitVec 6) (fails : Bool)
  /-- PWR_EN_TIMEOUT (R565): No PWR_EN within 1 s drops PWR_REQ and schedules a retry. -/
  | pwrEnTimeout 
  /-- PWR_REQ_RETRY (R565): Ten seconds after a timeout PWR_REQ is asserted again. -/
  | pwrReqRetry 
  /-- CK_ROOT_LOCK (R570): CK_ROOT locks and CK_CTL moves onto it. -/
  | ckRootLock 
  /-- CK_ROOT_LOCK_TIMEOUT (R570): No lock within 10 ms makes the device FAULTED. -/
  | ckRootLockTimeout 
  /-- CK_ROOT_LOCK_LOSS (R570): Lost lock removes power as for a supply loss. -/
  | ckRootLockLoss 
  /-- MRST_N (R574): MRST_N held low causes a MODULE reset. -/
  | mrstN (low : Bool) (slot : BitVec 6) (fails : Bool)
  /-- PERST_N (R574): PERST_N asserted causes an ENDPOINT reset or holds the endpoint. -/
  | perstN (low : Bool) (slot : BitVec 6) (fails : Bool)
  /-- MONITOR_WATCHDOG (R574): A missed heartbeat for 1.26 s causes a DRONE reset. -/
  | monitorWatchdog (slot : BitVec 6) (fails : Bool)
  /-- DEVICE_RESET_REQUEST (R574): Monitor firmware requests a device reset through the Drone mailbox. -/
  | deviceResetRequest (slot : BitVec 6) (fails : Bool)
  /-- MONITOR_READY (R577): Monitor reports ready and the device enters READY. -/
  | monitorReady (saffron : BitVec 64)
  /-- BRINGUP_TIMEOUT (R579): BRINGUP not READY within 315.8 ms makes the device FAULTED. -/
  | bringupTimeout 
  /-- RESUME3 (R580): The Drone resumes a thread halted at L3 from SV3. -/
  | resume3 (t : Tid)
  /-- THERMAL_SAMPLE (R591): Sensors are sampled and may step a divider down or trip. -/
  | thermalSample (sensors : BitVec 2048) (coolant : BitVec 32)
  /-- THROTTLE_STEP_DOWN (R592): Samples still hot after 2^20 cycles move the divider one row slower. -/
  | throttleStepDown (q : Fin 4)
  /-- THROTTLE_STEP_UP (R592): Samples cool for 2^22 cycles move the divider one row faster. -/
  | throttleStepUp (q : Fin 4)
  /-- DIVIDER_CHANGE (R572): A divider decision takes effect on the quarter at one CK_ROOT edge. -/
  | dividerChange (q : Fin 4)
  /-- THERM_TRIP_N (R593): THERM_TRIP_N held low from outside for 10 us trips the module. -/
  | thermTripN (low : Bool)
  /-- TRIP_LATCH_CLEAR (R594): Sensors at 80 C or less for 10 s clear the trip latch. -/
  | tripLatchClear 
  /-- LEAK_N (R595): Moisture for 1 ms sets the leak latch and removes power. -/
  | leakN (wet : Bool)
  /-- LEAK_LATCH_CLEAR (R595): Dry inputs for 60 s and a reset clear the leak latch. -/
  | leakLatchClear 
  /-- NMI_N (R587): A qualified falling edge on NMI_N delivers one NMI. -/
  | nmiN (low : Bool)
  /-- STACK_POPC (R54): POPC loads a capability pair by LDC from g29 through c15 into rd and rd + 1, then sets g29 to g29 + 16. -/
  | stackPopc (t : Tid) (rd : RIdx)
  /-- RESERVED_MAJOR (R39): An instruction word whose major, func, xfunc or cmd is reserved, including the all-zero word, raises ILLEGAL_OP before any side effect. -/
  | reservedMajor (t : Tid) (w0 w1 : BitVec 32)
  /-- DRONE_TASK_ABORT (R97): The Drone has the Chanter abort the task of a thread halted at L3, which ends it under R131 with vector 54. -/
  | droneTaskAbort (t : Tid)
  /-- SPDM_TDISP_REQUEST (R504): A DOE request of the Discovery, CMA/SPDM, IDE_KM or TDISP protocols sets up sessions and IDE keys and moves a virtual function's TDI into or out of the RUN state. -/
  | spdmTdispRequest (req : DoeReq)
  /-- SUPPLY_ORDER (R567): A supply of step 2 to 6 reaching 10 % of nominal before its predecessors have PGOOD is logged as SUPPLY_ORDER and holds PWR_REQ low until supplies 2 to 7 have fallen below 10 % and risen again in order. -/
  | supplyOrder (supply : Fin 8)
  /-- TRIP_COMPARATOR (R593): A quarter's own comparator reaching 110 °C pulls THERM_TRIP_N low and stops that quarter's core regulators, independent of the Drone. -/
  | tripComparator (q : Fin 4)
deriving DecidableEq, Repr

end Sys2Proof
end

