-- ==== Sys2Proof/Decode.lean ====
section
/-!
DEFINITION. Decode.lean: the commands' words. No row of the table has bits of its own, so no word spells a command. What a block
decodes itself are the words of the Ixnum instruction set: here stands which of them are reserved (R37 to R40, R64, R597, R598),
for RESERVED_MAJOR.
-/

namespace Sys2Proof

/-- The command that a word spells by the table's bits: no row of the table gives bits. -/
def decodeTableWord (_nbits _w : Nat) : Option Instr := none

namespace Decode

open Sys2Proof.Machine (fld bit)

/-- What a reserved word raises: ILLEGAL_OP, or COPROC_ABSENT with its engine number (R39, R64). -/
inductive Reserved where
  | illegal
  | absent (engine : Nat)
deriving DecidableEq, Repr

/-- Whether a func code of an R-format major is assigned (R40, R41, R49, R56, R75, R598). -/
def funcAssigned (major func : Nat) : Bool :=
  let low := func % 256
  match major with
  | 0x01 => decide (func ≤ 0x15)
  | 0x10 => decide (low ≤ 8)
  | 0x11 => decide (fld func 4 2 < 4)
  | 0x12 => decide (low ≤ 5)
  | 0x18 => decide (func ≤ 5) || (decide (0x10 ≤ func) && decide (func ≤ 0x13)) || func == 0x20
  | 0x1A => true
  | 0x1B => decide (func ≤ 5)
  | 0x34 => decide (func ≤ 1)
  | 0x36 => func == 0
  | 0x37 => decide (func ≤ 3)
  | 0x38 => decide (func ≤ 5)
  | 0x39 => decide (func ≤ 3)
  | 0x3A => decide (func ≤ 2)
  | 0x3B => decide (func ≤ 2)
  | 0x40 => decide (low ≤ 0x10)
  | 0x41 => decide (low ≤ 4) && fld func 9 8 != 3
  | 0x42 => decide (fld func 4 2 < 4) && func % 4 != 3
  | 0x43 => decide (low ≤ 3)
  | 0x60 => decide (func ≤ 3)
  | _ => false

/-- Whether the register fields that R598 marks zero are zero. -/
def zeroFields (major w : Nat) : Bool :=
  let rd := fld w 24 20
  let rs1 := fld w 19 15
  let rs2 := fld w 14 10
  match major with
  | 0x34 => rd == 0 && rs2 == 0
  | 0x36 => rd == 0 && rs1 == 0 && rs2 == 0
  | 0x37 => if w % 2 = 0 then rd == 0 && rs2 == 0 else rs1 == 0 && rs2 == 0
  | _ => true

/-- Whether a command code of an engine is assigned (R264, R314, R388, R453, R494). -/
def cmdAssigned (engine cmd : Nat) : Bool :=
  match engine with
  | 0x70 => decide (cmd ≤ 6) || cmd == 0x10
  | 0x71 => decide (cmd ≤ 4)
  | 0x72 => decide (cmd ≤ 2) || cmd == 0x10
  | 0x73 => decide (cmd ≤ 5)
  | 0x74 => decide (cmd ≤ 2)
  | _ => false

/-- Whether the op of a vector reduction is assigned (R158). -/
def reductionAssigned (major op : Nat) : Bool := if major = 0x52 then decide (op ≤ 1) else decide (op ≤ 2)

/-- Whether the codes of a 32-bit word of an assigned major that is not in the R format are assigned. -/
def codeAssigned (major w : Nat) : Bool :=
  match major with
  | 0x06 => fld w 14 13 != 3
  | 0x19 => decide (fld w 14 12 ≤ 5)
  | 0x2E => decide (w % 64 ≤ 3)
  | 0x2F => decide (w % 64 ≤ 7)
  | 0x48 => decide (w % 256 ≤ 0x10)
  | 0x49 => decide (w % 256 ≤ 0x0A)
  | 0x4A => decide (w % 256 ≤ 3)
  | 0x4B => decide (w % 256 ≤ 8)
  | 0x4C => decide (w % 1024 ≤ 1)
  | 0x4D => decide (w % 1024 ≤ 3) || (decide (0x10 ≤ w % 1024) && decide (w % 1024 ≤ 0x13)) || w % 1024 == 0x20 || w % 1024 == 0x21
  | 0x4E => decide (w % 64 ≤ 1)
  | 0x4F => decide (w % 64 ≤ 1)
  | 0x50 => reductionAssigned 0x50 (w % 4)
  | 0x51 => reductionAssigned 0x51 (w % 4)
  | 0x52 => reductionAssigned 0x52 (w % 4)
  | 0x58 => decide (w % 64 ≤ 4)
  | 0x59 => !bit w 20 && w % 64 == 0
  | 0x5A => !bit w 20 && !bit w 21 && w % 64 == 0
  | 0x5B => fld w 24 22 == 0 && w % 32 == 0
  | 0x5E => fld w 21 16 == 0 && decide (w % 32 ≤ 2)
  | 0x61 => decide (w % 64 ≤ 9)
  | 0x62 => w % 8 != 7
  | 0x64 => decide (w % 64 ≤ 6)
  | _ => true

/-- The majors of the R format. -/
def rMajors : List Nat :=
  [0x01, 0x10, 0x11, 0x12, 0x18, 0x1A, 0x1B, 0x34, 0x36, 0x37, 0x38, 0x39, 0x3A, 0x3B, 0x40, 0x41, 0x42, 0x43, 0x60]

/-- Whether a major is reserved (R39, R147, R169). -/
def majorReserved (m : Nat) : Bool :=
  m == 0 || (decide (0x08 ≤ m) && decide (m ≤ 0x0F)) || (decide (0x13 ≤ m) && decide (m ≤ 0x17)) ||
    (decide (0x1C ≤ m) && decide (m ≤ 0x1F)) || (decide (0x3C ≤ m) && decide (m ≤ 0x3F)) || m == 0x46 || m == 0x47 ||
    (decide (0x53 ≤ m) && decide (m ≤ 0x57)) || m == 0x5F || m == 0x63 || (decide (0x65 ≤ m) && decide (m ≤ 0x6D))

/-- Whether an extended form is one of R597 with every unused bit zero. -/
def extAssigned (w imm : Nat) : Bool :=
  let m := fld w 24 18
  let x := w % 256
  let low := fld w 12 8
  if 0x02 ≤ m && m ≤ 0x05 then x == 0
  else if 0x20 ≤ m && m ≤ 0x2D then !bit w 8 && x == 0
  else match m with
  | 0x06 => decide (x < 3) && imm / 64 == 0
  | 0x07 => low == 0 && x == 0
  | 0x19 => decide (x ≤ 5)
  | 0x35 => !bit w 8 && x == 0 && fld w 17 13 == 0
  | 0x44 => !bit w 8 && x == 0
  | 0x45 => !bit w 8 && x == 0
  | 0x2E => !bit w 8 && decide (x ≤ 3)
  | 0x2F => !bit w 8 && decide (x ≤ 7)
  | 0x30 => low == 0 && x == 0
  | 0x31 => low == 0 && x == 0
  | 0x32 => fld w 17 8 == 0 && x == 0
  | 0x33 => fld w 17 8 == 0 && x == 0
  | 0x4E => !bit w 8 && decide (x ≤ 1)
  | 0x4F => !bit w 8 && decide (x ≤ 1)
  | 0x50 => !bit w 8 && decide (x < 64) && reductionAssigned 0x50 (x % 4)
  | 0x51 => !bit w 8 && decide (x < 64) && reductionAssigned 0x51 (x % 4)
  | 0x52 => !bit w 8 && decide (x < 64) && reductionAssigned 0x52 (x % 4)
  | 0x59 => !bit w 8 && decide (x < 16)
  | 0x5A => !bit w 8 && decide (x < 8)
  | 0x70 => !bit w 8 && cmdAssigned 0x70 x
  | 0x71 => !bit w 8 && cmdAssigned 0x71 x
  | 0x72 => !bit w 8 && cmdAssigned 0x72 x
  | 0x73 => !bit w 8 && cmdAssigned 0x73 x
  | 0x74 => !bit w 8 && cmdAssigned 0x74 x
  | _ => false

/-- What a word raises before any side effect because it is reserved; w1 is the second word of an extended form. -/
def reserved (w0 w1 : Nat) : Option Reserved :=
  let m := fld w0 31 25
  if m = 0x7E then
    let inner := fld w0 24 18
    if 0x75 ≤ inner then some (.absent inner) else if extAssigned w0 w1 then none else some .illegal
  else if 0x75 ≤ m then some (.absent m)
  else if majorReserved m then some .illegal
  else if 0x70 ≤ m then (if cmdAssigned m (w0 % 2048) then none else some .illegal)
  else if rMajors.contains m then (if funcAssigned m (w0 % 1024) && zeroFields m w0 then none else some .illegal)
  else if codeAssigned m w0 then none
  else some .illegal

end Decode
end Sys2Proof
end

