-- ==== Sys2Proof/Machine/ExpLn.lean ====
section
/-!
DEFINITION. Machine/ExpLn.lean: the correctly rounded FP32 exponential and natural logarithm (R150).
Each is computed between two bounds in fixed point with p fraction bits; when both bounds round to one value, that value
is the result, and otherwise the bounds are computed again with more bits.
-/

namespace Sys2Proof.Machine

/-- Lower and upper bound, in units of 2^−p, of the sum of the terms y^n / n! still to come: the running term lies
between tl and th, y between yl and yh. -/
def expSeries (p yl yh : Nat) : Nat → Nat → Nat → Nat → Nat × Nat
  | 0, _, tl, th => (tl, 2 * th + 2)
  | f + 1, n, tl, th =>
    let r := expSeries p yl yh f (n + 1) (tl * yl / 2 ^ p / n) (th * yh / 2 ^ p / n + 2)
    (tl + r.1, th + r.2)

/-- Bounds squared j times. -/
def squareBounds (p : Nat) : Nat → Nat × Nat → Nat × Nat
  | 0, b => b
  | j + 1, b => squareBounds p j (b.1 * b.1 / 2 ^ p, b.2 * b.2 / 2 ^ p + 1)

/-- Bounds of e^x for x = m × 2^e above zero and below 2^8, in units of 2^−p. -/
def expPosBounds (p m : Nat) (e : Int) : Nat × Nat :=
  let k : Int := (p : Int) + e - 9
  let y := shiftI m k
  let y1 := if k < 0 then y + 1 else y
  squareBounds p 9 (expSeries p y y1 (p / 4) 1 (2 ^ p) (2 ^ p))

/-- Bounds of e^x for x = ± m × 2^e. -/
def expBounds (p : Nat) (neg : Bool) (m : Nat) (e : Int) : Nat × Nat :=
  let b := expPosBounds p m e
  if neg then (2 ^ (2 * p) / b.2, 2 ^ (2 * p) / b.1 + 1) else b

/-- The value both bounds round to, found by adding bits while they differ. -/
def expRound (neg : Bool) (m : Nat) (e : Int) : Nat → Nat → Nat
  | 0, p => encodeF fp32 .rne (.fin false (expBounds p neg m e).1 (-(p : Int))) true
  | f + 1, p =>
    let b := expBounds p neg m e
    let lo := encodeF fp32 .rne (.fin false b.1 (-(p : Int))) true
    let hi := encodeF fp32 .rne (.fin false b.2 (-(p : Int)))
    if lo = hi then lo else expRound neg m e f (2 * p)

/-- VFEXP of one FP32 code (R150): e^(+∞) = +∞, e^(−∞) = +0, NaN gives NaN. Beyond ±128 the result is an
infinity or +0 in FP32, which the range bound of the computation leaves out. -/
def fexp (a : Nat) : Nat :=
  match decodeF fp32 a with
  | .nan => nanCode fp32
  | .inf neg => if neg then 0 else infCode fp32 false
  | .fin neg m e =>
    if m = 0 then 0x3F800000
    else if 7 ≤ (log2 m : Int) + e then (if neg then 0 else infCode fp32 false)
    else expRound neg m e 4 320

/-- Lower and upper bound, in units of 2^−p, of atanh z = z + z³/3 + …, for z between zl and zh, at most 1/3. -/
def atanhSeries (p zl zh : Nat) : Nat → Nat → Nat → Nat → Nat × Nat
  | 0, _, tl, th => (tl * 0, 2 * th + 2)
  | f + 1, n, tl, th =>
    let r := atanhSeries p zl zh f (n + 2) (tl * zl / 2 ^ p * zl / 2 ^ p) (th * zh / 2 ^ p * zh / 2 ^ p + 3)
    (tl / n + r.1, th / n + 1 + r.2)

/-- Bounds of 2 × atanh(a / b), in units of 2^−p, for a / b at most 1/3. -/
def ln1Bounds (p a b : Nat) : Nat × Nat :=
  let zl := (a <<< p) / b
  let zh := zl + 1
  let r := atanhSeries p zl zh (p / 3) 1 zl zh
  (2 * r.1, 2 * r.2)

/-- Bounds of ln x for x = m × 2^e above zero, in units of 2^−p. -/
def lnBounds (p m : Nat) (e : Int) : Int × Int :=
  let l := log2 m
  let k0 : Int := (l : Int) + e
  let up := decide (3 * 2 ^ l ≤ 2 * m)
  let k : Int := if up then k0 + 1 else k0
  let den := if up then 2 ^ (l + 1) else 2 ^ l
  -- ln (m / den), whose ratio lies from 3/4 to 3/2
  let f : Int × Int :=
    if den ≤ m then
      let b := ln1Bounds p (m - den) (m + den)
      ((b.1 : Int), (b.2 : Int))
    else
      let b := ln1Bounds p (den - m) (m + den)
      (-(b.2 : Int), -(b.1 : Int))
  let c := ln1Bounds p 1 3
  let kl : Int × Int := if 0 ≤ k then (k * c.1, k * c.2) else (k * c.2, k * c.1)
  (f.1 + kl.1, f.2 + kl.2)

/-- The code of a fixed-point bound. -/
def fixCode (p : Nat) (i : Int) : Nat :=
  encodeF fp32 .rne (.fin (decide (i < 0)) i.natAbs (-(p : Int)))

/-- The value both bounds of the logarithm round to. -/
def lnRound (m : Nat) (e : Int) : Nat → Nat → Nat
  | 0, p => fixCode p (lnBounds p m e).1
  | f + 1, p =>
    let b := lnBounds p m e
    let lo := fixCode p b.1
    let hi := fixCode p b.2
    if lo = hi then lo else lnRound m e f (2 * p)

/-- VFLN of one FP32 code (R150): ln(±0) = −∞, below zero NaN, ln(+∞) = +∞; ln 1 is +0. -/
def fln (a : Nat) : Nat :=
  match decodeF fp32 a with
  | .nan => nanCode fp32
  | .inf neg => if neg then nanCode fp32 else infCode fp32 false
  | .fin neg m e =>
    if m = 0 then infCode fp32 true
    else if neg then nanCode fp32
    else if a = 0x3F800000 then 0
    else lnRound m e 4 320

end Sys2Proof.Machine
end

