-- ==== Sys2Proof/Machine/Formats.lean ====
section
/-!
DEFINITION. Machine/Formats.lean: the sixteen formats, the FMT descriptor, the Philox draws and the value chain of a
conversion (chapter Number formats and training numerics, R207 to R235).
-/

namespace Sys2Proof.Machine

/-- Width in bits of each format code (R207). -/
def fmtBits (c : Nat) : Nat :=
  match c with
  | 0 => 32 | 1 => 16 | 2 => 16 | 3 => 8 | 4 => 8 | 5 => 6 | 6 => 6 | 7 => 4
  | 8 => 8 | 9 => 8 | 10 => 4 | 11 => 16 | 12 => 32 | 13 => 64 | 14 => 8 | _ => 22

/-- Bits one element of the format takes in a tile row, in a vector register or in memory (R209): W22 takes 32. -/
def fmtStore (c : Nat) : Nat := if c = 15 then 32 else fmtBits c

/-- The floating format of a code (R208). -/
def fmtFloat? (c : Nat) : Option FFmt :=
  match c with
  | 0 => some fp32 | 1 => some bf16 | 2 => some fp16 | 3 => some e4m3 | 4 => some e5m2
  | 5 => some e3m2 | 6 => some e2m3 | 7 => some e2m1 | 13 => some fp64 | 15 => some w22
  | _ => none

/-- The range of an integer format (R208). -/
def fmtInt? (c : Nat) : Option (Int × Int) :=
  match c with
  | 8 => some (-128, 127) | 9 => some (0, 255) | 10 => some (-8, 7)
  | 11 => some (-32768, 32767) | 12 => some (-2147483648, 2147483647)
  | _ => none

/-- Whether the code is accepted as an array operand (R207). -/
def fmtArray (c : Nat) : Bool := (1 ≤ c && c ≤ 11)
/-- Whether the code is a bank readout target (R207). -/
def fmtReadout (c : Nat) : Bool := c ≤ 12 || c == 15
/-- Whether block scaling may select the code (R207). -/
def fmtMx (c : Nat) : Bool := 3 ≤ c && c ≤ 8
/-- The class of an array operand format (R183): 0 for 4- and 6-bit, 1 for 8-bit, 2 for 16-bit. -/
def fmtClass (c : Nat) : Nat :=
  if c = 5 || c = 6 || c = 7 || c = 10 then 0 else if c = 3 || c = 4 || c = 8 || c = 9 then 1 else 2
/-- Whether the code is an integer format. -/
def fmtIsInt (c : Nat) : Bool := (fmtInt? c).isSome

/-- The value of an element's code (R208, R211): an MXINT8 element is its integer × 2^−6. -/
def elemNum (c : Nat) (mx : Bool) (code : Nat) : Num :=
  match fmtFloat? c with
  | some f => decodeF f code
  | none =>
    let n := if c = 9 then (code % 256 : Nat) else (0 : Nat)
    let i : Int := if c = 9 then n else sext (fmtBits c) code
    .fin (decide (i < 0)) i.natAbs (if mx then -6 else 0)

/-- The value of an element under a block scale byte (R211): a scale of 0xFF makes it NaN. -/
def elemScaled (c : Nat) (x code : Nat) : Num :=
  if x = 255 then .nan else (elemNum c true code).scale ((x : Int) - 127)

/-- The fields of an FMT descriptor (R214). -/
structure Fmt where
  format : Nat
  mx : Bool
  rclass : Nat
  kind : Nat
  ssrc : Nat
  probe : Bool
  retry : Nat
  tensor : Nat
  scale : Nat
  pos : Nat
deriving DecidableEq, Repr

/-- The fields of a descriptor word (R214). -/
def fmtOf (w : Word) : Fmt :=
  let v := w.toNat
  { format := fld v 63 60, mx := bit v 59, rclass := fld v 58 57, kind := fld v 56 54, ssrc := fld v 53 52,
    probe := bit v 51, retry := fld v 50 48, tensor := fld v 47 36, scale := fld v 35 20, pos := fld v 19 0 }

/-- The descriptor word after a conversion has completed (R217). -/
def fmtWriteBack (w : Word) (scale retry : Nat) : Word :=
  BitVec.ofNat 64 (setFld (setFld (setFld w.toNat 35 20 scale) 53 52 0) 50 48 retry)

/-- Whether FMTCHK accepts the value as a descriptor (R215). -/
def fmtValid (w : Word) : Bool :=
  let d := fmtOf w
  d.rclass != 3 && d.kind ≤ 4 && d.retry ≤ 4 && (!d.mx || fmtMx d.format) &&
    d.scale < 0x8000 && fld d.scale 14 7 != 0 && fld d.scale 14 7 != 0xFF

/-- The value of a 16-bit SCALE field: the upper half of an FP32 pattern (R214). -/
def scaleNum (s : Nat) : Num := decodeF bf16 s

/-- The effective scale of an operand descriptor: SCALE × 2^−RETRY (R216). -/
def effScale (d : Fmt) : Num := (scaleNum d.scale).scale (-(d.retry : Int))

/-- Philox-4x32 rounds (R231), the key bumped before every round but the first. -/
def philoxRounds : Nat → Nat → Nat → Nat → Nat → Nat → Nat → Nat × Nat × Nat × Nat
  | 0, c0, c1, c2, c3, _, _ => (c0, c1, c2, c3)
  | n + 1, c0, c1, c2, c3, k0, k1 =>
    let p := 0xD2511F53 * c0
    let s := 0xCD9E8D57 * c2
    philoxRounds n ((s / 2 ^ 32).xor c1 |>.xor k0) (s % 2 ^ 32) ((p / 2 ^ 32).xor c3 |>.xor k1) (p % 2 ^ 32)
      ((k0 + 0x9E3779B9) % 2 ^ 32) ((k1 + 0xBB67AE85) % 2 ^ 32)

/-- Philox-4x32-10 (R231). -/
def philox (c0 c1 c2 c3 k0 k1 : Nat) : Nat × Nat × Nat × Nat := philoxRounds 10 c0 c1 c2 c3 k0 k1

/-- What the draws of one conversion depend on (R231). -/
structure Draws where
  seed : Nat
  rank : Nat
  step : Nat
  tensor : Nat
  pos : Nat
  site : Nat
deriving DecidableEq, Repr

/-- The draw r for the element with that local index (R231). -/
def drawOf (d : Draws) (loc : Nat) : Nat :=
  let e := d.pos * 65536 + loc
  let q := e / 4
  let x := philox (q % 2 ^ 32) (fld q 33 32 + d.tensor * 2 ^ 8 + d.site * 2 ^ 24) d.step (d.rank % 2 ^ 16)
    (d.seed % 2 ^ 32) (d.seed / 2 ^ 32 % 2 ^ 32)
  match e % 4 with
  | 0 => x.1
  | 1 => x.2.1
  | 2 => x.2.2.1
  | _ => x.2.2.2

/-- How a conversion rounds: to nearest even, or stochastically under its draws. -/
inductive Rounding where
  | nearest
  | stochastic (d : Draws)
deriving DecidableEq, Repr

/-- Whether the descriptor's rounding class is G for a conversion by a core (R230). -/
def classG (d : Fmt) : Bool :=
  d.rclass == 1 || (d.rclass == 0 && (d.kind == 2 || d.kind == 3) && fmtBits d.format ≤ 8)

/-- Whether a conversion by UPDATE into a stored format rounds stochastically: classes G and U both do (R230). -/
def classUpdate (d : Fmt) : Bool := d.rclass ≤ 2

/-- The magnitude in units 2^q rounded stochastically with draw r (R229). -/
def quantSr (m : Nat) (e q : Int) (r : Nat) : Nat :=
  let k := q - e
  let n := shiftI m (-k)
  let t := shiftI m (32 - k) - n * 2 ^ 32
  if 2 ^ 32 ≤ r + t then n + 1 else n

/-- Whether m × 2^e (with a tail when sticky) is at least b × 2^g. -/
def magGe (m : Nat) (e : Int) (b : Nat) (g : Int) : Bool :=
  let q := min e g
  decide (shiftI b (g - q) ≤ shiftI m (e - q))

/-- Whether m × 2^e (with a tail when sticky) is above b × 2^g. -/
def magGt (m : Nat) (e : Int) (sticky : Bool) (b : Nat) (g : Int) : Bool :=
  let q := min e g
  decide (shiftI b (g - q) < shiftI m (e - q)) || (sticky && decide (shiftI b (g - q) = shiftI m (e - q)))

/-- One scaled value u of a conversion: exact up to a tail below its at least 130 bits, and its poison. -/
structure CvtIn where
  u : Num
  sticky : Bool
  poison : Bool
deriving DecidableEq, Repr

/-- What one element of a conversion gives: the code, and what happened. -/
structure ElemOut where
  code : Nat
  poison : Bool
  overflow : Bool
  sat : Bool
  sr : Bool
deriving DecidableEq, Repr

/-- The exact value of the largest finite magnitude of a floating format: mantissa and exponent. -/
def maxFin (f : FFmt) : Nat × Int :=
  match decodeF f f.maxMag with
  | .fin _ m e => (m, e)
  | _ => (0, 0)

/-- The element's magnitude code in a floating format, rounded by the given rounding, not bounded. -/
def magBy (f : FFmt) (rd : Rounding) (loc : Nat) (neg : Bool) (m : Nat) (e : Int) (sticky : Bool) : Nat :=
  match rd with
  | .nearest => roundMag f .rne neg m e sticky
  | .stochastic d =>
    let qmin : Int := 1 - (f.bias : Int) - (f.fbits : Int)
    let q := unitOf f m e
    (q - qmin).toNat * 2 ^ f.fbits + quantSr m e q (drawOf d loc)

/-- The element's magnitude as a whole number of units 2^q, rounded by the given rounding. -/
def intBy (rd : Rounding) (loc : Nat) (neg : Bool) (m : Nat) (e : Int) (sticky : Bool) (q : Int) : Nat :=
  match rd with
  | .nearest => quantize .rne neg m e sticky q
  | .stochastic d => quantSr m e q (drawOf d loc)

/-- One element of a conversion to a target that is not block-scaled (R226 to R229). An overflowing element has its
saturation value as code (R233); no draw rounds it, so it is no stochastic rounding (R235). -/
def cvtElem (c : Nat) (rd : Rounding) (loc : Nat) (x : CvtIn) : ElemOut :=
  let isSr := match rd with | .nearest => false | .stochastic _ => true
  if x.poison then ⟨0, true, false, false, false⟩
  else match fmtFloat? c with
  | some f =>
    match x.u with
    | .nan => ⟨nanCode f, false, false, f.nanMag.isNone, false⟩
    | .inf neg => ⟨infCode f neg, false, false, f.infMag.isNone, false⟩
    | .fin neg m e =>
      if m = 0 && !x.sticky then ⟨withSign f neg 0, false, false, false, isSr⟩
      else
        let mx := maxFin f
        let ovf := match rd with
          | .nearest => magGe m e (2 * mx.1 + 1) (mx.2 - 1)
          | .stochastic _ => magGt m e x.sticky mx.1 mx.2
        if ovf then
          if c = 0 || c = 13 || c = 15 then ⟨encodeF f .rne (.fin neg m e) x.sticky, false, false, false, isSr⟩
          else ⟨withSign f neg f.maxMag, false, true, false, false⟩
        else ⟨withSign f neg (min f.maxMag (magBy f rd loc neg m e x.sticky)), false, false, false, isSr⟩
  | none =>
    let r := (fmtInt? c).getD (0, 0)
    match x.u with
    | .nan => ⟨0, false, false, true, false⟩
    | .inf neg => ⟨intBits (fmtBits c) (if neg then r.1 else r.2), false, false, true, false⟩
    | .fin neg m e =>
      if neg && c = 9 then ⟨0, false, false, false, false⟩
      else
        let ovf :=
          if neg then match rd with
            | .nearest => magGt m e x.sticky (2 * r.1.natAbs + 1) (-1)
            | .stochastic _ => magGt m e x.sticky r.1.natAbs 0
          else match rd with
            | .nearest => magGe m e (2 * r.2.natAbs + 1) (-1)
            | .stochastic _ => magGt m e x.sticky r.2.natAbs 0
        if ovf then ⟨intBits (fmtBits c) (if neg then r.1 else r.2), false, true, false, false⟩
        else
          let n := intBy rd loc neg m e x.sticky 0
          ⟨intBits (fmtBits c) (if neg then -(n : Int) else n), false, false, false, isSr⟩

/-- emax of a block-scaled format (R212). -/
def mxEmax (c : Nat) : Int :=
  match c with
  | 3 => 8 | 4 => 15 | 5 => 4 | 6 => 2 | 7 => 2
  | _ => 0

/-- One element of a block-scaled target, u already multiplied by 2^(127 − X): clamped to the largest value (R212). -/
def mxElem (c : Nat) (rd : Rounding) (loc : Nat) (x : CvtIn) : ElemOut :=
  let isSr := match rd with | .nearest => false | .stochastic _ => true
  if x.poison then ⟨0, true, false, false, false⟩
  else match x.u with
  | .fin neg m e =>
    match fmtFloat? c with
    | some f =>
      let mag := if m = 0 && !x.sticky then 0 else magBy f rd loc neg m e x.sticky
      ⟨withSign f neg (min f.maxMag mag), false, false, false, isSr⟩
    | none =>
      let n := min 127 (intBy rd loc neg m e x.sticky (-6))
      ⟨intBits 8 (if neg then -(n : Int) else n), false, false, false, isSr⟩
  | _ => ⟨0, false, false, false, false⟩

/-- Floor of the base-2 logarithm of the largest |u| of a block's unpoisoned elements; none when that is 0. -/
def blockLog : List CvtIn → Option Int
  | [] => none
  | x :: xs =>
    let r := blockLog xs
    match x.poison, x.u with
    | false, .fin _ m e =>
      if m = 0 then r
      else match r with
        | none => some ((log2 m : Int) + e)
        | some l => some (max l ((log2 m : Int) + e))
    | _, _ => r

/-- The result of converting a run of elements: element results, block scales, and the places of overflowing blocks. -/
structure RunOut where
  elems : List ElemOut
  scales : List Nat
  blockOver : List Bool
deriving DecidableEq, Repr

/-- One block of at most 32 elements under R212: scale byte, elements, and whether the block overflows. -/
def mxBlock (c : Nat) (rd : Rounding) (loc : Nat) (xs : List CvtIn) : Nat × List ElemOut × Bool :=
  if xs.any (fun x => !x.poison && !x.u.isFin) then
    (255, xs.map (fun x => ⟨0, x.poison, false, false, false⟩), false)
  else
    let l : Int := (blockLog xs).getD (-1000)
    let x0 : Int := l - mxEmax c + 127
    let ovf := decide (254 < x0)
    let x : Int := max 0 (min 254 x0)
    let es := (xs.zip (upto xs.length)).map
      (fun p => mxElem c rd (loc + p.2) { p.1 with u := p.1.u.scale (127 - x) })
    (x.toNat, es, ovf)

/-- Blocks of 32 in order. -/
def mxBlocks (c : Nat) (rd : Rounding) : Nat → Nat → List CvtIn → RunOut
  | 0, _, _ => ⟨[], [], []⟩
  | n + 1, loc, xs =>
    match xs with
    | [] => ⟨[], [], []⟩
    | _ =>
      let b := mxBlock c rd loc (xs.take 32)
      let r := mxBlocks c rd n (loc + 32) (xs.drop 32)
      ⟨b.2.1 ++ r.elems, b.1 :: r.scales, b.2.2 :: r.blockOver⟩

/-- One attempt of a conversion over a run of source values that share one row (R213, R226 to R233). -/
def cvtRun (c : Nat) (mx : Bool) (rd : Rounding) (loc : Nat) (xs : List CvtIn) : RunOut :=
  if mx then mxBlocks c rd (xs.length / 32 + 1) loc xs
  else ⟨(xs.zip (upto xs.length)).map (fun p => cvtElem c rd (loc + p.2) p.1), [], []⟩

/-- The lowest element that overflows in a run, a block by its first element, and whether it is a block (R234). -/
def RunOut.over? (r : RunOut) : Option (Nat × Bool) :=
  match findIdx? (fun b => b) r.blockOver 0 with
  | some b => some (32 * b, true)
  | none => (findIdx? (fun e => e.overflow) r.elems 0).map (fun i => (i, false))

/-- Whether some element was written under the saturation of R228. -/
def RunOut.sat (r : RunOut) : Bool := r.elems.any (fun e => e.sat)

/-- Elements written by stochastic rounding (R235). -/
def RunOut.srCount (r : RunOut) : Nat := (r.elems.filter (fun e => e.sr)).length

/-- A source value times the target scale of an attempt, and divided by the operand scales: u of R213. -/
def scaledIn (v : Num) (t sA sB : Num) (poison : Bool) : CvtIn :=
  let r := (v.mul t).divS (sA.mul sB)
  ⟨r.1, r.2, poison⟩

/-- The source value v = acc ÷ (S_A × S_B) rounded to FP32 to nearest even, magnitude only: what a probe folds (R222). -/
def probeCode (v : Num) (sA sB : Num) : Nat :=
  let r := v.divS (sA.mul sB)
  match r.1 with
  | .nan => 0x7FC00000
  | x => encodeF fp32 .rne x r.2 % 2 ^ 31

/-- floor(log2) of the target's largest finite value (R224). -/
def lF (c : Nat) : Int :=
  match c with
  | 3 => 8 | 4 => 15 | 2 => 15 | 5 => 4 | 6 => 2 | 7 => 2 | 10 => 2 | 8 => 6 | 9 => 7 | 11 => 14 | 12 => 30
  | _ => 0

/-- The measured scale of a target from the record's AMAX (R224), as a SCALE field. -/
def measuredScale (c : Nat) (mx : Bool) (amax : Nat) : Nat :=
  let e : Int :=
    if c = 0 || c = 1 || c = 15 then 0
    else match decodeF fp32 amax with
      | .fin _ m x =>
        if m = 0 then 0
        else if mx then -((log2 m : Int) + x)
        else lF c - ((log2 m : Int) + x) - 1
      | _ => 0
  ((max (-126) (min 127 e)) + 127).toNat * 128

/-- The quotient of a stored element by its descriptor's effective scale, rounded once to FP32 (R213). -/
def widenElem (d : Fmt) (v : Num) : Nat :=
  let r := v.divS (effScale d)
  encodeF fp32 .rne r.1 r.2

/-- Codes packed into bytes, w bits each, least significant bit first (R209). -/
def packBits (w : Nat) : List Nat → Nat
  | [] => 0
  | c :: cs => c % 2 ^ w + 2 ^ w * packBits w cs

/-- n codes of w bits taken from a number, least significant first. -/
def unpackBits (w : Nat) : Nat → Nat → List Nat
  | 0, _ => []
  | n + 1, v => v % 2 ^ w :: unpackBits w n (v / 2 ^ w)

end Sys2Proof.Machine
end

