-- ==== Sys2Proof/Config.lean ====
section
/-!
DEFINITION. Config.lean: the values the spec leaves open, as constants without a body, and what an implementation fixes.
Nothing in Lean can evaluate an opaque constant or prove a value of it: a claim holds whatever it is.
-/

namespace Sys2Proof.Config

/-- A free value of 32 bits: the n-th value the spec leaves unstated in a run. -/
opaque freeWord : Nat → BitVec 32

/-- The set of its slice that a line number falls in: internal to the module (R274, R275). -/
opaque sliceSet : Nat → Nat

/-- Which of the candidate lines a cache replaces: internal to the module (R282); the n-th choice. -/
opaque victimChoice : Nat → Nat

/-- The PCI vendor ID, which the spec names without its number (R559). -/
opaque vendorId : BitVec 16

/-- SERIAL: 16 characters written at manufacture (R559), as one number. -/
opaque serial : BitVec 128

/-- MAC_ADDRESS: 6 bytes written at manufacture (R559). -/
opaque macAddress : BitVec 48

/-- Firmware version (part 0 Drone, 1 Saffron, 2 monitor) of the running image (R559). -/
opaque fwVersion : Nat → BitVec 32

/-- Firmware security version number of the running image (R559). -/
opaque fwSvn : Nat → BitVec 32

/-- The endorsement record from manufacture (R502), 6,469 bytes. -/
opaque endorsement : BitVec 51752

/-- The public key, 1,952 bytes, of the ML-DSA-65 key of a 32-byte seed (FIPS 204, R472). Byte strings are numbers, the first
byte least significant. -/
opaque mldsaPublic : Nat → Nat

/-- The signature, 3,309 bytes, of ML-DSA-65 under a seed's key: context string, length and message, and the random bytes of
the hedged signing (R474). -/
opaque mldsaSign : Nat → String → Nat → Nat → Nat → Nat

/-- Whether an ML-DSA-65 signature verifies under a public key: context, length, message, signature (R474). -/
opaque mldsaVerify : Nat → String → Nat → Nat → Nat → Bool

/-- The encapsulation key, 1,184 bytes, of the ML-KEM-768 key of d and z (FIPS 203, R472). -/
opaque mlkemPublic : Nat → Nat

/-- Encapsulation of ML-KEM-768 to a key with random bytes: ciphertext, 1,088 bytes, and secret, 32 bytes. -/
opaque mlkemEncaps : Nat → Nat → Nat × Nat

/-- Decapsulation of ML-KEM-768 under the key of d and z, none where it fails. -/
opaque mlkemDecaps : Nat → Nat → Option Nat

/-- The device secret that Saffron reconstructs (R471). -/
opaque deviceSecret : BitVec 256

/-- Whether the check value of the device secret agrees with the manufactured one, and the endorsement with its keys (R471,
R473). -/
opaque secretGood : Bool

/-- The Vervia endorsement key of a ROOT_ID, in the boot ROM (R473). -/
opaque endorseKey : Nat → Option Nat

/-- The payload, length and value, of a STR_OPEN or STR_CREDIT packet of a stream number: the spec gives none (R379, R380). -/
opaque streamPayload : Nat → Nat × Nat

/-- The stream that a STR_CREDIT packet is for, by its payload (R380). -/
opaque streamOf : Nat → Nat

/-- TSPEC, length and payload of the READ_REQ for a remote frame and a number of 64 KiB units: the spec gives no layout
(R263, R363). -/
opaque readReqCode : Nat → Nat → Nat × Nat × Nat

/-- What a READ_REQ asks for, from its TSPEC and payload: the frame (64 KiB unit), and the offset and length of the bytes. -/
opaque readReqOf : Nat → Nat → Nat × Nat × Nat

/-- The READ_RSP packets (TSPEC, length, payload) that answer a READ_REQ: its frame, offset and length, whether it is served,
the bytes and the poison of each word. -/
opaque readRspCode : Nat → Nat → Nat → Bool → Nat → Nat → List (Nat × Nat × Nat)

/-- What a READ_RSP carries, from its TSPEC, length and payload: the frame, the offset and length, whether it is served, the
bytes and the poison of each word. -/
opaque readRspOf : Nat → Nat → Nat → Nat × Nat × Nat × Bool × Nat × Nat

/-- The block scale of block k of a CU.RED whose CFMT sets MX, for the n-th command: the spec does not say where the scale
bytes of SRC stand (R389, R393). -/
opaque redScale : Nat → Nat → BitVec 8

/-- The digest of a running firmware image (part 0 Drone, 1 Saffron, 2 monitor), 64 bytes (R491). -/
opaque fwDigest : Nat → BitVec 512

/-- Whether the image that flash holds for a part passes its checks at a BRINGUP (R471). -/
opaque fwGood : Nat → Bool

/-- The place of the 17 root nodes in the monitor's part of usable space, in 64 KiB units past the global frames (R244): the spec
gives none. -/
opaque rootBase : Nat

/-- What BRINGUP leaves in the monitor's part of usable space beside the tenancies' root nodes: the monitor's image and the first
nodes of the device tables, as offset past the tenancies' root nodes and byte (R577, R578). -/
opaque monitorImage : List (Nat × BitVec 8)

/-- What the monitor's first thread starts with (R578): the words of PCC and of RSCAP, its PC and its RSP. -/
opaque monitorPcc : BitVec 64 × BitVec 64
opaque monitorRscap : BitVec 64 × BitVec 64
opaque monitorEntry : BitVec 64
opaque monitorRsp : BitVec 64

/-- The bytes, length and value, of the answer to a request of a DOE protocol (R503): protocol kind, the request's length and bytes,
and the number of free values drawn. -/
opaque doeAnswer : Nat → Nat → Nat → Nat → Nat × Nat

end Sys2Proof.Config
end

