-- ==== Sys2Proof/Machine/Tab.lean ====
section
/-!
DEFINITION. Machine/Tab.lean: tables with a number as key, as lists of (key, value) pairs with keys strictly rising.
One canonical form, so that equal tables are equal lists.
-/

namespace Sys2Proof.Machine

/-- A table from numbers to values: strictly rising keys. -/
abbrev Tab (α : Type) := List (Nat × α)

/-- The value listed under a key. -/
def Tab.get? {α : Type} : Tab α → Nat → Option α
  | [], _ => none
  | (k, v) :: t, i => if i = k then some v else Tab.get? t i

/-- The value listed under a key, or the given default. -/
def Tab.getD {α : Type} (t : Tab α) (i : Nat) (d : α) : α := (Tab.get? t i).getD d

/-- The table with the value listed under the key, in its place. -/
def Tab.put {α : Type} : Tab α → Nat → α → Tab α
  | [], i, v => [(i, v)]
  | (k, w) :: t, i, v =>
    if i < k then (i, v) :: (k, w) :: t
    else if i = k then (i, v) :: t
    else (k, w) :: Tab.put t i v

/-- The table without the key. -/
def Tab.del {α : Type} : Tab α → Nat → Tab α
  | [], _ => []
  | (k, w) :: t, i => if i = k then Tab.del t i else (k, w) :: Tab.del t i

/-- The table with the key's value computed from the listed one or a default. -/
def Tab.upd {α : Type} (t : Tab α) (i : Nat) (d : α) (f : α → α) : Tab α := Tab.put t i (f (Tab.getD t i d))

/-- The entries whose key and value satisfy the test. -/
def Tab.keep {α : Type} (t : Tab α) (p : Nat → α → Bool) : Tab α := List.filter (fun e => p e.1 e.2) t

/-- Every listed value mapped. -/
def Tab.mapV {α : Type} (t : Tab α) (f : Nat → α → α) : Tab α := List.map (fun e => (e.1, f e.1 e.2)) t

/-- The lowest number that is no key, from i on, within the fuel. -/
def Tab.free {α : Type} (t : Tab α) : Nat → Nat → Nat
  | 0, i => i
  | f + 1, i => match Tab.get? t i with
    | none => i
    | some _ => Tab.free t f (i + 1)

/-- The lowest number that is no key. -/
def Tab.lowestFree {α : Type} (t : Tab α) : Nat := Tab.free t (t.length + 1) 0

/-- Keys strictly rising: the canonical form. -/
def Tab.wf {α : Type} : Tab α → Bool
  | [] => true
  | [_] => true
  | (a, _) :: (b, w) :: t => decide (a < b) && Tab.wf ((b, w) :: t)

end Sys2Proof.Machine
end

