-- ==== Sys2Proof/Machine/State.lean ====
section
/-!
DEFINITION. Machine/State.lean: everything the spec gives the module, as plain data, and the module right after reset.
-/

namespace Sys2Proof.Machine

/-- The reasons a step can stop with a fault. -/
inductive Fault where
  /-- A physical address in PA[47:44] 0x5 to 0xF, which the module does not implement and never produces (R241).
  Raised by the translation when a page-table entry names one. Safe: the model stops where no module can be. -/
  | physicalRegion (pa : Nat)
deriving DecidableEq, Repr

/-- The reasons a step can be refused. -/
inductive Refusal where
  /-- The command has no meaning yet. Raised by the refused arms of exec only. Safe. -/
  | notModelled (mnemonic : String)
deriving DecidableEq, Repr

/-! ### Registers and hardware threads (chapters 02 to 05) -/

/-- The tags of a general register (table before R30); the codes 0xA to 0xE are never produced. -/
inductive Tag where
  | nil | int | flt | bool | capA | capB | sealed | handle | fmt | seq | poison
deriving DecidableEq, Repr

/-- A general register: a 64-bit value and its tag (R27). -/
structure Reg where
  val : Word
  tag : Tag
deriving DecidableEq, Repr

/-- A register pair: the even register and the odd one (R28). -/
structure Pair where
  a : Reg
  b : Reg
deriving DecidableEq, Repr

/-- A save set SV1, SV2 or SV3 (R92 to R95). TAGS is derived from the saved registers and is not stored twice. -/
structure SaveSet where
  pc : Word
  pcc : Pair
  rscap : Pair
  rsp : Word
  live : Bool
  prevLevel : Fin 4
  prevIe : Bool
  nmi : Bool
  tenancy : Fin 16
  prog : BitVec 32
  cause : Word
  faddr : Word
  g26 : Reg
  g27 : Reg
  g28 : Reg
  g29 : Reg
  g30 : Reg
  g31 : Reg
deriving DecidableEq, Repr

/-- What a WAITING thread waits for (R107, R24). -/
inductive WaitOn where
  /-- A long-vector unit that is DOWN or waking (R144). -/
  | lvWake
  /-- A freed epoch slot (R115). -/
  | epochSlot
  /-- The resolution of the epoch, for a speculative store over quota (R135) or without a way in its set (R283). -/
  | overlay (ten slot : Nat)
  /-- An earlier pass that reads or writes what the instruction needs (R180). -/
  | tileOrder
  /-- A grant of tile registers and a partition (R127). -/
  | tileGrant
  /-- Room in the partition's queue of two passes (R197). -/
  | tileQueue
  /-- Room in an engine's command queue (R66). -/
  | engineQueue
  /-- A slot of a hand-off channel (R124), or credit of a stream channel (R382). -/
  | channel (chan : Nat)
  /-- The zero-fill of a TOUCH page (R254). -/
  | pageFill (space page : Nat)
  /-- The fetch of a REMOTE page that an access at an address needs (R259). -/
  | remote (space page va : Nat)
  /-- The re-encryption of a page ahead of a write (R258). -/
  | reencrypt (space page : Nat)
deriving DecidableEq, Repr

/-- The state of a hardware thread (R107). -/
inductive TStatus where
  | empty | loaded | active | halted
  | waiting (w : WaitOn)
deriving DecidableEq, Repr

/-- An NMI that has been delivered to a thread and not yet entered (R102). -/
inductive NmiState where
  | none | held
deriving DecidableEq, Repr

/-- A long-vector register: 4,096 bits and one poison bit per 64-bit word (R139). -/
structure VReg where
  bits : BitVec 4096
  poison : BitVec 64
deriving DecidableEq, Repr

/-- The tile group a thread holds: physical register numbers by member, and its partition of the array (R167, R172). -/
structure TileGroup where
  members : List Nat
  part : Option Nat
  gen : Nat
deriving DecidableEq, Repr

/-- An instruction that a thread waits with and that goes on of itself when what it waits for has come (R66, R115, R124,
R197). -/
inductive HeldInstr where
  | tmma (ta tb : MIdx) (bank : Fin 2) (rfa rfb : RIdx)
  | tz (bank : Fin 2)
  | tmmaCvt (td ta tb : MIdx) (bank : Fin 2) (rfa rfb rfd : RIdx)
  | tmmaCvtF (td ta tb : MIdx) (bank : Fin 2) (rfa rfb rfd : RIdx)
  | taskEpoch (rd : RIdx) (cs : PIdx) (rs : RIdx)
  | chSend (rd : RIdx) (cs : PIdx) (rx rs : RIdx)
  | chRecv (rd : RIdx) (cs : PIdx) (rx rs : RIdx)
  | chSsend (rd : RIdx) (cs : PIdx) (rx rs : RIdx)
  | engine (fn : Nat) (rd : RIdx) (cs : PIdx) (a : CForm)
deriving DecidableEq, Repr

/-- The state of one hardware thread (R28, R83, R86, R92, R107, R139, R167). -/
structure Thread where
  regs : Vector Reg 32
  pc : Word
  pcc : Pair
  rscap : Pair
  rsp : Word
  /-- The iteration counter, which PROG is loaded into (R28, R99). -/
  iter : BitVec 32
  level : Fin 3
  tenancy : Fin 16
  /-- A monitor task: its objects carry DEV (R84, R109). -/
  dev : Bool
  ie : Bool
  dt1 : Pair
  dt2 : Pair
  lrs1 : Pair
  lrs2 : Pair
  lrsp1 : Word
  lrsp2 : Word
  imask1 : Word
  imask2 : Word
  timerCmp : Word
  /-- Interrupts pending by vector, but for vector 56, which follows the timer (R101, R599). -/
  ipend : Word
  nmi : NmiState
  /-- A REPN has stopped at an iteration boundary for an NMI: ordinary interrupts wait (R62). -/
  inRepn : Bool
  /-- The instruction that PC names has stopped at a boundary or waits: whether it carries a repeat, and whether it is an
  extended form; what CAUSE.PREFIX and CAUSE.EXT of an interrupt taken there show (R94). -/
  stopPfx : Bool
  stopExt : Bool
  sv1 : SaveSet
  sv2 : SaveSet
  sv3 : SaveSet
  status : TStatus
  vregs : Vector VReg 32
  group : Option TileGroup
  /-- Groups granted to the thread so far: the GEN of its tile-group handles (R109). -/
  groupGen : Nat
  /-- Slot of the task that runs on the thread. -/
  task : Option Nat
  /-- The epoch of a speculative task: its slot in the tenancy (R132). -/
  epoch : Option Nat
  /-- The instruction a WAITING thread waits with. -/
  waitsWith : Option HeldInstr
deriving DecidableEq, Repr

/-! ### Tile registers and matrix arrays (chapter 06) -/

/-- One row of a tile register or of a channel slot: its bytes as one number, and its poison bit per 4-byte word. -/
structure TRow where
  data : Nat
  poison : Nat
deriving DecidableEq, Repr

/-- A tile register: shape, row-valid bitmap and rows (R165). Unlisted rows hold nothing an instruction can read. -/
structure Tile where
  rows : Nat
  rowBytes : Nat
  valid : BitVec 128
  data : Tab TRow
deriving DecidableEq, Repr

/-- The kind of a partition bank (R181, R182). -/
inductive BankKind where
  | unset | fp32 | int32
deriving DecidableEq, Repr

/-- One bank row of a partition: 32-bit elements as one number, and a poison bit per element. -/
structure BankRow where
  data : Nat
  poison : Nat
deriving DecidableEq, Repr

/-- One accumulator bank of a partition: the kind, the zero flag of each row, the rows whose flag is clear (R181). -/
structure Bank where
  kind : BankKind
  /-- The A and B descriptors of the last pass into the bank, whose scales TRDA.CVT applies (R199, R213). -/
  last : Option (Word × Word)
  zero : BitVec 128
  rows : Tab BankRow
deriving DecidableEq, Repr

/-- An entry of a partition's queue of two: a pass with its operands and its mask, or a TZ (R193, R197, R198). -/
structure Pass where
  isTz : Bool
  bank : Fin 2
  a : Nat
  b : List Nat
  aScale : Option Nat
  bScale : Option Nat
  fmtA : Word
  fmtB : Word
  k : Nat
  m : Nat
  mask : BitVec 128
  started : Bool
deriving DecidableEq, Repr

/-- One partition of a matrix array (R173, R181, R193, R197, R204). -/
structure Partition where
  width : Nat
  holder : Option Nat
  draining : Bool
  mask : BitVec 128
  bank0 : Bank
  bank1 : Bank
  queue : List Pass
  /-- Tile registers to be freed when the drain ends (R204). -/
  drainRegs : List Nat
deriving DecidableEq, Repr

/-- The power state of a long-vector unit (R142, R143). -/
inductive LvState where
  | powered | down | waking
deriving DecidableEq, Repr

/-! ### Caches and memory (chapters 03, 08, 09, 14) -/

/-- A 128-byte line of an L1 or of a slice, or an overlay line (R277, R289): byte i of the data is bits [8i + 7:8i]. -/
structure CLine where
  data : Nat
  valid : Nat
  dirty : Nat
  tags : Nat
  poison : Nat
  space : Nat
  /-- Class 0 STREAM, 1 NORMAL, 2 PERSIST, 3 PIN (R300). -/
  cls : Nat
  /-- The address window of the last access, 16 for none. -/
  window : Nat
  /-- For an L1 line: the epoch it carries, 64 × tenancy + slot (R132). -/
  epoch : Option Nat
deriving DecidableEq, Repr

/-- A miss-table entry: the sectors being fetched and what the line is installed under (R280, R281). -/
structure Miss where
  sectors : Nat
  /-- Sectors that have arrived. -/
  done : Nat
  space : Nat
  cls : Nat
  window : Nat
deriving DecidableEq, Repr

/-- A byte of HBM or of a slice whose stored value differs from the value its codes protect (R436, R438). -/
structure ByteErr where
  stored : Byte
  flagged : Bool
deriving DecidableEq, Repr

/-- A waiting TCFG: its thread, its destination pair, the shapes of its members and the partition width code (R127, R171). -/
structure TileReq where
  thread : Nat
  rd : RIdx
  shapes : List (Nat × Nat)
  part : Nat
deriving DecidableEq, Repr

/-- The state of one core beside its threads. -/
structure Core where
  l1 : Tab CLine
  /-- Lines held by the L1 instruction cache (R50). -/
  icache : List Nat
  /-- L1 units lent to hand-off channels (R290). -/
  lentUnits : Nat
  lv : LvState
  /-- TIMER_NOW (R599). -/
  timerNow : Word
  tiles : Tab Tile
  /-- Waiting TCFG requests, oldest first (R128). -/
  tileWait : List TileReq
  parts : Vector Partition 4
deriving DecidableEq, Repr

/-- Why a shadow frame is held (R262): a schedule entry of a command, by the command's order, with the slot of its RELEASE task, an on-demand fetch of a task, or an engine. -/
inductive ShadowHolder where
  | entry (seq entry : Nat) (release : Option Nat)
  | task (slot : Nat)
  | engine (cmd : Nat)
deriving DecidableEq, Repr

/-- An entry of the shadow map (R261). -/
structure Shadow where
  space : Nat
  /-- First 64 KiB page number of the REMOTE page. -/
  page : Nat
  level : Nat
  node : Nat
  rframe : Nat
  frame : Nat
  /-- The layout of a transposed entry: its first page, its pages, ROWS and the element size (R269). -/
  layout : Option (Nat × Nat × Nat × Nat)
  /-- Bytes of the frame that have arrived, as runs. -/
  got : List (Nat × Nat)
  holders : List ShadowHolder
  filled : Bool
  keyEpoch : Nat
deriving DecidableEq, Repr

/-- A TOUCH page whose frames are being zero-filled (R254). -/
structure Fill where
  space : Nat
  page : Nat
  level : Nat
  frame : Nat
deriving DecidableEq, Repr

/-- Free frames as runs (first 64 KiB unit, number of units), in rising order. -/
abbrev Runs := List (Nat × Nat)

/-- The pager's state of one of the 17 address spaces (R243, R253). -/
structure Space where
  pool : Runs
  /-- Node frames: unit ↦ the nodes packed in it, as (offset, size). -/
  nodeFrames : Tab (List (Nat × Nat))
  /-- 64 KiB units of pages held (leaf frames and shadow frames). -/
  pagesHeld : Nat
  /-- Key epoch counter (chapter 15), whose two low bits a page carries. -/
  keyEpoch : Nat
  /-- A key-epoch sweep is in progress (R346). -/
  sweeping : Bool
deriving DecidableEq, Repr

/-! ### The Chanter (chapter 04) -/

/-- The state of a task (R116). -/
inductive TaskState where
  | waitCue | dispatchable | running | doneSpec | done | discarded | aborted
deriving DecidableEq, Repr

/-- A live task (R111, R113). -/
structure Task where
  gen : Nat
  tenancy : Fin 16
  dev : Bool
  state : TaskState
  code : Pair
  rstack : Pair
  dstack : Pair
  argC : Pair
  argCap : Bool
  w0 : Word
  offset : Word
  cue : Nat
  vec : Bool
  ie : Bool
  group : Nat
  succ : List Word
  epoch : Option Nat
  creator : Option Nat
  creatorTask : Option Nat
  /-- The thread it runs on. -/
  thread : Option Nat
  /-- The core chosen when the counter of a VEC task fell to 1 (R120). -/
  core : Option Nat
  /-- Whether its first instruction has issued (R268). -/
  issued : Bool
deriving DecidableEq, Repr

/-- The state of an epoch slot (R116). -/
inductive EpochState where
  | opened | committed | discarded
deriving DecidableEq, Repr

/-- A speculation epoch in one of the tenancy's 64 slots (R115, R132 to R134). -/
structure Epoch where
  gen : Nat
  state : EpochState
  step : Bool
  creator : Option Nat
  creatorTask : Option Nat
  /-- Overlay lines still charged to the tenancy's quota. -/
  lines : Nat
  /-- Paired pages registered to flip on commit: first 64 KiB page numbers (R257). -/
  flips : List Nat
  /-- What its commands have added to the module's vote so far: non-finite elements and failed commands (R413). -/
  vote : Nat
  /-- A reduction of its commands tore, or its vote carried the missing flag (R467). -/
  torn : Bool
deriving DecidableEq, Repr

/-- A block on a hand-off channel (R124): rows, shape, and whether its last row has landed. -/
structure Block where
  rows : Nat
  rowBytes : Nat
  data : Tab TRow
  landed : Bool
deriving DecidableEq, Repr

/-- A hand-off channel (R122 to R125). -/
structure Chan where
  gen : Nat
  tenancy : Fin 16
  dev : Bool
  producer : Nat
  consumer : Nat
  depth : Nat
  slotBytes : Nat
  units : Nat
  blocks : List Block
  task : Option Word
  halted : Bool
  closing : Bool
  creator : Option Nat
  creatorTask : Option Nat
deriving DecidableEq, Repr
/-! ### Engine commands (chapters 08, 10, 12, 14, 15) -/

/-- A piece of an operand range with the translation that its command holds until it completes (R252, R316): the bytes, the
address of the current buffer, and that of the alternate buffer, which is the same where the page is not paired. -/
structure Piece where
  va : Nat
  len : Nat
  cur : Nat
  alt : Nat
  paired : Bool
deriving DecidableEq, Repr

/-- An operand slot of an accepted command (R315, R316). -/
structure SlotMap where
  index : Nat
  space : Nat
  base : Nat
  len : Nat
  alt : Bool
  writes : Bool
  pieces : List Piece
deriving DecidableEq, Repr

/-- How far a command is: its translations wait for remote pages, it is held for its epoch (R133), it has started, or its
outcome is decided and its record is still to be written. -/
inductive CmdPhase where
  | accepting | held | started | ended
deriving DecidableEq, Repr

/-- The outcome of a command: the fields of its completion record (R266, R317). -/
structure CmdResult where
  status : Nat
  reason : Nat
  /-- SLOT of R317; for a gather command ENTRY of R266. -/
  slot : Nat
  flags : Nat
  /-- COUNT of R317; for a gather command PAGE of R266. -/
  count : Nat
deriving DecidableEq, Repr

/-- An entry of a gather schedule (R267, R268): state 0 waits, 1 started, 2 filled. -/
structure GEntry where
  va : Nat
  pages : Nat
  rows : Nat
  flags : Nat
  start : Word
  release : Word
  state : Nat
  level : Nat
  /-- Its reserved bytes are zero and none is poisoned. -/
  ok : Bool
deriving DecidableEq, Repr

/-- A live engine command (R65, R266, R314 to R320). -/
structure Cmd where
  gen : Nat
  /-- Engine number less 0x70. -/
  engine : Nat
  op : Nat
  /-- Space whose completion area takes the record. -/
  space : Nat
  tenancy : Fin 16
  dev : Bool
  level : Nat
  thread : Nat
  /-- The issuing task, by slot and generation. -/
  task : Option Nat
  /-- The open epoch of the issuing task. -/
  epoch : Option Nat
  /-- Order of issue. -/
  seq : Nat
  cs : Pair
  arg : Word
  /-- The command block: its 32 words, tag bits and poison marks, as read at acceptance. -/
  block : List Nat
  blockTags : Nat
  blockPoison : Nat
  phase : CmdPhase
  slots : List SlotMap
  entries : List GEntry
  /-- Numbers the command keeps from its acceptance on: tensor records of an UPDATE, and its progress. -/
  aux : List Nat
  result : CmdResult
deriving DecidableEq, Repr

/-- Root sums in the gradient landing areas: n elements of a reduction's landing range from an address on, with the job and
the contributor count (R311, R409). -/
structure Landing where
  space : Nat
  job : Nat
  va : Nat
  n : Nat
  count : Nat
  /-- INDEX of the owner's CU.RED. -/
  cmd : Nat
  sums : Nat
  poison : Nat
deriving DecidableEq, Repr


/-! ### The fabric (chapter 11) -/

/-- A packet outside a link: header fields and payload (R362). -/
structure Packet where
  dest : Nat
  src : Nat
  type : Nat
  flags : Nat
  hops : Nat
  job : Nat
  len : Nat
  tspec : Nat
  data : Nat
deriving DecidableEq, Repr

/-- A link key and its salt (R364, R485). -/
structure LinkKey where
  key : Nat
  salt : Nat
deriving DecidableEq, Repr

/-- A byte string: its length and its bytes as one number, the first byte least significant. -/
structure Blob where
  len : Nat
  val : Nat
deriving DecidableEq, Repr

/-- A key exchange in progress on a port (R482 to R486). -/
structure Kex where
  nonce : Nat
  dk : Blob
  offer : Blob
  /-- The peer's OFFER once verified. -/
  peer : Option Blob
  /-- The secret encapsulated to the peer's key, and the one decapsulated from the peer's ACCEPT. -/
  ssPeer : Option Nat
  ssOwn : Option Nat
  /-- A message being assembled: MSG, the next fragment, NFRAG, the bytes so far. -/
  part : Option (Nat × Nat × Nat × Blob)
deriving DecidableEq, Repr

/-- A packet as it arrives on a link: its channel, its place in the count of packets, the key of its SOP flit, and its bytes so
far (R362, R364). -/
structure RxPacket where
  vc : Nat
  count : Nat
  key : Option LinkKey
  bytes : Blob
deriving DecidableEq, Repr

/-- A link port (R352 to R368); its state and widths stand in Stop 0x4002. -/
structure Port where
  /-- Lanes in use in each direction, as masks (R351). -/
  txLanes : Nat
  rxLanes : Nat
  /-- Departures from ACTIVE in the management period (R354). -/
  departures : Nat
  /-- HELLOs sent since the port last left OFF (R367). -/
  helloSent : Nat
  /-- Sequence number of the next flit to send. -/
  txSeq : Nat
  /-- Sequenced flits not yet acknowledged, oldest first: number and 256 bytes. The first 1,024 are in the retry buffer and
  sent; control flits beyond them wait for room (R358). -/
  unacked : List (Nat × Nat)
  /-- Sequence number of the next flit expected. -/
  rxSeq : Nat
  /-- Times in a row that this flit has failed (R358). -/
  rxFails : Nat
  /-- Whether a NAK is owed. -/
  nak : Bool
  /-- The flit that the neighbour last asked for again, and how many times in a row. -/
  txFails : Nat × Nat
  /-- Credits held on the eight channels, in flits (R360). -/
  credits : List Nat
  /-- Flits that have left the receive buffers since credit was last returned, by channel. -/
  freed : List Nat
  /-- The packet being received on each channel. -/
  rxPart : Tab RxPacket
  /-- Packets that have arrived whole and wait for the router, oldest first. -/
  arrived : List RxPacket
  txKey : Option LinkKey
  rxKey : Option LinkKey
  /-- The receive key that the neighbour's next KEY_SWITCH brings in (R361, R486). -/
  nextRx : Option LinkKey
  keyEpoch : Nat
  txCount : Nat
  rxCount : Nat
  kex : Option Kex
  /-- Key exchanges that have failed (R484). -/
  kexFails : Nat
  /-- When vector 59 was last raised (R376). -/
  lastDiscard : Option Nat
deriving DecidableEq, Repr

/-! ### Stream channels (R126, R379 to R383) -/

/-- A ring slot of a receiving end: the block's number since the stream opened, the packets that have arrived, the index of
the LAST one, and the task that holds it. -/
structure RingSlot where
  block : Nat
  got : List Nat
  last : Option Nat
  /-- The block has arrived and its cue is delivered. -/
  cued : Bool
  holder : Option Nat
deriving DecidableEq, Repr

/-- A stream channel (R379 to R383). -/
structure Stream where
  gen : Nat
  tenancy : Fin 16
  dev : Bool
  number : Nat
  recv : Bool
  /-- The remote node: at the sending end from cs, at the receiving end once bound. -/
  node : Option Nat
  ring : Pair
  slotBytes : Nat
  slots : Nat
  /-- Sending end: whether STR_OPEN has been answered, credits held, blocks begun, and the blocks in progress as thread, task
  and block number. -/
  answered : Bool
  credit : Nat
  sent : Nat
  sending : List (Nat × Option Nat × Nat)
  /-- Receiving end: credits granted so far, the ring slots in use, the next block whose cue is due, the bound task. -/
  granted : Nat
  ringSlots : Tab RingSlot
  nextCue : Nat
  task : Option Word
  halted : Bool
  closing : Bool
  creator : Option Nat
  creatorTask : Option Nat
deriving DecidableEq, Repr

/-! ### Collectives (chapter 12) -/

/-- A reduction group of a tenancy (R386 to R388, R396). -/
structure RGroup where
  nodes : List Nat
  rank : Nat
  ports : Nat
  ctxq : Nat
deriving DecidableEq, Repr

/-- A SHAKE256 state that is being absorbed into: the sponge and the bytes of the block in progress (R415). -/
structure Sponge where
  st : Nat
  part : Blob
deriving DecidableEq, Repr

/-- What a node holds of one child of a reduction (R391, R397 to R405). -/
structure RChild where
  rank : Nat
  /-- Its first chunk has arrived. -/
  seen : Bool
  /-- Its subtree is missing (R403). -/
  missing : Bool
  /-- Chunks that wait to be added: number and payload. -/
  buf : List (Nat × Nat)
  /-- Chunks granted. -/
  grant : Nat
  /-- A GRANT with RESEND has been sent and nothing has arrived since. -/
  resent : Bool
  /-- Its DONE: COUNT and the missing roots it reported. -/
  fin : Option (Nat × List Nat)
  /-- Its DONE has been acknowledged. -/
  acked : Bool
deriving DecidableEq, Repr

/-- A reduction that a module takes part in, from the acceptance of its CU.RED on (R391 to R406). -/
structure Red where
  tenancy : Nat
  job : Nat
  gid : Nat
  rid : Nat
  step : Nat
  owner : Nat
  /-- Group size and tree position. -/
  n : Nat
  pos : Nat
  elems : Nat
  pfmt : Nat
  cfmt : Word
  port : Nat
  opened : Bool
  left : Option RChild
  right : Option RChild
  /-- The next chunk to add. -/
  next : Nat
  /-- Chunks that the parent has granted. -/
  granted : Nat
  /-- Chunks sent and not yet acknowledged. -/
  unacked : List (Nat × Nat)
  doneSent : Bool
  /-- Root sums at the owner that are not delivered yet: chunk and elements. -/
  sums : List (Nat × Nat)
  late : Bool
  sent : Sponge
  recv : Sponge
deriving DecidableEq, Repr

/-- A child's VOTE (R414). -/
structure VChild where
  rank : Nat
  vote : Option (Nat × Bool)
  missing : Bool
deriving DecidableEq, Repr

/-- A CU.CHECK that waits for votes or for its result (R413, R414). -/
structure Check where
  tenancy : Nat
  gid : Nat
  step : Nat
  epoch : Word
  /-- The module's own vote once it is taken. -/
  own : Option Nat
  left : Option VChild
  right : Option VChild
  /-- Its VOTE has gone to the parent. -/
  sent : Bool
deriving DecidableEq, Repr

/-- A control packet that has arrived ahead of the command it belongs to: kind 0 VOTE, 1 RESULT, 2 BREADY, 3 GRANT, 4 DROP
(R398, R404, R412, R414). -/
structure HeldCtl where
  kind : Nat
  job : Nat
  src : Nat
  tspec : Nat
  total : Nat
  flag : Bool
deriving DecidableEq, Repr

/-- An entry of a port's digest ring (R415, R416): the digests of the reductions absorbed so far, as RID, SENT and RECV. -/
structure DigestEntry where
  tenancy : Nat
  job : Nat
  gid : Nat
  step : Nat
  closed : Bool
  flagged : Bool
  done : List (Nat × Nat × Nat)
deriving DecidableEq, Repr

/-! ### Snapshots, bundles and the life of a tenancy (chapters 14 and 15) -/

/-- A cursor entry (R459). -/
structure Cursor where
  base : Nat
  num : Nat
  den : Nat
  value : Nat
deriving DecidableEq, Repr

/-- A snapshot point that is pending (R455): its SN.POINT, the epoch at whose commit it is taken, and whether that commit has
passed while a drain was in progress. -/
structure SnapPoint where
  cmd : Nat
  /-- For a SNAPSHOT_NOW: its ring and HSEQ in place of a command; its epoch is 0, the next one with STEP set (R527). -/
  host : Option (Nat × Nat)
  epoch : Word
  dataPos : Nat
  cursors : List Cursor
  deferred : Bool
deriving DecidableEq, Repr

/-- A drain in progress (R456): the blocks still to send, each with whether it holds a poisoned word; the physical runs it
reads, first byte and length. -/
structure Drain where
  cmd : Nat
  host : Option (Nat × Nat)
  step : Nat
  stream : Nat
  blocks : List (Blob × Bool)
  /-- Slots whose credit is outstanding when the drain begins and blocks sent since, and credits that have come back since. -/
  sent : Nat
  returned : Nat
  start : Nat
  runs : List (Nat × Nat)
deriving DecidableEq, Repr

/-- A bundle of the attestation entries (R490, R492). -/
structure Bundle where
  order : Nat
  version : Nat
  ident : Nat
  digest : Nat
deriving DecidableEq, Repr

/-- A bundle-key slot of Saffron (R487 to R490): chunks verified so far with their tags. -/
structure KeySlot where
  tenancy : Nat
  key : Nat
  version : Nat
  ident : Nat
  bytes : Nat
  chunks : Nat
  payload : Nat
  digest : Nat
  order : Nat
  tags : Tab Nat
deriving DecidableEq, Repr

/-- What the module keeps for a tenancy beside its Stops and its space. -/
structure Tenant where
  /-- Digests of the program images, by slot (R492). -/
  programs : Tab Nat
  bundles : List Bundle
  /-- Bundles opened since the last scrub, and the highest VERSION by BUNDLE_ID (R489). -/
  opened : Nat
  versions : Tab Nat
  /-- The snapshot set and its target (R454). -/
  snapRanges : List (Nat × Nat)
  snapTarget : Option Word
  point : Option SnapPoint
  drain : Option Drain
  /-- Total times of the last 16 steps, youngest first (R462). -/
  stepTimes : List Nat
  /-- Consecutive discards under the second case of R467. -/
  badDiscards : Nat
  /-- The case of R467 under which the tenancy entered HELD, 0 outside. -/
  heldCase : Nat
  /-- An epoch has committed since START_JOB (R464). -/
  committed : Bool
  /-- STEP and DATA_POS of the SN.RESTORE completed since the tenancy entered HELD or START_JOB, and whether one completed with
  OK (R465, R469). -/
  restored : Option (Nat × Nat)
  restoredOk : Bool
  /-- The step after which the job ends (STEP_CLOSE with FINAL, R527). -/
  finalStep : Option Nat
  /-- BAR2 accesses dropped or aborted in the management period, and the address of the first (R533). -/
  refused : Nat
  refusedVa : Nat
deriving DecidableEq, Repr

/-! ### The host interface (chapter 16) -/

/-- An accepted command that has not finished (R512 to R514, R527): stage 0 not started, 1 started, 2 waiting for flash. -/
structure HostCmd where
  sq : Nat
  hseq : Nat
  op : Nat
  ordered : Bool
  tag : Nat
  params : Nat
  stage : Nat
  /-- INDEX of the engine command that it waits for. -/
  cmd : Option Nat
deriving DecidableEq, Repr

/-- A completion that waits to be posted (R516). -/
structure Posting where
  status : Nat
  tstate : Nat
  sq : Nat
  reset : Bool
  hseq : Nat
  tag : Nat
  result : Nat
deriving DecidableEq, Repr

/-- A submission ring (R507 to R513): control bits [9:0], the W1C status bits, the doorbell value, and whether it fetches
nothing until the next doorbell write. -/
structure SubRing where
  base : Nat
  ctl : Nat
  status : Nat
  door : Nat
  stalled : Bool
deriving DecidableEq, Repr

/-- A completion ring or the event ring (R508, R518): control bits [4:0], the W1C status bits, the last head written. -/
structure CompRing where
  base : Nat
  ctl : Nat
  status : Nat
  head : Nat
  waiting : List Posting
deriving DecidableEq, Repr

/-- A BAR0 mailbox (R548). -/
structure Mailbox where
  req : Nat
  len : Nat
  /-- MB_STATUS: GEN, RLEN, TYPE, OVERRUN, DONE, BUSY, STATUS. -/
  status : Nat
  data : Nat
deriving DecidableEq, Repr

/-- A PCIe function (R495, R503 to R510). -/
structure Func where
  enabled : Bool
  bar2 : Nat
  ev : CompRing
  sqs : Tab SubRing
  cqs : Tab CompRing
  /-- Accepted commands that have not finished, oldest first. -/
  cmds : List HostCmd
  boxes : Tab Mailbox
  /-- MSI-X table by 8-byte word, and the pending bits. -/
  msix : Tab Nat
  pending : Nat
  /-- The state of the function's TDI: 0 unlocked, 1 locked, 2 RUN, 3 error (R503, R504). -/
  tdi : Nat
  /-- The key of the function's selective IDE stream. -/
  ide : Option Nat
  /-- A RESUME that is owed: the reset kind; and whether RESET completions are owed (R530). -/
  resume : Option Nat
  /-- Commands accepted before a reset whose completions are owed with RESET, each with the completion ring of its queue. -/
  abandoned : List (Nat × HostCmd)
  /-- The completion of the function's last read through BAR2 (R533, R534): 0 the data, 1 the data as a poisoned TLP, 2 Completer
  Abort, 3 Unsupported Request. -/
  reply : Nat × Blob
deriving DecidableEq, Repr

/-! ### The management port and stored Stops (chapter 17) -/

/-- A source of Stop Access requests (R554): its session, the last REQSEQ, the kept responses with their REQSEQ, an empty one
while its request is still in progress. -/
structure Source where
  ident : Nat
  session : Nat
  last : Nat
  kept : List (Nat × Blob)
deriving DecidableEq, Repr

/-- Where a Stop Access message has come from and where its answer goes (R550, R557): the IPv6 address, or 2^128 + the node of a fabric
request; the UDP port; and for a source-routed request its hop count field and its port list. -/
structure SapFrom where
  addr : Nat
  port : Nat
  route : Option (Nat × Nat)
deriving DecidableEq, Repr

/-- Who asked for a Stop access: a mailbox, a command of a host ring, or a Stop Access message (R543). -/
inductive Asker where
  | box (fn box : Nat)
  | ring (fn sq hseq : Nat)
  | sap (src : SapFrom) (msg : Blob) (tagged : Bool)
  | none
deriving DecidableEq, Repr

/-- A write of a stored Stop that has not reached flash (R546): its key, the value before, and who waits for it. -/
structure FlashWrite where
  key : Nat
  old : Nat
  asker : Asker
deriving DecidableEq, Repr

/-! ### Power, clocks and pins (chapters 18 and 19) -/

/-- The standby island's view of supplies, clocks and pins (R562 to R596). PGOOD, dividers, temperatures and the device state
are Stops. -/
structure Power where
  pwrReq : Bool
  pwrEn : Bool
  /-- CK_ROOT is locked, and CK_CTL runs from it (R569, R570). -/
  locked : Bool
  /-- Supplies above 10 % of nominal, by bit of PGOOD, and the fault of a wrong order (R567). -/
  risen : Nat
  orderFault : Bool
  /-- PWR_EN did not come in time: PWR_REQ waits for its retry (R565). -/
  retry : Bool
  /-- The lowest reset kind whose cause has arrived since the last BRINGUP (R576). -/
  kind : Option Nat
  mrstLow : Bool
  perstLow : Bool
  /-- The trip latch, and THERM_TRIP_N held low from outside (R593, R594). -/
  trip : Bool
  tripOutside : Bool
  /-- The leak latch; moisture reported; a reset has come while both inputs were dry (R595). -/
  leak : Bool
  leakWet : Bool
  leakDry : Bool
  /-- Sensors at or above TRIP_TEMP in the last sample, 16 bits for each quarter (R593). -/
  hot : Nat
  /-- Divider changes decided and not yet in effect: quarter and new divider, oldest first (R572). -/
  changes : List (Nat × Nat)
  /-- Quarters whose core regulators their comparator has stopped (R593). -/
  stopped : Nat
  nmiLow : Bool
  /-- Conditions that hold ALERT_N low, as logged last (R588). -/
  alerts : Nat
deriving DecidableEq, Repr

/-! ### Stops and free values -/

/-- The value of one Stop, least significant byte first as one number, and its GEN (R545). -/
structure StopCell where
  val : Nat
  gen : BitVec 32
deriving DecidableEq, Repr

/-- An event that waits for its event ring: code and 16 bytes of detail (R521, R523). -/
structure PEvent where
  code : Nat
  detail : Nat
deriving DecidableEq, Repr

/-- A mailbox message to the Drone: a thread halted at L3 (R97), or a report (R251). -/
structure DroneMsg where
  core : Nat
  thread : Nat
  vector : Nat
deriving DecidableEq, Repr

/-! ### The module -/

/-- A stride detector (R299): the space and the address of the miss matched last, the separation of the last two (0 after one), the
successive misses so separated (at most 3 are counted), and the sectors requested ahead at the last match. -/
structure Detector where
  space : Nat
  last : Nat
  stride : Int
  run : Nat
  ahead : Nat
deriving DecidableEq, Repr

/-- The state of the module and the queue of the commands that are waiting, first in, first out. -/
structure State where
  threads : Vector Thread 768
  cores : Vector Core 48
  /-- HBM contents by physical address; an unlisted byte reads as zero. -/
  hbm : List Host.Cell
  /-- Granules (physical address / 16) whose memory tag bit is set (R81), rising. -/
  hbmTags : Tab Unit
  /-- Words (physical address / 8) stored with the poison mark (R443), rising. -/
  hbmPoison : Tab Unit
  /-- Bytes of HBM in error (R436, R438). -/
  hbmErrs : Tab ByteErr
  /-- Lines of the Reservoir slices by line number, physical address / 128 (R275, R277). -/
  slc : Tab CLine
  /-- Bytes of slice SRAM in error, by physical address (R435). -/
  slcErrs : Tab ByteErr
  /-- Overlay lines: key (64 × tenancy + epoch slot) × 2^41 + line number (R132). -/
  overlay : Tab CLine
  /-- Victim buffers, oldest first: line number and line (R284). -/
  victims : List (Nat × CLine)
  /-- Miss tables by line number (R280). -/
  misses : Tab Miss
  spaces : Vector Space 17
  /-- The device free list, one per region of R241 (R253). -/
  freeFrames : Vector Runs 5
  shadows : List Shadow
  fills : List Fill
  /-- The pager's pair map: A frames of paired pages whose current buffer is B (R257). -/
  pairMap : Tab Unit
  tasks : Tab Task
  /-- Generation of each task slot that has been used (R109). -/
  taskGen : Tab Nat
  /-- Final states of ended tasks whose slot has not been used again (R116). -/
  taskEnd : Tab TaskState
  /-- Dispatchable tasks in the order in which their counters reached zero (R118). -/
  ready : List Nat
  /-- Core groups: key 64 × tenancy + group, value core mask (R115). -/
  groups : Tab Nat
  epochs : Tab Epoch
  epochGen : Tab Nat
  chans : Tab Chan
  chanGen : Tab Nat
  /-- Live engine commands by the INDEX of their handles. -/
  cmds : Tab Cmd
  cmdGen : Tab Nat
  /-- Commands issued so far: their order. -/
  cmdSeq : Nat
  /-- Root sums that no UPDATE has taken yet, oldest first. -/
  landing : List Landing
  /-- Stops that do not hold their default: key of the Stop ↦ value and GEN. -/
  stops : Tab StopCell
  /-- Events held for each tenancy's event ring, oldest first (R522). -/
  events : Vector (List PEvent) 16
  /-- Events dropped since the previous posting, for LOST (R522). -/
  eventsLost : Vector Nat 16
  /-- Messages in the Drone's mailbox, oldest first (R97). -/
  droneMail : List DroneMsg
  /-- Messages in the monitor's mailbox, which vector 61 announces (R251). -/
  monitorMail : Nat
  ports : Vector Port 16
  /-- Packets that this module has made and its router has not taken yet, oldest first (R374). -/
  outbox : List Packet
  /-- Packets discarded since the last FABRIC event (R523). -/
  fabricDiscards : Nat
  streams : Tab Stream
  streamGen : Tab Nat
  redGroups : Tab RGroup
  /-- Reductions by the INDEX of their CU.RED, and votes by that of their CU.CHECK. -/
  reds : Tab Red
  checks : Tab Check
  heldCtl : List HeldCtl
  /-- Late contributions already counted: group, TSPEC without the chunk, sender (R404). -/
  lateSeen : List (Nat × Nat × Nat)
  /-- Digest entries in progress or kept, by 64 × port + slot (R415, R416). -/
  digests : Tab DigestEntry
  tenants : Vector Tenant 16
  /-- Saffron's 64 bundle-key slots (R489). -/
  keySlots : Tab KeySlot
  /-- Retired sets of the Reservoir: slice and set (R447). -/
  retired : List (Nat × Nat)
  funcs : Vector Func 16
  /-- Memory writes that the module has made on its PCIe link, in order: bus address and bytes (R516, R519, R521). -/
  hostOut : List (Nat × Blob)
  /-- A secured SPDM session is set up (R503). -/
  spdm : Bool
  flash : List FlashWrite
  /-- Sources of Stop Access requests, the one used last at the end (R554). -/
  sources : List Source
  /-- Stop Access responses sent: destination and message (R550, R557). -/
  sapOut : List (SapFrom × Blob)
  /-- DISCOVER requests by multicast whose slot delay runs (R556). -/
  discovers : List (SapFrom × Blob)
  /-- Management messages received for the Drone: source and message (R550). -/
  sapIn : List (Nat × Blob)
  /-- The last response of the DOE mailbox (R503). -/
  doe : Option Blob
  power : Power
  /-- The 8 stride detectors of each thread, the one matched last first (R299). -/
  detectors : Tab (List Detector)
  /-- QL_SHARE as it was at the last BRINGUP (R241). -/
  qlShare : Nat
  /-- The model's own field: how many free values have been drawn. -/
  draws : Nat
  pending : List Instr
deriving DecidableEq, Repr

/-! ### Reset -/

/-- An empty register: value 0, tag NIL (R28). -/
def Reg.nil : Reg := ⟨0, .nil⟩

/-- A pair that is no capability. -/
def Pair.nil : Pair := ⟨Reg.nil, Reg.nil⟩

/-- A save set after reset (R92 to R95). -/
def SaveSet.reset : SaveSet :=
  { pc := 0, pcc := .nil, rscap := .nil, rsp := 0, live := false, prevLevel := 0, prevIe := false, nmi := false,
    tenancy := 0, prog := 0, cause := 0, faddr := 0, g26 := .nil, g27 := .nil, g28 := .nil, g29 := .nil,
    g30 := .nil, g31 := .nil }

/-- A thread with no task (R28, R107, R599). -/
def Thread.reset : Thread :=
  { regs := Vector.replicate 32 Reg.nil, pc := 0, pcc := .nil, rscap := .nil, rsp := 0, iter := 0, level := 0,
    tenancy := 0, dev := false, ie := false, dt1 := .nil, dt2 := .nil, lrs1 := .nil, lrs2 := .nil, lrsp1 := 0,
    lrsp2 := 0, imask1 := 0, imask2 := 0, timerCmp := 0xFFFFFFFFFFFFFFFF, ipend := 0, nmi := .none, inRepn := false, stopPfx := false, stopExt := false,
    sv1 := .reset, sv2 := .reset, sv3 := .reset, status := .empty, vregs := Vector.replicate 32 ⟨0, 0⟩,
    group := none, groupGen := 0, task := none, epoch := none, waitsWith := none }

/-- A bank whose rows are all zero-flagged and whose kind is unset (R181). -/
def Bank.reset : Bank := ⟨.unset, none, BitVec.allOnes 128, []⟩

/-- A partition that nobody holds. -/
def Partition.reset : Partition :=
  { width := 0, holder := none, draining := false, mask := 0, bank0 := .reset, bank1 := .reset, queue := [],
    drainRegs := [] }

/-- A core after reset. -/
def Core.reset : Core :=
  { l1 := [], icache := [], lentUnits := 0, lv := .down, timerNow := 0, tiles := [], tileWait := [],
    parts := Vector.replicate 4 .reset }

/-- An address space with nothing mapped. -/
def Space.reset : Space := ⟨[], [], 0, 0, false⟩

/-- A port with nothing sent or received. -/
def Port.reset : Port :=
  { txLanes := 0, rxLanes := 0, departures := 0, helloSent := 0, txSeq := 0, unacked := [], rxSeq := 0, rxFails := 0, nak := false, txFails := (0, 0), credits := [0, 0, 0, 0, 0, 0, 0, 0],
    freed := [0, 0, 0, 0, 0, 0, 0, 0], rxPart := [], arrived := [], txKey := none, rxKey := none, nextRx := none, keyEpoch := 0,
    txCount := 0, rxCount := 0, kex := none, kexFails := 0, lastDiscard := none }

/-- A tenancy of which nothing is kept. -/
def Tenant.reset : Tenant :=
  { programs := [], bundles := [], opened := 0, versions := [], snapRanges := [], snapTarget := none, point := none, drain := none,
    stepTimes := [], badDiscards := 0, heldCase := 0, committed := false, restored := none, restoredOk := false, finalStep := none,
    refused := 0, refusedVa := 0 }

/-- A ring that is not enabled. -/
def CompRing.reset : CompRing := { base := 0, ctl := 0, status := 0, head := 0, waiting := [] }

/-- A submission ring that is not enabled: its doorbell value makes no entry available (R512). -/
def SubRing.reset : SubRing := { base := 0, ctl := 0, status := 0, door := 0xFFFFFFFF, stalled := false }

/-- A mailbox that nobody has used. -/
def Mailbox.reset : Mailbox := { req := 0, len := 0, status := 0, data := 0 }

/-- A function that is not enabled. -/
def Func.reset : Func :=
  { enabled := false, bar2 := 0, ev := .reset, sqs := [], cqs := [], cmds := [], boxes := [], msix := [], pending := 0, tdi := 0,
    ide := none, resume := none, abandoned := [], reply := (3, ⟨0, 0⟩) }

/-- The standby island in STANDBY: VSTBY alone is present and no other supply has risen. -/
def Power.reset : Power :=
  { pwrReq := false, pwrEn := false, locked := false, risen := 1, orderFault := false, retry := false, kind := some 0,
    mrstLow := false, perstLow := false, trip := false, tripOutside := false, leak := false, leakWet := false, leakDry := false,
    hot := 0, changes := [], stopped := 0, nmiLow := false, alerts := 0 }

/-- The module right after a reset of kind 0: in STANDBY, every Stop at its default. -/
def State.reset : State :=
  { threads := Vector.replicate 768 .reset, cores := Vector.replicate 48 .reset, hbm := [], hbmTags := [],
    hbmPoison := [], hbmErrs := [], slc := [], slcErrs := [], overlay := [], victims := [], misses := [],
    spaces := Vector.replicate 17 .reset, freeFrames := Vector.replicate 5 [], shadows := [], fills := [],
    pairMap := [], tasks := [], taskGen := [], taskEnd := [], ready := [], groups := [], epochs := [], epochGen := [],
    chans := [], chanGen := [], cmds := [], cmdGen := [], cmdSeq := 0, landing := [], stops := [],
    events := Vector.replicate 16 [], eventsLost := Vector.replicate 16 0, droneMail := [], monitorMail := 0, ports := Vector.replicate 16 .reset, outbox := [], fabricDiscards := 0, streams := [], streamGen := [],
    redGroups := [], reds := [], checks := [], heldCtl := [], lateSeen := [], digests := [],
    tenants := Vector.replicate 16 .reset, keySlots := [], retired := [], funcs := Vector.replicate 16 .reset, hostOut := [],
    spdm := false, flash := [], sources := [], sapOut := [], discovers := [], sapIn := [], doe := none, power := .reset, detectors := [], qlShare := 1,
    draws := 0, pending := [] }

end Sys2Proof.Machine
end

