-- ==== Sys2Proof/Machine/Ops.lean ====
section
/-!
DEFINITION. Machine/Ops.lean: the monad of a meaning, register reads and writes, and the exception conditions.
A meaning runs in a state and may end early with the state it has reached: an exception, a wait, or a stop at a boundary.
-/

namespace Sys2Proof.Machine

/-- An exception condition: vector, detail word and FADDR (R87). -/
structure Exc where
  vector : Nat
  detail : Nat
  faddr : Nat
deriving DecidableEq, Repr

/-- Why a meaning ends before its end. -/
inductive Halt where
  /-- It raises an exception. -/
  | exc (e : Exc)
  /-- The thread waits; the instruction is issued again or goes on later (R24). -/
  | wait (w : WaitOn)
  /-- A resumable instruction stops at a boundary, its progress in the iteration counter (R61). -/
  | pause
  /-- A fault of the model. -/
  | stop (f : Fault)
deriving DecidableEq, Repr

/-- The monad of a meaning. An early end keeps the state reached. -/
abbrev M := EStateM Halt State

/-- The present state. -/
def getS : M State := fun s => .ok s s
/-- Replaces the state. -/
def setS (s : State) : M Unit := fun _ => .ok () s
/-- Changes the state. -/
def modS (f : State → State) : M Unit := fun s => .ok () (f s)
/-- Runs a function that answers a value and a new state. -/
def runS {α : Type} (f : State → α × State) : M α := fun s => .ok (f s).1 (f s).2
/-- Raises an exception (R68 gives the order in which a meaning tests its conditions). -/
def raise {α : Type} (vector detail faddr : Nat) : M α := fun s => .error (.exc ⟨vector, detail, faddr⟩) s
/-- Waits. -/
def waitFor {α : Type} (w : WaitOn) : M α := fun s => .error (.wait w) s
/-- Stops at a boundary. -/
def pauseM {α : Type} : M α := fun s => .error .pause s

/-! ### Vectors (R87) -/

def vecTagMismatch : Nat := 4
def vecCapViolation : Nat := 5
def vecPageFault : Nat := 6
def vecTileShape : Nat := 7
def vecTileFault : Nat := 8
def vecPoisonUse : Nat := 9
def vecUncorrFetch : Nat := 10
def vecCoprocAbsent : Nat := 11
def vecIllegalOp : Nat := 12
def vecAlign : Nat := 13
def vecArith : Nat := 14
def vecScaleExhausted : Nat := 15
def vecRstack : Nat := 16

/-- ILLEGAL_OP with a detail (R39, R59, R99, R124, R154, R162). -/
def illegal {α : Type} (detail : Nat := 0) : M α := raise vecIllegalOp detail 0
/-- CAP_VIOLATION with MISSING, SUB and the faulting address (R88). -/
def capViol {α : Type} (missing sub faddr : Nat) : M α := raise vecCapViolation (missing * 256 + sub) faddr

/-! ### Threads and cores -/

/-- The thread's state. -/
def State.th (s : State) (t : Tid) : Thread := s.threads[t.val]
/-- The state with a thread replaced. -/
def State.setTh (s : State) (t : Tid) (th : Thread) : State := { s with threads := s.threads.set t.val th }
/-- The core's state. -/
def State.core (s : State) (c : CoreId) : Core := s.cores[c.val]
/-- The state with a core replaced. -/
def State.setCore (s : State) (c : CoreId) (k : Core) : State := { s with cores := s.cores.set c.val k }
/-- Reads the thread. -/
def getT (t : Tid) : M Thread := fun s => .ok (s.th t) s
/-- Changes the thread. -/
def modT (t : Tid) (f : Thread → Thread) : M Unit := fun s => .ok () (s.setTh t (f (s.th t)))
/-- Reads the core. -/
def getC (c : CoreId) : M Core := fun s => .ok (s.core c) s
/-- Changes the core. -/
def modC (c : CoreId) (f : Core → Core) : M Unit := fun s => .ok () (s.setCore c (f (s.core c)))

/-- A thread number out of range becomes thread 0: thread numbers are stored as plain numbers. -/
def tidOf (n : Nat) : Tid := ⟨n % 768, Nat.mod_lt _ (by decide)⟩
/-- A core number. -/
def coreOf (n : Nat) : CoreId := ⟨n % 48, Nat.mod_lt _ (by decide)⟩
/-- A register number. -/
def ridx (n : Nat) : RIdx := ⟨n % 32, Nat.mod_lt _ (by decide)⟩

/-- The threads of the module in order. -/
def allTids : List Tid := List.finRange 768
/-- The threads of a core. -/
def coreTids (c : CoreId) : List Tid := (upto 16).map (fun k => tidOf (16 * c.val + k))

/-! ### Tags and registers (R27 to R36) -/

/-- The code of a tag. -/
def Tag.code : Tag → Nat
  | .nil => 0 | .int => 1 | .flt => 2 | .bool => 3 | .capA => 4 | .capB => 5 | .sealed => 6 | .handle => 7
  | .fmt => 8 | .seq => 9 | .poison => 15

/-- The tag of a code, NIL for a code that is never produced. -/
def Tag.ofCode (n : Nat) : Tag :=
  match n with
  | 1 => .int | 2 => .flt | 3 => .bool | 4 => .capA | 5 => .capB | 6 => .sealed | 7 => .handle
  | 8 => .fmt | 9 => .seq | 15 => .poison
  | _ => .nil

/-- Whether the tag marks a half of a capability. -/
def Tag.isCap : Tag → Bool
  | .capA => true
  | .capB => true
  | .sealed => true
  | _ => false

/-- An INT. -/
def Reg.int (v : Word) : Reg := ⟨v, .int⟩
/-- A BOOL. -/
def Reg.bool (b : Bool) : Reg := ⟨if b then 1 else 0, .bool⟩
/-- An FLT. -/
def Reg.flt (v : Nat) : Reg := ⟨BitVec.ofNat 64 v, .flt⟩
/-- A POISON result: value 0 (R32). -/
def Reg.poison : Reg := ⟨0, .poison⟩

/-- The general register's contents. -/
def Thread.g (th : Thread) (r : RIdx) : Reg := th.regs[r.val]

/-- The other register of a pair. -/
def partner (r : RIdx) : RIdx := ⟨r.val - r.val % 2 + (1 - r.val % 2), by omega⟩

/-- A register write, with the loss of a capability's other half (R29). -/
def Thread.write (th : Thread) (r : RIdx) (v : Reg) : Thread :=
  let p := partner r
  let regs := th.regs.set r.val v
  { th with regs := if (th.g p).tag.isCap then regs.set p.val Reg.nil else regs }

/-- The even register of the pair a register belongs to. -/
def evenOf (r : RIdx) : RIdx := ⟨r.val - r.val % 2, by omega⟩
/-- The odd register of the pair a register belongs to. -/
def oddOf (r : RIdx) : RIdx := ⟨r.val - r.val % 2 + 1, by omega⟩

/-- A write of both registers of the pair that r belongs to. -/
def Thread.writePair (th : Thread) (r : RIdx) (p : Pair) : Thread :=
  { th with regs := (th.regs.set (evenOf r).val p.a).set (oddOf r).val p.b }

/-- The pair that r belongs to. -/
def Thread.pair (th : Thread) (r : RIdx) : Pair := ⟨th.g (evenOf r), th.g (oddOf r)⟩

/-- The pair cn. -/
def Thread.cap (th : Thread) (c : PIdx) : Pair := th.pair c.even

/-- The general register's contents, in the monad. -/
def greg (t : Tid) (r : RIdx) : M Reg := fun s => .ok ((s.th t).g r) s
/-- A register write, in the monad. -/
def wr (t : Tid) (r : RIdx) (v : Reg) : M Unit := modT t (fun th => th.write r v)
/-- A pair write, in the monad. -/
def wrPair (t : Tid) (r : RIdx) (p : Pair) : M Unit := modT t (fun th => th.writePair r p)

/-- The operand classes of R31, and the variants that R76, R31 and R153 name. -/
inductive OpClass where
  | int | fp | seq | cond | cap | store | handle | fmt | index | sv | code | move | count | retag
  /-- Class 0x5 with SEALED also accepted in the even register (R76). -/
  | capOrSealed
  /-- Class 0xC without NIL (R57, R153). -/
  | moveNotNil
  /-- Class 0x3 as the second operand of ADD with a SEQ: INT (R31, R33). -/
  | seqInt
  /-- Class 0x3 as the second operand of SUB with a SEQ: SEQ or INT (R31, R33). -/
  | seqOrInt
  /-- Every tag: TGET, TEQ, CTEST (R34, R76). -/
  | any
deriving DecidableEq, Repr

/-- The class code (R31). -/
def OpClass.num : OpClass → Nat
  | .int => 1 | .fp => 2 | .seq => 3 | .cond => 4 | .cap => 5 | .store => 6 | .handle => 7 | .fmt => 8 | .index => 9
  | .sv => 10 | .code => 11 | .move => 12 | .count => 13 | .retag => 14 | .capOrSealed => 5 | .moveNotNil => 12 | .seqInt => 3
  | .seqOrInt => 3 | .any => 12

/-- The tags a class accepts beside POISON, in the even register of a pair class (R31). -/
def OpClass.accepts (c : OpClass) (t : Tag) : Bool :=
  match c with
  | .int => t == .int || t == .bool
  | .fp => t == .flt
  | .seq => t == .seq
  | .cond => t == .int || t == .bool
  | .cap => t == .capA
  | .store => t == .int || t == .flt || t == .bool || t == .seq
  | .handle => t == .handle
  | .fmt => t == .fmt
  | .index => t == .int
  | .sv => t == .int || t == .flt
  | .code => t == .capA || t == .sealed
  | .move => t == .nil || t == .int || t == .flt || t == .bool || t == .handle || t == .fmt || t == .seq
  | .count => t == .int
  | .retag => t == .nil || t == .int || t == .flt || t == .bool || t == .seq
  | .capOrSealed => t == .capA || t == .sealed
  | .seqInt => t == .int
  | .seqOrInt => t == .int || t == .seq
  | .any => true
  | .moveNotNil => t == .int || t == .flt || t == .bool || t == .handle || t == .fmt || t == .seq

/-- The USE of POISON_USE for a class that traps on POISON (R31, R450), none for a class that does not. -/
def OpClass.use : OpClass → Option Nat
  | .cond => some 1
  | .cap => some 2
  | .capOrSealed => some 2
  | .code => some 2
  | .handle => some 3
  | .fmt => some 3
  | .count => some 3
  | .index => some 0
  | _ => none

/-- An operand to check: its slot (R36), its class, the register read, its half of a pair class, and the USE that
replaces the class's own. -/
structure Opnd where
  slot : Nat
  cls : OpClass
  reg : Reg
  odd : Bool := false
  use : Option Nat := none
  sub : Nat := 0
deriving DecidableEq, Repr

/-- Whether an operand's tag fails its class. -/
def Opnd.bad (o : Opnd) : Bool :=
  match o.reg.tag with
  | .poison => o.cls == .retag
  | t =>
    if o.odd && (o.cls == .cap || o.cls == .capOrSealed || o.cls == .code) then t != .capB
    else !o.cls.accepts t

/-- Whether an operand carries a POISON that traps. -/
def Opnd.traps (o : Opnd) : Bool := o.reg.tag == .poison && (o.use.isSome || o.cls.use.isSome)

/-- The operand with the lowest slot among those that satisfy a test. -/
def lowestSlot (p : Opnd → Bool) : List Opnd → Option Opnd
  | [] => none
  | o :: os =>
    match lowestSlot p os with
    | none => if p o then some o else none
    | some q => if p o && decide (o.slot ≤ q.slot) then some o else some q

/-- The sub-code of TAG_MISMATCH for an operand (R36). -/
def Opnd.subOf (o : Opnd) : Nat :=
  if o.sub ≠ 0 then o.sub
  else if o.cls == .move && o.reg.tag.isCap then 4
  else 0

/-- The tag and poison checks of an instruction's operands, in the order of R68: TAG_MISMATCH before POISON_USE, each
naming the lowest slot (R30, R31, R36, R450). -/
def checkOps (os : List Opnd) : M Unit := fun s =>
  match lowestSlot Opnd.bad os with
  | some o =>
    .error (.exc ⟨vecTagMismatch, o.slot * 2 ^ 16 + o.reg.tag.code * 2 ^ 12 + o.cls.num * 2 ^ 8 + o.subOf, 0⟩) s
  | none =>
    match lowestSlot Opnd.traps os with
    | some o => .error (.exc ⟨vecPoisonUse, ((o.use.or o.cls.use).getD 0) * 2 ^ 20 + o.slot * 2 ^ 16, 0⟩) s
    | none => .ok () s

/-- Whether some operand of the list carries POISON (R32). -/
def anyPoison (os : List Opnd) : Bool := os.any (fun o => o.reg.tag == .poison)

/-- The sub-code of a pair of which one half is a capability half of its class and the other is not (R36, 0x01). -/
def pairSub (c : OpClass) (p : Pair) : Nat :=
  if c.accepts p.a.tag != (p.b.tag == .capB) then 1 else 0

/-- The operands of pair cs (slots 0x4 and 0x5). -/
def csOps (p : Pair) (c : OpClass := .cap) (use : Option Nat := none) : List Opnd :=
  [⟨4, c, p.a, false, use, pairSub c p⟩, ⟨5, c, p.b, true, use, pairSub c p⟩]

/-- The operands of a pair named in a register field with one slot. -/
def pairOps (slot : Nat) (p : Pair) (c : OpClass) : List Opnd :=
  [⟨slot, c, p.a, false, none, pairSub c p⟩, ⟨slot, c, p.b, true, none, pairSub c p⟩]

/-- ILLEGAL_OP unless every register of the list is even (R55, R75). -/
def needEven (rs : List RIdx) : M Unit :=
  if rs.all (fun r => r.val % 2 == 0) then pure () else illegal

/-! ### Capabilities (R69 to R74) -/

/-- The fields of a capability (R69, R70). -/
structure Cap where
  otype : Nat
  base : Nat
  perms : Nat
  tenancy : Nat
  dev : Bool
  lenE : Nat
  lenM : Nat
deriving DecidableEq, Repr

/-- The fields of the two words of a capability. -/
def capOfWords (a b : Word) : Cap :=
  let x := a.toNat
  let y := b.toNat
  { otype := fld x 63 52, base := fld x 51 0, perms := fld y 63 48, tenancy := fld y 47 44, dev := bit y 43,
    lenE := fld y 37 32, lenM := fld y 31 0 }

/-- The capability a pair holds, whatever its tags. -/
def Pair.toCap (p : Pair) : Cap := capOfWords p.a.val p.b.val

/-- Length of a capability (R71). -/
def Cap.length (c : Cap) : Nat := c.lenM * 2 ^ c.lenE
/-- One past its last address. -/
def Cap.top (c : Cap) : Nat := c.base + c.length
/-- Whether a capability carries every permission of a mask (R72). -/
def Cap.has (c : Cap) (mask : Nat) : Bool := Nat.land c.perms mask == mask
/-- The permissions of a mask it lacks. -/
def Cap.missing (c : Cap) (mask : Nat) : Nat := mask - Nat.land c.perms mask

def permLD : Nat := 0x0001
def permST : Nat := 0x0002
def permEX : Nat := 0x0004
def permLDCAP : Nat := 0x0008
def permSTCAP : Nat := 0x0010
def permSEAL : Nat := 0x0020
def permUNSEAL : Nat := 0x0040
def permRET : Nat := 0x0080
def permDMA : Nat := 0x0100
def permREMOTE : Nat := 0x0200
def permSYS : Nat := 0x0400
def permENG : Nat := 0x0800
def permTASK : Nat := 0x1000
def permCHAN : Nat := 0x2000

/-- The words of a capability. -/
def Cap.words (c : Cap) : Word × Word :=
  (BitVec.ofNat 64 (c.otype * 2 ^ 52 + c.base),
   BitVec.ofNat 64 (c.perms * 2 ^ 48 + c.tenancy * 2 ^ 44 + b2n c.dev * 2 ^ 43 + c.lenE * 2 ^ 32 + c.lenM))

/-- The tagged pair of a capability: CAP_A or SEALED with CAP_B (R69, R70). -/
def Cap.toPair (c : Cap) : Pair :=
  ⟨⟨c.words.1, if c.otype = 0 then .capA else .sealed⟩, ⟨c.words.2, .capB⟩⟩

/-- Whether a pair holds a capability, sealed or not. -/
def Pair.isCap (p : Pair) : Bool := (p.a.tag == .capA || p.a.tag == .sealed) && p.b.tag == .capB
/-- Whether a pair holds an unsealed capability. -/
def Pair.isUnsealed (p : Pair) : Bool := p.a.tag == .capA && p.b.tag == .capB

/-- The canonical length encoding of R71, none for a length that is not representable. -/
def encLen (n : Nat) : Option (Nat × Nat) :=
  if n < 2 ^ 32 then some (0, n)
  else
    let e := log2 n + 1 - 32
    if n % 2 ^ e = 0 && e ≤ 21 then some (e, n / 2 ^ e) else none

/-- Whether stored capability words are canonical and hold no reserved encoding (R69 to R71, R82). -/
def canonicalCap (a b : Word) : Bool :=
  let c := capOfWords a b
  let o := c.otype
  (o ≤ 0xEFF || o == 0xF01) && c.perms < 0x4000 && fld b.toNat 42 38 == 0 && c.lenE ≤ 21 &&
    (c.lenE == 0 || 2 ^ 31 ≤ c.lenM) && c.base + c.length ≤ 2 ^ 52 && (!c.dev || c.tenancy == 0) &&
    (c.lenE != 21 || (c.lenM == 0x80000000 && c.base == 0))

/-- The sub-code of R73's refusal of a capability at a level, for a thread of a tenancy; none when accepted. -/
def capRefused (level : Nat) (tenancy : Nat) (c : Cap) : Option Nat :=
  if level = 2 then none
  else if c.dev then some 5
  else if c.tenancy ≠ tenancy then some 4
  else none

/-- The check of R73 in a meaning. -/
def capUse (t : Tid) (c : Cap) (faddr : Nat) : M Unit := do
  let th ← getT t
  match capRefused th.level.val th.tenancy.val c with
  | none => pure ()
  | some sub => capViol 0 sub faddr

/-- The permission check: CAP_VIOLATION sub-code 0x01 with the bits missing. -/
def capPerms (c : Cap) (mask faddr : Nat) : M Unit :=
  if c.has mask then pure () else capViol (c.missing mask) 1 faddr

/-- The space a capability names (R243): 0 to 15, or 16 for the device space. -/
def Cap.space (c : Cap) : Fin 17 := if c.dev then 16 else ⟨c.tenancy % 16, by omega⟩

/-! ### Stops -/

/-- Key of a device-wide Stop. -/
def devKey (idx sub : Nat) : Nat := idx * 256 + sub
/-- Key of a Stop in a tenancy's window. -/
def tenKey (n idx sub : Nat) : Nat := (n + 1) * 2 ^ 24 + idx * 256 + sub

end Sys2Proof.Machine
end

