-- ==== Sys2Proof/Machine/Flags.lean ====
section
/-!
DEFINITION. Machine/Flags.lean: the module keeps no condition flags (R42). What other machines keep in flags is computed
into a register: comparisons, serial order, saturation, and POISON in place of a value. Those computations stand here.
-/

namespace Sys2Proof.Machine

/-- The six integer comparisons of CMP and CMPI. -/
def cmpInt (k : CmpKind) (a b : Word) : Bool :=
  match k with
  | .eq => a == b
  | .ne => a != b
  | .lt => decide (a.toInt < b.toInt)
  | .ltu => decide (a.toNat < b.toNat)
  | .ge => decide (b.toInt ≤ a.toInt)
  | .geu => decide (b.toNat ≤ a.toNat)

/-- CMP.SLT: (b − a) mod 2^32 lies in 1 to 2^31 − 1 (R33). -/
def serialLt (a b : Word) : Bool :=
  let d := (b.toNat + 2 ^ 32 - a.toNat % 2 ^ 32) % 2 ^ 32
  1 ≤ d && d ≤ 2 ^ 31 - 1

/-- A signed value held to the range of a lane of w bits. -/
def satS (w : Nat) (i : Int) : Int := max (-(2 ^ (w - 1) : Int)) (min (2 ^ (w - 1) - 1 : Int) i)

/-- A truth value as a lane of all ones or zeros. -/
def laneMask (w : Nat) (b : Bool) : Nat := if b then 2 ^ w - 1 else 0

/-- The word after POISON has taken the place of a result (R32). -/
def orPoison (p : Bool) (v : Reg) : Reg := if p then .poison else v

end Sys2Proof.Machine
end

