-- ==== Sys2Proof/Machine/Crypto.lean ====
section
/-!
DEFINITION. Machine/Crypto.lean: the standard functions that the spec names by their standards and that need no secret of the
module: SHAKE256 (FIPS 202), AES-256-GCM, and the two CRCs of the link (R356, R357, R364, R472). Byte strings are lists of
numbers below 256, the first byte first.
-/

namespace Sys2Proof.Machine

/-- n bytes of a number, least significant first. -/
def leBytes (n v : Nat) : List Nat := (upto n).map (fun i => v / 256 ^ i % 256)

/-- The number of a byte string, least significant byte first. -/
def ofLe : List Nat → Nat
  | [] => 0
  | b :: bs => b + 256 * ofLe bs

/-- The number of a byte string, most significant byte first. -/
def ofBe (bs : List Nat) : Nat := bs.foldl (fun (a : Nat) b => a * 256 + b) 0

/-- n bytes of a number, most significant first. -/
def beBytes (n v : Nat) : List Nat := (leBytes n v).reverse

/-! ### Keccak -/

/-- Rotation of a 64-bit lane to the left. -/
def rotl64 (x k : Nat) : Nat := (x * 2 ^ (k % 64) + x / 2 ^ (64 - k % 64)) % 2 ^ 64

/-- Rotation offsets of rho, lane x + 5y. -/
def keccakRho : List Nat :=
  [0, 1, 62, 28, 27, 36, 44, 6, 55, 20, 3, 10, 43, 25, 39, 41, 45, 15, 21, 8, 18, 2, 61, 56, 14]

/-- Round constants of iota. -/
def keccakRc : List Nat :=
  [0x0000000000000001, 0x0000000000008082, 0x800000000000808A, 0x8000000080008000, 0x000000000000808B, 0x0000000080000001,
   0x8000000080008081, 0x8000000000008009, 0x000000000000008A, 0x0000000000000088, 0x0000000080008009, 0x000000008000000A,
   0x000000008000808B, 0x800000000000008B, 0x8000000000008089, 0x8000000000008003, 0x8000000000008002, 0x8000000000000080,
   0x000000000000800A, 0x800000008000000A, 0x8000000080008081, 0x8000000000008080, 0x0000000080000001, 0x8000000080008008]

/-- One round of Keccak-f[1600] on 25 lanes. -/
def keccakRound (a : List Nat) (rc : Nat) : List Nat :=
  let g (l : List Nat) (x y : Nat) := l.getD (x % 5 + 5 * (y % 5)) 0
  let c := (upto 5).map (fun x => (upto 5).foldl (fun (v : Nat) y => Nat.xor v (g a x y)) 0)
  let d := (upto 5).map (fun x => Nat.xor (c.getD ((x + 4) % 5) 0) (rotl64 (c.getD ((x + 1) % 5) 0) 1))
  let a1 := (upto 25).map (fun i => Nat.xor (a.getD i 0) (d.getD (i % 5) 0))
  -- lane (x, y) of the result of pi is lane (x + 3y, x) of its input
  let b := (upto 25).map (fun i =>
    let x := i % 5
    let y := i / 5
    let j := (x + 3 * y) % 5 + 5 * x
    rotl64 (a1.getD j 0) (keccakRho.getD j 0))
  let e := (upto 25).map (fun i =>
    let x := i % 5
    let y := i / 5
    Nat.xor (g b x y) (Nat.land (2 ^ 64 - 1 - g b (x + 1) y) (g b (x + 2) y)))
  match e with
  | [] => []
  | l :: ls => Nat.xor l rc :: ls

/-- Keccak-f[1600] on a state of 1,600 bits. -/
def keccakF (v : Nat) : Nat :=
  let lanes := (upto 25).map (fun i => v / 2 ^ (64 * i) % 2 ^ 64)
  (keccakRc.foldl keccakRound lanes).foldr (fun (l acc : Nat) => l + 2 ^ 64 * acc) 0

/-- Absorbs blocks of 136 bytes. -/
def keccakAbsorb : Nat → Nat → Nat → Nat
  | 0, _, st => st
  | n + 1, msg, st => keccakAbsorb n (msg / 2 ^ 1088) (keccakF (Nat.xor st (msg % 2 ^ 1088)))

/-- Squeezes blocks of 136 bytes. -/
def keccakSqueeze : Nat → Nat → Nat
  | 0, _ => 0
  | n + 1, st => st % 2 ^ 1088 + 2 ^ 1088 * keccakSqueeze n (keccakF st)

/-- SHAKE256 of len bytes, first byte least significant: out bytes as a number of the same form. -/
def shake256 (len msg out : Nat) : Nat :=
  let blocks := len / 136 + 1
  let padded := msg % 256 ^ len + 0x1F * 256 ^ len + 0x80 * 256 ^ (blocks * 136 - 1) 
  keccakSqueeze (out / 136 + 1) (keccakAbsorb blocks padded 0) % 256 ^ out

/-! ### AES-256 in Galois/counter mode -/

/-- Multiplication in GF(2^8) of AES. -/
def gmul8 : Nat → Nat → Nat → Nat
  | 0, _, _ => 0
  | n + 1, a, b =>
    let r := gmul8 n (Nat.xor (a * 2 % 256) (if a / 128 % 2 = 1 then 0x1B else 0)) (b / 2)
    if b % 2 = 1 then Nat.xor a r else r

/-- Product in GF(2^8). -/
def aesMul (a b : Nat) : Nat := gmul8 8 a b

/-- The S-box: inverse (the power 254), then the affine map. -/
def sbox (x : Nat) : Nat :=
  let x2 := aesMul x x
  let x4 := aesMul x2 x2
  let x8 := aesMul x4 x4
  let x16 := aesMul x8 x8
  let x32 := aesMul x16 x16
  let x64 := aesMul x32 x32
  let x128 := aesMul x64 x64
  let i := aesMul x128 (aesMul x64 (aesMul x32 (aesMul x16 (aesMul x8 (aesMul x4 x2)))))
  let rot (k : Nat) := (i * 2 ^ k + i / 2 ^ (8 - k)) % 256
  Nat.xor i (Nat.xor (rot 1) (Nat.xor (rot 2) (Nat.xor (rot 3) (Nat.xor (rot 4) 0x63))))

/-- Xor of two byte strings. -/
def xorBytes (a b : List Nat) : List Nat := (a.zip b).map (fun p => Nat.xor p.1 p.2)

/-- Key expansion: words of four bytes, appended one by one. -/
def aesExpand : Nat → Nat → Nat → List (List Nat) → List (List Nat)
  | 0, _, _, ws => ws
  | n + 1, i, rc, ws =>
    let t := ws.getD (i - 1) []
    let r := if i % 8 = 0 then
        xorBytes ((t.drop 1 ++ t.take 1).map sbox) [rc, 0, 0, 0]
      else if i % 8 = 4 then t.map sbox else t
    aesExpand n (i + 1) (if i % 8 = 0 then aesMul rc 2 else rc) (ws ++ [xorBytes (ws.getD (i - 8) []) r])

/-- The 15 round keys of a 32-byte key. -/
def aesKeys (key : List Nat) : List (List Nat) :=
  let ws := aesExpand 52 8 1 ((upto 8).map (fun i => (key.drop (4 * i)).take 4))
  (upto 15).map (fun r => (((ws.drop (4 * r)).take 4)).flatten)

/-- SubBytes and ShiftRows: byte r + 4c of the result is that of column c + r. -/
def aesSubShift (st : List Nat) : List Nat :=
  (upto 16).map (fun i => sbox (st.getD (i % 4 + 4 * ((i / 4 + i % 4) % 4)) 0))

/-- MixColumns. -/
def aesMix (st : List Nat) : List Nat :=
  (upto 16).map (fun i =>
    let b (k : Nat) := st.getD (i / 4 * 4 + (i + k) % 4) 0
    Nat.xor (aesMul (b 0) 2) (Nat.xor (aesMul (b 1) 3) (Nat.xor (b 2) (b 3))))

/-- One block under AES-256. -/
def aesBlock (keys : List (List Nat)) (block : List Nat) : List Nat :=
  let s0 := xorBytes block (keys.getD 0 [])
  let s13 := (upto 13).foldl (fun st r => xorBytes (aesMix (aesSubShift st)) (keys.getD (r + 1) [])) s0
  xorBytes (aesSubShift s13) (keys.getD 14 [])

/-- Multiplication in GF(2^128) of GCM, the first bit of a block most significant. -/
def ghashMul : Nat → Nat → Nat → Nat
  | 0, _, _ => 0
  | n + 1, x, v =>
    let r := ghashMul n (x * 2 % 2 ^ 128) (if v % 2 = 1 then Nat.xor (v / 2) (0xE1 * 2 ^ 120) else v / 2)
    if x / 2 ^ 127 % 2 = 1 then Nat.xor v r else r

/-- GHASH over byte blocks. -/
def ghash (h : Nat) : Nat → List Nat → Nat → Nat
  | 0, _, y => y
  | n + 1, bs, y =>
    match bs with
    | [] => y
    | _ =>
      let b := bs.take 16
      ghash h n (bs.drop 16) (ghashMul 128 (Nat.xor y (ofBe b * 256 ^ (16 - b.length))) h)

/-- A byte string padded with zeros to whole blocks. -/
def padBlocks (bs : List Nat) : List Nat := bs ++ List.replicate ((16 - bs.length % 16) % 16) 0

/-- Counter mode from a counter on. -/
def ctrMode (keys : List (List Nat)) (iv : List Nat) : Nat → Nat → List Nat → List Nat
  | 0, _, _ => []
  | n + 1, k, bs =>
    match bs with
    | [] => []
    | _ => xorBytes (bs.take 16) (aesBlock keys (iv ++ beBytes 4 k)) ++ ctrMode keys iv n (k + 1) (bs.drop 16)

/-- The tag of AES-256-GCM over AAD and ciphertext. -/
def gcmTag (keys : List (List Nat)) (iv aad ct : List Nat) : List Nat :=
  let h := ofBe (aesBlock keys (List.replicate 16 0))
  let bs := padBlocks aad ++ padBlocks ct ++ beBytes 8 (8 * aad.length) ++ beBytes 8 (8 * ct.length)
  xorBytes (beBytes 16 (ghash h bs.length bs 0)) (aesBlock keys (iv ++ [0, 0, 0, 1]))

/-- AES-256-GCM with a 12-byte IV: ciphertext and tag. -/
def gcmSeal (key iv aad pt : List Nat) : List Nat × List Nat :=
  let keys := aesKeys key
  let ct := ctrMode keys iv pt.length 2 pt
  (ct, gcmTag keys iv aad ct)

/-- The plaintext when the tag verifies. -/
def gcmOpen (key iv aad ct tag : List Nat) : Option (List Nat) :=
  let keys := aesKeys key
  if gcmTag keys iv aad ct == tag then some (ctrMode keys iv ct.length 2 ct) else none

/-! ### The CRCs of the link (R356, R357) -/

/-- One bit of a CRC register of n bits, most significant first. -/
def crcBit (n poly reg b : Nat) : Nat :=
  let top := Nat.xor (reg / 2 ^ (n - 1) % 2) b
  let r := reg * 2 % 2 ^ n
  if top = 1 then Nat.xor r poly else r

/-- A CRC over bytes in order, each from its most significant bit down. -/
def crcBytes (n poly init : Nat) (bs : List Nat) : Nat :=
  bs.foldl (fun (r : Nat) b => (upto 8).foldl (fun (q : Nat) k => crcBit n poly q (b / 2 ^ (7 - k) % 2)) r) init

/-- HCRC of a block header: over bits [39:8], from bit 39 down. -/
def headerCrc (hdr : Nat) : Nat := crcBytes 8 0x07 0 (beBytes 4 (hdr / 256))

/-- FCRC of a flit: over bytes 0 to 252. -/
def flitCrc (flit : Nat) : Nat := crcBytes 24 0x864CFB 0xB704CE (leBytes 253 flit)

end Sys2Proof.Machine
end

