-- ==== Sys2Proof/Machine/StopDir.lean ====
section
/-!
DEFINITION. Machine/StopDir.lean: the index map of the Stops (R558): which exist, with size, type, access, default and
persistence, from the tables at the end of the chapters.
-/

namespace Sys2Proof.Machine

/-- Access codes of Stops (R15). -/
inductive StopAccess where
  | ro | rw | wo | rl
deriving DecidableEq, Repr

/-- One Stop: its type code (R541), size in bytes, access, default value and persistence. -/
structure StopInfo where
  type : Nat
  size : Nat
  acc : StopAccess
  dflt : Nat
  stored : Bool
deriving DecidableEq, Repr

/-- A Stop of an unsigned type of 1, 2, 4 or 8 bytes. -/
def stopU (size : Nat) (acc : StopAccess) (dflt : Nat) (stored : Bool) : StopInfo :=
  ⟨if size = 1 then 1 else if size = 2 then 2 else if size = 4 then 3 else 4, size, acc, dflt, stored⟩
/-- A BOOL. -/
def stopB (acc : StopAccess) (dflt : Nat) (stored : Bool) : StopInfo := ⟨7, 1, acc, dflt, stored⟩
/-- A RECORD. -/
def stopR (size : Nat) (acc : StopAccess) (dflt : Nat) (stored : Bool) : StopInfo := ⟨10, size, acc, dflt, stored⟩
/-- A DIGEST. -/
def stopD (size : Nat) (acc : StopAccess) (dflt : Nat) (stored : Bool) : StopInfo := ⟨9, size, acc, dflt, stored⟩
/-- An I32. -/
def stopI (acc : StopAccess) (dflt : Nat) (stored : Bool) : StopInfo := ⟨5, 4, acc, dflt, stored⟩
/-- An F32. -/
def stopF (dflt : Nat) : StopInfo := ⟨6, 4, .rw, dflt, true⟩

/-- The Stop when its sub-index is at most the last one. -/
def subTo (last sub : Nat) (i : StopInfo) : Option StopInfo := if sub ≤ last then some i else none

/-- ID_PK of the endorsement record (R473). -/
def idPublic : Nat := Config.endorsement.toNat / 256 ^ 16 % 256 ^ 1952
/-- KEM_EK of the endorsement record (R473). -/
def kemPublic : Nat := Config.endorsement.toNat / 256 ^ 1968 % 256 ^ 1184

/-- The counter sub-indices of a bank (R536); tenancy banks have 0x30 and 0x31, device banks 0x40 to 0x44. -/
def isCounter (ten : Bool) (sub : Nat) : Bool :=
  sub ≤ 0x15 || (0x20 ≤ sub && sub ≤ 0x2D) || (ten && (sub == 0x30 || sub == 0x31)) || (!ten && 0x40 ≤ sub && sub ≤ 0x44)

/-- Identity, power, paging and numerics Stops: indices 0x1000 to 0x3FFF and 0x6000 to 0x6FFF (R559, R560, R164, R272,
R348, R239). -/
def stopInfoA (idx sub : Nat) : Option StopInfo :=
  match idx with
  | 0x1001 => match sub with
    | 0 => some (stopU 2 .ro Config.vendorId.toNat true)
    | 1 => some (stopU 2 .ro 0x0E04 true)
    | _ => none
  | 0x1002 => subTo 0 sub ⟨8, 16, .ro, Config.serial.toNat, true⟩
  | 0x1003 => subTo 0 sub (stopU 2 .ro 1 true)
  | 0x1004 => subTo 0 sub (stopR 6 .ro Config.macAddress.toNat true)
  | 0x1005 => subTo 2 sub (stopU 4 .ro (Config.fwVersion sub).toNat false)
  | 0x1006 => subTo 2 sub (stopU 4 .ro (Config.fwSvn sub).toNat false)
  | 0x1010 => subTo 0 sub (stopU 4 .ro 0x4F5A0001 true)
  | 0x1011 => subTo 0 sub (stopU 8 .ro 0 true)
  | 0x1020 => match sub with
    | 0 => some (stopU 1 .ro 0 false)
    | 1 => some (stopU 1 .rw 64 true)
    | 2 => some (stopB .rw 1 true)
    | _ => none
  | 0x1021 => subTo 0 sub (stopU 1 .ro 1 false)
  | 0x1022 => subTo 0 sub (stopU 4 .ro 0 true)
  | 0x2001 => subTo 3 sub (stopU 1 .ro 12 false)
  | 0x2002 => subTo 3 sub (stopI .ro 0 false)
  | 0x2003 => subTo 0 sub (stopI .ro 0 false)
  | 0x2004 => match sub with
    | 0 => some (stopI .ro 1520 true)
    | 1 => some (stopI .ro 1680 true)
    | _ => none
  | 0x2005 => subTo 0 sub (stopU 1 .ro 1 false)
  | 0x2006 => subTo 0 sub (stopU 4 .ro 0 false)
  | 0x2040 => subTo 0 sub (stopU 4 .rw 65536 true)
  | 0x3001 => subTo 0 sub (stopU 1 .rw 1 true)
  | 0x3002 => subTo 0 sub (stopU 4 .rw 2125000 true)
  | 0x3003 => subTo 0 sub (stopU 8 .ro 0 false)
  | 0x3020 => subTo 0 sub (stopU 8 .ro 0 false)
  | 0x3040 => subTo 0 sub (stopU 1 .rw 2 true)
  | 0x6001 => subTo 0 sub (stopU 4 .rw 200 true)
  | 0x6002 => subTo 0 sub (stopU 4 .rw 20 true)
  | 0x6003 => subTo 0 sub (stopU 1 .rw 0 true)
  | 0x6004 => subTo 0 sub (stopB .rw 0 false)
  | 0x6100 => subTo 15 sub (stopF 0x3F800000)
  | 0x6101 => subTo 15 sub (stopF 0x3F800000)
  | 0x6102 => subTo 15 sub (stopF 0x45800000)
  | 0x6103 => subTo 15 sub (stopF 0x45800000)
  | 0x6104 => subTo 15 sub (stopF 0x3F800000)
  | _ => none

/-- Fabric, collective, reliability, security, counter and diagnostic Stops (R385, R417, R470, R502, R536, R538, R561,
R309). -/
def stopInfoB (idx sub : Nat) : Option StopInfo :=
  if 0x4100 ≤ idx && idx ≤ 0x413F then some (stopU 4 .rw 0 false)
  else if 0x5001 ≤ idx && idx ≤ 0x5010 then subTo 0 sub (stopU 1 .ro 0 false)
  else if 0x5100 ≤ idx && idx ≤ 0x510F then subTo 0x3F sub (stopR 80 .ro 0 false)
  else if 0x9010 ≤ idx && idx ≤ 0x901F then
    if sub ≤ 5 then some (stopU 8 .ro 0 false)
    else if 0x10 ≤ sub && sub ≤ 0x15 then some (stopU 8 .rl 0 false) else none
  else match idx with
  | 0x4000 => match sub with
    | 0 => some (stopU 2 .rw 0xFFFF false)
    | 1 => some (stopU 8 .rw 0 false)
    | 2 => some (stopU 1 .rw 0 false)
    | 3 => some (stopU 2 .rw 0xFFFF false)
    | 4 => some (stopB .rw 0 true)
    | 5 => some (stopU 2 .rw 0 false)
    | 6 => some (stopU 1 .rw 3 true)
    | 7 => some (stopU 4 .rw 2125000 true)
    | _ => none
  | 0x4001 => subTo 15 sub (stopU 4 .rw 1 false)
  | 0x4002 => subTo 15 sub (stopU 4 .ro 0 false)
  | 0x4003 => subTo 15 sub (stopR 252 .ro 0 false)
  | 0x7001 => subTo 0 sub (stopU 4 .rw 86400 true)
  | 0x7002 => subTo 0 sub (stopU 4 .rw 0 false)
  | 0x7003 => subTo 0 sub (stopU 4 .rw 10 true)
  | 0x7004 => subTo 0 sub (stopU 4 .rw 5000 true)
  | 0x7005 => subTo 0 sub (stopU 8 .ro 0 false)
  | 0x7006 => subTo 0 sub (stopU 4 .ro 0 false)
  | 0x7007 => subTo 0 sub (stopU 1 .rw 4 true)
  | 0x8001 => match sub with
    | 0 => some (stopD 64 .ro (shake256 1952 idPublic 64) true)
    | 1 => some (stopD 32 .ro (shake256 1184 kemPublic 32) true)
    | _ => none
  | 0x8002 => subTo 0 sub (stopR 6469 .ro Config.endorsement.toNat true)
  | 0x8003 => subTo 0 sub (stopU 4 .rw 0 true)
  | 0x8004 => subTo 0 sub (stopU 4 .ro 0 true)
  | 0x8010 => subTo 0 sub (stopD 32 .wo 0 true)
  | 0x8020 => subTo 0 sub (stopR 5761 .ro 0 false)
  | 0x8040 => subTo 0 sub (stopU 8 .ro 0 false)
  | 0x9000 => if isCounter false sub then some (stopU 8 .ro 0 false) else none
  | 0x9001 => if isCounter false sub then some (stopU 8 .rl 0 false) else none
  | 0xA000 => subTo 0 sub (stopU 4 .ro 0 true)
  | 0xF001 => subTo 0 sub (stopU 1 .wo 0 false)
  | 0xF010 => subTo 0xFF sub (stopR 32 .ro 0 false)
  | 0xF011 => subTo 0 sub (stopU 4 .ro 0 false)
  | 0xF030 => match sub with
    | 0 => some (stopU 4 .wo 0 false)
    | 1 => some (stopU 8 .ro 0 false)
    | 2 => some (stopU 8 .ro 0 false)
    | 3 => some (stopU 8 .ro 0 false)
    | 4 => some (stopU 8 .ro 0 false)
    | _ => none
  | _ => none

/-- The Stops of a tenancy's window (R138, R239, R272, R309, R348, R417, R470, R502, R536, R538). -/
def stopInfoT (idx sub : Nat) : Option StopInfo :=
  match idx with
  | 0xC010 => match sub with
    | 0 => some (stopU 8 .rw 0 false)
    | 1 => some (stopU 4 .rw 16384 false)
    | 2 => some (stopU 4 .rw 64 false)
    | 3 => some (stopU 4 .ro 0 false)
    | 4 => some (stopU 4 .ro 0 false)
    | 5 => some (stopU 8 .ro 0 false)
    | _ => none
  | 0xC020 => match sub with
    | 0 => some (stopU 8 .rw 0 false)
    | 1 => some (stopU 8 .ro 0 false)
    | 2 => some (stopU 2 .ro 0 false)
    | 3 => some (stopU 4 .ro 0 false)
    | 4 => some (stopU 4 .ro 0xFFFFFFFF false)
    | 5 => some (stopU 1 .ro 0 false)
    | _ => none
  | 0xC030 => match sub with
    | 0 => some (stopU 8 .ro 0 false)
    | 1 => some (stopU 8 .rw 0 false)
    | 2 => some (stopU 8 .ro 0 false)
    | 3 => some (stopU 8 .rw 0 false)
    | 4 => some (stopU 8 .ro 0 false)
    | 5 => some (stopU 8 .rw 0 false)
    | _ => none
  | 0xC040 => subTo 15 sub (stopR 32 .rw 0 false)
  | 0xC050 => match sub with
    | 0 => some (stopU 8 .rw 0 false)
    | 1 => some (stopU 8 .ro 0 false)
    | 2 => some (stopU 4 .ro 0 false)
    | _ => none
  | 0xC060 => match sub with
    | 0 => some (stopU 8 .rw 0 false)
    | 1 => some (stopB .rw 0 false)
    | 2 => some (stopU 4 .rw 2097152 false)
    | 3 => some (stopU 8 .rw 0 false)
    | 4 => some (stopU 4 .ro 0 false)
    | _ => none
  | 0xC070 =>
    if 0x10 ≤ sub && sub ≤ 0x1F then some (stopU 8 .ro 0 false)
    else match sub with
    | 0 => some (stopU 8 .rw 0 false)
    | 1 => some (stopU 4 .ro 0xFFFFFFFF false)
    | 2 => some (stopU 1 .ro 0 false)
    | 3 => some (stopU 8 .ro 0 false)
    | _ => none
  | 0xC080 => match sub with
    | 0 => some (stopU 4 .ro 0 true)
    | 1 => some (stopU 1 .wo 0 false)
    | 2 => some (stopD 64 .rw 0 false)
    | 3 => some (stopU 2 .ro 0xFFFF false)
    | 4 => some (stopU 1 .ro 0 false)
    | _ => none
  | 0xC090 => if isCounter true sub then some (stopU 8 .ro 0 false) else none
  | 0xC091 => if isCounter true sub then some (stopU 8 .rl 0 false) else none
  | 0xC0A0 => subTo 0x3F sub (stopU 4 .ro 0xFFFFFFFF false)
  | 0xC0A1 => subTo 0x3F sub (stopU 4 .ro 0xFFFFFFFF false)
  | 0xC0A2 => subTo 0x40 sub (stopU 4 .ro 0xFFFFFFFF false)
  | 0xC0A4 => subTo 15 sub (stopU 2 .rw 0 false)
  | _ => none

/-- Whether an index lies in the window of one tenancy (R540). -/
def inWindow (idx : Nat) : Bool := 0xC000 ≤ idx && idx ≤ 0xCFFF

/-- The Stop of an index and sub-index, none where the map has none (R558). -/
def stopInfo (idx sub : Nat) : Option StopInfo :=
  if inWindow idx then stopInfoT idx sub
  else match stopInfoA idx sub with
    | some i => some i
    | none => stopInfoB idx sub

/-- The default of a Stop, 0 for one that does not exist. -/
def stopDefault (idx sub : Nat) : Nat :=
  match stopInfo idx sub with
  | some i => i.dflt
  | none => 0

end Sys2Proof.Machine
end

