-- ==== Sys2Proof/Machine/StopOps.lean ====
section
/-!
DEFINITION. Machine/StopOps.lean: reading and changing the value of a Stop, the statistics counters, events and the log.
-/

namespace Sys2Proof.Machine

/-- The value of a device-wide Stop. -/
def State.dev (s : State) (idx sub : Nat) : Nat :=
  match Tab.get? s.stops (devKey idx sub) with
  | some c => c.val
  | none => stopDefault idx sub

/-- The value of a Stop in the window of tenancy n. -/
def State.ten (s : State) (n idx sub : Nat) : Nat :=
  match Tab.get? s.stops (tenKey n idx sub) with
  | some c => c.val
  | none => stopDefault idx sub

/-- A changed Stop value: GEN rises by one when the value changes (R545). -/
def State.putStop (s : State) (key dflt v : Nat) : State :=
  match Tab.get? s.stops key with
  | some c => if c.val = v then s else { s with stops := Tab.put s.stops key ⟨v, c.gen + 1⟩ }
  | none => if dflt = v then s else { s with stops := Tab.put s.stops key ⟨v, 1⟩ }

/-- Sets a device-wide Stop. -/
def State.setDev (s : State) (idx sub v : Nat) : State := s.putStop (devKey idx sub) (stopDefault idx sub) v
/-- Sets a Stop in the window of tenancy n. -/
def State.setTen (s : State) (n idx sub v : Nat) : State := s.putStop (tenKey n idx sub) (stopDefault idx sub) v

/-- Adds to a counter of the live device bank and, for a tenancy, of its live bank (R534 to R536). -/
def State.count (s : State) (space sub n : Nat) : State :=
  if n = 0 then s
  else
    let s1 := s.setDev 0x9000 sub (s.dev 0x9000 sub + n)
    if space < 16 then s1.setTen space 0xC090 sub (s1.ten space 0xC090 sub + n) else s1

/-- Adds to a device-only counter (R535). -/
def State.countDev (s : State) (sub n : Nat) : State := s.setDev 0x9000 sub (s.dev 0x9000 sub + n)

/-- Logs an entry in the Drone's log: a ring of 256 entries laid out as event entries (R561, R521). -/
def State.log (s : State) (code detail : Nat) : State :=
  let k := s.dev 0xF011 0
  let entry := k % 2 ^ 32 + code * 2 ^ 32 + detail % 2 ^ 128 * 2 ^ 64
  (s.setDev 0xF010 (k % 256) entry).setDev 0xF011 0 ((k + 1) % 2 ^ 32)

/-- Holds an event for a tenancy's event ring: up to 256 wait, a further one is dropped and counted (R522). -/
def State.hold (s : State) (n code detail : Nat) : State :=
  if h : n < 16 then
    let q := s.events[n]
    if q.length < 256 then { s with events := s.events.set n (q ++ [⟨code, detail⟩]) }
    else ({ s with eventsLost := s.eventsLost.set n (s.eventsLost[n] + 1) }).countDev 0x43 1
  else s

/-- Posts an event to a tenancy's event ring, and to the Drone's log (R522). -/
def State.post (s : State) (n code detail : Nat) : State := (s.log code detail).hold n code detail

/-- Draws the next free value: 32 bits the spec leaves unstated. -/
def drawFree (s : State) : BitVec 32 × State := (Config.freeWord s.draws, { s with draws := s.draws + 1 })

/-- Draws the next replacement choice among n candidates. -/
def drawChoice (s : State) (n : Nat) : Nat × State :=
  (Config.victimChoice s.draws % n, { s with draws := s.draws + 1 })

/-- Draws n words of free bits, as one number. -/
def drawBits : Nat → State → Nat × State
  | 0, s => (0, s)
  | n + 1, s =>
    let d := drawFree s
    let r := drawBits n d.2
    (d.1.toNat + 2 ^ 32 * r.1, r.2)

/-! ### Status codes (R517) -/

def stOk : Nat := 0
def stNotReady : Nat := 1
def stStateConflict : Nat := 2
def stBadSeq : Nat := 3
def stNoCapability : Nat := 4
def stRange : Nat := 5
def stBadDigest : Nat := 6
def stNotInSet : Nat := 7
def stHeld : Nat := 8
def stExhausted : Nat := 9
def stAborted : Nat := 10

/-! ### Tenancy states (R497) and device states (R491) by their codes -/

def tsAbsent : Nat := 0
def tsScrubbing : Nat := 1
def tsIdle : Nat := 2
def tsLoaded : Nat := 3
def tsRunning : Nat := 4
def tsHeld : Nat := 5
def tsDraining : Nat := 6
def dsOff : Nat := 0
def dsStandby : Nat := 1
def dsBringup : Nat := 2
def dsReady : Nat := 3
def dsDegraded : Nat := 4
def dsFaulted : Nat := 5

/-- The state of a tenancy (R502, 0xC080.04). -/
def State.tstate (s : State) (n : Nat) : Nat := s.ten n 0xC080 4

/-- The state of the device (0x1021.00). -/
def State.dstate (s : State) : Nat := s.dev 0x1021 0

/-- Whether the clocks of the cores run: from BRINGUP on (R577, R599). -/
def State.clockOn (s : State) : Bool := s.dstate == dsBringup || s.dstate == dsReady || s.dstate == dsDegraded

/-- An entry of the Drone's log for which the spec names no code: its code and its detail are free. -/
def logFree (s : State) : State :=
  let a := drawFree s
  let b := drawBits 4 a.2
  b.2.log (a.1.toNat % 65536) b.1

/-- The conditions that hold ALERT_N low (R588): bits 3:0 a quarter whose divider is not 12, bit 4 coolant outside 15 to 45 degrees,
bit 5 FAULTED or DEGRADED, bit 6 the trip latch, bit 7 the leak latch. -/
def alertMask (s : State) : Nat :=
  let q := (upto 4).foldl (fun (m : Nat) k => m + b2n (s.dev 0x2001 k != 12) * 2 ^ k) 0
  let c := sext 32 (s.dev 0x2003 0)
  q + b2n (decide (c < 240) || decide (720 < c)) * 16 + b2n (s.dstate == dsFaulted || s.dstate == dsDegraded) * 32 +
    b2n s.power.trip * 64 + b2n s.power.leak * 128

/-- ALERT_N follows its conditions; each one that comes is logged (R588). -/
def syncAlerts (s : State) : State :=
  let m := alertMask s
  let s1 := (upto 8).foldl (fun (st : State) k => if bit m k && !bit s.power.alerts k then logFree st else st) s
  { s1 with power := { s1.power with alerts := m } }

/-- The device becomes FAULTED: the cause is logged and PWR_REQ is low (R573, R579). -/
def enterFaulted (s : State) : State :=
  let s1 := (logFree s).setDev 0x1021 0 dsFaulted
  syncAlerts { s1 with power := { s1.power with pwrReq := false } }

end Sys2Proof.Machine
end

