-- ==== Sys2Proof/Machine/Slice.lean ====
section
/-!
DEFINITION. Machine/Slice.lean: HBM with its tags, poison and codes, the Reservoir slices and their victim buffers
(R81, R273 to R288, R435 to R444).
-/

namespace Sys2Proof.Machine

/-! ### Physical addresses -/

/-- The xor of the 6-bit groups of a chunk number, or of its 4-bit groups. -/
def foldXor (w : Nat) : Nat → Nat → Nat
  | 0, _ => 0
  | n + 1, c => Nat.xor (c % 2 ^ w) (foldXor w n (c / 2 ^ w))

/-- The slice of a physical address (R273). -/
def sliceOf (pa : Nat) : Nat :=
  let c := fld pa 43 9
  let r := fld pa 47 44
  if r = 0 then 3 * foldXor 6 6 c + c / 64 % 3
  else (48 * (r - 1) + 3 * foldXor 4 9 c + c / 16 % 3) % 192

/-- The code page of a physical address: channel, region share and eight chunks with consecutive numbers (R274, R344). -/
def codePageOf (pa : Nat) : Nat × Nat × Nat :=
  let c := fld pa 43 9
  let r := fld pa 47 44
  (sliceOf pa, if r = 0 then 0 else 1, (if r = 0 then c / 64 / 3 else c / 16 / 3) / 8)

/-- Whether a slice is disabled (R306, R309). -/
def sliceOff (s : State) (n : Nat) : Bool := bit (s.dev 0xF030 (1 + n / 64)) (n % 64)
/-- Whether a core's L1 is disabled. -/
def l1Off (s : State) (c : CoreId) : Bool := bit (s.dev 0xF030 4) c.val

/-! ### Lines -/

/-- The whole of a line: data, memory tag bits, poison bits. -/
structure Full where
  data : Nat
  tags : Nat
  poison : Nat
deriving DecidableEq, Repr

/-- A byte mask as a bit mask of the data: k bytes. -/
def expandMask : Nat → Nat → Nat
  | 0, _ => 0
  | k + 1, m => (if m % 2 = 1 then 255 else 0) + 256 * expandMask k (m / 2)

/-- a under the mask, b elsewhere. -/
def blend (mask a b : Nat) : Nat := Nat.lor (Nat.land a mask) (b - Nat.land b mask)

/-- The byte mask of a set of sectors. -/
def sectorBytes (v : Nat) : Nat :=
  (upto 4).foldl (fun m i => if bit v i then m + (2 ^ 32 - 1) * 2 ^ (32 * i) else m) 0

/-- The bytes a cached line knows: valid sectors and dirty bytes. -/
def CLine.known (l : CLine) : Nat := Nat.lor (sectorBytes l.valid) l.dirty

/-- The bits chosen by a test among the first n. -/
def bitsOf (n : Nat) (p : Nat → Bool) : Nat := (upto n).foldl (fun m i => if p i then m + 2 ^ i else m) 0

/-- A line laid over a base: its known bytes, the tag bits of granules and the poison of words it knows (R278, R444). -/
def overFull (l : CLine) (b : Full) : Full :=
  let k := l.known
  { data := blend (expandMask 128 k) l.data b.data
    tags := bitsOf 8 (fun g => if fld k (16 * g + 15) (16 * g) = 0 then bit b.tags g else bit l.tags g)
    poison := bitsOf 16 (fun w =>
      let kb := fld k (8 * w + 7) (8 * w)
      if kb = 0 then bit b.poison w else if kb = 255 then bit l.poison w else bit l.poison w || bit b.poison w) }

/-- A write into a line's bookkeeping: bytes under the mask, tag bits of the granules it touches, poison of the words it
touches: its own where it covers all eight bytes, and joined with the old one where it does not (R444). -/
def writeFull (f : Full) (mask data tags poison : Nat) : Full :=
  { data := blend (expandMask 128 mask) data f.data
    tags := bitsOf 8 (fun g => if fld mask (16 * g + 15) (16 * g) = 0 then bit f.tags g else bit tags g)
    poison := bitsOf 16 (fun w =>
      let kb := fld mask (8 * w + 7) (8 * w)
      if kb = 0 then bit f.poison w else if kb = 255 then bit poison w else bit poison w || bit f.poison w) }

/-! ### HBM -/

/-- What an unlisted byte of HBM reads as: zero, since BRINGUP fills HBM with zeros (R577). -/
def hbmDefault : Byte := 0

/-- The contents of a list of cells at an address. -/
def cellsGet : List Host.Cell → Nat → Byte
  | [], _ => hbmDefault
  | (k, b) :: t, a => if a = k then b else cellsGet t a

/-- The cells with one byte written, in canonical form: addresses rising, no entry equal to the unlisted value. -/
def cellsPut : List Host.Cell → Nat → Byte → List Host.Cell
  | [], a, v => if v = hbmDefault then [] else [(a, v)]
  | (k, b) :: t, a, v =>
    if a < k then (if v = hbmDefault then (k, b) :: t else (a, v) :: (k, b) :: t)
    else if a = k then (if v = hbmDefault then t else (a, v) :: t)
    else (k, b) :: cellsPut t a v

/-- The canonical form of a list of cells. -/
def cellsWf : List Host.Cell → Bool
  | [] => true
  | [(_, b)] => b != hbmDefault
  | (a, b) :: (c, d) :: t => b != hbmDefault && decide (a < c) && cellsWf ((c, d) :: t)

/-- The canonical form of HBM. -/
def Memory.wf (s : State) : Bool := cellsWf s.hbm

/-- The 128 bytes of a line in HBM, as stored. -/
def hbmFull (s : State) (ln : Nat) : Full :=
  let d := s.hbm.foldl (fun (acc : Nat) c => if c.1 / 128 = ln then acc + c.2.toNat * 256 ^ (c.1 % 128) else acc) 0
  let d1 := s.hbmErrs.foldl
    (fun (acc : Nat) e => if e.1 / 128 = ln then blend (255 * 256 ^ (e.1 % 128)) (e.2.stored.toNat * 256 ^ (e.1 % 128)) acc
      else acc) d
  { data := d1
    tags := s.hbmTags.foldl (fun (m : Nat) e => if e.1 / 8 = ln then Nat.lor m (2 ^ (e.1 % 8)) else m) 0
    poison := s.hbmPoison.foldl (fun (m : Nat) e => if e.1 / 16 = ln then Nat.lor m (2 ^ (e.1 % 16)) else m) 0 }

/-- Sets or clears a mark of a table of marks. -/
def mark (t : Tab Unit) (k : Nat) (b : Bool) : Tab Unit := if b then Tab.put t k () else Tab.del t k

/-- Bytes of a mask written to cells. -/
def putBytes (base data mask : Nat) : Nat → List Host.Cell → List Host.Cell
  | 0, cs => cs
  | n + 1, cs =>
    let cs1 := putBytes base data mask n cs
    if bit mask n then cellsPut cs1 (base + n) (BitVec.ofNat 8 (data / 256 ^ n)) else cs1

/-- The number of ones of a mask of n bits. -/
def popCount : Nat → Nat → Nat
  | 0, _ => 0
  | n + 1, m => m % 2 + popCount n (m / 2)

/-- A write of the bytes of a mask to HBM, with tag bits and poison (R82, R284, R443, R444). -/
def hbmWrite (s : State) (ln mask data tags poison : Nat) : State :=
  if mask = 0 then s
  else
    let f := writeFull (hbmFull s ln) mask data tags poison
    { s with
      hbm := putBytes (128 * ln) data mask 128 s.hbm
      hbmErrs := Tab.keep s.hbmErrs (fun a _ => !(a / 128 == ln && bit mask (a % 128)))
      hbmTags := (upto 8).foldl (fun t g => mark t (8 * ln + g) (bit f.tags g)) s.hbmTags
      hbmPoison := (upto 16).foldl (fun t w => mark t (16 * ln + w) (bit f.poison w)) s.hbmPoison }

/-- Whether two lines fall into one set of one slice. -/
def sameSet (a b : Nat) : Bool :=
  a == b || (sliceOf (128 * a) == sliceOf (128 * b) && Config.sliceSet a == Config.sliceSet b)

/-- The victim-buffer entry of a line, the youngest. -/
def victimOf (s : State) (ln : Nat) : Option CLine :=
  (s.victims.reverse.find? (fun v => v.1 == ln)).map (fun v => v.2)

/-- The architectural contents of a line: HBM under the line's entries of the victim buffer, oldest first, under the slice
(R276, R285, R307). -/
def archFull (s : State) (ln : Nat) : Full :=
  let h := hbmFull s ln
  let v := (s.victims.filter (fun e => e.1 == ln)).foldl (fun (f : Full) e => overFull e.2 f) h
  if sliceOff s (sliceOf (128 * ln)) then v
  else match Tab.get? s.slc ln with
    | some l => overFull l v
    | none => v

/-- A write to HBM that the bytes written to HBM of a space count (R536). -/
def hbmStore (s : State) (space ln mask data tags poison : Nat) : State :=
  (hbmWrite s ln mask data tags poison).count space 0x12 (popCount 128 mask)

/-! ### Page tables as data (R244 to R248) -/

/-- The physical address of a space's root node (R244). -/
def ptRoot (s : State) (n : Fin 17) : Nat := if n.val = 16 then s.dev 0x3020 0 else s.ten n.val 0xC030 0

/-- Log2 of the bytes that an entry of a level maps (R244). -/
def levelShift (level : Nat) : Nat :=
  match level with
  | 0 => 39
  | 1 => 30
  | 2 => 21
  | _ => 16

/-- Entries of a node of a level (R244). -/
def nodeEntries (level : Nat) : Nat :=
  match level with
  | 0 => 8192
  | 1 => 512
  | 2 => 512
  | _ => 32

/-- 64 KiB units of a page of a leaf level (R244, R253). -/
def levelUnits (level : Nat) : Nat := if level = 1 then 16384 else if level = 2 then 32 else 1

/-- A leaf of a space's tree: its level, first address, the address of its entry, and the entry. -/
structure Leaf where
  level : Nat
  va : Nat
  epa : Nat
  entry : Nat
deriving DecidableEq, Repr

/-- The entries of a node that are not INVALID: index and value. -/
def readNode (s : State) (pa n : Nat) : List (Nat × Nat) :=
  ((upto (n / 16)).map (fun k =>
    let d := (archFull s (pa / 128 + k)).data
    if d = 0 then []
    else ((upto 16).map (fun j => (16 * k + j, d / 2 ^ (64 * j) % 2 ^ 64))).filter (fun x => x.2 % 8 != 0))).flatten

/-- The leaves below a node of a level. -/
def leavesFrom (s : State) : Nat → Nat → Nat → Nat → List Leaf
  | 0, _, _, _ => []
  | f + 1, level, node, va =>
    ((readNode s node (nodeEntries level)).map (fun x =>
      let va1 := va + x.1 * 2 ^ levelShift level
      if x.2 % 8 = 1 then (if level = 3 then [] else leavesFrom s f (level + 1) (fld x.2 47 8 * 256) va1)
      else if level = 0 || 4 < x.2 % 8 then []
      else [⟨level, va1, node + 8 * x.1, x.2⟩])).flatten

/-- The leaves of a space. -/
def leavesOf (s : State) (n : Fin 17) : List Leaf := if ptRoot s n = 0 then [] else leavesFrom s 4 0 (ptRoot s n) 0

/-- 64 KiB units of the frames of a LOCAL leaf: first and number. -/
def Leaf.units (l : Leaf) : Nat × Nat := (fld l.entry 47 16, levelUnits l.level * (if bit l.entry 61 then 2 else 1))

/-- The LOCAL leaf of a space whose frames hold a physical address: the pager's frame map (R263). -/
def leafOfFrame (s : State) (n : Fin 17) (pa : Nat) : Option Leaf :=
  (leavesOf s n).find? (fun l => l.entry % 8 == 2 && decide (l.units.1 ≤ pa / 65536) && decide (pa / 65536 < l.units.1 + l.units.2))

/-- The space whose space holds the frame of a physical address; 16 where none of a tenancy does. -/
def frameSpace (s : State) (pa : Nat) : Nat :=
  let u := pa / 65536
  ((List.finRange 17).find? (fun n =>
    s.spaces[n.val].nodeFrames.any (fun e => e.1 == u) ||
    s.shadows.any (fun x => x.space == n.val && decide (x.frame ≤ u) && decide (u < x.frame + levelUnits x.level)) ||
    (leafOfFrame s n pa).isSome)).elim 16 (fun n => n.val)

/-- Decodes codewords of HBM (R437 to R439, R442): one is corrected when 2t + e ≤ 4; else its flagged bytes are lost and
their words poisoned. The counters of the spaces that hold the frames follow. flaggedOnly: a read decodes only codewords that
hold a flagged byte. The answer counts the code pages in which a byte was corrected. -/
def repairHbm (s : State) (flaggedOnly : Bool) (hit : Nat → Bool) : State × Nat :=
  if s.hbmErrs.isEmpty then (s, 0)
  else
    let words := ((s.hbmErrs.filter (fun (e : Nat × ByteErr) => (!flaggedOnly || e.2.flagged) && hit e.1)).map
      (fun e => (codePageOf e.1, e.1 % 32))).eraseDups
    let inW (a : Nat) := words.contains (codePageOf a, a % 32)
    let okW (w : (Nat × Nat × Nat) × Nat) :=
      let es := s.hbmErrs.filter (fun (e : Nat × ByteErr) => (codePageOf e.1, e.1 % 32) == w)
      let t := (es.filter (fun (e : Nat × ByteErr) => !e.2.flagged)).length
      2 * t + (es.length - t) ≤ 4
    let good (a : Nat) := inW a && okW (codePageOf a, a % 32)
    let lost := s.hbmErrs.filter (fun (e : Nat × ByteErr) => inW e.1 && !okW (codePageOf e.1, e.1 % 32) && e.2.flagged)
    -- a corrected code page, by one of its corrected bytes
    let pages := ((words.filter okW).map (fun w => w.1)).eraseDups
    let spaceOfPage (p : Nat × Nat × Nat) : Nat :=
      (s.hbmErrs.find? (fun (e : Nat × ByteErr) => codePageOf e.1 == p && good e.1)).elim 16 (fun e => frameSpace s e.1)
    let newW := ((lost.map (fun (e : Nat × ByteErr) => e.1 / 8)).eraseDups).filter (fun w => (Tab.get? s.hbmPoison w).isNone)
    let s1 := { s with
      hbm := lost.foldl (fun cs (e : Nat × ByteErr) => cellsPut cs e.1 e.2.stored) s.hbm
      hbmErrs := Tab.keep s.hbmErrs (fun a e => !(good a) && !(inW a && !okW (codePageOf a, a % 32) && e.flagged))
      hbmPoison := lost.foldl (fun t (e : Nat × ByteErr) => mark t (e.1 / 8) true) s.hbmPoison }
    let s2 := pages.foldl (fun (st : State) p => st.count (spaceOfPage p) 0x25 1) s1
    (newW.foldl (fun (st : State) w => st.count (frameSpace s (8 * w)) 0x26 1) s2, pages.length)

/-- A read of sectors of a line from HBM: flagged bytes are corrected or poisoned first (R439, R442). -/
def hbmTouch (s : State) (ln sectors : Nat) : State :=
  (repairHbm s true (fun a => a / 128 == ln && bit sectors (a % 128 / 32))).1

/-! ### Slices -/

/-- What an access brings to a line: its space, and the class and number of its address window (R277, R302). -/
structure Acc where
  space : Nat
  cls : Nat
  window : Nat
deriving DecidableEq, Repr

/-- The contents an epoch sees: its overlay line over the architectural contents (R132). -/
def viewFull (s : State) (ep : Option Nat) (ln : Nat) : Full :=
  let a := archFull s ln
  match ep with
  | none => a
  | some e => match Tab.get? s.overlay (e * 2 ^ 41 + ln) with
    | some l => overFull l a
    | none => a

/-- Writes the oldest dirty entry of a slice's victim buffer to HBM; the entry stays as clean (R284). -/
def writeVictim (s : State) (slice : Nat) : State :=
  match s.victims.find? (fun v => sliceOf (128 * v.1) == slice && v.2.dirty != 0) with
  | none => s
  | some v =>
    let s1 := hbmStore s v.2.space v.1 v.2.dirty v.2.data v.2.tags v.2.poison
    { s1 with victims := s.victims.map (fun w => if w == v then (w.1, { w.2 with dirty := 0, valid := 0 }) else w) }

/-- Adds an evicted line to its slice's victim buffer of 32 lines; when it is full the oldest entry leaves it, written to
HBM first when dirty (R284). -/
def pushVictim (s : State) (ln : Nat) (l : CLine) : State :=
  let slice := sliceOf (128 * ln)
  let mine := s.victims.filter (fun v => sliceOf (128 * v.1) == slice)
  if mine.length < 32 then { s with victims := s.victims ++ [(ln, l)] }
  else match mine.head? with
    | none => { s with victims := s.victims ++ [(ln, l)] }
    | some o =>
      let s1 := hbmStore s o.2.space o.1 o.2.dirty o.2.data o.2.tags o.2.poison
      { s1 with victims := (s1.victims.erase o) ++ [(ln, l)] }

/-- The victim-buffer entries of a line leave the buffer, their dirty bytes written to HBM in order: a write-through follows
them there (R283, R285). -/
def flushVictim (s : State) (ln : Nat) : State :=
  let mine := s.victims.filter (fun v => v.1 == ln)
  if mine.isEmpty then s
  else
    let s1 := mine.foldl (fun (st : State) v => hbmStore st v.2.space ln v.2.dirty v.2.data v.2.tags v.2.poison) s
    { s1 with victims := s1.victims.filter (fun v => v.1 != ln) }

/-- Whether a line of a slice is held: a fetch for it is in progress (R282). -/
def lineHeld (s : State) (ln : Nat) : Bool := (Tab.get? s.misses ln).isSome

/-- The candidates of a class in the set of a line, PIN and held lines left out (R282). -/
def setLines (s : State) (ln : Nat) : List (Nat × CLine) := s.slc.filter (fun e => sameSet e.1 ln)

/-- Ways of a set held by overlay lines (R282). -/
def overlayWays (s : State) (ln : Nat) : Nat :=
  (s.overlay.filter (fun e => sameSet (e.1 % 2 ^ 41) ln)).length

/-- Whether the set of a line is retired: it holds no line until the next BRINGUP (R447). -/
def setRetired (s : State) (ln : Nat) : Bool :=
  !s.retired.isEmpty && s.retired.contains (sliceOf (128 * ln), Config.sliceSet ln)

/-- Makes room for a line in its set: the new state and whether there is a way (R282, R283). Sets of fewer than 16 lines
have one; a retired set has none. -/
def makeRoom (s : State) (ln : Nat) : State × Bool :=
  if setRetired s ln then (s, false)
  else if s.slc.length + s.overlay.length < 16 then (s, true)
  else
    let ls := setLines s ln
    if ls.length + overlayWays s ln < 16 then (s, true)
    else
      let cand (c : Nat) := ls.filter (fun e => e.2.cls == c && !lineHeld s e.1)
      let cs := if !(cand 0).isEmpty then cand 0 else if !(cand 1).isEmpty then cand 1 else cand 2
      match cs with
      | [] => (s, false)
      | _ =>
        let d := drawChoice s cs.length
        match cs[d.1]? with
        | none => (d.2, false)
        | some v => (pushVictim { d.2 with slc := Tab.del d.2.slc v.1 } v.1 v.2, true)

/-- Lines of the set held in a class under a window of a space. -/
def classCount (s : State) (ln cls space window : Nat) : Nat :=
  (s.slc.filter (fun e => e.2.cls == cls && e.2.space == space && e.2.window == window && e.1 != ln &&
    sameSet e.1 ln)).length

/-- The way quota of a window (R300), 0 for no window. -/
def windowWays (s : State) (space window : Nat) : Nat :=
  if space < 16 && window < 16 then fld (s.ten space 0xC040 window) (8 * 17 + 3) (8 * 17) else 0

/-- The class a line takes on an access (R303, R304), and whether a pin was demoted. -/
def classFor (s : State) (ln : Nat) (ac : Acc) : Nat × Bool :=
  if ac.cls = 3 then
    let pins := s.slc.filter (fun e => e.2.cls == 3 && e.1 != ln)
    let mine := pins.filter (fun e => e.2.space == ac.space && e.2.window == ac.window)
    let ways := windowWays s ac.space ac.window
    let full := (ways ≤ mine.length && ways ≤ classCount s ln 3 ac.space ac.window) ||
      (12 ≤ pins.length && 12 ≤ (pins.filter (fun e => sameSet e.1 ln)).length)
    if full then (2, true) else (3, false)
  else if ac.cls = 2 then
    let ways := windowWays s ac.space ac.window
    if ways ≤ classCount s ln 2 ac.space ac.window then (1, false) else (2, false)
  else (ac.cls, false)

/-- A line touched by an access takes the access's class and window (R277, R304, R305). -/
def touchLine (s : State) (ln : Nat) (ac : Acc) : State :=
  match Tab.get? s.slc ln with
  | none => s
  | some l =>
    if l.cls = 3 && ac.cls = 3 && l.window = ac.window && l.space = ac.space then s
    else
      let c := classFor s ln ac
      let s1 := { s with slc := Tab.put s.slc ln { l with cls := c.1, window := ac.window } }
      if c.2 then s1.count ac.space 0x27 1 else s1

/-- An empty line for an access. -/
def CLine.fresh (ac : Acc) (cls : Nat) : CLine := ⟨0, 0, 0, 0, 0, ac.space, cls, ac.window, none⟩

/-- The line of a slice brought back from its victim buffer as clean (R285). -/
def reinstall (s : State) (ln : Nat) (ac : Acc) : State :=
  match Tab.get? s.slc ln with
  | some _ => s
  | none => match victimOf s ln with
    | none => s
    | some v =>
      let r := makeRoom s ln
      if r.2 then
        let c := classFor r.1 ln ac
        { r.1 with slc := Tab.put r.1.slc ln { v with dirty := 0, valid := v.valid, cls := c.1, window := ac.window,
                                                      space := ac.space } }
      else r.1

/-- Sectors all of whose bytes are known dirty. -/
def dirtySectors (d : Nat) : Nat := bitsOf 4 (fun i => fld d (32 * i + 31) (32 * i) == 2 ^ 32 - 1)

/-- A write accepted at a slice: bytes under a mask, tag bits of the granules touched, poison marks (R276, R278, R283,
R293). -/
def sliceWrite (s : State) (ln mask data tags poison : Nat) (ac : Acc) : State :=
  if mask = 0 then s
  else
    let f := writeFull (archFull s ln) mask data tags poison
    if sliceOff s (sliceOf (128 * ln)) then hbmStore s ac.space ln mask data tags f.poison
    else
      let s1 := reinstall s ln ac
      let upd (l : CLine) : CLine :=
        let d := Nat.lor l.dirty mask
        { l with
          data := blend (expandMask 128 mask) data l.data
          dirty := d
          valid := Nat.lor l.valid (dirtySectors d)
          tags := bitsOf 8 (fun g => if fld mask (16 * g + 15) (16 * g) = 0 then bit l.tags g else bit tags g)
          poison := bitsOf 16 (fun w => if fld mask (8 * w + 7) (8 * w) = 0 then bit l.poison w else bit f.poison w) }
      match Tab.get? s1.slc ln with
      | some l => touchLine { s1 with slc := Tab.put s1.slc ln (upd l) } ln ac
      | none =>
        let r := makeRoom s1 ln
        if r.2 then
          let c := classFor r.1 ln ac
          let s2 := { r.1 with slc := Tab.put r.1.slc ln (upd (CLine.fresh ac c.1)) }
          if c.2 then s2.count ac.space 0x27 1 else s2
        else hbmStore (flushVictim r.1 ln) ac.space ln mask data tags f.poison

/-- Whether the slice serves the sectors of a line without an access to HBM. -/
def sliceHas (s : State) (ln sectors : Nat) : Bool :=
  !sliceOff s (sliceOf (128 * ln)) &&
  match Tab.get? s.slc ln with
  | some l => Nat.land l.valid sectors == sectors
  | none => (victimOf s ln).isSome

/-- Bytes of slice SRAM found flagged are corrected or poisoned (R435, R438, R439): the 16 ways of a set are one block,
and codeword j holds the bytes whose address is j modulo 32. -/
def repairSlice (s : State) (flaggedOnly : Bool) (hit : Nat → Bool) : State :=
  if s.slcErrs.isEmpty then s
  else
    let fl := s.slcErrs.filter (fun (e : Nat × ByteErr) => (e.2.flagged || !flaggedOnly) && hit e.1)
    let cwOf (e : Nat) := s.slcErrs.filter (fun (x : Nat × ByteErr) => x.1 % 32 == e % 32 && sameSet (x.1 / 128) (e / 128))
    let okOf (e : Nat) :=
      let es := cwOf e
      let t := (es.filter (fun (x : Nat × ByteErr) => !x.2.flagged)).length
      2 * t + (es.length - t) ≤ 4
    let good := (fl.filter (fun (e : Nat × ByteErr) => okOf e.1)).foldl (fun l (e : Nat × ByteErr) => l ++ (cwOf e.1).map (fun (x : Nat × ByteErr) => x.1)) ([] : List Nat)
    let lost := fl.filter (fun (e : Nat × ByteErr) => e.2.flagged && !okOf e.1)
    let s1 := { s with
      slcErrs := Tab.keep s.slcErrs (fun a _ => !good.contains a && !(lost.map (fun (e : Nat × ByteErr) => e.1)).contains a)
      slc := Tab.mapV s.slc (fun ln l =>
        { l with poison := lost.foldl (fun (m : Nat) (e : Nat × ByteErr) => if e.1 / 128 = ln then Nat.lor m (2 ^ (e.1 % 128 / 8)) else m) l.poison }) }
    let sp (a : Nat) := match Tab.get? s.slc (a / 128) with
      | some l => l.space
      | none => 16
    let s2 := if good.isEmpty then s1 else s1.count (sp (good.headD 0)) 0x25 1
    lost.foldl (fun (st : State) (e : Nat × ByteErr) => st.count (sp e.1) 0x26 1) s2

/-- A read of sectors of a line at its slice, by an agent other than an L1 hit: the state it leaves, with the fetch it
opens in the miss table (R276, R280, R285, R439). The value is archFull of the state it leaves. -/
def sliceRead (s : State) (ln sectors : Nat) (ac : Acc) : State :=
  let s0 := repairSlice s true (fun a => a / 128 == ln && bit sectors (a % 128 / 32))
  if sliceHas s0 ln sectors then touchLine (reinstall s0 ln ac) ln ac
  else
    let s1 := hbmTouch s0 ln sectors
    let old := Tab.getD s1.misses ln ⟨0, 0, ac.space, ac.cls, ac.window⟩
    let have_ := match (if sliceOff s1 (sliceOf (128 * ln)) then none else Tab.get? s1.slc ln) with
      | some l => Nat.lor l.valid old.sectors
      | none => old.sectors
    let want := sectors - Nat.land sectors have_
    let s2 := s1.count ac.space 0x12 (32 * popCount 4 want)
    if sliceOff s2 (sliceOf (128 * ln)) then s2
    else touchLine { s2 with misses := Tab.put s2.misses ln { old with sectors := Nat.lor old.sectors want } } ln ac

/-- The sectors a byte mask touches. -/
def maskSectors (mask : Nat) : Nat := bitsOf 4 (fun i => fld mask (32 * i + 31) (32 * i) != 0)

end Sys2Proof.Machine
end

