-- ==== Sys2Proof/Machine/L1.lean ====
section
/-!
DEFINITION. Machine/L1.lean: the L1 data cache of a core, its write-backs, the speculation overlay and the fences
(R132, R289 to R298).
-/

namespace Sys2Proof.Machine

/-- Key of an epoch: 64 × tenancy + slot. -/
def epochKey (n : Fin 16) (slot : Nat) : Nat := 64 * n.val + slot % 64

/-- Key of an overlay line. -/
def overlayKey (ep ln : Nat) : Nat := ep * 2 ^ 41 + ln

/-- Overlay lines charged to a tenancy: those its epochs hold or still have to convert (R132, R134). -/
def overlayLines (s : State) (n : Nat) : Nat :=
  (s.epochs.filter (fun e => e.1 / 64 == n)).foldl (fun (k : Nat) e => k + e.2.lines) 0

/-- The tenancy's OVERLAY_BYTES and EPOCHS_LIVE follow its epochs (R116, R138). -/
def syncEpochs (s : State) (n : Nat) : State :=
  (s.setTen n 0xC010 5 (128 * overlayLines s n)).setTen n 0xC010 4 (s.epochs.filter (fun e => e.1 / 64 == n)).length

/-- Whether a speculative store to the line needs a new overlay line that it cannot have: it would take the tenancy past its
quota (R132, R135), or no way of its set can be freed (R283). -/
def overlayBlocked (s : State) (ep ln : Nat) : Bool :=
  (Tab.get? s.overlay (overlayKey ep ln)).isNone &&
    (decide (s.ten (ep / 64) 0xC010 2 * 2 ^ 20 < 128 * (overlayLines s (ep / 64) + 1)) || !(makeRoom s ln).2)

/-- The overlay line of a speculative store: when it is new, it takes a way of its set (R282) and is charged (R132). -/
def chargeOverlay (s : State) (ep ln : Nat) (ac : Acc) : State :=
  match Tab.get? s.overlay (overlayKey ep ln) with
  | some _ => s
  | none =>
    let s0 := (makeRoom s ln).1
    let s1 := { s0 with overlay := Tab.put s0.overlay (overlayKey ep ln) (CLine.fresh ac ac.cls) }
    match Tab.get? s1.epochs ep with
    | none => s1
    | some e => syncEpochs { s1 with epochs := Tab.put s1.epochs ep { e with lines := e.lines + 1 } } (ep / 64)

/-- A write accepted into an overlay line (R132, R292). -/
def overlayWrite (s : State) (ep ln mask data tags poison : Nat) (ac : Acc) : State :=
  let s1 := chargeOverlay s ep ln ac
  let f := writeFull (viewFull s1 (some ep) ln) mask data tags poison
  let l := Tab.getD s1.overlay (overlayKey ep ln) (CLine.fresh ac ac.cls)
  let d := Nat.lor l.dirty mask
  let l1 : CLine :=
    { l with
      data := blend (expandMask 128 mask) data l.data
      dirty := d
      tags := bitsOf 8 (fun g => if fld mask (16 * g + 15) (16 * g) = 0 then bit l.tags g else bit f.tags g)
      poison := bitsOf 16 (fun w => if fld mask (8 * w + 7) (8 * w) = 0 then bit l.poison w else bit f.poison w) }
  { s1 with overlay := Tab.put s1.overlay (overlayKey ep ln) l1 }

/-- What an L1 line's write-backs carry to the slice. -/
def CLine.acc (l : CLine) : Acc := ⟨l.space, l.cls, l.window⟩

/-- Writes back the dirty bytes of a line at its slice, as one write (R293): to the overlay of the epoch it carries, when
that epoch is still open. -/
def writeBack (s : State) (ln : Nat) (l : CLine) : State :=
  if l.dirty = 0 then s
  else match l.epoch with
    | some e => overlayWrite s e ln l.dirty l.data l.tags l.poison l.acc
    | none => sliceWrite s ln l.dirty l.data l.tags l.poison l.acc

/-- The L1 of a core with a line replaced. -/
def setL1 (s : State) (c : CoreId) (t : Tab CLine) : State := s.setCore c { s.core c with l1 := t }

/-- Ways of an L1 set that hold cache lines: those lent to channel slots hold none (R290). A unit is one of ways 4 to 7
in 256 consecutive sets; units are lent in rising order, way 7 first within each run of sets. -/
def l1Ways (lent set : Nat) : Nat :=
  let groups := set / 256
  8 - (min 4 ((lent + 7 - groups) / 8))

/-- The lines of an L1 set: 2,048 sets by the line number (R289). -/
def l1Set (t : Tab CLine) (ln : Nat) : Tab CLine := t.filter (fun e => e.1 % 2048 == ln % 2048)

/-- Makes room in the L1 set of a line: the line that leaves is offered to its slice, dirty bytes written back (R292).
Clean offers are declined, which R292 permits. -/
def l1Room (s : State) (c : CoreId) (ln : Nat) : State :=
  let k := s.core c
  let set := l1Set k.l1 ln
  if set.length < l1Ways k.lentUnits (ln % 2048) then s
  else
    let d := drawChoice s set.length
    match set[d.1]? with
    | none => d.2
    | some v =>
      let s1 := setL1 d.2 c (Tab.del (d.2.core c).l1 v.1)
      writeBack s1 v.1 v.2

/-- Drops a line of another epoch, or of none when an epoch accesses it: it is written back first (R132). -/
def l1Match (s : State) (c : CoreId) (ep : Option Nat) (ln : Nat) : State :=
  match Tab.get? (s.core c).l1 ln with
  | none => s
  | some l => if l.epoch = ep then s else setL1 (writeBack s ln l) c (Tab.del (s.core c).l1 ln)

/-- A load or a fill of sectors of a line through a core's L1 (R291, R298): the state and the line as the L1 holds it. n
is the number of bytes asked for, for the statistics of R536. -/
def l1Read (s : State) (c : CoreId) (ep : Option Nat) (ln sectors n : Nat) (ac : Acc) : State × Full :=
  if l1Off s c then
    let hit := sliceHas s ln sectors
    let s1 := sliceRead s ln sectors ac
    (s1.count ac.space 0x11 (if hit then n else 0), viewFull s1 ep ln)
  else
    let s1 := l1Match s c ep ln
    let old := Tab.get? (s1.core c).l1 ln
    let have_ := match old with
      | some l => Nat.land l.valid sectors
      | none => 0
    if have_ = sectors && old.isSome then
      match old with
      | some l => (s1.count ac.space 0x10 n, ⟨l.data, l.tags, l.poison⟩)
      | none => (s1, ⟨0, 0, 0⟩)
    else
      let want := sectors - have_
      let hit := sliceHas s1 ln want
      let s2 := sliceRead s1 ln want ac
      let s3 := s2.count ac.space 0x11 (if hit then n else 0)
      let base := viewFull s3 ep ln
      let s4 := if old.isSome then s3 else l1Room s3 c ln
      let l := (Tab.get? (s4.core c).l1 ln).getD { CLine.fresh ac ac.cls with epoch := ep }
      let m := overFull l base
      -- the newly valid sectors hold the merged bytes; what the line does not know stays unknown
      let l1 := { l with data := m.data, tags := m.tags, poison := m.poison, valid := Nat.lor l.valid want,
                         cls := ac.cls, window := ac.window }
      (setL1 s4 c (Tab.put (s4.core c).l1 ln l1), m)

/-- A store of bytes of a line through a core's L1 (R289, R291), or at the slice when the L1 is disabled (R307). -/
def l1Write (s : State) (c : CoreId) (ep : Option Nat) (ln mask data tags poison : Nat) (ac : Acc) : State :=
  let s0 := match ep with
    | some e => chargeOverlay s e ln ac
    | none => s
  if l1Off s0 c then
    match ep with
    | some e => overlayWrite s0 e ln mask data tags poison ac
    | none => sliceWrite s0 ln mask data tags poison ac
  else
    let s1 := l1Match s0 c ep ln
    let s2 := if (Tab.get? (s1.core c).l1 ln).isSome then s1 else l1Room s1 c ln
    let l := (Tab.get? (s2.core c).l1 ln).getD { CLine.fresh ac ac.cls with epoch := ep }
    let f := writeFull ⟨l.data, l.tags, l.poison⟩ mask data tags poison
    let d := Nat.lor l.dirty mask
    let l1 := { l with data := f.data, tags := f.tags, poison := f.poison, dirty := d,
                       valid := Nat.lor l.valid (dirtySectors d), cls := ac.cls, window := ac.window }
    setL1 s2 c (Tab.put (s2.core c).l1 ln l1)

/-- The L1 lines of a core written back one by one; lines stay as clean (R294, FENCE.REL). -/
def releaseLines (c : CoreId) : Tab CLine → State → State
  | [], s => s
  | (ln, l) :: t, s =>
    let s1 := writeBack s ln l
    let s2 := setL1 s1 c
      (if l.valid = 0 then Tab.del (s1.core c).l1 ln else Tab.put (s1.core c).l1 ln { l with dirty := 0 })
    releaseLines c t s2

/-- FENCE.REL on a core (R294). -/
def fenceRel (s : State) (c : CoreId) : State :=
  if l1Off s c then s else releaseLines c (s.core c).l1 s

/-- FENCE.ACQ on a core: clean sectors become not valid; a sector with dirty bytes keeps those alone (R294). -/
def fenceAcq (s : State) (c : CoreId) : State :=
  if l1Off s c then s
  else setL1 s c (Tab.mapV (Tab.keep (s.core c).l1 (fun _ l => l.dirty != 0))
    (fun _ l => { l with valid := dirtySectors l.dirty }))

/-- Before an AMO a core writes back its dirty bytes of the line, whatever epoch carries them, and drops it (R297). -/
def l1Flush (s : State) (c : CoreId) (ln : Nat) : State :=
  match Tab.get? (s.core c).l1 ln with
  | none => s
  | some l => if l1Off s c then s else setL1 (writeBack s ln l) c (Tab.del (s.core c).l1 ln)

/-- When an epoch commits, L1 lines that carry it carry none; when it is discarded, they are dropped (R132, R134). -/
def l1Resolve (ep : Nat) (commit : Bool) (k : Core) : Core :=
  { k with l1 := if commit then Tab.mapV k.l1 (fun _ l => if l.epoch = some ep then { l with epoch := none } else l)
                 else Tab.keep k.l1 (fun _ l => l.epoch != some ep) }

end Sys2Proof.Machine
end

