-- ==== Sys2Proof/Machine/Paging.lean ====
section
/-!
DEFINITION. Machine/Paging.lean: frames and pools, page tables and the walk, allocation on touch, shadow frames
(chapter Memory and hardware paging, R240 to R262).
-/

namespace Sys2Proof.Machine

/-- The state with the pager's record of a space replaced. -/
def State.sp (s : State) (n : Fin 17) : Space := s.spaces[n.val]
/-- The state with the pager's record of a space replaced. -/
def State.setSp (s : State) (n : Fin 17) (v : Space) : State := { s with spaces := s.spaces.set n.val v }
/-- A space number as plain data back to its place. -/
def spaceOf (n : Nat) : Fin 17 := ⟨n % 17, Nat.mod_lt _ (by decide)⟩

/-! ### Runs of frames -/

/-- Takes count units aligned to align from the runs of a region (unit[31:28]), first fit: the first unit and the rest. -/
def runsTake (region align count : Nat) : Runs → Option (Nat × Runs)
  | [] => none
  | (a, n) :: t =>
    let b := (a + align - 1) / align * align
    if a / 2 ^ 28 = region && b + count ≤ a + n then
      let left := if a < b then [(a, b - a)] else []
      let right := if b + count < a + n then [(b + count, a + n - (b + count))] else []
      some (b, left ++ right ++ t)
    else match runsTake region align count t with
      | none => none
      | some r => some (r.1, (a, n) :: r.2)

/-- Adds a run, joined with its neighbours, in rising order. -/
def runsAdd (a n : Nat) : Runs → Runs
  | [] => [(a, n)]
  | (b, m) :: t =>
    if a + n < b then (a, n) :: (b, m) :: t
    else if a + n = b then (a, n + m) :: t
    else if b + m = a then runsAdd b (m + n) t
    else (b, m) :: runsAdd a n t

/-- Units in runs. -/
def runsSize (r : Runs) : Nat := r.foldl (fun (k : Nat) e => k + e.2) 0

/-- FREE_FRAMES counts the device free list (R272). -/
def syncFree (s : State) : State :=
  s.setDev 0x3003 0 (s.freeFrames.toList.foldl (fun (k : Nat) r => k + runsSize r) 0)

/-- FRAMES_HELD and SHADOW_HELD of a tenancy follow what its space holds (R253, R261, R272). -/
def syncHeld (s : State) (n : Fin 17) : State :=
  if n.val = 16 then s
  else
    let p := s.sp n
    let sh := (s.shadows.filter (fun x => x.space == n.val)).foldl (fun (k : Nat) x => k + (if x.level = 1 then 16384 else if x.level = 2 then 32 else 1)) 0
    (s.setTen n.val 0xC030 2 (p.pagesHeld + p.nodeFrames.length)).setTen n.val 0xC030 4 sh

/-- Takes frames from a space's pool, refilled from the device free list in blocks of 1 GiB (R253); fuel bounds the
refills. -/
def takeFrames (s : State) (n : Fin 17) (region align count : Nat) : Nat → Option (Nat × State)
  | 0 => none
  | f + 1 =>
    let p := s.sp n
    match runsTake region align count p.pool with
    | some r => some (r.1, s.setSp n { p with pool := r.2 })
    | none =>
      if h : region < 5 then
        match runsTake region 16384 16384 s.freeFrames[region] with
        | none => none
        | some r =>
          let s1 := { s with freeFrames := s.freeFrames.set region r.2 }
          takeFrames (syncFree (s1.setSp n { p with pool := runsAdd r.1 16384 p.pool })) n region align count f
      else none

/-- Units a space holds against its quota (R253). -/
def heldUnits (s : State) (n : Fin 17) : Nat := (s.sp n).pagesHeld + (s.sp n).nodeFrames.length

/-- Whether further units fit the frame quota: the device space has none (R253, R272). -/
def quotaFits (s : State) (n : Fin 17) (units : Nat) : Bool :=
  n.val == 16 || decide (heldUnits s n + units ≤ s.ten n.val 0xC030 1)

/-- Why frames could not be taken: quota (REASON 0x5) or no frame (REASON 0x6). -/
def allocFrames (s : State) (n : Fin 17) (region align count : Nat) : Except Nat (Nat × State) :=
  if !quotaFits s n count then .error 5
  else match takeFrames s n region align count 4 with
    | none => .error 6
    | some r =>
      let p := r.2.sp n
      .ok (r.1, syncHeld (r.2.setSp n { p with pagesHeld := p.pagesHeld + count }) n)

/-- Frames of a page back to the pool (R256, R262). -/
def freeFramesOf (s : State) (n : Fin 17) (frame count : Nat) : State :=
  let p := s.sp n
  syncHeld (s.setSp n { p with pool := runsAdd frame count p.pool, pagesHeld := p.pagesHeld - count }) n

/-- Zero-fills physical bytes: contents, tag bits, poison and codes (R254, R341). -/
def zeroPhys (s : State) (pa count : Nat) : State :=
  let inR (a : Nat) := pa ≤ a && a < pa + count
  { s with
    hbm := s.hbm.filter (fun c => !inR c.1)
    hbmErrs := Tab.keep s.hbmErrs (fun a _ => !inR a)
    hbmTags := Tab.keep s.hbmTags (fun g _ => !inR (16 * g))
    hbmPoison := Tab.keep s.hbmPoison (fun w _ => !inR (8 * w))
    slc := Tab.keep s.slc (fun ln _ => !inR (128 * ln))
    slcErrs := Tab.keep s.slcErrs (fun a _ => !inR a)
    misses := Tab.keep s.misses (fun ln _ => !inR (128 * ln))
    victims := s.victims.filter (fun v => !inR (128 * v.1)) }

/-- Lines of a physical range written to HBM and left clean in their slices (R346). -/
def cleanRange (s : State) (pa count : Nat) : State :=
  (s.slc.filter (fun e => pa ≤ 128 * e.1 && 128 * e.1 < pa + count && e.2.dirty != 0)).foldl
    (fun (st : State) e =>
      let st1 := hbmStore st e.2.space e.1 e.2.dirty e.2.data e.2.tags e.2.poison
      { st1 with slc := Tab.put st1.slc e.1 { e.2 with dirty := 0 } }) s

/-! ### Reading and writing physical words at their slices -/

/-- Eight aligned bytes at a slice: the state, the value, and whether the word is poisoned. -/
def readWord (s : State) (space pa : Nat) : State × Nat × Bool :=
  let ln := pa / 128
  let s1 := sliceRead s ln (2 ^ (pa % 128 / 32)) ⟨space, 1, 16⟩
  let f := archFull s1 ln
  (s1, f.data / 256 ^ (pa % 128) % 2 ^ 64, bit f.poison (pa % 128 / 8))

/-- Writes eight aligned bytes at a slice. -/
def writeWord (s : State) (space pa v : Nat) : State :=
  sliceWrite s (pa / 128) (255 * 2 ^ (pa % 128)) (v % 2 ^ 64 * 256 ^ (pa % 128)) 0 0 ⟨space, 1, 16⟩

/-! ### Page tables -/

/-- The index of an address at a level (R244). -/
def ptIndex (level va : Nat) : Nat :=
  match level with
  | 0 => fld va 51 39
  | 1 => fld va 38 30
  | 2 => fld va 29 21
  | _ => fld va 20 16

/-- What a walk finds: a leaf with its level, the address of its entry and the entry, or a failure (R245, R251). -/
inductive Walk where
  | leaf (level epa entry : Nat)
  | bad (reason level : Nat)
  | noRegion (pa : Nat)
deriving DecidableEq, Repr

/-- MACHINE_CHECK report of an uncorrectable page-table entry (R251): the Drone's log and a mailbox message to the
monitor, vector 61. -/
def ptMachineCheck (s : State) (epa : Nat) : State :=
  let s1 := s.log 4 (3 * 2 ^ 16 + sliceOf epa * 2 ^ 8)
  { s1 with monitorMail := s1.monitorMail + 1 }

/-- The walk from a node at a level down to the leaf (R250). -/
def walkFrom (s : State) (n : Fin 17) (va : Nat) : Nat → Nat → Nat → State × Walk
  | 0, level, _ => (s, .bad 7 level)
  | f + 1, level, node =>
    let epa := node + 8 * ptIndex level va
    if 5 ≤ fld epa 47 44 then (s, .noRegion epa)
    else
      let r := readWord s n.val epa
      if r.2.2 then (ptMachineCheck r.1 epa, .bad 8 level)
      else
        let e := r.2.1
        match e % 8 with
        | 0 => (r.1, .bad 0 level)
        | 1 => if level = 3 then (r.1, .bad 7 level) else walkFrom r.1 n va f (level + 1) (fld e 47 8 * 256)
        | 2 => if level = 0 then (r.1, .bad 7 level) else (r.1, .leaf level epa e)
        | 3 => if level = 0 then (r.1, .bad 7 level) else (r.1, .leaf level epa e)
        | 4 => if level = 0 then (r.1, .bad 7 level) else (r.1, .leaf level epa e)
        | _ => (r.1, .bad 7 level)

/-- The walk of an address in a space; a space without a root maps nothing. -/
def walk (s : State) (n : Fin 17) (va : Nat) : State × Walk :=
  if ptRoot s n = 0 then (s, .bad 0 0) else walkFrom s n va 4 0 (ptRoot s n)

/-! ### Accesses -/

/-- What an access does (R250, R251). -/
inductive AccKind where
  | read | write | fetch | amo
deriving DecidableEq, Repr

/-- Who makes an access: a thread, which waits, or an engine or another agent, for which fills are made at once. -/
inductive Agent where
  | thread (t : Tid)
  | engine (cmd : Nat)
  | other
deriving DecidableEq, Repr

/-- The outcome of a translation. -/
inductive Trans where
  | ok (pa : Nat)
  | err (reason level : Nat)
  | wait (w : WaitOn)
  | noRegion (pa : Nat)
deriving DecidableEq, Repr

/-- Whether a leaf permits the access (R250): a store needs PW, an AMO PR and PW. -/
def leafAllows (k : AccKind) (e : Nat) : Bool :=
  match k with
  | .read => bit e 50
  | .write => bit e 51
  | .fetch => bit e 52
  | .amo => bit e 50 && bit e 51

/-- Whether the access writes. -/
def AccKind.writes : AccKind → Bool
  | .write => true
  | .amo => true
  | _ => false

/-- The region a TOUCH or LOCAL page's frames lie in (R241, R254). -/
def entryRegion (e : Nat) : Nat := if bit e 59 then 1 + fld e 58 57 else 0

/-- Threads that wait on a condition go on: they issue their instruction again. -/
def wakeOn (s : State) (w : WaitOn) : State :=
  { s with threads := s.threads.map (fun th => if th.status = .waiting w then { th with status := .active, waitsWith := none } else th) }

/-- Threads that wait for the fetch of a REMOTE page go on. -/
def wakeRemote (s : State) (space page : Nat) : State :=
  { s with threads := s.threads.map (fun th => match th.status with
      | .waiting (.remote n p _) => if n = space && p = page then { th with status := .active, waitsWith := none } else th
      | _ => th) }

/-- The zero-fill of a TOUCH page ends: the entry becomes LOCAL with the current key epoch, and the waiting accesses go
on (R254). -/
def fillDone (s : State) (f : Fill) : State :=
  let n := spaceOf f.space
  let w := walk s n (f.page * 65536)
  let s1 := { w.1 with fills := w.1.fills.erase f }
  match w.2 with
  | .leaf level epa e =>
    if e % 8 = 3 then
      let units := levelUnits level * (if bit e 61 then 2 else 1)
      let s2 := zeroPhys s1 (f.frame * 65536) (units * 65536)
      let e1 := setFld (setFld (setFld e 2 0 2) 47 16 f.frame) 63 62 ((s1.sp n).keyEpoch % 4)
      wakeOn (writeWord s2 f.space epa e1) (.pageFill f.space f.page)
    else wakeOn s1 (.pageFill f.space f.page)
  | _ => wakeOn s1 (.pageFill f.space f.page)

/-- The first 64 KiB page number of the page of a leaf level that an address lies in. -/
def pageBase (level va : Nat) : Nat := alignDown va (2 ^ levelShift level) / 65536

/-- Starts the allocation of a TOUCH page (R254, R255): takes its frames. -/
def startFill (s : State) (n : Fin 17) (level e va : Nat) : Except Nat (State × Fill) :=
  let units := levelUnits level
  let count := if bit e 61 then 2 * units else units
  match allocFrames s n (entryRegion e) units count with
  | .error r => .error r
  | .ok r =>
    let f : Fill := ⟨n.val, pageBase level va, level, r.1⟩
    .ok ({ r.2 with fills := r.2.fills ++ [f] }, f)

/-- The physical address that a LOCAL leaf gives: the buffer CUR selects, or the other one for the alternate (R257). -/
def localPa (level e va : Nat) (alt : Bool) : Nat :=
  let size := 2 ^ levelShift level
  let base := fld e 47 16 * 65536
  let second := bit e 61 && (bit e 60 != alt)
  base + (if second then size else 0) + va % size

/-- A leaf entry with ACC, and DIRTY for a write, set by one update at its slice when they are not yet set (R250). -/
def setAccDirty (s : State) (n : Fin 17) (epa e : Nat) (write : Bool) : State :=
  let e1 := if e % 8 = 4 then setFld e 7 7 1 else setFld e 54 54 1
  let e2 := if write then setFld e1 53 53 1 else e1
  if e2 = e then s else writeWord s n.val epa e2

/-- Whether a page holds data under the key of the previous epoch (R258). -/
def staleKey (s : State) (n : Fin 17) (e : Nat) : Bool := fld e 63 62 != (s.sp n).keyEpoch % 4

/-- SWEEP_PAGES_LEFT falls by one; at zero the sweep is complete and the event is posted (R347, R523). -/
def sweepOne (s : State) (n : Fin 17) : State :=
  if n.val = 16 || !(s.sp n).sweeping then s
  else
    let left := s.ten n.val 0xC050 1 - 1
    let s1 := s.setTen n.val 0xC050 1 left
    if left = 0 then
      (s1.setSp n { s1.sp n with sweeping := false }).post n.val 6 ((s1.sp n).keyEpoch % 2 ^ 32)
    else s1

/-- Re-encryption of the page of a leaf under the current key: every line at its slice goes to HBM, lines stay as clean,
and KEY_EPOCH becomes the current epoch (R258, R346). -/
def reencrypt (s : State) (n : Fin 17) (level epa e : Nat) : State :=
  let size := 2 ^ levelShift level * (if bit e 61 then 2 else 1)
  let s1 := cleanRange s (fld e 47 16 * 65536) size
  sweepOne (writeWord s1 n.val epa (setFld e 63 62 ((s1.sp n).keyEpoch % 4))) n

/-- The job id of a space: the one START_JOB gave the tenancy, 0xFFFF for the device space (R263, R362). -/
def jobOf (s : State) (space : Nat) : Nat := if space < 16 then s.ten space 0xC080 3 else 0xFFFF

/-- A packet of this module to a node, handed to its router (R362, R374). -/
def State.send (s : State) (dest type flags job len tspec data : Nat) : State :=
  { s with outbox := s.outbox ++ [⟨dest, s.dev 0x4000 0, type, flags, 0, job, len, tspec, data⟩] }

/-- The shadow frame bound to a REMOTE page, by the page's entry. -/
def shadowOf (s : State) (n : Fin 17) (page e : Nat) : Option Shadow :=
  s.shadows.find? (fun x => x.space == n.val && x.page == page && x.node == fld e 63 48 && x.rframe == fld e 47 16)

/-- Whether further shadow frames fit under R261. -/
def shadowFits (s : State) (n : Fin 17) (frames units : Nat) : Bool :=
  decide (s.shadows.length + frames ≤ 65536) && (n.val == 16 || decide (s.ten n.val 0xC030 4 + units ≤ s.ten n.val 0xC030 3))

/-- Binds a shadow frame to a REMOTE page and sends its READ_REQ (R259 to R261): an error is a REASON. -/
def bindShadow (s : State) (n : Fin 17) (level e va region : Nat) (hs : List ShadowHolder)
    (layout : Option (Nat × Nat × Nat × Nat)) : Except Nat State :=
  let units := levelUnits level
  match allocFrames s n region units units with
  | .error r => .error r
  | .ok r =>
    let x : Shadow := { space := n.val, page := pageBase level va, level := level, node := fld e 63 48, rframe := fld e 47 16,
                        frame := r.1, layout := layout, got := [], holders := hs, filled := false,
                        keyEpoch := (s.sp n).keyEpoch % 4 }
    let q := Config.readReqCode x.rframe units
    -- what the frame held before is never read: a page is readable only when its whole frame has arrived
    let s1 := zeroPhys r.2 (r.1 * 65536) (units * 65536)
    .ok (syncHeld ({ s1 with shadows := s1.shadows ++ [x] }.send x.node 1 0 (jobOf s n.val) q.2.1 q.1 q.2.2) n)

/-- What a thread or an engine holds an on-demand fetch as (R262); a read of the module itself holds none. -/
def holderOf (s : State) : Agent → List ShadowHolder
  | .thread t => match (s.th t).task with
    | some k => [.task k]
    | none => []
  | .engine c => [.engine c]
  | .other => []

/-- A shadow frame gets further holders. -/
def addHolders (s : State) (x : Shadow) (hs : List ShadowHolder) : State :=
  { s with shadows := s.shadows.map (fun y =>
      if y == x then { y with holders := y.holders ++ hs.filter (fun h => !y.holders.contains h) } else y) }

/-- The translation of one access (R250 to R261). alt names the alternate buffer of a paired page. -/
def translate (s : State) (n : Fin 17) (va : Nat) (k : AccKind) (ag : Agent) (alt : Bool := false) : State × Trans :=
  let w := walk s n va
  match w.2 with
  | .noRegion pa => (w.1, .noRegion pa)
  | .bad r l => (w.1, .err r l)
  | .leaf level epa e =>
    match e % 8 with
    | 4 =>
      match k with
      | .write => (w.1, .err 2 level)
      | .fetch => (w.1, .err 3 level)
      | .amo => (w.1, .err 4 level)
      | .read =>
        let page := pageBase level va
        let s1 := setAccDirty w.1 n epa e false
        match shadowOf s1 n page e with
        | some x =>
          if x.filled then (s1, .ok (x.frame * 65536 + va % 2 ^ levelShift level))
          else (addHolders s1 x (holderOf s1 ag), .wait (.remote n.val page va))
        | none =>
          if !shadowFits s1 n 1 (levelUnits level) then (s1, .wait (.remote n.val page va))
          else match bindShadow s1 n level e va 0 (holderOf s1 ag) none with
            | .error r => (s1, .err r level)
            | .ok s2 => (s2, .wait (.remote n.val page va))
    | _ =>
      if !leafAllows k e then (w.1, .err 1 level)
      else if e % 8 = 3 then
        match ag with
        | .thread _ =>
          if w.1.fills.any (fun f => f.space == n.val && f.page == pageBase level va) then
            (w.1, .wait (.pageFill n.val (pageBase level va)))
          else match startFill w.1 n level e va with
            | .error r => (w.1, .err r level)
            | .ok r => (r.1, .wait (.pageFill n.val (pageBase level va)))
        | _ =>
          let started := match w.1.fills.find? (fun f => f.space == n.val && f.page == pageBase level va) with
            | some f => Except.ok (w.1, f)
            | none => startFill w.1 n level e va
          match started with
          | .error r => (w.1, .err r level)
          | .ok r =>
            let s1 := fillDone r.1 r.2
            let w1 := walk s1 n va
            match w1.2 with
            | .leaf level1 epa1 e1 => (setAccDirty w1.1 n epa1 e1 k.writes, .ok (localPa level1 e1 va alt))
            | .bad r l => (w1.1, .err r l)
            | .noRegion pa => (w1.1, .noRegion pa)
      else if k.writes && staleKey w.1 n e then
        match ag with
        | .thread _ => (w.1, .wait (.reencrypt n.val (pageBase level va)))
        | _ =>
          let s1 := reencrypt w.1 n level epa e
          let e1 := setFld e 63 62 ((s1.sp n).keyEpoch % 4)
          (setAccDirty s1 n epa e1 true, .ok (localPa level e1 va alt))
      else (setAccDirty w.1 n epa e k.writes, .ok (localPa level e va alt))

/-- The address window that applies to an address of a space (R302): class and number. -/
def windowAt (s : State) (space va : Nat) : Acc :=
  if space < 16 then
    match (upto 16).find? (fun i =>
        let r := s.ten space 0xC040 i
        let b := fld r 63 0
        let l := fld r 127 64
        l != 0 && b ≤ va && va < b + l) with
    | some i => ⟨space, fld (s.ten space 0xC040 i) (8 * 16 + 1) (8 * 16), i⟩
    | none => ⟨space, 1, 16⟩
  else ⟨space, 1, 16⟩

end Sys2Proof.Machine
end

