-- ==== Sys2Proof/Machine/Prefetch.lean ====
section
/-!
DEFINITION. Machine/Prefetch.lean: the stride detectors of a thread and the sectors they request ahead of demand (R271, R299).
-/

namespace Sys2Proof.Machine

/-- Whether a detector predicts an address of a space (R299). After one miss it has no stride yet, and predicts every address that would
give it one; from then on the next addresses along its stride, up to the first that it has not requested (DESIGN CHOICE, log entry 180). -/
def Detector.predicts (d : Detector) (n va : Nat) : Bool :=
  let k : Int := (va : Int) - d.last
  d.space == n &&
    (if d.stride = 0 then k != 0 && k % 32 == 0 && decide (k.natAbs ≤ 65536)
     else k % d.stride == 0 && decide (1 ≤ k / d.stride) && decide (k / d.stride ≤ d.ahead + 1))

/-- A demand miss among a thread's detectors: matched to the one that predicted it, else in place of the one matched least recently;
and the stride of a trained one, which requests depth sectors (R299). -/
def matchMiss (ds : List Detector) (n va depth : Nat) : List Detector × Option Int :=
  let hit := match ds.find? (fun d => d.stride != 0 && d.predicts n va) with
    | some d => some d
    | none => ds.find? (fun d => d.predicts n va)
  match hit with
  | none => (⟨n, va, 0, 1, 0⟩ :: ds.take 7, none)
  | some d =>
    let st := if d.stride = 0 then (va : Int) - d.last else d.stride
    let trained := decide (2 ≤ d.run)
    (⟨n, va, st, min 3 (d.run + 1), if trained then depth else 0⟩ :: ds.erase d, if trained then some st else none)

/-- The prefetch depth D in sectors of the window of an access; 4 without a window (R300, R302). -/
def prefetchDepth (s : State) (ac : Acc) : Nat :=
  if ac.space < 16 && ac.window < 16 then
    let f := fld (s.ten ac.space 0xC040 ac.window) (8 * 18 + 2) (8 * 18)
    if f = 0 then 0 else 2 ^ f
  else 4

/-- The page of an address where a prefetch may touch it (R271): LOCAL, with PR, not NOSPEC. Its number, ACC, and the physical address. -/
def prefetchPage (s : State) (n : Fin 17) (a : Nat) : Option (Nat × Bool × Nat) :=
  match (walk s n a).2 with
  | .leaf level _ e =>
    if e % 8 = 2 && bit e 50 && !bit e 56 then some (pageBase level a, bit e 54, localPa level e a false) else none
  | _ => none

/-- A prefetched sector is installed in the slice and in the L1 (R299); a line of another epoch is left as it is. -/
def prefetchSector (s : State) (t : Tid) (ep : Option Nat) (n : Fin 17) (a pa : Nat) : State :=
  let other := match Tab.get? (s.core t.core).l1 (pa / 128) with
    | some l => l.epoch != ep
    | none => false
  if other then s else (l1Read s t.core ep (pa / 128) (2 ^ (pa % 128 / 32)) 0 (windowAt s n.val a)).1

/-- The next sectors along a stride within the capability (R271, R299). A further page is taken where the TLB holds it: a page with ACC,
and a free value, since the spec does not say what a TLB holds (R250). -/
def prefetchRun (t : Tid) (ep : Option Nat) (c : Cap) (st : Int) : Nat → Nat → Nat → State → State
  | 0, _, _, s => s
  | f + 1, a, page, s =>
    let b : Int := (a : Int) + st
    if b < c.base || (c.top : Int) ≤ b then s
    else match prefetchPage s c.space b.toNat with
      | none => s
      | some p =>
        let go : Bool × State :=
          if p.1 = page then (true, s)
          else if !p.2.1 then (false, s)
          else
            let d := drawFree s
            (bit d.1.toNat 0, d.2)
        if go.1 then prefetchRun t ep c st f b.toNat p.1 (prefetchSector go.2 t ep c.space b.toNat p.2.2) else go.2

/-- What follows a demand miss at an address under a capability with LD (R299). -/
def prefetchAfter (s : State) (t : Tid) (ep : Option Nat) (c : Cap) (va : Nat) : State :=
  let depth := prefetchDepth s (windowAt s c.space.val va)
  let m := matchMiss (Tab.getD s.detectors t.val []) c.space.val va depth
  let s1 := { s with detectors := Tab.put s.detectors t.val m.1 }
  match m.2 with
  | none => s1
  | some st =>
    match prefetchPage s1 c.space va with
    | none => s1
    | some p => prefetchRun t ep c st depth va p.1 s1

end Sys2Proof.Machine
end

