-- ==== Sys2Proof/Machine/Access.lean ====
section
/-!
DEFINITION. Machine/Access.lean: loads, stores, atomics and instruction fetch of a thread: the checks of R45, translation,
and the bytes with their poison marks (R44 to R50, R250, R451).
-/

namespace Sys2Proof.Machine

/-- The detail word of PAGE_FAULT (R251). -/
def pfDetail (reason level : Nat) (k : AccKind) : Nat :=
  reason * 2 ^ 20 + level * 2 ^ 18 + b2n (k == .amo) * 2 ^ 17 + b2n k.writes * 2 ^ 16 + b2n (k == .fetch) * 2 ^ 15

/-- The physical address of a thread's access, or its PAGE_FAULT or wait (R250, R251). -/
def xlate (t : Tid) (n : Fin 17) (va : Nat) (k : AccKind) : M Nat := fun s =>
  let r := translate s n va k (.thread t)
  match r.2 with
  | .ok pa => .ok pa r.1
  | .err reason level => .error (.exc ⟨vecPageFault, pfDetail reason level k, va⟩) r.1
  | .wait w => .error (.wait w) r.1
  | .noRegion pa => .error (.stop (.physicalRegion pa)) s

/-- A piece of a range within one line: address, length. -/
def pieces : Nat → Nat → Nat → List (Nat × Nat)
  | 0, _, _ => []
  | f + 1, va, n =>
    if n = 0 then []
    else
      let k := min n (128 - va % 128)
      (va, k) :: pieces f (va + k) (n - k)

/-- The pieces of a range with the physical address of each, every page translated before any is used. -/
def xlateAll (t : Tid) (n : Fin 17) (k : AccKind) : List (Nat × Nat) → M (List (Nat × Nat × Nat))
  | [] => pure []
  | (va, len) :: ps => do
    let pa ← xlate t n va k
    let r ← xlateAll t n k ps
    pure ((va, len, pa) :: r)

/-- The thread's core. -/
def coreOfT (t : Tid) : CoreId := t.core

/-- The key of the epoch a thread's accesses belong to (R132). -/
def Thread.ep (th : Thread) : Option Nat := th.epoch.map (epochKey th.tenancy)

/-- The sectors of a line that a run of bytes touches. -/
def runSectors (off n : Nat) : Nat := maskSectors ((2 ^ n - 1) * 2 ^ off)

/-- A byte with the poison mark of its word. -/
abbrev PByte := Nat × Bool

/-- The bytes of a piece taken from a line. -/
def takeBytes (f : Full) (off n : Nat) : List PByte :=
  (upto n).map (fun i => (f.data / 256 ^ (off + i) % 256, bit f.poison ((off + i) / 8)))

/-- Bytes read through the thread's L1, piece by piece. -/
def readPieces (t : Tid) (n : Fin 17) : List (Nat × Nat × Nat) → M (List PByte)
  | [] => pure []
  | (va, len, pa) :: ps => fun s =>
    let th := s.th t
    let r := l1Read s t.core th.ep (pa / 128) (runSectors (pa % 128) len) len (windowAt s n.val va)
    match readPieces t n ps r.1 with
    | .ok bs s1 => .ok (takeBytes r.2 (pa % 128) len ++ bs) s1
    | .error e s1 => .error e s1

/-- The bytes of a range with their poison marks, after every translation has succeeded. -/
def loadBytes (t : Tid) (n : Fin 17) (va len : Nat) : M (List PByte) := do
  let ps ← xlateAll t n .read (pieces 8 va len)
  readPieces t n ps

/-- Whether an access of a thread finds a sector that its core's L1 does not hold: a demand miss (R291, R299). -/
def demandMiss (s : State) (t : Tid) (ps : List (Nat × Nat × Nat)) : Bool :=
  !l1Off s t.core && ps.any (fun p =>
    let need := runSectors (p.2.2 % 128) p.2.1
    match Tab.get? (s.core t.core).l1 (p.2.2 / 128) with
    | some l => l.epoch != (s.th t).ep || Nat.land l.valid need != need
    | none => true)

/-- The bytes that a load, a TLD row or a VLD reads under a capability; a miss goes to the thread's stride detectors (R299). -/
def demandBytes (t : Tid) (c : Cap) (va len : Nat) : M (List PByte) := do
  let ps ← xlateAll t c.space .read (pieces 8 va len)
  let s ← getS
  let bs ← readPieces t c.space ps
  if demandMiss s t ps then modS (fun s1 => prefetchAfter s1 t (s1.th t).ep c va)
  pure bs

/-- The value of bytes, least significant first. -/
def bytesVal : List PByte → Nat
  | [] => 0
  | (b, _) :: bs => b + 256 * bytesVal bs

/-- Whether some byte of a load carries a poison mark. -/
def bytesPoison (bs : List PByte) : Bool := bs.any (fun b => b.2)

/-- n bytes of a value with one poison mark. -/
def mkBytes : Nat → Nat → Bool → List PByte
  | 0, _, _ => []
  | n + 1, v, p => (v % 256, p) :: mkBytes n (v / 256) p

/-- The poison marks of the words that bytes at an offset of a line touch. -/
def wordMarks (off : Nat) (bs : List PByte) : Nat :=
  (bs.zip (upto bs.length)).foldl (fun (m : Nat) x => if x.1.2 then Nat.lor m (2 ^ ((off + x.2) / 8)) else m) 0

/-- Bytes written through the thread's L1, piece by piece; tag is the tag bit that the granules take (R47). -/
def writePieces (t : Tid) (n : Fin 17) (tag : Bool) : List (Nat × Nat × Nat) → List PByte → State → State
  | [], _, s => s
  | (va, len, pa) :: ps, bs, s =>
    let here := bs.take len
    let off := pa % 128
    let s1 := l1Write s t.core (s.th t).ep (pa / 128) ((2 ^ len - 1) * 2 ^ off) (bytesVal here * 256 ^ off)
      (if tag then 255 else 0) (wordMarks off here) (windowAt s n.val va)
    writePieces t n tag ps (bs.drop len) s1

/-- A speculative store waits while it cannot have its overlay line (R135, R283). -/
def quotaWait (t : Tid) (ps : List (Nat × Nat × Nat)) : M Unit := fun s =>
  let th := s.th t
  match th.epoch with
  | none => .ok () s
  | some slot =>
    if ps.any (fun p => overlayBlocked s (epochKey th.tenancy slot) (p.2.2 / 128)) then
      .error (.wait (.overlay th.tenancy.val slot)) s
    else .ok () s

/-- Stores the bytes of a range, all or none (R45, R82, R135). -/
def storeBytes (t : Tid) (n : Fin 17) (va : Nat) (bs : List PByte) (tag : Bool) : M Unit := do
  let ps ← xlateAll t n .write (pieces 8 va bs.length)
  quotaWait t ps
  modS (writePieces t n tag ps bs)

/-- Checks 2 to 4 of R45 for an access of len bytes at a through a capability, with R73 and R51 before them: the
capability is accepted, carries no RET, carries the permissions, reaches the bytes; then alignment. -/
def dataChecks (t : Tid) (c : Cap) (mask a len align : Nat) : M Unit := do
  capUse t c a
  if c.has permRET then capViol 0 8 a
  capPerms c mask a
  if a < c.base || c.top < a + len then capViol 0 2 a
  if a % align ≠ 0 then raise vecAlign 0 a

/-- The capability of pair cs, once its tags have been checked. -/
def csCap (t : Tid) (c : PIdx) : M Cap := do
  let th ← getT t
  pure (th.cap c).toCap

/-- The operands of an M-format address beside the data register: cs, and rx of the index class (slot 0x6). -/
def mOps (th : Thread) (cs : PIdx) (m : MForm) : List Opnd :=
  csOps (th.cap cs) ++ match m with
    | .short rx _ => [⟨6, .index, th.g rx, false, none, 0⟩]
    | .ext _ => []

/-- The address of an M-format access (R45, R597), increased by off bytes. -/
def mAddr (th : Thread) (cs : PIdx) (m : MForm) (size : Nat) (off : Int) : Nat :=
  let base : Int := (th.cap cs).toCap.base
  match m with
  | .short rx imm => intBits 64 (base + (th.g rx).val.toNat + imm.toInt * size + off)
  | .ext imm => intBits 64 (base + imm.toInt + off)

/-- The address of an A-format access. -/
def aAddr (th : Thread) (cs : PIdx) (a : AForm) (off : Int) : Nat :=
  let base : Int := (th.cap cs).toCap.base
  match a with
  | .short rx _ => intBits 64 (base + (th.g rx).val.toNat + off)
  | .ext imm => intBits 64 (base + imm.toInt + off)

/-- A granule at a physical address: its two words with their poison marks, and its memory tag bit (R47, R82). -/
def readGranule (t : Tid) (n : Fin 17) (va pa : Nat) : M (Word × Bool × Word × Bool × Bool) := fun s =>
  let r := l1Read s t.core (s.th t).ep (pa / 128) (runSectors (pa % 128) 16) 16 (windowAt s n.val va)
  let off := pa % 128
  .ok (BitVec.ofNat 64 (r.2.data / 256 ^ off), bit r.2.poison (off / 8),
       BitVec.ofNat 64 (r.2.data / 256 ^ (off + 8)), bit r.2.poison (off / 8 + 1), bit r.2.tags (off / 16)) r.1

/-- The granule at an address of a space. -/
def loadGranule (t : Tid) (n : Fin 17) (va : Nat) : M (Word × Bool × Word × Bool × Bool) := do
  let pa ← xlate t n va .read
  readGranule t n va pa

/-- The granule that LDC reads under a capability; a miss goes to the thread's stride detectors (R299). -/
def demandGranule (t : Tid) (c : Cap) (va : Nat) : M (Word × Bool × Word × Bool × Bool) := do
  let pa ← xlate t c.space va .read
  let s ← getS
  let g ← readGranule t c.space va pa
  if demandMiss s t [(va, 16, pa)] then modS (fun s1 => prefetchAfter s1 t (s1.th t).ep c va)
  pure g

/-- The pair that LDC writes for a granule: a capability when the tag bit is set, LDCAP is held and the fields are
canonical; otherwise two INT, POISON where a word is poisoned (R46, R47, R82). -/
def granulePair (ldcap : Bool) (g : Word × Bool × Word × Bool × Bool) : Pair :=
  let a := g.1
  let b := g.2.2.1
  if !g.2.1 && !g.2.2.2.1 && g.2.2.2.2 && ldcap && canonicalCap a b then (capOfWords a b).toPair
  else ⟨if g.2.1 then .poison else .int a, if g.2.2.2.1 then .poison else .int b⟩

/-! ### Instruction fetch (R37, R38, R44, R68, R451) -/

/-- What the fetch of one word meets. -/
inductive FetchOut where
  | good
  | uncorr (detail : Nat)
  | cap (missing sub : Nat)
  | page (detail : Nat)
  | wait (w : WaitOn)
  | noRegion (pa : Nat)
deriving DecidableEq, Repr

/-- The fetch of the word at an address for a thread: authority, translation, codes. A line in the instruction cache is
not read again. -/
def fetchWord (s : State) (t : Tid) (a : Nat) (second : Bool) : State × FetchOut :=
  let th := s.th t
  let c := th.pcc.toCap
  if !th.pcc.isUnsealed then (s, .cap 0 9)
  else if !c.has permEX then (s, .cap permEX 0xA)
  else match capRefused th.level.val th.tenancy.val c with
    | some sub => (s, .cap 0 sub)
    | none =>
      if a < c.base || c.top < a + 4 then (s, .cap 0 9)
      else
        let r := translate s c.space a .fetch (.thread t)
        match r.2 with
        | .err reason level => (r.1, .page (pfDetail reason level .fetch))
        | .wait w => (r.1, .wait w)
        | .noRegion pa => (r.1, .noRegion pa)
        | .ok pa =>
          let ln := pa / 128
          let k := r.1.core t.core
          if k.icache.contains ln then (r.1, .good)
          else
            let fromHbm := !sliceHas r.1 ln (2 ^ (pa % 128 / 32))
            let s1 := sliceRead r.1 ln (2 ^ (pa % 128 / 32)) (windowAt r.1 c.space.val a)
            if bit (archFull s1 ln).poison (pa % 128 / 8) then
              (s1, .uncorr (b2n (!fromHbm) * 2 ^ 20 + b2n second * 2 ^ 19 + sliceOf pa))
            else
              -- 256 KiB of instruction cache are 2,048 lines; the oldest leaves it (R16, R50)
              let ic := if k.icache.length < 2048 then k.icache ++ [ln] else k.icache.drop 1 ++ [ln]
              (s1.setCore t.core { s1.core t.core with icache := ic }, .good)

/-- The fetches of the words of one instruction, in order; each outcome with its address. -/
def fetchWords (t : Tid) (ext : Bool) : Nat → Nat → State → State × List (Nat × FetchOut)
  | 0, _, s => (s, [])
  | n + 1, a, s =>
    let r := fetchWord s t a (ext && n == 0)
    let q := fetchWords t ext n (a + 4) r.1
    (q.1, (a, r.2) :: q.2)

/-- The fetch of an instruction of len bytes at PC: the first condition by the order of R68, at the lowest word. -/
def fetchInstr (t : Tid) (len : Nat) (ext : Bool) : M Unit := fun s =>
  let r := fetchWords t ext (len / 4) (s.th t).pc.toNat s
  let isUnc (o : Nat × FetchOut) := match o.2 with | .uncorr _ => true | _ => false
  let isCap (o : Nat × FetchOut) := match o.2 with | .cap _ _ => true | _ => false
  let isGood (o : Nat × FetchOut) := o.2 == FetchOut.good
  let first := match r.2.find? isUnc with
    | some o => some o
    | none => match r.2.find? isCap with
      | some o => some o
      | none => r.2.find? (fun o => !isGood o)
  match first with
  | none => .ok () r.1
  | some (_, .good) => .ok () r.1
  | some (a, .uncorr d) => .error (.exc ⟨vecUncorrFetch, d, a⟩) r.1
  | some (a, .cap m sub) => .error (.exc ⟨vecCapViolation, m * 256 + sub, a⟩) r.1
  | some (a, .page d) => .error (.exc ⟨vecPageFault, d, a⟩) r.1
  | some (_, .wait w) => .error (.wait w) r.1
  | some (_, .noRegion pa) => .error (.stop (.physicalRegion pa)) s

end Sys2Proof.Machine
end

