-- ==== Sys2Proof/Machine/TaskOps.lean ====
section
/-!
DEFINITION. Machine/TaskOps.lean: what the Chanter does to tasks, threads, tile groups and epochs (R107 to R136, R204).
-/

namespace Sys2Proof.Machine

/-! ### Handles (R109, R110) -/

/-- A handle word. -/
def handleWord (kind : Nat) (ten : Nat) (dev : Bool) (gen idx : Nat) : Word :=
  BitVec.ofNat 64 (kind * 2 ^ 60 + (if dev then 0 else ten) * 2 ^ 56 + b2n dev * 2 ^ 55 + gen % 2 ^ 23 * 2 ^ 32 + idx % 2 ^ 32)

/-- The fields of a handle word. -/
structure HandleF where
  kind : Nat
  tenancy : Nat
  dev : Bool
  gen : Nat
  index : Nat
  /-- The handle has a field value that no object has: DEV with a tenancy. -/
  odd : Bool
deriving DecidableEq, Repr

/-- The fields of a handle word (R109). -/
def handleOf (w : Word) : HandleF :=
  let v := w.toNat
  { kind := fld v 63 60, tenancy := fld v 59 56, dev := bit v 55, gen := fld v 54 32, index := fld v 31 0,
    odd := bit v 55 && fld v 59 56 != 0 }

/-- Whether a handle names the thread's tenancy; at L2 any is accepted (R110). -/
def handleTenancyOk (th : Thread) (h : HandleF) : Bool :=
  th.level.val == 2 || (h.tenancy == th.tenancy.val && h.dev == th.dev)

/-- The task a handle names, when it is live: its slot holds a task of that generation and tenancy. -/
def liveTask (s : State) (h : HandleF) : Option Task :=
  if h.kind = 1 && !h.odd then
    match Tab.get? s.tasks h.index with
    | some k => if k.gen % 2 ^ 23 = h.gen && k.dev = h.dev && (k.dev || k.tenancy.val = h.tenancy) then some k else none
    | none => none
  else none

/-- The key of an epoch a handle names, when its slot holds that epoch. The index is the slot in the tenancy. -/
def liveEpoch (s : State) (h : HandleF) : Option (Nat × Epoch) :=
  if h.kind = 2 && !h.odd && h.index < 64 then
    let k := 64 * h.tenancy + h.index
    match Tab.get? s.epochs k with
    | some e => if e.gen % 2 ^ 23 = h.gen then some (k, e) else none
    | none => none
  else none

/-- The handle of a task slot. -/
def taskHandle (k : Task) (slot : Nat) : Word := handleWord 1 k.tenancy.val k.dev k.gen slot

/-- What names the running task of a thread as the creator of an object: slot and generation. -/
def creatorKey (s : State) (t : Tid) : Option Nat :=
  match (s.th t).task with
  | none => none
  | some slot => match Tab.get? s.tasks slot with
    | some k => some (k.gen * 2 ^ 32 + slot)
    | none => none

/-! ### Signals (R117) -/

/-- Makes an interrupt pending on a thread (R101). -/
def State.pend (s : State) (t : Tid) (v : Nat) : State :=
  let th := s.th t
  s.setTh t { th with ipend := th.ipend ||| (1#64 <<< v) }

/-- Whether the task that created an object still runs on the thread. -/
def creatorRuns (s : State) (creator creatorTask : Option Nat) : Bool :=
  match creator with
  | none => false
  | some n => creatorTask.isSome && creatorKey s (tidOf n) == creatorTask && (s.th (tidOf n)).status != .empty

/-- A Chanter vector 52 to 54 on the thread that created the object, or else an event to the tenancy's ring (R117). -/
def signalCreator (s : State) (creator creatorTask : Option Nat) (vec : Nat) (ten : Nat) (h : Word) : State :=
  if creatorRuns s creator creatorTask then s.pend (tidOf (creator.getD 0)) vec
  else s.post ten 9 (vec + h.toNat * 2 ^ 64)

/-! ### Tile groups and partitions (R127 to R129, R173, R204) -/

/-- A partition's state of an array. -/
def Core.part (k : Core) (p : Nat) : Partition := k.parts[p % 4]'(Nat.mod_lt _ (by decide))
/-- An array with a partition replaced. -/
def Core.setPart (k : Core) (p : Nat) (v : Partition) : Core :=
  { k with parts := k.parts.set (p % 4) v (Nat.mod_lt _ (by decide)) }

/-- A freed partition: banks zero-flagged, mask clear (R181, R193, R204). -/
def Partition.freed (_ : Partition) : Partition := Partition.reset

/-- Registers freed: their bitmaps read 0 and nothing in them can be read (R166, R204). -/
def freeTiles (k : Core) (regs : List Nat) : Core :=
  { k with tiles := Tab.keep k.tiles (fun r _ => !regs.contains r) }

/-- The group and the partition of a thread are released (R174, R204). A partition with a pass in progress drains first:
it and the registers are freed when the drain ends. -/
def releaseGroup (s : State) (t : Tid) : State :=
  let th := s.th t
  match th.group with
  | none => s
  | some g =>
    let s1 := s.setTh t { th with group := none }
    let k := s1.core t.core
    match g.part with
    | none => s1.setCore t.core (freeTiles k g.members)
    | some p =>
      let pt := k.part p
      if pt.queue.any (fun q => q.started) then
        s1.setCore t.core (k.setPart p { pt with draining := true, queue := pt.queue.filter (fun q => q.started), drainRegs := g.members })
      else s1.setCore t.core (freeTiles (k.setPart p pt.freed) g.members)

/-! ### Cue counters, dispatchable tasks, pre-wake (R113, R118 to R120) -/

/-- The core mask a task may run on (R108, R115): its group's cores, none before the group is bound, or the tenancy's
mask; a monitor task runs anywhere. -/
def taskMask (s : State) (k : Task) : Nat :=
  if k.dev then 2 ^ 48 - 1
  else
    let m := s.ten k.tenancy.val 0xC010 0
    if k.group = 0 then m else Nat.land m (Tab.getD s.groups (64 * k.tenancy.val + k.group) 0)

/-- Whether a thread counts as ready (R107). -/
def Thread.isReady (th : Thread) : Bool :=
  match th.status with
  | .loaded => true
  | .active => true
  | .waiting w => match w with
    | .pageFill _ _ => true
    | .remote _ _ _ => true
    | .reencrypt _ _ => true
    | .overlay _ _ => true
    | _ => false
  | _ => false

/-- Threads of a core that satisfy a test. -/
def coreCount (s : State) (c : Nat) (p : Thread → Bool) : Nat :=
  ((coreTids (coreOf c)).filter (fun t => p (s.th t))).length

/-- The order of R119 among two cores: fewer than four ready first, then fewest occupied, then the lowest number. -/
def coreBefore (s : State) (a b : Nat) : Bool :=
  let ra := decide (4 ≤ coreCount s a Thread.isReady)
  let rb := decide (4 ≤ coreCount s b Thread.isReady)
  if ra != rb then rb
  else
    let oa := coreCount s a (fun th => th.status != .empty)
    let ob := coreCount s b (fun th => th.status != .empty)
    if oa != ob then decide (oa < ob) else decide (a < b)

/-- The core that R119 chooses among those of a mask, none for an empty mask; only cores with an EMPTY thread when
needEmpty. -/
def chooseCore (s : State) (mask : Nat) (needEmpty : Bool) : Option Nat :=
  ((upto 48).filter (fun c => bit mask c &&
      (!needEmpty || decide (0 < coreCount s c (fun th => th.status == .empty))))).foldl
    (fun (b : Option Nat) c => match b with
      | none => some c
      | some d => if coreBefore s c d then some c else some d) none

/-- A wake is sent to a long-vector unit; a unit that is powered or waking stays so (R120, R143). -/
def wakeLv (s : State) (c : CoreId) : State :=
  let k := s.core c
  if k.lv = .down then s.setCore c { k with lv := .waking } else s

/-- When the counter of a VEC task is at 1 or below, its core is chosen and its unit woken (R120). -/
def preWake (s : State) (slot : Nat) : State :=
  match Tab.get? s.tasks slot with
  | none => s
  | some k =>
    if k.vec && k.cue ≤ 1 && k.core.isNone then
      match chooseCore s (taskMask s k) false with
      | none => s
      | some c => wakeLv { s with tasks := Tab.put s.tasks slot { k with core := some c } } (coreOf c)
    else s

/-- A decrement of a task's cue counter; at zero the task becomes dispatchable (R113). -/
def decCue (s : State) (slot : Nat) : State :=
  match Tab.get? s.tasks slot with
  | none => s
  | some k =>
    if k.cue = 0 || k.state != .waitCue then s
    else
      let k1 := { k with cue := k.cue - 1, state := if k.cue = 1 then .dispatchable else .waitCue }
      let s1 := { s with tasks := Tab.put s.tasks slot k1 }
      preWake (if k.cue = 1 then { s1 with ready := s1.ready ++ [slot] } else s1) slot

/-- The cue counters of the tasks that a task's completion names fall by one (R113, R114). A handle of another tenancy
names no task of this one. -/
def signalSuccs (s : State) (k : Task) : State :=
  k.succ.foldl (fun (st : State) w =>
    if w = 0 then st
    else
      let h := handleOf w
      match liveTask st h with
      | some q => if q.dev = k.dev && q.tenancy = k.tenancy then decCue st h.index else st
      | none => st) s

/-- TASKS_LIVE follows the task slots of the tenancy (R138). -/
def syncTasks (s : State) (n : Nat) : State :=
  s.setTen n 0xC010 3 (s.tasks.filter (fun e => e.2.tenancy.val == n && !e.2.dev)).length

/-- Threads that wait for a REMOTE page without a shadow frame issue their access again: a release may have made room
(R261). -/
def retryRemote (s : State) : State :=
  { s with threads := s.threads.map (fun th => match th.status with
      | .waiting (.remote n p _) =>
        if s.shadows.any (fun x => x.space == n && x.page == p) then th else { th with status := .active, waitsWith := none }
      | _ => th) }

/-- Shadow frames that nobody holds any more go back to the pool (R262). -/
def dropShadows (s : State) : State :=
  let gone := s.shadows.filter (fun x => x.holders.isEmpty && x.filled)
  if gone.isEmpty then s
  else retryRemote (gone.foldl (fun (st : State) x =>
    let n := spaceOf x.space
    syncHeld (freeFramesOf { st with shadows := st.shadows.erase x } n x.frame (levelUnits x.level)) n) s)

/-- The holds that end with a task: its on-demand fetches and the schedule entries that name it as RELEASE (R262, R268). -/
def releaseTaskHolds (s : State) (slot : Nat) : State :=
  let gone (h : ShadowHolder) : Bool := match h with
    | .task k => k == slot
    | .entry _ _ r => r == some slot
    | .engine _ => false
  dropShadows { s with shadows := s.shadows.map (fun x => { x with holders := x.holders.filter (fun h => !gone h) }) }

/-- One slot of a stream's ring is freed: one more credit is granted and returned to the sender (R380, R381). -/
def freeRingSlot (s : State) (i slot : Nat) : State :=
  match Tab.get? s.streams i with
  | none => s
  | some c =>
    let c1 := { c with ringSlots := Tab.del c.ringSlots slot, granted := c.granted + 1 }
    let s1 := { s with streams := if c.closing && c1.ringSlots.isEmpty then Tab.del s.streams i else Tab.put s.streams i c1 }
    match c.node with
    | some n =>
      if c.halted then s1
      else
        let q := Config.streamPayload c.number
        s1.send n 8 0 (jobOf s1 (if c.dev then 16 else c.tenancy.val)) q.1 1 q.2
    | none => s1

/-- The ring slots that a task holds are freed when it ends, is aborted or is discarded (R381). -/
def releaseRingSlots (s : State) (task : Nat) : State :=
  s.streams.foldl (fun (st : State) e =>
    e.2.ringSlots.foldl (fun (st1 : State) r => if r.2.holder = some task then freeRingSlot st1 e.1 r.1 else st1) st) s

/-- A task's slot is freed; its final state stays readable until the slot is used again (R114, R116). -/
def freeTask (s : State) (slot : Nat) (st : TaskState) : State :=
  match Tab.get? s.tasks slot with
  | none => s
  | some k =>
    let s1 := { s with tasks := Tab.del s.tasks slot, ready := s.ready.filter (fun x => x != slot),
                       taskEnd := Tab.put s.taskEnd slot st }
    syncTasks (releaseRingSlots (releaseTaskHolds s1 slot) slot) k.tenancy.val

/-- A thread with no task: EMPTY (R107, R114). The save sets, pending interrupts and L1-to-L2 system registers stay. -/
def emptyThread (s : State) (t : Tid) : State :=
  let th := s.th t
  s.setTh t { th with status := .empty, task := none, epoch := none, waitsWith := none, inRepn := false, stopPfx := false, stopExt := false, iter := 0, nmi := .none }

/-- Takes a waiting TCFG request of a thread out of its core's queue (R128). -/
def dropTileWait (s : State) (t : Tid) : State :=
  let k := s.core t.core
  s.setCore t.core { k with tileWait := k.tileWait.filter (fun x => x.thread != t.val) }

/-- The task of a thread stops on it: the L1 is written back, the tile group released, the thread EMPTY (R114, R131). -/
def stopThread (s : State) (t : Tid) : State :=
  emptyThread (dropTileWait (releaseGroup (fenceRel s t.core) t) t) t

/-- The slot of the epoch a task is speculative in: the epoch it belongs to, while that is open (R132, R134). -/
def specEpoch (s : State) (k : Task) : Option Nat :=
  match k.epoch with
  | none => none
  | some e => match Tab.get? s.epochs (64 * k.tenancy.val + e) with
    | some x => if x.state = .opened then some e else none
    | none => none

/-- The end of the running task of a thread by TASK.DONE (R114): successors are signalled at once, or, for a speculative
task, when its epoch resolves. -/
def endTask (s : State) (t : Tid) : State :=
  match (s.th t).task with
  | none => stopThread s t
  | some slot =>
    let s1 := stopThread s t
    match Tab.get? s1.tasks slot with
    | none => s1
    | some k =>
      match specEpoch s1 k with
      | some _ => { s1 with tasks := Tab.put s1.tasks slot { k with state := .doneSpec, thread := none } }
      | none => freeTask (signalSuccs s1 k) slot .done

/-- An aborted task: its thread stops, or it leaves its queue; vector 54 is raised (R131). -/
def abortTask (s : State) (slot : Nat) : State :=
  match Tab.get? s.tasks slot with
  | none => s
  | some k =>
    if k.state = .doneSpec then s
    else
      let s1 := match k.thread with
        | some n => stopThread s (tidOf n)
        | none => s
      signalCreator (freeTask s1 slot .aborted) k.creator k.creatorTask 54 k.tenancy.val (taskHandle k slot)

/-! ### Epochs (R115, R132 to R135) -/

/-- The tasks of an epoch. -/
def epochTasks (s : State) (key : Nat) : List (Nat × Task) :=
  s.tasks.filter (fun e => !e.2.dev && e.2.epoch == some (key % 64) && e.2.tenancy.val == key / 64)

/-- Overlay lines of an epoch by line number. -/
def epochLines (s : State) (key : Nat) : List (Nat × CLine) :=
  (s.overlay.filter (fun e => e.1 / 2 ^ 41 == key)).map (fun e => (e.1 % 2 ^ 41, e.2))

/-- Commit makes the overlay architectural at one point (R134): each overlay line is applied at its slice. -/
def mergeOverlay (s : State) (key : Nat) : State :=
  let ls := epochLines s key
  let s1 := { s with overlay := Tab.keep s.overlay (fun k _ => k / 2 ^ 41 != key) }
  ls.foldl (fun (st : State) e => sliceWrite st e.1 e.2.dirty e.2.data e.2.tags e.2.poison e.2.acc) s1

/-- The current buffer of a registered paired page flips: CUR and the pair-map bit (R257). -/
def flipPage (s : State) (n : Fin 17) (page : Nat) : State :=
  let w := walk s n (page * 65536)
  match w.2 with
  | .leaf _ epa e =>
    if e % 8 = 2 && bit e 61 then
      let cur := !bit e 60
      let s1 := writeWord w.1 n.val epa (setFld e 60 60 (b2n cur))
      { s1 with pairMap := mark s1.pairMap (fld e 47 16) cur }
    else w.1
  | _ => w.1

/-- Resolution of an epoch (R134), at one point for every observer. Tasks of a committed epoch that still run, or have
not been dispatched, go on as non-speculative tasks, whose successors are signalled at their own end (R114). -/
def resolveEpoch (s : State) (key : Nat) (commit : Bool) : State :=
  match Tab.get? s.epochs key with
  | none => s
  | some e =>
    let n := key / 64
    let s0 := { s with epochs := Tab.put s.epochs key { e with state := if commit then .committed else .discarded } }
    if commit then
      let s1 := mergeOverlay s0 key
      let s2 := { s1 with cores := s1.cores.map (l1Resolve key true) }
      let s3 := { s2 with threads := s2.threads.map (fun th =>
        if th.epoch = some (key % 64) && th.tenancy.val = n && !th.dev then { th with epoch := none } else th) }
      let s4 := e.flips.foldl (fun st p => flipPage st (spaceOf n) p) s3
      let ts := epochTasks s4 key
      let s5 := ts.foldl (fun (st : State) x =>
        if x.2.state = .doneSpec then freeTask (signalSuccs st x.2) x.1 .done else st) s4
      signalCreator s5 e.creator e.creatorTask 52 n (handleWord 2 n false e.gen (key % 64))
    else
      let ts := epochTasks s0 key
      let s1 := ts.foldl (fun (st : State) x =>
        match x.2.thread with
        | some m => emptyThread (dropTileWait (releaseGroup st (tidOf m)) (tidOf m)) (tidOf m)
        | none => st) s0
      let s2 := { s1 with cores := s1.cores.map (l1Resolve key false),
                          overlay := Tab.keep s1.overlay (fun k _ => k / 2 ^ 41 != key) }
      let s2 := ts.foldl (fun (st : State) x =>
        match x.2.thread with
        | some m => fenceRel st (tidOf m).core
        | none => st) s2
      let s3 := ts.foldl (fun (st : State) x => freeTask (signalSuccs st x.2) x.1 .discarded) s2
      signalCreator s3 e.creator e.creatorTask 52 n (handleWord 2 n false e.gen (key % 64))

end Sys2Proof.Machine
end

