-- ==== Sys2Proof/Machine/Trap.lean ====
section
/-!
DEFINITION. Machine/Trap.lean: taking an exception, the descriptor lookup, the return from a handler, and the execution of
one instruction around its meaning (R83 to R105).
-/

namespace Sys2Proof.Machine

/-- An entry of a descriptor table as read (R89). -/
structure DescEntry where
  code : Pair
  data : Pair
  stack : Pair
  offset : Nat
  target : Nat
  valid : Bool
  unmask : Bool
  poisoned : Bool
deriving DecidableEq, Repr

/-- What reading an entry through a table capability gives. -/
inductive EntryRead where
  | entry (e : DescEntry)
  | sub (n : Nat)
  | wait (w : WaitOn)
deriving DecidableEq, Repr

/-- A table capability as R91 requires it at a level: R89's form, and R73 at that level; DT1 carries DEV 0 and the thread's
tenancy. -/
def tableOk (level : Nat) (ten : Nat) (p : Pair) : Bool :=
  let c := p.toCap
  p.isUnsealed && c.has (permLD + permLDCAP) && decide (4096 ≤ c.length) && c.base % 64 == 0 &&
    (capRefused level ten c).isNone

/-- Reads entry v through a table capability, in the space it names, as loads of the core do (R91). -/
def readEntry (s : State) (t : Tid) (p : Pair) (v : Nat) : State × EntryRead :=
  let c := p.toCap
  let a := c.base + 64 * v
  let r := translate s c.space a .read .other
  match r.2 with
  | .wait w => (r.1, .wait w)
  | .ok pa =>
    let q := l1Read r.1 t.core (r.1.th t).ep (pa / 128) (runSectors (pa % 128) 64) 64 (windowAt r.1 c.space.val a)
    let d := q.2.data / 256 ^ (pa % 128)
    let w (i : Nat) : Word := BitVec.ofNat 64 (d / 2 ^ (64 * i))
    let g (i : Nat) : Pair := granulePair true (w (2 * i), false, w (2 * i + 1), false, bit q.2.tags (pa % 128 / 16 + i))
    (q.1, .entry { code := g 0, data := g 1, stack := g 2, offset := (w 6).toNat, target := fld d (8 * 56 + 1) (8 * 56),
                   valid := bit d (8 * 57), unmask := bit d (8 * 57 + 1),
                   poisoned := fld q.2.poison (pa % 128 / 8 + 7) (pa % 128 / 8) != 0 })
  | _ => (r.1, .sub 0xB)

/-- The level register file of a level: table, return stack, RSP. -/
def Thread.dt (th : Thread) (level : Nat) : Pair := if level = 1 then th.dt1 else th.dt2
/-- LRSn (R86). -/
def Thread.lrs (th : Thread) (level : Nat) : Pair := if level = 1 then th.lrs1 else th.lrs2
/-- LRSPn (R86). -/
def Thread.lrsp (th : Thread) (level : Nat) : Word := if level = 1 then th.lrsp1 else th.lrsp2
/-- SVn (R92). -/
def Thread.sv (th : Thread) (level : Nat) : SaveSet := if level = 1 then th.sv1 else if level = 2 then th.sv2 else th.sv3
/-- The thread with SVn replaced. -/
def Thread.setSv (th : Thread) (level : Nat) (v : SaveSet) : Thread :=
  if level = 1 then { th with sv1 := v } else if level = 2 then { th with sv2 := v } else { th with sv3 := v }

/-- The conditions of the entry at which a lookup enters a handler, in the order of R91; none when all hold. nmi leaves
the LIVE condition out (R102). -/
def entryBad (th : Thread) (level : Nat) (e : DescEntry) (nmi : Bool) : Option Nat :=
  let code := e.code.toCap
  let st := e.stack.toCap
  let acc (p : Pair) := (capRefused level th.tenancy.val p.toCap).isNone
  if !e.code.isUnsealed || !code.has permEX || e.offset % 4 != 0 || decide (code.length ≤ e.offset) then some 4
  else if !e.data.isCap then some 5
  else if !e.stack.isUnsealed || !st.has (permLD + permST) || decide (st.length < 64) then some 6
  else if !acc e.code || !acc e.data || !acc e.stack then some 7
  else if !(th.lrs level).isUnsealed || !(th.lrs level).toCap.has permRET then some 9
  else if (th.sv level).live && !nmi then some 8
  else none

/-- Where a lookup ends. -/
inductive Lookup where
  | enter (level : Nat) (e : DescEntry)
  | machine
  /-- An invalid entry in the table of a level: sub-code of R104. -/
  | failed (level sub : Nat)
  | wait (w : WaitOn)
deriving DecidableEq, Repr

/-- The lookup of a vector from the table of a level on (R90, R91). -/
def lookupFrom (t : Tid) (v : Nat) (nmi : Bool) : Nat → Nat → State → State × Lookup
  | 0, _, s => (s, .machine)
  | f + 1, level, s =>
    if 3 ≤ level then (s, .machine)
    else
      let th := s.th t
      if !tableOk level th.tenancy.val (th.dt level) then (s, .failed level 1)
      else
        let r := readEntry s t (th.dt level) v
        match r.2 with
        | .wait w => (r.1, .wait w)
        | .sub n => (r.1, .failed level n)
        | .entry e =>
          if e.poisoned then (r.1, .failed level 0xA)
          else if !e.valid then (r.1, .failed level 2)
          else if e.target = 0 || e.target < level then (r.1, .failed level 3)
          else if level < e.target then lookupFrom t v nmi f e.target r.1
          else match entryBad th level e nmi with
            | some sub => (r.1, .failed level sub)
            | none => (r.1, .enter level e)

/-- The CAUSE word (R94). -/
def causeWord (vector fromLevel : Nat) (pfx ext esc async : Bool) (detail : Nat) : Word :=
  BitVec.ofNat 64 (vector * 2 ^ 42 + fromLevel * 2 ^ 40 + b2n pfx * 2 ^ 39 + b2n ext * 2 ^ 38 + b2n esc * 2 ^ 37 +
    b2n async * 2 ^ 36 + detail % 2 ^ 32)

/-- What an entry saves beside the thread's registers. -/
structure EntryInfo where
  vector : Nat
  detail : Nat
  faddr : Nat
  pfx : Bool
  ext : Bool
  esc : Bool
  async : Bool
deriving DecidableEq, Repr

/-- Step 1 of R96: the save set of the interrupted point. -/
def saveSetOf (th : Thread) (i : EntryInfo) : SaveSet :=
  { pc := th.pc, pcc := th.pcc, rscap := th.rscap, rsp := th.rsp, live := true, prevLevel := th.level.castSucc,
    prevIe := th.ie, nmi := i.vector == 1, tenancy := th.tenancy, prog := th.iter,
    cause := causeWord i.vector th.level.val i.pfx i.ext i.esc i.async i.detail, faddr := BitVec.ofNat 64 i.faddr,
    g26 := th.g 26, g27 := th.g 27, g28 := th.g 28, g29 := th.g 29, g30 := th.g 30, g31 := th.g 31 }

/-- Steps 1 to 6 of R96: the entry of a handler at level 1 or 2. -/
def enterHandler (th : Thread) (level : Nat) (e : DescEntry) (i : EntryInfo) : Thread :=
  let sv := saveSetOf th i
  let th1 := th.setSv level sv
  let th2 := (th1.writePair 26 e.data).writePair 30 e.stack
  let th3 := (th2.writePair 28 ⟨Reg.int sv.cause, Reg.int (BitVec.ofNat 64 e.stack.toCap.length)⟩)
  { th3 with
    pcc := e.code, pc := BitVec.ofNat 64 (e.code.toCap.base + e.offset),
    rscap := th.lrs level, rsp := th.lrsp level,
    level := if level = 1 then 1 else 2, ie := e.unmask, iter := 0, inRepn := false, stopPfx := false, stopExt := false,
    status := .active, waitsWith := none, nmi := if i.vector = 1 then .none else th.nmi }

/-- A lookup that ends at L3: SV3 is written, the thread halts, the Drone gets a message (R97); in BRINGUP the
device is FAULTED (R578, R579). -/
def haltThread (s : State) (t : Tid) (i : EntryInfo) : State :=
  let th := s.th t
  let s1 := s.setTh t { th with sv3 := saveSetOf th i, status := .halted, waitsWith := none, iter := 0, inRepn := false, stopPfx := false, stopExt := false,
                                nmi := if i.vector = 1 then .none else th.nmi }
  let s2 := dropTileWait s1 t
  let s3 := { s2 with droneMail := s2.droneMail ++ [⟨t.val / 16, t.val % 16, i.vector⟩] }
  if s3.dstate = dsBringup then enterFaulted s3 else s3

/-- The halt of R105: SV3 written, the task aborted, MACHINE_CHECK as an event to the tenancy's ring and the log. -/
def haltAndAbort (s : State) (t : Tid) (i : EntryInfo) : State :=
  let th := s.th t
  let s1 := haltThread s t i
  let h := match th.task with
    | some slot => match Tab.get? s.tasks slot with
      | some k => (taskHandle k slot).toNat
      | none => 0
    | none => 0
  let s2 := match th.task with
    | some slot => abortTask s1 slot
    | none => stopThread s1 t
  s2.post th.tenancy.val 4
    (4 * 2 ^ 16 + (t.val / 16) * 2 ^ 8 + (t.val / 16) * 2 ^ 32 + (t.val % 16) * 2 ^ 40 + h * 2 ^ 64)

/-- A thread waits with nothing done (R144, R250): PC stays on the instruction. -/
def setWaiting (s : State) (t : Tid) (w : WaitOn) (self : Option HeldInstr) : State :=
  let th := s.th t
  s.setTh t { th with status := .waiting w, waitsWith := self }

/-- DESC_FAULT from the table of a level (R104, R105): the lookup of vector 3 in the next table, or the machine level. -/
def escalate (t : Tid) (i : EntryInfo) : Nat → Nat → Nat → Nat → State → State
  | 0, _, _, _, s => s
  | f + 1, orig, level, sub, s =>
    let j : EntryInfo := { i with vector := 3, esc := true, detail := orig * 2 ^ 16 + level * 2 ^ 14 + sub }
    if 2 ≤ level then haltAndAbort s t j
    else
      let r := lookupFrom t 3 false 3 (level + 1) s
      match r.2 with
      | .enter l e => r.1.setTh t (enterHandler (r.1.th t) l e j)
      | .machine => haltThread r.1 t j
      | .failed l sb => escalate t i f 3 l sb r.1
      | .wait w => setWaiting r.1 t w none

/-- The level at which the lookup of a vector starts (R87). -/
def startLevel (v : Nat) (level : Nat) : Nat := if v = 1 || v = 2 then 2 else max 1 level

/-- Takes an exception or an interrupt (R87 to R105). -/
def takeTrap (t : Tid) (i : EntryInfo) (s : State) : State :=
  let r := lookupFrom t i.vector (i.vector == 1) 3 (startLevel i.vector (s.th t).level.val) s
  match r.2 with
  | .enter level e => r.1.setTh t (enterHandler (r.1.th t) level e i)
  | .machine => haltThread r.1 t i
  | .failed level sub => escalate t i 3 i.vector level sub r.1
  | .wait w => setWaiting r.1 t w none

/-- The restore of R99 from a save set; LIVE is cleared. -/
def Thread.restore (th : Thread) (sv : SaveSet) : Thread :=
  let th1 := ((th.writePair 26 ⟨sv.g26, sv.g27⟩).writePair 28 ⟨sv.g28, sv.g29⟩).writePair 30 ⟨sv.g30, sv.g31⟩
  { th1 with
    pc := sv.pc, pcc := sv.pcc, rscap := sv.rscap, rsp := sv.rsp, iter := sv.prog,
    level := if sv.prevLevel.val = 0 then 0 else if sv.prevLevel.val = 1 then 1 else 2, ie := sv.prevIe }

/-! ### One instruction -/

/-- Whether the core regulators of a core's quarter are stopped (R593). -/
def coreStopped (s : State) (core : Nat) : Bool := bit s.power.stopped (core / 12)

/-- Whether the thread may issue (R107): a LOADED thread issues its first instruction. -/
def Thread.eligible (th : Thread) : Bool := th.status == .active || th.status == .loaded

/-- A thread issues: a LOADED thread becomes ACTIVE, and its task's first instruction has issued (R107, R268). -/
def issue (s : State) (t : Tid) : State :=
  let th := s.th t
  if th.status = .loaded then
    let s1 := s.setTh t { th with status := .active }
    match th.task with
    | some slot => { s1 with tasks := match Tab.get? s1.tasks slot with
        | some k => Tab.put s1.tasks slot { k with issued := true }
        | none => s1.tasks }
    | none => s1
  else s

/-- PC past an instruction, or at a target; a completed instruction leaves the iteration counter 0. -/
def advance (t : Tid) (len : Nat) (target : Option Word) (s : State) : State :=
  let th := s.th t
  s.setTh t { th with pc := target.getD (th.pc + BitVec.ofNat 64 len), iter := 0, inRepn := false, stopPfx := false, stopExt := false }

/-- What kind of instruction runs: its length, whether it is extended or repeated, whether it resumes from the iteration
counter, and the instruction a waiting thread keeps. -/
structure InstrInfo where
  len : Nat := 4
  ext : Bool := false
  pfx : Bool := false
  resumable : Bool := false
  self : Option HeldInstr := none

/-- The iteration counter as an instruction starts: one that is not resumable starts at its beginning (R99). -/
def startIter (resumable : Bool) (t : Tid) : M Unit :=
  if resumable then pure () else modT t (fun th => { th with iter := 0 })

/-- Notes that the instruction at PC has stopped at a boundary or waits. -/
def markStop (s : State) (t : Tid) (pfx ext : Bool) : State :=
  s.setTh t { s.th t with stopPfx := pfx, stopExt := ext }

/-- One instruction of a thread: fetch, meaning, and what follows: the advance of PC, the entry of a handler, or a wait.
The meaning answers the target of a jump, or none. A thread that may not issue is left as it is. -/
def runInstr (t : Tid) (i : InstrInfo) (body : M (Option Word)) (s : State) : Host.Outcome State Fault Refusal :=
  if !(s.th t).eligible || coreStopped s (t.val / 16) then .next s
  else
    let s0 := issue s t
    let m : M (Option Word) := do
      fetchInstr t i.len i.ext
      startIter i.resumable t
      body
    match m s0 with
    | .ok target s1 => .next (advance t i.len target s1)
    | .error (.exc e) s1 => .next (takeTrap t ⟨e.vector, e.detail, e.faddr, i.pfx, i.ext, false, false⟩ s1)
    | .error (.wait w) s1 => .next (setWaiting (markStop s1 t i.pfx i.ext) t w i.self)
    | .error .pause s1 => .next (markStop s1 t i.pfx i.ext)
    | .error (.stop f) _ => .fault f

/-- A meaning with no jump. -/
def plain (body : M Unit) : M (Option Word) := do
  body
  pure none

/-- The length of an instruction that may be extended. -/
def lenOf (ext : Bool) : Nat := if ext then 8 else 4

end Sys2Proof.Machine
end

