-- ==== Sys2Proof/Machine/Operands.lean ====
section
/-!
DEFINITION. Machine/Operands.lean: the operand forms of the scalar instructions: R-format sources by class, immediates, and
the one way a result is written.
-/

namespace Sys2Proof

/-- The value of an I-format immediate (R597). -/
def IForm.value : IForm → Word
  | .short imm => imm.signExtend 64
  | .ext imm => imm.signExtend 64
/-- Whether the form is extended. -/
def IForm.isExt : IForm → Bool
  | .short _ => false
  | .ext _ => true
/-- The value LUI writes: imm20 shifted left by 12, or imm32, sign-extended (R597). -/
def UForm.value : UForm → Word
  | .short imm => (imm ++ (0 : BitVec 12)).signExtend 64
  | .ext imm => imm.signExtend 64
/-- Whether the form is extended. -/
def UForm.isExt : UForm → Bool
  | .short _ => false
  | .ext _ => true
/-- The immediate of CMPI. -/
def KForm.value : KForm → Word
  | .short imm => imm.signExtend 64
  | .ext imm => imm.signExtend 64
/-- Whether the form is extended. -/
def KForm.isExt : KForm → Bool
  | .short _ => false
  | .ext _ => true
/-- Whether the form is extended. -/
def MForm.isExt : MForm → Bool
  | .short _ _ => false
  | .ext _ => true
/-- Whether the form is extended. -/
def AForm.isExt : AForm → Bool
  | .short _ _ => false
  | .ext _ => true
/-- The branch offset in words. -/
def BForm.value : BForm → Int
  | .short o => o.toInt
  | .ext o => o.toInt
/-- Whether the form is extended. -/
def BForm.isExt : BForm → Bool
  | .short _ => false
  | .ext _ => true
/-- The jump offset in words. -/
def JForm.value : JForm → Int
  | .short o => o.toInt
  | .ext o => o.toInt
/-- Whether the form is extended. -/
def JForm.isExt : JForm → Bool
  | .short _ => false
  | .ext _ => true
/-- Whether the form is extended. -/
def CallForm.isExt : CallForm → Bool
  | .short _ => false
  | .ext _ => true
/-- Whether the form is extended. -/
def VMForm.isExt : VMForm → Bool
  | .short _ _ => false
  | .ext _ _ => true
/-- Whether the form is extended. -/
def TMForm.isExt : TMForm → Bool
  | .short _ _ => false
  | .ext _ _ => true
/-- Whether the form is extended. -/
def CForm.isExt : CForm → Bool
  | .short _ => false
  | .ext _ => true

end Sys2Proof

namespace Sys2Proof.Machine

/-- An operand of a class read from the register field with that slot. -/
def opnd (slot : Nat) (c : OpClass) (r : Reg) : Opnd := ⟨slot, c, r, false, none, 0⟩

/-- An instruction that reads one register of a class and writes one: POISON in gives POISON out (R32). -/
def unary (t : Tid) (rd rs1 : RIdx) (c : OpClass) (f : Reg → Reg) : M Unit := do
  let a ← greg t rs1
  checkOps [opnd 1 c a]
  wr t rd (orPoison (a.tag == .poison) (f a))

/-- An instruction that reads two registers of a class and writes one (R32). -/
def binary (t : Tid) (rd rs1 rs2 : RIdx) (c : OpClass) (f : Reg → Reg → Reg) : M Unit := do
  let a ← greg t rs1
  let b ← greg t rs2
  checkOps [opnd 1 c a, opnd 2 c b]
  wr t rd (orPoison (a.tag == .poison || b.tag == .poison) (f a b))

/-- An instruction that reads three registers of a class and writes one (R32). -/
def ternary (t : Tid) (rd rs1 rs2 rs3 : RIdx) (c : OpClass) (f : Reg → Reg → Reg → Reg) : M Unit := do
  let a ← greg t rs1
  let b ← greg t rs2
  let d ← greg t rs3
  checkOps [opnd 1 c a, opnd 2 c b, opnd 3 c d]
  wr t rd (orPoison (a.tag == .poison || b.tag == .poison || d.tag == .poison) (f a b d))

end Sys2Proof.Machine
end

