-- ==== Sys2Proof/Machine/Integer.lean ====
section
/-!
DEFINITION. Machine/Integer.lean: the integer instructions of majors 0x01 to 0x07 and 0x19, and the comparisons of major
0x18 (R33, R39, R40, R42, R597).
-/

namespace Sys2Proof.Machine

/-- A two-source integer result, tagged INT. -/
def intOp (f : Word → Word → Word) (a b : Reg) : Reg := .int (f a.val b.val)

/-- AND, OR, XOR: BOOL when both sources are BOOL (R39). -/
def bitOp (f : Word → Word → Word) (a b : Reg) : Reg :=
  ⟨f a.val b.val, if a.tag == .bool && b.tag == .bool then .bool else .int⟩

/-- The class of the second source of ADD or SUB: sequence arithmetic when the first is a SEQ (R31, R33); with a POISON
first source, whatever the instruction accepts. -/
def seqClass (sub : Bool) (a b : Reg) : OpClass :=
  if a.tag == .seq then (if sub then .seqOrInt else .seqInt)
  else if sub && a.tag == .poison && b.tag == .seq then .seqOrInt else .int

/-- The class of the first source of ADD or SUB. -/
def firstClass (a : Reg) : OpClass := if a.tag == .seq then .seq else .int

/-- ADD and SUB (R33, R39). -/
def addSub (t : Tid) (rd rs1 rs2 : RIdx) (sub : Bool) : M Unit := do
  let a ← greg t rs1
  let b ← greg t rs2
  checkOps [opnd 1 (firstClass a) a, opnd 2 (seqClass sub a b) b]
  let v := if sub then a.val - b.val else a.val + b.val
  let lo : BitVec 32 := v.truncate 32
  wr t rd (orPoison (a.tag == .poison || b.tag == .poison)
    (if a.tag == .seq then (if b.tag == .seq then .int (lo.signExtend 64) else ⟨lo.zeroExtend 64, .seq⟩) else .int v))

/-- The remainder with the sign of the dividend. -/
def remS (a b : Word) : Word := a.srem b

/-- Division: ARITH with detail 0x01 for a zero divisor, unless a source is POISON (R40). -/
def divOp (t : Tid) (rd rs1 rs2 : RIdx) (f : Word → Word → Word) : M Unit := do
  let a ← greg t rs1
  let b ← greg t rs2
  checkOps [opnd 1 .int a, opnd 2 .int b]
  if a.tag == .poison || b.tag == .poison then wr t rd .poison
  else if b.val = 0 then raise vecArith 1 0
  else wr t rd (.int (f a.val b.val))

/-- Count of leading zeros. -/
def clz64 (a : Word) : Word := BitVec.ofNat 64 (if a.toNat = 0 then 64 else 63 - log2 a.toNat)
/-- Trailing zeros of a number of at most n bits. -/
def ctzAux : Nat → Nat → Nat
  | 0, _ => 0
  | n + 1, v => if v % 2 = 1 then 0 else 1 + ctzAux n (v / 2)
/-- Count of trailing zeros. -/
def ctz64 (a : Word) : Word := BitVec.ofNat 64 (ctzAux 64 a.toNat)
/-- Count of ones. -/
def popc64 (a : Word) : Word := BitVec.ofNat 64 (popCount 64 a.toNat)

/-- High half of the signed product. -/
def mulHi (a b : Word) : Word := BitVec.ofInt 64 (a.toInt * b.toInt / 2 ^ 64)
/-- High half of the unsigned product. -/
def mulHiU (a b : Word) : Word := BitVec.ofNat 64 (a.toNat * b.toNat / 2 ^ 64)

/-- Shift amount rs2[5:0]. -/
def shAmt (b : Word) : Nat := b.toNat % 64

def minS (a b : Word) : Word := if a.toInt ≤ b.toInt then a else b
def maxS (a b : Word) : Word := if a.toInt ≤ b.toInt then b else a
def minU (a b : Word) : Word := if a.toNat ≤ b.toNat then a else b
def maxU (a b : Word) : Word := if a.toNat ≤ b.toNat then b else a

/-- One instruction of four bytes whose meaning is a register operation. -/
def simple (t : Tid) (body : M Unit) (s : State) : Host.Outcome State Fault Refusal := runInstr t {} (plain body) s

/-- One instruction with a short and an extended form. -/
def simpleX (t : Tid) (ext : Bool) (body : M Unit) (s : State) : Host.Outcome State Fault Refusal :=
  runInstr t { len := lenOf ext, ext := ext } (plain body) s

/-- ADD (R33, R39). -/
def execAdd (t : Tid) (rd rs1 rs2 : RIdx) (s : State) := simple t (addSub t rd rs1 rs2 false) s
/-- SUB (R33, R39). -/
def execSub (t : Tid) (rd rs1 rs2 : RIdx) (s : State) := simple t (addSub t rd rs1 rs2 true) s
/-- AND (R39). -/
def execAnd (t : Tid) (rd rs1 rs2 : RIdx) (s : State) := simple t (binary t rd rs1 rs2 .int (bitOp (· &&& ·))) s
/-- OR (R39). -/
def execOr (t : Tid) (rd rs1 rs2 : RIdx) (s : State) := simple t (binary t rd rs1 rs2 .int (bitOp (· ||| ·))) s
/-- XOR (R39). -/
def execXor (t : Tid) (rd rs1 rs2 : RIdx) (s : State) := simple t (binary t rd rs1 rs2 .int (bitOp (· ^^^ ·))) s
/-- SLL (R39). -/
def execSll (t : Tid) (rd rs1 rs2 : RIdx) (s : State) :=
  simple t (binary t rd rs1 rs2 .int (intOp (fun a b => a <<< shAmt b))) s
/-- SRL (R39). -/
def execSrl (t : Tid) (rd rs1 rs2 : RIdx) (s : State) :=
  simple t (binary t rd rs1 rs2 .int (intOp (fun a b => a >>> shAmt b))) s
/-- SRA (R39). -/
def execSra (t : Tid) (rd rs1 rs2 : RIdx) (s : State) :=
  simple t (binary t rd rs1 rs2 .int (intOp (fun a b => a.sshiftRight (shAmt b)))) s
/-- MUL (R39). -/
def execMul (t : Tid) (rd rs1 rs2 : RIdx) (s : State) := simple t (binary t rd rs1 rs2 .int (intOp (· * ·))) s
/-- MULH (R39). -/
def execMulh (t : Tid) (rd rs1 rs2 : RIdx) (s : State) := simple t (binary t rd rs1 rs2 .int (intOp mulHi)) s
/-- MULHU (R39). -/
def execMulhu (t : Tid) (rd rs1 rs2 : RIdx) (s : State) := simple t (binary t rd rs1 rs2 .int (intOp mulHiU)) s
/-- DIV (R40). -/
def execDiv (t : Tid) (rd rs1 rs2 : RIdx) (s : State) := simple t (divOp t rd rs1 rs2 BitVec.sdiv) s
/-- DIVU (R40). -/
def execDivu (t : Tid) (rd rs1 rs2 : RIdx) (s : State) := simple t (divOp t rd rs1 rs2 BitVec.udiv) s
/-- REM (R40). -/
def execRem (t : Tid) (rd rs1 rs2 : RIdx) (s : State) := simple t (divOp t rd rs1 rs2 remS) s
/-- REMU (R40). -/
def execRemu (t : Tid) (rd rs1 rs2 : RIdx) (s : State) := simple t (divOp t rd rs1 rs2 BitVec.umod) s
/-- MIN (R39). -/
def execMin (t : Tid) (rd rs1 rs2 : RIdx) (s : State) := simple t (binary t rd rs1 rs2 .int (intOp minS)) s
/-- MAX (R39). -/
def execMax (t : Tid) (rd rs1 rs2 : RIdx) (s : State) := simple t (binary t rd rs1 rs2 .int (intOp maxS)) s
/-- MINU (R39). -/
def execMinu (t : Tid) (rd rs1 rs2 : RIdx) (s : State) := simple t (binary t rd rs1 rs2 .int (intOp minU)) s
/-- MAXU (R39). -/
def execMaxu (t : Tid) (rd rs1 rs2 : RIdx) (s : State) := simple t (binary t rd rs1 rs2 .int (intOp maxU)) s
/-- CLZ (R39). -/
def execClz (t : Tid) (rd rs1 : RIdx) (s : State) := simple t (unary t rd rs1 .int (fun a => .int (clz64 a.val))) s
/-- CTZ (R39). -/
def execCtz (t : Tid) (rd rs1 : RIdx) (s : State) := simple t (unary t rd rs1 .int (fun a => .int (ctz64 a.val))) s
/-- POPC, the count of ones (R39). -/
def execPopc (t : Tid) (rd rs1 : RIdx) (s : State) := simple t (unary t rd rs1 .int (fun a => .int (popc64 a.val))) s

/-- ADDI (R597). -/
def execAddi (t : Tid) (rd rs1 : RIdx) (imm : IForm) (s : State) :=
  simpleX t imm.isExt (unary t rd rs1 .int (fun a => .int (a.val + imm.value))) s
/-- ANDI (R597). -/
def execAndi (t : Tid) (rd rs1 : RIdx) (imm : IForm) (s : State) :=
  simpleX t imm.isExt (unary t rd rs1 .int (fun a => .int (a.val &&& imm.value))) s
/-- ORI (R597). -/
def execOri (t : Tid) (rd rs1 : RIdx) (imm : IForm) (s : State) :=
  simpleX t imm.isExt (unary t rd rs1 .int (fun a => .int (a.val ||| imm.value))) s
/-- XORI (R597). -/
def execXori (t : Tid) (rd rs1 : RIdx) (imm : IForm) (s : State) :=
  simpleX t imm.isExt (unary t rd rs1 .int (fun a => .int (a.val ^^^ imm.value))) s
/-- SLLI (R597). -/
def execSlli (t : Tid) (rd rs1 : RIdx) (amount : BitVec 6) (ext : Bool) (s : State) :=
  simpleX t ext (unary t rd rs1 .int (fun a => .int (a.val <<< amount.toNat))) s
/-- SRLI (R597). -/
def execSrli (t : Tid) (rd rs1 : RIdx) (amount : BitVec 6) (ext : Bool) (s : State) :=
  simpleX t ext (unary t rd rs1 .int (fun a => .int (a.val >>> amount.toNat))) s
/-- SRAI (R597). -/
def execSrai (t : Tid) (rd rs1 : RIdx) (amount : BitVec 6) (ext : Bool) (s : State) :=
  simpleX t ext (unary t rd rs1 .int (fun a => .int (a.val.sshiftRight amount.toNat))) s
/-- LUI (R597). -/
def execLui (t : Tid) (rd : RIdx) (imm : UForm) (s : State) := simpleX t imm.isExt (wr t rd (.int imm.value)) s
/-- CMPI (R42, R597). -/
def execCmpi (t : Tid) (rd rs1 : RIdx) (kind : CmpKind) (imm : KForm) (s : State) :=
  simpleX t imm.isExt (unary t rd rs1 .int (fun a => .bool (cmpInt kind a.val imm.value))) s

/-- An integer comparison (R42). -/
def cmpOp (k : CmpKind) (a b : Reg) : Reg := .bool (cmpInt k a.val b.val)

/-- CMP.EQ (R42). -/
def execCmpEq (t : Tid) (rd rs1 rs2 : RIdx) (s : State) := simple t (binary t rd rs1 rs2 .int (cmpOp .eq)) s
/-- CMP.NE (R42). -/
def execCmpNe (t : Tid) (rd rs1 rs2 : RIdx) (s : State) := simple t (binary t rd rs1 rs2 .int (cmpOp .ne)) s
/-- CMP.LT (R42). -/
def execCmpLt (t : Tid) (rd rs1 rs2 : RIdx) (s : State) := simple t (binary t rd rs1 rs2 .int (cmpOp .lt)) s
/-- CMP.LTU (R42). -/
def execCmpLtu (t : Tid) (rd rs1 rs2 : RIdx) (s : State) := simple t (binary t rd rs1 rs2 .int (cmpOp .ltu)) s
/-- CMP.GE (R42). -/
def execCmpGe (t : Tid) (rd rs1 rs2 : RIdx) (s : State) := simple t (binary t rd rs1 rs2 .int (cmpOp .ge)) s
/-- CMP.GEU (R42). -/
def execCmpGeu (t : Tid) (rd rs1 rs2 : RIdx) (s : State) := simple t (binary t rd rs1 rs2 .int (cmpOp .geu)) s
/-- CMP.SLT (R33). -/
def execCmpSlt (t : Tid) (rd rs1 rs2 : RIdx) (s : State) :=
  simple t (binary t rd rs1 rs2 .seq (fun a b => .bool (serialLt a.val b.val))) s

end Sys2Proof.Machine
end

