-- ==== Sys2Proof/Machine/Lanes.lean ====
section
/-!
DEFINITION. Machine/Lanes.lean: the lane operations that the short-vector and the long-vector instructions share
(R56, R57, R148, R149, R151). A lane is its bit pattern as a number; w is its width.
-/

namespace Sys2Proof.Machine

/-- A lane operation of two sources. -/
abbrev Lane2 := Nat → Nat → Nat

def laneAdd (w : Nat) : Lane2 := fun a b => (a + b) % 2 ^ w
def laneSub (w : Nat) : Lane2 := fun a b => (a + (2 ^ w - b % 2 ^ w)) % 2 ^ w
/-- The low half of the product. -/
def laneMul (w : Nat) : Lane2 := fun a b => a * b % 2 ^ w
def laneMin (w : Nat) : Lane2 := fun a b => if sext w a ≤ sext w b then a else b
def laneMax (w : Nat) : Lane2 := fun a b => if sext w a ≤ sext w b then b else a
def laneMinu (_ : Nat) : Lane2 := fun a b => if a ≤ b then a else b
def laneMaxu (_ : Nat) : Lane2 := fun a b => if a ≤ b then b else a
def laneAnd (_ : Nat) : Lane2 := fun a b => Nat.land a b
def laneOr (_ : Nat) : Lane2 := fun a b => Nat.lor a b
def laneXor (_ : Nat) : Lane2 := fun a b => Nat.xor a b
/-- Shift left by the count modulo the lane width (R148). -/
def laneSll (w : Nat) : Lane2 := fun a b => a * 2 ^ (b % w) % 2 ^ w
def laneSrl (w : Nat) : Lane2 := fun a b => a / 2 ^ (b % w)
def laneSra (w : Nat) : Lane2 := fun a b => intBits w (sext w a / 2 ^ (b % w))
def laneCmpEq (w : Nat) : Lane2 := fun a b => laneMask w (a == b)
/-- VCMPLT compares signed lanes. -/
def laneCmpLt (w : Nat) : Lane2 := fun a b => laneMask w (decide (sext w a < sext w b))
/-- VSADD: signed saturating add. -/
def laneSadd (w : Nat) : Lane2 := fun a b => intBits w (satS w (sext w a + sext w b))

/-- The width of an integer lane selected by the lanes field 0 to 3. -/
def intLane (lanes : Fin 4) : Nat := 8 * 2 ^ lanes.val

/-- The format of the floating lanes of VFP and VFMA (R148). -/
def fpLane (lanes : Fin 4) : FFmt :=
  if lanes.val = 0 then fp32 else if lanes.val = 1 then bf16 else if lanes.val = 2 then fp16 else fp64

/-- The format of the lanes of SV.FP and SV.FMA (R56). -/
def svLane : SvLanes → FFmt
  | .fp32 => fp32
  | .bf16 => bf16
  | .fp64 => fp64

def laneFadd (f : FFmt) : Lane2 := fAdd f .rne
def laneFsub (f : FFmt) : Lane2 := fSub f .rne
def laneFmul (f : FFmt) : Lane2 := fMul f .rne
def laneFdiv (f : FFmt) : Lane2 := fDiv f .rne
def laneFmin (f : FFmt) : Lane2 := fMin f
def laneFmax (f : FFmt) : Lane2 := fMax f
def laneFcmpLt (f : FFmt) : Lane2 := fun a b => laneMask f.width (fLt f a b)
def laneFcmpEq (f : FFmt) : Lane2 := fun a b => laneMask f.width (fEq f a b)

/-- Fused multiply-add: op 0 to 3 as FMA (R41): the product is negated by 2 and 3, the addend by 1 and 2. -/
def laneFma (f : FFmt) (op : Nat) (a b c : Nat) : Nat := fFma f .rne (2 ≤ op) (op == 1 || op == 2) a b c

/-- A lane operation applied to every lane of width w of two 64-bit words. -/
def wordLanes (w : Nat) (f : Lane2) (a b : Nat) : Nat :=
  packBits w (List.zipWith f (unpackBits w (64 / w) a) (unpackBits w (64 / w) b))

/-- The same for three words. -/
def wordLanes3 (w : Nat) (f : Nat → Nat → Nat → Nat) (a b c : Nat) : Nat :=
  packBits w (List.zipWith (fun (p : Nat × Nat) z => f p.1 p.2 z)
    (List.zip (unpackBits w (64 / w) a) (unpackBits w (64 / w) b)) (unpackBits w (64 / w) c))

/-- VDOT4 of signed 8-bit groups of four added to a 32-bit lane (R56, R151). -/
def dot4Lane (a b c : Nat) : Nat :=
  intBits 32 (c + (List.zipWith (fun x y => sext 8 x * sext 8 y) (unpackBits 8 4 a) (unpackBits 8 4 b)).foldl
    (fun (x : Int) y => x + y) 0)

end Sys2Proof.Machine
end

