-- ==== Sys2Proof/Machine/ShortVec.lean ====
section
/-!
DEFINITION. Machine/ShortVec.lean: the short-vector instructions of majors 0x40 to 0x43 (R55 to R57). Their loads and stores
stand in LoadStore.lean.
-/

namespace Sys2Proof.Machine

/-- The operands of a short-vector source pair named in a field. -/
def svOps (slot : Nat) (p : Pair) : List Opnd := [opnd slot .sv p.a, opnd slot .sv p.b]

/-- Whether a pair holds a POISON. -/
def pairPoison (p : Pair) : Bool := p.a.tag == .poison || p.b.tag == .poison

/-- The result pair of a short-vector instruction: INT or FLT words, POISON in both when a source is (R31, R55). -/
def svResult (poison flt : Bool) (lo hi : Nat) : Pair :=
  if poison then ⟨.poison, .poison⟩
  else if flt then ⟨.flt lo, .flt hi⟩
  else ⟨.int (BitVec.ofNat 64 lo), .int (BitVec.ofNat 64 hi)⟩

/-- A short-vector instruction of two sources, word by word. -/
def svBinary (t : Tid) (rd rs1 rs2 : RIdx) (flt : Bool) (f : Nat → Nat → Nat) : M Unit := do
  needEven [rd, rs1, rs2]
  let th ← getT t
  let a := th.pair rs1
  let b := th.pair rs2
  checkOps (svOps 1 a ++ svOps 2 b)
  wrPair t rd (svResult (pairPoison a || pairPoison b) flt (f a.a.val.toNat b.a.val.toNat) (f a.b.val.toNat b.b.val.toNat))

/-- A short-vector instruction of three sources. -/
def svTernary (t : Tid) (rd rs1 rs2 rs3 : RIdx) (slot3 : Nat) (flt : Bool) (f : Nat → Nat → Nat → Nat) : M Unit := do
  needEven [rd, rs1, rs2, rs3]
  let th ← getT t
  let a := th.pair rs1
  let b := th.pair rs2
  let c := th.pair rs3
  checkOps (svOps 1 a ++ svOps 2 b ++ svOps slot3 c)
  wrPair t rd (svResult (pairPoison a || pairPoison b || pairPoison c) flt
    (f a.a.val.toNat b.a.val.toNat c.a.val.toNat) (f a.b.val.toNat b.b.val.toNat c.b.val.toNat))

/-- SV.INT of a lane operation (R56). -/
def svInt (t : Tid) (rd rs1 rs2 : RIdx) (lanes : Fin 4) (f : Nat → Lane2) (s : State) : Host.Outcome State Fault Refusal :=
  simple t (svBinary t rd rs1 rs2 false (wordLanes (intLane lanes) (f (intLane lanes)))) s

/-- SV.FP of a lane operation (R56, R57). -/
def svFp (t : Tid) (rd rs1 rs2 : RIdx) (lanes : SvLanes) (f : FFmt → Lane2) (s : State) : Host.Outcome State Fault Refusal :=
  simple t (svBinary t rd rs1 rs2 (lanes == .fp64) (wordLanes (svLane lanes).width (f (svLane lanes)))) s

/-- SV VADD (R56). -/
def execSvVadd (t : Tid) (rd rs1 rs2 : RIdx) (lanes : Fin 4) (s : State) := svInt t rd rs1 rs2 lanes laneAdd s
/-- SV VSUB (R56). -/
def execSvVsub (t : Tid) (rd rs1 rs2 : RIdx) (lanes : Fin 4) (s : State) := svInt t rd rs1 rs2 lanes laneSub s
/-- SV VMUL (R56). -/
def execSvVmul (t : Tid) (rd rs1 rs2 : RIdx) (lanes : Fin 4) (s : State) := svInt t rd rs1 rs2 lanes laneMul s
/-- SV VMIN (R56). -/
def execSvVmin (t : Tid) (rd rs1 rs2 : RIdx) (lanes : Fin 4) (s : State) := svInt t rd rs1 rs2 lanes laneMin s
/-- SV VMAX (R56). -/
def execSvVmax (t : Tid) (rd rs1 rs2 : RIdx) (lanes : Fin 4) (s : State) := svInt t rd rs1 rs2 lanes laneMax s
/-- SV VMINU (R56). -/
def execSvVminu (t : Tid) (rd rs1 rs2 : RIdx) (lanes : Fin 4) (s : State) := svInt t rd rs1 rs2 lanes laneMinu s
/-- SV VMAXU (R56). -/
def execSvVmaxu (t : Tid) (rd rs1 rs2 : RIdx) (lanes : Fin 4) (s : State) := svInt t rd rs1 rs2 lanes laneMaxu s
/-- SV VAND (R56). -/
def execSvVand (t : Tid) (rd rs1 rs2 : RIdx) (lanes : Fin 4) (s : State) := svInt t rd rs1 rs2 lanes laneAnd s
/-- SV VOR (R56). -/
def execSvVor (t : Tid) (rd rs1 rs2 : RIdx) (lanes : Fin 4) (s : State) := svInt t rd rs1 rs2 lanes laneOr s
/-- SV VXOR (R56). -/
def execSvVxor (t : Tid) (rd rs1 rs2 : RIdx) (lanes : Fin 4) (s : State) := svInt t rd rs1 rs2 lanes laneXor s
/-- SV VSLL (R56). -/
def execSvVsll (t : Tid) (rd rs1 rs2 : RIdx) (lanes : Fin 4) (s : State) := svInt t rd rs1 rs2 lanes laneSll s
/-- SV VSRL (R56). -/
def execSvVsrl (t : Tid) (rd rs1 rs2 : RIdx) (lanes : Fin 4) (s : State) := svInt t rd rs1 rs2 lanes laneSrl s
/-- SV VSRA (R56). -/
def execSvVsra (t : Tid) (rd rs1 rs2 : RIdx) (lanes : Fin 4) (s : State) := svInt t rd rs1 rs2 lanes laneSra s
/-- SV VCMPEQ (R56). -/
def execSvVcmpeq (t : Tid) (rd rs1 rs2 : RIdx) (lanes : Fin 4) (s : State) := svInt t rd rs1 rs2 lanes laneCmpEq s
/-- SV VCMPLT (R56). -/
def execSvVcmplt (t : Tid) (rd rs1 rs2 : RIdx) (lanes : Fin 4) (s : State) := svInt t rd rs1 rs2 lanes laneCmpLt s
/-- SV VSADD (R56). -/
def execSvVsadd (t : Tid) (rd rs1 rs2 : RIdx) (lanes : Fin 4) (s : State) := svInt t rd rs1 rs2 lanes laneSadd s
/-- SV VFADD (R56, R57). -/
def execSvVfadd (t : Tid) (rd rs1 rs2 : RIdx) (lanes : SvLanes) (s : State) := svFp t rd rs1 rs2 lanes laneFadd s
/-- SV VFSUB (R56, R57). -/
def execSvVfsub (t : Tid) (rd rs1 rs2 : RIdx) (lanes : SvLanes) (s : State) := svFp t rd rs1 rs2 lanes laneFsub s
/-- SV VFMUL (R56, R57). -/
def execSvVfmul (t : Tid) (rd rs1 rs2 : RIdx) (lanes : SvLanes) (s : State) := svFp t rd rs1 rs2 lanes laneFmul s
/-- SV VFMIN (R56, R57). -/
def execSvVfmin (t : Tid) (rd rs1 rs2 : RIdx) (lanes : SvLanes) (s : State) := svFp t rd rs1 rs2 lanes laneFmin s
/-- SV VFMAX (R56, R57). -/
def execSvVfmax (t : Tid) (rd rs1 rs2 : RIdx) (lanes : SvLanes) (s : State) := svFp t rd rs1 rs2 lanes laneFmax s

/-- SV VDOT4: signed 8-bit groups of four into 32-bit lanes of rd, accumulating (R56). -/
def execSvVdot4 (t : Tid) (rd rs1 rs2 : RIdx) (s : State) :=
  simple t (svTernary t rd rs1 rs2 rd 0 false (wordLanes3 32 dot4Lane)) s

/-- SV.FMA: rs1 × rs2 with rs3, per lane (R56, R57). -/
def execSvFma (t : Tid) (rd rs1 rs2 rs3 : RIdx) (op : Fin 4) (lanes : SvLanes) (s : State) :=
  simple t (svTernary t rd rs1 rs2 rs3 3 (lanes == .fp64) (wordLanes3 (svLane lanes).width (laneFma (svLane lanes) op.val))) s

/-- VBCAST: the scalar rs1, of the move class other than NIL, to both lanes (R56, R57). -/
def execSvVbcast (t : Tid) (rd rs1 : RIdx) (s : State) :=
  simple t (do
    needEven [rd]
    let a ← greg t rs1
    checkOps [opnd 1 .moveNotNil a]
    wrPair t rd (svResult (a.tag == .poison) false a.val.toNat a.val.toNat)) s

/-- Draws a free value (its n-th 32 bits) in a meaning. -/
def drawM : M (BitVec 32) := runS drawFree

/-- The bytes of VSHUF: an index below 16 picks a byte; the spec states no byte for a larger one, which is a free value. -/
def shufBytes (src : Nat) : List Nat → M (List Nat)
  | [] => pure []
  | i :: is => do
    let b ← if i < 16 then pure (src / 256 ^ i % 256) else do
      let r ← drawM
      pure (r.toNat % 256)
    let bs ← shufBytes src is
    pure (b :: bs)

/-- VSHUF: bytes of rs1 chosen by byte indices in rs2 (R56). -/
def execSvVshuf (t : Tid) (rd rs1 rs2 : RIdx) (s : State) :=
  simple t (do
    needEven [rd, rs1, rs2]
    let th ← getT t
    let a := th.pair rs1
    let b := th.pair rs2
    checkOps (svOps 1 a ++ svOps 2 b)
    if pairPoison a || pairPoison b then wrPair t rd (svResult true false 0 0)
    else
      let src := a.a.val.toNat + 2 ^ 64 * a.b.val.toNat
      let bs ← shufBytes src (unpackBits 8 16 (b.a.val.toNat + 2 ^ 64 * b.b.val.toNat))
      wrPair t rd (svResult false false (packBits 8 (bs.take 8)) (packBits 8 (bs.drop 8)))) s

/-- VEXT: the 64-bit lane rs2[0] to scalar rd (R56, R57). rs2 is read as an index, as VEXT of R153 reads its own. -/
def execSvVext (t : Tid) (rd rs1 rs2 : RIdx) (s : State) :=
  simple t (do
    needEven [rs1]
    let th ← getT t
    let a := th.pair rs1
    let i := th.g rs2
    checkOps (svOps 1 a ++ [opnd 2 .index i])
    let v := if i.val.toNat % 2 = 0 then a.a else a.b
    wr t rd (orPoison (pairPoison a) (.int v.val))) s

/-- VINS: the scalar rs2 into a lane of rd; the other lane of rd keeps its value (R55 to R57). -/
def execSvVins (t : Tid) (rd rs2 : RIdx) (lane : Fin 2) (s : State) :=
  simple t (do
    needEven [rd]
    let th ← getT t
    let d := th.pair rd
    let v := th.g rs2
    let other := if lane.val = 0 then d.b else d.a
    checkOps [opnd 0 .sv other, opnd 2 .moveNotNil v]
    let lo := if lane.val = 0 then v.val else d.a.val
    let hi := if lane.val = 0 then d.b.val else v.val
    wrPair t rd (svResult (v.tag == .poison || other.tag == .poison) false lo.toNat hi.toNat)) s

end Sys2Proof.Machine
end

