-- ==== Sys2Proof/Machine/LongVec.lean ====
section
/-!
DEFINITION. Machine/LongVec.lean: the long-vector registers, the unit's power states, lane arithmetic, widening multiplies
and moves: majors 0x48 to 0x4B and 0x4D (R139 to R153).
-/

namespace Sys2Proof.Machine

/-! ### Registers (R139, R141) -/

/-- A lane or a word with its poison mark. -/
abbrev PLane := Nat × Bool

/-- The lanes of width w of a register, each with the poison bit of its 64-bit word. -/
def vLanes (v : VReg) (w : Nat) : List PLane :=
  (upto (4096 / w)).map (fun k => (v.bits.toNat / 2 ^ (w * k) % 2 ^ w, bit v.poison.toNat (w * k / 64)))

/-- The 64-bit words of lanes, k lanes to a word: a word with a poisoned lane is poisoned and 0 (R141). -/
def wordsOf (w k : Nat) : Nat → List PLane → List PLane
  | 0, _ => []
  | n + 1, ls =>
    let h := ls.take k
    let p := h.any (fun l => l.2)
    (if p then 0 else packBits w (h.map (fun l => l.1)), p) :: wordsOf w k n (ls.drop k)

/-- The register of 64 words. -/
def vFromWords (ws : List PLane) : VReg :=
  ⟨BitVec.ofNat 4096 (packBits 64 (ws.map (fun l => l.1))), BitVec.ofNat 64 (packBits 1 (ws.map (fun l => b2n l.2)))⟩

/-- The register of lanes of width w; missing lanes are 0. -/
def vFromLanes (w : Nat) (ls : List PLane) : VReg := vFromWords (wordsOf w (64 / w) 64 ls)

/-- A zero register. -/
def VReg.zero : VReg := ⟨0, 0⟩

/-- Reads a vector register. -/
def vget (t : Tid) (r : RIdx) : M VReg := fun s => .ok ((s.th t).vregs[r.val]) s
/-- Writes a vector register. -/
def vput (t : Tid) (r : RIdx) (v : VReg) : M Unit := modT t (fun th => { th with vregs := th.vregs.set r.val v })

/-- A 64-bit word of a register. -/
def VReg.word (v : VReg) (k : Nat) : PLane := (v.bits.toNat / 2 ^ (64 * k) % 2 ^ 64, bit v.poison.toNat k)

/-- A register with word k replaced. -/
def VReg.setWord (v : VReg) (k : Nat) (x : PLane) : VReg := vFromWords (((upto 64).map v.word).set k (if x.2 then 0 else x.1, x.2))

/-- A 32-bit lane of a register. -/
def VReg.lane32 (v : VReg) (k : Nat) : PLane :=
  let w := v.word (k / 2)
  (w.1 / 2 ^ (32 * (k % 2)) % 2 ^ 32, w.2)

/-- A register with a 32-bit lane replaced: the word is poisoned when the new lane or the kept one is (R141). -/
def VReg.setLane32 (v : VReg) (k : Nat) (x : PLane) : VReg :=
  let w := v.word (k / 2)
  v.setWord (k / 2) (setFld w.1 (32 * (k % 2) + 31) (32 * (k % 2)) x.1, w.2 || x.2)

/-! ### Power (R142 to R144, R121) -/

/-- A long-vector instruction goes on only on a POWERED unit; on a DOWN one it starts a wake and waits. -/
def lvReady (t : Tid) : M Unit := fun s =>
  match (s.core t.core).lv with
  | .powered => .ok () s
  | .waking => .error (.wait .lvWake) s
  | .down => .error (.wait .lvWake) (wakeLv s t.core)

/-- The end of a wake: waiting threads issue their instruction again (R143). -/
def execLvWakeComplete (core : CoreId) (s : State) : Host.Outcome State Fault Refusal :=
  let k := s.core core
  if k.lv = .waking then
    let s1 := s.setCore core { k with lv := .powered }
    .next ((coreTids core).foldl (fun (st : State) t =>
      let th := st.th t
      if th.status = .waiting .lvWake then st.setTh t { th with status := .active, waitsWith := none } else st) s1)
  else .next s

/-- Whether a task with VEC is assigned to the core, dispatched or not (R120). -/
def vecAssigned (s : State) (core : CoreId) : Bool :=
  s.tasks.any (fun e => e.2.vec &&
    (match e.2.thread with
     | some n => n / 16 == core.val
     | none => e.2.core == some core.val))

/-- The idle threshold has passed: a POWERED unit with no waiting instruction and no assigned VEC task goes DOWN; its
registers are retained (R142). -/
def execLvPowerDown (core : CoreId) (s : State) : Host.Outcome State Fault Refusal :=
  let k := s.core core
  if k.lv = .powered && !vecAssigned s core && !(coreTids core).any (fun t => (s.th t).status == .waiting .lvWake) then
    .next (s.setCore core { k with lv := .down })
  else .next s

/-- One long-vector instruction of 4 bytes: encoding checks first, then the wait for the unit, then the meaning. -/
def lvInstr (t : Tid) (legal : Bool) (body : M Unit) (s : State) : Host.Outcome State Fault Refusal :=
  simple t (do
    if !legal then illegal
    lvReady t
    body) s

/-! ### Lane arithmetic (R148 to R150) -/

/-- Lane by lane from two registers. -/
def vBinary (t : Tid) (vd vs1 vs2 : RIdx) (w : Nat) (f : Lane2) : M Unit := do
  let a ← vget t vs1
  let b ← vget t vs2
  vput t vd (vFromLanes w (List.zipWith (fun (x y : PLane) => (f x.1 y.1, x.2 || y.2)) (vLanes a w) (vLanes b w)))

/-- Lane by lane from one register. -/
def vUnary (t : Tid) (vd vs1 : RIdx) (w : Nat) (f : Nat → Nat) : M Unit := do
  let a ← vget t vs1
  vput t vd (vFromLanes w ((vLanes a w).map (fun x => (f x.1, x.2))))

/-- Lane by lane from two registers and vd itself. -/
def vTernary (t : Tid) (vd vs1 vs2 : RIdx) (w : Nat) (f : Nat → Nat → Nat → Nat) : M Unit := do
  let a ← vget t vs1
  let b ← vget t vs2
  let d ← vget t vd
  vput t vd (vFromLanes w (List.zipWith (fun (p : PLane × PLane) (z : PLane) => (f p.1.1 p.2.1 z.1, p.1.2 || p.2.2 || z.2))
    (List.zip (vLanes a w) (vLanes b w)) (vLanes d w)))

/-- A VINT instruction (R148). -/
def vInt (t : Tid) (vd vs1 vs2 : RIdx) (lanes : Fin 4) (f : Nat → Lane2) (s : State) : Host.Outcome State Fault Refusal :=
  lvInstr t true (vBinary t vd vs1 vs2 (intLane lanes) (f (intLane lanes))) s

/-- A VFP instruction of two sources (R148, R149). -/
def vFp (t : Tid) (vd vs1 vs2 : RIdx) (lanes : Fin 4) (f : FFmt → Lane2) (s : State) : Host.Outcome State Fault Refusal :=
  lvInstr t true (vBinary t vd vs1 vs2 (fpLane lanes).width (f (fpLane lanes))) s

/-- A VFMA instruction into vd (R148). -/
def vFma (t : Tid) (vd vs1 vs2 : RIdx) (lanes : Fin 4) (op : Nat) (s : State) : Host.Outcome State Fault Refusal :=
  lvInstr t true (vTernary t vd vs1 vs2 (fpLane lanes).width (laneFma (fpLane lanes) op)) s

/-- VADD (R148). -/
def execVadd (t : Tid) (vd vs1 vs2 : RIdx) (lanes : Fin 4) (s : State) := vInt t vd vs1 vs2 lanes laneAdd s
/-- VSUB (R148). -/
def execVsub (t : Tid) (vd vs1 vs2 : RIdx) (lanes : Fin 4) (s : State) := vInt t vd vs1 vs2 lanes laneSub s
/-- VMUL (R148). -/
def execVmul (t : Tid) (vd vs1 vs2 : RIdx) (lanes : Fin 4) (s : State) := vInt t vd vs1 vs2 lanes laneMul s
/-- VMIN (R148). -/
def execVmin (t : Tid) (vd vs1 vs2 : RIdx) (lanes : Fin 4) (s : State) := vInt t vd vs1 vs2 lanes laneMin s
/-- VMAX (R148). -/
def execVmax (t : Tid) (vd vs1 vs2 : RIdx) (lanes : Fin 4) (s : State) := vInt t vd vs1 vs2 lanes laneMax s
/-- VMINU (R148). -/
def execVminu (t : Tid) (vd vs1 vs2 : RIdx) (lanes : Fin 4) (s : State) := vInt t vd vs1 vs2 lanes laneMinu s
/-- VMAXU (R148). -/
def execVmaxu (t : Tid) (vd vs1 vs2 : RIdx) (lanes : Fin 4) (s : State) := vInt t vd vs1 vs2 lanes laneMaxu s
/-- VAND (R148). -/
def execVand (t : Tid) (vd vs1 vs2 : RIdx) (lanes : Fin 4) (s : State) := vInt t vd vs1 vs2 lanes laneAnd s
/-- VOR (R148). -/
def execVor (t : Tid) (vd vs1 vs2 : RIdx) (lanes : Fin 4) (s : State) := vInt t vd vs1 vs2 lanes laneOr s
/-- VXOR (R148). -/
def execVxor (t : Tid) (vd vs1 vs2 : RIdx) (lanes : Fin 4) (s : State) := vInt t vd vs1 vs2 lanes laneXor s
/-- VSLL (R148). -/
def execVsll (t : Tid) (vd vs1 vs2 : RIdx) (lanes : Fin 4) (s : State) := vInt t vd vs1 vs2 lanes laneSll s
/-- VSRL (R148). -/
def execVsrl (t : Tid) (vd vs1 vs2 : RIdx) (lanes : Fin 4) (s : State) := vInt t vd vs1 vs2 lanes laneSrl s
/-- VSRA (R148). -/
def execVsra (t : Tid) (vd vs1 vs2 : RIdx) (lanes : Fin 4) (s : State) := vInt t vd vs1 vs2 lanes laneSra s
/-- VCMPEQ (R148). -/
def execVcmpeq (t : Tid) (vd vs1 vs2 : RIdx) (lanes : Fin 4) (s : State) := vInt t vd vs1 vs2 lanes laneCmpEq s
/-- VCMPLT (R148). -/
def execVcmplt (t : Tid) (vd vs1 vs2 : RIdx) (lanes : Fin 4) (s : State) := vInt t vd vs1 vs2 lanes laneCmpLt s
/-- VSADD (R148). -/
def execVsadd (t : Tid) (vd vs1 vs2 : RIdx) (lanes : Fin 4) (s : State) := vInt t vd vs1 vs2 lanes laneSadd s
/-- VFADD (R148, R149). -/
def execVfadd (t : Tid) (vd vs1 vs2 : RIdx) (lanes : Fin 4) (s : State) := vFp t vd vs1 vs2 lanes laneFadd s
/-- VFSUB (R148, R149). -/
def execVfsub (t : Tid) (vd vs1 vs2 : RIdx) (lanes : Fin 4) (s : State) := vFp t vd vs1 vs2 lanes laneFsub s
/-- VFMUL (R148, R149). -/
def execVfmul (t : Tid) (vd vs1 vs2 : RIdx) (lanes : Fin 4) (s : State) := vFp t vd vs1 vs2 lanes laneFmul s
/-- VFDIV (R148, R149). -/
def execVfdiv (t : Tid) (vd vs1 vs2 : RIdx) (lanes : Fin 4) (s : State) := vFp t vd vs1 vs2 lanes laneFdiv s
/-- VFMIN (R148, R149). -/
def execVfmin (t : Tid) (vd vs1 vs2 : RIdx) (lanes : Fin 4) (s : State) := vFp t vd vs1 vs2 lanes laneFmin s
/-- VFMAX (R148, R149). -/
def execVfmax (t : Tid) (vd vs1 vs2 : RIdx) (lanes : Fin 4) (s : State) := vFp t vd vs1 vs2 lanes laneFmax s
/-- VFCMPLT (R148, R149). -/
def execVfcmplt (t : Tid) (vd vs1 vs2 : RIdx) (lanes : Fin 4) (s : State) := vFp t vd vs1 vs2 lanes laneFcmpLt s
/-- VFCMPEQ (R148, R149). -/
def execVfcmpeq (t : Tid) (vd vs1 vs2 : RIdx) (lanes : Fin 4) (s : State) := vFp t vd vs1 vs2 lanes laneFcmpEq s
/-- VFMADD (R148). -/
def execVfmadd (t : Tid) (vd vs1 vs2 : RIdx) (lanes : Fin 4) (s : State) := vFma t vd vs1 vs2 lanes 0 s
/-- VFMSUB (R148). -/
def execVfmsub (t : Tid) (vd vs1 vs2 : RIdx) (lanes : Fin 4) (s : State) := vFma t vd vs1 vs2 lanes 1 s
/-- VFNMADD (R148). -/
def execVfnmadd (t : Tid) (vd vs1 vs2 : RIdx) (lanes : Fin 4) (s : State) := vFma t vd vs1 vs2 lanes 2 s
/-- VFNMSUB (R148). -/
def execVfnmsub (t : Tid) (vd vs1 vs2 : RIdx) (lanes : Fin 4) (s : State) := vFma t vd vs1 vs2 lanes 3 s

/-- VSEL: bitwise, vs1 where vd is 1 and vs2 where vd is 0 (R148). -/
def execVsel (t : Tid) (vd vs1 vs2 : RIdx) (lanes : Fin 4) (s : State) :=
  lvInstr t true (vTernary t vd vs1 vs2 (intLane lanes)
    (fun a b d => Nat.lor (Nat.land a d) (b - Nat.land b d))) s

/-- VFSQRT (R148). -/
def execVfsqrt (t : Tid) (vd vs1 : RIdx) (lanes : Fin 4) (s : State) :=
  lvInstr t true (vUnary t vd vs1 (fpLane lanes).width (fSqrt (fpLane lanes) .rne)) s
/-- VFEXP: correctly rounded, FP32 lanes only (R150). -/
def execVfexp (t : Tid) (vd vs1 : RIdx) (lanes : Fin 4) (s : State) :=
  lvInstr t (lanes.val == 0) (vUnary t vd vs1 32 fexp) s
/-- VFLN: correctly rounded, FP32 lanes only (R150). -/
def execVfln (t : Tid) (vd vs1 : RIdx) (lanes : Fin 4) (s : State) :=
  lvInstr t (lanes.val == 0) (vUnary t vd vs1 32 fln) s

/-! ### Widening multiplies and dot products (R151) -/

/-- Half the lanes of two sources multiplied into lanes of twice the width. -/
def vWide (t : Tid) (vd vs1 vs2 : RIdx) (w : Nat) (hi : Bool) (f : Lane2) : M Unit := do
  let a ← vget t vs1
  let b ← vget t vs2
  let k := 2048 / w
  let pick (v : VReg) : List PLane := slice (vLanes v w) (if hi then k else 0) k
  vput t vd (vFromLanes (2 * w) (List.zipWith (fun (x y : PLane) => (f x.1 y.1, x.2 || y.2)) (pick a) (pick b)))

/-- The signed product of two lanes of w bits in twice the width. -/
def wideMul (w : Nat) : Lane2 := fun a b => intBits (2 * w) (sext w a * sext w b)

/-- VWMUL.LO (R151). -/
def execVwmulLo (t : Tid) (vd vs1 vs2 : RIdx) (s : State) := lvInstr t true (vWide t vd vs1 vs2 8 false (wideMul 8)) s
/-- VWMUL.HI (R151). -/
def execVwmulHi (t : Tid) (vd vs1 vs2 : RIdx) (s : State) := lvInstr t true (vWide t vd vs1 vs2 8 true (wideMul 8)) s
/-- VWMUL16.LO (R151). -/
def execVwmul16Lo (t : Tid) (vd vs1 vs2 : RIdx) (s : State) := lvInstr t true (vWide t vd vs1 vs2 16 false (wideMul 16)) s
/-- VWMUL16.HI (R151). -/
def execVwmul16Hi (t : Tid) (vd vs1 vs2 : RIdx) (s : State) := lvInstr t true (vWide t vd vs1 vs2 16 true (wideMul 16)) s

/-- A product of two narrow floating elements, rounded to FP32. -/
def prodF32 (f : FFmt) : Lane2 := fun a b => encodeF fp32 .rne ((decodeF f a).mul (decodeF f b))

/-- The 16-bit floating format that VWIDE's lanes field names: BF16 1, FP16 2. -/
def wideFmt (lanes : Fin 4) : FFmt := if lanes.val = 2 then fp16 else bf16
/-- Whether VWIDE's lanes field names a 16-bit floating format. -/
def wideFmtOk (lanes : Fin 4) : Bool := lanes.val == 1 || lanes.val == 2

/-- VWFMUL.LO (R151). -/
def execVwfmulLo (t : Tid) (vd vs1 vs2 : RIdx) (lanes : Fin 4) (s : State) :=
  lvInstr t (wideFmtOk lanes) (vWide t vd vs1 vs2 16 false (prodF32 (wideFmt lanes))) s
/-- VWFMUL.HI (R151). -/
def execVwfmulHi (t : Tid) (vd vs1 vs2 : RIdx) (lanes : Fin 4) (s : State) :=
  lvInstr t (wideFmtOk lanes) (vWide t vd vs1 vs2 16 true (prodF32 (wideFmt lanes))) s

/-- VDOT4.I8 (R151). -/
def execVdot4I8 (t : Tid) (vd vs1 vs2 : RIdx) (s : State) := lvInstr t true (vTernary t vd vs1 vs2 32 dot4Lane) s

/-- vd + (p0 + p1) over 16-bit elements (R151). -/
def dot2Lane (f : FFmt) (a b c : Nat) : Nat :=
  let p (j : Nat) := prodF32 f (a / 2 ^ (16 * j) % 2 ^ 16) (b / 2 ^ (16 * j) % 2 ^ 16)
  fAdd fp32 .rne c (fAdd fp32 .rne (p 0) (p 1))
/-- VDOT2.F16 (R151). -/
def execVdot2F16 (t : Tid) (vd vs1 vs2 : RIdx) (lanes : Fin 4) (s : State) :=
  lvInstr t (wideFmtOk lanes) (vTernary t vd vs1 vs2 32 (dot2Lane (wideFmt lanes))) s

/-- vd + ((p0 + p1) + (p2 + p3)) over 8-bit floating elements (R151). -/
def dot4FLane (f : FFmt) (a b c : Nat) : Nat :=
  let p (j : Nat) := prodF32 f (a / 2 ^ (8 * j) % 2 ^ 8) (b / 2 ^ (8 * j) % 2 ^ 8)
  fAdd fp32 .rne c (fAdd fp32 .rne (fAdd fp32 .rne (p 0) (p 1)) (fAdd fp32 .rne (p 2) (p 3)))
/-- VDOT4.F8 (R151). -/
def execVdot4F8 (t : Tid) (vd vs1 vs2 : RIdx) (lanes : Fin 4) (s : State) :=
  lvInstr t (decide (lanes.val ≤ 1)) (vTernary t vd vs1 vs2 32 (dot4FLane (if lanes.val = 0 then e4m3 else e5m2))) s

/-! ### Moves (R153) -/

/-- VZERO (R153). -/
def execVzero (t : Tid) (vd : RIdx) (s : State) := lvInstr t true (vput t vd .zero) s
/-- VCOPY (R153). -/
def execVcopy (t : Tid) (vd vs1 : RIdx) (s : State) :=
  lvInstr t true (do
    let a ← vget t vs1
    vput t vd a) s

/-- A broadcast of a scalar of the move class other than NIL to every lane of width w (R153). -/
def vBcast (t : Tid) (vd rs : RIdx) (w : Nat) : M Unit := do
  let a ← greg t rs
  checkOps [opnd 1 .moveNotNil a]
  vput t vd (vFromLanes w (List.replicate (4096 / w) (a.val.toNat % 2 ^ w, a.tag == .poison)))

/-- VBCAST.D (R153). -/
def execVbcastD (t : Tid) (vd rs : RIdx) (s : State) := lvInstr t true (vBcast t vd rs 64) s
/-- VBCAST.W (R153). -/
def execVbcastW (t : Tid) (vd rs : RIdx) (s : State) := lvInstr t true (vBcast t vd rs 32) s

/-- The lane or slot number in rs2, of the index class: ILLEGAL_OP when it is out of range (R153). -/
def vIndex (t : Tid) (rs2 : RIdx) (others : List Opnd) (limit : Nat) : M Nat := do
  let i ← greg t rs2
  let o := opnd 2 .index i
  if !o.bad && !o.traps && decide (limit ≤ i.val.toNat) then illegal
  checkOps (others ++ [o])
  pure i.val.toNat

/-- A scalar read of a lane. -/
def vExt (t : Tid) (rd vs1 rs2 : RIdx) (w : Nat) : M Unit := do
  let i ← vIndex t rs2 [] (4096 / w)
  let v ← vget t vs1
  let x := ((vLanes v w)[i]?).getD (0, false)
  wr t rd (orPoison x.2 (.int (BitVec.ofNat 64 x.1)))

/-- VEXT.W (R153). -/
def execVextW (t : Tid) (rd vs1 rs2 : RIdx) (s : State) := lvInstr t true (vExt t rd vs1 rs2 32) s
/-- VEXT.D (R153). -/
def execVextD (t : Tid) (rd vs1 rs2 : RIdx) (s : State) := lvInstr t true (vExt t rd vs1 rs2 64) s

/-- VINS.W: 32-bit lane rs2 of vd from rs[31:0] (R153). -/
def execVinsW (t : Tid) (vd rs rs2 : RIdx) (s : State) :=
  lvInstr t true (do
    let a ← greg t rs
    let i ← vIndex t rs2 [opnd 1 .moveNotNil a] 128
    let v ← vget t vd
    vput t vd (v.setLane32 i (a.val.toNat % 2 ^ 32, a.tag == .poison))) s
/-- VINS.D: 64-bit lane rs2 of vd from rs (R153). -/
def execVinsD (t : Tid) (vd rs rs2 : RIdx) (s : State) :=
  lvInstr t true (do
    let a ← greg t rs
    let i ← vIndex t rs2 [opnd 1 .moveNotNil a] 64
    let v ← vget t vd
    vput t vd (v.setWord i (a.val.toNat, a.tag == .poison))) s

/-- VMOVS: 128-bit slot rs2 of vd from the short-vector pair rs (R153). -/
def execVmovs (t : Tid) (vd rs rs2 : RIdx) (s : State) :=
  lvInstr t (rs.val % 2 == 0) (do
    let th ← getT t
    let p := th.pair rs
    let i ← vIndex t rs2 (svOps 1 p) 32
    let v ← vget t vd
    vput t vd ((v.setWord (2 * i) (p.a.val.toNat, p.a.tag == .poison)).setWord (2 * i + 1)
      (p.b.val.toNat, p.b.tag == .poison))) s

/-- VMOVL: pair rd from 128-bit slot rs2 of vs1 (R153). -/
def execVmovl (t : Tid) (rd vs1 rs2 : RIdx) (s : State) :=
  lvInstr t (rd.val % 2 == 0) (do
    let i ← vIndex t rs2 [] 32
    let v ← vget t vs1
    let h (k : Nat) : Reg :=
      let x := v.word (2 * i + k)
      orPoison x.2 (.int (BitVec.ofNat 64 x.1))
    wrPair t rd ⟨h 0, h 1⟩) s

end Sys2Proof.Machine
end

