-- ==== Sys2Proof/Machine/Convert.lean ====
section
/-!
DEFINITION. Machine/Convert.lean: conversions under an FMT descriptor: the tensor record, the choice of the scale, scale
retry and its outcome, and VCVT (R152, R209, R213, R216 to R235).
-/

namespace Sys2Proof.Machine

/-- The space whose counters a thread's work adds to. -/
def Thread.space (th : Thread) : Nat := if th.dev then 16 else th.tenancy.val

/-! ### The tensor record (R218 to R222) -/

/-- The address of a tensor's record. -/
def recordAddr (s : State) (th : Thread) (d : Fmt) : Nat := s.ten th.tenancy.val 0xC020 0 + 8 * d.tensor

/-- Whether a conversion needs its tensor's record (R220). -/
def needsRecord (d : Fmt) : Bool := d.probe || d.ssrc == 1 || d.ssrc == 3 || classG d

/-- Reads the record at its slice: POISON_USE with USE 0x5 when it is poisoned (R220, R450). -/
def readTensor (t : Tid) (d : Fmt) : M Nat := do
  if !needsRecord d then pure 0
  else
    let s ← getS
    let th := s.th t
    let a := recordAddr s th d
    let n := spaceOf th.tenancy.val
    let pa ← xlate t n a .read
    let s1 ← getS
    let s2 := sliceRead s1 (pa / 128) (runSectors (pa % 128) 8) (windowAt s1 n.val a)
    setS s2
    let f := viewFull s2 th.ep (pa / 128)
    if bit f.poison (pa % 128 / 8) then raise vecPoisonUse (5 * 2 ^ 20) a
    pure (f.data / 256 ^ (pa % 128) % 2 ^ 64)

/-- What a probe needs before it starts: the record's page may be written, and the overlay has room for its line (R135,
R222). -/
def amaxReady (t : Tid) (d : Fmt) : M Unit := do
  let s ← getS
  let a := recordAddr s (s.th t) d
  let pa ← xlate t (spaceOf (s.th t).tenancy.val) a .write
  quotaWait t [(a, 8, pa)]

/-- A probe folds its largest magnitude into AMAX as an unsigned maximum (R220, R222): in the overlay of an open epoch. -/
def foldAmax (t : Tid) (d : Fmt) (v : Nat) : M Unit := do
  let s ← getS
  let th := s.th t
  let a := recordAddr s th d
  let n := spaceOf th.tenancy.val
  let pa ← xlate t n a .write
  quotaWait t [(a, 8, pa)]
  modS (fun s1 =>
    let f := viewFull s1 th.ep (pa / 128)
    let w := f.data / 256 ^ (pa % 128) % 2 ^ 32
    if v ≤ w then s1
    else
      let mask := 15 * 2 ^ (pa % 128)
      let ac := windowAt s1 n.val a
      match th.ep with
      | some e => overlayWrite s1 e (pa / 128) mask (v * 256 ^ (pa % 128)) 0 0 ac
      | none => sliceWrite s1 (pa / 128) mask (v * 256 ^ (pa % 128)) 0 0 ac)

/-! ### The scale (R223 to R225) -/

/-- The recipe scale of a kind and target format, as a SCALE field (R225). -/
def recipeScale (s : State) (d : Fmt) : Nat := s.dev (0x6100 + d.kind) d.format / 2 ^ 16

/-- Whether AUTO takes the recipe at step st (R223). -/
def autoRecipe (s : State) (ten st : Nat) : Bool :=
  s.dev 0x6004 0 == 1 || decide (st < s.ten ten 0xC020 3 + s.dev 0x6001 0) ||
    (s.ten ten 0xC020 4 != 0xFFFFFFFF && decide (st < s.ten ten 0xC020 4 + s.dev 0x6002 0))

/-- The target scale T as a SCALE field (R223); rcd is the tensor record. -/
def resolveScale (s : State) (ten : Nat) (d : Fmt) (rcd : Nat) : Nat :=
  match d.ssrc with
  | 0 => d.scale
  | 1 => measuredScale d.format d.mx (rcd % 2 ^ 32)
  | 2 => recipeScale s d
  | _ => if autoRecipe s ten (rcd / 2 ^ 32) then recipeScale s d else measuredScale d.format d.mx (rcd % 2 ^ 32)

/-- How a conversion by a core rounds (R229 to R231). -/
def roundingOf (s : State) (ten : Nat) (d : Fmt) (rcd : Nat) : Rounding :=
  if classG d then
    .stochastic { seed := s.ten ten 0xC020 1, rank := s.ten ten 0xC020 2, step := rcd / 2 ^ 32, tensor := d.tensor,
                  pos := d.pos, site := 0 }
  else .nearest

/-! ### Attempts and retry (R232, R233) -/

/-- A row of source values: the local index of its first element, and the values with their poison. -/
abbrev CvtRow := Nat × List (Num × Bool)

/-- One attempt over all rows with target scale t (R213). -/
def attempt (d : Fmt) (rd : Rounding) (t sA sB : Num) (rows : List CvtRow) : List RunOut :=
  rows.map (fun r => cvtRun d.format d.mx rd r.1 (r.2.map (fun x => scaledIn x.1 t sA sB x.2)))

/-- Whether some row of an attempt overflows. -/
def overflows (rs : List RunOut) : Bool := rs.any (fun r => r.over?.isSome)

/-- The attempts from k on, n retries left: the k that stops and its results. -/
def attempts (f : Nat → List RunOut) : Nat → Nat → Nat × List RunOut
  | 0, k => (k, f k)
  | n + 1, k =>
    let r := f k
    if overflows r then attempts f n (k + 1) else (k, r)

/-- The lowest row that overflows, with the lowest element in it and whether it is a block (R234). -/
def firstOver (rs : List RunOut) : Option (Nat × Nat × Bool) :=
  match findIdx? (fun (r : RunOut) => r.over?.isSome) rs 0 with
  | none => none
  | some i => match rs[i]? with
    | none => none
    | some r => r.over?.map (fun o => (i, o.1, o.2))

/-- The outcome of a conversion that is not a probe. -/
structure CvtOut where
  retry : Nat
  scale : Nat
  rows : List RunOut
  /-- Detail word of SCALE_EXHAUSTED when Stop 0x6003.00 selects the exception. -/
  exhausted : Option Nat
deriving DecidableEq, Repr

/-- A conversion of rows with its retries, its statistics and its outcome (R232 to R235). source is the SOURCE code of
R234; rowNos are the row numbers that INDEX gives for a tile; it is empty for VCVT, where INDEX is the lane. -/
def convertRows (t : Tid) (d : Fmt) (rcd : Nat) (sA sB : Num) (rows : List CvtRow) (source : Nat) (rowNos : List Nat) : M CvtOut := do
  let s ← getS
  let th := s.th t
  let scale := resolveScale s th.tenancy.val d rcd
  let rd := roundingOf s th.tenancy.val d rcd
  let r := attempts (fun k => attempt d rd ((scaleNum scale).scale (-(k : Int))) sA sB rows) 4 0
  let ovr := firstOver r.2
  let ex : Option Nat := match ovr with
    | none => none
    | some o =>
      if s.dev 0x6003 0 = 1 then
        some (d.format * 2 ^ 20 + source * 2 ^ 16 + (match rowNos[o.1]? with | some n => n | none => o.2.1) % 256 * 2 ^ 8 + b2n o.2.2)
      else none
  let sat := ovr.isSome || r.2.any RunOut.sat
  modS (fun s1 =>
    let s2 := s1.count th.space 0x20 r.1
    if ex.isSome then s2
    else (s2.count th.space 0x21 (b2n sat)).count th.space 0x22 (r.2.foldl (fun (k : Nat) x => k + x.srCount) 0))
  pure ⟨r.1, scale, r.2, ex⟩

/-- The largest magnitude of a probe's values as an FP32 pattern; poisoned elements are left out (R222). -/
def probeMax (sA sB : Num) (rows : List CvtRow) : Nat :=
  rows.foldl (fun (m : Nat) r => r.2.foldl (fun (m : Nat) x => if x.2 then m else max m (probeCode x.1 sA sB)) m) 0

/-! ### VCVT (R152, R209) -/

/-- The exact value one. -/
def numOne : Num := .fin false 1 0

/-- Whether any bit of [lo, lo + n) lies in a poisoned 64-bit word. -/
def spanPoison (p : Nat) (lo n : Nat) : Bool := bit p (lo / 64) || bit p ((lo + n - 1) / 64)

/-- Words of a packed result: a word that holds a bit of a poisoned element is poisoned and 0. -/
def packedReg (w : Nat) (es : List ElemOut) (top : Nat) : VReg :=
  let total := packBits w (es.map (fun e => e.code)) + top
  let bad := (es.zip (upto es.length)).filter (fun e => e.1.poison)
  let hit (k : Nat) : Bool := bad.any (fun e => w * e.2 / 64 == k || (w * e.2 + w - 1) / 64 == k)
  vFromWords ((upto 64).map (fun k => if hit k then (0, true) else (total / 2 ^ (64 * k) % 2 ^ 64, false)))

/-- The descriptor operand of VCVT (slot 0x2), refused with detail 0x62 for a format VCVT does not take. -/
def vcvtDesc (t : Tid) (rs2 : RIdx) (widen : Bool) : M (Word × Fmt) := do
  let r ← greg t rs2
  checkOps [opnd 2 .fmt r]
  let d := fmtOf r.val
  if d.format = 0 || d.format = 13 || d.format = 14 || (widen && d.format == 15) then illegal 0x62
  pure (r.val, d)

/-- VCVT func 0x000: 128 FP32 lanes into the descriptor's format (R152, R209, R217, R222). -/
def execVcvtNarrow (t : Tid) (vd vs1 rs2 : RIdx) (s : State) :=
  lvInstr t true (do
    let (w, d) ← vcvtDesc t rs2 false
    let v ← vget t vs1
    let rcd ← readTensor t d
    let rows : List CvtRow := [(0, (vLanes v 32).map (fun x => (decodeF fp32 x.1, x.2)))]
    if d.probe then
      foldAmax t d (probeMax numOne numOne rows)
      vput t vd .zero
    else
      let r ← convertRows t d rcd numOne numOne rows 0 []
      match r.exhausted with
      | some detail => raise vecScaleExhausted detail 0
      | none =>
        let out := r.rows.headD ⟨[], [], []⟩
        vput t vd (packedReg (fmtStore d.format) out.elems (packBits 8 out.scales * 2 ^ (8 * 508)))
        wr t rs2 ⟨fmtWriteBack w r.scale r.retry, .fmt⟩) s

/-- VCVT func 0x001: elements of the descriptor's format into 128 FP32 lanes (R152, R209, R213). -/
def execVcvtWiden (t : Tid) (vd vs1 rs2 : RIdx) (s : State) :=
  lvInstr t true (do
    let (_, d) ← vcvtDesc t rs2 true
    let v ← vget t vs1
    let w := fmtStore d.format
    let lane (i : Nat) : PLane :=
      let code := v.bits.toNat / 2 ^ (w * i) % 2 ^ w
      let x := v.bits.toNat / 2 ^ (8 * (508 + i / 32)) % 256
      let val := if d.mx then elemScaled d.format x code else elemNum d.format false code
      (widenElem d val, spanPoison v.poison.toNat (w * i) w || (d.mx && bit v.poison.toNat 63))
    vput t vd (vFromLanes 32 ((upto 128).map lane))) s

end Sys2Proof.Machine
end

