-- ==== Sys2Proof/Machine/VectorMem.lean ====
section
/-!
DEFINITION. Machine/VectorMem.lean: VLD and VST, and the reduction families VNORM, VSMAX and VLOSS with their summation
order: majors 0x4E to 0x52 (R146, R154 to R163).
-/

namespace Sys2Proof.Machine

/-! ### Addresses -/

/-- The register of a VM or VR instruction that holds the length or the count. -/
def vmCount : VMForm → RIdx
  | .short _ rl => rl
  | .ext rl _ => rl

/-- The operands of a VM or VR instruction: cs, rx where there is one, and the count register (slot 0x9). -/
def vmOps (th : Thread) (cs : PIdx) (m : VMForm) : List Opnd :=
  csOps (th.cap cs) ++ (match m with
    | .short rx _ => [⟨6, .index, th.g rx, false, none, 0⟩]
    | .ext _ _ => []) ++ [opnd 9 .count (th.g (vmCount m))]

/-- The address of a VM or VR instruction, increased by off bytes (R146). -/
def vmAddr (th : Thread) (cs : PIdx) (m : VMForm) (off : Int) : Nat :=
  let base : Int := (th.cap cs).toCap.base
  match m with
  | .short rx _ => intBits 64 (base + (th.g rx).val.toNat + off)
  | .ext _ imm => intBits 64 (base + imm.toInt + off)

/-- A count that has passed its class check is judged before the other operands (R68): ILLEGAL_OP with a detail when it is
out of range. -/
def countFirst (o : Opnd) (outOfRange : Bool) (detail : Nat) (all : List Opnd) : M Unit :=
  if !o.bad && !o.traps && outOfRange then illegal detail else checkOps all

/-! ### VLD and VST (R154, R155) -/

/-- The operand checks of VLD and VST; answers the number of bytes. -/
def vmLen (th : Thread) (cs : PIdx) (m : VMForm) : M Nat := do
  let r := th.g (vmCount m)
  let n := r.val.toNat
  countFirst (opnd 9 .count r) (n == 0 || decide (512 < n)) 0x60 (vmOps th cs m)
  pure n

/-- VLD: rl bytes, the rest of vd cleared (R155). -/
def vldOp (t : Tid) (vd : RIdx) (cs : PIdx) (m : VMForm) (align : Nat) : M Unit := do
  lvReady t
  let th ← getT t
  let n ← vmLen th cs m
  let c := (th.cap cs).toCap
  let a := vmAddr th cs m 0
  dataChecks t c permLD a n align
  let bs ← demandBytes t c a n
  vput t vd (vFromLanes 8 bs)

/-- VST: rl bytes, all or none (R155), off bytes past its own address. -/
def vstOp (t : Tid) (vs : RIdx) (cs : PIdx) (m : VMForm) (align : Nat) (off : Int) : M Unit := do
  lvReady t
  let th ← getT t
  let n ← vmLen th cs m
  let c := (th.cap cs).toCap
  let a := vmAddr th cs m off
  dataChecks t c permST a n align
  let v ← vget t vs
  storeBytes t c.space a ((vLanes v 8).take n) false

/-- VLD.A (R154). -/
def execVldA (t : Tid) (vd : RIdx) (cs : PIdx) (m : VMForm) (s : State) := simpleX t m.isExt (vldOp t vd cs m 64) s
/-- VLD.U (R154). -/
def execVldU (t : Tid) (vd : RIdx) (cs : PIdx) (m : VMForm) (s : State) := simpleX t m.isExt (vldOp t vd cs m 1) s
/-- VST.A (R154). -/
def execVstA (t : Tid) (vs : RIdx) (cs : PIdx) (m : VMForm) (s : State) := simpleX t m.isExt (vstOp t vs cs m 64 0) s
/-- VST.U (R154). -/
def execVstU (t : Tid) (vs : RIdx) (cs : PIdx) (m : VMForm) (s : State) := simpleX t m.isExt (vstOp t vs cs m 1 0) s

/-! ### Elements (R157, R158) -/

/-- Bytes of an element of format fmt 0 to 4 (R157). -/
def vrSize (fmt : Nat) : Nat := fmtBits fmt / 8

/-- The element format of a VR instruction. -/
def vrFmt (fmt : Nat) : FFmt := (fmtFloat? fmt).getD fp32

/-- An element's code converted exactly to FP32. -/
def vrIn (fmt code : Nat) : Nat := if fmt = 0 then code else fCvt (vrFmt fmt) fp32 .rne code

/-- The code of a result stored in an element format, rounded once (R158). E4M3 has no infinity and the spec states no
result for a value that rounds beyond its largest: that code is a free value. -/
def vrOut (fmt : Nat) (x : Num) : M Nat :=
  if fmt = 3 then
    match x with
    | .nan => pure (nanCode e4m3)
    | .inf _ => do
      let r ← drawM
      pure (r.toNat % 256)
    | .fin _ m e =>
      let mx := maxFin e4m3
      if magGe m e (2 * mx.1 + 1) (mx.2 - 1) then do
        let r ← drawM
        pure (r.toNat % 256)
      else pure (encodeF e4m3 .rne x)
  else pure (encodeF (vrFmt fmt) .rne x)

/-- FP32 zero, one and minus infinity. -/
def f32zero : Nat := 0
def f32one : Nat := 0x3F800000
def f32ninf : Nat := 0xFF800000

/-- exp(x − m), with x − m rounded, then VFEXP (R158). -/
def expTerm (x m : Nat) : Nat := fexp (fSub fp32 .rne x m)

/-! ### The summation order (R160) -/

/-- One level of the tree: the pairs (2j, 2j + 1), the left operand covering the lower indices. -/
def pairSums : List PLane → List PLane
  | [] => []
  | [x] => [x]
  | x :: y :: t => (fAdd fp32 .rne x.1 y.1, x.2 || y.2) :: pairSums t

/-- The levels of the tree. -/
def treeSum : Nat → List PLane → PLane
  | 0, l => l.headD (f32zero, false)
  | n + 1, l => treeSum n (pairSums l)

/-- The sum of a block of 128 terms: positions beyond the last hold +0.0 (R160 steps 1 and 2). -/
def blockSum (terms : List PLane) : PLane :=
  treeSum 7 (terms ++ List.replicate (128 - terms.length) (f32zero, false))

/-- combine: the block's sum joins the levels; level l is occupied when bit l of the number of earlier blocks is 1. -/
def combineAt (blocks : Nat) : Nat → Nat → VReg → PLane → VReg
  | 0, _, v, _ => v
  | f + 1, l, v, x =>
    if bit blocks l then
      let y := v.lane32 l
      combineAt blocks f (l + 1) v (fAdd fp32 .rne y.1 x.1, y.2 || x.2)
    else v.setLane32 l x

/-- finish: the occupied levels folded from the lowest upward (R160). -/
def foldLevels (blocks : Nat) (v : VReg) : PLane :=
  match (upto 32).foldl (fun (r : Option PLane) l =>
      if bit blocks l then
        let y := v.lane32 l
        match r with
        | none => some y
        | some x => some (fAdd fp32 .rne y.1 x.1, y.2 || x.2)
      else r) none with
  | none => (f32zero, false)
  | some x => x

/-! ### The instructions (R157 to R163) -/

/-- What a VR instruction does with a block of elements. -/
inductive VrKind where
  /-- A sum of a term of the element; uses lane 124 when the flag is set. -/
  | sum (usesM : Bool) (f : Nat → Nat → Nat)
  /-- The running maximum, kept in lane 127 between blocks. -/
  | max
  /-- In place: the element's index, x, m, s and t give the result before its rounding to the element format. -/
  | map (usesS usesT : Bool) (f : Nat → Nat → Nat → Nat → Nat → Num)

/-- Whether the kind stores. -/
def VrKind.stores : VrKind → Bool
  | .map _ _ _ => true
  | _ => false

/-- The index of the lowest element of a block that lies outside the capability. -/
def vrOutside (c : Cap) (a esize : Nat) (k : Nat) : Option Nat :=
  findIdx? (fun i => a + i * esize < c.base || c.top < a + (i + 1) * esize) (upto k) 0

/-- The checks of R45 for the elements of a block, the lowest failing element deciding. -/
def vrChecks (t : Tid) (c : Cap) (mask a esize k : Nat) : M Unit := do
  dataChecks t c mask a esize esize
  match vrOutside c a esize k with
  | some i => capViol 0 2 (a + i * esize)
  | none => pure ()

/-- Elements of a block as read: code and poison. -/
def vrElems (esize : Nat) : Nat → List PByte → List PLane
  | 0, _ => []
  | k + 1, bs => (bytesVal (bs.take esize), bytesPoison (bs.take esize)) :: vrElems esize k (bs.drop esize)

/-- The results of an in-place block, as bytes. -/
def vrMapped (fmt esize : Nat) : List (PLane × Num) → M (List PByte)
  | [] => pure []
  | (x, r) :: rest => do
    let code ← if x.2 then pure 0 else vrOut fmt r
    let bs ← vrMapped fmt esize rest
    pure (mkBytes esize code x.2 ++ bs)

/-- One block of a VR instruction from element i on. -/
def vrBlock (t : Tid) (vd : RIdx) (c : Cap) (a : Nat) (fmt : Nat) (kind : VrKind) (i k : Nat) : M Unit := do
  let esize := vrSize fmt
  let at_ := a + i * esize
  vrChecks t c (if kind.stores then permLD + permST else permLD) at_ esize k
  let bs ← loadBytes t c.space at_ (k * esize)
  let xs := (vrElems esize k bs).map (fun x => (vrIn fmt x.1, x.2))
  let v ← vget t vd
  let m := v.lane32 124
  let sc := v.lane32 125
  let ti := v.lane32 126
  match kind with
  | .sum usesM f =>
    let terms := xs.map (fun x => (f x.1 m.1, x.2 || (usesM && m.2)))
    vput t vd (combineAt (i / 128) 32 0 v (blockSum terms))
  | .max =>
    let r := xs.foldl (fun (r : PLane) x => (fMax fp32 r.1 x.1, r.2 || x.2)) (if i = 0 then (f32ninf, false) else v.lane32 127)
    vput t vd (v.setLane32 127 r)
  | .map usesS usesT f =>
    let ys := (xs.zip (upto k)).map (fun p =>
      ((p.1.1, p.1.2 || m.2 || (usesS && sc.2) || (usesT && ti.2)), f (i + p.2) p.1.1 m.1 sc.1 ti.1))
    let out ← vrMapped fmt esize ys
    storeBytes t c.space at_ out false

/-- The blocks of a VR instruction from the iteration counter on; lim blocks at most in this issue (R161). -/
def vrLoop (t : Tid) (vd : RIdx) (c : Cap) (a fmt : Nat) (kind : VrKind) (n : Nat) : Nat → Option Nat → M Unit
  | 0, _ => pure ()
  | f + 1, lim => do
    let th ← getT t
    let i := th.iter.toNat
    if n ≤ i then pure ()
    else if lim = some 0 then pauseM
    else
      let k := min 128 (n - i)
      vrBlock t vd c a fmt kind i k
      modT t (fun h => { h with iter := BitVec.ofNat 32 (i + k) })
      vrLoop t vd c a fmt kind n f (lim.map (fun l => l - 1))

/-- A start with PROG 0 clears lanes 0 to 31 and 127 (R158). -/
def vrClear (v : VReg) : VReg :=
  ((upto 16).foldl (fun (x : VReg) k => x.setWord k (0, false)) v).setLane32 127 (f32zero, false)

/-- The common part of the VR instructions: encoding, wait, operands, PROG (R157, R162). Answers n, the capability and the
address. -/
def vrStart (t : Tid) (cs : PIdx) (m : VMForm) (fmt : BitVec 4) : M (Nat × Cap × Nat) := do
  if 4 < fmt.toNat then illegal
  lvReady t
  let th ← getT t
  let r := th.g (vmCount m)
  let n := r.val.toNat
  let o := opnd 9 .count r
  countFirst o (decide (2 ^ 32 ≤ n)) 0x10 []
  if !o.bad && !o.traps && (th.iter.toNat % 128 ≠ 0 || n < th.iter.toNat) then illegal 0x61
  checkOps (vmOps th cs m)
  pure (n, (th.cap cs).toCap, vmAddr th cs m 0)

/-- A VR instruction over all of its elements. -/
def vrOp (t : Tid) (vd : RIdx) (cs : PIdx) (m : VMForm) (fmt : BitVec 4) (kind : VrKind) (lim : Option Nat) : M Unit := do
  let (n, c, a) ← vrStart t cs m fmt
  let th ← getT t
  if th.iter = 0 then
    -- the first element's checks come before any side effect
    if n ≠ 0 then
      vrChecks t c (if kind.stores then permLD + permST else permLD) a (vrSize fmt.toNat) (min 128 n)
      let _ ← xlateAll t c.space .read (pieces 8 a (vrSize fmt.toNat * min 128 n))
    modT t (fun h => { h with vregs := h.vregs.set vd.val (vrClear h.vregs[vd.val]) })
  vrLoop t vd c a fmt.toNat kind n (n / 128 + 1) lim
  match kind with
  | .sum _ _ =>
    let v ← vget t vd
    vput t vd (v.setLane32 127 (foldLevels ((n + 127) / 128) v))
  | .max =>
    if n = 0 then do
      let v ← vget t vd
      vput t vd (v.setLane32 127 (f32ninf, false))
  | .map _ _ _ => pure ()

/-- A VR instruction, resumable from PROG (R161). -/
def vrInstr (t : Tid) (vd : RIdx) (cs : PIdx) (m : VMForm) (fmt : BitVec 4) (kind : VrKind) (lim : Option Nat) (s : State) :
    Host.Outcome State Fault Refusal :=
  runInstr t { len := lenOf m.isExt, ext := m.isExt, resumable := true } (plain (vrOp t vd cs m fmt kind lim)) s

/-- The exact value of an FP32 code. -/
def f32 (x : Nat) : Num := decodeF fp32 x

/-- VNORM.SUM (R158). -/
def execVnormSum (t : Tid) (vd : RIdx) (cs : PIdx) (m : VMForm) (fmt : BitVec 4) (lim : Option Nat) (s : State) :=
  vrInstr t vd cs m fmt (.sum false (fun x _ => x)) lim s
/-- VNORM.SSQ: x × x, rounded (R158). -/
def execVnormSsq (t : Tid) (vd : RIdx) (cs : PIdx) (m : VMForm) (fmt : BitVec 4) (lim : Option Nat) (s : State) :=
  vrInstr t vd cs m fmt (.sum false (fun x _ => fMul fp32 .rne x x)) lim s
/-- VNORM.SCALE: x × m, rounded to its format, in place (R158). -/
def execVnormScale (t : Tid) (vd : RIdx) (cs : PIdx) (m : VMForm) (fmt : BitVec 4) (lim : Option Nat) (s : State) :=
  vrInstr t vd cs m fmt (.map false false (fun _ x p _ _ => (f32 x).mul (f32 p))) lim s
/-- VSMAX.MAX (R158, R159). -/
def execVsmaxMax (t : Tid) (vd : RIdx) (cs : PIdx) (m : VMForm) (fmt : BitVec 4) (lim : Option Nat) (s : State) :=
  vrInstr t vd cs m fmt .max lim s
/-- VSMAX.SUM (R158). -/
def execVsmaxSum (t : Tid) (vd : RIdx) (cs : PIdx) (m : VMForm) (fmt : BitVec 4) (lim : Option Nat) (s : State) :=
  vrInstr t vd cs m fmt (.sum true expTerm) lim s
/-- VSMAX.NORM: exp(x − m) ÷ s, each step rounded, in place (R158). -/
def execVsmaxNorm (t : Tid) (vd : RIdx) (cs : PIdx) (m : VMForm) (fmt : BitVec 4) (lim : Option Nat) (s : State) :=
  vrInstr t vd cs m fmt (.map true false (fun _ x p q _ => f32 (fDiv fp32 .rne (expTerm x p) q))) lim s
/-- VLOSS.GRAD: exp(x − m) ÷ s − d, d being 1 for element t (R158). -/
def execVlossGrad (t : Tid) (vd : RIdx) (cs : PIdx) (m : VMForm) (fmt : BitVec 4) (lim : Option Nat) (s : State) :=
  vrInstr t vd cs m fmt
    (.map true true (fun i x p q ti => f32 (fSub fp32 .rne (fDiv fp32 .rne (expTerm x p) q) (if i = ti then f32one else f32zero))))
    lim s

/-- VLOSS.XENT: (ln s + m) − x_t; ARITH with detail 0x02 for t ≥ n (R158, R159). -/
def execVlossXent (t : Tid) (vd : RIdx) (cs : PIdx) (m : VMForm) (fmt : BitVec 4) (s : State) :
    Host.Outcome State Fault Refusal :=
  runInstr t { len := lenOf m.isExt, ext := m.isExt, resumable := true } (plain (do
    let (n, c, a) ← vrStart t cs m fmt
    let esize := vrSize fmt.toNat
    let v ← vget t vd
    let ti := v.lane32 126
    let at_ := a + ti.1 * esize
    capUse t c a
    if c.has permRET then capViol 0 8 a
    capPerms c permLD a
    if ti.1 < n && (at_ < c.base || decide (c.top < at_ + esize)) then capViol 0 2 at_
    if a % esize ≠ 0 then raise vecAlign 0 a
    if n ≤ ti.1 then raise vecArith 2 0
    let bs ← loadBytes t c.space at_ esize
    let x := vrIn fmt.toNat (bytesVal bs)
    let pm := v.lane32 124
    let ps := v.lane32 125
    let r := fSub fp32 .rne (fAdd fp32 .rne (fln ps.1) pm.1) x
    let th ← getT t
    let v1 := if th.iter = 0 then vrClear v else v
    vput t vd (v1.setLane32 127 (r, bytesPoison bs || pm.2 || ps.2 || ti.2)))) s

end Sys2Proof.Machine
end

