-- ==== Sys2Proof/Machine/Tiles.lean ====
section
/-!
DEFINITION. Machine/Tiles.lean: tile groups and tile registers: TCFG, TREL, TSHAPE, TVALID, TMASK, TLD, TLD.ALL and TST
(R127 to R129, R165 to R180).
-/

namespace Sys2Proof.Machine

/-! ### Faults of the tile instructions (R167, R186, R187) -/

/-- TILE_SHAPE (R186). -/
def tileShape {α : Type} (operand dim reg member : Nat) : M α :=
  raise vecTileShape (operand * 2 ^ 20 + dim * 2 ^ 16 + reg * 2 ^ 8 + member % 8) 0

/-- TILE_FAULT (R187). -/
def tileFault {α : Type} (operand row reg faddr : Nat) : M α :=
  raise vecTileFault (operand * 2 ^ 20 + row * 2 ^ 8 + reg) faddr

/-- The thread's group; TILE_SHAPE with DIM 0x5 when it holds none (R167). -/
def theGroup (t : Tid) (operand member : Nat) : M TileGroup := do
  let th ← getT t
  match th.group with
  | some g => pure g
  | none => tileShape operand 5 0 member

/-- The physical register of a member of the group (R167). -/
def memberOf (t : Tid) (operand member : Nat) : M Nat := do
  let g ← theGroup t operand member
  match g.members[member]? with
  | some p => pure p
  | none => tileShape operand 5 0 member

/-- The partition the thread holds; TILE_SHAPE with DIM 0x6 when it holds none (R175, R197). -/
def thePart (t : Tid) : M Nat := do
  let g ← theGroup t 7 0
  match g.part with
  | some p => pure p
  | none => tileShape 7 6 0 0

/-- A register's state; one that is not listed holds nothing. -/
def Core.tile (k : Core) (p : Nat) : Tile := Tab.getD k.tiles p ⟨1, 4, 0, []⟩
/-- Reads a tile register of the thread's core. -/
def getTile (t : Tid) (p : Nat) : M Tile := fun s => .ok ((s.core t.core).tile p) s
/-- Writes a tile register of the thread's core. -/
def putTile (t : Tid) (p : Nat) (v : Tile) : M Unit := modC t.core (fun k => { k with tiles := Tab.put k.tiles p v })

/-- Whether a row is valid (R166). -/
def Tile.rowValid (v : Tile) (r : Nat) : Bool := v.valid.toNat.testBit r
/-- A row's contents. -/
def Tile.row (v : Tile) (r : Nat) : TRow := Tab.getD v.data r ⟨0, 0⟩
/-- A row written and valid. -/
def Tile.setRow (v : Tile) (r : Nat) (x : TRow) : Tile :=
  { v with data := Tab.put v.data r x, valid := v.valid ||| (1#128 <<< r) }
/-- A tile with no row valid (R166). -/
def Tile.cleared (v : Tile) : Tile := { v with valid := 0, data := [] }

/-- The bytes of a row, each with the poison mark of its 4-byte word. -/
def rowBytesOf (n : Nat) (x : TRow) : List PByte :=
  (upto n).map (fun i => (x.data / 256 ^ i % 256, bit x.poison (i / 4)))

/-- A row from bytes: a 4-byte word with a marked byte is poisoned (R168). -/
def rowOfBytes (bs : List PByte) : TRow :=
  ⟨bytesVal bs, (bs.zip (upto bs.length)).foldl (fun (m : Nat) x => if x.1.2 then Nat.lor m (2 ^ (x.2 / 4)) else m) 0⟩

/-- Whether a pass reads a register (R180). -/
def Pass.reads (q : Pass) (p : Nat) : Bool :=
  !q.isTz && (q.a == p || q.b.contains p || q.aScale == some p || q.bScale == some p)

/-- Whether an accepted pass of the core still reads a register. -/
def tileBusy (k : Core) (p : Nat) : Bool := k.parts.toList.any (fun pt => pt.queue.any (fun q => q.reads p))

/-- An instruction that writes a member waits for the passes that read it (R180). -/
def waitTile (t : Tid) (p : Nat) : M Unit := do
  let k ← getC t.core
  if tileBusy k p then waitFor .tileOrder

/-- Threads of a core that wait under R180 issue their instruction again. -/
def wakeTiles (s : State) (c : CoreId) : State :=
  (coreTids c).foldl (fun (st : State) t =>
    let th := st.th t
    if th.status = .waiting .tileOrder then st.setTh t { th with status := .active, waitsWith := none } else st) s

/-! ### TCFG (R127, R128, R171 to R173) -/

/-- The configuration block of R171 as a number of 64 bytes: member shapes and the partition code; none for RANGE. -/
def tcfgBlock (b : Nat) : Option (List (Nat × Nat) × Nat) :=
  let count := fld b 3 0
  let word (k : Nat) : Nat := fld b (8 * (8 + 4 * k) + 31) (8 * (8 + 4 * k))
  let shapes := (upto count).map (fun k => (fld (word k) 6 0 + 1, (fld (word k) 14 8 + 1) * 4))
  let reservedOk := fld b 7 4 == 0 && fld b 15 10 == 0 && fld b 63 16 == 0 && fld b 511 320 == 0 &&
    (upto count).all (fun k => !bit (word k) 7 && fld (word k) 31 15 == 0)
  if count = 0 || 8 < count || !reservedOk || shapes.any (fun x => decide (32768 < x.1 * x.2)) then none
  else some (shapes, fld b 9 8)

/-- The width of a partition code (R171). -/
def partWidth (code : Nat) : Nat := if code = 0 then 0 else 64 * 2 ^ code

/-- The partition that a request of a width can take: none free, or another width in use (R173). -/
def freePart (k : Core) (w : Nat) : Option Nat :=
  let used := (upto 4).filter (fun i => (k.part i).holder.isSome || (k.part i).draining)
  if used.any (fun i => (k.part i).width != w) then none
  else (upto (512 / w)).find? (fun i => !used.contains i)

/-- Whether a request can be granted now: its free registers, lowest first, and its partition. -/
def tileFits (k : Core) (r : TileReq) : Option (List Nat × Option Nat) :=
  let free := (upto 64).filter (fun p => (Tab.get? k.tiles p).isNone)
  if free.length < r.shapes.length then none
  else if r.part = 0 then some (free.take r.shapes.length, none)
  else match freePart k (partWidth r.part) with
    | none => none
    | some i => some (free.take r.shapes.length, some i)

/-- The member map of R172. -/
def memberMap (members : List Nat) (part : Nat) (idx : Option Nat) : Nat :=
  packBits 6 members + idx.getD 0 * 2 ^ 48 + part * 2 ^ 50

/-- The grant of a request (R166, R172, R173, R181): registers with no valid row, the partition zero-flagged. -/
def tileGrant (s : State) (r : TileReq) (regs : List Nat) (idx : Option Nat) : State :=
  let t := tidOf r.thread
  let th := s.th t
  let k := s.core t.core
  let k1 := (regs.zip r.shapes).foldl (fun (k : Core) x => { k with tiles := Tab.put k.tiles x.1 ⟨x.2.1, x.2.2, 0, []⟩ }) k
  let k2 := match idx with
    | none => k1
    | some i => k1.setPart i { Partition.reset with width := partWidth r.part, holder := some r.thread }
  let g := th.groupGen + 1
  let h := handleWord 5 th.tenancy.val th.dev g t.val
  let s1 := s.setCore t.core k2
  s1.setTh t ({ th with group := some ⟨regs, idx, g⟩, groupGen := g }.writePair r.rd
    ⟨⟨h, .handle⟩, .int (BitVec.ofNat 64 (memberMap regs r.part idx))⟩)

/-- TCFG (R127, R128, R171, R172). A poisoned configuration block raises POISON_USE with USE 0x3. -/
def execTcfg (t : Tid) (rd : RIdx) (cs : PIdx) (rx : RIdx) (s : State) :=
  simple t (do
    needEven [rd]
    let th ← getT t
    if th.group.isSome then illegal 0x41
    checkOps (csOps (th.cap cs) ++ [opnd 6 .index (th.g rx)])
    let c := (th.cap cs).toCap
    let a := intBits 64 (c.base + (th.g rx).val.toNat)
    dataChecks t c permLD a 64 64
    let bs ← loadBytes t c.space a 64
    if bytesPoison bs then raise vecPoisonUse (3 * 2 ^ 20) a
    match tcfgBlock (bytesVal bs) with
    | none => wrPair t rd ⟨.int (BitVec.ofNat 64 stRange), .int 0⟩
    | some (shapes, part) => do
      let r : TileReq := ⟨t.val, rd, shapes, part⟩
      let k ← getC t.core
      match k.tileWait, tileFits k r with
      | [], some (regs, idx) => modS (fun s1 => tileGrant s1 r regs idx)
      | _, _ => do
        modC t.core (fun k1 => { k1 with tileWait := k1.tileWait ++ [r] })
        waitFor .tileGrant) s

/-- TILE_GROUP_GRANT: the oldest waiting TCFG of a core receives its registers and partition when they are free (R128). -/
def execTileGroupGrant (t : Tid) (s : State) : Host.Outcome State Fault Refusal :=
  let k := s.core t.core
  match k.tileWait with
  | [] => .next s
  | r :: rest =>
    if r.thread ≠ t.val || (s.th t).status ≠ .waiting .tileGrant then .next s
    else match tileFits k r with
      | none => .next s
      | some (regs, idx) =>
        let s1 := s.setCore t.core { k with tileWait := rest }
        let s2 := tileGrant s1 r regs idx
        .next (advance t 4 none (s2.setTh t { s2.th t with status := .active, waitsWith := none }))

/-- TREL: no effect for a thread without a group (R174, R204). -/
def execTrel (t : Tid) (s : State) := simple t (modS (fun s1 => releaseGroup s1 t)) s

/-- The drain of a stopped partition ends: banks zero-flagged, partition and registers freed (R204). -/
def execPartitionDrainComplete (core : CoreId) (part : Fin 4) (s : State) : Host.Outcome State Fault Refusal :=
  let k := s.core core
  let p := k.part part.val
  if p.draining then .next (wakeTiles (s.setCore core (freeTiles (k.setPart part.val p.freed) p.drainRegs)) core)
  else .next s

/-! ### TSHAPE, TVALID, TMASK (R175) -/

/-- TSHAPE (R175): rs is read as an index, in slot 0x9. -/
def execTshape (t : Tid) (rs : RIdx) (s : State) :=
  simple t (do
    let v ← greg t rs
    checkOps [opnd 9 .index v]
    let x := v.val.toNat
    let m := x % 8
    let p ← memberOf t 6 m
    let rows := fld x 14 8 + 1
    let rb := (fld x 22 16 + 1) * 4
    if 32768 < rows * rb then tileShape 6 9 p m
    waitTile t p
    putTile t p ⟨rows, rb, 0, []⟩) s

/-- TVALID (R175). -/
def execTvalid (t : Tid) (rd rs : RIdx) (s : State) :=
  simple t (do
    needEven [rd]
    let v ← greg t rs
    checkOps [opnd 9 .index v]
    let p ← memberOf t 6 (v.val.toNat % 8)
    let x ← getTile t p
    wrPair t rd ⟨.int (BitVec.ofNat 64 x.valid.toNat), .int (BitVec.ofNat 64 (x.valid.toNat / 2 ^ 64))⟩) s

/-- TMASK (R175, R193). Class 0xA raises nothing on POISON and the spec states no mask for it: the mask is then free. -/
def execTmask (t : Tid) (rs : RIdx) (s : State) :=
  simple t (do
    needEven [rs]
    let th ← getT t
    let p := th.pair rs
    checkOps (svOps 9 p)
    let i ← thePart t
    let m ← if pairPoison p then runS (drawBits 4) else pure (p.a.val.toNat + 2 ^ 64 * p.b.val.toNat)
    modC t.core (fun k => k.setPart i { k.part i with mask := BitVec.ofNat 128 m })) s

/-! ### TLD, TLD.ALL, TST (R176 to R179) -/

/-- The operands of a tile load or store: cs, rx where there is one, and rstride (slot 0x9, or 0x0 when extended). -/
def tmOps (th : Thread) (cs : PIdx) (m : TMForm) : List Opnd :=
  csOps (th.cap cs) ++ match m with
    | .short rx rstride => [opnd 6 .index (th.g rx), opnd 9 .index (th.g rstride)]
    | .ext rstride _ => [opnd 0 .index (th.g rstride)]

/-- The address of row r (R176). -/
def rowAddr (th : Thread) (cs : PIdx) (m : TMForm) (r : Nat) : Nat :=
  let base : Int := (th.cap cs).toCap.base
  match m with
  | .short rx rstride => intBits 64 (base + (th.g rx).val.toNat + r * (th.g rstride).val.toInt)
  | .ext rstride imm => intBits 64 (base + imm.toInt + r * (th.g rstride).val.toInt)

/-- Progress of a resumable tile instruction. -/
def setIter (t : Tid) (n : Nat) : M Unit := modT t (fun th => { th with iter := BitVec.ofNat 32 n })

/-- Loads one row. -/
def loadRow (t : Tid) (p : Nat) (c : Cap) (a r : Nat) : M Unit := do
  let v ← getTile t p
  dataChecks t c permLD a v.rowBytes 4
  let bs ← demandBytes t c a v.rowBytes
  let v1 ← getTile t p
  putTile t p (v1.setRow r (rowOfBytes bs))

/-- TLD's rows from r on: rows already valid are not read; lim rows at most in this issue (R177). -/
def tldRows (t : Tid) (p : Nat) (c : Cap) (addr : Nat → Nat) (rows : Nat) : Nat → Nat → Option Nat → M Unit
  | 0, _, _ => pure ()
  | f + 1, r, lim => do
    let v ← getTile t p
    if rows ≤ r then pure ()
    else if v.rowValid r then tldRows t p c addr rows f (r + 1) lim
    else do
      setIter t r
      if lim = some 0 then pauseM
      loadRow t p c (addr r) r
      tldRows t p c addr rows f (r + 1) (lim.map (fun l => l - 1))

/-- TLD (R176, R177). -/
def execTld (t : Tid) (td : MIdx) (cs : PIdx) (m : TMForm) (lim : Option Nat) (s : State) :=
  runInstr t { len := lenOf m.isExt, ext := m.isExt, resumable := true } (plain (do
    let th ← getT t
    checkOps (tmOps th cs m)
    let p ← memberOf t 6 td.val
    waitTile t p
    let v ← getTile t p
    tldRows t p (th.cap cs).toCap (rowAddr th cs m) v.rows v.rows 0 lim)) s

/-- Rows from the iteration counter on, one action each; lim rows at most in this issue. -/
def rowsFrom (t : Tid) (act : Nat → M Unit) (rows : Nat) : Nat → Option Nat → M Unit
  | 0, _ => pure ()
  | f + 1, lim => do
    let th ← getT t
    let r := th.iter.toNat
    if rows ≤ r then pure ()
    else if lim = some 0 then pauseM
    else do
      act r
      setIter t (r + 1)
      rowsFrom t act rows f (lim.map (fun l => l - 1))

/-- TLD.ALL: the bitmap is cleared by a start with PROG 0, once the first row's authority and alignment hold (R178). -/
def execTldAll (t : Tid) (td : MIdx) (cs : PIdx) (m : TMForm) (lim : Option Nat) (s : State) :=
  runInstr t { len := lenOf m.isExt, ext := m.isExt, resumable := true } (plain (do
    let th ← getT t
    checkOps (tmOps th cs m)
    let p ← memberOf t 6 td.val
    let v ← getTile t p
    if v.rows ≤ th.iter.toNat then illegal 0x61
    waitTile t p
    let c := (th.cap cs).toCap
    if th.iter = 0 then
      dataChecks t c permLD (rowAddr th cs m 0) v.rowBytes 4
      putTile t p v.cleared
    rowsFrom t (fun r => loadRow t p c (rowAddr th cs m r) r) v.rows (v.rows + 1) lim)) s

/-- Stores one row: its authority, alignment and translation, then its validity (R68, R176, R179). -/
def storeRow (t : Tid) (p : Nat) (c : Cap) (a r : Nat) : M Unit := do
  let v ← getTile t p
  dataChecks t c permST a v.rowBytes 4
  let _ ← xlateAll t c.space .write (pieces 8 a v.rowBytes)
  if !v.rowValid r then tileFault 6 r p a
  storeBytes t c.space a (rowBytesOf v.rowBytes (v.row r)) false

/-- TST (R176, R179). -/
def execTst (t : Tid) (td : MIdx) (cs : PIdx) (m : TMForm) (lim : Option Nat) (s : State) :=
  runInstr t { len := lenOf m.isExt, ext := m.isExt, resumable := true } (plain (do
    let th ← getT t
    checkOps (tmOps th cs m)
    let p ← memberOf t 6 td.val
    let v ← getTile t p
    if v.rows ≤ th.iter.toNat then illegal 0x61
    rowsFrom t (fun r => storeRow t p (th.cap cs).toCap (rowAddr th cs m r) r) v.rows (v.rows + 1) lim)) s

end Sys2Proof.Machine
end

