-- ==== Sys2Proof/Machine/Arrays.lean ====
section
/-!
DEFINITION. Machine/Arrays.lean: the matrix arrays: the checks of a pass, the arithmetic of the cells, the queue of a
partition, TMMA, TMMA.CVT, TMMA.CVT.F, TZ and TRDA (R181 to R203, R206).
-/

namespace Sys2Proof.Machine

/-! ### Reading elements -/

/-- The elements of a row under a format, each with the poison of the 4-byte words it lies in (R168, R209). -/
def rowElems (c : Nat) (mx : Bool) (n : Nat) (x : TRow) : List (Num × Bool) :=
  let w := fmtBits c
  (upto n).map (fun i => (elemNum c mx (x.data / 2 ^ (w * i) % 2 ^ w),
    bit x.poison (w * i / 32) || bit x.poison ((w * i + w - 1) / 32)))

/-- The first n bytes of a row of scales, each with its poison (R184). -/
def rowScales (n : Nat) (x : TRow) : List (Nat × Bool) := (rowBytesOf n x)

/-- A row of a partition bank as cells: FP32 or INT32 bits and poison; a zero-flagged row reads as zero (R181). -/
def Bank.cells (b : Bank) (w r : Nat) : List (Nat × Bool) :=
  let x := if b.zero.toNat.testBit r then ⟨0, 0⟩ else Tab.getD b.rows r ⟨0, 0⟩
  (upto w).map (fun j => (x.data / 2 ^ (32 * j) % 2 ^ 32, bit x.poison j))

/-- A row of a bank written; its zero flag is clear (R181). -/
def Bank.putCells (b : Bank) (r : Nat) (cs : List (Nat × Bool)) : Bank :=
  { b with zero := b.zero &&& ~~~(1#128 <<< r),
           rows := Tab.put b.rows r ⟨packBits 32 (cs.map (fun c => c.1)), packBits 1 (cs.map (fun c => b2n c.2))⟩ }

/-- The zero flags of rows set (R181, R201). -/
def Bank.zeroRows (b : Bank) (rs : List Nat) : Bank :=
  rs.foldl (fun (k : Bank) r => { k with zero := k.zero ||| (1#128 <<< r), rows := Tab.del k.rows r }) b

/-- A bank of a partition. -/
def Partition.bank (p : Partition) (b : Fin 2) : Bank := if b = 0 then p.bank0 else p.bank1
/-- A partition with a bank replaced. -/
def Partition.setBank (p : Partition) (b : Fin 2) (v : Bank) : Partition :=
  if b = 0 then { p with bank0 := v } else { p with bank1 := v }

/-! ### Arithmetic in the cells (R188 to R191) -/

/-- The products of one A element with a row of B, one per column. -/
def productsOf (a : Num × Bool) (bs : List (Num × Bool)) : List (Num × Bool) :=
  bs.map (fun b => (a.1.mul b.1, a.2 || b.2))

/-- The exact sums, column by column, of rows of products, from the first product on. -/
def sumProducts : List (List (Num × Bool)) → List (Num × Bool)
  | [] => []
  | r :: rs => rs.foldl (fun x y => List.zipWith (fun p q => (p.1.add .rne q.1, p.2 || q.2)) x y) r

/-- An addend joins an accumulator element: a poisoned element is 0 and stays poisoned (R191). -/
def joinCell (f : Nat → Nat) (bad : Bool) (c : Nat × Bool) : Nat × Bool :=
  if bad || c.2 then (0, true) else (f c.1, false)

/-- The list cut into runs of n. -/
def chunksOf {α : Type} (n : Nat) : Nat → List α → List (List α)
  | 0, _ => []
  | f + 1, l => match l with
    | [] => []
    | _ => l.take n :: chunksOf n f (l.drop n)

/-- One group of at most 32 products into a row of cells (R188): sum, scale by 2^(XA + XB − 254), round, add. -/
def groupStep (cells : List (Nat × Bool)) (as : List (Num × Bool)) (bs : List (List (Num × Bool))) (xa : Nat × Bool)
    (xb : List (Nat × Bool)) : List (Nat × Bool) :=
  let sums := sumProducts (List.zipWith productsOf as bs)
  (cells.zip (sums.zip xb)).map (fun c =>
    let x := c.2.2
    let v : Num := if xa.1 = 255 || x.1 = 255 then .nan else c.2.1.1.scale ((xa.1 : Int) + x.1 - 254)
    joinCell (fun acc => fAdd fp32 .rne acc (encodeF fp32 .rne v)) (c.2.1.2 || xa.2 || x.2) c.1)

/-- The groups of a row in ascending order (R188). -/
def groupSteps : List (List (Num × Bool) × List (List (Num × Bool)) × (Nat × Bool) × List (Nat × Bool)) →
    List (Nat × Bool) → List (Nat × Bool)
  | [], cs => cs
  | g :: gs, cs => groupSteps gs (groupStep cs g.1 g.2.1 g.2.2.1 g.2.2.2)

/-- The integer that an exact integer product stands for. -/
def numInt : Num → Int
  | .fin neg m _ => if neg then -(m : Int) else m
  | _ => 0

/-- One product per cell added: rounded to FP32 (R189), or as an integer modulo 2^32 (R190). -/
def productStep (integer : Bool) (cells : List (Nat × Bool)) (a : Num × Bool) (b : List (Num × Bool)) : List (Nat × Bool) :=
  (cells.zip (productsOf a b)).map (fun c =>
    joinCell (fun acc => if integer then (acc + intBits 32 (numInt c.2.1)) % 2 ^ 32
                         else fAdd fp32 .rne acc (encodeF fp32 .rne c.2.1)) c.2.2 c.1)

/-- Whether a pass is an integer pass without block scaling (R182). -/
def Pass.integer (q : Pass) : Bool :=
  fmtIsInt (fmtOf q.fmtA).format && !(fmtOf q.fmtA).mx && !(fmtOf q.fmtB).mx

/-- The kind a pass gives a bank (R182). -/
def Pass.kind (q : Pass) : BankKind := if q.integer then .int32 else .fp32

/-- Whether a row is masked for the pass (R193): the mask already holds the rows at or above M. -/
def Pass.masked (q : Pass) (r : Nat) : Bool := q.mask.toNat.testBit r
/-- The rows that a pass feeds. -/
def Pass.liveRows (q : Pass) : List Nat := (upto 128).filter (fun r => !q.masked r)

/-- The rows of B over the width of a partition: member after member (R184). -/
def bRows (k : Core) (q : Pass) (w : Nat) : List (List (Num × Bool)) :=
  let d := fmtOf q.fmtB
  let n := w / max 1 q.b.length
  (upto q.k).map (fun r => (q.b.map (fun p => rowElems d.format d.mx n ((k.tile p).row r))).flatten)

/-- One row of a bank after a pass (R188 to R191). -/
def passRow (k : Core) (q : Pass) (w : Nat) (bs : List (List (Num × Bool))) (r : Nat) (cells : List (Nat × Bool)) :
    List (Nat × Bool) :=
  let da := fmtOf q.fmtA
  let as := rowElems da.format da.mx q.k ((k.tile q.a).row r)
  if q.integer || fmtClass da.format = 2 then
    (as.zip bs).foldl (fun (cs : List (Nat × Bool)) x => productStep q.integer cs x.1 x.2) cells
  else
    let groups := (q.k + 31) / 32
    let xa := match q.aScale with
      | some p => rowScales groups ((k.tile p).row r)
      | none => List.replicate groups (127, false)
    let xb := (upto groups).map (fun g => match q.bScale with
      | some p => rowScales w ((k.tile p).row g)
      | none => List.replicate w (127, false))
    groupSteps ((chunksOf 32 groups as).zip ((chunksOf 32 groups bs).zip (xa.zip xb))) cells

/-- A pass performed into a bank: kind, scales, the unmasked rows (R181, R182, R193). -/
def passInto (k : Core) (w : Nat) (q : Pass) (b : Bank) : Bank :=
  let bs := bRows k q w
  let b1 := { b with kind := if b.kind = .unset then q.kind else b.kind, last := some (q.fmtA, q.fmtB) }
  q.liveRows.foldl (fun (x : Bank) r => x.putCells r (passRow k q w bs r (x.cells w r))) b1

/-! ### The queue of a partition (R195, R197, R198) -/

/-- Multiply-accumulates of a pass (R206). -/
def Pass.macs (q : Pass) (w : Nat) : Nat := q.liveRows.length * w * q.k

/-- Whether a partition's queue of two passes is full: one feeds and one waits (R197). -/
def Partition.full (p : Partition) : Bool :=
  let st := (p.queue.filter (fun q => q.started)).length
  decide (2 ≤ min 1 st + (p.queue.length - st))

/-- The head of a queue takes effect and leaves it. -/
def Core.finishHead (k : Core) (p : Nat) : Core :=
  let pt := k.part p
  match pt.queue with
  | [] => k
  | q :: rest =>
    let pt1 := { pt with queue := rest }
    if q.isTz then k.setPart p (pt1.setBank q.bank Bank.reset)
    else k.setPart p (pt1.setBank q.bank (passInto k pt.width q (pt.bank q.bank)))

/-- Counts the work of a pass as it starts feeding (R206): a pass dropped before it started adds nothing. -/
def countPass (s : State) (pt : Partition) (q : Pass) : State :=
  let sp := match pt.holder with
    | some n => (s.th (tidOf n)).space
    | none => 16
  s.count sp (fmtOf q.fmtA).format (q.macs pt.width)

/-- Every entry of a queue takes effect, in order; entries not started are counted. -/
def finishQueue (c : CoreId) (p : Nat) : Nat → State → State
  | 0, s => s
  | f + 1, s =>
    let pt := (s.core c).part p
    match pt.queue with
    | [] => s
    | q :: _ =>
      let s1 := if q.isTz || q.started then s else countPass s pt q
      finishQueue c p f (s1.setCore c ((s1.core c).finishHead p))

/-- The kind a bank will have once the queue has taken effect (R182). -/
def Partition.kindAfter (p : Partition) (b : Fin 2) : BankKind :=
  p.queue.foldl (fun (k : BankKind) q => if q.bank ≠ b then k else if q.isTz then .unset
    else if k = .unset then q.kind else k) (p.bank b).kind

/-! ### The checks of a pass (R167, R182 to R185) -/

/-- What a pass will do: the entry, the partition with its width, and the D members of a converting form. -/
structure PassPlan where
  pass : Pass
  part : Nat
  width : Nat
  dregs : List Nat
  dscale : Option Nat
deriving DecidableEq, Repr

/-- One member with a row of so many bits, or two that share it; both only where the rule allows (R184). -/
def spanOf (t : Tid) (operand m bits rows : Nat) (two : Bool) : M (List Nat) := do
  let p ← memberOf t operand m
  let v ← getTile t p
  if v.rows ≠ rows then tileShape operand 0 p m
  if 8 * v.rowBytes = bits then pure [p]
  else if !two || 16 * v.rowBytes ≠ bits then tileShape operand 1 p m
  else do
    let p2 ← memberOf t operand (m + 1)
    let v2 ← getTile t p2
    if v2.rows ≠ v.rows then tileShape operand 0 p2 (m + 1)
    if v2.rowBytes ≠ v.rowBytes then tileShape operand 1 p2 (m + 1)
    pure [p, p2]

/-- A member of scales: its rows, and at least or exactly so many bytes a row (R184). -/
def scaleOf (t : Tid) (operand m rows bytes : Nat) (exact : Bool) : M Nat := do
  let p ← memberOf t operand m
  let v ← getTile t p
  if v.rows ≠ rows then tileShape operand 0 p m
  if v.rowBytes < bytes || (exact && v.rowBytes != bytes) then tileShape operand 1 p m
  pure p

/-- TILE_FAULT at the lowest row of a member that is not valid among those listed (R185). -/
def needRows (t : Tid) (operand p : Nat) (rows : List Nat) : M Unit := do
  let v ← getTile t p
  match rows.find? (fun r => !v.rowValid r) with
  | some r => tileFault operand r p 0
  | none => pure ()

/-- The formats of A, B and D (R183, R207). -/
def formatChecks (a b : Fmt) (d : Option Fmt) : M Unit := do
  if !fmtArray a.format || (a.mx && !fmtMx a.format) then tileShape 0 4 0 0
  if !fmtArray b.format || (b.mx && !fmtMx b.format) || fmtClass a.format != fmtClass b.format ||
      fmtIsInt a.format != fmtIsInt b.format then tileShape 1 4 0 0
  match d with
  | none => pure ()
  | some d => if !fmtReadout d.format || (d.mx && !fmtMx d.format) then tileShape 2 4 0 0

/-- The D members of a converting form, with their scale member. -/
def dMembers (t : Tid) (w m : Nat) : Option (MIdx × Word) → M (List Nat)
  | none => pure []
  | some (td, wd) => spanOf t 2 td.val (w * fmtStore (fmtOf wd).format) m true

/-- Refuses a D member that is also an operand (R184). -/
def noOverlap (t : Tid) (operand m : Nat) (reads : List Nat) : List Nat → M Unit
  | [] => pure ()
  | p :: ps => do
    if reads.contains p then tileShape operand 8 p m
    noOverlap t operand (m + 1) reads ps

/-- The checks of R182 to R185 in their order, before any side effect; answers what the pass will do. -/
def passPlan (t : Tid) (ta tb : MIdx) (bank : Fin 2) (wa wb : Word) (d : Option (MIdx × Word)) : M PassPlan := do
  let i ← thePart t
  let k ← getC t.core
  let pt := k.part i
  let w := pt.width
  let fa := fmtOf wa
  let fb := fmtOf wb
  formatChecks fa fb (d.map (fun x => fmtOf x.2))
  let a ← memberOf t 0 ta.val
  let b0 ← memberOf t 1 tb.val
  let ra ← getTile t a
  let rb ← getTile t b0
  let m := ra.rows
  let kk := rb.rows
  if 8 * ra.rowBytes ≠ kk * fmtBits fa.format then tileShape 0 1 a ta.val
  if fa.mx && kk % 32 != 0 then tileShape 0 2 a ta.val
  let bs ← spanOf t 1 tb.val (w * fmtBits fb.format) kk (decide (4096 < w * fmtBits fb.format))
  if fb.mx && kk % 32 != 0 then tileShape 1 2 b0 tb.val
  let dregs ← dMembers t w m d
  let sa ← if fa.mx then do pure (some (← scaleOf t 3 (ta.val + 1) m (kk / 32) false)) else pure none
  let sb ← if fb.mx then do pure (some (← scaleOf t 4 (tb.val + bs.length) (kk / 32) w true)) else pure none
  let sd ← match d with
    | some (td, wd) =>
      if (fmtOf wd).mx then do pure (some (← scaleOf t 5 (td.val + dregs.length) m (w / 32) false)) else pure none
    | none => pure none
  let reads := [a] ++ bs ++ sa.toList ++ sb.toList
  let td := match d with
    | some x => x.1.val
    | none => 0
  noOverlap t 2 td reads dregs
  noOverlap t 5 (td + dregs.length) reads sd.toList
  let mask := pt.mask ||| BitVec.ofNat 128 (2 ^ 128 - 2 ^ m)
  let q : Pass := { isTz := false, bank := bank, a := a, b := bs, aScale := sa, bScale := sb, fmtA := wa, fmtB := wb,
                    k := kk, m := m, mask := mask, started := false }
  let kind := pt.kindAfter bank
  if kind ≠ .unset && kind ≠ q.kind then tileShape 7 7 0 0
  needRows t 0 a q.liveRows
  bs.forM (fun p => needRows t 1 p (upto kk))
  sa.toList.forM (fun p => needRows t 3 p (upto m))
  sb.toList.forM (fun p => needRows t 4 p (upto (kk / 32)))
  pure ⟨q, i, w, dregs, sd⟩

/-! ### TMMA and TZ (R197, R198) -/

/-- An entry joins the queue of a partition. -/
def enqueuePass (t : Tid) (p : Nat) (q : Pass) : M Unit := do
  let k ← getC t.core
  let pt := k.part p
  if pt.full then waitFor .tileQueue
  modC t.core (fun k1 => k1.setPart p { pt with queue := pt.queue ++ [q] })

/-- TMMA (R197). -/
def execTmma (t : Tid) (ta tb : MIdx) (bank : Fin 2) (rfa rfb : RIdx) (s : State) :=
  runInstr t { self := some (.tmma ta tb bank rfa rfb) } (plain (do
    let a ← greg t rfa
    let b ← greg t rfb
    checkOps [opnd 2 .fmt a, opnd 3 .fmt b]
    let q ← passPlan t ta tb bank a.val b.val none
    enqueuePass t q.part q.pass)) s

/-- TZ (R198): it completes when it is accepted. -/
def execTz (t : Tid) (bank : Fin 2) (s : State) :=
  runInstr t { self := some (.tz bank) } (plain (do
    let i ← thePart t
    enqueuePass t i { isTz := true, bank := bank, a := 0, b := [], aScale := none, bScale := none, fmtA := 0, fmtB := 0,
                      k := 0, m := 0, mask := 0, started := false })) s

/-- A queued pass starts feeding (R195): the first entry not started, once only passes stand before it. -/
def execTmmaPassStart (core : CoreId) (part : Fin 4) (s : State) : Host.Outcome State Fault Refusal :=
  let k := s.core core
  let pt := k.part part.val
  match pt.queue.find? (fun q => !q.started) with
  | none => .next s
  | some q =>
    if q.isTz then .next s
    else
      let n := (pt.queue.filter (fun x => x.started)).length
      let s1 := countPass s pt q
      .next (s1.setCore core ((s1.core core).setPart part.val { pt with queue := pt.queue.set n { q with started := true } }))

/-- A pass completes its last row (R194): its sums are in the bank, its operands are free (R180). The products of a
stopped partition are discarded (R204). -/
def execTmmaPassComplete (core : CoreId) (part : Fin 4) (s : State) : Host.Outcome State Fault Refusal :=
  let k := s.core core
  let pt := k.part part.val
  match pt.queue with
  | [] => .next s
  | q :: rest =>
    if !q.started then .next s
    else if pt.draining then .next (wakeTiles (s.setCore core (k.setPart part.val { pt with queue := rest })) core)
    else .next (wakeTiles (s.setCore core (k.finishHead part.val)) core)

/-- TZ's turn (R198): every zero flag of the bank in the partition is set, and its kind is unset. -/
def execTzTurn (core : CoreId) (part : Fin 4) (s : State) : Host.Outcome State Fault Refusal :=
  let k := s.core core
  match (k.part part.val).queue with
  | [] => .next s
  | q :: _ => if q.isTz then .next (wakeTiles (s.setCore core (k.finishHead part.val)) core) else .next s

/-! ### Conversions from a bank (R199 to R202) -/

/-- The exact value of a bank element (R181, R213). -/
def cellNum (kind : BankKind) (x : Nat) : Num :=
  if kind = .int32 then intNum (sext 32 x) else decodeF fp32 x

/-- A rectangle of a bank as conversion rows: local indices r × 512 + c (R231). -/
def bankRows (b : Bank) (w : Nat) (rows : List Nat) (c0 n : Nat) : List CvtRow :=
  rows.map (fun r => (r * 512 + c0, (slice (b.cells w r) c0 n).map (fun c => (cellNum b.kind c.1, c.2))))

/-- The scales of the last pass into a bank (R199, R213); 1 where no pass has been. -/
def bankScales (b : Bank) : Num × Num :=
  match b.last with
  | some (x, y) => (effScale (fmtOf x), effScale (fmtOf y))
  | none => (numOne, numOne)

/-- A row of converted elements: an element's poison marks the 4-byte words it lies in (R168). -/
def outRow (c : Nat) (es : List ElemOut) : TRow :=
  let w := fmtStore c
  ⟨packBits w (es.map (fun e => e.code)),
   (es.zip (upto es.length)).foldl (fun (m : Nat) x =>
     if x.1.poison then Nat.lor (Nat.lor m (2 ^ (w * x.2 / 32))) (2 ^ ((w * x.2 + w - 1) / 32)) else m) 0⟩

/-- Row r of the destination: its elements shared among the members, its block scales in the scale member. The bytes of
a scale row past its scales are free. -/
def putOut (t : Tid) (c r : Nat) (dregs : List Nat) (dscale : Option Nat) (o : RunOut) : M Unit := do
  let n := o.elems.length / max 1 dregs.length
  (dregs.zip (upto dregs.length)).forM (fun x => do
    let v ← getTile t x.1
    putTile t x.1 (v.setRow r (outRow c (slice o.elems (x.2 * n) n))))
  match dscale with
  | none => pure ()
  | some p => do
    let v ← getTile t p
    let left := v.rowBytes - o.scales.length
    let g ← runS (drawBits ((left + 3) / 4))
    putTile t p (v.setRow r ⟨packBits 8 o.scales + g % 256 ^ left * 256 ^ o.scales.length, 0⟩)

/-- A run of zero elements and zero block scales: what a probe writes (R222). -/
def zeroRun (mx : Bool) (n : Nat) : RunOut :=
  ⟨List.replicate n ⟨0, false, false, false, false⟩, if mx then List.replicate ((n + 31) / 32) 0 else [], []⟩

/-- A bank readout through a descriptor into destination rows dst (R199, R200, R213 to R235). Answers the detail word of
SCALE_EXHAUSTED where the exception is selected. -/
def readout (t : Tid) (rfd : RIdx) (wd : Word) (rcd : Nat) (scales : Num × Num) (rows : List CvtRow) (dst : List Nat)
    (source : Nat) (dregs : List Nat) (dscale : Option Nat) : M (Option Nat) := do
  let d := fmtOf wd
  if d.probe then do
    foldAmax t d (probeMax scales.1 scales.2 rows)
    (dst.zip rows).forM (fun x => putOut t d.format x.1 dregs dscale (zeroRun d.mx x.2.2.length))
    pure none
  else do
    let r ← convertRows t d rcd scales.1 scales.2 rows source dst
    match r.exhausted with
    | some detail => do
      (dregs ++ dscale.toList).forM (fun p => do
        let v ← getTile t p
        putTile t p v.cleared)
      pure (some detail)
    | none => do
      (dst.zip r.rows).forM (fun x => putOut t d.format x.1 dregs dscale x.2)
      wr t rfd ⟨fmtWriteBack wd r.scale r.retry, .fmt⟩
      pure none

/-- TMMA.CVT and TMMA.CVT.F (R200 to R203). Once accepted, the instruction runs to its end in one step: the passes before
it, its own pass, and the conversion with its retries, which give the same bits however often the pass is recomputed. -/
def mmaCvt (t : Tid) (td ta tb : MIdx) (bank : Fin 2) (rfa rfb rfd : RIdx) (fused : Bool) : M Unit := do
  let a ← greg t rfa
  let b ← greg t rfb
  let d ← greg t rfd
  checkOps [opnd 2 .fmt a, opnd 3 .fmt b, opnd 0xA .fmt d]
  let p ← passPlan t ta tb bank a.val b.val (some (td, d.val))
  (p.dregs ++ p.dscale.toList).forM (waitTile t)
  let k ← getC t.core
  if (k.part p.part).full then waitFor .tileQueue
  let rcd ← readTensor t (fmtOf d.val)
  if (fmtOf d.val).probe then amaxReady t (fmtOf d.val)
  let q := p.pass
  modS (fun s => finishQueue t.core p.part 3 s)
  modS (fun s => countPass s ((s.core t.core).part p.part) q)
  let k1 ← getC t.core
  let pt := k1.part p.part
  let b0 := pt.bank bank
  let b1 := passInto k1 p.width q (if fused then b0.zeroRows q.liveRows else b0)
  let b2 := if fused then b1.zeroRows q.liveRows else b1
  modC t.core (fun k2 => k2.setPart p.part (pt.setBank bank b2))
  modS (fun s => wakeTiles s t.core)
  let rows := bankRows b1 p.width q.liveRows 0 p.width
  match ← readout t rfd d.val rcd (bankScales b1) rows q.liveRows (if fused then 3 else 2) p.dregs p.dscale with
  | some detail => raise vecScaleExhausted detail 0
  | none => pure ()

/-- TMMA.CVT (R200). -/
def execTmmaCvt (t : Tid) (td ta tb : MIdx) (bank : Fin 2) (rfa rfb rfd : RIdx) (s : State) :=
  runInstr t { self := some (.tmmaCvt td ta tb bank rfa rfb rfd) }
    (plain (mmaCvt t td ta tb bank rfa rfb rfd false)) s

/-- TMMA.CVT.F (R201). -/
def execTmmaCvtF (t : Tid) (td ta tb : MIdx) (bank : Fin 2) (rfa rfb rfd : RIdx) (s : State) :=
  runInstr t { self := some (.tmmaCvtF td ta tb bank rfa rfb rfd) }
    (plain (mmaCvt t td ta tb bank rfa rfb rfd true)) s

/-- A tile instruction that waits on a full queue is accepted (R197): it runs again from its checks. -/
def execTmmaQueueAccept (t : Tid) (s : State) : Host.Outcome State Fault Refusal :=
  let th := s.th t
  if th.status ≠ .waiting .tileQueue then .next s
  else
    let s1 := s.setTh t { th with status := .active, waitsWith := none }
    match th.waitsWith with
    | some (.tmma ta tb bank rfa rfb) => execTmma t ta tb bank rfa rfb s1
    | some (.tz bank) => execTz t bank s1
    | some (.tmmaCvt td ta tb bank rfa rfb rfd) => execTmmaCvt t td ta tb bank rfa rfb rfd s1
    | some (.tmmaCvtF td ta tb bank rfa rfb rfd) => execTmmaCvtF t td ta tb bank rfa rfb rfd s1
    | _ => .next s1

/-! ### TRDA (R199) -/

/-- TRDA waits for every earlier pass and TZ into its bank, and for the passes that read its member (R180). -/
def waitBank (t : Tid) (i : Nat) (bank : Fin 2) (p : Nat) : M Unit := do
  let k ← getC t.core
  if (k.part i).queue.any (fun q => q.bank == bank) then waitFor .tileOrder
  waitTile t p

/-- Row and column offsets of roff (R199). -/
def roffOf (v : Word) : Nat × Nat := (fld v.toNat 6 0, fld v.toNat 24 16)

/-- TRDA.RAW (R199): bits unchanged, poison carried. -/
def execTrdaRaw (t : Tid) (td : MIdx) (bank : Fin 2) (roff : RIdx) (s : State) :=
  simple t (do
    let o ← greg t roff
    checkOps [opnd 3 .index o]
    let i ← thePart t
    let p ← memberOf t 2 td.val
    let v ← getTile t p
    let (r0, c0) := roffOf o.val
    let n := v.rowBytes / 4
    let k ← getC t.core
    let w := (k.part i).width
    if 128 < r0 + v.rows || w < c0 + n then tileShape 7 0xA 0 0
    waitBank t i bank p
    let b := (k.part i).bank bank
    (upto v.rows).forM (fun r => do
      let cs := slice (b.cells w (r0 + r)) c0 n
      let x ← getTile t p
      putTile t p (x.setRow r ⟨packBits 32 (cs.map (fun c => c.1)), packBits 1 (cs.map (fun c => b2n c.2))⟩))) s

/-- TRDA.CVT (R199): the scales of the last pass into the bank apply; block scales go to the member after td. -/
def execTrdaCvt (t : Tid) (td : MIdx) (bank : Fin 2) (rfd roff : RIdx) (s : State) :=
  simple t (do
    let dr ← greg t rfd
    let o ← greg t roff
    checkOps [opnd 2 .fmt dr, opnd 3 .index o]
    let i ← thePart t
    let p ← memberOf t 2 td.val
    let v ← getTile t p
    let d := fmtOf dr.val
    if !fmtReadout d.format then tileShape 2 4 p td.val
    let (r0, c0) := roffOf o.val
    let e := fmtStore d.format
    if v.rowBytes * 8 % e ≠ 0 then tileShape 2 1 p td.val
    let n := v.rowBytes * 8 / e
    let k ← getC t.core
    let w := (k.part i).width
    if 128 < r0 + v.rows || w < c0 + n then tileShape 7 0xA 0 0
    let sm ← if d.mx then do pure (some (← scaleOf t 5 (td.val + 1) v.rows ((n + 31) / 32) false)) else pure none
    waitBank t i bank p
    sm.toList.forM (waitTile t)
    let rcd ← readTensor t d
    let b := (k.part i).bank bank
    let rows := bankRows b w ((upto v.rows).map (fun r => r0 + r)) c0 n
    match ← readout t rfd dr.val rcd (bankScales b) rows (upto v.rows) 1 [p] sm with
    | some detail => raise vecScaleExhausted detail 0
    | none => pure ()) s

end Sys2Proof.Machine
end

