-- ==== Sys2Proof/Machine/Chanter.lean ====
section
/-!
DEFINITION. Machine/Chanter.lean: the TASK instructions, dispatch, and the ends of what waits on the Chanter (R111 to R121,
R131 to R137).
-/

namespace Sys2Proof.Machine

/-! ### Operands and status (R110, R115) -/

/-- An argument of a Chanter or channel instruction: its POISON_USE carries USE 0x4 (R450). -/
def argOp (slot : Nat) (c : OpClass) (r : Reg) : Opnd := ⟨slot, c, r, false, some 4, 0⟩

/-- The authority of a pair cs without an address: R73 and the permissions. -/
def authority (t : Tid) (c : Cap) (mask : Nat) : M Unit := do
  capUse t c 0
  capPerms c mask 0

/-- The status convention of R115: rd receives an INT status code. -/
def putStatus (t : Tid) (rd : RIdx) (st : Nat) : M Unit := wr t rd (.int (BitVec.ofNat 64 st))
/-- A BOOL result. -/
def putBool (t : Tid) (rd : RIdx) (b : Bool) : M Unit := wr t rd (.bool b)

/-- The start of a TASK instruction with cs and rs: tags, then authority. -/
def taskStart (t : Tid) (cs : PIdx) (os : List Opnd) (mask : Nat) : M Unit := do
  let th ← getT t
  checkOps (csOps (th.cap cs) ++ os)
  authority t (th.cap cs).toCap mask

/-- R110 for a handle: KIND and tenancy, without the GEN check. -/
def handleKind (t : Tid) (w : Word) (kinds : List Nat) : M HandleF := do
  let th ← getT t
  let h := handleOf w
  if !kinds.contains h.kind || !handleTenancyOk th h then capViol 0 0xB 0
  pure h

/-- R110 for a task handle that must be live. -/
def theTask (t : Tid) (w : Word) : M (Nat × Task) := do
  let h ← handleKind t w [1]
  let s ← getS
  match liveTask s h with
  | some k => pure (h.index, k)
  | none => capViol 0 0xB 0

/-- R110 for an epoch handle that must be live: its key and the epoch. -/
def theEpoch (t : Tid) (w : Word) : M (Nat × Epoch) := do
  let h ← handleKind t w [2]
  let s ← getS
  match liveEpoch s h with
  | some e => pure e
  | none => capViol 0 0xB 0

/-! ### TASK.NEW (R111, R115, R132) -/

/-- A task descriptor as TASK.NEW reads it (R111). -/
structure TaskDesc where
  code : Pair
  rstack : Pair
  dstack : Pair
  argC : Pair
  w0 : Word
  offset : Nat
  cue : Nat
  flags : Nat
  group : Nat
  byte87 : Nat
  pred : Word
  succ : List Word
deriving DecidableEq, Repr

/-- A granule as LDC reads it: two words with their poison, and the tag bit. -/
abbrev Granule := Word × Bool × Word × Bool × Bool

/-- Consecutive granules of a range. -/
def loadGranules (t : Tid) (n : Fin 17) : Nat → Nat → M (List Granule)
  | 0, _ => pure []
  | k + 1, va => do
    let g ← loadGranule t n va
    let r ← loadGranules t n k (va + 16)
    pure (g :: r)

/-- The words of granules with their poison. -/
def granuleWords (gs : List Granule) : List (Word × Bool) := (gs.map (fun g => [(g.1, g.2.1), (g.2.2.1, g.2.2.2.1)])).flatten

/-- The descriptor that eight granules hold. -/
def taskDescOf (gs : List Granule) : TaskDesc :=
  let ws := (granuleWords gs).map (fun w => w.1)
  let w (i : Nat) : Word := ws.getD i 0
  let cap (i : Nat) : Pair := match gs[i]? with
    | some g => granulePair true g
    | none => .nil
  let x := (w 10).toNat
  { code := cap 0, rstack := cap 1, dstack := cap 2, argC := cap 3, w0 := w 8, offset := (w 9).toNat, cue := fld x 31 0,
    flags := fld x 47 32, group := fld x 55 48, byte87 := fld x 63 56, pred := w 11,
    succ := [w 12, w 13, w 14, w 15] }

/-- The first capability of a descriptor that R73 refuses for the thread. -/
def descRefused (th : Thread) (d : TaskDesc) : Option Nat :=
  ([d.code, d.rstack, d.dstack, d.argC].filter Pair.isCap).findSome? (fun p => capRefused th.level.val th.tenancy.val p.toCap)

/-- Whether the fields of a descriptor hold what R111 asks, but for PRED. -/
def descGood (d : TaskDesc) : Bool :=
  let c := d.code.toCap
  d.code.isUnsealed && c.has permEX && d.rstack.isUnsealed && d.rstack.toCap.has permRET && d.dstack.isUnsealed &&
    d.dstack.toCap.has (permLD + permST) && d.offset % 4 == 0 && decide (d.offset < c.length) && decide (d.flags < 8) &&
    decide (d.group < 64) && d.byte87 == 0

/-- The epoch a new task belongs to (R132): its creator's, or the live, open epoch of the tenancy that PRED names. The
outer none is RANGE. -/
def descEpoch (s : State) (th : Thread) (ten : Nat) (d : TaskDesc) : Option (Option Nat) :=
  match th.epoch with
  | some e => some (some e)
  | none =>
    if bit d.flags 1 then
      match liveEpoch s (handleOf d.pred) with
      | some (key, e) => if key / 64 = ten && e.state = .opened then some (some (key % 64)) else none
      | none => none
    else if d.pred = 0 then some none else none

/-- Whether the tenancy's quota and the module's slots have room for a task (R115, R138). -/
def taskRoom (s : State) (ten : Nat) (dev : Bool) : Bool :=
  decide (s.tasks.length < 65536) && (dev || decide (s.ten ten 0xC010 3 < s.ten ten 0xC010 1))

/-- A task created in a free slot: its slot and the state. With CUE_INIT 0 it is dispatchable at once (R113); a VEC task
may have its core chosen (R120). -/
def newTask (s : State) (d : TaskDesc) (ten : Fin 16) (dev : Bool) (epoch creator creatorTask : Option Nat) : Nat × State :=
  let slot := Tab.lowestFree s.tasks
  let gen := Tab.getD s.taskGen slot 0 + 1
  let k : Task :=
    { gen := gen, tenancy := ten, dev := dev, state := if d.cue = 0 then .dispatchable else .waitCue, code := d.code,
      rstack := d.rstack, dstack := d.dstack, argC := d.argC, argCap := d.argC.isCap, w0 := d.w0,
      offset := BitVec.ofNat 64 d.offset, cue := d.cue, vec := bit d.flags 0, ie := bit d.flags 2, group := d.group,
      succ := d.succ, epoch := epoch, creator := creator, creatorTask := creatorTask, thread := none, core := none,
      issued := false }
  let s1 := { s with tasks := Tab.put s.tasks slot k, taskGen := Tab.put s.taskGen slot gen, taskEnd := Tab.del s.taskEnd slot,
                     ready := if d.cue = 0 then s.ready ++ [slot] else s.ready }
  (slot, preWake (syncTasks s1 ten.val) slot)

/-- TASK.NEW (R111, R115, R132): ALIGN, POISON_USE, CAP_VIOLATION of a field, RANGE, EXHAUSTED, in that order. A task whose
CODE carries DEV is a monitor task. -/
def execTaskNew (t : Tid) (rd : RIdx) (cs : PIdx) (rx : RIdx) (s : State) :=
  simple t (do
    let th ← getT t
    checkOps (csOps (th.cap cs) ++ [argOp 6 .index (th.g rx)])
    let c := (th.cap cs).toCap
    let a := intBits 64 (c.base + (th.g rx).val.toNat)
    dataChecks t c (permTASK + permLD) a 128 128
    let gs ← loadGranules t c.space 8 a
    match findIdx? (fun (w : Word × Bool) => w.2) (granuleWords gs) 0 with
    | some i => raise vecPoisonUse (4 * 2 ^ 20) (a + 8 * i)
    | none => pure ()
    let d := taskDescOf gs
    match descRefused th d with
    | some sub => capViol 0 sub a
    | none => pure ()
    let k := d.code.toCap
    let ten : Fin 16 := if k.dev then 0 else ⟨k.tenancy % 16, by omega⟩
    let s1 ← getS
    match descGood d, descEpoch s1 th ten.val d with
    | true, some ep =>
      if taskRoom s1 ten.val k.dev then do
        let slot ← runS (fun s2 => newTask s2 d ten k.dev ep (some t.val) (creatorKey s2 t))
        let s3 ← getS
        match Tab.get? s3.tasks slot with
        | some q => wr t rd ⟨taskHandle q slot, .handle⟩
        | none => pure ()
      else putStatus t rd stExhausted
    | _, _ => putStatus t rd stRange) s

/-! ### The other TASK instructions (R113 to R117, R131, R134) -/

/-- TASK.CUE (R113): BOOL 1 when the decrement took effect. -/
def execTaskCue (t : Tid) (rd : RIdx) (cs : PIdx) (rs : RIdx) (s : State) :=
  simple t (do
    let v ← greg t rs
    taskStart t cs [argOp 9 .handle v] permTASK
    let h ← handleKind t v.val [1]
    let s1 ← getS
    match liveTask s1 h with
    | some k => do
      modS (fun s2 => decCue s2 h.index)
      putBool t rd (k.cue != 0 && k.state == .waitCue)
    | none => putBool t rd false) s

/-- TASK.DONE (R114). -/
def execTaskDone (t : Tid) (s : State) := simple t (modS (fun s1 => endTask s1 t)) s

/-- The cores that a thread may name: those of its tenancy's mask, or any for a monitor task (R108). -/
def threadMask (s : State) (th : Thread) : Nat := if th.dev then 2 ^ 48 - 1 else s.ten th.tenancy.val 0xC010 0

/-- TASK.BIND (R115). -/
def execTaskBind (t : Tid) (rd : RIdx) (cs : PIdx) (rx rs : RIdx) (s : State) :=
  simple t (do
    let x ← greg t rx
    let v ← greg t rs
    taskStart t cs [argOp 6 .index x, argOp 9 .index v] permTASK
    let s1 ← getS
    let th ← getT t
    let g := x.val.toNat
    let m := v.val.toNat
    if g = 0 || 63 < g || m = 0 || Nat.land m (threadMask s1 th) != m then putStatus t rd stRange
    else do
      modS (fun s2 => { s2 with groups := Tab.put s2.groups (64 * th.tenancy.val + g) m })
      putBool t rd true) s

/-- The epochs that hold a slot of a tenancy (R116). -/
def epochsOf (s : State) (n : Nat) : Tab Epoch := s.epochs.filter (fun e => e.1 / 64 == n)

/-- A new epoch in the lowest free slot of a tenancy: its handle and the state. -/
def newEpoch (t : Tid) (step : Bool) (s : State) : Word × State :=
  let n := (s.th t).tenancy.val
  let slot := ((upto 64).find? (fun i => (Tab.get? s.epochs (64 * n + i)).isNone)).getD 0
  let key := 64 * n + slot
  let gen := Tab.getD s.epochGen key 0 + 1
  let e : Epoch := { gen := gen, state := .opened, step := step, creator := some t.val, creatorTask := creatorKey s t,
                     lines := 0, flips := [], vote := 0, torn := false }
  (handleWord 2 n false gen slot,
   syncEpochs { s with epochs := Tab.put s.epochs key e, epochGen := Tab.put s.epochGen key gen } n)

/-- TASK.EPOCH (R115): with 64 slots held, EXHAUSTED when all are open, else the thread waits for a freed slot. -/
def execTaskEpoch (t : Tid) (rd : RIdx) (cs : PIdx) (rs : RIdx) (s : State) :=
  runInstr t { self := some (.taskEpoch rd cs rs) } (plain (do
    let v ← greg t rs
    taskStart t cs [argOp 9 .index v] permTASK
    let s1 ← getS
    let th ← getT t
    let es := epochsOf s1 th.tenancy.val
    if 1 < v.val.toNat then putStatus t rd stRange
    else if es.length < 64 then do
      let h ← runS (newEpoch t (v.val == 1))
      wr t rd ⟨h, .handle⟩
    else if es.all (fun e => e.2.state == .opened) then putStatus t rd stExhausted
    else waitFor .epochSlot)) s

/-- A TASK.EPOCH that waits for a slot goes on when one is free (R115). -/
def execEpochSlotWaitEnd (t : Tid) (s : State) : Host.Outcome State Fault Refusal :=
  let th := s.th t
  if th.status ≠ .waiting .epochSlot || (epochsOf s th.tenancy.val).length ≥ 64 then .next s
  else
    let s1 := s.setTh t { th with status := .active, waitsWith := none }
    match th.waitsWith with
    | some (.taskEpoch rd cs rs) => execTaskEpoch t rd cs rs s1
    | _ => .next s1

/-- The code of a task state (R116). -/
def TaskState.code : TaskState → Nat
  | .waitCue => 0 | .dispatchable => 1 | .running => 2 | .doneSpec => 3 | .done => 4 | .discarded => 5 | .aborted => 6
/-- The code of an epoch state (R116). -/
def EpochState.code : EpochState → Nat
  | .opened => 0x10 | .committed => 0x11 | .discarded => 0x12

/-- What TASK.STATE writes for a handle (R116). -/
def stateCode (s : State) (h : HandleF) : Nat :=
  if h.kind = 1 then
    match liveTask s h with
    | some k => k.state.code
    | none =>
      if Tab.getD s.taskGen h.index 0 % 2 ^ 23 = h.gen then (Tab.getD s.taskEnd h.index .done).code else 4
  else match liveEpoch s h with
    | some (_, e) => e.state.code
    | none => 0x13

/-- TASK.STATE (R116). -/
def execTaskState (t : Tid) (rd : RIdx) (rs : RIdx) (s : State) :=
  simple t (do
    let v ← greg t rs
    checkOps [argOp 9 .handle v]
    let h ← handleKind t v.val [1, 2]
    let s1 ← getS
    wr t rd (.int (BitVec.ofNat 64 (stateCode s1 h)))) s

/-- TASK.SIG (R115, R117). -/
def execTaskSig (t : Tid) (rd : RIdx) (cs : PIdx) (rx rs : RIdx) (s : State) :=
  simple t (do
    let x ← greg t rx
    let v ← greg t rs
    taskStart t cs [argOp 6 .index x, argOp 9 .handle v] permTASK
    let (_, k) ← theTask t v.val
    if 3 < x.val.toNat then putStatus t rd stRange
    else match k.thread with
      | some n => do
        modS (fun s1 => s1.pend (tidOf n) (48 + x.val.toNat))
        putBool t rd true
      | none => putBool t rd false) s

/-- TASK.ABORT (R115, R131): rd is written before the abort, which may stop this very task. -/
def execTaskAbort (t : Tid) (rd : RIdx) (cs : PIdx) (rs : RIdx) (s : State) :=
  simple t (do
    let v ← greg t rs
    taskStart t cs [argOp 9 .handle v] permTASK
    let th ← getT t
    if th.level.val = 0 then capViol 0 0xC 0
    let h ← handleKind t v.val [1]
    let s1 ← getS
    match liveTask s1 h with
    | some k =>
      if k.state = .doneSpec then putBool t rd false
      else do
        putBool t rd true
        modS (fun s2 => abortTask s2 h.index)
    | none => putBool t rd false) s

/-! ### Dispatch (R112, R118 to R120) -/

/-- Whether the Chanter dispatches tasks of a tenancy: while it is RUNNING, not while it is HELD, and none after the last step
of its job (R468, R497, R527). -/
def dispatchOk (s : State) (k : Task) : Bool := k.dev || s.tstate k.tenancy.val == tsRunning

/-- The core a dispatchable task goes to now: the one chosen for it, or the choice of R119 among cores with an EMPTY
thread. -/
def targetCore (s : State) (k : Task) : Option Nat :=
  match k.core with
  | some c => some c
  | none => chooseCore s (taskMask s k) true

/-- The oldest dispatchable task that goes to a core now (R118). -/
def nextFor (s : State) (c : Nat) : Option (Nat × Task) :=
  s.ready.findSome? (fun slot => match Tab.get? s.tasks slot with
    | some k => if dispatchOk s k && targetCore s k == some c then some (slot, k) else none
    | none => none)

/-- A thread at task start (R28, R111, R112, R139). -/
def Thread.start (th : Thread) (k : Task) (slot : Nat) (epoch : Option Nat) : Thread :=
  let th1 := { th with
    regs := Vector.replicate 32 Reg.nil, pc := BitVec.ofNat 64 k.code.toCap.base + k.offset, pcc := k.code, rscap := k.rstack,
    rsp := BitVec.ofNat 64 k.rstack.toCap.length, iter := 0, level := if k.dev then 2 else 0, tenancy := k.tenancy,
    dev := k.dev, ie := k.ie, inRepn := false, stopPfx := false, stopExt := false, nmi := .none, status := .loaded,
    vregs := Vector.replicate 32 ⟨0, 0⟩, group := none, task := some slot, epoch := epoch, waitsWith := none }
  let th2 := if k.argCap then th1.writePair 2 k.argC else th1
  let th3 := th2.writePair 30 k.dstack
  ((th3.write 29 (.int (BitVec.ofNat 64 k.dstack.toCap.length))).write 8 (.int k.w0)).write 1 ⟨taskHandle k slot, .handle⟩

/-- A task loaded into an EMPTY thread; the L1 is invalidated as FENCE.ACQ does (R112, R294). -/
def startTask (s : State) (slot : Nat) (k : Task) (t : Tid) : State :=
  let s1 := s.setTh t ((s.th t).start k slot (specEpoch s k))
  let k1 := { k with state := .running, thread := some t.val, core := some (t.val / 16) }
  fenceAcq { s1 with tasks := Tab.put s1.tasks slot k1, ready := s1.ready.filter (fun x => x != slot) } t.core

/-- TASK_DISPATCH (R112, R118, R119): a quarter's Chanter agent loads the oldest task that goes to the core. -/
def execTaskDispatch (quarter : Fin 4) (core : CoreId) (t : Tid) (s : State) : Host.Outcome State Fault Refusal :=
  if core.val / 12 ≠ quarter.val || t.core ≠ core || (s.th t).status ≠ .empty then .next s
  else match nextFor s core.val with
    | some (slot, k) => .next (startTask s slot k t)
    | none => .next s

/-! ### Ends of waits (R116, R131, R135) -/

/-- A speculative store that waits on the overlay quota goes on once its epoch has committed; a discard has stopped its
task (R134, R135). -/
def execSpecStoreRelease (t : Tid) (s : State) : Host.Outcome State Fault Refusal :=
  let th := s.th t
  match th.status with
  | .waiting (.overlay n slot) =>
    match Tab.get? s.epochs (64 * n + slot) with
    | some e => if e.state = .opened then .next s else .next (s.setTh t { th with status := .active, waitsWith := none })
    | none => .next (s.setTh t { th with status := .active, waitsWith := none })
  | _ => .next s

/-- The Drone has the Chanter abort the task of a thread halted at L3 (R97, R131). -/
def execDroneTaskAbort (t : Tid) (s : State) : Host.Outcome State Fault Refusal :=
  let th := s.th t
  if th.status ≠ .halted then .next s
  else match th.task with
    | some slot => .next (abortTask s slot)
    | none => .next (stopThread s t)

end Sys2Proof.Machine
end

