-- ==== Sys2Proof/Machine/Engine.lean ====
section
/-!
DEFINITION. Machine/Engine.lean: what the commands of every engine share: issue, the command block and its acceptance
checks, operand ranges, completion records, and the hold for an epoch (R65 to R67, R133, R252, R314 to R320).
-/

namespace Sys2Proof.Machine

/-! ### Live commands -/

/-- The INDEX that a command of an engine and a space takes: the record it writes is INDEX mod 1,024, and no two live
commands of one area share it (R266, R317). -/
def cmdIndex (engine space r : Nat) : Nat := engine * 17408 + space * 1024 + r

/-- Live commands of an engine in a space. -/
def cmdsOf (s : State) (engine space : Nat) : Tab Cmd := s.cmds.filter (fun e => e.2.engine == engine && e.2.space == space)

/-- The handle of a command (R66, R109). -/
def cmdHandle (c : Cmd) (index : Nat) : Word := handleWord 6 c.tenancy.val c.dev c.gen index

/-- BELLOWS_LIVE follows the live Bellows commands of a tenancy (R348). -/
def syncLive (s : State) (space : Nat) : State :=
  if space < 16 then s.setTen space 0xC050 2 (cmdsOf s 0 space).length else s

/-- Whether an engine's queue has no room for a command of a thread: 1,024 live in the space, or for a Bellows command 64
at the quarter's distributor (R66, R266, R317). -/
def queueFull (s : State) (engine space thread : Nat) : Bool :=
  decide (1024 ≤ (cmdsOf s engine space).length) ||
    (engine == 0 && decide (64 ≤ (s.cmds.filter (fun e => e.2.engine == 0 && e.2.thread / 192 == thread / 192)).length))

/-- The live command a handle names, within its tenancy. -/
def liveCmd (s : State) (h : HandleF) : Option Cmd :=
  if h.kind = 6 then
    match Tab.get? s.cmds h.index with
    | some c => if c.gen % 2 ^ 23 = h.gen && c.dev = h.dev && (c.dev || c.tenancy.val = h.tenancy) then some c else none
    | none => none
  else none

/-- No result yet. -/
def CmdResult.zero : CmdResult := ⟨0, 0, 0xFF, 0, 0⟩
/-- A result with a status alone. -/
def CmdResult.st (status : Nat) : CmdResult := { CmdResult.zero with status := status }

/-- A command replaced. -/
def State.putCmd (s : State) (i : Nat) (c : Cmd) : State := { s with cmds := Tab.put s.cmds i c }

/-- A command's outcome is decided. -/
def endCmd (s : State) (i : Nat) (r : CmdResult) : State :=
  match Tab.get? s.cmds i with
  | some c => s.putCmd i { c with phase := .ended, result := r }
  | none => s

/-! ### Completion records (R317, R318) -/

/-- The address of an engine's completion area and the space it lies in. -/
def areaOf (s : State) (engine space : Nat) : Nat × Fin 17 :=
  if engine = 3 then (s.dev 0x8040 0, 16)
  else if 16 ≤ space then (0, 16)
  else
    let a := match engine with
      | 0 => s.ten space 0xC050 0
      | 1 => s.ten space 0xC060 0
      | 2 => s.ten space 0xC030 5
      | _ => s.ten space 0xC070 0
    (a, spaceOf space)

/-- An ERROR event (R449) to a tenancy's event ring and the Drone's log; in the device space to the log alone. -/
def State.postError (s : State) (space source action unit major index va : Nat) : State :=
  let d := source + action * 2 ^ 8 + unit * 2 ^ 16 + major * 2 ^ 24 + index % 2 ^ 32 * 2 ^ 32 + va % 2 ^ 64 * 2 ^ 64
  if space < 16 then s.post space 3 d else s.log 3 d

/-- Bytes of one line written at its slice, with poison marks and no tags. -/
def writeRun (s : State) (pa : Nat) (bs : List PByte) (ac : Acc) : State :=
  let off := pa % 128
  sliceWrite s (pa / 128) ((2 ^ bs.length - 1) * 2 ^ off) (bytesVal bs * 256 ^ off) 0 (wordMarks off bs) ac

/-- Writes 16 bytes at an address of a completion area, when its page is LOCAL or TOUCH with PW (R318). -/
def writeArea (s : State) (n : Fin 17) (va v : Nat) : Option State :=
  let w := walk s n va
  match w.2 with
  | .leaf _ _ e =>
    if (e % 8 = 2 || e % 8 = 3) && bit e 51 then
      let r := translate w.1 n va .write .other
      match r.2 with
      | .ok pa => some (writeRun r.1 pa (mkBytes 16 v false) (windowAt r.1 n.val va))
      | _ => none
    else none
  | _ => none

/-- The 16 bytes of a record. -/
def recordOf (c : Cmd) (i : Nat) : Nat :=
  let r := c.result
  let head := (cmdHandle c i).toNat + r.status * 2 ^ 64 + r.reason * 2 ^ 72
  if c.engine = 2 then head + r.slot % 2 ^ 16 * 2 ^ 80 + r.count % 2 ^ 32 * 2 ^ 96
  else head + r.slot % 2 ^ 8 * 2 ^ 80 + r.flags * 2 ^ 88 + r.count % 2 ^ 32 * 2 ^ 96

/-- Shadow frames held by a command: they stay with the issuing task while it lives, and are dropped otherwise (R262). -/
def dropEngineHolds (s : State) (i : Nat) (c : Cmd) : State :=
  let task : Option Nat := match c.task with
    | none => none
    | some k => match Tab.get? s.tasks (k % 2 ^ 32) with
      | some x => if x.gen = k / 2 ^ 32 then some (k % 2 ^ 32) else none
      | none => none
  let fix (h : ShadowHolder) : List ShadowHolder := match h with
    | .engine j => if j = i then (match task with | some k => [.task k] | none => []) else [h]
    | _ => [h]
  dropShadows { s with shadows := s.shadows.map (fun x => { x with holders := (x.holders.map fix).flatten }) }

/-- A Bellows or collective command of an epoch adds to the module's vote as it completes (R413): the non-finite elements of
an UPDATE, and 1 for a status other than OK. CU.CHECK itself does not count. -/
def addVote (s : State) (c : Cmd) : State :=
  match c.epoch with
  | none => s
  | some e =>
    let v := (if c.engine = 0 && c.op = 0 then c.result.count else 0) + (if c.result.status = stOk then 0 else 1)
    let key := 64 * c.tenancy.val + e
    match Tab.get? s.epochs key with
    | some x =>
      if 1 < c.engine || (c.engine = 1 && c.op = 4) || v = 0 then s
      else { s with epochs := Tab.put s.epochs key { x with vote := x.vote + v } }
    | none => s

/-- A command completes: its record is written, or an ERROR event tells that it could not be (R318), and it is no longer
live. -/
def finishCmd (s : State) (i : Nat) : State :=
  match Tab.get? s.cmds i with
  | none => s
  | some c =>
    let a := areaOf s c.engine c.space
    let va := a.1 + 16 * (i % 1024)
    let s1 := match (if a.1 = 0 then none else writeArea s a.2 va (recordOf c i)) with
      | some s2 => s2
      | none => s.postError (if c.engine = 3 then 16 else c.space) 6 5 0 (0x70 + c.engine) i (if a.1 = 0 then 0 else va)
    syncLive (dropEngineHolds { addVote s1 c with cmds := Tab.del s1.cmds i } i c) c.space

/-- A command completes at once with a status. -/
def finishWith (s : State) (i : Nat) (r : CmdResult) : State := finishCmd (endCmd s i r) i

/-! ### Issue (R65, R66, R314) -/

/-- What the issue of a command asks: engine number less 0x70, cmd, the permissions cs carries, the class of ra, and whether
the argument locates a command block. -/
structure EngineOp where
  engine : Nat
  op : Nat
  perms : Nat
  cls : OpClass := .index
  block : Bool := true
  /-- Further permissions that the argument asks. -/
  more : Nat → Nat := fun _ => 0
  /-- Bytes from its base on that cs shall cover, for a command without a block. -/
  span : Nat → Nat := fun _ => 0

/-- The argument register, or the immediate that takes its place (R597). -/
def argReg (th : Thread) : CForm → Reg
  | .short ra => th.g ra
  | .ext imm => .int (imm.signExtend 64)

/-- The operand check of the argument: slot 0x7, USE 0x4 (R36, R450). -/
def argOps (o : EngineOp) (th : Thread) : CForm → List Opnd
  | .short ra => [argOp 7 o.cls (th.g ra)]
  | .ext _ => []

/-- The space whose areas a thread's commands use. -/
def cmdSpace (engine : Nat) (th : Thread) : Nat := if engine = 3 then 16 else th.space

/-- A new live command of a thread: its INDEX and the state. -/
def newCmd (t : Tid) (o : EngineOp) (cs : Pair) (arg : Word) (s : State) : Nat × State :=
  let th := s.th t
  let space := cmdSpace o.engine th
  let r := ((upto 1024).find? (fun r => (Tab.get? s.cmds (cmdIndex o.engine space r)).isNone)).getD 0
  let i := cmdIndex o.engine space r
  let c : Cmd :=
    { gen := Tab.getD s.cmdGen i 0 + 1, engine := o.engine, op := o.op, space := space, tenancy := if th.dev then 0 else th.tenancy,
      dev := th.dev, level := th.level.val, thread := t.val, task := creatorKey s t, epoch := th.epoch, seq := s.cmdSeq,
      cs := cs, arg := arg, block := [], blockTags := 0, blockPoison := 0, phase := .accepting, slots := [], entries := [], aux := [],
      result := .zero }
  (i, syncLive { s with cmds := Tab.put s.cmds i c, cmdGen := Tab.put s.cmdGen i c.gen, cmdSeq := s.cmdSeq + 1 } space)

/-- The checks of an engine instruction before it is enqueued (R30, R65, R73, R314). -/
def engineChecks (t : Tid) (o : EngineOp) (cs : PIdx) (a : CForm) : M Unit := do
  let th ← getT t
  checkOps (csOps (th.cap cs) ++ argOps o th a)
  let c := (th.cap cs).toCap
  let x := (argReg th a).val.toNat
  if o.block then dataChecks t c o.perms (intBits 64 (c.base + x)) 256 256
  else if o.span x ≠ 0 then dataChecks t c o.perms c.base (o.span x) 1
  else authority t c (Nat.lor o.perms (o.more x))

/-- An engine instruction: checks, the queue, the handle in rd, and what the engine does with the command at once. -/
def engineInstr (t : Tid) (o : EngineOp) (rd : RIdx) (cs : PIdx) (a : CForm) (accept : Nat → State → State) (s : State) :
    Host.Outcome State Fault Refusal :=
  runInstr t { len := match a with | .short _ => 4 | .ext _ => 8, ext := match a with | .short _ => false | .ext _ => true,
               self := some (.engine (o.engine * 4096 + o.op) rd cs a) } (plain (do
    engineChecks t o cs a
    let s1 ← getS
    let th ← getT t
    if queueFull s1 o.engine (cmdSpace o.engine th) t.val then waitFor .engineQueue
    let i ← runS (newCmd t o (th.cap cs) (argReg th a).val)
    let s2 ← getS
    match Tab.get? s2.cmds i with
    | some c => do
      wr t rd ⟨cmdHandle c i, .handle⟩
      modS (accept i)
    | none => pure ())) s

/-! ### Memory as an engine reaches it (R275, R276) -/

/-- The epoch whose overlay a command sees: its task's, while that is open (R133). -/
def Cmd.ep (c : Cmd) (s : State) : Option Nat :=
  match c.epoch with
  | none => none
  | some e => match Tab.get? s.epochs (64 * c.tenancy.val + e) with
    | some x => if x.state = .opened then some (64 * c.tenancy.val + e) else none
    | none => none

/-- Bytes of one line read at its slice. -/
def readRun (s : State) (ep : Option Nat) (pa n : Nat) (ac : Acc) : State × List PByte :=
  let s1 := sliceRead s (pa / 128) (runSectors (pa % 128) n) ac
  (s1, takeBytes (viewFull s1 ep (pa / 128)) (pa % 128) n)

/-- The physical runs of n bytes at an offset of a range, none past a line: address and length. -/
def runsOf (alt : Bool) : Nat → List Piece → Nat → Nat → List (Nat × Nat)
  | 0, _, _, _ => []
  | _, [], _, _ => []
  | f + 1, p :: ps, off, n =>
    if n = 0 then []
    else if p.len ≤ off then runsOf alt f ps (off - p.len) n
    else
      let pa := (if alt then p.alt else p.cur) + off
      let k := min n (min (p.len - off) (128 - pa % 128))
      (pa, k) :: runsOf alt f (p :: ps) (off + k) (n - k)

/-- Reads runs in order. -/
def readRuns (ep : Option Nat) (ac : Acc) : List (Nat × Nat) → State → State × List PByte
  | [], s => (s, [])
  | r :: rs, s =>
    let a := readRun s ep r.1 r.2 ac
    let b := readRuns ep ac rs a.1
    (b.1, a.2 ++ b.2)

/-- Writes bytes over runs in order. -/
def writeRuns (ac : Acc) : List (Nat × Nat) → List PByte → State → State
  | [], _, s => s
  | r :: rs, bs, s => writeRuns ac rs (bs.drop r.2) (writeRun s r.1 (bs.take r.2) ac)

/-- Fuel that bounds the runs of n bytes. -/
def SlotMap.fuel (m : SlotMap) (n : Nat) : Nat := n + m.pieces.length + 2

/-- Reads n bytes of an operand, from the buffer its slot names, or the other one. -/
def engRead (s : State) (ep : Option Nat) (m : SlotMap) (alt : Bool) (off n : Nat) : State × List PByte :=
  readRuns ep (windowAt s m.space (m.base + off)) (runsOf alt (m.fuel n) m.pieces off n) s

/-- Writes bytes of an operand. -/
def engWrite (s : State) (m : SlotMap) (alt : Bool) (off : Nat) (bs : List PByte) : State :=
  writeRuns (windowAt s m.space (m.base + off)) (runsOf alt (m.fuel bs.length) m.pieces off bs.length) bs s

/-- The operand of a slot; an empty range where the command has none. -/
def Cmd.slot (c : Cmd) (n : Nat) : SlotMap := (c.slots.find? (fun m => m.index == n)).getD ⟨n, 0, 0, 0, false, false, []⟩

/-! ### The command block (R315) -/

/-- A field of the command block: n bytes at a byte offset. -/
def Cmd.par (c : Cmd) (off n : Nat) : Nat :=
  packBits 64 c.block / 256 ^ off % 256 ^ n

/-- Whether a run of bytes of the block is zero. -/
def Cmd.zeroPar (c : Cmd) (off n : Nat) : Bool := c.par off n == 0

/-- Whether a byte of the block's parameters carries a poison mark. -/
def Cmd.badPar (c : Cmd) : Bool := (upto 16).any (fun i => bit c.blockPoison (16 + i))

/-- The pair a slot of the block holds, as LDC reads it with LDCAP (R315). -/
def Cmd.slotCap (c : Cmd) (n : Nat) : Pair :=
  granulePair true (BitVec.ofNat 64 (c.block.getD (2 * n) 0), bit c.blockPoison (2 * n),
    BitVec.ofNat 64 (c.block.getD (2 * n + 1) 0), bit c.blockPoison (2 * n + 1), bit c.blockTags n)

/-- The flags of a slot. -/
def Cmd.sflags (c : Cmd) (n : Nat) : Nat := c.par (128 + n) 1

/-- Length of the capability in a slot. -/
def Cmd.slotLen (c : Cmd) (n : Nat) : Nat := (c.slotCap n).toCap.length

/-- What a command asks of one slot. -/
structure SlotNeed where
  index : Nat
  perms : Nat
  len : Nat
  /-- 0: ALT not allowed; 1: allowed; 2: required. -/
  alt : Nat := 0
  /-- Multiple that base and length keep. -/
  align : Nat := 1
deriving DecidableEq, Repr

/-- How a command reads its block: a status, or the slots it uses. -/
abbrev BlockSpec := State → Cmd → Except Nat (List SlotNeed)

/-! ### Acceptance (R316) -/

/-- The check of one slot: its status when it fails. -/
def slotBad (c : Cmd) (q : SlotNeed) : Option Nat :=
  let p := c.slotCap q.index
  let k := p.toCap
  let f := c.sflags q.index
  if !p.isUnsealed || (capRefused c.level c.tenancy.val k).isSome || !k.has (permDMA + q.perms) then some stNoCapability
  else if k.length ≠ q.len || k.base % q.align ≠ 0 || k.length % q.align ≠ 0 || 1 < f || (q.alt = 0 && f ≠ 0) ||
      (q.alt = 2 && f ≠ 1) then some stRange
  else none

/-- What the translation of a piece gives. -/
inductive PieceOut where
  | piece (p : Piece)
  | wait
  | bad (reason : Nat)
deriving DecidableEq, Repr

/-- One translation of an engine access. -/
def engTranslate (s : State) (n : Fin 17) (va : Nat) (k : AccKind) (i : Nat) (alt : Bool) : State × Except (Option Nat) Nat :=
  let r := translate s n va k (.engine i) alt
  match r.2 with
  | .ok pa => (r.1, .ok pa)
  | .err reason _ => (r.1, .error (some reason))
  | .wait _ => (r.1, .error none)
  | .noRegion _ => (r.1, .error (some 7))

/-- The translation of the page that an address lies in, for reading, writing or both, up to n bytes (R250, R316). -/
def translatePiece (s : State) (n : Fin 17) (va len i : Nat) (reads writes alt : Bool) : State × PieceOut :=
  let a := if reads then engTranslate s n va .read i alt else (s, .ok 0)
  match a.2 with
  | .error none => (a.1, .wait)
  | .error (some r) => (a.1, .bad r)
  | .ok ra =>
    let b := if writes then engTranslate a.1 n va .write i alt else (a.1, .ok ra)
    match b.2 with
    | .error none => (b.1, .wait)
    | .error (some r) => (b.1, .bad r)
    | .ok pa =>
      let w := walk b.1 n va
      match w.2 with
      | .leaf level _ e =>
        let k := min len (2 ^ levelShift level - va % 2 ^ levelShift level)
        if e % 8 = 2 then (w.1, .piece ⟨va, k, localPa level e va false, localPa level e va true, bit e 61⟩)
        else (w.1, .piece ⟨va, k, pa, pa, false⟩)
      | .bad r _ => (w.1, .bad r)
      | .noRegion _ => (w.1, .bad 7)

/-- What the translation of a range gives: its pieces, a wait for a remote page, or a REASON. -/
inductive RangeOut where
  | pieces (ps : List Piece)
  | wait
  | bad (reason : Nat)
deriving DecidableEq, Repr

/-- Every page of a range translated in order; a wait does not stop the fetches of later pages. -/
def translateRange (n : Fin 17) (i : Nat) (reads writes alt : Bool) : Nat → Nat → Nat → State → State × RangeOut
  | 0, _, _, s => (s, .pieces [])
  | f + 1, va, len, s =>
    if len = 0 then (s, .pieces [])
    else
      let a := translatePiece s n va len i reads writes alt
      match a.2 with
      | .bad r => (a.1, .bad r)
      | .wait =>
        let k := min len (65536 - va % 65536)
        let b := translateRange n i reads writes alt f (va + k) (len - k) a.1
        (b.1, match b.2 with | .bad r => .bad r | _ => .wait)
      | .piece p =>
        let b := translateRange n i reads writes alt f (va + p.len) (len - p.len) a.1
        (b.1, match b.2 with | .pieces ps => .pieces (p :: ps) | x => x)

/-- What the acceptance of the slots gives: the maps, a wait, or a failed slot with its status and REASON. -/
inductive SlotsOut where
  | maps (ms : List SlotMap)
  | wait
  | bad (slot status reason : Nat)
deriving DecidableEq, Repr

/-- The slots of a command translated in order (R316). -/
def translateSlots (i : Nat) (c : Cmd) : List SlotNeed → State → State × SlotsOut
  | [], s => (s, .maps [])
  | q :: qs, s =>
    let k := (c.slotCap q.index).toCap
    let alt := c.sflags q.index == 1
    let writes := Nat.land q.perms permST != 0
    let reads := Nat.land q.perms permLD != 0 || !writes
    let a := translateRange k.space i reads writes alt (k.length / 65536 + 2) k.base k.length s
    match a.2 with
    | .bad r => (a.1, .bad q.index stAborted r)
    | .wait =>
      let b := translateSlots i c qs a.1
      (b.1, match b.2 with | .bad x y z => .bad x y z | _ => .wait)
    | .pieces ps =>
      if alt && !ps.all (fun p => p.paired) then (a.1, .bad q.index stStateConflict 0)
      else
        let b := translateSlots i c qs a.1
        (b.1, match b.2 with
          | .maps ms => .maps (⟨q.index, k.space.val, k.base, k.length, alt, writes, ps⟩ :: ms)
          | x => x)

/-- Whether every slot a command writes names alternate buffers: UPDATE writes the alternate of every paired page (R133,
R320, R323). -/
def writesAlternates (c : Cmd) (ms : List SlotMap) : Bool :=
  ms.all (fun m => !m.writes || m.alt || (c.engine == 0 && c.op == 0 && m.pieces.all (fun p => p.paired)))

/-- Reads the command block at its slice (R315): the command with its block, a wait, or a REASON. -/
def readBlock (s : State) (i : Nat) (c : Cmd) : State × Except (Option Nat) Cmd :=
  let k := c.cs.toCap
  let va := intBits 64 (k.base + c.arg.toNat)
  let a := engTranslate s k.space va .read i false
  match a.2 with
  | .error r => (a.1, .error r)
  | .ok pa =>
    let ac := windowAt a.1 k.space.val va
    let s1 := sliceRead (sliceRead a.1 (pa / 128) 15 ac) (pa / 128 + 1) 15 ac
    let f := viewFull s1 (c.ep s1) (pa / 128)
    let g := viewFull s1 (c.ep s1) (pa / 128 + 1)
    let data := f.data + g.data * 2 ^ 1024
    (s1, .ok { c with block := unpackBits 64 32 data, blockTags := f.tags + g.tags * 2 ^ 8,
                      blockPoison := f.poison + g.poison * 2 ^ 16 })

/-! ### Paired pages registered to an epoch (R257, R411) -/

/-- First 64 KiB page numbers of the paired pages whose alternate buffer a command writes. -/
def flipPages (c : Cmd) (ms : List SlotMap) : List Nat :=
  (ms.map (fun m =>
    if m.writes && (m.alt || (c.engine == 0 && (c.op == 0 || (c.op == 5 && c.par 136 1 == 1)))) then
      (m.pieces.filter (fun p => p.paired)).map (fun p => p.va / 65536)
    else [])).flatten

/-- Whether some page is registered to another open epoch of the tenancy. -/
def flipTaken (s : State) (key : Nat) (pages : List Nat) : Bool :=
  s.epochs.any (fun e => e.1 / 64 == key / 64 && e.1 != key && e.2.state == .opened && e.2.flips.any (fun p => pages.contains p))

/-- Registers a command's pages to its epoch, or none where one is taken. -/
def registerFlips (s : State) (c : Cmd) (ms : List SlotMap) : Option State :=
  match c.ep s with
  | none => some s
  | some key =>
    let pages := flipPages c ms
    if flipTaken s key pages then none
    else match Tab.get? s.epochs key with
      | some e => some { s with epochs := Tab.put s.epochs key { e with flips := e.flips ++ pages.filter (fun p => !e.flips.contains p) } }
      | none => some s

/-- The acceptance of a command with a block: its outcome is decided where a check fails; it is held where its epoch asks
it; otherwise it starts (R133, R316, R320). post makes the checks that need the translated slots, and answers the numbers
the command keeps. -/
def acceptBlock (spec : BlockSpec) (i : Nat) (s : State)
    (post : State → Cmd → Except Nat (List Nat) := fun _ _ => .ok []) : State :=
  match Tab.get? s.cmds i with
  | none => s
  | some c0 =>
    let r := if c0.block.isEmpty then readBlock s i c0 else (s, .ok c0)
    match r.2 with
    | .error none => r.1
    | .error (some reason) => endCmd r.1 i ⟨stAborted, reason, 0xFF, 0, 0⟩
    | .ok c =>
      let s1 := r.1.putCmd i c
      if c.badPar then endCmd s1 i (.st stRange)
      else match spec s1 c with
        | .error st => endCmd s1 i (.st st)
        | .ok needs =>
          match needs.findSome? (fun q => (slotBad c q).map (fun st => (q.index, st))) with
          | some (n, st) => endCmd s1 i ⟨st, 0, n, 0, 0⟩
          | none =>
            let a := translateSlots i c needs s1
            match a.2 with
            | .bad n st reason => endCmd a.1 i ⟨st, reason, n, 0, 0⟩
            | .wait => a.1
            | .maps ms =>
              let hold := (c.ep a.1).isSome && !writesAlternates c ms
              match post a.1 { c with slots := ms } with
              | .error st => endCmd a.1 i (.st st)
              | .ok aux =>
                match registerFlips a.1 c ms with
                | none => endCmd a.1 i (.st stStateConflict)
                | some s2 => s2.putCmd i { c with slots := ms, aux := aux, phase := if hold then .held else .started }

/-- A command that poisoned data halts: ABORTED with POISON, and an ERROR event that names the slice of the data (R449). -/
def haltCmd (s : State) (i : Nat) (c : Cmd) (pa va : Nat) : State × CmdResult :=
  (s.postError c.space 1 2 (sliceOf pa) (0x70 + c.engine) i va, { CmdResult.zero with status := stAborted, flags := 1 })

/-- n bytes of a number, with the poison of their words. -/
def bytesWith (n v poison : Nat) : List PByte := (upto n).map (fun j => (v / 256 ^ j % 256, bit poison (j / 8)))

end Sys2Proof.Machine
end

