-- ==== Sys2Proof/Machine/HostOps.lean ====
section
/-!
DEFINITION. Machine/HostOps.lean: functions and their accepted commands, the completion of a host command, tenancy states and
guarantee breaches (R430 to R434, R497, R512 to R523).
-/

namespace Sys2Proof.Machine

/-- A function's record. -/
def State.fn (s : State) (f : Fin 16) : Func := s.funcs[f.val]
/-- The state with a function's record replaced. -/
def State.setFn (s : State) (f : Fin 16) (x : Func) : State := { s with funcs := s.funcs.set f.val x }
/-- A function number as plain data back to its place. -/
def fnOf (n : Nat) : Fin 16 := ⟨n % 16, Nat.mod_lt _ (by decide)⟩

/-- The tenant record of a tenancy. -/
def State.tenant (s : State) (n : Nat) : Tenant := s.tenants[n % 16]'(Nat.mod_lt _ (by decide))
/-- A tenant record replaced. -/
def State.setTenant (s : State) (n : Nat) (x : Tenant) : State :=
  { s with tenants := s.tenants.set (n % 16) x (Nat.mod_lt _ (by decide)) }

/-- A submission ring of a function. -/
def Func.sq (x : Func) (q : Nat) : SubRing := Tab.getD x.sqs q .reset
/-- A completion ring of a function. -/
def Func.cq (x : Func) (q : Nat) : CompRing := Tab.getD x.cqs q .reset

/-- A completion is put in line for the completion ring of its submission ring (R516, R520). -/
def queuePosting (s : State) (f : Fin 16) (v : Posting) : State :=
  let x := s.fn f
  let q := fld (x.sq v.sq).ctl 9 4
  s.setFn f { x with cqs := Tab.put x.cqs q { x.cq q with waiting := (x.cq q).waiting ++ [v] } }

/-- SQ_EXECUTED: every accepted command of the ring up to it has finished (R529). -/
def syncExecuted (s : State) (f : Fin 16) (sq : Nat) : State :=
  match (s.fn f).cmds.find? (fun c => c.sq == sq) with
  | some c => s.setTen f.val 0xC0A1 sq ((c.hseq + 2 ^ 32 - 1) % 2 ^ 32)
  | none => s.setTen f.val 0xC0A1 sq (s.ten f.val 0xC0A0 sq)

/-- The accepted command of a ring with a sequence number. -/
def hostCmd (s : State) (f : Fin 16) (sq hseq : Nat) : Option HostCmd := (s.fn f).cmds.find? (fun c => c.sq == sq && c.hseq == hseq)

/-- An accepted command replaced. -/
def putHostCmd (s : State) (f : Fin 16) (c : HostCmd) : State :=
  let x := s.fn f
  s.setFn f { x with cmds := x.cmds.map (fun d => if d.sq == c.sq && d.hseq == c.hseq then c else d) }

/-- A host command finishes with a status and a result: its completion is put in line (R516). -/
def hostFinish (s : State) (f : Fin 16) (sq hseq status result : Nat) : State :=
  match hostCmd s f sq hseq with
  | none => s
  | some c =>
    let x := s.fn f
    let s1 := s.setFn f { x with cmds := x.cmds.filter (fun d => !(d.sq == sq && d.hseq == hseq)) }
    syncExecuted (queuePosting s1 f ⟨status, s.tstate f.val, sq, false, hseq, c.tag, result⟩) f sq

/-- A tenancy changes its state (R497, R523): cause 0 command, 1 a case of R467, 2 FLR or disable, 3 job end. -/
def setTstate (s : State) (n new cause : Nat) : State :=
  let old := s.tstate n
  if old = new then s else (s.setTen n 0xC080 4 new).post n 7 (old + new * 2 ^ 8 + cause * 2 ^ 16)

/-- GUARANTEE_BREACH (R430, R433, R434): the event, the breach counter of the rung, and the device-wide counters of causes 4
and 6. -/
def breach (s : State) (n rung cause gid at_ step obj : Nat) : State :=
  let d := rung + cause * 2 ^ 8 + gid * 2 ^ 16 + s.ten n 0xC080 3 * 2 ^ 32 + at_ * 2 ^ 48 + step % 2 ^ 32 * 2 ^ 64 +
    obj % 2 ^ 32 * 2 ^ 96
  let s1 := (s.post n 2 d).count n (0x27 + rung) 1
  if cause = 4 then s1.countDev 0x41 1 else if cause = 6 then s1.countDev 0x42 1 else s1

end Sys2Proof.Machine
end

