-- ==== Sys2Proof/Machine/Channels.lean ====
section
/-!
DEFINITION. Machine/Channels.lean: hand-off channels, stream channels and the CH instructions, and HCHK (R35, R122 to R126,
R290, R379 to R383).
-/

namespace Sys2Proof.Machine

/-! ### Channels by handle -/

/-- The hand-off channel a handle names, when it is live. -/
def liveChan (s : State) (h : HandleF) : Option Chan :=
  if h.kind = 3 && !h.odd then
    match Tab.get? s.chans h.index with
    | some c => if c.gen % 2 ^ 23 = h.gen && c.dev = h.dev && (c.dev || c.tenancy.val = h.tenancy) then some c else none
    | none => none
  else none

/-- The stream channel a handle names, when it is live. -/
def liveStream (s : State) (h : HandleF) : Option Stream :=
  if h.kind = 4 && !h.odd then
    match Tab.get? s.streams h.index with
    | some c => if c.gen % 2 ^ 23 = h.gen && c.dev = h.dev && (c.dev || c.tenancy.val = h.tenancy) then some c else none
    | none => none
  else none

/-- A live hand-off channel by its handle (R110). -/
def theChan (t : Tid) (w : Word) : M (Nat × Chan) := do
  let h ← handleKind t w [3]
  let s ← getS
  match liveChan s h with
  | some c => pure (h.index, c)
  | none => capViol 0 0xB 0

/-- A live stream channel by its handle (R110). -/
def theStream (t : Tid) (w : Word) : M (Nat × Stream) := do
  let h ← handleKind t w [4]
  let s ← getS
  match liveStream s h with
  | some c => pure (h.index, c)
  | none => capViol 0 0xB 0

/-- The handle of a hand-off channel. -/
def Chan.handle (c : Chan) (i : Nat) : Word := handleWord 3 c.tenancy.val c.dev c.gen i
/-- The handle of a stream channel. -/
def Stream.handle (c : Stream) (i : Nat) : Word := handleWord 4 c.tenancy.val c.dev c.gen i
/-- The space of a stream channel's object. -/
def Stream.space (c : Stream) : Nat := if c.dev then 16 else c.tenancy.val

/-- A hand-off channel replaced. -/
def State.putChan (s : State) (i : Nat) (c : Chan) : State := { s with chans := Tab.put s.chans i c }
/-- A stream channel replaced. -/
def State.putStream (s : State) (i : Nat) (c : Stream) : State := { s with streams := Tab.put s.streams i c }

/-! ### Slots in the L1 (R122, R290) -/

/-- Lines above the ways that remain to their sets leave an L1, dirty bytes written back. -/
def shrinkL1 (s : State) (c : CoreId) : State :=
  (s.core c).l1.foldl (fun (st : State) e =>
    let k := st.core c
    if l1Ways k.lentUnits (e.1 % 2048) < (l1Set k.l1 e.1).length then
      writeBack (setL1 st c (Tab.del k.l1 e.1)) e.1 e.2
    else st) s

/-- A hand-off channel is freed; its ways return to the L1 (R123, R290). -/
def freeChan (s : State) (i : Nat) (c : Chan) : State :=
  let k := s.core (coreOf c.consumer)
  { s.setCore (coreOf c.consumer) { k with lentUnits := k.lentUnits - c.units } with chans := Tab.del s.chans i }

/-- CH.OPEN (R122, R123). -/
def execChOpen (t : Tid) (rd : RIdx) (cs : PIdx) (rs : RIdx) (s : State) :=
  simple t (do
    let v ← greg t rs
    taskStart t cs [argOp 9 .index v] permCHAN
    let s1 ← getS
    let th ← getT t
    let x := v.val.toNat
    let producer := fld x 5 0
    let consumer := fld x 11 6
    let depth := fld x 15 12 + 1
    let bytes := 512 * fld x 22 16
    let units := ceilDiv (depth * bytes) 32768
    let mask := threadMask s1 th
    if fld x 63 23 ≠ 0 || !bit mask producer || !bit mask consumer || 48 ≤ producer || 48 ≤ consumer || depth < 2 || bytes = 0 ||
        32768 < bytes then putStatus t rd stRange
    else if 32 < (s1.core (coreOf consumer)).lentUnits + units then putStatus t rd stExhausted
    else do
      let i := Tab.lowestFree s1.chans
      let gen := Tab.getD s1.chanGen i 0 + 1
      let c : Chan := { gen := gen, tenancy := th.tenancy, dev := th.dev, producer := producer, consumer := consumer, depth := depth,
                        slotBytes := bytes, units := units, blocks := [], task := none, halted := false, closing := false,
                        creator := some t.val, creatorTask := creatorKey s1 t }
      modS (fun s2 =>
        let k := s2.core (coreOf consumer)
        shrinkL1 ({ s2.setCore (coreOf consumer) { k with lentUnits := k.lentUnits + units } with
          chanGen := Tab.put s2.chanGen i gen }.putChan i c) (coreOf consumer))
      wr t rd ⟨c.handle i, .handle⟩) s

/-- The tile register that a CH instruction names by its number, in the thread's group (R124). -/
def chTile (t : Tid) (x : Nat) : M Nat := do
  let g ← theGroup t 6 (x % 8)
  if g.members.contains x then pure x else tileShape 6 5 (x % 64) (x % 8)

/-- The member number of a register in the thread's group. -/
def memberNo (th : Thread) (p : Nat) : Nat :=
  match th.group with
  | some g => (findIdx? (fun q => q == p) g.members 0).getD 0
  | none => 0

/-- The start of CH.SEND and CH.RECV: operands, authority and the channel. -/
def chStart (t : Tid) (cs : PIdx) (x v : Reg) : M (Nat × Chan) := do
  taskStart t cs [argOp 6 .index x, argOp 9 .handle v] permCHAN
  theChan t v.val

/-- CH.SEND (R123, R124). A halted channel answers ABORTED before anything else is tested (R125). -/
def execChSend (t : Tid) (rd : RIdx) (cs : PIdx) (rx rs : RIdx) (s : State) :=
  runInstr t { self := some (.chSend rd cs rx rs) } (plain (do
    let x ← greg t rx
    let v ← greg t rs
    let (i, c) ← chStart t cs x v
    if c.halted then putStatus t rd stAborted
    else if t.core.val ≠ c.producer then illegal 0x50
    else do
      let p ← chTile t x.val.toNat
      let tile ← getTile t p
      let th ← getT t
      if c.slotBytes < tile.rows * tile.rowBytes then tileShape 6 9 p (memberNo th p)
      match (upto tile.rows).find? (fun r => !tile.rowValid r) with
      | some r => tileFault 6 r p 0
      | none => pure ()
      if c.closing then putStatus t rd stStateConflict
      else if c.depth ≤ c.blocks.length then waitFor (.channel i)
      else do
        let rows := (upto tile.rows).map (fun r => (r, tile.row r))
        modS (fun s1 => s1.putChan i { c with blocks := c.blocks ++ [⟨tile.rows, tile.rowBytes, rows, false⟩] })
        putBool t rd true)) s

/-- CH.RECV (R123, R124, R180): a slot is full once its block has arrived. -/
def execChRecv (t : Tid) (rd : RIdx) (cs : PIdx) (rx rs : RIdx) (s : State) :=
  runInstr t { self := some (.chRecv rd cs rx rs) } (plain (do
    let x ← greg t rx
    let v ← greg t rs
    let (i, c) ← chStart t cs x v
    if c.halted then putStatus t rd stAborted
    else if t.core.val ≠ c.consumer then illegal 0x50
    else do
      let p ← chTile t x.val.toNat
      let tile ← getTile t p
      let th ← getT t
      match c.blocks with
      | [] => waitFor (.channel i)
      | b :: bs =>
        if !b.landed then waitFor (.channel i)
        if b.rows ≠ tile.rows then tileShape 6 0 p (memberNo th p)
        if b.rowBytes ≠ tile.rowBytes then tileShape 6 1 p (memberNo th p)
        waitTile t p
        putTile t p { tile with data := b.data, valid := BitVec.ofNat 128 (2 ^ b.rows - 1) }
        let c1 := { c with blocks := bs }
        modS (fun s1 => if c.closing && bs.isEmpty then freeChan s1 i c1 else s1.putChan i c1)
        putBool t rd true)) s

/-! ### Halts (R125, R383) -/

/-- A hand-off channel halts: vector 53 (R117, R125). -/
def haltChan (s : State) (i : Nat) : State :=
  match Tab.get? s.chans i with
  | none => s
  | some c =>
    if c.halted then s
    else signalCreator (s.putChan i { c with halted := true }) c.creator c.creatorTask 53 c.tenancy.val (c.handle i)

/-- A packet of a stream channel to its other end (R379, R380). -/
def sendCredit (s : State) (node : Nat) (space number tspec : Nat) : State :=
  let q := Config.streamPayload number
  s.send node 8 0 (jobOf s space) q.1 tspec q.2

/-- A drain halts (R449, R460): its command completes with ABORTED, and the writes that wait for its buffer proceed. source is
that of the ERROR event. -/
def haltDrain (s : State) (n source : Nat) (poison : Bool) : State :=
  let x := s.tenant n
  match x.drain with
  | none => s
  | some d =>
    let s1 := (s.setTenant n { x with drain := none }).setTen n 0xC070 2 (if x.point.isSome then 1 else 0)
    let s2 := s1.postError n source 2 0 0x74 (if d.host.isSome then 0 else d.cmd) 0
    match d.host with
    | some h => hostFinish s2 (fnOf n) h.1 h.2 stAborted 0
    | none => finishWith s2 d.cmd ⟨stAborted, 0, 0xFF, b2n poison, 0⟩

/-- The drains whose stream channel is the given one halt with it (R460); no SOURCE of R449 names that cause. -/
def haltDrainsOf (s : State) (i : Nat) : State :=
  (upto 16).foldl (fun (st : State) n => match (st.tenant n).drain with
    | some d =>
      if d.stream = i then
        let r := drawFree st
        haltDrain r.2 n (r.1.toNat % 256) false
      else st
    | none => st) s

/-- A stream channel halts; tell: the other end is told with STR_CREDIT, TSPEC[30] (R383). -/
def haltStream (s : State) (i : Nat) (tell : Bool) : State :=
  match Tab.get? s.streams i with
  | none => s
  | some c =>
    if c.halted then s
    else
      let s1 := haltDrainsOf (signalCreator (s.putStream i { c with halted := true }) c.creator c.creatorTask 53 c.tenancy.val
        (c.handle i)) i
      match tell, c.node with
      | true, some n => sendCredit s1 n c.space c.number (2 ^ 30)
      | _, _ => s1

/-- Channels whose producer or consumer core has left the tenancy's mask halt (R125). -/
def haltOutside (s : State) (n : Nat) : State :=
  let mask := s.ten n 0xC010 0
  s.chans.foldl (fun (st : State) e =>
    if !e.2.dev && e.2.tenancy.val = n && !(bit mask e.2.producer && bit mask e.2.consumer) then haltChan st e.1 else st) s

/-! ### Cues (R123, R381) -/

/-- The slot of the task a channel is bound to, when it is live. -/
def boundTask (s : State) (w : Option Word) : Option Nat :=
  match w with
  | none => none
  | some v => (liveTask s (handleOf v)).map (fun _ => (handleOf v).index)

/-- HANDOFF_BLOCK_ARRIVAL: the last row of the oldest block that has not landed arrives: its cue is delivered. A block with
poisoned words halts its channel (R125, R448). -/
def execHandoffBlockArrival (chan : Nat) (s : State) : Host.Outcome State Fault Refusal :=
  match Tab.get? s.chans chan with
  | none => .next s
  | some c =>
    match findIdx? (fun (b : Block) => !b.landed) c.blocks 0 with
    | none => .next s
    | some k =>
      let c1 := { c with blocks := c.blocks.modify k (fun b => { b with landed := true }) }
      let s1 := s.putChan chan c1
      let bad := match c.blocks[k]? with
        | some b => b.data.any (fun r => r.2.poison != 0)
        | none => false
      if bad then .next (haltChan s1 chan)
      else match boundTask s1 c.task with
        | some slot => .next (decCue s1 slot)
        | none => .next s1

/-- Whether every packet of a block is in its ring slot (R381). -/
def RingSlot.whole (r : RingSlot) : Bool :=
  match r.last with
  | some k => (upto (k + 1)).all (fun j => r.got.contains j)
  | none => false

/-- Cues of arrived blocks delivered in block order, as long as a live task is bound (R381). -/
def deliverCues (i : Nat) : Nat → State → State
  | 0, s => s
  | f + 1, s =>
    match Tab.get? s.streams i with
    | none => s
    | some c =>
      if c.halted || c.slots = 0 then s
      else
        let k := c.nextCue % c.slots
        match Tab.get? c.ringSlots k, boundTask s c.task with
        | some r, some task =>
          if r.block = c.nextCue && r.whole && !r.cued then
            let c1 := { c with ringSlots := Tab.put c.ringSlots k { r with cued := true, holder := some task }, nextCue := c.nextCue + 1 }
            deliverCues i f (decCue (s.putStream i c1) task)
          else s
        | _, _ => s

/-- CH.CUE (R123, R126, R381). -/
def execChCue (t : Tid) (rd : RIdx) (cs : PIdx) (rx rs : RIdx) (s : State) :=
  simple t (do
    let x ← greg t rx
    let v ← greg t rs
    taskStart t cs [argOp 6 .handle x, argOp 9 .handle v] permCHAN
    let _ ← theTask t x.val
    let h ← handleKind t v.val [3, 4]
    let s1 ← getS
    match liveChan s1 h, liveStream s1 h with
    | some c, _ =>
      if c.halted then putStatus t rd stAborted
      else do
        modS (fun s2 => s2.putChan h.index { c with task := some x.val })
        putBool t rd true
    | none, some c =>
      if c.halted then putStatus t rd stAborted
      else do
        modS (fun s2 => deliverCues h.index (c.slots + 1) (s2.putStream h.index { c with task := some x.val }))
        putBool t rd true
    | none, none => capViol 0 0xB 0) s

/-- CH.CLOSE (R123): the channel is freed once the blocks already sent have been received. A halted channel is freed too,
but the instruction writes ABORTED as every one does (R125). -/
def execChClose (t : Tid) (rd : RIdx) (cs : PIdx) (rs : RIdx) (s : State) :=
  simple t (do
    let v ← greg t rs
    taskStart t cs [argOp 9 .handle v] permCHAN
    let h ← handleKind t v.val [3, 4]
    let s1 ← getS
    match liveChan s1 h, liveStream s1 h with
    | some c, _ => do
      modS (fun s2 => if c.blocks.isEmpty || c.halted then freeChan s2 h.index c else s2.putChan h.index { c with closing := true })
      if c.halted then putStatus t rd stAborted else putBool t rd true
    | none, some c => do
      modS (fun s2 => if c.ringSlots.isEmpty || c.halted then
          let s3 := haltDrainsOf s2 h.index
          { s3 with streams := Tab.del s3.streams h.index }
        else s2.putStream h.index { c with closing := true })
      if c.halted then putStatus t rd stAborted else putBool t rd true
    | none, none => capViol 0 0xB 0) s

/-! ### Stream channels (R379 to R383) -/

/-- CH.SOPEN (R123, R379). A range of one byte is the sending end's node; any other is the receiving end's ring. -/
def execChSopen (t : Tid) (rd : RIdx) (cs : PIdx) (rs : RIdx) (s : State) :=
  simple t (do
    let v ← greg t rs
    taskStart t cs [argOp 9 .index v] (permCHAN + permDMA + permREMOTE)
    let s1 ← getS
    let th ← getT t
    let p := th.cap cs
    let k := p.toCap
    let x := v.val.toNat
    let slotBytes := 2 ^ (fld x 19 16 + 12)
    let slots := k.length / slotBytes
    let send := k.length == 1
    if fld x 63 20 ≠ 0 || fld x 15 12 ≠ 0 || (send && (fld x 19 16 ≠ 0 || 0x3FFF < k.base)) ||
        (!send && (12 < fld x 19 16 || k.length % slotBytes ≠ 0 || slots = 0 || 128 < slots)) then putStatus t rd stRange
    else do
      let i := Tab.lowestFree s1.streams
      let gen := Tab.getD s1.streamGen i 0 + 1
      let c : Stream :=
        { gen := gen, tenancy := th.tenancy, dev := th.dev, number := fld x 11 0, recv := !send, node := if send then some k.base else none,
          ring := p, slotBytes := if send then 0 else slotBytes, slots := if send then 0 else slots, answered := false, credit := 0,
          sent := 0, sending := [], granted := if send then 0 else slots, ringSlots := [], nextCue := 0, task := none, halted := false,
          closing := false, creator := some t.val, creatorTask := creatorKey s1 t }
      modS (fun s2 => { s2 with streamGen := Tab.put s2.streamGen i gen }.putStream i c)
      wr t rd ⟨c.handle i, .handle⟩) s

/-- STR_OPEN_TIMER (R379): the sending end sends STR_OPEN until it is answered. -/
def execStrOpenTimer (stream : Nat) (s : State) : Host.Outcome State Fault Refusal :=
  match Tab.get? s.streams stream with
  | some c =>
    if c.recv || c.answered || c.halted then .next s
    else match c.node with
      | some n =>
        let q := Config.streamPayload c.number
        .next (s.send n 7 0 (jobOf s c.space) q.1 c.number q.2)
      | none => .next s
  | none => .next s

/-- Log2 of a slot size less 12. -/
def slotLog (bytes : Nat) : Nat := log2 bytes - 12

/-- A STR_OPEN at the receiving end (R379): the first one of its job and stream is answered and bound; one from another node
is refused. -/
def streamOpen (s : State) (src job number : Nat) : State :=
  match s.streams.find? (fun e => e.2.recv && e.2.number == number && jobOf s e.2.space == job) with
  | none => s
  | some (i, c) =>
    match c.node with
    | none => sendCredit (s.putStream i { c with node := some src, answered := true }) src c.space number (slotLog c.slotBytes * 2 ^ 16 + c.slots)
    | some n => if n = src then s else sendCredit s src c.space number (2 ^ 31)

/-- A STR_CREDIT (R379, R380, R383): a refusal or a halt, the answer to STR_OPEN, or credit. -/
def streamCredit (s : State) (src job number tspec : Nat) : State :=
  match s.streams.find? (fun e => e.2.number == number && jobOf s e.2.space == job && e.2.node == some src &&
      (!e.2.recv || bit tspec 30)) with
  | none => s
  | some (i, c) =>
    if bit tspec 31 || bit tspec 30 then haltStream s i false
    else s.putStream i { c with answered := true, credit := c.credit + tspec % 256,
                                slots := if c.answered then c.slots else tspec % 256,
                                slotBytes := if c.answered then c.slotBytes else 2 ^ (fld tspec 19 16 + 12) }

/-- The number since the opening of the block that a packet names modulo 256: the one among the last 256 that have been
granted (R380). -/
def blockNumber (c : Stream) (b : Nat) : Option Nat :=
  let lo := c.granted - 256
  let k := lo + (b + 256 - lo % 256) % 256
  if k < c.granted then some k else none

/-- Writes bytes of a block into the ring, page by page; none where a translation fails. -/
def writeRing (n : Fin 17) : Nat → Nat → List PByte → State → Option State
  | 0, _, _, s => some s
  | f + 1, va, bs, s =>
    match bs with
    | [] => some s
    | _ =>
      let k := 128 - va % 128
      let r := translate s n va .write .other
      match r.2 with
      | .ok pa => writeRing n f (va + k) (bs.drop k) (writeRun r.1 pa (bs.take k) (windowAt r.1 n.val va))
      | _ => none

/-- A STR_DATA packet at the receiving end (R380, R381). A packet for a block without credit is discarded. -/
def streamData (s : State) (src job tspec len data : Nat) (last : Bool) : State :=
  match s.streams.find? (fun e => e.2.recv && e.2.number == fld tspec 31 20 && jobOf s e.2.space == job && e.2.node == some src) with
  | none => s
  | some (i, c) =>
    let k := fld tspec 11 0
    let drop := s.count c.space 0x2D 1
    match blockNumber c (fld tspec 19 12) with
    | none => drop
    | some b =>
      let slot := b % c.slots
      let r := Tab.getD c.ringSlots slot ⟨b, [], none, false, none⟩
      if c.halted || r.block ≠ b || r.cued || r.got.contains k || c.slotBytes < 4096 * k + len then drop
      else match writeRing c.ring.toCap.space (len + 2) (c.ring.toCap.base + slot * c.slotBytes + 4096 * k) (bytesWith len data 0) s with
        | none => haltStream s i true
        | some s1 =>
          let r1 := { r with got := r.got ++ [k], last := if last then some k else r.last }
          deliverCues i (c.slots + 1) (s1.putStream i { c with ringSlots := Tab.put c.ringSlots slot r1 })

/-- STR_OPEN (R379). -/
def execStrOpen (src job stream : Nat) (s : State) : Host.Outcome State Fault Refusal := .next (streamOpen s src job stream)
/-- STR_DATA (R380). -/
def execStrData (src job tspec len data : Nat) (last : Bool) (s : State) : Host.Outcome State Fault Refusal :=
  .next (streamData s src job tspec len data last)

/-- STREAM_BLOCK_TIMEOUT (R383): a block whose first packet has arrived is still incomplete. -/
def execStreamBlockTimeout (stream : Nat) (s : State) : Host.Outcome State Fault Refusal :=
  match Tab.get? s.streams stream with
  | some c => if c.ringSlots.any (fun r => !r.2.whole && !r.2.got.isEmpty) then .next (haltStream s stream true) else .next s
  | none => .next s

/-- One packet of a block: its bytes are read at their slices and sent (R380). A poisoned byte answers false. -/
def sendPacket (t : Tid) (c : Stream) (n : Fin 17) (va len block k : Nat) (last : Bool) : M Bool := do
  let ps ← xlateAll t n .read (pieces (len / 128 + 3) va len)
  let bs ← runS (fun s => ps.foldl (fun (a : List PByte × State) p =>
    let r := readRun a.2 (s.th t).ep p.2.2 p.2.1 (windowAt a.2 n.val p.1)
    (a.1 ++ r.2, r.1)) ([], s))
  if bytesPoison bs then pure false
  else do
    modS (fun s => s.send (c.node.getD 0) 6 (if last then 8 else 0) (jobOf s c.space) len
      (c.number * 2 ^ 20 + block % 256 * 2 ^ 12 + k) (bytesVal bs))
    pure true

/-- The packets of a block from the iteration counter on; lim packets at most in this issue (R382). -/
def sendPackets (t : Tid) (rd : RIdx) (i : Nat) (c : Stream) (n : Fin 17) (base bytes block : Nat) : Nat → Option Nat → M Unit
  | 0, _ => pure ()
  | f + 1, lim => do
    let th ← getT t
    let k := th.iter.toNat
    let count := ceilDiv bytes 4096
    if count ≤ k then do
      modS (fun s => match Tab.get? s.streams i with
        | some x => s.putStream i { x with sending := x.sending.filter (fun y => y.1 != t.val) }
        | none => s)
      putBool t rd true
    else if lim = some 0 then do
      -- ordinary interrupts stay deferred; an NMI is taken here
      modT t (fun x => { x with inRepn := true })
      pauseM
    else do
      let good ← sendPacket t c n (base + 4096 * k) (min 4096 (bytes - 4096 * k)) block k (k + 1 == count)
      if good then do
        modT t (fun x => { x with iter := BitVec.ofNat 32 (k + 1) })
        sendPackets t rd i c n base bytes block f (lim.map (fun l => l - 1))
      else do
        modS (fun s => haltStream s i true)
        putStatus t rd stAborted

/-- CH.SSEND (R123, R380, R382). -/
def execChSsend (t : Tid) (rd : RIdx) (cs : PIdx) (rx rs : RIdx) (lim : Option Nat) (s : State) :=
  runInstr t { resumable := true, self := some (.chSsend rd cs rx rs) } (plain (do
    let x ← greg t rx
    let v ← greg t rs
    let th ← getT t
    checkOps (csOps (th.cap cs) ++ [argOp 6 .index x, argOp 9 .handle v])
    let k := (th.cap cs).toCap
    let bytes := x.val.toNat
    dataChecks t k (permCHAN + permLD + permDMA) k.base bytes 1
    let (i, c) ← theStream t v.val
    if ceilDiv bytes 4096 < th.iter.toNat then illegal 0x61
    let s1 ← getS
    let own := creatorKey s1 t
    if c.halted then putStatus t rd stAborted
    else if c.recv || bytes = 0 || (c.answered && c.slotBytes < bytes) then putStatus t rd stRange
    else match c.sending.find? (fun y => y.1 == t.val && y.2.1 == own) with
      | some y => sendPackets t rd i c k.space k.base bytes y.2.2 (ceilDiv bytes 4096 + 1) lim
      | none =>
        if !c.answered || c.credit = 0 then waitFor (.channel i)
        else do
          let c1 := { c with credit := c.credit - 1, sent := c.sent + 1, sending := c.sending ++ [(t.val, own, c.sent)] }
          modS (fun s2 => s2.putStream i c1)
          modT t (fun y => { y with iter := 0 })
          sendPackets t rd i c1 k.space k.base bytes c.sent (ceilDiv bytes 4096 + 1) lim)) s

/-- CHANNEL_SLOT_READY (R124, R382): a CH instruction that waits for a slot, a block or credit goes on. -/
def execChannelSlotReady (t : Tid) (s : State) : Host.Outcome State Fault Refusal :=
  let th := s.th t
  match th.status with
  | .waiting (.channel _) =>
    let s1 := s.setTh t { th with status := .active, waitsWith := none }
    match th.waitsWith with
    | some (.chSend rd cs rx rs) => execChSend t rd cs rx rs s1
    | some (.chRecv rd cs rx rs) => execChRecv t rd cs rx rs s1
    | some (.chSsend rd cs rx rs) => execChSsend t rd cs rx rs none s1
    | _ => .next s1
  | _ => .next s

/-! ### HCHK (R35) -/

/-- Whether a handle value names a live object of a thread's tenancy; at L2 of any (R35, R110). -/
def handleLive (s : State) (th : Thread) (w : Word) : Bool :=
  let h := handleOf w
  handleTenancyOk th h && !h.odd && (match h.kind with
    | 1 => (liveTask s h).isSome
    | 2 => (liveEpoch s h).isSome
    | 3 => (liveChan s h).isSome
    | 4 => (liveStream s h).isSome
    | 5 => decide (h.index < 768) && (match (s.th (tidOf h.index)).group with
      | some g => g.gen % 2 ^ 23 == h.gen && (s.th (tidOf h.index)).dev == h.dev && (h.dev || (s.th (tidOf h.index)).tenancy.val == h.tenancy)
      | none => false)
    | 6 => (liveCmd s h).isSome
    | _ => false)

/-- HCHK (R35): the operand is in slot 0x8. -/
def execHchk (t : Tid) (rd rs1 : RIdx) (s : State) :=
  simple t (do
    let v ← greg t rs1
    checkOps [⟨8, .count, v, false, none, 0⟩]
    let s1 ← getS
    let th ← getT t
    if v.tag == .poison then pure ()
    else if handleLive s1 th v.val then wr t rd ⟨v.val, .handle⟩
    else capViol 0 0xB 0) s

end Sys2Proof.Machine
end

