-- ==== Sys2Proof/Machine/Fabric.lean ====
section
/-!
DEFINITION. Machine/Fabric.lean: the link ports: training, blocks and flits, retry, credit, HELLO, the link key exchange, and
sealing a packet for a link (R349 to R376, R482 to R486).
-/

namespace Sys2Proof.Machine

/-- The time in CK_CTL cycles, as the timer of core 0 counts it. -/
def State.now (s : State) : Nat := (s.cores[0]).timerNow.toNat

/-! ### Ports -/

/-- The port's record. -/
def State.port (s : State) (p : Fin 16) : Port := s.ports[p.val]
/-- The state with a port's record replaced. -/
def State.setPort (s : State) (p : Fin 16) (x : Port) : State := { s with ports := s.ports.set p.val x }
/-- A port number as plain data back to its place. -/
def portOf (n : Nat) : Fin 16 := ⟨n % 16, Nat.mod_lt _ (by decide)⟩

def psOff : Nat := 0
def psTraining : Nat := 1
def psHello : Nat := 2
def psKeying : Nat := 3
def psActive : Nat := 4
def psOut : Nat := 5

/-- PORT_STATUS[2:0] (R385). -/
def State.pstate (s : State) (p : Fin 16) : Nat := s.dev 0x4002 p.val % 8
/-- Sets PORT_STATUS[2:0]. -/
def State.setPstate (s : State) (p : Fin 16) (v : Nat) : State := s.setDev 0x4002 p.val (setFld (s.dev 0x4002 p.val) 2 0 v)

/-- Adds to a counter of a port (R536): 0 codewords corrected, 1 uncorrectable, 2 flits retried, 3 packets discarded, 4 packets
lost, 5 departures. -/
def State.countPort (s : State) (p : Fin 16) (sub n : Nat) : State :=
  if n = 0 then s else s.setDev (0x9010 + p.val) sub (s.dev (0x9010 + p.val) sub + n)

/-- A fabric event (R384, R523): the vector on the thread of FABRIC_EVENT_THREAD, the Drone's log, and the event ring of every
RUNNING tenancy. -/
def fabricEvent (s : State) (vec : Nat) (p : Fin 16) : State :=
  let w := s.dev 0x4000 5
  let core := fld w 13 8
  let s1 := if core < 48 then s.pend (tidOf (16 * core + w % 16)) vec else s
  let d := vec + p.val * 2 ^ 8 + s.pstate p * 2 ^ 16 + s.fabricDiscards % 2 ^ 32 * 2 ^ 32
  let s2 := (upto 16).foldl (fun (st : State) n => if st.tstate n == tsRunning then st.hold n 8 d else st) (s1.log 8 d)
  { s2 with fabricDiscards := 0 }

/-- A packet is discarded at a port and counted; reported: vector 59, at most once per port per 2^20 CK_CTL cycles (R376). -/
def discardAt (s : State) (p : Fin 16) (report : Bool) : State :=
  let s1 := { s.countPort p 3 1 with fabricDiscards := s.fabricDiscards + 1 }
  let again := match (s.port p).lastDiscard with
    | some t => decide (t + 2 ^ 20 ≤ s.now)
    | none => true
  if report && again then fabricEvent (s1.setPort p { s1.port p with lastDiscard := some s.now }) 59 p else s1

/-! ### Leaving ACTIVE and training (R352 to R354, R366) -/

/-- The link layer of a port as training leaves it: nothing sent, nothing received, no key. Packets that have arrived whole go
on to the router. -/
def Port.relink (x : Port) : Port :=
  { Port.reset with txLanes := x.txLanes, rxLanes := x.rxLanes, departures := x.departures, helloSent := x.helloSent,
                    arrived := x.arrived, kexFails := x.kexFails, lastDiscard := x.lastDiscard }

/-- Packets of which a flit is not yet acknowledged: the EOP flits among them (R366). -/
def Port.inFlight (x : Port) : Nat := (x.unacked.filter (fun f => f.2 % 256 % 16 = 8)).length

/-- A port leaves its state for another one that carries nothing. From ACTIVE the departure and the packets that may be lost
are counted and vector 57 is raised; at LINK_FLAP_LIMIT departures in the management period the Drone sets the port to OUT, and
vector 60 is raised (R354, R366). -/
def leavePort (s : State) (p : Fin 16) (new : Nat) : State :=
  let x := s.port p
  let active := s.pstate p == psActive
  let s1 := (s.setPort p x.relink).setPstate p new
  if !active then s1
  else
    let s2 := (s1.countPort p 4 x.inFlight).countPort p 5 1
    let s3 := s2.setPort p { s2.port p with departures := x.departures + 1 }
    let s4 := fabricEvent s3 57 p
    if s4.dev 0x4000 6 ≤ x.departures + 1 && new == psTraining then fabricEvent (s4.setPstate p psOut) 60 p else s4

/-- Whether a port carries flits (R352). -/
def portUp (s : State) (p : Fin 16) : Bool := s.pstate p == psHello || s.pstate p == psKeying || s.pstate p == psActive

/-- A port that carries flits returns to TRAINING (R353). -/
def retrain (s : State) (p : Fin 16) : State := if portUp s p then leavePort s p psTraining else s

/-- The widest aligned group of lanes that all trained, with its width (R351). -/
def laneGroup (trained : Nat) : Option (Nat × Nat) :=
  ([(0xFFFF, 16), (0x00FF, 8), (0xFF00, 8), (0x000F, 4), (0x00F0, 4), (0x0F00, 4), (0xF000, 4)] : List (Nat × Nat)).find?
    (fun g => Nat.land trained g.1 == g.1)

/-! ### Flits (R357, R358) -/

/-- A flit of a header byte and a body of 252 bytes, with its CRC. -/
def mkFlit (hdr body : Nat) : Nat :=
  let f := hdr % 256 + body % 256 ^ 252 * 256
  f + flitCrc f * 256 ^ 253

/-- A sequenced flit at the end of a port's list (R358). -/
def sendFlit (x : Port) (flit : Nat) : Port :=
  { x with unacked := x.unacked ++ [(x.txSeq, flit)], txSeq := (x.txSeq + 1) % 4096 }

/-- A control flit (R361). -/
def sendControl (s : State) (p : Fin 16) (body : Nat) : State := s.setPort p (sendFlit (s.port p) (mkFlit 2 body))

/-! ### HELLO (R367 to R369) -/

/-- The number of an ASCII string, first character least significant. -/
def asciiNum (t : String) : Nat := ofLe (t.toList.map Char.toNat)

/-- ID_DIGEST: SHAKE256 of the identity key, truncated to 256 bits (R367). -/
def idDigest : Nat := shake256 1952 idPublic 32

/-- PORT_CTL's label: 1 DOWN (R385). -/
def portLabel (s : State) (p : Fin 16) : Bool := bit (s.dev 0x4001 p.val) 1

/-- The HELLO record that a port sends (R367), with COUNT. -/
def helloBody (s : State) (p : Fin 16) (count : Nat) : Nat :=
  0x01 + 0x01 * 256 + p.val * 256 ^ 2 + (b2n (portLabel s p) + 2 * b2n (s.pstate p == psTraining)) * 256 ^ 3 +
    s.dev 0x4000 0 * 256 ^ 4 + s.dev 0x4000 3 * 256 ^ 6 + s.dev 0x4000 1 * 256 ^ 8 + s.dev 0x1010 0 * 256 ^ 16 +
    s.dev 0x1002 0 * 256 ^ 24 + idDigest * 256 ^ 40 + fld (s.dev 0x4002 p.val) 12 8 * 256 ^ 72 +
    fld (s.dev 0x4002 p.val) 20 16 * 256 ^ 73 + count % 2 ^ 32 * 256 ^ 74

/-- A port sends a HELLO; COUNT counts it (R367, R368). -/
def sendHello (s : State) (p : Fin 16) : State :=
  if !portUp s p then s
  else
    let n := (s.port p).helloSent + 1
    sendControl (s.setPort p { s.port p with helloSent := n }) p (helloBody s p n)

/-- A field of the HELLO record of every port has changed: each port that carries flits sends one (R368). -/
def helloChanged (s : State) : State := (upto 16).foldl (fun (st : State) p => sendHello st (portOf p)) s

/-- PORT_TRAINED (R351 to R353, R368): each direction takes the widest group of its lanes that trained without error at both
ends. -/
def execPortTrained (p : Fin 16) (tx rx : BitVec 16) (s : State) : Host.Outcome State Fault Refusal :=
  if s.pstate p ≠ psTraining then .next s
  else match laneGroup tx.toNat, laneGroup rx.toNat with
    | some a, some b =>
      let old := s.dev 0x4002 p.val
      let s1 := s.setPort p { (s.port p).relink with txLanes := a.1, rxLanes := b.1 }
      let s2 := s1.setDev 0x4002 p.val (setFld (setFld (setFld old 2 0 psHello) 12 8 a.2) 20 16 b.2)
      let s3 := if fld old 12 8 = a.2 && fld old 20 16 = b.2 then s2 else fabricEvent s2 57 p
      .next (sendHello s3 p)
    | _, _ => .next s

/-- TRAINING_TIMEOUT (R353): a fresh attempt begins; the port stays in TRAINING. -/
def execTrainingTimeout (p : Fin 16) (s : State) : Host.Outcome State Fault Refusal :=
  if s.pstate p = psTraining then .next (s.setPort p (s.port p).relink) else .next s

/-- BLOCK_LOCK_LOST (R353): on a lane of the receive width. -/
def execBlockLockLost (p : Fin 16) (lane : Fin 16) (s : State) : Host.Outcome State Fault Refusal :=
  if bit (s.port p).rxLanes lane.val then .next (retrain s p) else .next s

/-! ### The link key exchange (R482 to R486) -/

/-- A blob's field: n bytes at an offset. -/
def Blob.field (b : Blob) (off n : Nat) : Nat := b.val / 256 ^ off % 256 ^ n
/-- Two byte strings one after the other. -/
def Blob.append (a b : Blob) : Blob := ⟨a.len + b.len, a.val % 256 ^ a.len + b.val * 256 ^ a.len⟩
/-- SHAKE256 of a byte string. -/
def Blob.shake (b : Blob) (out : Nat) : Nat := shake256 b.len b.val out

/-- The identity key's seed (R472). -/
def idSeed : Nat := shake256 40 (asciiNum "OZ4IDSK0" + Config.deviceSecret.toNat * 256 ^ 8) 32

/-- A signature with the identity key, with fresh random bytes (R474). -/
def signId (ctx : String) (m : Blob) (s : State) : Nat × State :=
  let r := drawBits 8 s
  (Config.mldsaSign idSeed ctx m.len m.val r.1 % 256 ^ 3309, r.2)

/-- What the SIG of an OFFER covers beside bytes 0 to 7,684: the sender's port and its FABRIC_ID (R483). -/
def offerSigned (offer : Blob) (port fabric : Nat) : Blob := ⟨7694, offer.field 0 7685 + port * 256 ^ 7685 + fabric * 256 ^ 7686⟩

/-- The fragments of a message as KEY_MSG control flits (R482). -/
def sendMsg (p : Fin 16) (msg : Nat) (m : Blob) (s : State) : State :=
  let n := ceilDiv m.len 244
  (upto n).foldl (fun (st : State) k =>
    let len := min 244 (m.len - 244 * k)
    sendControl st p (0x02 + msg * 256 + k * 256 ^ 2 + n * 256 ^ 4 + len * 256 ^ 6 + m.field (244 * k) len * 256 ^ 8)) s

/-- An exchange starts: fresh nonce and key, and the OFFER is sent (R483). -/
def startKex (s : State) (p : Fin 16) : State :=
  let a := drawBits 8 s
  let b := drawBits 16 a.2
  let ek := Config.mlkemPublic b.1 % 256 ^ 1184
  let head : Blob := ⟨7685, a.1 % 256 ^ 32 + ek * 256 ^ 32 + Config.endorsement.toNat % 256 ^ 6469 * 256 ^ 1216⟩
  let sig := signId "OZ4-LINK" (offerSigned head p.val (b.2.dev 0x4000 1)) b.2
  let offer := head.append ⟨3309, sig.1⟩
  let k : Kex := { nonce := a.1 % 256 ^ 32, dk := ⟨64, b.1⟩, offer := offer, peer := none, ssPeer := none, ssOwn := none, part := none }
  sendMsg p 1 offer (sig.2.setPort p { sig.2.port p with kex := some k })

/-- A failed exchange (R484): counted, vector 58, and the port returns to TRAINING. -/
def kexFailed (s : State) (p : Fin 16) : State :=
  let s1 := s.setPort p { s.port p with kexFails := (s.port p).kexFails + 1, kex := none }
  fabricEvent (retrain s1 p) 58 p

/-- The neighbour's record as it was last received. -/
def neighbour (s : State) (p : Fin 16) : Blob := ⟨252, s.dev 0x4003 p.val⟩

/-- Whether an endorsement record verifies under a key of the boot ROM (R473, R484). -/
def endorsementOk (e : Blob) : Bool :=
  match Config.endorseKey (e.field 3152 8) with
  | some pk => Config.mldsaVerify pk "OZ4-ENDORSE" 3160 (e.field 0 3160) (e.field 3160 3309)
  | none => false

/-- The endorsement record in an OFFER, and its identity key. -/
def offerEndorsement (o : Blob) : Blob := ⟨6469, o.field 1216 6469⟩
/-- ID_PK of an OFFER's endorsement record. -/
def offerIdPk (o : Blob) : Nat := (offerEndorsement o).field 16 1952

/-- The checks of an OFFER (R484). -/
def offerOk (s : State) (p : Fin 16) (o : Blob) : Bool :=
  let h := neighbour s p
  o.len == 10994 && endorsementOk (offerEndorsement o) && shake256 1952 (offerIdPk o) 32 == h.field 40 32 &&
    Config.mldsaVerify (offerIdPk o) "OZ4-LINK" 7694 (offerSigned o (h.field 2 1) (h.field 8 8)).val (o.field 7685 3309)

/-- CREDIT_SYNC: the sender's full credit for each channel (R360, R361). -/
def creditBody : Nat :=
  0x04 + ((upto 8).foldl (fun (v : Nat) c => v + (if c < 4 then 384 else 128) * 2 ^ (16 * c)) 0) * 256 ^ 2

/-- Both secrets are known: the keys of R485 are taken, KEY_SWITCH is sent, and the port enters ACTIVE. -/
def finishKex (s : State) (p : Fin 16) (k : Kex) (peer : Blob) (ssPeer ssOwn : Nat) : State :=
  let x := s.port p
  let active := s.pstate p == psActive
  let h := neighbour s p
  let own := ofBe (leBytes 32 idDigest)
  let far := ofBe (leBytes 32 (h.field 40 32))
  -- whether this end is end L
  let low := decide (own < far) || (own == far && decide (p.val < h.field 2 1))
  let epoch := if active then 1 - x.keyEpoch else 0
  let far32 := peer.field 0 32
  let out := shake256 137 (asciiNum "OZ4LINKK" + (if low then ssOwn else ssPeer) * 256 ^ 8 +
    (if low then ssPeer else ssOwn) * 256 ^ 40 + (if low then k.nonce else far32) * 256 ^ 72 +
    (if low then far32 else k.nonce) * 256 ^ 104 + epoch * 256 ^ 136) 72
  let fromL : LinkKey := ⟨out % 256 ^ 32, out / 256 ^ 32 % 256 ^ 4⟩
  let toL : LinkKey := ⟨out / 256 ^ 36 % 256 ^ 32, out / 256 ^ 68 % 256 ^ 4⟩
  let s1 := s.setPort p { x with kex := none, keyEpoch := epoch, nextRx := some (if low then toL else fromL) }
  let s2 := sendControl s1 p (0x03 + epoch * 256)
  let s3 := s2.setPort p { s2.port p with txKey := some (if low then fromL else toL), txCount := 0 }
  if active then s3 else sendControl (fabricEvent (s3.setPstate p psActive) 57 p) p creditBody

/-- The exchange of a port goes on once both secrets are known. -/
def kexStep (s : State) (p : Fin 16) : State :=
  match (s.port p).kex with
  | none => s
  | some k => match k.peer, k.ssPeer, k.ssOwn with
    | some o, some a, some b => finishKex s p k o a b
    | _, _, _ => s

/-- A whole OFFER or ACCEPT has arrived (R483, R484). -/
def kexMessage (s : State) (p : Fin 16) (k : Kex) (msg : Nat) (m : Blob) : State :=
  if msg = 1 then
    if !offerOk s p m then kexFailed s p
    else
      let r := drawBits 8 s
      let e := Config.mlkemEncaps (m.field 32 1184) r.1
      let head : Blob := ⟨1120, e.1 % 256 ^ 1088 + m.shake 32 * 256 ^ 1088⟩
      let sig := signId "OZ4-LINK" head r.2
      let s1 := sig.2.setPort p { sig.2.port p with kex := some { k with peer := some m, ssPeer := some (e.2 % 256 ^ 32) } }
      kexStep (sendMsg p 2 (head.append ⟨3309, sig.1⟩) s1) p
  else match k.peer with
    | none => kexFailed s p
    | some o =>
      let good := m.len == 4429 && m.field 1088 32 == k.offer.shake 32 &&
        Config.mldsaVerify (offerIdPk o) "OZ4-LINK" 1120 (m.field 0 1120) (m.field 1120 3309)
      match (if good then Config.mlkemDecaps k.dk.val (m.field 0 1088) else none) with
      | some ss => kexStep (s.setPort p { s.port p with kex := some { k with ssOwn := some (ss % 256 ^ 32) } }) p
      | none => kexFailed s p

/-- A KEY_MSG fragment (R482). A fragment that does not follow its message fails the exchange. -/
def keyMsg (s : State) (p : Fin 16) (body : Nat) : State :=
  if s.pstate p ≠ psKeying && s.pstate p ≠ psActive then s
  else
    let b : Blob := ⟨252, body⟩
    let msg := b.field 1 1
    let frag := b.field 2 2
    let n := b.field 4 2
    let len := b.field 6 2
    if msg ≠ 1 && msg ≠ 2 then discardAt s p false
    else
      -- an OFFER on an ACTIVE port that has not begun a fresh exchange begins one (R486)
      let s1 := if (s.port p).kex.isNone && msg = 1 then startKex s p else s
      match (s1.port p).kex with
      | none => discardAt s1 p false
      | some k =>
        let at_ := match k.part with
          | some (m, next, total, got) => if m = msg && next = frag && total = n then some got else none
          | none => if frag = 0 then some ⟨0, 0⟩ else none
        match at_ with
        | none => kexFailed s1 p
        | some got =>
          if len = 0 || 244 < len || n = 0 then kexFailed s1 p
          else
            let all := got.append ⟨len, b.field 8 len⟩
            if frag + 1 = n then
              let k1 := { k with part := none }
              kexMessage (s1.setPort p { s1.port p with kex := some k1 }) p k1 msg all
            else s1.setPort p { s1.port p with kex := some { k with part := some (msg, frag + 1, n, all) } }

/-- A KEY_SWITCH (R361): later packets use the new key, and the packet counter starts at 0. -/
def keySwitch (s : State) (p : Fin 16) (epoch : Nat) : State :=
  let x := s.port p
  match x.nextRx with
  | some k => if epoch = x.keyEpoch then s.setPort p { x with rxKey := some k, nextRx := none, rxCount := 0 } else s
  | none => s

/-- A CREDIT_SYNC: the credit that the neighbour gives for each channel (R361). -/
def creditSync (s : State) (p : Fin 16) (credits : Nat) : State :=
  s.setPort p { s.port p with credits := (upto 8).map (fun c => credits / 2 ^ (16 * c) % 2 ^ 16) }

/-- The bytes of a HELLO record without COUNT. -/
def helloBare (v : Nat) : Nat := v - v / 256 ^ 74 % 256 ^ 4 * 256 ^ 74

/-- A HELLO is received (R353, R368, R369). -/
def helloArrives (s : State) (p : Fin 16) (body : Nat) : State :=
  if !portUp s p then s
  else
    let h : Blob := ⟨252, body⟩
    let changed := helloBare (s.dev 0x4003 p.val) != helloBare body
    let s1 := s.setDev 0x4003 p.val body
    let s2 := if changed then fabricEvent s1 58 p else s1
    let same := bit (h.field 3 1) 0 == portLabel s2 p
    let s3 := if same && !changed then fabricEvent s2 58 p else s2
    if bit (h.field 3 1) 1 then retrain s3 p
    else if s3.pstate p ≠ psHello then s3
    else if h.field 8 8 = s3.dev 0x4000 1 && h.field 16 8 = s3.dev 0x1010 0 then startKex (s3.setPstate p psKeying) p
    else if changed then s3 else fabricEvent s3 58 p

/-- HELLO (R367, R369). -/
def execHello (p : Fin 16) (body : BitVec 2016) (s : State) : Host.Outcome State Fault Refusal := .next (helloArrives s p body.toNat)
/-- HELLO_TIMER (R368). -/
def execHelloTimer (p : Fin 16) (s : State) : Host.Outcome State Fault Refusal := .next (sendHello s p)
/-- KEY_MSG (R482, R484). -/
def execKeyMsg (p : Fin 16) (body : BitVec 2016) (s : State) : Host.Outcome State Fault Refusal := .next (keyMsg s p body.toNat)
/-- KEYING_TIMEOUT (R484, R486). -/
def execKeyingTimeout (p : Fin 16) (s : State) : Host.Outcome State Fault Refusal :=
  if s.pstate p = psKeying || (s.pstate p = psActive && (s.port p).kex.isSome) then .next (kexFailed s p) else .next s
/-- KEY_SWITCH (R361). -/
def execKeySwitch (p : Fin 16) (epoch : Bool) (s : State) : Host.Outcome State Fault Refusal := .next (keySwitch s p (b2n epoch))
/-- CREDIT_SYNC (R361). -/
def execCreditSync (p : Fin 16) (credits : BitVec 128) (s : State) : Host.Outcome State Fault Refusal :=
  .next (creditSync s p credits.toNat)
/-- REKEY_START (R486): the packet counter of an ACTIVE port has reached 2^39. -/
def execRekeyStart (p : Fin 16) (s : State) : Host.Outcome State Fault Refusal :=
  if s.pstate p = psActive && 2 ^ 39 ≤ (s.port p).txCount && (s.port p).kex.isNone then .next (startKex s p) else .next s

/-! ### Receiving blocks (R355 to R361) -/

/-- Flits up to an acknowledged number leave the retry buffer. -/
def ackFlits (x : Port) (ack : Nat) : Port :=
  match x.unacked with
  | [] => x
  | f :: _ =>
    let n := (ack + 4096 - f.1) % 4096
    if n ≤ x.unacked.length then { x with unacked := x.unacked.drop n } else x

/-- The header of a block (R356): ACK, NAK and returned credit. The port goes to TRAINING when the neighbour asks for one flit
eight times in a row (R358). -/
def takeHeader (s : State) (p : Fin 16) (h : Nat) : State :=
  let x := ackFlits (s.port p) (fld h 27 16)
  let vc := fld h 14 12
  let full := if vc < 4 then 384 else 128
  let x1 := { x with credits := setAt x.credits vc (min full (x.credits.getD vc 0 + 8 * fld h 11 8)) }
  if bit h 15 then
    let again := if x1.txFails.1 = fld h 27 16 && x1.txFails.2 ≠ 0 then x1.txFails.2 + 1 else 1
    let s1 := (s.setPort p { x1 with txFails := (fld h 27 16, again) }).countPort p 2 (min 1024 x1.unacked.length)
    if 8 ≤ again then retrain s1 p else s1
  else s.setPort p { x1 with txFails := (0, 0) }

/-- Flits of a packet in a receive buffer. -/
def RxPacket.flits (r : RxPacket) : Nat := r.bytes.len / 252

/-- Flits leave a receive buffer; credit goes back eight at a time (R360). -/
def freeFlits (x : Port) (vc n : Nat) : Port := { x with freed := setAt x.freed vc ((x.freed.getD vc 0 + n) % 8) }

/-- A data flit of a channel (R362, R364). -/
def dataFlit (s : State) (p : Fin 16) (hdr body : Nat) : State :=
  let x := s.port p
  let vc := fld hdr 7 5
  let b : Blob := ⟨252, body⟩
  let start := bit hdr 4
  let lost := start && (Tab.get? x.rxPart vc).isSome
  let part : Option RxPacket := if start then some ⟨vc, x.rxCount, x.rxKey, b⟩
    else (Tab.get? x.rxPart vc).map (fun r => { r with bytes := r.bytes.append b })
  match part with
  | none => discardAt (s.setPort p (freeFlits x vc 1)) p false
  | some r =>
    let x1 := if start then { x with rxCount := x.rxCount + 1 } else x
    let x2 := if bit hdr 3 then { x1 with rxPart := Tab.del x1.rxPart vc, arrived := x1.arrived ++ [r] }
      else { x1 with rxPart := Tab.put x1.rxPart vc r }
    if lost then discardAt (s.setPort p x2) p false else s.setPort p x2

/-- A control flit by its type (R361). -/
def controlFlit (s : State) (p : Fin 16) (body : Nat) : State :=
  match body % 256 with
  | 1 => helloArrives s p body
  | 2 => keyMsg s p body
  | 3 => keySwitch s p (body / 256 % 2)
  | 4 => creditSync s p (body / 256 ^ 2 % 2 ^ 128)
  | _ => discardAt s p false

/-- The flits of a block in order (R358). seq is the number of the next sequenced flit; down: an earlier flit of the block has
failed. -/
def takeFlits (p : Fin 16) : List (Nat × Bool) → Nat → Bool → State → State
  | [], _, _, s => s
  | (f, bad) :: fs, seq, down, s =>
    if down || !portUp s p then s
    else
      let hdr := f % 256
      let kind := hdr % 8
      let x := s.port p
      if bad || flitCrc (f % 256 ^ 253) ≠ f / 256 ^ 253 || 2 < kind then
        -- the failure counts against the flit that is expected
        if seq = x.rxSeq then
          let s1 := s.setPort p { x with rxFails := x.rxFails + 1, nak := true }
          if 8 ≤ x.rxFails + 1 then retrain s1 p else s1
        else s.setPort p { x with nak := true }
      else if kind = 1 then takeFlits p fs seq false s
      else if seq ≠ x.rxSeq then takeFlits p fs ((seq + 1) % 4096) false s
      else
        let body := f / 256 % 256 ^ 252
        let s1 := s.setPort p { x with rxSeq := (x.rxSeq + 1) % 4096, rxFails := 0, nak := false }
        let s2 := if kind = 0 then dataFlit s1 p hdr body else controlFlit s1 p body
        takeFlits p fs ((seq + 1) % 4096) false s2

/-- BLOCK_RECEIVE (R355 to R358): the header, five flits, which of the two codewords the FEC could not correct, and how many it
corrected. The first codeword covers the header and flits 0 to 2, the second one flits 2 to 4. -/
def execBlockReceive (p : Fin 16) (hdr : BitVec 40) (f0 f1 f2 f3 f4 : BitVec 2048) (badA badB : Bool) (corrected : Fin 3)
    (s : State) : Host.Outcome State Fault Refusal :=
  if !portUp s p then .next s
  else
    let h := hdr.toNat
    let s1 := (s.countPort p 0 corrected.val).countPort p 1 (b2n badA + b2n badB)
    let good := headerCrc h == h % 256
    let s2 := if good then takeHeader s1 p h else s1
    let bad (b : Bool) := b || !good
    .next (takeFlits p [(f0.toNat, bad badA), (f1.toNat, bad badA), (f2.toNat, bad (badA || badB)), (f3.toNat, bad badB),
      (f4.toNat, bad badB)] (if good then fld h 39 28 else (s.port p).rxSeq) false s2)

/-! ### Packets on a link (R362 to R365) -/

/-- The 16-byte header of a packet (R362). -/
def Packet.header (q : Packet) : Nat :=
  q.dest + q.src * 256 ^ 2 + q.type * 256 ^ 4 + q.flags * 256 ^ 5 + q.hops * 256 ^ 6 + q.job * 256 ^ 8 + q.len * 256 ^ 10 +
    q.tspec * 256 ^ 12

/-- Flits of a packet (R362). -/
def Packet.flits (q : Packet) : Nat := ceilDiv (q.len + 32) 252

/-- The IV of a packet: the salt, then the packet counter (R364). -/
def linkIv (k : LinkKey) (count : Nat) : List Nat := leBytes 4 k.salt ++ leBytes 8 count

/-- A packet is sealed for the link of a port and its flits follow one another on a channel (R362, R364). -/
def transmit (s : State) (p : Fin 16) (vc : Nat) (q : Packet) : State :=
  let x := s.port p
  match x.txKey with
  | none => s
  | some k =>
    let hdr := leBytes 16 q.header
    let c := gcmSeal (leBytes 32 k.key) (linkIv k x.txCount) hdr (leBytes q.len q.data)
    let v := ofLe (hdr ++ c.1 ++ c.2)
    let n := q.flits
    let x1 := { x with txCount := x.txCount + 1, credits := setAt x.credits vc (x.credits.getD vc 0 - n) }
    s.setPort p ((upto n).foldl (fun (y : Port) j =>
      sendFlit y (mkFlit (vc * 32 + 16 * b2n (j == 0) + 8 * b2n (j + 1 == n)) (v / 256 ^ (252 * j)))) x1)

/-- The packet that arrived bytes hold, when its tag verifies (R364, R365). -/
def openPacket (r : RxPacket) : Option Packet :=
  let b := r.bytes
  let len := b.field 10 2
  match r.key with
  | none => none
  | some k =>
    if len = 0 || 4096 < len || b.len ≠ 252 * ceilDiv (len + 32) 252 then none
    else match gcmOpen (leBytes 32 k.key) (linkIv k r.count) (leBytes 16 (b.field 0 16)) (leBytes len (b.field 16 len))
        (leBytes 16 (b.field (16 + len) 16)) with
      | none => none
      | some pt => some { dest := b.field 0 2, src := b.field 2 2, type := b.field 4 1, flags := b.field 5 1, hops := b.field 6 1,
                          job := b.field 8 2, len := len, tspec := b.field 12 4, data := ofLe pt }

/-- The channel of a packet type (R363), none for a reserved one. -/
def typeChannel (t : Nat) : Option Nat :=
  match t with
  | 1 => some 0 | 2 => some 1 | 3 => some 2 | 4 => some 2 | 5 => some 2 | 6 => some 3 | 7 => some 0 | 8 => some 1
  | 9 => some 0 | 10 => some 1
  | _ => none

/-! ### PORT_CTL (R352, R354, R375, R385) -/

/-- Whether some tenancy is RUNNING. -/
def anyTenancyRuns (s : State) : Bool := (upto 16).any (fun n => s.tstate n == tsRunning)

/-- Whether VIO is within limits (R352, R560). -/
def vioGood (s : State) : Bool := bit (s.dev 0x2005 0) 4

/-- A write of PORT_CTL: its status when it is refused. A label changes only while no tenancy is RUNNING; OUT takes the port
out, and the port leaves OUT only through ENABLE 0 and then 1. -/
def writePortCtl (s : State) (p : Fin 16) (v : Nat) : Except Nat State :=
  let old := s.dev 0x4001 p.val
  if bit v 1 != bit old 1 && anyTenancyRuns s then .error stStateConflict
  else
    let s1 := s.setDev 0x4001 p.val v
    let st := s1.pstate p
    let s2 :=
      if !bit v 0 then (if st = psOff then s1 else leavePort s1 p psOff)
      else if bit v 2 then (if st = psOut then s1 else leavePort s1 p psOut)
      else if st = psOff && vioGood s1 && s1.clockOn then (s1.setPort p { (s1.port p).relink with helloSent := 0 }).setPstate p psTraining
      else s1
    .ok (if bit v 1 != bit old 1 then sendHello s2 p else s2)

/-- PORT_CTL_WRITE (R385): a write whose reserved bits are not zero is refused (R542). A refused write has no effect. -/
def execPortCtlWrite (p : Fin 16) (v : BitVec 32) (s : State) : Host.Outcome State Fault Refusal :=
  if 8 ≤ v.toNat then .next s
  else match writePortCtl s p v.toNat with
    | .ok s1 => .next s1
    | .error _ => .next s

end Sys2Proof.Machine
end

