-- ==== Sys2Proof/Machine/Steps.lean ====
section
/-!
DEFINITION. Machine/Steps.lean: step boundaries, the entry to HELD, snapshot drains, and the resolution of an epoch with all that
hangs on it (R23, R134, R455 to R462, R467, R468, R528, R534).
-/

namespace Sys2Proof.Machine

/-! ### Step boundaries (R528, R534) -/

/-- The counters of a tenancy's bank that restart at a latch (R536). -/
def stepCounters : List Nat := upto 0x16 ++ (upto 14).map (fun k => 0x20 + k) ++ [0x30]

/-- STEP_CLOSE commands of a tenancy whose step has ended complete with its STEP_TIME (R527). -/
def closeSteps (s : State) (n ended : Nat) : State :=
  (s.fn (fnOf n)).cmds.foldl (fun (st : State) c =>
    if c.op = 6 && c.stage = 1 && c.params % 2 ^ 32 ≤ ended then
      hostFinish st (fnOf n) c.sq c.hseq stOk (st.ten n 0xC091 0x30)
    else st) s

/-- A step boundary of a tenancy (R528, R534): the latched bank takes the live values, CURRENT_STEP rises, and STEP_LATCHED is
posted. After the last step of a job the tenancy drains. -/
def stepBoundary (s : State) (n : Nat) : State :=
  let ended := s.ten n 0xC090 0x31
  let time := s.ten n 0xC090 0x30
  let s1 := stepCounters.foldl (fun (st : State) k => (st.setTen n 0xC091 k (st.ten n 0xC090 k)).setTen n 0xC090 k 0) s
  let s2 := (s1.setTen n 0xC091 0x31 ended).setTen n 0xC090 0x31 ((ended + 1) % 2 ^ 32)
  let x := s2.tenant n
  let s3 := (s2.setTenant n { x with stepTimes := (time :: x.stepTimes).take 16 }).post n 0xB (ended % 2 ^ 32 + time % 2 ^ 64 * 2 ^ 32)
  let s4 := match x.finalStep with
    | some f => if f ≤ ended && s3.tstate n == tsRunning then setTstate s3 n tsDraining 3 else s3
    | none => s3
  closeSteps s4 n ended

/-! ### Snapshot points that are pending (R455, R470) -/

/-- SNAPSHOT_STATE: 2 while a drain is in progress, 1 while a point is pending. -/
def syncSnap (s : State) (n : Nat) : State :=
  let x := s.tenant n
  s.setTen n 0xC070 2 (if x.drain.isSome then 2 else if x.point.isSome then 1 else 0)

/-- A point or a drain ends with a status: its SN.POINT or its SNAPSHOT_NOW completes. -/
def endPoint (s : State) (n cmd : Nat) (host : Option (Nat × Nat)) (status result : Nat) : State :=
  match host with
  | some h => hostFinish s (fnOf n) h.1 h.2 status result
  | none => finishWith s cmd (.st status)

/-- Whether a pending point is for an epoch: its own, or for SNAPSHOT_NOW the next one with STEP set. -/
def pointMeets (p : SnapPoint) (handle : Word) (step : Bool) : Bool := if p.host.isSome then step else p.epoch == handle

/-! ### Resolution by discard, and the entry to HELD -/

/-- An epoch of a tenancy is discarded (R134, R455): its point is aborted; with STEP set it counts as a discarded step at the
boundary it makes. -/
def discardEpoch (s : State) (key : Nat) : State :=
  match Tab.get? s.epochs key with
  | none => s
  | some e =>
    let n := key / 64
    let h := handleWord 2 n false e.gen (key % 64)
    let s1 := resolveEpoch s key false
    let s2 := match (s1.tenant n).point with
      | some p =>
        if pointMeets p h e.step && !p.deferred then
          syncSnap (endPoint (s1.setTenant n { s1.tenant n with point := none }) n p.cmd p.host stAborted 0) n
        else s1
      | none => s1
    if e.step then (stepBoundary s2 n).count n 0x28 1 else s2

/-- Open epochs of a tenancy. -/
def openEpochs (s : State) (n : Nat) : List Nat :=
  (s.epochs.filter (fun e => e.1 / 64 == n && e.2.state == .opened)).map (fun e => e.1)

/-- The stream channels of a tenancy halt, but for those kept. -/
def haltStreams (s : State) (n : Nat) (keep : Nat → Bool) : State :=
  s.streams.foldl (fun (st : State) e => if !e.2.dev && e.2.tenancy.val == n && !keep e.1 then haltStream st e.1 true else st) s

/-- Steps 1 to 4 of the entry to HELD (R468): running tasks are aborted, open epochs discarded, collective commands completed
with ABORTED and stream channels halted, but for the one that carries a drain in progress to its end (step 5). Engine commands
that have started complete of themselves. -/
def stopTenancy (s : State) (n : Nat) : State :=
  let running := s.tasks.filter (fun e => !e.2.dev && e.2.tenancy.val == n && e.2.state == .running)
  let s1 := running.foldl (fun (st : State) e => abortTask st e.1) s
  let s2 := (openEpochs s1 n).foldl discardEpoch s1
  let mine := s2.cmds.filter (fun e => e.2.engine == 1 && e.2.space == n)
  let s3 := mine.foldl (fun (st : State) e =>
    finishWith { st with reds := Tab.del st.reds e.1, checks := Tab.del st.checks e.1 } e.1 (.st stAborted)) s2
  haltStreams s3 n (fun i => match (s3.tenant n).drain with | some d => d.stream == i | none => false)

/-- A RUNNING tenancy enters HELD under a case of R467: 1 a host HOLD, 2 discards, 3 damage, 4 line state (R468). -/
def enterHeld (s : State) (n case : Nat) : State :=
  if s.tstate n ≠ tsRunning then s
  else
    -- the state changes first, so that nothing is dispatched while the tenancy stops
    let s1 := setTstate s n tsHeld (if case = 1 then 0 else 1)
    let s2 := s1.setTenant n { s1.tenant n with heldCase := case, restored := none, restoredOk := false, badDiscards := 0 }
    let s3 := stopTenancy s2 n
    if case = 1 then s3 else breach s3 n 2 4 0xFF 0 (s3.ten n 0xC090 0x31) 0

/-! ### Damage that a patrol finds (R345, R440, R449, R467) -/

/-- The address of a byte of a LOCAL page in its space, and whether it lies in the page's current buffer (R257). -/
def frameVa (s : State) (n : Fin 17) (pa : Nat) : Option (Nat × Bool) :=
  (leafOfFrame s n pa).map (fun l =>
    let off := pa - 65536 * l.units.1
    let size := 65536 * levelUnits l.level
    (l.va + off % size, off / size == b2n (bit l.entry 61 && bit l.entry 60)))

/-- Whether a byte lies in a current buffer of a tenancy's snapshot set. -/
def inSnapshot (s : State) (n pa : Nat) : Bool :=
  match frameVa s (spaceOf n) pa with
  | some (va, true) => (s.tenant n).snapRanges.any (fun r => decide (r.1 ≤ va) && decide (va < r.1 + r.2))
  | _ => false

/-- Damaged words that a patrol has found, by physical address: every RUNNING tenancy with one in a current buffer of its
snapshot set enters HELD (R467). -/
def damageFound (s : State) (words : List Nat) : State :=
  (upto 16).foldl (fun (st : State) n => if words.any (fun a => inSnapshot s n a) then enterHeld st n 3 else st) s

/-- Words that PCODE.SCRUB has newly poisoned are reported to each space that holds some, with the lowest address of its words
(R345, R449). -/
def reportPoison (s : State) (words : List Nat) : State :=
  (upto 17).foldl (fun (st : State) n =>
    match (words.filter (fun a => frameSpace s a == n)).map (fun a => (((frameVa s (spaceOf n) a).map (fun x => x.1)).getD 0, a)) with
    | [] => st
    | x :: xs =>
      let low := xs.foldl (fun (b : Nat × Nat) y => if y.1 < b.1 then y else b) x
      st.postError n 1 1 (sliceOf low.2) 0 0 low.1) s

/-- What PCODE.SCRUB finds in the code pages it has decoded: old is the state before. -/
def patrolFound (old s : State) (hit : Nat → Bool) : State :=
  let marked := (s.hbmPoison.map (fun e => 8 * e.1)).filter hit
  damageFound (reportPoison s (marked.filter (fun a => (Tab.get? old.hbmPoison (a / 8)).isNone))) marked

/-! ### The drain (R456 to R460) -/

/-- A block over its packets on a stream channel (R380, R456). -/
def sendBlockOn (s : State) (c : Stream) (b : Blob) : State :=
  let n := ceilDiv b.len 4096
  (upto n).foldl (fun (st : State) k =>
    let len := min 4096 (b.len - 4096 * k)
    st.send (c.node.getD 0) 6 (if k + 1 = n then 8 else 0) (jobOf st c.space) len
      (c.number * 2 ^ 20 + c.sent % 256 * 2 ^ 12 + k) (b.val / 256 ^ (4096 * k) % 256 ^ len)) s

/-- The drain of a tenancy sends blocks as long as it holds credit; a poisoned block halts it, and the tenancy enters HELD
(R456, R460). -/
def drainOn (n : Nat) : Nat → State → State
  | 0, s => s
  | f + 1, s =>
    match (s.tenant n).drain with
    | none => s
    | some d => match d.blocks, Tab.get? s.streams d.stream with
      | b :: bs, some c =>
        if c.credit = 0 || c.halted then s
        else if b.2 then enterHeld (haltDrain s n 1 true) n 3
        else
          let s1 := (sendBlockOn s c b.1).putStream d.stream { c with credit := c.credit - 1, sent := c.sent + 1 }
          drainOn n f (s1.setTenant n { s1.tenant n with drain := some { d with blocks := bs, sent := d.sent + 1 } })
      | _, _ => s

/-- n bytes of a range as they stand in its current buffers, with the physical runs they lie in (R456). -/
def readCurrent (s : State) (n i va len : Nat) : Option (State × List PByte × List (Nat × Nat)) :=
  let a := translateRange (spaceOf n) i true false false (len / 65536 + 2) va len s
  match a.2 with
  | .pieces ps =>
    let b := readRuns none (windowAt a.1 n va) (runsOf false (len + ps.length + 2) ps 0 len) a.1
    some (b.1, b.2, ps.map (fun p => (p.cur, p.len)))
  | _ => none

/-- The groups of a range: offset and length (R456). -/
def groupsOf (len : Nat) : List (Nat × Nat) :=
  (upto (ceilDiv len 1048576)).map (fun k => (1048576 * k, min 1048576 (len - 1048576 * k)))

/-- A group as it is drained: its header, its whole block, and whether it holds a poisoned word. -/
structure GroupBlock where
  head : Nat
  block : Blob
  bad : Bool
deriving DecidableEq, Repr

/-- The group blocks of a set in ascending order (R456, R458), none where a page of the set does not translate. -/
def groupBlocks (n i step : Nat) : List (Nat × Nat × Nat × Nat) → Nat → State →
    Option (State × List GroupBlock × List (Nat × Nat))
  | [], _, s => some (s, [], [])
  | (range, va, off, len) :: gs, g, s =>
    match readCurrent s n i (va + off) len with
    | none => none
    | some (s1, bs, runs) =>
      let data := bytesVal bs
      let h0 := g + range * 256 ^ 4 + off * 256 ^ 8 + len * 256 ^ 16 + step % 2 ^ 32 * 256 ^ 20
      let head := h0 + shake256 (24 + len) (h0 + data * 256 ^ 24) 32 * 256 ^ 24
      match groupBlocks n i step gs (g + 1) s1 with
      | none => none
      | some (s2, rest, rs) => some (s2, ⟨head, ⟨64 + len, head + data * 256 ^ 64⟩, bytesPoison bs⟩ :: rest, runs ++ rs)

/-- The bytes of a list of equal records, the first one least significant. -/
def packRecords (size : Nat) : List Nat → Nat
  | [] => 0
  | v :: vs => v + 256 ^ size * packRecords size vs

/-- The header record (R457). -/
def snapHeader (s : State) (n step dataPos : Nat) (groups : Nat) (ranges : List (Nat × Nat)) (cs : List Cursor) : Blob :=
  ⟨576, 1 + s.ten n 0xC080 3 * 256 ^ 4 + s.ten n 0xC020 2 * 256 ^ 6 + step % 2 ^ 32 * 256 ^ 8 + groups * 256 ^ 12 +
    dataPos * 256 ^ 16 + ranges.length * 256 ^ 24 + cs.length * 256 ^ 25 +
    packRecords 16 (ranges.map (fun r => r.1 + r.2 * 2 ^ 64)) * 256 ^ 32 +
    packRecords 24 (cs.map (fun c => c.base + c.num * 2 ^ 64 + c.den * 2 ^ 96 + c.value * 2 ^ 128)) * 256 ^ 160 +
    s.dev 0x1010 0 * 256 ^ 544 + s.dev 0x1002 0 * 256 ^ 552⟩

/-- Slots of a stream whose credit has not come back. -/
def outstanding (s : State) (i : Nat) : Nat :=
  match Tab.get? s.streams i with
  | some c => c.slots - c.credit
  | none => 0

/-- A snapshot point is taken (R455 to R458): the blocks of the drain, as the state stands, and the drain begins. A set that
does not translate, or a target that is gone, halts it. -/
def takePoint (s : State) (n step : Nat) (p : SnapPoint) : State :=
  let x := s.tenant n
  let abort (st : State) := syncSnap (endPoint (st.setTenant n { st.tenant n with point := none }) n p.cmd p.host stAborted 0) n
  let gs := ((x.snapRanges.zip (upto x.snapRanges.length)).map (fun r =>
    (groupsOf r.1.2).map (fun g => (r.2, r.1.1, g.1, g.2)))).flatten
  match (x.snapTarget.bind (fun w => (liveStream s (handleOf w)).map (fun _ => (handleOf w).index))),
      groupBlocks n p.cmd step gs 0 s with
  | some i, some (s1, bs, runs) =>
    let head := snapHeader s1 n step p.dataPos bs.length x.snapRanges p.cursors
    let root := shake256 (576 + 64 * bs.length) (head.val + packRecords 64 (bs.map (fun b => b.head)) * 256 ^ 576) 64
    let t0 : Blob := ⟨76, bs.length + step % 2 ^ 32 * 256 ^ 4 + root * 256 ^ 8 + 3309 * 256 ^ 72⟩
    let sig := signId "OZ4-SNAP" t0 s1
    let d : Drain :=
      { cmd := p.cmd, host := p.host, step := step, stream := i,
        blocks := (head, false) :: bs.map (fun b => (b.block, b.bad)) ++ [(t0.append ⟨3309, sig.1⟩, false)],
        sent := outstanding s i, returned := 0, start := sig.2.now, runs := runs }
    let s2 := syncSnap (sig.2.setTenant n { sig.2.tenant n with point := none, drain := some d }) n
    drainOn n (d.blocks.length + 1) s2
  | _, _ => abort s

/-- The pending point of a tenancy at the commit of an epoch (R455): taken, or deferred while a drain is in progress; a deferred
one at the first commit with STEP set after that drain. -/
def pointAtCommit (s : State) (n step : Nat) (handle : Word) (stepSet : Bool) : State :=
  let x := s.tenant n
  match x.point with
  | none => s
  | some p =>
    if p.deferred then (if stepSet && x.drain.isNone then takePoint s n step p else s)
    else if !pointMeets p handle stepSet then s
    else if x.drain.isSome then
      breach (s.setTenant n { x with point := some { p with deferred := true } }) n 5 6 0xFF 0 step 0
    else takePoint s n step p

/-! ### Resolution -/

/-- The resolution of an epoch (R134) with the step boundary it makes, the snapshot taken at it, and, for a discard after a
missing vote or a torn reduction, the entry to HELD (R455, R467, R528). -/
def resolveStep (s : State) (key : Nat) (commit : Bool) : State :=
  match Tab.get? s.epochs key with
  | none => s
  | some e =>
    let n := key / 64
    let x := s.tenant n
    if commit then
      let step := s.ten n 0xC090 0x31
      let s1 := resolveEpoch s key true
      let s2 := s1.setTenant n { s1.tenant n with committed := true, badDiscards := if e.step then 0 else x.badDiscards }
      let s3 := pointAtCommit s2 n step (handleWord 2 n false e.gen (key % 64)) e.step
      if e.step then stepBoundary s3 n else s3
    else
      let bad := if !e.step then x.badDiscards else if e.torn then x.badDiscards + 1 else 0
      let s1 := discardEpoch s key
      let s2 := s1.setTenant n { s1.tenant n with badDiscards := bad }
      if e.step && e.torn && s2.dev 0x7007 0 ≤ bad then enterHeld s2 n 2 else s2

/-- TASK.COMMIT and TASK.DISCARD (R115, R134): rd is written before the resolution, which may stop this very task. -/
def resolveOp (t : Tid) (rd : RIdx) (cs : PIdx) (rs : RIdx) (commit : Bool) : M Unit := do
  let v ← greg t rs
  taskStart t cs [argOp 9 .handle v] permTASK
  let (key, e) ← theEpoch t v.val
  if e.state ≠ .opened then putStatus t rd stStateConflict
  else do
    putBool t rd true
    modS (fun s => resolveStep s key commit)

/-- TASK.COMMIT (R134). -/
def execTaskCommit (t : Tid) (rd : RIdx) (cs : PIdx) (rs : RIdx) (s : State) := simple t (resolveOp t rd cs rs true) s
/-- TASK.DISCARD (R134). -/
def execTaskDiscard (t : Tid) (rd : RIdx) (cs : PIdx) (rs : RIdx) (s : State) := simple t (resolveOp t rd cs rs false) s

/-- The background conversion of a resolved epoch ends: its held commands are released, and its slot is freed once every task of
it has ended (R116, R133). On commit a held command starts; on discard it completes with ABORTED. -/
def releaseHeld (s : State) (i : Nat) (c : Cmd) (commit : Bool) : State :=
  if c.phase != .held then s
  else if commit then s.putCmd i { c with phase := .started, epoch := none }
  else if c.engine = 0 then endCmd s i (.st stAborted) else finishWith s i (.st stAborted)

/-- A command's epoch has been resolved: the key of the epoch and whether it committed. -/
def heldOutcome (s : State) (c : Cmd) : Option Bool :=
  match c.epoch with
  | none => some true
  | some e => match Tab.get? s.epochs (64 * c.tenancy.val + e) with
    | some x => if x.state = .opened then none else some (x.state == .committed)
    | none => some true

/-- EPOCH_RESOLUTION_COMPLETE (R116, R134). -/
def execEpochResolutionComplete (ten : Fin 16) (slot : Fin 64) (s : State) : Host.Outcome State Fault Refusal :=
  let key := 64 * ten.val + slot.val
  match Tab.get? s.epochs key with
  | none => .next s
  | some e =>
    if e.state = .opened || !(epochTasks s key).isEmpty || s.cmds.any (fun x => x.2.phase == .held && x.2.tenancy == ten &&
        !x.2.dev && x.2.epoch == some slot.val) then .next s
    else
      let s1 := { s with cmds := Tab.mapV s.cmds (fun _ c =>
        if c.tenancy = ten && !c.dev && c.epoch = some slot.val then { c with epoch := none } else c) }
      .next (syncEpochs { s1 with epochs := Tab.del s1.epochs key } ten.val)

end Sys2Proof.Machine
end

