-- ==== Sys2Proof/Machine/Bellows.lean ====
section
/-!
DEFINITION. Machine/Bellows.lean: the commands of the Bellows engines: UPDATE, OBOE, TRANSPOSE, GATHER, SORTED_GATHER, ZERO,
REDUCE_AT_MEMORY and PCODE.SCRUB (R314 to R345). A command takes effect in the step that completes it, which lies between
its acceptance and its completion record.
-/

namespace Sys2Proof.Machine

/-! ### Elements -/

/-- An element's code with the poison of its bytes. -/
abbrev Elem := Nat × Bool

/-- Elements of sz bytes in a byte string. -/
def elemsOf (sz : Nat) : Nat → List PByte → List Elem
  | 0, _ => []
  | n + 1, bs => (bytesVal (bs.take sz), bytesPoison (bs.take sz)) :: elemsOf sz n (bs.drop sz)

/-- The bytes of elements of sz bytes. -/
def bytesOf (sz : Nat) (es : List Elem) : List PByte := (es.map (fun e => mkBytes sz e.1 e.2)).flatten

/-- n elements of sz bytes of an operand, from element k on. -/
def readElems (s : State) (ep : Option Nat) (m : SlotMap) (alt : Bool) (sz k n : Nat) : State × List Elem :=
  let r := engRead s ep m alt (k * sz) (n * sz)
  (r.1, elemsOf sz n r.2)

/-- Elements of sz bytes written to an operand, from element k on. -/
def writeElems (s : State) (m : SlotMap) (alt : Bool) (sz k : Nat) (es : List Elem) : State :=
  engWrite s m alt (k * sz) (bytesOf sz es)

/-- The lowest address of an operand whose byte is poisoned, with the address of its byte in memory. -/
def firstPoison (m : SlotMap) (off : Nat) (bs : List PByte) : Option (Nat × Nat) :=
  (findIdx? (fun (b : PByte) => b.2) bs 0).map (fun k =>
    (((runsOf m.alt (m.fuel 1) m.pieces (off + k) 1).map (fun r => r.1)).headD 0, m.base + off + k))

/-! ### UPDATE (R321 to R330) -/

/-- Bytes of a moment element. -/
def momSize (c : Cmd) : Nat := if (fmtOf (BitVec.ofNat 64 (c.par 144 8))).format = 1 then 2 else 4
/-- The descriptor of WORK. -/
def workFmt (c : Cmd) : Fmt := fmtOf (BitVec.ofNat 64 (c.par 136 8))
/-- The descriptor of M1. -/
def momFmt (c : Cmd) : Fmt := fmtOf (BitVec.ofNat 64 (c.par 144 8))
/-- Bytes of a WORK element. -/
def workSize (c : Cmd) : Nat := fmtBits (workFmt c).format / 8
/-- Whether the AUX slot is in use. -/
def usesAux (c : Cmd) : Bool := c.par 152 1 == 2 && c.par 154 1 == 1

/-- Whether the descriptors of an UPDATE are accepted (R322). -/
def updateFmtsOk (c : Cmd) : Bool :=
  let w := workFmt c
  let m := momFmt c
  fmtValid (BitVec.ofNat 64 (c.par 136 8)) && fmtValid (BitVec.ofNat 64 (c.par 144 8)) && 1 ≤ w.format && w.format ≤ 4 &&
    !w.mx && (w.ssrc == 0 || w.ssrc == 2) && m.format ≤ 1 && !m.mx && m.ssrc == 0 && (c.par 152 1 == 1 || m.tensor + 1 ≤ 4095)

/-- The slots and parameters of UPDATE (R321, R322). -/
def updateSpec : BlockSpec := fun _ c =>
  let e := c.slotLen 0 / 4
  let opt := c.par 152 1
  let ok := updateFmtsOk c && opt ≤ 2 && c.par 153 1 ≤ 1 && c.par 154 1 ≤ 1 && c.zeroPar 158 2 && c.zeroPar 164 4 &&
    c.zeroPar 216 40 && (opt != 2 || (1 ≤ c.par 155 1 && c.par 155 1 ≤ 64)) &&
    (c.par 153 1 != 0 || (1 ≤ c.par 160 4 && c.par 160 4 ≤ 16384)) && c.slotLen 0 % 4 == 0
  if !ok then .error stRange
  else
    let rw := permLD + permST
    .ok ([⟨0, rw, 4 * e, 0, 1⟩, ⟨1, rw, momSize c * e, 0, 1⟩] ++ (if opt = 1 then [] else [⟨2, rw, momSize c * e, 0, 1⟩]) ++
      [⟨3, permST, workSize c * e, 0, 1⟩] ++ (if usesAux c then [⟨4, rw, 4 * e, 0, 1⟩] else []) ++
      (if c.par 153 1 = 0 then [⟨5, permLD, 4 * e, 0, 1⟩] else []) ++
      (if opt = 2 then [⟨6, permLD, 4 * c.par 155 1, 0, 1⟩] else []))

/-- A tensor record as an engine reads it at acceptance: its STEP, and whether the word is poisoned (R220, R327). -/
def recordStep (s : State) (c : Cmd) (tensor : Nat) : Nat × Nat :=
  if c.dev then (0, 0)
  else
    let va := s.ten c.tenancy.val 0xC020 0 + 8 * tensor
    let r := translate s (spaceOf c.tenancy.val) va .read .other
    match r.2 with
    | .ok pa =>
      let f := viewFull r.1 (c.ep r.1) (pa / 128)
      (f.data / 256 ^ (pa % 128) % 2 ^ 64 / 2 ^ 32, b2n (bit f.poison (pa % 128 / 8)))
    | _ => (0, 1)

/-- What an UPDATE keeps from acceptance on: elements done, non-finite elements, FLAGS, the STEPs of the records of WORK, M1
and M2 with their poison, the target scale of WORK, and SEED and RANK. -/
def updateKeep (s : State) (c : Cmd) : List Nat :=
  let w := recordStep s c (workFmt c).tensor
  let a := recordStep s c (momFmt c).tensor
  let b := recordStep s c ((momFmt c).tensor + 1)
  let n := c.tenancy.val
  [0, 0, 0, w.1, a.1, b.1, Nat.lor w.2 (if (momFmt c).format = 1 then Nat.lor a.2 b.2 else 0),
   resolveScale s n (workFmt c) 0, s.ten n 0xC020 1, s.ten n 0xC020 2]

/-- The registers of an element (R329), as FP32 codes: g, MASTER, M1, M2, AUX. -/
structure UpdElem where
  g : Nat
  w : Nat
  m : Nat
  v : Nat
  aux : Nat
deriving DecidableEq, Repr

/-- Addition of FP32 codes, rounded to nearest even. -/
def add32 (a b : Nat) : Nat := fAdd fp32 .rne a b
/-- Multiplication of FP32 codes, rounded to nearest even. -/
def mul32 (a b : Nat) : Nat := fMul fp32 .rne a b
/-- FMA(a, b, c), one rounding. -/
def fma32 (a b c : Nat) : Nat := fFma fp32 .rne false false a b c

/-- ADAMW (R325). -/
def adamw (k : Nat → Nat) (x : UpdElem) : UpdElem :=
  let t1 := mul32 (k 2) x.g
  let t2 := mul32 x.g x.g
  let m := fma32 (k 1) x.m t1
  let t3 := mul32 (k 4) t2
  let v := fma32 (k 3) x.v t3
  let mh := mul32 m (k 8)
  let vh := mul32 v (k 9)
  let d := add32 (fSqrt fp32 .rne vh) (k 5)
  let u := fDiv fp32 .rne mh d
  let t4 := fma32 (k 6) x.w u
  { x with w := fFma fp32 .rne true false (k 0) t4 x.w, m := m, v := v }

/-- MSGD (R326). -/
def msgd (k : Nat → Nat) (x : UpdElem) : UpdElem :=
  let m := fma32 (k 1) x.m x.g
  let t4 := fma32 (k 6) x.w m
  { x with w := fFma fp32 .rne true false (k 0) t4 x.w, m := m }

/-- The FP32 code of one. -/
def one32 : Nat := 0x3F800000

/-- A source of a micro-program (R330). -/
def upSource (k : Nat → Nat) (regs : List Nat) (n : Nat) : Nat :=
  if n < 16 then regs.getD n 0 else if n < 28 then k (n - 16) else if n = 28 then 0 else one32

/-- Whether a program word is accepted (R330). -/
def upWordOk (w : Nat) : Bool :=
  let op := fld w 31 26
  1 ≤ op && op ≤ 15 && fld w 21 17 ≤ 29 && fld w 16 12 ≤ 29 && fld w 11 7 ≤ 29 && fld w 6 0 == 0

/-- The sign bit of an FP32 code replaced; a NaN gives the canonical NaN (R149). -/
def signed32 (neg : Bool) (a : Nat) : Nat :=
  if (decodeF fp32 a).isNan then 0x7FC00000 else b2n neg * 2 ^ 31 + a % 2 ^ 31

/-- One operation of a micro-program (R330). -/
def upOp (op a b c : Nat) : Nat :=
  match op with
  | 1 => add32 a b
  | 2 => fSub fp32 .rne a b
  | 3 => mul32 a b
  | 4 => fDiv fp32 .rne a b
  | 5 => fma32 a b c
  | 6 => fSqrt fp32 .rne a
  | 7 => fMin fp32 a b
  | 8 => fMax fp32 a b
  | 9 => signed32 false a
  | 10 => signed32 (!bit a 31) a
  | 11 => fexp a
  | 12 => fln a
  | 13 => if fLt fp32 a b then one32 else 0
  | 14 => if (decodeF fp32 a).isNan || a % 2 ^ 31 = 0 then c else b
  | _ => if (decodeF fp32 a).isNan then 0x7FC00000 else if a % 2 ^ 31 = 0 then a else signed32 (bit a 31) one32

/-- The words of a program in order (R329). -/
def upRun (k : Nat → Nat) : List Nat → List Nat → List Nat
  | [], regs => regs
  | w :: ws, regs =>
    let v := upOp (fld w 31 26) (upSource k regs (fld w 21 17)) (upSource k regs (fld w 16 12)) (upSource k regs (fld w 11 7))
    upRun k ws (regs.set (fld w 25 22) v)

/-- A micro-program on one element (R329). -/
def upElem (k : Nat → Nat) (prog : List Nat) (x : UpdElem) : UpdElem :=
  let r := upRun k prog ([x.g, x.w, x.m, x.v, x.aux] ++ List.replicate 11 0)
  { x with w := r.getD 1 0, m := r.getD 2 0, v := r.getD 3 0, aux := r.getD 4 0 }

/-- Whether an FP32 code is NaN or infinite. -/
def nonFinite (a : Nat) : Bool := !(decodeF fp32 a).isFin

/-- How a conversion of UPDATE rounds: always stochastically, at SITE 1 (R230, R327). -/
def updRounding (c : Cmd) (d : Fmt) (tensor step : Nat) : Rounding :=
  .stochastic { seed := c.aux.getD 8 0, rank := c.aux.getD 9 0, step := step, tensor := tensor, pos := d.pos, site := 1 }

/-- A converted element of UPDATE (R327): element index i under the conversion's POS. -/
def updConvert (c : Cmd) (d : Fmt) (tensor step i scale : Nat) (x : Nat) (bad : Bool) : ElemOut :=
  cvtElem d.format (updRounding c d tensor step) i (scaledIn (decodeF fp32 x) (scaleNum scale) numOne numOne bad)

/-- A stored moment as an FP32 code (R213, R327). -/
def momIn (c : Cmd) (e : Elem) : Elem :=
  if (momFmt c).format = 1 then (widenElem (momFmt c) (decodeF bf16 e.1), e.2) else e

/-- A new moment as it is stored. -/
def momOut (c : Cmd) (second : Bool) (i x : Nat) (bad : Bool) : ElemOut :=
  let d := momFmt c
  if d.format = 1 then updConvert c d (d.tensor + b2n second) (c.aux.getD (if second then 5 else 4) 0) i d.scale x bad
  else ⟨if bad then 0 else x, bad, false, false, false⟩

/-- The inputs of a run of elements. -/
structure UpdRun where
  w : List Elem
  m : List Elem
  v : List Elem
  work : List Elem
  aux : List Elem
deriving DecidableEq, Repr

/-- The results of one element: MASTER, M1, M2, WORK and AUX as stored, and whether it is non-finite, met poison, is
skipped. -/
structure UpdOut where
  w : Elem
  m : ElemOut
  v : ElemOut
  work : ElemOut
  aux : Elem
  bad : Bool
  poison : Bool
  skip : Bool
deriving DecidableEq, Repr

/-- A stored element as a result that is unchanged. -/
def kept (e : Elem) : ElemOut := ⟨e.1, e.2, false, false, false⟩

/-- One element of UPDATE (R324 to R330): raw gradient S with its poison, contributor count n; a count of 0 leaves the values,
which are still judged under R328. -/
def updElem (c : Cmd) (prog : Option (List Nat)) (i : Nat) (sg : Elem) (n : Nat) (w m v work aux : Elem) : UpdOut :=
  let k (j : Nat) := c.par (168 + 4 * j) 4
  let opt := c.par 152 1
  let mi := momIn c m
  let vi := momIn c v
  if n = 0 then
    let poison := w.2 || m.2 || (opt != 1 && v.2) || (usesAux c && aux.2)
    let bad := poison || nonFinite w.1 || nonFinite mi.1 || (opt != 1 && nonFinite vi.1) || (usesAux c && nonFinite aux.1)
    ⟨w, kept m, kept v, kept work, aux, bad, poison, true⟩
  else
    let poison := sg.2 || w.2 || m.2 || (opt != 1 && v.2) || (usesAux c && aux.2) || prog.isNone || c.aux.getD 6 0 != 0
    let g := mul32 (fDiv fp32 .rne sg.1 (encodeF fp32 .rne (intNum n))) (k 7)
    let x : UpdElem := ⟨g, w.1, mi.1, if opt = 1 then 0 else vi.1, if usesAux c then aux.1 else 0⟩
    let y := if opt = 0 then adamw k x else if opt = 1 then msgd k x else upElem k (prog.getD []) x
    let bad := poison || nonFinite y.w || nonFinite y.m || (opt != 1 && nonFinite y.v) || (usesAux c && nonFinite y.aux)
    { w := (if poison then 0 else y.w, poison), m := momOut c false i y.m poison,
      v := momOut c true i y.v poison,
      work := updConvert c (workFmt c) (workFmt c).tensor (c.aux.getD 3 0) i (c.aux.getD 7 0) y.w poison,
      aux := (if poison then 0 else y.aux, poison), bad := bad, poison := poison, skip := false }

/-- The program of an UPDATE, none where one of its words is poisoned. -/
def updProgram (s : State) (c : Cmd) : State × Option (List Nat) :=
  if c.par 152 1 ≠ 2 then (s, some [])
  else
    let r := readElems s (c.ep s) (c.slot 6) false 4 0 (c.par 155 1)
    (r.1, if r.2.any (fun e => e.2) then none else some (r.2.map (fun e => e.1)))

/-- n elements of an UPDATE from element lo on, with their raw gradients and contributor counts (R323 to R328). -/
def updRun (s : State) (i : Nat) (c : Cmd) (prog : Option (List Nat)) (lo : Nat) (grads : List (Elem × Nat)) : State :=
  let n := grads.length
  let ep := c.ep s
  let opt := c.par 152 1
  let msz := momSize c
  let wsz := workSize c
  let rw := readElems s ep (c.slot 0) false 4 lo n
  let rm := readElems rw.1 ep (c.slot 1) false msz lo n
  let rv := if opt = 1 then (rm.1, List.replicate n ((0, false) : Elem)) else readElems rm.1 ep (c.slot 2) false msz lo n
  let rk := readElems rv.1 ep (c.slot 3) false wsz lo n
  let ra := if usesAux c then readElems rk.1 ep (c.slot 4) false 4 lo n else (rk.1, List.replicate n ((0, false) : Elem))
  let out := (upto n).map (fun j =>
    let g := grads.getD j ((0, false), 0)
    updElem c prog (lo + j) g.1 g.2 (rw.2.getD j (0, false)) (rm.2.getD j (0, false)) (rv.2.getD j (0, false))
      (rk.2.getD j (0, false)) (ra.2.getD j (0, false)))
  let el (e : ElemOut) : Elem := (e.code, e.poison)
  let s1 := writeElems ra.1 (c.slot 0) true 4 lo (out.map (fun o => o.w))
  let s2 := writeElems s1 (c.slot 1) true msz lo (out.map (fun o => el o.m))
  let s3 := if opt = 1 then s2 else writeElems s2 (c.slot 2) true msz lo (out.map (fun o => el o.v))
  let s4 := writeElems s3 (c.slot 3) true wsz lo (out.map (fun o => el o.work))
  let s5 := if usesAux c then writeElems s4 (c.slot 4) true 4 lo (out.map (fun o => o.aux)) else s4
  let cvs := (out.map (fun o => [o.work] ++ (if (momFmt c).format = 1 then [o.m] ++ (if opt = 1 then [] else [o.v]) else []))).flatten
  let ovf := (cvs.filter (fun e => e.overflow)).length
  let sats := (cvs.filter (fun e => e.overflow || e.sat)).length
  let srs := (cvs.filter (fun e => e.sr)).length
  let flags := b2n (out.any (fun o => o.poison)) + 2 * b2n (ovf != 0) + 4 * b2n (out.any (fun o => o.skip))
  let aux := [c.aux.getD 0 0 + n, c.aux.getD 1 0 + (out.filter (fun o => o.bad)).length, Nat.lor (c.aux.getD 2 0) flags] ++
    c.aux.drop 3
  ((s5.count c.space 0x21 sats).count c.space 0x22 srs).putCmd i { c with aux := aux }

/-- Root sums that an UPDATE with GSRC 1 takes from the landing areas (R324, R409): the elements of its MASTER range in a
landed run, as (offset in the run, first element of the UPDATE, number). -/
def landingPart (c : Cmd) (l : Landing) : Option (Nat × Nat × Nat) :=
  let m := c.slot 0
  let lo := max m.base l.va
  let hi := min (m.base + m.len) (l.va + 4 * l.n)
  if l.space = m.space && l.job = c.par 156 2 && lo < hi && (lo - l.va) % 4 = 0 && (lo - m.base) % 4 = 0 then
    some ((lo - l.va) / 4, (lo - m.base) / 4, (hi - lo) / 4)
  else none

/-- What is left of a landed run once n elements from an offset on are taken. -/
def landingRest (l : Landing) (off n : Nat) : List Landing :=
  (if off = 0 then [] else [{ l with n := off, sums := l.sums % 2 ^ (32 * off), poison := l.poison % 2 ^ off }]) ++
    (if l.n ≤ off + n then []
     else [{ l with va := l.va + 4 * (off + n), n := l.n - (off + n), sums := l.sums / 2 ^ (32 * (off + n)),
                    poison := l.poison / 2 ^ (off + n) }])

/-- The owner's CU.RED completes when its last chunk has been taken (R409). -/
def redTaken (s : State) (i count : Nat) : State :=
  match Tab.get? s.reds i with
  | some r =>
    if r.opened || !r.sums.isEmpty || s.landing.any (fun l => l.cmd == i) then s
    else finishWith { s with reds := Tab.del s.reds i } i ⟨stOk, 0, 0xFF, 2 * b2n r.late, count⟩
  | none => s

/-- Takes landed runs, oldest first, as long as there are any for the UPDATE. -/
def updTake (i : Nat) (prog : Option (List Nat)) : Nat → State → State
  | 0, s => s
  | f + 1, s =>
    match Tab.get? s.cmds i with
    | none => s
    | some c =>
      match s.landing.find? (fun l => (landingPart c l).isSome) with
      | none => s
      | some l =>
        match landingPart c l with
        | none => s
        | some (off, lo, n) =>
          let gs := (upto n).map (fun j => ((l.sums / 2 ^ (32 * (off + j)) % 2 ^ 32, bit l.poison (off + j)), l.count))
          let s1 := { s with landing := (s.landing.map (fun x => if x == l then landingRest l off n else [x])).flatten }
          updTake i prog f (redTaken (updRun s1 i c prog lo gs) l.cmd l.count)

/-- An UPDATE works as far as its gradients go: whether it is done, and its result (R324, R328, R330). -/
def runUpdate (s : State) (i : Nat) (c : Cmd) : State × Option CmdResult :=
  let p := updProgram s c
  let e := (c.slot 0).len / 4
  match p.2 with
  | some ws =>
    if !ws.all upWordOk then (p.1, some (.st stRange))
    else
      let s1 := if c.par 153 1 = 0 then
          let g := readElems p.1 (c.ep p.1) (c.slot 5) false 4 0 e
          updRun g.1 i c p.2 0 (g.2.map (fun x => (x, c.par 160 4)))
        else updTake i p.2 (p.1.landing.length + 1) p.1
      match Tab.get? s1.cmds i with
      | some c1 => (s1, if c1.aux.getD 0 0 < e then none else some ⟨0, 0, 0xFF, c1.aux.getD 2 0, c1.aux.getD 1 0⟩)
      | none => (s1, none)
  | none =>
    let s1 := if c.par 153 1 = 0 then updRun p.1 i c none 0 (List.replicate e (((0, false) : Elem), c.par 160 4))
      else updTake i none (p.1.landing.length + 1) p.1
    match Tab.get? s1.cmds i with
    | some c1 => (s1, if c1.aux.getD 0 0 < e then none else some ⟨0, 0, 0xFF, c1.aux.getD 2 0, c1.aux.getD 1 0⟩)
    | none => (s1, none)

/-! ### OBOE (R331 to R334) -/

/-- Element size of W in bytes. -/
def oboeSize (c : Cmd) : Nat := fmtBits (fmtOf (BitVec.ofNat 64 (c.par 136 8))).format / 8

/-- The slots and parameters of OBOE (R331). -/
def oboeSpec : BlockSpec := fun _ c =>
  let w := fmtOf (BitVec.ofNat 64 (c.par 136 8))
  let e := oboeSize c
  let xs := if c.par 144 1 = 0 then 4 else 2
  let m := c.par 148 4
  let k := c.par 152 4
  let stride := c.par 160 8
  let fmtOk := fmtValid (BitVec.ofNat 64 (c.par 136 8)) && (w.format == 1 || w.format == 2 || w.format == 3 || w.format == 4 || w.format == 8)
  let ok := fmtOk && c.par 144 1 ≤ 1 && c.par 145 1 ≤ 1 && c.zeroPar 146 2 && c.zeroPar 156 4 && c.zeroPar 168 88 && 1 ≤ m &&
    1 ≤ k && k * e % 512 == 0 && k * e ≤ stride && stride % 512 == 0 && (c.slotCap 1).toCap.base % 512 == 0 && k * xs ≤ 262144
  if !ok then .error stRange
  else
    .ok ([⟨0, permST + (if c.par 145 1 = 1 then permLD else 0), 4 * m, 0, 1⟩, ⟨1, permLD, m * stride, 0, 512⟩,
      ⟨2, permLD, k * xs, 0, 1⟩] ++ (if w.mx then [⟨3, permLD, m * k / 32, 0, 1⟩] else []))

/-- The slice that holds a byte of an operand. -/
def sliceAt (m : SlotMap) (off : Nat) : Nat := sliceOf (((runsOf m.alt (m.fuel 1) m.pieces off 1).map (fun r => r.1)).headD 0)

/-- The combining areas must have room for C values for each row whose Y element an engine holds (R334). -/
def oboeRoom : State → Cmd → Except Nat (List Nat) := fun _ c =>
  let chunks := c.par 152 4 * oboeSize c / 512
  let slices := (upto (c.par 148 4)).map (fun r => sliceAt (c.slot 0) (4 * r))
  if slices.eraseDups.any (fun x => decide (32768 < chunks * (slices.filter (fun y => y == x)).length)) then .error stRange
  else .ok []

/-- The value of a group of products: exact sum, scaled by its block scale, rounded once, added (R332). -/
def oboeGroup (d : Fmt) (acc : Elem) (ws xs : List Elem) (scale : Elem) : Elem :=
  let ps := (ws.zip xs).map (fun p => ((elemNum d.format d.mx p.1.1).mul (decodeF fp32 p.2.1)))
  let sum : Num := match ps with
    | [] => .fin false 0 0
    | p :: rest => rest.foldl (fun a b => a.add .rne b) p
  let v : Num := if scale.1 = 255 then .nan else sum.scale ((scale.1 : Int) - 127)
  if acc.2 || scale.2 || ws.any (fun e => e.2) || xs.any (fun e => e.2) then (0, true)
  else (add32 acc.1 (encodeF fp32 .rne v), false)

/-- The partial of a chunk: groups of 32 in ascending order from +0.0 (R332). -/
def oboePartial (d : Fmt) : Nat → List Elem → List Elem → List Elem → Elem → Elem
  | 0, _, _, _, acc => acc
  | f + 1, ws, xs, scales, acc =>
    match ws with
    | [] => acc
    | _ => oboePartial d f (ws.drop 32) (xs.drop 32) (scales.drop 1) (oboeGroup d acc (ws.take 32) (xs.take 32) (scales.headD (127, false)))

/-- The chunks of a row, in order: their partials. -/
def oboeChunks (d : Fmt) (n : Nat) : Nat → List Elem → List Elem → List Elem → List Elem
  | 0, _, _, _ => []
  | f + 1, ws, xs, scales =>
    oboePartial d (n / 32 + 1) (ws.take n) (xs.take n) (scales.take (n / 32)) (0, false) ::
      oboeChunks d n f (ws.drop n) (xs.drop n) (scales.drop (n / 32))

/-- The partials of a row combined in order, one rounding each (R333). -/
def oboeCombine : List Elem → Elem
  | [] => (0, false)
  | p :: ps => ps.foldl (fun a b => (add32 a.1 b.1, a.2 || b.2)) p

/-- One row of OBOE (R332, R333). -/
def oboeRow (c : Cmd) (xs : List Elem) (r : Nat) (s : State) : State × Bool :=
  let d := fmtOf (BitVec.ofNat 64 (c.par 136 8))
  let e := oboeSize c
  let k := c.par 152 4
  let ep := c.ep s
  let rw := engRead s ep (c.slot 1) (c.slot 1).alt (r * c.par 160 8) (k * e)
  let rs := if d.mx then readElems rw.1 ep (c.slot 3) (c.slot 3).alt 1 (r * (k / 32)) (k / 32)
    else (rw.1, List.replicate (k / 32) ((127, false) : Elem))
  let sum := oboeCombine (oboeChunks d (512 / e) (k * e / 512) (elemsOf e k rw.2) xs rs.2)
  let q := (decodeF fp32 sum.1).divS (effScale d)
  let v := encodeF fp32 .rne q.1 q.2
  let old := if c.par 145 1 = 1 then readElems rs.1 ep (c.slot 0) (c.slot 0).alt 4 r 1 else (rs.1, [])
  let y : Elem := match old.2 with
    | [] => (v, sum.2)
    | o :: _ => (add32 v o.1, sum.2 || o.2)
  (writeElems old.1 (c.slot 0) (c.slot 0).alt 4 r [(if y.2 then 0 else y.1, y.2)], y.2)

/-- OBOE (R331 to R334). -/
def runOboe (s : State) (c : Cmd) : State × CmdResult :=
  let k := c.par 152 4
  let rx := readElems s (c.ep s) (c.slot 2) (c.slot 2).alt (if c.par 144 1 = 0 then 4 else 2) 0 k
  let xs := rx.2.map (fun x => if c.par 144 1 = 0 then x else (fCvt bf16 fp32 .rne x.1, x.2))
  let out := (upto (c.par 148 4)).foldl (fun (a : State × Nat) r =>
    let b := oboeRow c xs r a.1
    (b.1, a.2 + b2n b.2)) (rx.1, 0)
  (out.1, { CmdResult.zero with flags := b2n (out.2 != 0), count := out.2 })

/-! ### TRANSPOSE, GATHER, ZERO, REDUCE_AT_MEMORY, PCODE.SCRUB (R336 to R345) -/

/-- Whether the ranges of two slots overlap. -/
def slotsOverlap (c : Cmd) (a b : Nat) : Bool :=
  let x := (c.slotCap a).toCap
  let y := (c.slotCap b).toCap
  x.space == y.space && decide (x.base < y.top) && decide (y.base < x.top)

/-- The slots and parameters of TRANSPOSE (R336). -/
def transposeSpec : BlockSpec := fun _ c =>
  let e := 2 ^ c.par 136 1
  let r := c.par 140 4
  let k := c.par 144 4
  let ok := c.par 136 1 ≤ 2 && c.zeroPar 137 3 && c.zeroPar 148 108 && 1 ≤ r && 1 ≤ k && r * e % 512 == 0 && k * e % 512 == 0 &&
    !slotsOverlap c 0 1
  if ok then .ok [⟨0, permST, r * k * e, 1, 1⟩, ⟨1, permLD, r * k * e, 1, 1⟩] else .error stRange

/-- TRANSPOSE (R336, R337): poisoned source data halts it before anything is written. -/
def runTranspose (s : State) (i : Nat) (c : Cmd) : State × CmdResult :=
  let e := 2 ^ c.par 136 1
  let r := c.par 140 4
  let k := c.par 144 4
  let a := engRead s (c.ep s) (c.slot 1) (c.slot 1).alt 0 (r * k * e)
  match firstPoison (c.slot 1) 0 a.2 with
  | some p => haltCmd a.1 i c p.1 p.2
  | none =>
    let es := elemsOf e (r * k) a.2
    let out := ((upto k).map (fun x => (upto r).map (fun y => es.getD (y * k + x) (0, false)))).flatten
    (writeElems a.1 (c.slot 0) (c.slot 0).alt e 0 out, .zero)

/-- The slots and parameters of GATHER and SORTED_GATHER (R338). -/
def gatherSpec : BlockSpec := fun _ c =>
  let rb := c.par 136 4
  let n := c.par 140 4
  let ok := rb % 32 == 0 && 32 ≤ rb && rb ≤ 65536 && 1 ≤ n && c.zeroPar 144 112 && (c.slotCap 1).toCap.base % 32 == 0
  if ok then .ok [⟨0, permST, n * rb, 1, 1⟩, ⟨1, permLD, c.slotLen 1, 1, 1⟩, ⟨2, permLD, 4 * n, 1, 1⟩] else .error stRange

/-- Whether a gather is sorted: SORTED_GATHER, and GATHER where the window of TABLE's first byte says so (R300, R339). -/
def gatherSorted (s : State) (c : Cmd) : Bool :=
  let m := c.slot 1
  let w := windowAt s m.space m.base
  c.op == 4 || (decide (w.space < 16) && decide (w.window < 16) && bit (s.ten w.space 0xC040 w.window) (8 * 19))

/-- A row joins those the sorter holds, in ascending order and once. -/
def sortRow (x : Nat) : List Nat → List Nat
  | [] => [x]
  | y :: t => if x < y then x :: y :: t else if x = y then y :: t else y :: sortRow x t

/-- The rows of TABLE in the order in which they are read (R339): in index order, or sorted with each read once. -/
def gatherOrder (sorted : Bool) (ix : List Nat) : List Nat := if sorted then ix.foldl (fun l x => sortRow x l) [] else ix

/-- GATHER and SORTED_GATHER (R338 to R340): every index is checked first; rows are read before any is written. -/
def runGather (s : State) (i : Nat) (c : Cmd) : State × CmdResult :=
  let rb := c.par 136 4
  let n := c.par 140 4
  let ix := readElems s (c.ep s) (c.slot 2) (c.slot 2).alt 4 0 n
  match findIdx? (fun (e : Elem) => e.2) ix.2 0 with
  | some k => haltCmd ix.1 i c (((runsOf (c.slot 2).alt ((c.slot 2).fuel 1) (c.slot 2).pieces (4 * k) 1).map (fun r => r.1)).headD 0) ((c.slot 2).base + 4 * k)
  | none =>
    if ix.2.any (fun e => decide ((c.slot 1).len / rb ≤ e.1)) then (ix.1, .st stRange)
    else
      let order := gatherOrder (gatherSorted ix.1 c) (ix.2.map (fun e => e.1))
      let rows := order.foldl (fun (a : State × List (Nat × List PByte) × Option (Nat × Nat)) row =>
        let r := engRead a.1 (c.ep a.1) (c.slot 1) (c.slot 1).alt (row * rb) rb
        (r.1, a.2.1 ++ [(row, r.2)], a.2.2.or (firstPoison (c.slot 1) (row * rb) r.2))) (ix.1, ([], none))
      match rows.2.2 with
      | some p => haltCmd rows.1 i c p.1 p.2
      | none =>
        let out := (ix.2.map (fun e => ((rows.2.1.find? (fun y => y.1 == e.1)).map (fun y => y.2)).getD [])).flatten
        (engWrite rows.1 (c.slot 0) (c.slot 0).alt 0 out, .zero)

/-- The slot and parameter of ZERO (R341). -/
def zeroSpec : BlockSpec := fun _ c =>
  if c.par 136 1 ≤ 1 && c.zeroPar 137 119 && !(c.par 136 1 == 1 && c.sflags 0 == 1) then
    .ok [⟨0, permST, c.slotLen 0, 1, 512⟩] else .error stRange

/-- ZERO (R341): contents, tags, poison and codes of the buffers named. -/
def runZero (s : State) (c : Cmd) : State × CmdResult :=
  let m := c.slot 0
  let both := c.par 136 1 == 1
  (m.pieces.foldl (fun (st : State) p =>
    let s1 := if both || !m.alt then zeroPhys st p.cur p.len else st
    if both || m.alt then zeroPhys s1 p.alt p.len else s1) s, .zero)

/-- Bytes of a SRC element of REDUCE_AT_MEMORY. -/
def reduceSize (c : Cmd) : Nat := if c.par 138 1 = 1 then 2 else 4

/-- The slots and parameters of REDUCE_AT_MEMORY (R342, R343). -/
def reduceSpec : BlockSpec := fun s c =>
  let d := c.par 137 1
  let f := c.par 138 1
  let ok := c.par 136 1 ≤ 2 && c.zeroPar 139 117 && ((d == 0xC && f == 0xC) || (d == 0 && (f == 0 || f == 1 || f == 0xF))) &&
    c.slotLen 0 % 4 == 0
  if !ok then .error stRange
  else if d = 0 && (c.space = 16 || s.ten c.tenancy.val 0xC020 5 = 0) then .error stStateConflict
  else .ok [⟨0, permLD + permST, c.slotLen 0, 1, 1⟩, ⟨1, permLD, c.slotLen 0 / 4 * reduceSize c, 1, 1⟩]

/-- A SRC element converted exactly to DST's format (R342). -/
def reduceIn (f x : Nat) : Nat :=
  match f with
  | 1 => fCvt bf16 fp32 .rne x
  | 0xF => fCvt w22 fp32 .rne (x % 2 ^ 22)
  | _ => x

/-- One element of REDUCE_AT_MEMORY (R342). -/
def reduceElem (op d a b : Nat) : Nat :=
  if d = 0xC then
    match op with
    | 0 => (a + b) % 2 ^ 32
    | 1 => if sext 32 a ≤ sext 32 b then a else b
    | _ => if sext 32 a ≤ sext 32 b then b else a
  else
    match op with
    | 0 => add32 a b
    | 1 => fMin fp32 a b
    | _ => fMax fp32 a b

/-- REDUCE_AT_MEMORY (R342): DST is read and written in the buffer its slot names. -/
def runReduce (s : State) (c : Cmd) : State × CmdResult :=
  let n := (c.slot 0).len / 4
  let a := readElems s (c.ep s) (c.slot 0) (c.slot 0).alt 4 0 n
  let b := readElems a.1 (c.ep a.1) (c.slot 1) (c.slot 1).alt (reduceSize c) 0 n
  let out := (a.2.zip b.2).map (fun x =>
    if x.1.2 || x.2.2 then ((0, true) : Elem)
    else (reduceElem (c.par 136 1) (c.par 137 1) x.1.1 (reduceIn (c.par 138 1) x.2.1), false))
  let bad := (out.filter (fun e => e.2)).length
  (writeElems b.1 (c.slot 0) (c.slot 0).alt 4 0 out, { CmdResult.zero with flags := b2n (bad != 0), count := bad })

/-- The slot of PCODE.SCRUB: a DEV capability (R345). -/
def scrubSpec : BlockSpec := fun _ c =>
  if !c.zeroPar 136 120 then .error stRange
  else if (c.slotCap 0).isUnsealed && !(c.slotCap 0).toCap.dev then .error stNoCapability
  else .ok [⟨0, permLD + permST, c.slotLen 0, 1, 1⟩]

/-- Whether the code page that holds a physical byte has a byte in a physical range (R274, R344). -/
def codePageMeets (a lo len : Nat) : Bool :=
  let g := if fld a 47 44 = 0 then 1536 else 384
  let first := a / 512 / g * g
  (upto g).any (fun k =>
    let c := 512 * (first + k)
    decide (c < lo + len) && decide (lo < c + 512) && codePageOf c == codePageOf a)

/-- PCODE.SCRUB (R345): every code page of the range is decoded: corrected, or its lost words marked poisoned and reported. COUNT
is the number of code pages corrected. -/
def runScrub (s : State) (c : Cmd) : State × CmdResult :=
  let m := c.slot 0
  let hit (a : Nat) : Bool := m.pieces.any (fun p => codePageMeets a (if m.alt then p.alt else p.cur) p.len)
  let r := repairHbm s false hit
  (patrolFound s r.1 hit, { CmdResult.zero with count := r.2 })

/-! ### Instructions (R314) -/

/-- What the issue of a Bellows command asks (R314). -/
def bellowsOp (cmd : Nat) : EngineOp := { engine := 0, op := cmd, perms := permENG + permLD + permLDCAP }

/-- UPDATE (R321, R322). -/
def execUpdate (t : Tid) (rd : RIdx) (cs : PIdx) (a : CForm) (s : State) :=
  engineInstr t (bellowsOp 0) rd cs a (fun i s1 => acceptBlock updateSpec i s1 (fun s2 c => .ok (updateKeep s2 c))) s
/-- OBOE (R331). -/
def execOboe (t : Tid) (rd : RIdx) (cs : PIdx) (a : CForm) (s : State) :=
  engineInstr t (bellowsOp 1) rd cs a (fun i s1 => acceptBlock oboeSpec i s1 oboeRoom) s
/-- TRANSPOSE (R336). -/
def execTranspose (t : Tid) (rd : RIdx) (cs : PIdx) (a : CForm) (s : State) :=
  engineInstr t (bellowsOp 2) rd cs a (fun i s1 => acceptBlock transposeSpec i s1) s
/-- GATHER (R338). -/
def execGather (t : Tid) (rd : RIdx) (cs : PIdx) (a : CForm) (s : State) :=
  engineInstr t (bellowsOp 3) rd cs a (fun i s1 => acceptBlock gatherSpec i s1) s
/-- SORTED_GATHER (R338, R339). -/
def execSortedGather (t : Tid) (rd : RIdx) (cs : PIdx) (a : CForm) (s : State) :=
  engineInstr t (bellowsOp 4) rd cs a (fun i s1 => acceptBlock gatherSpec i s1) s
/-- ZERO (R341). -/
def execZero (t : Tid) (rd : RIdx) (cs : PIdx) (a : CForm) (s : State) :=
  engineInstr t (bellowsOp 5) rd cs a (fun i s1 => acceptBlock zeroSpec i s1) s
/-- REDUCE_AT_MEMORY (R342, R343). -/
def execReduceAtMemory (t : Tid) (rd : RIdx) (cs : PIdx) (a : CForm) (s : State) :=
  engineInstr t (bellowsOp 6) rd cs a (fun i s1 => acceptBlock reduceSpec i s1) s
/-- PCODE.SCRUB (R345). -/
def execPcodeScrub (t : Tid) (rd : RIdx) (cs : PIdx) (a : CForm) (s : State) :=
  engineInstr t (bellowsOp 16) rd cs a (fun i s1 => acceptBlock scrubSpec i s1) s

/-! ### Completion (R317 to R319) -/

/-- The physical ranges a command touches through a slot: address, length, and whether it writes them. UPDATE reads the
current buffers and writes the alternate ones (R323); ZERO with BOTH writes both (R341). -/
def slotTouches (c : Cmd) (m : SlotMap) : List (Nat × Nat × Bool) :=
  (m.pieces.map (fun p =>
    if c.op = 0 then (if m.writes then [(p.cur, p.len, false), (p.alt, p.len, true)] else [(p.cur, p.len, false)])
    else if c.op = 5 && c.par 136 1 = 1 then [(p.cur, p.len, true), (p.alt, p.len, true)]
    else [(if m.alt then p.alt else p.cur, p.len, m.writes)])).flatten

/-- Whether two commands conflict: one writes a byte that the other reads or writes (R319). A command whose translations are
not yet complete conflicts with every later one of its thread. -/
def cmdsConflict (a b : Cmd) : Bool :=
  a.phase == .accepting ||
    (a.slots.map (slotTouches a)).flatten.any (fun x => (b.slots.map (slotTouches b)).flatten.any (fun y =>
      (x.2.2 || y.2.2) && decide (x.1 < y.1 + y.2.1) && decide (y.1 < x.1 + x.2.1)))

/-- Whether an earlier Bellows command of the same thread that conflicts is not done yet (R319). -/
def cmdBlocked (s : State) (c : Cmd) : Bool :=
  s.cmds.any (fun e => e.2.engine == 0 && e.2.thread == c.thread && decide (e.2.seq < c.seq) &&
    e.2.phase != .ended && cmdsConflict e.2 c)

/-- Whether a command writes a buffer that a snapshot drain still reads (R24, R323). -/
def drainHolds (s : State) (c : Cmd) : Bool :=
  s.tenants.toList.any (fun x => match x.drain with
    | some d => (c.slots.map (slotTouches c)).flatten.any (fun w => w.2.2 &&
        d.runs.any (fun r => decide (w.1 < r.1 + r.2) && decide (r.1 < w.1 + w.2.1)))
    | none => false)

/-- The effect of a started Bellows command: none while it still lacks gradients. -/
def runBellows (s : State) (i : Nat) (c : Cmd) : State × Option CmdResult :=
  let some' (r : State × CmdResult) : State × Option CmdResult := (r.1, some r.2)
  match c.op with
  | 0 => runUpdate s i c
  | 1 => some' (runOboe s c)
  | 2 => some' (runTranspose s i c)
  | 3 => some' (runGather s i c)
  | 4 => some' (runGather s i c)
  | 5 => some' (runZero s c)
  | 6 => some' (runReduce s c)
  | _ => some' (runScrub s c)

/-- BELLOWS_COMMAND_COMPLETE (R317): a started command takes its effect and completes; one whose checks failed completes
without effect. -/
def execBellowsCommandComplete (cmd : Nat) (s : State) : Host.Outcome State Fault Refusal :=
  match Tab.get? s.cmds cmd with
  | none => .next s
  | some c =>
    if c.engine ≠ 0 then .next s
    else match c.phase with
      | .ended => .next (finishCmd s cmd)
      | .started =>
        if cmdBlocked s c || drainHolds s c then .next s
        else
          let r := runBellows s cmd c
          match r.2 with
          | some x => .next (finishWith r.1 cmd x)
          | none => .next r.1
      | _ => .next s

/-! ### The key-epoch sweep (R258, R346) -/

/-- Whether a live engine command holds a translation of a range (R252, R346). -/
def rangeHeld (s : State) (space va len : Nat) : Bool :=
  s.cmds.any (fun e => e.2.slots.any (fun m => m.space == space &&
    m.pieces.any (fun p => decide (p.va < va + len) && decide (va < p.va + p.len))))

/-- Re-encryption of the LOCAL page that an address lies in, when its data is under the previous key and no engine command
holds its translation; the writes that wait for it go on. -/
def reencryptPage (s : State) (n : Fin 17) (page : Nat) : State :=
  let w := walk s n (page * 65536)
  match w.2 with
  | .leaf level epa e =>
    let first := pageBase level (page * 65536)
    if e % 8 = 2 && staleKey w.1 n e && !rangeHeld w.1 n.val (first * 65536) (2 ^ levelShift level) then
      wakeOn (reencrypt w.1 n level epa e) (.reencrypt n.val first)
    else s
  | _ => s

/-- PAGE_REENCRYPT (R258): the page that a write waits for is re-encrypted ahead of the sweep. -/
def execPageReencrypt (space : Fin 17) (page : Nat) (s : State) : Host.Outcome State Fault Refusal :=
  if s.threads.toList.any (fun th => th.status == .waiting (.reencrypt space.val page)) then .next (reencryptPage s space page)
  else .next s

/-- KEY_SWEEP_PAGE (R346): the sweep takes a LOCAL page, or a shadow frame filled under the previous epoch. -/
def execKeySweepPage (space : Fin 17) (page : Nat) (s : State) : Host.Outcome State Fault Refusal :=
  if !(s.sp space).sweeping then .next s
  else match s.shadows.find? (fun x => x.space == space.val && x.page == page) with
    | some x =>
      let size := levelUnits x.level * 65536
      if x.filled && x.keyEpoch != (s.sp space).keyEpoch % 4 && !rangeHeld s space.val (x.page * 65536) size then
        let s1 := cleanRange s (x.frame * 65536) size
        .next (sweepOne { s1 with shadows := s1.shadows.map (fun y =>
          if y == x then { y with keyEpoch := (s.sp space).keyEpoch % 4 } else y) } space)
      else .next s
    | none => .next (reencryptPage s space page)

end Sys2Proof.Machine
end

