-- ==== Sys2Proof/Machine/LoadStore.lean ====
section
/-!
DEFINITION. Machine/LoadStore.lean: scalar and short-vector loads and stores, LDC and STC, SCAN, the AMO instructions, and
PUSH, POP, PUSHC, POPC (R45 to R49, R54, R57, R82, R297, R448, R597).
-/

namespace Sys2Proof.Machine

/-! ### Loads -/

/-- A scalar load of size bytes: the checks of R45, the bytes, and POISON in place of a poisoned value (R46). -/
def loadScalar (t : Tid) (rd : RIdx) (c : Cap) (a size : Nat) (f : Nat → Reg) : M Unit := do
  dataChecks t c permLD a size size
  let bs ← demandBytes t c a size
  wr t rd (orPoison (bytesPoison bs) (f (bytesVal bs)))

/-- An M-format scalar load. -/
def loadOp (t : Tid) (rd : RIdx) (cs : PIdx) (m : MForm) (size : Nat) (f : Nat → Reg) : M Unit := do
  let th ← getT t
  checkOps (mOps th cs m)
  loadScalar t rd (th.cap cs).toCap (mAddr th cs m size 0) size f

/-- A zero-extended value as an INT. -/
def regU (v : Nat) : Reg := .int (BitVec.ofNat 64 v)
/-- A sign-extended value of n bits as an INT. -/
def regS (n v : Nat) : Reg := .int (BitVec.ofInt 64 (sext n v))

/-- LD.B (R45). -/
def execLdB (t : Tid) (rd : RIdx) (cs : PIdx) (m : MForm) (s : State) := simpleX t m.isExt (loadOp t rd cs m 1 (regS 8)) s
/-- LD.BU (R45). -/
def execLdBu (t : Tid) (rd : RIdx) (cs : PIdx) (m : MForm) (s : State) := simpleX t m.isExt (loadOp t rd cs m 1 regU) s
/-- LD.H (R45). -/
def execLdH (t : Tid) (rd : RIdx) (cs : PIdx) (m : MForm) (s : State) := simpleX t m.isExt (loadOp t rd cs m 2 (regS 16)) s
/-- LD.HU (R45). -/
def execLdHu (t : Tid) (rd : RIdx) (cs : PIdx) (m : MForm) (s : State) := simpleX t m.isExt (loadOp t rd cs m 2 regU) s
/-- LD.W (R45). -/
def execLdW (t : Tid) (rd : RIdx) (cs : PIdx) (m : MForm) (s : State) := simpleX t m.isExt (loadOp t rd cs m 4 (regS 32)) s
/-- LD.WU (R45). -/
def execLdWu (t : Tid) (rd : RIdx) (cs : PIdx) (m : MForm) (s : State) := simpleX t m.isExt (loadOp t rd cs m 4 regU) s
/-- LD.D (R45). -/
def execLdD (t : Tid) (rd : RIdx) (cs : PIdx) (m : MForm) (s : State) := simpleX t m.isExt (loadOp t rd cs m 8 regU) s
/-- LD.F (R45). -/
def execLdF (t : Tid) (rd : RIdx) (cs : PIdx) (m : MForm) (s : State) := simpleX t m.isExt (loadOp t rd cs m 8 Reg.flt) s

/-- LDC at an address (R46, R47, R82). -/
def loadCap (t : Tid) (rd : RIdx) (c : Cap) (a : Nat) : M Unit := do
  dataChecks t c permLD a 16 16
  let g ← demandGranule t c a
  wrPair t rd (granulePair (c.has permLDCAP) g)

/-- LDC (R45, R47, R82). -/
def execLdc (t : Tid) (rd : RIdx) (cs : PIdx) (m : MForm) (s : State) :=
  simpleX t m.isExt (do
    needEven [rd]
    let th ← getT t
    checkOps (mOps th cs m)
    loadCap t rd (th.cap cs).toCap (mAddr th cs m 16 0)) s

/-! ### Stores -/

/-- A scalar store of size bytes: POISON data is stored and marked (R31). -/
def storeScalar (t : Tid) (v : Reg) (c : Cap) (a size : Nat) : M Unit := do
  dataChecks t c permST a size size
  storeBytes t c.space a (mkBytes size v.val.toNat (v.tag == .poison)) false

/-- An M-format scalar store whose address is off bytes past its own. -/
def storeOp (t : Tid) (rs : RIdx) (cs : PIdx) (m : MForm) (size : Nat) (off : Int) : M Unit := do
  let th ← getT t
  checkOps (opnd 0 .store (th.g rs) :: mOps th cs m)
  storeScalar t (th.g rs) (th.cap cs).toCap (mAddr th cs m size off) size

/-- ST.B (R45). -/
def execStB (t : Tid) (rs : RIdx) (cs : PIdx) (m : MForm) (s : State) := simpleX t m.isExt (storeOp t rs cs m 1 0) s
/-- ST.H (R45). -/
def execStH (t : Tid) (rs : RIdx) (cs : PIdx) (m : MForm) (s : State) := simpleX t m.isExt (storeOp t rs cs m 2 0) s
/-- ST.W (R45). -/
def execStW (t : Tid) (rs : RIdx) (cs : PIdx) (m : MForm) (s : State) := simpleX t m.isExt (storeOp t rs cs m 4 0) s
/-- ST.D (R45). -/
def execStD (t : Tid) (rs : RIdx) (cs : PIdx) (m : MForm) (s : State) := simpleX t m.isExt (storeOp t rs cs m 8 0) s

/-- The operands of a stored pair (R45, R76): a half of a capability makes the pair one of the capability class; two words
of the store-data class otherwise. -/
def stcOps (slot : Nat) (p : Pair) : List Opnd :=
  if p.a.tag.isCap || p.b.tag.isCap then pairOps slot p .capOrSealed
  else [opnd slot .store p.a, opnd slot .store p.b]

/-- The permission a stored pair needs beside ST: STCAP for a capability (R47). -/
def stcMask (p : Pair) : Nat := if p.isCap then permST + permSTCAP else permST

/-- The 16 bytes of a pair. -/
def pairBytes (p : Pair) : List PByte :=
  mkBytes 8 p.a.val.toNat (p.a.tag == .poison) ++ mkBytes 8 p.b.val.toNat (p.b.tag == .poison)

/-- STC at an address: a capability sets the tag bit, two words clear it (R47, R82). -/
def storeCap (t : Tid) (p : Pair) (c : Cap) (a : Nat) : M Unit := do
  if p.isCap then capUse t p.toCap 0
  dataChecks t c (stcMask p) a 16 16
  storeBytes t c.space a (pairBytes p) p.isCap

/-- STC (R45, R47). -/
def execStc (t : Tid) (rs : RIdx) (cs : PIdx) (m : MForm) (s : State) :=
  simpleX t m.isExt (do
    needEven [rs]
    let th ← getT t
    checkOps (stcOps 0 (th.pair rs) ++ mOps th cs m)
    storeCap t (th.pair rs) (th.cap cs).toCap (mAddr th cs m 16 0)) s

/-! ### Short-vector loads and stores (R56, R57) -/

/-- SV.LD: 16 bytes, each register POISON where its own word is (R46, R55). -/
def execSvLd (t : Tid) (rd : RIdx) (cs : PIdx) (m : MForm) (s : State) :=
  simpleX t m.isExt (do
    needEven [rd]
    let th ← getT t
    checkOps (mOps th cs m)
    let c := (th.cap cs).toCap
    let a := mAddr th cs m 16 0
    dataChecks t c permLD a 16 16
    let bs ← demandBytes t c a 16
    let half (k : Nat) : Reg :=
      let h := slice bs (8 * k) 8
      orPoison (bytesPoison h) (regU (bytesVal h))
    wrPair t rd ⟨half 0, half 1⟩) s

/-- A short-vector store: each register of the pair is of the short-vector class; a POISON word is stored and marked. -/
def svStoreOp (t : Tid) (rs : RIdx) (cs : PIdx) (m : MForm) (off : Int) : M Unit := do
  needEven [rs]
  let th ← getT t
  let p := th.pair rs
  checkOps ([opnd 0 .sv p.a, opnd 0 .sv p.b] ++ mOps th cs m)
  let c := (th.cap cs).toCap
  let a := mAddr th cs m 16 off
  dataChecks t c permST a 16 16
  storeBytes t c.space a (pairBytes p) false

/-- SV.ST (R56). -/
def execSvSt (t : Tid) (rs : RIdx) (cs : PIdx) (m : MForm) (s : State) := simpleX t m.isExt (svStoreOp t rs cs m 0) s

/-! ### SCAN (R49) -/

/-- Bytes of the word a SCAN compares. -/
def scanSize : ScanKind → Nat
  | .eqD => 8
  | .neD => 8
  | .eqW => 4
  | .neW => 4

/-- Whether the condition of a SCAN holds between the word and rs. -/
def scanHolds (k : ScanKind) (w : Nat) (rs : Word) : Bool :=
  match k with
  | .eqD => w == rs.toNat
  | .neD => w != rs.toNat
  | .eqW => w == rs.toNat % 2 ^ 32
  | .neW => w != rs.toNat % 2 ^ 32

/-- The register that gives rs of an A-format instruction, and its slot; in the extended form rd serves as rs. -/
def aRs (rd : RIdx) : AForm → RIdx × Nat
  | .short _ rs => (rs, 9)
  | .ext _ => (rd, 0)

/-- The operands of an A-format address. -/
def aOps (th : Thread) (cs : PIdx) (a : AForm) : List Opnd :=
  csOps (th.cap cs) ++ match a with
    | .short rx _ => [⟨6, .index, th.g rx, false, none, 0⟩]
    | .ext _ => []

/-- One comparison of a SCAN, off bytes past its own address: none when it has no outcome. -/
def scanAt (t : Tid) (kind : ScanKind) (rd : RIdx) (cs : PIdx) (a : AForm) (off : Int) : M (Option Bool) := do
  let th ← getT t
  let r := aRs rd a
  checkOps (aOps th cs a ++ [opnd r.2 .int (th.g r.1)])
  let c := (th.cap cs).toCap
  let ad := aAddr th cs a off
  dataChecks t c permLD ad (scanSize kind) (scanSize kind)
  let bs ← loadBytes t c.space ad (scanSize kind)
  if (th.g r.1).tag == .poison || bytesPoison bs then pure none
  else pure (some (scanHolds kind (bytesVal bs) (th.g r.1).val))

/-- SCAN without REP: INT 0 when the condition holds and INT 1 when it does not (R49). -/
def scanOp (t : Tid) (kind : ScanKind) (rd : RIdx) (cs : PIdx) (a : AForm) : M Unit := do
  let r ← scanAt t kind rd cs a 0
  wr t rd (match r with
    | none => .poison
    | some true => .int 0
    | some false => .int 1)

/-- SCAN.EQ.D (R49). -/
def execScanEqD (t : Tid) (rd : RIdx) (cs : PIdx) (a : AForm) (s : State) := simpleX t a.isExt (scanOp t .eqD rd cs a) s
/-- SCAN.NE.D (R49). -/
def execScanNeD (t : Tid) (rd : RIdx) (cs : PIdx) (a : AForm) (s : State) := simpleX t a.isExt (scanOp t .neD rd cs a) s
/-- SCAN.EQ.W (R49). -/
def execScanEqW (t : Tid) (rd : RIdx) (cs : PIdx) (a : AForm) (s : State) := simpleX t a.isExt (scanOp t .eqW rd cs a) s
/-- SCAN.NE.W (R49). -/
def execScanNeW (t : Tid) (rd : RIdx) (cs : PIdx) (a : AForm) (s : State) := simpleX t a.isExt (scanOp t .neW rd cs a) s

/-! ### AMO (R48, R49, R297, R448) -/

/-- One indivisible read-modify-write of an aligned word at its slice: the old value, or none for a poisoned word, which
stays as it is (R48, R297, R448). The new value is none when nothing is written. -/
def amoAt (t : Tid) (n : Fin 17) (va : Nat) (f : Word → Option Word) : M (Option Word) := do
  let pa ← xlate t n va .amo
  quotaWait t [(va, 8, pa)]
  fun s =>
    let ep := (s.th t).ep
    let ln := pa / 128
    let ac := windowAt s n.val va
    let s1 := sliceRead (l1Flush s t.core ln) ln (runSectors (pa % 128) 8) ac
    let v := viewFull s1 ep ln
    if bit v.poison (pa % 128 / 8) then .ok none s1
    else
      let old : Word := BitVec.ofNat 64 (v.data / 256 ^ (pa % 128))
      match f old with
      | none => .ok (some old) s1
      | some w =>
        let mask := 255 * 2 ^ (pa % 128)
        let d := w.toNat * 256 ^ (pa % 128)
        .ok (some old) (match ep with
          | some e => overlayWrite s1 e ln mask d 0 0 ac
          | none => sliceWrite s1 ln mask d 0 0 ac)

/-- An AMO: operands of the count class (USE 0x3), LD and ST, 8-byte alignment (R48). cas also reads rd. -/
def amoOp (t : Tid) (rd : RIdx) (cs : PIdx) (a : AForm) (cas : Bool) (f : Word → Word → Word → Option Word) : M Unit := do
  let th ← getT t
  let r := aRs rd a
  let casOps := if cas then [opnd 0 .count (th.g rd)] else []
  checkOps (aOps th cs a ++ [opnd r.2 .count (th.g r.1)] ++ casOps)
  let c := (th.cap cs).toCap
  let ad := aAddr th cs a 0
  dataChecks t c (permLD + permST) ad 8 8
  let old ← amoAt t c.space ad (fun o => f o (th.g r.1).val (th.g rd).val)
  wr t rd (match old with
    | none => .poison
    | some o => .int o)

/-- AMOADD (R48). -/
def execAmoadd (t : Tid) (rd : RIdx) (cs : PIdx) (a : AForm) (s : State) :=
  simpleX t a.isExt (amoOp t rd cs a false (fun o r _ => some (o + r))) s
/-- AMOAND (R48). -/
def execAmoand (t : Tid) (rd : RIdx) (cs : PIdx) (a : AForm) (s : State) :=
  simpleX t a.isExt (amoOp t rd cs a false (fun o r _ => some (o &&& r))) s
/-- AMOOR (R48). -/
def execAmoor (t : Tid) (rd : RIdx) (cs : PIdx) (a : AForm) (s : State) :=
  simpleX t a.isExt (amoOp t rd cs a false (fun o r _ => some (o ||| r))) s
/-- AMOXOR (R48). -/
def execAmoxor (t : Tid) (rd : RIdx) (cs : PIdx) (a : AForm) (s : State) :=
  simpleX t a.isExt (amoOp t rd cs a false (fun o r _ => some (o ^^^ r))) s
/-- AMOSWAP (R48). -/
def execAmoswap (t : Tid) (rd : RIdx) (cs : PIdx) (a : AForm) (s : State) :=
  simpleX t a.isExt (amoOp t rd cs a false (fun _ r _ => some r)) s
/-- AMOCAS: rs when old equals the prior value of rd (R48). -/
def execAmocas (t : Tid) (rd : RIdx) (cs : PIdx) (a : AForm) (s : State) :=
  simpleX t a.isExt (amoOp t rd cs a true (fun o r p => if o = p then some r else none)) s
/-- AMOMIN (R48). -/
def execAmomin (t : Tid) (rd : RIdx) (cs : PIdx) (a : AForm) (s : State) :=
  simpleX t a.isExt (amoOp t rd cs a false (fun o r _ => some (minS o r))) s
/-- AMOMAX (R48). -/
def execAmomax (t : Tid) (rd : RIdx) (cs : PIdx) (a : AForm) (s : State) :=
  simpleX t a.isExt (amoOp t rd cs a false (fun o r _ => some (maxS o r))) s

/-! ### The data stack (R54, R598) -/

/-- The operands of the stack instructions: c15 (slots 0xB and 0xC) and g29 of the index class (slot 0xD). -/
def stackOps (th : Thread) : List Opnd :=
  let p := th.cap 15
  [⟨0xB, .cap, p.a, false, none, pairSub .cap p⟩, ⟨0xC, .cap, p.b, true, none, pairSub .cap p⟩,
   ⟨0xD, .index, th.g 29, false, none, 0⟩]

/-- The address off bytes from the top of the data stack. -/
def stackAddr (th : Thread) (off : Int) : Nat := intBits 64 ((th.cap 15).toCap.base + (th.g 29).val.toNat + off)

/-- The data stack's top moved by off bytes. -/
def moveTop (t : Tid) (th : Thread) (off : Int) : M Unit := wr t 29 (.int ((th.g 29).val + BitVec.ofInt 64 off))

/-- PUSH (R54): the store at g29 − 8, then g29. -/
def execPush (t : Tid) (rs1 : RIdx) (s : State) :=
  simple t (do
    let th ← getT t
    checkOps (opnd 1 .store (th.g rs1) :: stackOps th)
    storeScalar t (th.g rs1) (th.cap 15).toCap (stackAddr th (-8)) 8
    moveTop t th (-8)) s

/-- POP (R54): the load from g29 into rd, then g29. -/
def execPop (t : Tid) (rd : RIdx) (s : State) :=
  simple t (do
    let th ← getT t
    checkOps (stackOps th)
    loadScalar t rd (th.cap 15).toCap (stackAddr th 0) 8 regU
    moveTop t th 8) s

/-- PUSHC (R54). -/
def execPushc (t : Tid) (rs1 : RIdx) (s : State) :=
  simple t (do
    needEven [rs1]
    let th ← getT t
    checkOps (stcOps 1 (th.pair rs1) ++ stackOps th)
    storeCap t (th.pair rs1) (th.cap 15).toCap (stackAddr th (-16))
    moveTop t th (-16)) s

/-- POPC of the stack (R54). -/
def execStackPopc (t : Tid) (rd : RIdx) (s : State) :=
  simple t (do
    needEven [rd]
    let th ← getT t
    checkOps (stackOps th)
    loadCap t rd (th.cap 15).toCap (stackAddr th 0)
    moveTop t th 16) s

end Sys2Proof.Machine
end

