-- ==== Sys2Proof/Machine/Branch.lean ====
section
/-!
DEFINITION. Machine/Branch.lean: branches, jumps, calls, gates and RET, and the fences (R42 to R44, R50 to R53, R78 to R80,
R294, R598).
-/

namespace Sys2Proof.Machine

/-- The address off words past a branch (R43). -/
def branchTarget (pc : Word) (off : Int) : Word := pc + BitVec.ofInt 64 (4 * off)

/-- BZ and BNZ: the register is of the condition class (R42). -/
def condBranch (t : Tid) (rs : RIdx) (off : BForm) (onZero : Bool) (s : State) : Host.Outcome State Fault Refusal :=
  runInstr t { len := lenOf off.isExt, ext := off.isExt } (do
    let th ← getT t
    checkOps [opnd 0 .cond (th.g rs)]
    pure (if ((th.g rs).val == 0) == onZero then some (branchTarget th.pc off.value) else none)) s

/-- BZ (R42). -/
def execBz (t : Tid) (rs : RIdx) (off : BForm) (s : State) := condBranch t rs off true s
/-- BNZ (R42). -/
def execBnz (t : Tid) (rs : RIdx) (off : BForm) (s : State) := condBranch t rs off false s

/-- J (R43). -/
def execJ (t : Tid) (off : JForm) (s : State) : Host.Outcome State Fault Refusal :=
  runInstr t { len := lenOf off.isExt, ext := off.isExt } (do
    let th ← getT t
    pure (some (branchTarget th.pc off.value))) s

/-- The target of JR and CALLR: the value of rs1, of the index class; ALIGN for bits [1:0] (R43). -/
def jumpTarget (t : Tid) (rs1 : RIdx) : M Word := do
  let a ← greg t rs1
  checkOps [opnd 1 .index a]
  if a.val.toNat % 4 ≠ 0 then raise vecAlign 0 a.val.toNat
  pure a.val

/-- JR (R43). -/
def execJr (t : Tid) (rs1 : RIdx) (s : State) : Host.Outcome State Fault Refusal :=
  runInstr t {} (do
    let a ← jumpTarget t rs1
    pure (some a)) s

/-! ### The return stack (R51, R52) -/

/-- An exception of the meaning takes the given FADDR. -/
def withFaddr {α : Type} (a : Nat) (m : M α) : M α := fun s =>
  match m s with
  | .error (.exc e) s1 => .error (.exc { e with faddr := a }) s1
  | r => r

/-- Step 1 of R52: RSCAP is a capability with RET, accepted under R73, and the offset has room. -/
def rstackCheck (t : Tid) (call : Bool) : M Nat := do
  let th ← getT t
  let rsp := th.rsp.toNat
  let c := th.rscap.toCap
  let off := if call then intBits 64 (rsp - 32) else rsp
  if th.rscap.isUnsealed then capUse t c (c.base + off)
  if !th.rscap.isUnsealed || !c.has permRET then raise vecRstack 4 rsp
  if call && rsp < 32 then raise vecRstack 0 rsp
  if !call && c.length < rsp + 32 then raise vecRstack 1 rsp
  pure (c.base + off)

/-- A call's push of a return record (R51, R52). Its tag bit is set when the record lies on a granule. -/
def pushRecord (t : Tid) (kind : Nat) (retPc : Word) : M Unit := do
  let a ← rstackCheck t true
  let th ← getT t
  let n := th.rscap.toCap.space
  let p1 ← withFaddr a (xlateAll t n .write (pieces 8 a 16))
  let p2 ← withFaddr a (xlateAll t n .write (pieces 8 (a + 16) 16))
  quotaWait t (p1 ++ p2)
  modS (fun s => writePieces t n false p2 (mkBytes 16 (retPc.toNat + kind * 2 ^ 120) false)
    (writePieces t n (a % 16 == 0 && th.pcc.isUnsealed) p1 (pairBytes th.pcc) s))
  modT t (fun h => { h with rsp := h.rsp - 32 })

/-- CALL (R52). -/
def execCall (t : Tid) (off : JForm) (s : State) : Host.Outcome State Fault Refusal :=
  runInstr t { len := lenOf off.isExt, ext := off.isExt } (do
    let th ← getT t
    pushRecord t 1 (th.pc + BitVec.ofNat 64 (lenOf off.isExt))
    pure (some (branchTarget th.pc off.value))) s

/-- CALLR (R43, R52). -/
def execCallr (t : Tid) (rs1 : RIdx) (s : State) : Host.Outcome State Fault Refusal :=
  runInstr t {} (do
    let a ← jumpTarget t rs1
    let th ← getT t
    pushRecord t 1 (th.pc + 4)
    pure (some a)) s

/-- The four words of 32 bytes at an address, each with its poison mark, and the tag bit of the first granule. -/
def readRecord (t : Tid) (n : Fin 17) (a : Nat) : M (List (Word × Bool) × Bool) := do
  if a % 16 = 0 then
    let g ← loadGranule t n a
    let h ← loadGranule t n (a + 16)
    pure ([(g.1, g.2.1), (g.2.2.1, g.2.2.2.1), (h.1, h.2.1), (h.2.2.1, h.2.2.2.1)], g.2.2.2.2)
  else
    let bs ← loadBytes t n a 32
    pure ((upto 4).map (fun i => (BitVec.ofNat 64 (bytesVal (slice bs (8 * i) 8)), bytesPoison (slice bs (8 * i) 8))), false)

/-- Both registers of c13 become NIL (R79). -/
def clearC13 (th : Thread) : Thread := th.writePair 26 .nil

/-- RET (R52, R79). -/
def execRet (t : Tid) (s : State) : Host.Outcome State Fault Refusal :=
  runInstr t {} (do
    let a ← rstackCheck t false
    let th ← getT t
    let n := th.rscap.toCap.space
    let _ ← withFaddr a (xlateAll t n .read (pieces 8 a 32))
    let r ← readRecord t n a
    match findIdx? (fun (w : Word × Bool) => w.2) r.1 0 with
    | some i => raise vecPoisonUse (2 * 2 ^ 20) (a + 8 * i)
    | none => pure ()
    if !r.2 then raise vecRstack 2 th.rsp.toNat
    let w (i : Nat) : Word := (r.1[i]?.getD (0, false)).1
    let kind := fld (w 3).toNat 63 56
    if !(1 ≤ kind && kind ≤ 3) then raise vecRstack 3 th.rsp.toNat
    modT t (fun h =>
      let h1 := { h with pcc := granulePair true (w 0, false, w 1, false, true), rsp := h.rsp + 32 }
      if kind = 3 then clearC13 h1 else h1)
    pure (some (w 2))) s

/-! ### CALLC and gates (R53, R78 to R80) -/

/-- The offset of CALLC in bytes, and whether its immediate is 0 (R53, R597). -/
def callOff : CallForm → Int
  | .short imm => 4 * imm.toInt
  | .ext imm => imm.toInt

/-- The entry of a gate (R79, R80): the block, its checks, the push, CODE as PCC and DATA in c13. -/
def enterGate (t : Tid) (g : Cap) (retPc : Word) : M Word := do
  let b := g.base
  let _ ← xlateAll t g.space .read (pieces 8 b 48)
  let c0 ← loadGranule t g.space b
  let c1 ← loadGranule t g.space (b + 16)
  let c2 ← loadGranule t g.space (b + 32)
  let bad := [c0.2.1, c0.2.2.2.1, c1.2.1, c1.2.2.2.1, c2.2.1, c2.2.2.2.1]
  match findIdx? id bad 0 with
  | some i => raise vecPoisonUse (2 * 2 ^ 20) (b + 8 * i)
  | none => pure ()
  let th ← getT t
  let code := granulePair true c0
  let data := granulePair true c1
  let ok (p : Pair) : Bool := (capRefused th.level.val th.tenancy.val p.toCap).isNone
  let off := c2.1.toNat
  let cc := code.toCap
  if code.isUnsealed && !cc.has permEX then capViol permEX 0xD b
  if !code.isUnsealed || !ok code || (data.isCap && !ok data) || off % 4 != 0 || decide (cc.length ≤ off) || c2.2.2.1 != 0 then
    capViol 0 0xD b
  pushRecord t 3 retPc
  modT t (fun h =>
    let h1 := { h with pcc := code }
    if data.isCap then h1.writePair 26 data else clearC13 h1)
  pure (BitVec.ofNat 64 (cc.base + off))

/-- CALLC (R53, R78 to R80). -/
def execCallc (t : Tid) (cs : PIdx) (m : CallForm) (s : State) : Host.Outcome State Fault Refusal :=
  runInstr t { len := lenOf m.isExt, ext := m.isExt } (do
    let th ← getT t
    let p := th.cap cs
    checkOps (csOps p .code)
    let c := p.toCap
    let off := callOff m
    let target := intBits 64 (c.base + off)
    let retPc := th.pc + BitVec.ofNat 64 (lenOf m.isExt)
    capUse t c target
    if p.a.tag == .sealed then
      if c.otype ≠ 0xF01 || off ≠ 0 then capViol 0 0xD c.base
      let a ← enterGate t c retPc
      pure (some a)
    else
      capPerms c permEX target
      if target % 4 ≠ 0 then raise vecAlign 0 target
      pushRecord t 2 retPc
      modT t (fun h => { h with pcc := p })
      pure (some (BitVec.ofNat 64 target))) s

/-! ### Fences (R50, R294) -/

/-- FENCE.ACQ (R294). -/
def execFenceAcq (t : Tid) (s : State) := simple t (modS (fun s => fenceAcq s t.core)) s
/-- FENCE.REL (R294). -/
def execFenceRel (t : Tid) (s : State) := simple t (modS (fun s => fenceRel s t.core)) s
/-- FENCE.AR: the two in one, the release before the acquire (R294). -/
def execFenceAr (t : Tid) (s : State) := simple t (modS (fun s => fenceAcq (fenceRel s t.core) t.core)) s
/-- FENCE.I invalidates the instruction cache of the core (R50). -/
def execFenceI (t : Tid) (s : State) := simple t (modC t.core (fun k => { k with icache := [] })) s

end Sys2Proof.Machine
end

