-- ==== Sys2Proof/Machine/Gather.lean ====
section
/-!
DEFINITION. Machine/Gather.lean: the pager's commands PG.SET and the gather commands, shadow frames and their fills, and the
serving of remote reads (R252, R254, R259 to R270).
-/

namespace Sys2Proof.Machine

/-! ### Nodes of the page tables (R244, R253) -/

/-- Size and alignment of a node of a level (R244). -/
def nodeSize (level : Nat) : Nat := 8 * nodeEntries level

/-- The lowest free place for a node of a size in a node frame. -/
def nodePlace (size : Nat) (used : List (Nat × Nat)) : Option Nat :=
  ((upto (65536 / size)).map (fun k => k * size)).find? (fun o => !used.any (fun u => decide (u.1 < o + size) && decide (o < u.1 + u.2)))

/-- A new node of a level, all INVALID: in a node frame of the space with room, or in a new one (R253). -/
def allocNode (s : State) (n : Fin 17) (level : Nat) : Option (Nat × State) :=
  let size := nodeSize level
  let p := s.sp n
  match p.nodeFrames.findSome? (fun e => (nodePlace size e.2).map (fun o => (e.1, o, e.2))) with
  | some (u, o, used) =>
    let pa := u * 65536 + o
    some (pa, zeroPhys (s.setSp n { p with nodeFrames := Tab.put p.nodeFrames u (used ++ [(o, size)]) }) pa size)
  | none =>
    if !quotaFits s n 1 then none
    else match takeFrames s n 0 1 1 4 with
      | none => none
      | some r =>
        let q := r.2.sp n
        let pa := r.1 * 65536
        some (pa, syncHeld (zeroPhys (r.2.setSp n { q with nodeFrames := Tab.put q.nodeFrames r.1 [(0, size)] }) pa size) n)

/-- A node is freed; a node frame without nodes returns to the pool (R253). -/
def freeNode (s : State) (n : Fin 17) (pa : Nat) : State :=
  let p := s.sp n
  let u := pa / 65536
  let left := (Tab.getD p.nodeFrames u []).filter (fun x => x.1 != pa % 65536)
  if left.isEmpty then
    syncHeld (s.setSp n { p with nodeFrames := Tab.del p.nodeFrames u, pool := runsAdd u 1 p.pool }) n
  else s.setSp n { p with nodeFrames := Tab.put p.nodeFrames u left }

/-- A leaf is taken out: the frames of a LOCAL page return to the pool (R256). -/
def freeLeaf (s : State) (n : Fin 17) (level e : Nat) : State :=
  if e % 8 = 2 then
    let l : Leaf := ⟨level, 0, 0, e⟩
    let s1 := freeFramesOf s n l.units.1 l.units.2
    if bit e 61 then { s1 with pairMap := Tab.del s1.pairMap l.units.1 } else s1
  else s

/-- What an entry of a level names is taken out, a subtree leaf by leaf and node by node (R265). -/
def freeEntry (n : Fin 17) : Nat → Nat → Nat → State → State
  | 0, _, _, s => s
  | f + 1, level, e, s =>
    if e % 8 = 1 && level < 3 then
      let node := fld e 47 8 * 256
      freeNode ((readNode s node (nodeEntries (level + 1))).foldl (fun st x => freeEntry n f (level + 1) x.2 st) s) n node
    else if 2 ≤ e % 8 && e % 8 ≤ 4 && level ≠ 0 then freeLeaf s n level e
    else s

/-- Sets the entry of an address at a leaf level, from a node of a level on. Nodes are made as needed, but none for an INVALID
entry; none is an exhausted pool or quota. -/
def setEntry (n : Fin 17) (target new va : Nat) : Nat → Nat → Nat → State → Option State
  | 0, _, _, s => some s
  | f + 1, level, node, s =>
    let epa := node + 8 * ptIndex level va
    let r := readWord s n.val epa
    let e := if r.2.2 then 7 else r.2.1
    if level = target then some (writeWord (freeEntry n 4 level e r.1) n.val epa new)
    else if e % 8 = 1 then setEntry n target new va f (level + 1) (fld e 47 8 * 256) r.1
    else
      let s1 := freeEntry n 4 level e r.1
      if new = 0 then some (writeWord s1 n.val epa 0)
      else match allocNode s1 n (level + 1) with
        | none => none
        | some a => setEntry n target new va f (level + 1) a.1 (writeWord a.2 n.val epa (a.1 + 1))

/-! ### PG.SET (R265) -/

/-- The argument word of PG.SET. -/
structure SetArg where
  op : Nat
  flags : Nat
  paired : Bool
  ql : Bool
  quarter : Nat
  size : Nat
  rsvd : Nat
  node : Nat
  frame : Nat
deriving DecidableEq, Repr

/-- The fields of the argument word (R265). -/
def setArgOf (w : Nat) : SetArg :=
  { op := fld w 63 61, flags := fld w 60 56, paired := bit w 55, ql := bit w 54, quarter := fld w 53 52, size := fld w 51 50,
    rsvd := fld w 49 48, node := fld w 47 32, frame := fld w 31 0 }

/-- Usable space in bytes (R240). -/
def usableSpace : Nat := 922500000000

/-- 64 KiB units of a region's frames (R241). -/
def regionUnits (ql region : Nat) : Nat :=
  if region = 0 then usableSpace * (16 - ql) / 16 / 2 ^ 30 * 16384
  else if region ≤ 4 then usableSpace * ql / 64 / 2 ^ 30 * 16384
  else 0

/-- The level of the pages of a SIZE. -/
def sizeLevel (size : Nat) : Nat := if size = 0 then 3 else if size = 1 then 2 else 1

/-- The bits of FLAGS in an entry (R247, R265): PR, PW, PX, NOSPEC, EXPORT. -/
def flagBits (f : Nat) : Nat :=
  b2n (bit f 4) * 2 ^ 50 + b2n (bit f 3) * 2 ^ 51 + b2n (bit f 2) * 2 ^ 52 + b2n (bit f 1) * 2 ^ 56 + b2n (bit f 0) * 2 ^ 55

/-- The frame of page k of the range. -/
def SetArg.frameOf (a : SetArg) (k : Nat) : Nat := a.frame + k * levelUnits (sizeLevel a.size)

/-- The entry that PG.SET writes for page k (R246 to R248, R265). -/
def SetArg.entry (a : SetArg) (keyEpoch k : Nat) : Nat :=
  match a.op with
  | 1 => 3 + flagBits a.flags + b2n a.paired * 2 ^ 61 + b2n a.ql * 2 ^ 59 + (if a.ql then a.quarter else 0) * 2 ^ 57
  | 2 => 4 + a.node * 2 ^ 48 + a.frameOf k * 2 ^ 16
  | 4 =>
    let r := a.frameOf k / 2 ^ 28
    2 + flagBits a.flags + a.frameOf k * 2 ^ 16 + keyEpoch % 4 * 2 ^ 62 + (if r = 0 then 0 else 2 ^ 59 + (r - 1) * 2 ^ 57)
  | _ => 0

/-- Whether the run of frames of OP 2 or OP 4 is accepted (R265). -/
def framesOk (s : State) (a : SetArg) (count : Nat) : Bool :=
  let u := levelUnits (sizeLevel a.size)
  let last := a.frame + count * u - 1
  (a.op != 2 && a.op != 4) ||
    (a.frame % u == 0 && decide (last < 2 ^ 32) && decide (last / 2 ^ 28 ≤ 4) && a.frame / 2 ^ 28 == last / 2 ^ 28 &&
      (a.op == 2 || decide (last % 2 ^ 28 < regionUnits s.qlShare (a.frame / 2 ^ 28))))

/-- Whether an address range meets the tensor table of a space whose tenancy is RUNNING (R218, R265). -/
def tensorTableMet (s : State) (n : Fin 17) (va len : Nat) : Bool :=
  let base := s.ten n.val 0xC020 0
  n.val != 16 && s.tstate n.val == tsRunning && decide (va < alignDown (base + 32767) 65536 + 65536) &&
    decide (alignDown base 65536 < va + len)

/-- The pages of a range set one by one. -/
def setPages (n : Fin 17) (a : SetArg) (va : Nat) : List Nat → State → Option State
  | [], s => some s
  | k :: ks, s =>
    let level := sizeLevel a.size
    match setEntry n level (a.entry (s.sp n).keyEpoch k) (va + k * 2 ^ levelShift level) 5 0 (ptRoot s n) s with
    | none => none
    | some s1 =>
      let s2 := if a.op = 4 then s1.setSp n { s1.sp n with pagesHeld := (s1.sp n).pagesHeld + levelUnits level } else s1
      setPages n a va ks s2

/-- ATTR on a leaf (R265). -/
def setAttr (s : State) (n : Fin 17) (f : Nat) (l : Leaf) : State :=
  if l.entry % 8 = 2 || l.entry % 8 = 3 then
    let keep := l.entry - fld l.entry 56 55 * 2 ^ 55 - fld l.entry 54 50 * 2 ^ 50
    writeWord s n.val l.epa (keep + flagBits f)
  else s

/-- PG.SET on a range of a space: the new state, or the status that refuses it (R265). -/
def pgSet (s : State) (n : Fin 17) (va len : Nat) (a : SetArg) (l2 : Bool) : Except Nat State :=
  let level := sizeLevel a.size
  let size := 2 ^ levelShift level
  let met := (leavesOf s n).filter (fun l => decide (l.va < va + len) && decide (va < l.va + 2 ^ levelShift l.level))
  let split := met.any (fun l => (a.op == 3 || decide (l.level < level)) && (decide (l.va < va) || decide (va + len < l.va + 2 ^ levelShift l.level)))
  if a.size = 3 || a.rsvd ≠ 0 || 4 < a.op || (a.op = 4 && !l2) || va % size ≠ 0 || len % size ≠ 0 || split ||
      !framesOk s a (len / size) then .error stRange
  else if tensorTableMet s n va len && !(a.op = 3 && bit a.flags 4 && bit a.flags 3) then .error stStateConflict
  else if a.op = 3 then .ok (met.foldl (fun st l => setAttr st n a.flags l) s)
  else if ptRoot s n = 0 then .error stStateConflict
  else match setPages n a va (upto (len / size)) s with
    | none => .error stExhausted
    | some s1 => .ok (syncHeld s1 n)

/-! ### Gather commands (R264, R266) -/

/-- The outcome of a gather command: status, REASON, ENTRY and PAGE. -/
def geResult (status reason entry page : Nat) : CmdResult := ⟨status, reason, entry, 0, page⟩
/-- An outcome that concerns no entry. -/
def geStatus (status : Nat) : CmdResult := geResult status 0 0xFFFF 0

/-- What the issue of a gather command asks (R264). -/
def geOp (op perms : Nat) : EngineOp := { engine := 2, op := op, perms := permENG + permDMA + perms, block := false }

/-- The entry of a schedule that 64 bytes hold (R267). -/
def gentryOf (bs : List PByte) : GEntry :=
  let v := bytesVal bs
  { va := fld v 63 0, pages := fld v 95 64, rows := fld v 127 96, flags := fld v 135 128,
    start := BitVec.ofNat 64 (v / 2 ^ 256), release := BitVec.ofNat 64 (v / 2 ^ 320), state := 0, level := 0,
    ok := fld v 255 136 == 0 && fld v 511 384 == 0 && !bytesPoison bs }

/-- What reading a schedule gives. -/
inductive SchedRead where
  | entries (es : List GEntry)
  | wait
  | bad (entry reason : Nat)
deriving DecidableEq, Repr

/-- A schedule read at its slices, entry by entry. -/
def readSched (n : Fin 17) (i : Nat) (ep : Option Nat) (base : Nat) : List Nat → State → State × SchedRead
  | [], s => (s, .entries [])
  | k :: ks, s =>
    let va := base + 64 * k
    let a := engTranslate s n va .read i false
    match a.2 with
    | .error none => (a.1, .wait)
    | .error (some r) => (a.1, .bad k r)
    | .ok pa =>
      let b := readRun a.1 ep pa 64 (windowAt a.1 n.val va)
      let r := readSched n i ep base ks b.1
      (r.1, match r.2 with
        | .entries es => .entries (gentryOf b.2 :: es)
        | x => x)

/-- The acceptance of GE.SCHED: its list is read. -/
def acceptSched (i : Nat) (s : State) : State :=
  match Tab.get? s.cmds i with
  | none => s
  | some c =>
    let k := c.cs.toCap
    let count := c.arg.toNat
    if count = 0 || 4096 < count || k.base % 64 ≠ 0 then finishWith s i (geStatus stRange)
    else
      let r := readSched k.space i (c.ep s) k.base (upto count) s
      match r.2 with
      | .entries es => r.1.putCmd i { c with entries := es, phase := .started }
      | .wait => r.1
      | .bad e reason => finishWith r.1 i (geResult stAborted reason e 0)

/-- The acceptance of GE.FETCH: one entry over the range of cs. -/
def acceptFetch (i : Nat) (s : State) : State :=
  match Tab.get? s.cmds i with
  | none => s
  | some c =>
    let k := c.cs.toCap
    let x := c.arg.toNat
    let w := walk s k.space k.base
    let size := match w.2 with
      | .leaf level _ _ => 2 ^ levelShift level
      | _ => 65536
    if fld x 31 8 ≠ 0 || k.length = 0 || k.length % size ≠ 0 then finishWith w.1 i (geStatus stRange)
    else w.1.putCmd i { c with phase := .started, entries :=
      [{ va := k.base, pages := k.length / size, rows := fld x 63 32, flags := x % 256, start := 0, release := 0, state := 0,
         level := 0, ok := true }] }

/-- GE.RELEASE: the holds of entries with RELEASE zero on the shadow frames of a range end (R264). -/
def acceptRelease (i : Nat) (s : State) : State :=
  match Tab.get? s.cmds i with
  | none => s
  | some c =>
    let k := c.cs.toCap
    let size (x : Shadow) := levelUnits x.level * 65536
    let met (x : Shadow) := x.space == k.space.val && decide (x.page * 65536 < k.top) && decide (k.base < x.page * 65536 + size x)
    let split := s.shadows.any (fun x => met x && (decide (x.page * 65536 < k.base) || decide (k.top < x.page * 65536 + size x)))
    if c.arg ≠ 0 || k.base % 65536 ≠ 0 || k.length % 65536 ≠ 0 || split then finishWith s i (geStatus stRange)
    else
      let free (h : ShadowHolder) : Bool := match h with
        | .entry _ _ none => true
        | _ => false
      let s1 := dropShadows { s with shadows := s.shadows.map (fun x =>
        if met x then { x with holders := x.holders.filter (fun h => !free h) } else x) }
      finishWith s1 i (geStatus stOk)

/-- GE.SCHED (R264). -/
def execGeSched (t : Tid) (rd : RIdx) (cs : PIdx) (a : CForm) (s : State) :=
  engineInstr t { geOp 0 permLD with cls := .count, span := fun x => 64 * x } rd cs a acceptSched s
/-- GE.FETCH (R264). -/
def execGeFetch (t : Tid) (rd : RIdx) (cs : PIdx) (a : CForm) (s : State) :=
  engineInstr t (geOp 1 (permLD + permREMOTE)) rd cs a acceptFetch s
/-- GE.RELEASE (R264). -/
def execGeRelease (t : Tid) (rd : RIdx) (cs : PIdx) (a : CForm) (s : State) :=
  engineInstr t (geOp 2 permLD) rd cs a acceptRelease s
/-- PG.SET (R264, R265): it is checked and applied when it completes. -/
def execPgSet (t : Tid) (rd : RIdx) (cs : PIdx) (a : CForm) (s : State) :=
  engineInstr t { geOp 16 permST with more := fun x => if fld x 63 61 = 2 then permREMOTE else 0 } rd cs a
    (fun i s1 => match Tab.get? s1.cmds i with
      | some c => s1.putCmd i { c with phase := .started }
      | none => s1) s

/-- PG_SET_COMPLETE (R252, R265): a refused PG.SET completes without effect; another one takes effect once no engine command
holds a translation of its range. -/
def execPgSetComplete (cmd : Nat) (s : State) : Host.Outcome State Fault Refusal :=
  match Tab.get? s.cmds cmd with
  | none => .next s
  | some c =>
    if c.engine ≠ 2 || c.op ≠ 16 then .next s
    else
      let k := c.cs.toCap
      match pgSet s k.space k.base k.length (setArgOf c.arg.toNat) (c.level == 2) with
      | .error st => .next (finishWith s cmd (geStatus st))
      | .ok s1 => if rangeHeld s k.space.val k.base k.length then .next s else .next (finishWith s1 cmd (geStatus stOk))

/-! ### Schedule entries (R267 to R269) -/

/-- What a task handle value in an entry names. -/
inductive TaskRef where
  | none | never | ended
  | live (slot : Nat) (issued : Bool)
deriving DecidableEq, Repr

/-- The task an entry's START or RELEASE names (R268). -/
def taskRef (s : State) (tenancy : Nat) (dev : Bool) (w : Word) : TaskRef :=
  if w = 0 then .none
  else
    let h := handleOf w
    if h.kind ≠ 1 || h.odd || h.tenancy ≠ tenancy || h.dev ≠ dev then .never
    else match liveTask s h with
      | some k => .live h.index k.issued
      | none => if h.gen = 0 || Tab.getD s.taskGen h.index 0 < h.gen then .never else .ended

/-- The REMOTE pages of an entry in order: address, the place of the entry, and the entry; or the failing page with its
status and REASON. -/
def remotePages (n : Fin 17) (level va : Nat) : List Nat → State → State × Except (Nat × Nat × Nat) (List (Nat × Nat × Nat))
  | [], s => (s, .ok [])
  | k :: ks, s =>
    let a := va + k * 2 ^ levelShift level
    let w := walk s n a
    match w.2 with
    | .leaf l epa e =>
      if e % 8 ≠ 4 || l ≠ level then (w.1, .error (k, stRange, 0))
      else
        let r := remotePages n level va ks w.1
        (r.1, match r.2 with
          | .ok ps => .ok ((a, epa, e) :: ps)
          | x => x)
    | .bad reason _ => (w.1, if reason = 0 then .error (k, stRange, 0) else .error (k, stAborted, reason))
    | .noRegion _ => (w.1, .error (k, stAborted, 7))

/-- Binds or shares the shadow frames of an entry's pages: an error names the page and the REASON. -/
def bindPages (n : Fin 17) (level region : Nat) (hs : List ShadowHolder) (layout : Option (Nat × Nat × Nat × Nat)) :
    List (Nat × Nat × Nat) → Nat → State → Except (Nat × Nat) State
  | [], _, s => .ok s
  | p :: ps, k, s =>
    let s1 := setAccDirty s n p.2.1 p.2.2 false
    match shadowOf s1 n (p.1 / 65536) p.2.2 with
    | some x => bindPages n level region hs layout ps (k + 1) (addHolders s1 x hs)
    | none => match bindShadow s1 n level p.2.2 p.1 region hs layout with
      | .error r => .error (k, r)
      | .ok s2 => bindPages n level region hs layout ps (k + 1) s2

/-- The layout of an entry's shadow frames, none for the rows as they come. -/
def GEntry.layout (e : GEntry) : Option (Nat × Nat × Nat × Nat) :=
  if bit e.flags 0 then some (e.va / 65536, e.pages, e.rows, 2 ^ fld e.flags 2 1) else none

/-- Starts an entry of a schedule (R268, R269). -/
def startEntry (s : State) (i : Nat) (c : Cmd) (k : Nat) (e : GEntry) : State :=
  let n := c.cs.toCap.space
  let ten := if n.val = 16 then 0 else n.val
  let fail (st : State) (status reason page : Nat) := finishWith st i (geResult status reason k page)
  let w := walk s n e.va
  match w.2 with
  | .bad reason _ => if reason = 0 then fail w.1 stRange 0 0 else fail w.1 stAborted reason 0
  | .noRegion _ => fail w.1 stAborted 7 0
  | .leaf level _ _ =>
    let size := 2 ^ levelShift level
    let start := taskRef w.1 ten (n.val == 16) e.start
    let release := taskRef w.1 ten (n.val == 16) e.release
    let elems := e.pages * size / 2 ^ fld e.flags 2 1
    if !e.ok || fld e.flags 7 6 ≠ 0 || fld e.flags 2 1 = 3 || e.pages = 0 || e.va % size ≠ 0 || 2 ^ 52 < e.va + e.pages * size ||
        start = .never || release = .never || (bit e.flags 0 && (e.rows = 0 || elems % e.rows ≠ 0)) then fail w.1 stRange 0 0
    else
      let waits : Bool := match start with
        | .live _ issued => !issued
        | _ => false
      if waits then s
      else
        let r := remotePages n level e.va (upto e.pages) w.1
        match r.2 with
        | .error (page, st, reason) => fail r.1 st reason page
        | .ok ps =>
          let bound (p : Nat × Nat × Nat) := shadowOf r.1 n (p.1 / 65536) p.2.2
          match findIdx? (fun p => match bound p with
              | some x => x.layout != e.layout
              | none => false) ps 0 with
          | some page => fail r.1 stStateConflict 0 page
          | none =>
            let new := (ps.filter (fun p => (bound p).isNone)).length
            if !shadowFits r.1 n new (new * levelUnits level) then s
            else
              let hs : List ShadowHolder := match release with
                | .live slot _ => [.entry c.seq k (some slot)]
                | .ended => []
                | _ => [.entry c.seq k none]
              match bindPages n level (if bit e.flags 3 then 1 + fld e.flags 5 4 else 0) hs e.layout ps 0 r.1 with
              | .error (page, reason) => fail r.1 stAborted reason page
              | .ok s1 => s1.putCmd i { c with entries := c.entries.set k { e with state := 1, level := level } }

/-- GATHER_ENTRY_START (R268): the first entry that has not started, when it may. -/
def execGatherEntryStart (cmd : Nat) (s : State) : Host.Outcome State Fault Refusal :=
  match Tab.get? s.cmds cmd with
  | none => .next s
  | some c =>
    if c.engine ≠ 2 || c.phase != .started then .next s
    else match findIdx? (fun (e : GEntry) => e.state == 0) c.entries 0 with
      | none => .next s
      | some k => match c.entries[k]? with
        | some e => .next (startEntry s cmd c k e)
        | none => .next s

/-- Whether a page of a started entry has not arrived yet. -/
def entryOpen (s : State) (n : Fin 17) (e : GEntry) : Bool :=
  s.shadows.any (fun x => x.space == n.val && !x.filled && decide (e.va ≤ x.page * 65536) &&
    decide (x.page * 65536 < e.va + e.pages * 2 ^ levelShift e.level))

/-- GATHER_ENTRY_FILLED (R268): every page of an entry has arrived; with the last one the command completes. -/
def execGatherEntryFilled (cmd entry : Nat) (s : State) : Host.Outcome State Fault Refusal :=
  match Tab.get? s.cmds cmd with
  | none => .next s
  | some c =>
    match c.entries[entry]? with
    | none => .next s
    | some e =>
      if c.engine ≠ 2 || e.state ≠ 1 || entryOpen s c.cs.toCap.space e then .next s
      else
        let es := c.entries.set entry { e with state := 2 }
        let s1 := s.putCmd cmd { c with entries := es }
        if es.all (fun x => x.state == 2) then .next (dropShadows (finishWith s1 cmd (geStatus stOk))) else .next s1

/-! ### Shadow frames and their fills (R259 to R261, R269) -/

/-- The place in a shadow frame of byte b of a page that a layout transposes: the page (of the entry) and the offset. -/
def transposedPlace (layout : Nat × Nat × Nat × Nat) (size page b : Nat) : Nat × Nat :=
  let (first, pages, rows, esz) := layout
  let cols := pages * size / (rows * esz)
  let at_ := (page - first) * 65536 + b
  let g := at_ / esz
  let d := (g % cols * rows + g / cols) * esz + at_ % esz
  (first + d / size * (size / 65536), d % size)

/-- Bytes written over a physical range, line by line, with poison marks. -/
def writePhys (ac : Acc) : Nat → Nat → List PByte → State → State
  | 0, _, _, s => s
  | f + 1, pa, bs, s =>
    match bs with
    | [] => s
    | _ =>
      let k := 128 - pa % 128
      writePhys ac f (pa + k) (bs.drop k) (writeRun s pa (bs.take k) ac)

/-- Bytes of a remote page arrive for its shadow frame. -/
def landBytes (s : State) (x : Shadow) (off : Nat) (bs : List PByte) : State :=
  let size := levelUnits x.level * 65536
  let ac : Acc := windowAt s x.space (x.page * 65536 + off)
  let s1 := match x.layout with
    | none => writePhys ac (bs.length + 1) (x.frame * 65536 + off) bs s
    | some l => (bs.zip (upto bs.length)).foldl (fun (st : State) (b : PByte × Nat) =>
        let d := transposedPlace l size x.page (off + b.2)
        match st.shadows.find? (fun (y : Shadow) => y.space == x.space && y.page == d.1 && y.layout == x.layout) with
        | some y => writeRun st (y.frame * 65536 + d.2) [b.1] ac
        | none => st) s
  { s1 with shadows := s1.shadows.map (fun y => if y == x then { y with got := runsAdd off bs.length y.got } else y) }

/-- A command that cannot be completed ends: a Bellows command's record follows with its completion, another one's at once. -/
def abortCmd (s : State) (i : Nat) (c : Cmd) (r : CmdResult) : State := if c.engine = 0 then endCmd s i r else finishWith s i r

/-- The slot of a command whose range meets a page, 0xFF for none. -/
def slotOfPage (c : Cmd) (space va len : Nat) : Nat :=
  ((upto 8).find? (fun k =>
    let p := c.slotCap k
    p.isUnsealed && p.toCap.space.val == space && decide (p.toCap.base < va + len) && decide (va < p.toCap.top))).getD 0xFF

/-- Whether a command whose translations are not complete waits for a page. -/
def waitsForPage (c : Cmd) (space va len : Nat) : Bool :=
  let k := c.cs.toCap
  c.phase == .accepting && (slotOfPage c space va len != 0xFF ||
    (k.space.val == space && decide (k.base < va + len) && decide (va < k.top)))

/-- A fetch fails with a REASON: the accesses that wait for the page fault, and the commands that need it complete (R251,
R259, R263). -/
def fetchFailed (s : State) (x : Shadow) (reason : Nat) : State :=
  let n := spaceOf x.space
  let va := x.page * 65536
  let size := levelUnits x.level * 65536
  let s1 := syncHeld (freeFramesOf { s with shadows := s.shadows.erase x } n x.frame (levelUnits x.level)) n
  let s2 := allTids.foldl (fun (st : State) t =>
    let th := st.th t
    match th.status with
    | .waiting (.remote sp p a) =>
      if sp = x.space && p = x.page then
        takeTrap t ⟨vecPageFault, pfDetail reason x.level .read, a, th.stopPfx, th.stopExt, false, false⟩ st
      else st
    | _ => st) s1
  s2.cmds.foldl (fun (st : State) e =>
    let c := e.2
    if c.engine = 2 then
      match findIdx? (fun (g : GEntry) => g.state == 1 && c.cs.toCap.space.val == x.space && decide (g.va ≤ va) &&
          decide (va < g.va + g.pages * 2 ^ levelShift g.level)) c.entries 0 with
      | some k =>
        let page := (va - ((c.entries[k]?).map (fun g => g.va)).getD 0) / size
        finishWith st e.1 (if reason = 9 then geResult stNoCapability 0 k page else geResult stAborted reason k page)
      | none => if waitsForPage c x.space va size then finishWith st e.1 (geResult stAborted reason 0xFFFF 0) else st
    else if waitsForPage c x.space va size then abortCmd st e.1 c ⟨stAborted, reason, slotOfPage c x.space va size, 0, 0⟩
    else st) s2

/-- Poisoned data for a page of a schedule entry halts its command (R448, R449): pages already filled stay bound. -/
def haltGathers (s : State) (x : Shadow) : State :=
  s.cmds.foldl (fun (st : State) e =>
    let c := e.2
    match findIdx? (fun (g : GEntry) => g.state == 1 && c.cs.toCap.space.val == x.space && decide (g.va ≤ x.page * 65536) &&
        decide (x.page * 65536 < g.va + g.pages * 2 ^ levelShift g.level)) c.entries 0 with
    | some k =>
      if c.engine ≠ 2 then st
      else
        let page := (x.page * 65536 - ((c.entries[k]?).map (fun g => g.va)).getD 0) / (levelUnits x.level * 65536)
        finishWith (st.postError c.space 1 2 (sliceOf (x.frame * 65536)) 0x72 e.1 (x.page * 65536)) e.1 (geResult stAborted 0 k page)
    | none => st) s

/-- A remote read response (R260, R263): bytes for the shadow frames that wait for them, or the refusal of their fetch. -/
def readResponse (s : State) (node job frame off len : Nat) (served : Bool) (data poison : Nat) : State :=
  (s.shadows.filter (fun x => x.node == node && x.rframe == frame && jobOf s x.space == job && !x.filled)).foldl
    (fun (st : State) x =>
      if !served then fetchFailed st x 9
      else if off + len ≤ levelUnits x.level * 65536 then
        let s1 := landBytes st x off (bytesWith len data poison)
        if poison = 0 then s1 else haltGathers s1 x
      else st) s

/-- READ_RSP (R260, R263). -/
def execReadRsp (node job frame off len : Nat) (served : Bool) (data poison : Nat) (s : State) :
    Host.Outcome State Fault Refusal :=
  .next (readResponse s node job frame off len served data poison)

/-- Whether the whole frame of a shadow has arrived. -/
def Shadow.whole (x : Shadow) : Bool := x.got == [(0, levelUnits x.level * 65536)]

/-- The shadow frames that become readable together (R269): those of a transposed entry, or the page alone. -/
def fillGroup (s : State) (x : Shadow) : List Shadow :=
  match x.layout with
  | none => [x]
  | some (first, pages, _, _) => s.shadows.filter (fun y => y.space == x.space && y.layout == x.layout &&
      decide (first ≤ y.page) && decide (y.page < first + pages * levelUnits x.level))

/-- A shadow frame whose last byte has arrived becomes readable, and what waits for it goes on (R260, R269). -/
def fillShadow (s : State) (x : Shadow) : State :=
  let g := fillGroup s x
  let whole := match x.layout with
    | none => x.whole
    | some (_, pages, _, _) => g.length == pages && g.all Shadow.whole
  if !whole || x.filled then s
  else
    let s1 := { s with shadows := s.shadows.map (fun y =>
      if g.contains y then { y with filled := true, keyEpoch := (s.sp (spaceOf y.space)).keyEpoch % 4 } else y) }
    g.foldl (fun (st : State) y => wakeRemote st y.space y.page) s1

/-- REMOTE_FETCH_TIMEOUT (R259). -/
def execRemoteFetchTimeout (space : Fin 17) (page : Nat) (s : State) : Host.Outcome State Fault Refusal :=
  match s.shadows.find? (fun x => x.space == space.val && x.page == page && !x.filled) with
  | some x => .next (fetchFailed s x 0xA)
  | none => .next s

/-- TOUCH_FILL_COMPLETE (R254). -/
def execTouchFillComplete (space : Fin 17) (page : Nat) (s : State) : Host.Outcome State Fault Refusal :=
  match s.fills.find? (fun f => f.space == space.val && f.page == page) with
  | some f => .next (fillDone s f)
  | none => .next s

/-! ### Serving remote reads (R263) -/

/-- The tenancy that runs a job and serves its pages. -/
def servingTenancy (s : State) (job : Nat) : Option Nat :=
  (upto 16).find? (fun n => job != 0xFFFF && s.ten n 0xC080 3 == job && (s.tstate n == tsRunning || s.tstate n == tsDraining))

/-- The bytes that a remote read gets, none for a refusal. -/
def servedBytes (s : State) (job frame off len : Nat) : Option (State × List PByte) :=
  match servingTenancy s job with
  | none => none
  | some n => match leafOfFrame s (spaceOf n) (frame * 65536) with
    | none => none
    | some l =>
      let size := 2 ^ levelShift l.level
      if !bit l.entry 55 || !bit l.entry 50 || size < off + len then none
      else
        let p : Piece := ⟨l.va, size, localPa l.level l.entry 0 false, localPa l.level l.entry 0 false, false⟩
        some (readRuns none ⟨n, 1, 16⟩ (runsOf false (len + 3) [p] off len) s)

/-- A remote read request is served or refused. -/
def readRequest (s : State) (src job frame off len : Nat) : State :=
  let r := servedBytes s job frame off len
  let s1 := match r with
    | some x => x.1
    | none => s
  let bs := match r with
    | some x => x.2
    | none => []
  (Config.readRspCode frame off len r.isSome (bytesVal bs) (wordMarks 0 bs)).foldl
    (fun (st : State) p => st.send src 2 0 job p.2.1 p.1 p.2.2) s1

/-- READ_REQ (R263): the request names a frame, and an offset and a length in its page. -/
def execReadReq (src job frame off len : Nat) (s : State) : Host.Outcome State Fault Refusal :=
  .next (readRequest s src job frame off len)

end Sys2Proof.Machine
end

