-- ==== Sys2Proof/Machine/Cache.lean ====
section
/-!
DEFINITION. Machine/Cache.lean: fills and write-backs of the Reservoir slices, reduction requests, the cache controls and the
address windows (R276 to R309).
-/

namespace Sys2Proof.Machine

/-! ### Fills and write-backs (R280 to R285) -/

/-- A line is installed with the sectors that have arrived, merged under its dirty bytes (R278, R281, R283). -/
def installLine (s : State) (ln : Nat) (m : Miss) : State :=
  let ac : Acc := ⟨m.space, m.cls, m.window⟩
  if sliceOff s (sliceOf (128 * ln)) then s
  else
    let f := archFull s ln
    let upd (l : CLine) : CLine := { l with data := f.data, tags := f.tags, poison := f.poison, valid := Nat.lor l.valid m.done }
    match Tab.get? s.slc ln with
    | some l => { s with slc := Tab.put s.slc ln (upd l) }
    | none =>
      let r := makeRoom s ln
      if r.2 then
        let c := classFor r.1 ln ac
        let s1 := { r.1 with slc := Tab.put r.1.slc ln (upd (CLine.fresh ac c.1)) }
        if c.2 then s1.count ac.space 0x27 1 else s1
      else r.1

/-- SECTOR_FILL (R281): a sector arrives; with the last one the miss-table entry is freed and the line installed. -/
def execSectorFill (line : Nat) (sector : Fin 4) (s : State) : Host.Outcome State Fault Refusal :=
  match Tab.get? s.misses line with
  | none => .next s
  | some m =>
    if !bit m.sectors sector.val then .next s
    else
      let m1 := { m with sectors := m.sectors - 2 ^ sector.val, done := Nat.lor m.done (2 ^ sector.val) }
      if m1.sectors ≠ 0 then .next { s with misses := Tab.put s.misses line m1 }
      else .next (installLine { s with misses := Tab.del s.misses line } line m1)

/-- VICTIM_WRITEBACK (R284): the oldest dirty line of a slice's victim buffer is written to HBM. -/
def execVictimWriteback (slice : Fin 192) (s : State) : Host.Outcome State Fault Refusal := .next (writeVictim s slice.val)

/-! ### Reduction requests (R286 to R288) -/

/-- The elements of a line that a reduction request combines: values with the poison of the result. -/
def reduceLine (f : Full) (op : Nat) (fp : Bool) (mask vals : Nat) : List PByte :=
  ((upto 32).map (fun i =>
    let old := f.data / 2 ^ (32 * i) % 2 ^ 32
    let bad := bit f.poison (i / 2)
    if bit mask i then mkBytes 4 (if bad then 0 else reduceElem op (if fp then 0 else 0xC) old (vals / 2 ^ (32 * i) % 2 ^ 32)) bad
    else mkBytes 4 old bad)).flatten

/-- REDUCTION_REQUEST (R286): the masked elements of a line, in the order of acceptance. A slice receives floating requests
only from jobs in the throughput profile. -/
def execReductionRequest (space : Fin 17) (line : Nat) (op : Fin 3) (fp : Bool) (mask : BitVec 32) (vals : BitVec 1024)
    (s : State) : Host.Outcome State Fault Refusal :=
  if fp && (space.val == 16 || s.ten space.val 0xC020 5 == 0) then .next s
  else
    let ac : Acc := ⟨space.val, 1, 16⟩
    let bytes := bitsOf 128 (fun b => bit mask.toNat (b / 4))
    let s1 := sliceRead s line (maskSectors bytes) ac
    let bs := reduceLine (archFull s1 line) op.val fp mask.toNat vals.toNat
    .next (sliceWrite s1 line bytes (bytesVal bs) 0 (wordMarks 0 bs) ac)

/-! ### Invalidation by space (R279) -/

/-- Every line of a space leaves the slices: dirty bytes are written to HBM, overlay lines are discarded. -/
def invalidateSpace (s : State) (n : Fin 17) : State :=
  let mine := s.slc.filter (fun e => e.2.space == n.val)
  let vics := s.victims.filter (fun v => v.2.space == n.val)
  let s1 := (vics ++ mine).foldl (fun (st : State) e => hbmStore st e.2.space e.1 e.2.dirty e.2.data e.2.tags e.2.poison) s
  { s1 with slc := Tab.keep s1.slc (fun _ l => l.space != n.val), victims := s1.victims.filter (fun v => v.2.space != n.val),
            misses := Tab.keep s1.misses (fun _ m => m.space != n.val),
            overlay := Tab.keep s1.overlay (fun k _ => n.val == 16 || k / 2 ^ 41 / 64 != n.val) }

/-! ### The cache controls (R306 to R309) -/

/-- The caches a command word names: a slice or a core, or all of them. -/
def cacheTargets (l1 all : Bool) (number : Nat) : List Nat :=
  if all then upto (if l1 then 48 else 192) else [number]

/-- Whether a tenancy is RUNNING. -/
def anyRunning (s : State) : Bool := (upto 16).any (fun n => s.tstate n == tsRunning)

/-- The bit of a cache in its disabled mask (R309). -/
def setCacheOff (s : State) (l1 : Bool) (n : Nat) (off : Bool) : State :=
  let sub := if l1 then 4 else 1 + n / 64
  s.setDev 0xF030 sub (setFld (s.dev 0xF030 sub) (n % 64) (n % 64) (b2n off))

/-- DISABLE of one cache (R307): dirty bytes go down a level, lines stay as clean. -/
def disableCache (l1 : Bool) (s : State) (n : Nat) : State :=
  if l1 then
    if l1Off s (coreOf n) then s else setCacheOff (fenceRel s (coreOf n)) true n true
  else if sliceOff s n then s
  else
    let vics := s.victims.filter (fun v => sliceOf (128 * v.1) == n)
    let mine := s.slc.filter (fun e => sliceOf (128 * e.1) == n)
    let s1 := (vics ++ mine).foldl (fun (st : State) e => hbmStore st e.2.space e.1 e.2.dirty e.2.data e.2.tags e.2.poison) s
    setCacheOff { s1 with victims := s1.victims.filter (fun v => sliceOf (128 * v.1) != n),
                          slc := Tab.mapV s1.slc (fun ln l => if sliceOf (128 * ln) = n then { l with dirty := 0 } else l) } false n true

/-- ENABLE of one cache, or ENABLE_INV (R308). -/
def enableCache (l1 inv : Bool) (s : State) (n : Nat) : State :=
  if l1 then
    if !l1Off s (coreOf n) then s
    else setCacheOff (if inv then setL1 s (coreOf n) [] else s) true n false
  else if !sliceOff s n then s
  else setCacheOff (if inv then { s with slc := Tab.keep s.slc (fun ln _ => sliceOf (128 * ln) != n) } else s) false n false

/-- A write of CACHE_CTL (R306): op 1 DISABLE, 2 ENABLE, 3 ENABLE_INV. -/
def cacheCtl (s : State) (op : Nat) (l1 all : Bool) (number rsvd : Nat) : Except Nat State :=
  if op = 0 || rsvd ≠ 0 || (!all && decide ((if l1 then 48 else 192) ≤ number)) then .error stRange
  else if anyRunning s then .error stStateConflict
  else .ok ((cacheTargets l1 all number).foldl (fun st n => if op = 1 then disableCache l1 st n else enableCache l1 (op == 3) st n) s)

/-- A write that is rejected has no effect. -/
def orSame (s : State) (r : Except Nat State) : Host.Outcome State Fault Refusal :=
  match r with
  | .ok s1 => .next s1
  | .error _ => .next s

/-- DISABLE (R307). -/
def execDisable (l1 all : Bool) (number : BitVec 8) (s : State) : Host.Outcome State Fault Refusal :=
  orSame s (cacheCtl s 1 l1 all number.toNat 0)
/-- ENABLE (R308). -/
def execEnable (l1 all : Bool) (number : BitVec 8) (s : State) : Host.Outcome State Fault Refusal :=
  orSame s (cacheCtl s 2 l1 all number.toNat 0)
/-- ENABLE_INV (R308). -/
def execEnableInv (l1 all : Bool) (number : BitVec 8) (s : State) : Host.Outcome State Fault Refusal :=
  orSame s (cacheCtl s 3 l1 all number.toNat 0)

/-! ### Address windows (R300, R301, R305) -/

/-- Whether a window record is accepted (R301). -/
def windowOk (s : State) (n i r : Nat) : Bool :=
  let base := fld r 63 0
  let len := fld r 127 64
  let cls := fld r 129 128
  let ways := fld r 139 136
  let pins := ((upto 16).filter (fun k => k != i)).foldl (fun (a : Nat) k =>
    let w := s.ten n 0xC040 k
    if fld w 127 64 ≠ 0 && fld w 129 128 = 3 then a + fld w 139 136 else a) 0
  base % 65536 == 0 && len % 65536 == 0 && decide (base + len ≤ 2 ^ 52) && fld r 135 130 == 0 && fld r 143 140 == 0 &&
    decide (ways ≤ 12) && decide (fld r 146 144 ≤ 6) && fld r 151 147 == 0 && fld r 159 153 == 0 && fld r 255 160 == 0 &&
    (if cls < 2 then ways == 0 else ways != 0) && decide (pins + (if len ≠ 0 && cls = 3 then ways else 0) ≤ 12)

/-- A write of a window record: the pins of the window are demoted (R305). -/
def windowWrite (s : State) (n i r : Nat) : Except Nat State :=
  if !windowOk s n i r then .error stRange
  else .ok ({ s with slc := Tab.mapV s.slc (fun _ l =>
    if l.cls = 3 && l.space = n && l.window = i then { l with cls := 2 } else l) }.setTen n 0xC040 i r)

/-- WINDOW_WRITE (R305). -/
def execWindowWrite (ten idx : Fin 16) (record : BitVec 256) (s : State) : Host.Outcome State Fault Refusal :=
  orSame s (windowWrite s ten.val idx.val record.toNat)

end Sys2Proof.Machine
end

