-- ==== Sys2Proof/Machine/CapOps.lean ====
section
/-!
DEFINITION. Machine/CapOps.lean: the instructions that read, narrow, seal and move capabilities: majors 0x38 to 0x3B
(R73, R75 to R78).
-/

namespace Sys2Proof.Machine

/-- The checks of capability operands: tags, then R73 for each (R68, R73). -/
def capSources (t : Tid) (ops : List Opnd) (caps : List Pair) : M Unit := do
  checkOps ops
  caps.forM (fun p => capUse t p.toCap 0)

/-- A field of the capability in pair rs1, as an INT (R75). -/
def cgetOp (t : Tid) (rd rs1 : RIdx) (f : Cap → Nat) : M Unit := do
  needEven [rs1]
  let th ← getT t
  let p := th.pair rs1
  capSources t (pairOps 1 p .capOrSealed) [p]
  wr t rd (.int (BitVec.ofNat 64 (f p.toCap)))

/-- CGET.BASE (R75). -/
def execCgetBase (t : Tid) (rd rs1 : RIdx) (s : State) := simple t (cgetOp t rd rs1 (fun c => c.base)) s
/-- CGET.LEN (R75). -/
def execCgetLen (t : Tid) (rd rs1 : RIdx) (s : State) := simple t (cgetOp t rd rs1 Cap.length) s
/-- CGET.PERM (R75). -/
def execCgetPerm (t : Tid) (rd rs1 : RIdx) (s : State) := simple t (cgetOp t rd rs1 (fun c => c.perms)) s
/-- CGET.TEN: DEV in bit 4 and TENANCY in [3:0] (R75). -/
def execCgetTen (t : Tid) (rd rs1 : RIdx) (s : State) := simple t (cgetOp t rd rs1 (fun c => b2n c.dev * 16 + c.tenancy)) s
/-- CGET.TYPE (R75). -/
def execCgetType (t : Tid) (rd rs1 : RIdx) (s : State) := simple t (cgetOp t rd rs1 (fun c => c.otype)) s

/-- The length quantum of R71 for a length (R75). -/
def lenQuantum (n : Nat) : Nat :=
  if n < 2 ^ 32 then 1 else if n ≤ 2 ^ 52 then 2 ^ (log2 n + 1 - 32) else 0

/-- CGET.QUANT: rs1 of the integer class (R75, R76). -/
def execCgetQuant (t : Tid) (rd rs1 : RIdx) (s : State) :=
  simple t (unary t rd rs1 .int (fun a => .int (BitVec.ofNat 64 (lenQuantum a.val.toNat)))) s

/-- The capability with another range: sub-code 0x07 when the length is not representable (R71, R77), or when the range has
no encoding because its base would be 2^52. -/
def rebased (c : Cap) (base len : Nat) : Except Nat Cap :=
  match encLen len with
  | none => .error 7
  | some e => if 2 ^ 52 ≤ base then .error 7 else .ok { c with base := base, lenE := e.1, lenM := e.2 }

/-- A derivation from an unsealed pair and an index (R75 to R77); f answers the sub-code of a refusal or the result. -/
def csetOp (t : Tid) (rd rs1 rs2 : RIdx) (f : Fin 3 → Cap → Nat → Except Nat Cap) : M Unit := do
  needEven [rd, rs1]
  let th ← getT t
  let p := th.pair rs1
  let x := th.g rs2
  capSources t (pairOps 1 p .cap ++ [opnd 2 .index x]) [p]
  match f th.level p.toCap x.val.toNat with
  | .error sub => capViol 0 sub 0
  | .ok c => wrPair t rd c.toPair

/-- CSET.OFF (R75, R77). -/
def execCsetOff (t : Tid) (rd rs1 rs2 : RIdx) (s : State) :=
  simple t (csetOp t rd rs1 rs2 (fun _ c x =>
    if c.length < x then .error 6 else rebased c (c.base + x) (c.length - x))) s
/-- CSET.LEN (R75, R77). -/
def execCsetLen (t : Tid) (rd rs1 rs2 : RIdx) (s : State) :=
  simple t (csetOp t rd rs1 rs2 (fun _ c x => if c.length < x then .error 6 else rebased c c.base x)) s
/-- CAND.PERM (R75). -/
def execCandPerm (t : Tid) (rd rs1 rs2 : RIdx) (s : State) :=
  simple t (csetOp t rd rs1 rs2 (fun _ c x => .ok { c with perms := Nat.land c.perms (x % 2 ^ 16) })) s
/-- CSET.TEN: the level is checked first (R75, R77). -/
def execCsetTen (t : Tid) (rd rs1 rs2 : RIdx) (s : State) :=
  simple t (csetOp t rd rs1 rs2 (fun level c x =>
    if level.val < 2 then .error 0xC else if !c.dev then .error 6 else .ok { c with dev := false, tenancy := x % 16 })) s

/-- CSEAL (R75, R77). -/
def execCseal (t : Tid) (rd rs1 rs2 : RIdx) (s : State) :=
  simple t (do
    needEven [rd, rs1, rs2]
    let th ← getT t
    let p := th.pair rs1
    let q := th.pair rs2
    capSources t (pairOps 1 p .cap ++ pairOps 2 q .cap) [p, q]
    let k := q.toCap
    if !k.has permSEAL || k.length < 1 || k.base = 0 || 0xEFF < k.base then capViol (k.missing permSEAL) 0xD 0
    wrPair t rd { p.toCap with otype := k.base }.toPair) s

/-- CGATE (R75, R78). -/
def execCgate (t : Tid) (rd rs1 : RIdx) (s : State) :=
  simple t (do
    needEven [rd, rs1]
    let th ← getT t
    let p := th.pair rs1
    capSources t (pairOps 1 p .cap) [p]
    let g := p.toCap
    let mask := permLD + permLDCAP
    if !g.has mask || g.base % 16 ≠ 0 || g.length < 48 then capViol (g.missing mask) 0xD 0
    wrPair t rd { g with lenE := 0, lenM := 48, otype := 0xF01 }.toPair) s

/-- CUNSEAL (R75, R77). -/
def execCunseal (t : Tid) (rd rs1 rs2 : RIdx) (s : State) :=
  simple t (do
    needEven [rd, rs1, rs2]
    let th ← getT t
    let p := th.pair rs1
    let q := th.pair rs2
    capSources t (pairOps 1 p .capOrSealed ++ pairOps 2 q .cap) [p, q]
    let k := q.toCap
    let o := p.toCap.otype
    if !k.has permUNSEAL || o < k.base || k.top ≤ o then capViol (k.missing permUNSEAL) 0xD 0
    wrPair t rd { p.toCap with otype := 0 }.toPair) s

/-- CMOVE (R75). -/
def execCmove (t : Tid) (rd rs1 : RIdx) (s : State) :=
  simple t (do
    needEven [rd, rs1]
    let th ← getT t
    let p := th.pair rs1
    capSources t (pairOps 1 p .capOrSealed) [p]
    wrPair t rd p) s

/-- CTEST: accepts every tag and raises nothing (R75, R76, R34). -/
def execCtest (t : Tid) (rd rs1 : RIdx) (s : State) :=
  simple t (do
    needEven [rs1]
    let th ← getT t
    wr t rd (.bool (th.pair rs1).isCap)) s

/-- Whether the second capability could be derived from the first (R75). -/
def derivable (a b : Cap) : Bool :=
  decide (a.base ≤ b.base) && decide (b.top ≤ a.top) && a.has b.perms &&
    ((a.dev == b.dev && a.tenancy == b.tenancy) || (a.dev && !b.dev))

/-- CTEST.SUB (R75, R76, R34). -/
def execCtestSub (t : Tid) (rd rs1 rs2 : RIdx) (s : State) :=
  simple t (do
    needEven [rs1, rs2]
    let th ← getT t
    let p := th.pair rs1
    let q := th.pair rs2
    wr t rd (.bool (p.isUnsealed && q.isUnsealed && derivable p.toCap q.toCap))) s

end Sys2Proof.Machine
end

