-- ==== Sys2Proof/Machine/Snapshot.lean ====
section
/-!
DEFINITION. Machine/Snapshot.lean: the snapshot commands, the end of a drain, the snapshot interval, restore, and the patrol of a
slice (R440, R447, R453 to R466).
-/

namespace Sys2Proof.Machine

/-- What follows the acceptance of a command that takes its effect in its own step: a failed check completes it, and a started
command goes on. -/
def afterAccept (i : Nat) (start : State → Cmd → State) (s : State) : State :=
  match Tab.get? s.cmds i with
  | some c => match c.phase with
    | .ended => finishCmd s i
    | .started => start s c
    | _ => s
  | none => s

/-! ### SN.SET (R453, R454) -/

/-- A snapshot instruction. -/
def snOp (cmd : Nat) : EngineOp := { engine := 4, op := cmd, perms := permENG + permLD + permLDCAP }

/-- The slots that hold a capability: the ranges of the set (R453). -/
def setSlots (c : Cmd) : List Nat := (upto 8).filter (fun n => (c.slotCap n).isCap)

/-- Slots of SN.SET. -/
def snSetSpec : BlockSpec := fun _ c =>
  if (setSlots c).isEmpty || !c.zeroPar 144 112 then .error stRange
  else .ok ((setSlots c).map (fun n => { index := n, perms := permLD, len := c.slotLen n, align := 65536 }))

/-- Whether two ranges of a list meet. -/
def rangesMeet : List (Nat × Nat) → Bool
  | [] => false
  | r :: rs => rs.any (fun q => decide (r.1 < q.1 + q.2) && decide (q.1 < r.1 + r.2)) || rangesMeet rs

/-- Whether a value names a live sending end of a tenancy whose receiving end has slots of 2 MiB at least (R454). -/
def targetOk (s : State) (n : Nat) (w : Word) : Bool :=
  match liveStream s (handleOf w) with
  | some c => !c.recv && !c.dev && c.tenancy.val == n && c.answered && decide (2097152 ≤ c.slotBytes)
  | none => false

/-- The outcome of SN.SET (R454). A command of the device space has no tenancy whose set it could replace. -/
def snSet (s : State) (c : Cmd) : State × CmdResult :=
  let n := c.space
  let target := BitVec.ofNat 64 (c.par 136 8)
  if 16 ≤ n || (s.tenant n).drain.isSome then (s, .st stStateConflict)
  else match c.slots.find? (fun m => !m.pieces.all (fun p => p.paired)) with
    | some m => (s, { CmdResult.st stStateConflict with slot := m.index })
    | none =>
      let rs := c.slots.map (fun m => (m.base, m.len))
      if !targetOk s n target || rangesMeet rs then (s, .st stRange)
      else (s.setTenant n { s.tenant n with snapRanges := rs, snapTarget := some target }, .st stOk)

/-- The acceptance of an SN.SET. -/
def acceptSnSet (i : Nat) (s : State) : State :=
  afterAccept i (fun s1 c => let r := snSet s1 c; finishWith r.1 i r.2) (acceptBlock snSetSpec i s)

/-- SN.SET (R454). -/
def execSnSet (t : Tid) (rd : RIdx) (cs : PIdx) (a : CForm) (s : State) := engineInstr t (snOp 0) rd cs a acceptSnSet s

/-! ### SN.POINT (R455, R459) -/

/-- Slots of SN.POINT: the cursor table where there are cursors. -/
def snPointSpec : BlockSpec := fun _ c =>
  let k := c.par 152 1
  if 16 < k || !c.zeroPar 153 103 then .error stRange
  else .ok (if k = 0 then [] else [{ index := 0, perms := permLD, len := 24 * k }])

/-- A cursor entry (R459). -/
def cursorOf (v : Nat) : Cursor :=
  ⟨v % 2 ^ 64, v / 2 ^ 64 % 2 ^ 32, v / 2 ^ 96 % 2 ^ 32, v / 2 ^ 128 % 2 ^ 64⟩

/-- The outcome of an SN.POINT that does not wait for its epoch, or the pending point. -/
def snPoint (s : State) (i : Nat) (c : Cmd) : State × Option CmdResult :=
  let n := c.space
  let k := c.par 152 1
  let epoch := BitVec.ofNat 64 (c.par 136 8)
  let r := if k = 0 then (s, []) else engRead s (c.ep s) (c.slot 0) false 0 (24 * k)
  let cs := (upto k).map (fun j => cursorOf (bytesVal r.2 / 256 ^ (24 * j) % 256 ^ 24))
  let live := match liveEpoch r.1 (handleOf epoch) with
    | some e => e.1 / 64 == n && e.2.state == .opened
    | none => false
  if 16 ≤ n then (s, some (.st stStateConflict))
  else
    let x := r.1.tenant n
    if bytesPoison r.2 then
      let h := haltCmd r.1 i c 0 (c.slot 0).base
      (h.1, some h.2)
    else if cs.any (fun d => d.den == 0) || !live then (r.1, some (.st stRange))
    else if x.point.isSome || x.snapTarget.isNone then (r.1, some (.st stStateConflict))
    else
      let p : SnapPoint := ⟨i, none, epoch, c.par 144 8, cs, false⟩
      (syncSnap (r.1.setTenant n { x with point := some p }) n, none)

/-- The acceptance of an SN.POINT. -/
def acceptSnPoint (i : Nat) (s : State) : State :=
  afterAccept i (fun s1 c =>
    let r := snPoint s1 i c
    match r.2 with
    | some x => finishWith r.1 i x
    | none => r.1) (acceptBlock snPointSpec i s)

/-- SN.POINT (R455). -/
def execSnPoint (t : Tid) (rd : RIdx) (cs : PIdx) (a : CForm) (s : State) := engineInstr t (snOp 1) rd cs a acceptSnPoint s

/-! ### The interval (R462) -/

/-- An FP64 value of a whole number. -/
def toFp64 (n : Nat) : Nat := encodeF fp64 .rne (.fin false n 0)

/-- The proposed interval (R462), computed in FP64; 0 where MTBF_S is 0. -/
def snapInterval (cost mtbf : Nat) (steps : List Nat) (lo hi : Nat) : Nat :=
  if mtbf = 0 || steps.isEmpty then 0
  else
    let m := fMul fp64 .rne (toFp64 mtbf) (toFp64 212500000)
    let sum := steps.foldl (fun (a : Nat) x => fAdd fp64 .rne a (toFp64 x)) 0
    let mean := fDiv fp64 .rne sum (toFp64 steps.length)
    let root := fSqrt fp64 .rne (fMul fp64 .rne (fMul fp64 .rne (toFp64 2) (toFp64 cost)) m)
    max lo (min hi (fToInt fp64 .rne 0 (hi : Int) (fDiv fp64 .rne root mean)).toNat)

/-- The Drone computes SNAP_INTERVAL_STEPS from the steps of a tenancy. -/
def putInterval (s : State) (n : Nat) : State :=
  s.setDev 0x7006 0 (snapInterval (s.dev 0x7005 0) (s.dev 0x7002 0) (s.tenant n).stepTimes (s.dev 0x7003 0) (s.dev 0x7004 0))

/-- The tenancy whose steps the interval follows at a write of MTBF_S: the lowest one that has stepped. -/
def intervalTenancy (s : State) : Nat := ((upto 16).find? (fun n => !(s.tenant n).stepTimes.isEmpty)).getD 0

/-- A write of MTBF_S (R462). -/
def writeMtbf (s : State) (v : Nat) : State :=
  let s1 := s.setDev 0x7002 0 v
  putInterval s1 (intervalTenancy s1)

/-- MTBF_S_WRITE (R462). -/
def execMtbfSWrite (v : BitVec 32) (s : State) : Host.Outcome State Fault Refusal := .next (writeMtbf s v.toNat)

/-! ### Restore (R464 to R466) -/

/-- A read of an image: offset and length; the bytes. -/
abbrev ImageRead := State → Nat → Nat → State × List PByte

/-- The tenancy that an SN.RESTORE is for: that of the image's capability, or, where that one is of the device space, the one whose
job the header names. -/
def restoreTenancy (s : State) (space job : Nat) : Option Nat :=
  if space < 16 then some space
  else (upto 16).find? (fun n => s.tstate n != tsAbsent && s.ten n 0xC080 3 == job)

/-- Whether SN.RESTORE is accepted in the state of a tenancy (R464). -/
def restoreAllowed (s : State) (n : Nat) : Bool := s.tstate n == tsHeld || (s.tstate n == tsRunning && !(s.tenant n).committed)

/-- The outcome of one group: the state, whether it is refused, and whether a word is uncorrectable. -/
structure GroupOut where
  state : State
  refused : Bool
  bad : Bool

/-- The pieces of the bytes of a range in its current buffers, where all its pages are paired. -/
def pairedPieces (s : State) (n va len : Nat) : Option (State × List Piece) :=
  let a := translateRange (spaceOf n) 0 false true false (len / 65536 + 2) va len s
  match a.2 with
  | .pieces ps => if ps.all (fun p => p.paired) then some (a.1, ps) else none
  | _ => none

/-- One group of an image (R465): its data is written where its digest agrees. -/
def restoreGroup (read : ImageRead) (n : Nat) (ranges : List (Nat × Nat)) (base g head : Nat) (s : State) : GroupOut :=
  let h : Blob := ⟨64, head⟩
  let off := h.field 8 8
  let len := h.field 16 4
  match ranges[h.field 4 1]? with
  | none => ⟨s, true, false⟩
  | some r =>
    if 1048576 < len || r.2 < off + len then ⟨s, true, false⟩
    else
      let a := read s (base + 1048576 * g) len
      if bytesPoison a.2 then ⟨a.1, false, true⟩
      else if shake256 (24 + len) (h.field 0 24 + bytesVal a.2 * 256 ^ 24) 32 ≠ h.field 24 32 then ⟨a.1, true, false⟩
      else match pairedPieces a.1 n (r.1 + off) len with
        | none => ⟨a.1, true, false⟩
        | some (s1, ps) =>
          ⟨writeRuns (windowAt s1 n (r.1 + off)) (runsOf false (len + ps.length + 2) ps 0 len) a.2 s1, false, false⟩

/-- The groups of an image in order: the state, how many were refused, and whether a word was uncorrectable. -/
def restoreGroups (read : ImageRead) (n : Nat) (ranges : List (Nat × Nat)) (base heads : Nat) : List Nat → State → Nat →
    State × Nat × Bool
  | [], s, k => (s, k, false)
  | g :: gs, s, k =>
    let r := restoreGroup read n ranges base g (heads / 256 ^ (64 * g) % 256 ^ 64) s
    if r.bad then (r.state, k, true) else restoreGroups read n ranges base heads gs r.state (k + b2n r.refused)

/-- The cursor that DATA_POS implies (R459); one whose DEN is 0 has none, and the value is open. -/
def impliedCursor (s : State) (pos : Nat) (c : Cursor) : State × Nat :=
  if c.den = 0 then
    let r := drawBits 2 s
    (r.2, r.1 % 2 ^ 64)
  else (s, (c.base + pos * c.num / c.den) % 2 ^ 64)

/-- The cursors of a restore (R466), each with the report of a difference. -/
def restoreCursors (n step pos : Nat) : List (Nat × Cursor) → State → State
  | [], s => s
  | (k, c) :: cs, s =>
    let r := impliedCursor s pos c
    let s1 := r.1.setTen n 0xC070 (0x10 + k) r.2
    let skew := (c.value + 2 ^ 64 - r.2) % 2 ^ 64
    restoreCursors n step pos cs (if c.value = r.2 then s1 else s1.post n 5 (k + step * 2 ^ 32 + skew * 2 ^ 64))

/-- SN.RESTORE of an image of a length (R465); pick answers the tenancy for the header's job. halt reports an uncorrectable
word. -/
def restoreImage (s : State) (read : ImageRead) (len : Nat) (pick : State → Nat → Option Nat) (halt : State → State × CmdResult) :
    State × CmdResult :=
  if len < 7481 then (s, .st stRange)
  else
    let a := read s 0 576
    let b := read a.1 4096 3385
    let h : Blob := ⟨576, bytesVal a.2⟩
    let groups := h.field 12 4
    let base := 65536 * ceilDiv (8192 + 64 * groups) 65536
    match pick s (h.field 4 2) with
    | none => (s, .st stRange)
    | some n =>
      if !restoreAllowed s n then (s, .st stStateConflict)
      else if len < 8192 + 64 * groups then (b.1, .st stRange)
      else
        let c := read b.1 8192 (64 * groups)
        if bytesPoison a.2 || bytesPoison b.2 || bytesPoison c.2 then halt c.1
        else
          let heads := bytesVal c.2
          if shake256 (576 + 64 * groups) (h.val + heads * 256 ^ 576) 64 ≠ bytesVal b.2 / 256 ^ 8 % 256 ^ 64 then (c.1, .st stBadDigest)
          else
            let ranges := (upto (h.field 24 1)).map (fun k => (h.field (32 + 16 * k) 8, h.field (40 + 16 * k) 8))
            let step := h.field 8 4
            let pos := h.field 16 8
            if h.field 4 2 ≠ c.1.ten n 0xC080 3 || h.field 544 8 ≠ c.1.dev 0x1010 0 || 8 < h.field 24 1 || 16 < h.field 25 1 ||
                len < base + 1048576 * (groups - 1) || !ranges.all (fun r => (pairedPieces c.1 n r.1 r.2).isSome) then
              (c.1, .st stRange)
            else if (match (c.1.tenant n).restored with | some r => r != (step, pos) | none => false) then (c.1, .st stStateConflict)
            else
              let g := restoreGroups read n ranges base heads (upto groups) c.1 0
              if g.2.2 then halt g.1
              else
                let s1 := ((g.1.setTen n 0xC020 4 step).setTen n 0xC070 1 step).setTen n 0xC070 3 pos
                let cs := (upto (h.field 25 1)).map (fun k => (k, cursorOf (h.field (160 + 24 * k) 24)))
                let s2 := restoreCursors n step pos cs s1
                let x := s2.tenant n
                let ok := g.2.1 == 0
                (s2.setTenant n { x with restored := some (step, pos), restoredOk := x.restoredOk || ok },
                  ⟨if ok then stOk else stBadDigest, 0, 0xFF, 0, g.2.1⟩)

/-- Slots of SN.RESTORE: the image. It is accepted on a DEV capability alone (R464). -/
def snRestoreSpec : BlockSpec := fun _ c =>
  if !c.cs.toCap.dev then .error stNoCapability
  else if !c.zeroPar 136 120 then .error stRange
  else .ok [{ index := 0, perms := permLD, len := c.slotLen 0 }]

/-- A started SN.RESTORE. One that finds a drain of its tenancy in progress waits for its end (R464). -/
def startRestore (s : State) (i : Nat) (c : Cmd) : State :=
  let m := c.slot 0
  let read : ImageRead := fun st off n => engRead st (c.ep st) m false off n
  let pick (st : State) (job : Nat) := restoreTenancy st m.space job
  let job := bytesVal (read s 4 2).2
  let busy := match pick s job with
    | some n => (s.tenant n).drain.isSome && restoreAllowed s n
    | none => false
  if (c.ep s).isSome || busy then s.putCmd i { c with phase := .held }
  else
    let r := restoreImage s read m.len pick (fun st => haltCmd st i c 0 m.base)
    finishWith r.1 i r.2

/-- The acceptance of an SN.RESTORE. -/
def acceptSnRestore (i : Nat) (s : State) : State :=
  afterAccept i (fun s1 c => startRestore s1 i c) (acceptBlock snRestoreSpec i s)

/-- SN.RESTORE (R464, R465). -/
def execSnRestore (t : Tid) (rd : RIdx) (cs : PIdx) (a : CForm) (s : State) := engineInstr t (snOp 2) rd cs a acceptSnRestore s

/-- Restores that have waited for a drain go on. -/
def resumeRestores (s : State) : State :=
  (s.cmds.filter (fun e => e.2.engine == 4 && e.2.op == 2 && e.2.phase == .held)).foldl (fun (st : State) e =>
    startRestore st e.1 e.2) s

/-! ### The end of a drain (R456) -/

/-- DRAIN_COMPLETE (R456, R462, R468): the credit of the trailer's slot has come back. -/
def execDrainComplete (ten : Fin 16) (s : State) : Host.Outcome State Fault Refusal :=
  let n := ten.val
  match (s.tenant n).drain with
  | none => .next s
  | some d =>
    if !d.blocks.isEmpty || d.returned < d.sent then .next s
    else
      let s1 := (s.setTenant n { s.tenant n with drain := none }).setTen n 0xC070 1 (d.step % 2 ^ 32)
      let s2 := syncSnap (s1.setDev 0x7005 0 ((s.now - d.start) % 2 ^ 64)) n
      let s3 := putInterval (endPoint s2 n d.cmd d.host stOk d.step) n
      -- in HELD the stream halts like the others, now that it has carried the drain to its end (R468)
      .next (resumeRestores (if s3.tstate n == tsHeld then haltStream s3 d.stream true else s3))

/-- The tenancy that a stream's drain belongs to. -/
def drainOfStream (s : State) (i : Nat) : Option Nat :=
  (upto 16).find? (fun n => match (s.tenant n).drain with | some d => d.stream == i | none => false)

/-- A STR_CREDIT arrives; credit for a drain's stream lets it go on (R380, R456). -/
def creditArrives (s : State) (src job number tspec : Nat) : State :=
  let i := (s.streams.find? (fun e => e.2.number == number && jobOf s e.2.space == job && e.2.node == some src && !e.2.recv)).map
    (fun e => e.1)
  let s1 := streamCredit s src job number tspec
  match i.bind (fun k => drainOfStream s1 k) with
  | none => s1
  | some n =>
    match (s1.tenant n).drain with
    | none => s1
    | some d =>
      let got := if bit tspec 31 || bit tspec 30 then 0 else tspec % 256
      drainOn n (d.blocks.length + 1) (s1.setTenant n { s1.tenant n with drain := some { d with returned := d.returned + got } })

/-- STR_CREDIT (R380). -/
def execStrCredit (src job stream tspec : Nat) (s : State) : Host.Outcome State Fault Refusal :=
  .next (creditArrives s src job stream tspec)

/-! ### The patrol of a slice (R440, R447) -/

/-- The lines of a set of a slice are no longer known, and the set is retired until the next BRINGUP: the device is DEGRADED, the
monitor is told, and every RUNNING tenancy enters HELD. -/
def retireSet (s : State) (slice set : Nat) : State :=
  let inSet (k : Nat) : Bool := sliceOf (128 * k) == slice && Config.sliceSet k == set
  let s1 := { s with slc := Tab.keep s.slc (fun k _ => !inSet k), retired := (slice, set) :: s.retired }
  let s2 := if s1.dstate = dsReady then syncAlerts (s1.setDev 0x1021 0 dsDegraded) else s1
  let detail := 0x04 + 3 * 2 ^ 8 + slice % 256 * 2 ^ 16
  let s3 := { s2.log 3 detail with monitorMail := s2.monitorMail + 1 }
  (upto 16).foldl (fun (st : State) n => if st.tstate n == tsRunning then enterHeld (st.hold n 3 detail) n 4 else st) s3

/-- SLICE_PATROL (R440, R467): every block of a slice is decoded; failed: the set whose line state it finds uncorrectable. -/
def execSlicePatrol (slice : Fin 192) (failed : Option Nat) (s : State) : Host.Outcome State Fault Refusal :=
  let found := (s.slcErrs.filter (fun e => sliceOf e.1 == slice.val)).map (fun e => e.1)
  let s1 := found.foldl (fun (st : State) a => repairSlice st false (fun pa => sameSet (pa / 128) (a / 128))) s
  let marked (st : State) (a : Nat) : Bool := match Tab.get? st.slc (a / 128) with
    | some l => bit l.poison (a % 128 / 8)
    | none => false
  let lost := found.filter (fun a => marked s1 a && !marked s a)
  let s2 := match failed with
    | some set => retireSet s1 slice.val set
    | none => s1
  .next (damageFound s2 lost)

end Sys2Proof.Machine
end

