-- ==== Sys2Proof/Machine/Reduce.lean ====
section
/-!
DEFINITION. Machine/Reduce.lean: reduction groups and reductions: the tree, contexts and flow, deadlines, tears, the path of root
sums to the landing areas, missing-rank records and the stream digests (R386 to R410, R415, R416).
-/

namespace Sys2Proof.Machine

/-! ### Groups and spaces -/

/-- The space whose job a packet names: a tenancy that is not ABSENT, or the device space. -/
def jobSpace (s : State) (job : Nat) : Option Nat :=
  (upto 17).find? (fun n => jobOf s n == job && (n == 16 || s.tstate n != tsAbsent))

/-- Whether a space's job is in strict mode (R407). -/
def strictMode (s : State) (space : Nat) : Bool := space < 16 && s.ten space 0xC060 1 == 1

/-- The group of a space. -/
def groupOf (s : State) (space gid : Nat) : Option RGroup := Tab.get? s.redGroups (space * 8 + gid)

/-- The node of a rank of a group. -/
def RGroup.node (g : RGroup) (rank : Nat) : Nat := g.nodes.getD rank 0xFFFF

/-- The rank of a node in a group. -/
def RGroup.rankOf (g : RGroup) (node : Nat) : Option Nat := findIdx? (fun x => x == node) g.nodes 0

/-- The groups of a space go when its job ends (R386), and with them what was kept for their reductions. -/
def dropGroups (s : State) (n : Nat) : State :=
  { s with redGroups := Tab.keep s.redGroups (fun k _ => k / 8 != n), heldCtl := s.heldCtl.filter (fun h => h.job != jobOf s n),
           lateSeen := s.lateSeen.filter (fun x => x.1 != n) }

/-! ### The tree (R391) -/

/-- Height of a position. -/
def treeHeight (n pos : Nat) : Nat := log2 (n / (pos + 1))

/-- Ranks in the subtree of a position: level by level, from the leftmost position and the width of a level. -/
def treeSize (n : Nat) : Nat → Nat → Nat → Nat
  | 0, _, _ => 0
  | f + 1, lo, width => if n ≤ lo then 0 else min width (n - lo) + treeSize n f (2 * lo + 1) (2 * width)

/-- Ranks in the subtree of a position of a group of n. -/
def subtreeSize (n pos : Nat) : Nat := treeSize n 16 pos 1

/-- The rank at a position of the tree of an owner. -/
def rankAt (n owner pos : Nat) : Nat := (pos + owner) % n

/-- The position of a rank. -/
def posAt (n owner rank : Nat) : Nat := (rank + n - owner) % n

/-- The rank at a child's position, where the tree has it. -/
def childRank (n owner pos : Nat) (right : Bool) : Option Nat :=
  let p := 2 * pos + 1 + b2n right
  if p < n then some (rankAt n owner p) else none

/-! ### Digests (R415) -/

/-- Bytes absorbed. -/
def Sponge.absorb (x : Sponge) (m : Blob) : Sponge :=
  let all := x.part.append m
  let k := all.len / 136
  ⟨keccakAbsorb k all.val x.st, ⟨all.len % 136, all.val / 256 ^ (136 * k)⟩⟩

/-- The first 256 bits of the digest. -/
def Sponge.digest (x : Sponge) : Nat :=
  keccakAbsorb 1 (x.part.val % 256 ^ x.part.len + 0x1F * 256 ^ x.part.len + 0x80 * 256 ^ 135) x.st % 256 ^ 32

/-- Nothing absorbed. -/
def Sponge.zero : Sponge := ⟨0, ⟨0, 0⟩⟩

/-- Digests of the reductions absorbed into an entry, in ascending RID order. -/
def digestList (xs : List (Nat × Nat × Nat)) (sent : Bool) : Nat := packRecords 32 (xs.map (fun x => if sent then x.2.1 else x.2.2))

/-- The 80 bytes of an entry (R416). -/
def DigestEntry.record (e : DigestEntry) : Nat :=
  let n := e.done.length
  e.job + e.gid * 256 ^ 2 + (b2n e.closed + 2 * b2n e.flagged) * 256 ^ 3 + e.step % 2 ^ 32 * 256 ^ 4 + n * 256 ^ 8 +
    shake256 (32 * n) (digestList e.done true) 32 * 256 ^ 16 + shake256 (32 * n) (digestList e.done false) 32 * 256 ^ 48

/-- An entry replaced, and its Stop with it. -/
def putDigest (s : State) (port slot : Nat) (e : DigestEntry) : State :=
  { s with digests := Tab.put s.digests (64 * port + slot) e }.setDev (0x5100 + port) slot e.record

/-- The entry of a port for a job, group and step. -/
def digestSlot (s : State) (port space gid step : Nat) : Option Nat :=
  ((s.digests.filter (fun e => e.1 / 64 == port && e.2.tenancy == space && e.2.gid == gid && e.2.step == step &&
    !e.2.closed)).map (fun e => e.1 % 64)).head?

/-- The port first handles a reduction of a step: entries of earlier steps close, and a new entry opens (R415, R416). -/
def openDigest (s : State) (port space job gid step : Nat) : State :=
  match digestSlot s port space gid step with
  | some _ => s
  | none =>
    let s1 := s.digests.foldl (fun (st : State) e =>
      if e.1 / 64 = port && e.2.tenancy = space && e.2.gid = gid && e.2.step < step && !e.2.closed then
        putDigest st port (e.1 % 64) { e.2 with closed := true }
      else st) s
    let next := s1.dev (0x5001 + port) 0 % 64
    putDigest (s1.setDev (0x5001 + port) 0 ((next + 1) % 64)) port next ⟨space, job, gid, step, false, false, []⟩

/-- The entries of a job close when it ends (R415). -/
def closeDigests (s : State) (space : Nat) : State :=
  s.digests.foldl (fun (st : State) e =>
    if e.2.tenancy = space && !e.2.closed then putDigest st (e.1 / 64) (e.1 % 64) { e.2 with closed := true } else st) s

/-- A triple in its place by the first number. -/
def insertRid (x : Nat × Nat × Nat) : List (Nat × Nat × Nat) → List (Nat × Nat × Nat)
  | [] => [x]
  | y :: ys => if x.1 < y.1 then x :: y :: ys else y :: insertRid x ys

/-- A reduction's digests are absorbed into its port's entry; flagged: a deadline passed or it tore. -/
def absorbRed (s : State) (r : Red) (flagged : Bool) : State :=
  match digestSlot s r.port r.tenancy r.gid r.step with
  | none => s
  | some k =>
    match Tab.get? s.digests (64 * r.port + k) with
    | some e => putDigest s r.port k { e with flagged := e.flagged || flagged || r.late,
                                              done := insertRid (r.rid, r.sent.digest, r.recv.digest) e.done }
    | none => s

/-! ### A reduction's parts -/

/-- Chunks of a reduction. -/
def Red.chunks (r : Red) : Nat := ceilDiv r.elems 1024
/-- Elements of a chunk. -/
def Red.chunkElems (r : Red) (c : Nat) : Nat := min 1024 (r.elems - 1024 * c)
/-- Bytes of an element on the wire (R394). -/
def wireSize (pfmt : Nat) : Nat := if pfmt = 1 then 2 else if pfmt = 15 then 3 else 4
/-- A child of the node. -/
def Red.child (r : Red) (right : Bool) : Option RChild := if right then r.right else r.left
/-- A child replaced. -/
def Red.setChild (r : Red) (right : Bool) (c : RChild) : Red := if right then { r with right := some c } else { r with left := some c }
/-- The children that are not missing, left before right. -/
def Red.present (r : Red) : List RChild := (r.left.toList ++ r.right.toList).filter (fun c => !c.missing)
/-- A reduction replaced. -/
def State.putRed (s : State) (i : Nat) (r : Red) : State := { s with reds := Tab.put s.reds i r }
/-- The rank of the node itself. -/
def Red.rank (r : Red) : Nat := rankAt r.n r.owner r.pos
/-- The rank of the node's parent. -/
def Red.parent (r : Red) : Nat := rankAt r.n r.owner ((r.pos - 1) / 2)
/-- TSPEC of the packets of a reduction (R400). -/
def Red.tspec (r : Red) (chunk : Nat) : Nat := r.step % 4 * 2 ^ 30 + r.gid * 2 ^ 27 + r.rid * 2 ^ 10 + chunk

/-- Contributors of the node's subtree (R403). -/
def Red.count (r : Red) : Nat := r.present.foldl (fun (a : Nat) c => a + (match c.fin with | some f => f.1 | none => 0)) 1

/-- Missing subtree roots: the node's own missing children, then those its present children reported, left before right. -/
def Red.roots (r : Red) : List Nat :=
  ((r.left.toList ++ r.right.toList).filter (fun c => c.missing)).map (fun c => c.rank) ++
    (r.present.map (fun c => match c.fin with | some f => f.2 | none => [])).flatten

/-- A packet of a reduction to a rank of its group: type 3 RED_DATA, 4 RED_CTL. -/
def redSend (s : State) (r : Red) (rank type chunk len data : Nat) : State :=
  match groupOf s r.tenancy r.gid with
  | some g => s.send (g.node rank) type 0 r.job len (r.tspec chunk) data
  | none => s

/-- The reduction that a packet of a job is for (R400). -/
def findRed (s : State) (job tspec : Nat) : Option (Nat × Red) :=
  s.reds.find? (fun e => e.2.job == job && e.2.gid == fld tspec 29 27 && e.2.rid == fld tspec 26 10 && e.2.step % 4 == fld tspec 31 30)

/-- The side on which the sender of a packet is a child of the node. -/
def childSide (s : State) (r : Red) (src : Nat) : Option Bool :=
  match (groupOf s r.tenancy r.gid).bind (fun g => g.rankOf src) with
  | none => none
  | some k => if r.left.any (fun c => c.rank == k) then some false else if r.right.any (fun c => c.rank == k) then some true else none

/-- Whether the sender of a packet is the node's parent. -/
def fromParent (s : State) (r : Red) (src : Nat) : Bool :=
  r.pos != 0 && (match groupOf s r.tenancy r.gid with | some g => g.node r.parent == src | none => false)

/-! ### Missing-rank records (R408) -/

/-- 64 bytes at an address of a space whose page is LOCAL with PR and PW. -/
def writeRing64 (s : State) (n : Fin 17) (va v : Nat) : Option State :=
  let w := walk s n va
  match w.2 with
  | .leaf _ _ e =>
    if e % 8 = 2 && bit e 50 && bit e 51 then
      let r := translate w.1 n va .write .other
      match r.2 with
      | .ok pa => some (writeRun r.1 pa (mkBytes 64 v false) (windowAt r.1 n.val va))
      | _ => none
    else none
  | _ => none

/-- A missing-rank record is written: by the owner, or at a deadline; nothing where the ring is not mapped. -/
def writeMissing (s : State) (r : Red) (owner : Bool) (count : Nat) (roots : List Nat) : State :=
  let base := s.ten r.tenancy 0xC060 3
  let k := s.ten r.tenancy 0xC060 4
  let v := r.job + r.gid * 256 ^ 2 + (b2n owner + 2 * b2n (decide (16 < roots.length))) * 256 ^ 3 + r.step % 2 ^ 32 * 256 ^ 4 +
    r.rid * 256 ^ 8 + r.owner * 256 ^ 12 + r.rank * 256 ^ 14 + r.n * 256 ^ 16 + count % 65536 * 256 ^ 18 +
    roots.length * 256 ^ 20 + packRecords 2 (roots.take 16) * 256 ^ 22
  if base = 0 || 16 ≤ r.tenancy then s
  else match writeRing64 s (spaceOf r.tenancy) (base + 64 * (k % 1024)) v with
    | some s1 => s1.setTen r.tenancy 0xC060 4 ((k + 1) % 2 ^ 32)
    | none => s

/-! ### Elements (R392 to R394) -/

/-- The formats of partials, in FP32 working (R394). -/
def wireFmt (pfmt : Nat) : FFmt := if pfmt = 1 then bf16 else if pfmt = 15 then w22 else fp32

/-- The node's own element in FP32 (R393), or as it is in an integer reduction. -/
def ownElem (c : Cmd) (r : Red) (k code : Nat) : Nat :=
  let d := fmtOf r.cfmt
  if d.format = 12 then code
  else
    let v := if d.mx then elemScaled d.format (Config.redScale c.seq (k / 32)).toNat code else elemNum d.format false code
    widenElem d v

/-- A partial of a child in FP32. -/
def wireElem (pfmt code : Nat) : Nat := if pfmt = 12 then code else fCvt (wireFmt pfmt) fp32 .rne code

/-- A term added (R392). -/
def addTerm (pfmt a b : Nat) : Nat := if pfmt = 12 then (a + b) % 2 ^ 32 else add32 a b

/-- A sum as it goes to the parent. -/
def toWire (pfmt x : Nat) : Nat := if pfmt = 12 then x else fCvt fp32 (wireFmt pfmt) .rne x

/-- The sums of a chunk of m elements: own elements and the children's payloads, left before right. -/
def chunkSums (pfmt : Nat) (own : List Nat) (kids : List Nat) : List Nat :=
  (own.zip (upto own.length)).map (fun p =>
    kids.foldl (fun (a : Nat) v => addTerm pfmt a (wireElem pfmt (v / 256 ^ (wireSize pfmt * p.2) % 256 ^ wireSize pfmt))) p.1)

/-! ### Ends of a reduction -/

/-- The FLAGS of a CU.RED record (R390). -/
def Red.flags (r : Red) : Nat := 2 * b2n r.late

/-- A reduction's context closes and its CU.RED completes. -/
def closeRed (s : State) (i : Nat) (r : Red) (flagged : Bool) (res : CmdResult) : State :=
  finishWith { absorbRed s r flagged with reds := Tab.del s.reds i } i res

/-- A command's epoch has had a reduction torn (R467). -/
def markTorn (s : State) (c : Cmd) : State :=
  match c.epoch with
  | none => s
  | some e => match Tab.get? s.epochs (64 * c.tenancy.val + e) with
    | some x => { s with epochs := Tab.put s.epochs (64 * c.tenancy.val + e) { x with torn := true } }
    | none => s

/-- Chunks of root sums that a torn reduction owes to the landing areas: with contributor count 0 (R406). -/
def tornLanding (c : Cmd) (i : Nat) (r : Red) : List Landing :=
  if r.pos ≠ 0 || r.pfmt = 12 then []
  else
    let m := c.slot 1
    let given := r.sums.map (fun x => x.1)
    let rest := (upto r.chunks).filter (fun k => given.contains k || r.next ≤ k)
    rest.map (fun k => ⟨m.space, r.job, m.base + 4096 * k, r.chunkElems k, 0, i, 0, 0⟩)

/-- A reduction tears (R406): reason 1 stall, 2 poison, 3 mismatch; pa and va name a poisoned own element. -/
def tearRed (s : State) (i : Nat) (r : Red) (reason pa va : Nat) : State :=
  match Tab.get? s.cmds i with
  | none => s
  | some c =>
    let torn : Blob := ⟨2, 4 + reason * 256⟩
    let s1 := if r.pos = 0 then s else redSend s r r.parent 4 0 2 torn.val
    let r1 := if r.pos = 0 then r else { r with sent := r.sent.absorb torn }
    let s2 := r1.present.foldl (fun (st : State) k => redSend st r k.rank 4 0 1 3) s1
    let r2 := { r1 with sent := r1.present.foldl (fun (x : Sponge) _ => x.absorb ⟨1, 3⟩) r1.sent }
    let s3 := { s2 with landing := s2.landing ++ tornLanding c i r }
    let s4 := markTorn (if reason = 2 then (haltCmd s3 i c pa va).1 else s3) c
    closeRed s4 i r2 true ⟨stAborted, 0, 0xFF, 4 + b2n (reason == 2) + r.flags, 0⟩

/-! ### Progress -/

/-- GRANT of a child up to a chunk. -/
def grantChild (s : State) (i : Nat) (r : Red) (right : Bool) (chunk : Nat) (resend : Bool) : State :=
  match r.child right with
  | none => s
  | some c =>
    redSend (s.putRed i (r.setChild right { c with grant := max c.grant (chunk + 1), resent := c.resent || resend })) r c.rank 4 chunk 2
      (1 + 256 * b2n resend)

/-- Both children in turn. -/
def eachChild (s : State) (i : Nat) (f : State → Red → Bool → RChild → State) : State :=
  [false, true].foldl (fun (st : State) side => match Tab.get? st.reds i with
    | some r => match r.child side with
      | some c => if c.missing then st else f st r side c
      | none => st
    | none => st) s

/-- The DONE of a child is acknowledged once all its chunks have been added (R401). -/
def ackDone (s : State) (i : Nat) : State :=
  eachChild s i (fun st r side c =>
    if c.fin.isSome && !c.acked && r.next == r.chunks then
      grantChild st i (r.setChild side { c with acked := true }) side (r.chunks - 1) false
    else st)

/-- The DONE of a node (R401, R403). -/
def Red.done (r : Red) : Blob :=
  let roots := r.roots
  ⟨6 + 2 * roots.length, 2 + r.count % 65536 * 256 ^ 2 + roots.length % 65536 * 256 ^ 4 + packRecords 2 roots * 256 ^ 6⟩

/-- What a node absorbs of its children's DONE packets, left before right. -/
def Red.finDigest (r : Red) : Sponge :=
  r.present.foldl (fun (x : Sponge) c => match c.fin with
    | some f => x.absorb ⟨6 + 2 * f.2.length, 2 + f.1 % 65536 * 256 ^ 2 + f.2.length % 65536 * 256 ^ 4 + packRecords 2 f.2 * 256 ^ 6⟩
    | none => x) r.recv

/-- The root writes the sums of an integer reduction to its slot 1 (R410). -/
def writeRoot (s : State) (c : Cmd) (sums : List (Nat × Nat)) (r : Red) : State :=
  sums.foldl (fun (st : State) x => engWrite st (c.slot 1) false (4096 * x.1) (bytesWith (4 * r.chunkElems x.1) x.2 0)) s

/-- A node whose chunks and DONEs are all in: it sends its DONE; the owner's sums are whole. -/
def redEnd (s : State) (i : Nat) : State :=
  match Tab.get? s.reds i, Tab.get? s.cmds i with
  | some r, some c =>
    if r.next ≠ r.chunks || r.doneSent || !r.present.all (fun k => k.fin.isSome) then s
    else
      let r1 := { r with recv := r.finDigest, doneSent := true }
      if r.pos ≠ 0 then
        let d := r1.done
        redSend (s.putRed i { r1 with sent := r1.sent.absorb d }) r1 r1.parent 4 0 d.len d.val
      else
        let s1 := if r1.roots.isEmpty then s else writeMissing s r1 true r1.count r1.roots
        if r1.pfmt = 12 then closeRed (writeRoot s1 c r1.sums r1) i r1 false ⟨stOk, 0, 0xFF, r1.flags, r1.count⟩
        else s1.putRed i r1
  | _, _ => s

/-- Whether the next chunk can be added: every present child has sent it, and the parent has granted it. -/
def Red.ready (r : Red) : Bool :=
  r.opened && decide (r.next < r.chunks) && (r.pos == 0 || decide (r.next < r.granted)) &&
    r.present.all (fun c => c.buf.any (fun x => x.1 == r.next))

/-- A chunk is added and sent on, or kept at the owner (R392, R394, R398). -/
def redChunk (s : State) (i : Nat) (r : Red) (c : Cmd) : State :=
  let k := r.next
  let m := c.slot 0
  let sz := fmtStore (fmtOf r.cfmt).format / 8
  let n := r.chunkElems k
  let a := readElems s (c.ep s) m false sz (1024 * k) n
  match findIdx? (fun (e : Elem) => e.2) a.2 0 with
  | some j =>
    let off := (1024 * k + j) * sz
    tearRed a.1 i r 2 (((runsOf m.alt (m.fuel 1) m.pieces off 1).map (fun x => x.1)).headD 0) (m.base + off)
  | none =>
    let own := (a.2.zip (upto n)).map (fun e => ownElem c r (1024 * k + e.2) e.1.1)
    let kids := r.present.map (fun x => ((x.buf.find? (fun y => y.1 == k)).map (fun y => y.2)).getD 0)
    let sums := chunkSums r.pfmt own kids
    let len := wireSize r.pfmt * n
    let recv := kids.foldl (fun (x : Sponge) v => x.absorb ⟨len, v⟩) r.recv
    let clear (x : RChild) : RChild := { x with buf := x.buf.filter (fun y => y.1 != k) }
    let r1 := { r with next := k + 1, recv := recv, left := r.left.map clear, right := r.right.map clear }
    let s1 :=
      if r.pos = 0 then a.1.putRed i { r1 with sums := r1.sums ++ [(k, packRecords 4 sums)] }
      else
        let out := packRecords (wireSize r.pfmt) (sums.map (toWire r.pfmt))
        redSend (a.1.putRed i { r1 with sent := r1.sent.absorb ⟨len, out⟩, unacked := r1.unacked ++ [(k, out)] }) r1 r1.parent 3 k len out
    eachChild s1 i (fun st q side _ => if k + 8 < q.chunks then grantChild st i q side (k + 8) false else st)

/-- A reduction goes on as far as it can. -/
def redGo (i : Nat) : Nat → State → State
  | 0, s => s
  | f + 1, s =>
    match Tab.get? s.reds i, Tab.get? s.cmds i with
    | some r, some c => if r.ready then redGo i f (redChunk s i r c) else redEnd (ackDone s i) i
    | _, _ => s

/-- Fuel for the chunks of a reduction. -/
def redRun (s : State) (i : Nat) : State :=
  match Tab.get? s.reds i with
  | some r => redGo i (r.chunks + 2) s
  | none => s

/-! ### Commands (R386 to R389) -/

/-- A collective instruction. -/
def cuOp (cmd more : Nat) : EngineOp := { engine := 1, op := cmd, perms := permENG + permLD + permLDCAP + more }

/-- Slots and parameters of CU.GROUP. -/
def cuGroupSpec : BlockSpec := fun _ c =>
  let n := c.par 138 2
  if 7 < c.par 136 1 || !c.zeroPar 137 1 || n = 0 || 16384 < n || c.par 140 2 = 0 || c.par 142 1 = 0 || 64 < c.par 142 1 ||
      !c.zeroPar 143 113 then .error stRange
  else .ok [{ index := 0, perms := permLD, len := 2 * n }]

/-- Contexts that all groups but one hold at a port. -/
def portContexts (s : State) (key p : Nat) : Nat :=
  s.redGroups.foldl (fun (a : Nat) e => if e.1 ≠ key && bit e.2.ports p then a + e.2.ctxq else a) 0

/-- The outcome of CU.GROUP (R387, R389). -/
def cuGroup (s : State) (i : Nat) (c : Cmd) : State × CmdResult :=
  let n := c.par 138 2
  let key := c.space * 8 + c.par 136 1
  let r := engRead s (c.ep s) (c.slot 0) false 0 (2 * n)
  let nodes := (upto n).map (fun k => bytesVal ((r.2.drop (2 * k)).take 2))
  let ports := c.par 140 2
  let quota := c.par 142 1
  if bytesPoison r.2 then haltCmd r.1 i c 0 (c.slot 0).base
  else if s.reds.any (fun e => e.2.tenancy == c.space && e.2.gid == c.par 136 1) then (r.1, .st stStateConflict)
  else match findIdx? (fun x => x == r.1.dev 0x4000 0) nodes 0 with
    | none => (r.1, .st stRange)
    | some rank =>
      if nodes.any (fun x => decide (0x3FFF < x)) || nodes.eraseDups.length ≠ n then (r.1, .st stRange)
      else if (upto 16).any (fun p => bit ports p && decide (64 < portContexts r.1 key p + quota)) then (r.1, .st stExhausted)
      else ({ r.1 with redGroups := Tab.put r.1.redGroups key ⟨nodes, rank, ports, quota⟩ }, .st stOk)

/-- The acceptance of a CU.GROUP. -/
def acceptCuGroup (i : Nat) (s : State) : State :=
  afterAccept i (fun s1 c => let r := cuGroup s1 i c; finishWith r.1 i r.2) (acceptBlock cuGroupSpec i s)

/-- CU.GROUP (R386, R387). -/
def execCuGroup (t : Tid) (rd : RIdx) (cs : PIdx) (a : CForm) (s : State) := engineInstr t (cuOp 0 permREMOTE) rd cs a acceptCuGroup s

/-- Whether CFMT and PFMT are accepted (R389). -/
def redFmtOk (cfmt : Word) (pfmt : Nat) : Bool :=
  let d := fmtOf cfmt
  fmtValid cfmt && [0, 1, 2, 3, 4, 15, 12].contains d.format && (!d.mx || d.format == 3 || d.format == 4) &&
    [0, 1, 15, 12].contains pfmt && ((pfmt == 12) == (d.format == 12))

/-- Slots and parameters of CU.RED. -/
def cuRedSpec : BlockSpec := fun s c =>
  let pfmt := c.par 137 1
  let owner := c.par 138 2
  let e := c.par 144 4
  let cfmt := BitVec.ofNat 64 (c.par 152 8)
  match (if 7 < c.par 136 1 then none else groupOf s c.space (c.par 136 1)) with
  | none => .error stRange
  | some g =>
    if g.nodes.length ≤ owner || 131071 < c.par 140 4 || e = 0 || 1048576 < e || !redFmtOk cfmt pfmt || !c.zeroPar 160 96 then .error stRange
    else .ok ({ index := 0, perms := permLD, len := e * (fmtStore (fmtOf cfmt).format / 8) } ::
      (if g.rank = owner then [{ index := 1, perms := if pfmt = 12 then permST else 0, len := 4 * e }] else []))

/-- The k-th set bit of a port mask. -/
def nthPort (ports k : Nat) : Nat := ((upto 16).filter (fun p => bit ports p)).getD k 0

/-- A child that has sent nothing. -/
def RChild.new (rank : Nat) : RChild := ⟨rank, false, false, [], 0, false, none, false⟩

/-- A control packet kept for its command is taken: the list without it, and whether it was there. -/
def takeHeld (s : State) (p : HeldCtl → Bool) : State × Option HeldCtl :=
  match findIdx? p s.heldCtl 0 with
  | some k => ({ s with heldCtl := s.heldCtl.eraseIdx k }, s.heldCtl[k]?)
  | none => (s, none)

/-- A started CU.RED: the reduction is known to the module and waits for a context (R397). A GRANT or a DROP that its parent has
sent before counts. Late contributions are counted once per reduction, so that none of a reduction of the same TSPEC before it
stands in the way (R404). -/
def startRed (s : State) (i : Nat) (c : Cmd) : State :=
  let gid := c.par 136 1
  match groupOf s c.space gid with
  | none => s
  | some g =>
    let n := g.nodes.length
    let owner := c.par 138 2
    let pos := posAt n owner g.rank
    let rid := c.par 140 4
    let r : Red :=
      { tenancy := c.space, job := jobOf s c.space, gid := gid, rid := rid, step := c.par 148 4, owner := owner, n := n, pos := pos,
        elems := c.par 144 4, pfmt := c.par 137 1, cfmt := BitVec.ofNat 64 (c.par 152 8),
        port := nthPort g.ports (rid % ((upto 16).filter (fun p => bit g.ports p)).length), opened := false,
        left := (childRank n owner pos false).map RChild.new, right := (childRank n owner pos true).map RChild.new,
        next := 0, granted := 0, unacked := [], doneSent := false, sums := [], late := false, sent := .zero, recv := .zero }
    let mine (kind : Nat) (h : HeldCtl) : Bool :=
      h.kind == kind && h.job == r.job && h.tspec / 1024 == r.tspec 0 / 1024 && fromParent s r h.src
    let a := takeHeld { s with lateSeen := s.lateSeen.filter (fun x => !(x.1 == c.space && x.2.1 == r.tspec 0 / 1024)) } (mine 3)
    let b := takeHeld a.1 (mine 4)
    if b.2.isSome then finishWith b.1 i ⟨stOk, 0, 0xFF, 8, 0⟩
    else b.1.putRed i { r with granted := match a.2 with | some h => h.tspec % 1024 + 1 | none => 0 }

/-- The acceptance of a CU.RED. -/
def acceptCuRed (i : Nat) (s : State) : State := afterAccept i (fun s1 c => startRed s1 i c) (acceptBlock cuRedSpec i s)

/-- CU.RED (R388, R392). -/
def execCuRed (t : Tid) (rd : RIdx) (cs : PIdx) (a : CForm) (s : State) := engineInstr t (cuOp 1 0) rd cs a acceptCuRed s

/-! ### Contexts (R397, R398) -/

/-- Contexts that a group has open at a port. -/
def openContexts (s : State) (space gid p : Nat) : Nat :=
  (s.reds.filter (fun e => e.2.opened && e.2.port == p && e.2.tenancy == space && e.2.gid == gid)).length

/-- Whether a reduction waits for its context and its group's quota has one. -/
def contextFree (s : State) (r : Red) : Bool :=
  !r.opened && r.next == 0 && !r.doneSent && (match groupOf s r.tenancy r.gid with
    | some g => decide (openContexts s r.tenancy r.gid r.port < g.ctxq)
    | none => false)

/-- The earlier of two reductions in the order of R397: the oldest STEP, then the lowest RID. -/
def redBefore (a b : Red) : Bool := decide (a.step < b.step) || (a.step == b.step && decide (a.rid < b.rid))

/-- CONTEXT_OPEN (R397, R398): the lowest RID of the oldest STEP that waits at a port opens, and grants its children. -/
def execContextOpen (p : Fin 16) (s : State) : Host.Outcome State Fault Refusal :=
  let waiting := s.reds.filter (fun e => e.2.port == p.val && contextFree s e.2)
  match waiting.foldl (fun (b : Option (Nat × Red)) e => match b with
      | none => some e
      | some x => if redBefore e.2 x.2 then some e else b) none with
  | none => .next s
  | some (i, r) =>
    let s1 := openDigest (s.putRed i { r with opened := true }) p.val r.tenancy r.job r.gid r.step
    let s2 := eachChild s1 i (fun st q side _ => grantChild st i q side (min 7 (q.chunks - 1)) false)
    .next (redRun s2 i)

/-! ### RED packets -/

/-- A RED packet for a reduction that the node no longer holds (R404): discarded, and counted once per child and reduction. -/
def lateRed (s : State) (src job tspec : Nat) : State :=
  match jobSpace s job with
  | none => s
  | some n =>
    let key := (n, tspec / 1024, src)
    if s.lateSeen.contains key then s else { s.count n 0x23 1 with lateSeen := s.lateSeen ++ [key] }

/-- What a packet of a child of an open reduction does; any other packet is late. -/
def onChild (s : State) (src job tspec : Nat) (f : Nat → Red → Bool → RChild → State) : State :=
  match findRed s job tspec with
  | none => lateRed s src job tspec
  | some (i, r) =>
    if !r.opened then lateRed s src job tspec
    else match childSide s r src with
      | none => lateRed s src job tspec
      | some side => match r.child side with
        | some c => if c.missing then lateRed s src job tspec else f i r side c
        | none => lateRed s src job tspec

/-- A chunk of a child (R400, R401). -/
def redData (s : State) (src job tspec len data : Nat) : State :=
  onChild s src job tspec (fun i r side c =>
    let k := tspec % 1024
    if r.chunks ≤ k || len ≠ wireSize r.pfmt * r.chunkElems k then tearRed s i r 3 0 0
    else
      let dup := k < r.next || c.buf.any (fun x => x.1 == k)
      let c1 := { c with seen := true, resent := false, buf := if dup then c.buf else c.buf ++ [(k, data)] }
      redRun (s.putRed i (r.setChild side c1)) i)

/-- A DONE of a child (R401). -/
def redDone (s : State) (src job tspec count : Nat) (roots : List Nat) : State :=
  onChild s src job tspec (fun i r side c =>
    let c1 := { c with seen := true, resent := false, fin := if c.fin.isSome then c.fin else some (count, roots) }
    redRun (s.putRed i (r.setChild side c1)) i)

/-- A TORN of a child (R406). -/
def redTorn (s : State) (src job tspec reason : Nat) : State :=
  onChild s src job tspec (fun i r _ _ => tearRed s i { r with recv := r.recv.absorb ⟨2, 4 + reason * 256⟩ } reason 0 0)

/-- What a child sends again: the chunks that its parent has not acknowledged, and its DONE (R405). -/
def resendRed (s : State) (r : Red) : State :=
  let s1 := r.unacked.foldl (fun (st : State) x => redSend st r r.parent 3 x.1 (wireSize r.pfmt * r.chunkElems x.1) x.2) s
  if r.doneSent then redSend s1 r r.parent 4 0 r.done.len r.done.val else s1

/-- A GRANT of the parent (R398, R401, R405). One that comes before the command is kept for it. -/
def redGrant (s : State) (src job tspec : Nat) (resend : Bool) : State :=
  let k := tspec % 1024
  match findRed s job tspec with
  | none =>
    let a := takeHeld s (fun h => h.kind == 3 && h.job == job && h.src == src && h.tspec / 1024 == tspec / 1024)
    { a.1 with heldCtl := a.1.heldCtl ++ [⟨3, job, src, tspec, 0, false⟩] }
  | some (i, r) =>
    if !fromParent s r src then s
    else
      let r1 := { r with granted := max r.granted (k + 1), unacked := r.unacked.filter (fun x => decide (k < x.1 + 8)) }
      if r1.doneSent && !resend && k + 1 = r1.chunks then closeRed s i r1 false ⟨stOk, 0, 0xFF, r1.flags, r1.count⟩
      else
        let s1 := s.putRed i r1
        redRun (if resend then resendRed s1 r1 else s1) i

/-- A DROP of the parent (R404). One that comes before the command is kept for it. -/
def redDrop (s : State) (src job tspec : Nat) : State :=
  match findRed s job tspec with
  | none => { s with heldCtl := s.heldCtl ++ [⟨4, job, src, tspec, 0, false⟩] }
  | some (i, r) =>
    if !fromParent s r src then s
    else closeRed s i { r with recv := r.recv.absorb ⟨1, 3⟩ } false ⟨stOk, 0, 0xFF, 8 + r.flags, 0⟩

/-- RED_DATA (R400). -/
def execRedData (src job tspec len data : Nat) (s : State) : Host.Outcome State Fault Refusal := .next (redData s src job tspec len data)
/-- GRANT (R398). -/
def execGrant (src job tspec : Nat) (resend : Bool) (s : State) : Host.Outcome State Fault Refusal := .next (redGrant s src job tspec resend)
/-- DONE (R401). -/
def execDone (src job tspec count : Nat) (roots : List Nat) (s : State) : Host.Outcome State Fault Refusal :=
  .next (redDone s src job tspec count roots)
/-- DROP (R404). -/
def execDrop (src job tspec : Nat) (s : State) : Host.Outcome State Fault Refusal := .next (redDrop s src job tspec)
/-- TORN (R406). -/
def execTorn (src job tspec reason : Nat) (s : State) : Host.Outcome State Fault Refusal := .next (redTorn s src job tspec reason)

/-! ### Deadlines (R402 to R407) -/

/-- An open reduction's child that is not missing. -/
def onOpenChild (s : State) (i : Nat) (right : Bool) (f : Red → RChild → State) : State :=
  match Tab.get? s.reds i with
  | some r => match r.child right with
    | some c => if r.opened && !c.missing then f r c else s
    | none => s
  | none => s

/-- A child's deadline passes before its first chunk (R403). -/
def redDeadline (s : State) (i : Nat) (right : Bool) : State :=
  onOpenChild s i right (fun r c =>
    if c.seen || strictMode s r.tenancy then s
    else
      let r1 := { r.setChild right { c with missing := true } with late := true, sent := r.sent.absorb ⟨1, 3⟩ }
      let s1 := (redSend (s.putRed i r1) r c.rank 4 0 1 3).count r.tenancy 0x23 (subtreeSize r.n (posAt r.n r.owner c.rank))
      let d := drawFree s1
      let s2 := writeMissing d.2 r1 false (d.1.toNat % 65536) r1.roots
      redRun (breach s2 r.tenancy 3 1 r.gid r.rank r.step r.rid) i)

/-- RED_DEADLINE_EXPIRY (R403). -/
def execRedDeadlineExpiry (cmd : Nat) (right : Bool) (s : State) : Host.Outcome State Fault Refusal := .next (redDeadline s cmd right)

/-- Whether a child that has begun owes its next chunk or its DONE, and has credit for it. -/
def Red.owes (r : Red) (c : RChild) : Bool :=
  c.seen && c.fin.isNone && (r.next == r.chunks || (decide (r.next < c.grant) && !c.buf.any (fun x => x.1 == r.next)) ||
    (upto r.chunks).all (fun k => decide (k < r.next) || c.buf.any (fun x => x.1 == k)))

/-- RESEND_TIMEOUT (R405, R407): in strict mode the GRANT is repeated, and a child that has sent nothing is silent too. -/
def execResendTimeout (cmd : Nat) (right : Bool) (s : State) : Host.Outcome State Fault Refusal :=
  .next (onOpenChild s cmd right (fun r c =>
    let again := if strictMode s r.tenancy then r.owes c || !c.seen else r.owes c && !c.resent
    if again then grantChild s cmd r right (c.grant - 1) true else s))

/-- TEAR_TIMEOUT (R406): a second deadline passes after a RESEND. -/
def execTearTimeout (cmd : Nat) (right : Bool) (s : State) : Host.Outcome State Fault Refusal :=
  .next (onOpenChild s cmd right (fun r c =>
    if r.owes c && c.resent && !strictMode s r.tenancy then tearRed s cmd r 1 0 0 else s))

/-- GRADIENT_LANDING (R409): the owner's oldest root chunk goes to the landing areas, which have room for it. With the last one
the context closes; the command completes when an UPDATE has taken it. -/
def execGradientLanding (cmd : Nat) (s : State) : Host.Outcome State Fault Refusal :=
  match Tab.get? s.reds cmd, Tab.get? s.cmds cmd with
  | some r, some c =>
    match r.sums with
    | [] => .next s
    | (k, v) :: rest =>
      if r.pos ≠ 0 || !r.doneSent || !r.opened then .next s
      else
        let m := c.slot 1
        let s1 := { s with landing := s.landing ++ [⟨m.space, r.job, m.base + 4096 * k, r.chunkElems k, r.count, cmd, v, 0⟩] }
        let r1 := { r with sums := rest, opened := !rest.isEmpty }
        .next (if rest.isEmpty then (absorbRed s1 r1 false).putRed cmd r1 else s1.putRed cmd r1)
  | _, _ => .next s

end Sys2Proof.Machine
end

