-- ==== Sys2Proof/Machine/Collect.lean ====
section
/-!
DEFINITION. Machine/Collect.lean: broadcasts of new state and the non-finite check (R411 to R414).
-/

namespace Sys2Proof.Machine

/-! ### Broadcasts (R412) -/

/-- The slots that hold a capability, of the four a broadcast may use. -/
def castSlots (c : Cmd) : List Nat := (upto 4).filter (fun n => (c.slotCap n).isCap)

/-- Whether the slots of a broadcast keep the lengths of R389, and it has one. -/
def castLengthsOk (c : Cmd) : Bool :=
  !(castSlots c).isEmpty && (castSlots c).all (fun n => c.slotLen n % 4096 == 0 && c.slotLen n ≤ 4194304 && c.slotLen n != 0)

/-- TSPEC of the packets of a broadcast. -/
def castTspec (c : Cmd) (slot chunk : Nat) : Nat := c.par 140 4 % 4 * 2 ^ 30 + slot * 2 ^ 28 + c.par 136 4 * 2 ^ 10 + chunk

/-- Slots and parameters of CU.BCAST. -/
def cuBcastSpec : BlockSpec := fun s c =>
  let n := c.par 144 1
  match (if 7 < c.par 145 1 then none else groupOf s c.space (c.par 145 1)) with
  | none => .error stRange
  | some g =>
    if 262143 < c.par 136 4 || n = 0 || 8 < n || !(upto n).all (fun k => decide (c.par (146 + 2 * k) 2 < g.nodes.length)) ||
        !c.zeroPar 162 94 || !castLengthsOk c then .error stRange
    else .ok ((castSlots c).map (fun k => { index := k, perms := permLD, len := c.slotLen k, alt := 2 }))

/-- Slots and parameters of CU.BRECV. -/
def cuBrecvSpec : BlockSpec := fun s c =>
  match (if 7 < c.par 145 1 then none else groupOf s c.space (c.par 145 1)) with
  | none => .error stRange
  | some g =>
    if 262143 < c.par 136 4 || g.nodes.length ≤ c.par 146 2 || !c.zeroPar 144 1 || !c.zeroPar 148 108 || !castLengthsOk c then .error stRange
    else .ok ((castSlots c).map (fun k => { index := k, perms := permST, len := c.slotLen k, alt := 2 }))

/-- The node of a rank in a command's group. -/
def castNode (s : State) (c : Cmd) (rank : Nat) : Nat :=
  match groupOf s c.space (c.par 145 1) with
  | some g => g.node rank
  | none => 0xFFFF

/-- The bytes of a broadcast's slots, as they stand in the alternate buffers. -/
def castRead (s : State) (c : Cmd) : State × List (SlotMap × List PByte) :=
  c.slots.foldl (fun (a : State × List (SlotMap × List PByte)) m =>
    let r := engRead a.1 (c.ep a.1) m m.alt 0 m.len
    (r.1, a.2 ++ [(m, r.2)])) (s, [])

/-- The BCAST packets of the slots to one node. -/
def castSend (s : State) (c : Cmd) (node : Nat) (data : List (SlotMap × List PByte)) : State :=
  data.foldl (fun (st : State) d =>
    (upto (d.1.len / 4096)).foldl (fun (st1 : State) k =>
      st1.send node 5 0 (jobOf st1 c.space) 4096 (castTspec c d.1.index k) (bytesVal ((d.2.drop (4096 * k)).take 4096))) st) s

/-- Nodes of the destinations of a CU.BCAST. -/
def castDests (s : State) (c : Cmd) : List Nat := (upto (c.par 144 1)).map (fun k => castNode s c (c.par (146 + 2 * k) 2))

/-- A holder is ready: its destinations are served (R412). aux holds the destinations served, by number. A poisoned source halts
the transfer, and every holder is told. -/
def castReady (s : State) (i : Nat) (c : Cmd) (node : Nat) : State :=
  let dests := castDests s c
  let fresh := (upto dests.length).filter (fun k => dests.getD k 0 == node && !c.aux.contains k)
  if fresh.isEmpty then s
  else
    let r := castRead s c
    match r.2.findSome? (fun d => firstPoison d.1 0 d.2) with
    | some (pa, va) =>
      let s1 := dests.eraseDups.foldl (fun (st : State) n => st.send n 4 0 (jobOf st c.space) 1 (castTspec c 0 0) 8) r.1
      let h := haltCmd s1 i c pa va
      finishWith h.1 i h.2
    | none =>
      let s1 := castSend r.1 c node r.2
      let aux := c.aux ++ fresh
      if aux.length = dests.length then finishWith s1 i (.st stOk) else s1.putCmd i { c with aux := aux }

/-- BREADY packets that came before their CU.BCAST are answered. -/
def castHeld (i : Nat) : Nat → State → State
  | 0, s => s
  | f + 1, s =>
    match Tab.get? s.cmds i with
    | none => s
    | some c =>
      let a := takeHeld s (fun h => h.kind == 2 && h.job == jobOf s c.space && h.tspec == castTspec c 0 0 && (castDests s c).contains h.src)
      match a.2 with
      | none => s
      | some h => castHeld i f (castReady a.1 i c h.src)

/-- The acceptance of a CU.BCAST. -/
def acceptCuBcast (i : Nat) (s : State) : State :=
  afterAccept i (fun s1 _ => castHeld i (s1.heldCtl.length + 1) s1) (acceptBlock cuBcastSpec i s)

/-- CU.BCAST (R412). -/
def execCuBcast (t : Tid) (rd : RIdx) (cs : PIdx) (a : CForm) (s : State) := engineInstr t (cuOp 2 0) rd cs a acceptCuBcast s

/-- A started CU.BRECV tells its owner that it is ready. -/
def startBrecv (s : State) (c : Cmd) : State := s.send (castNode s c (c.par 146 2)) 4 0 (jobOf s c.space) 1 (castTspec c 0 0) 7

/-- The acceptance of a CU.BRECV. -/
def acceptCuBrecv (i : Nat) (s : State) : State := afterAccept i (fun s1 c => startBrecv s1 c) (acceptBlock cuBrecvSpec i s)

/-- CU.BRECV (R412). -/
def execCuBrecv (t : Tid) (rd : RIdx) (cs : PIdx) (a : CForm) (s : State) := engineInstr t (cuOp 3 0) rd cs a acceptCuBrecv s

/-- The live command of an op that a packet of a broadcast is for. -/
def castCmd (s : State) (op job tspec : Nat) (p : Cmd → Bool) : Option (Nat × Cmd) :=
  s.cmds.find? (fun e => e.2.engine == 1 && e.2.op == op && e.2.phase == .started && jobOf s e.2.space == job &&
    e.2.par 136 4 == fld tspec 27 10 && e.2.par 140 4 % 4 == fld tspec 31 30 && p e.2)

/-- A BREADY (R412): one that comes before its CU.BCAST is kept. -/
def castBready (s : State) (src job tspec : Nat) : State :=
  match castCmd s 2 job tspec (fun c => (castDests s c).contains src) with
  | some (i, c) => castReady s i c src
  | none => { s with heldCtl := s.heldCtl ++ [⟨2, job, src, tspec, 0, false⟩] }

/-- A BABORT (R412). -/
def castAbort (s : State) (src job tspec : Nat) : State :=
  match castCmd s 3 job tspec (fun c => castNode s c (c.par 146 2) == src) with
  | some (i, _) => finishWith s i (.st stAborted)
  | none => s

/-- A BCAST chunk (R412): written to the holder's alternate buffer. aux holds the chunks that have arrived, as 1,024 × slot +
chunk. A chunk outside the slots is a mismatch. -/
def castData (s : State) (src job tspec len data : Nat) : State :=
  match castCmd s 3 job tspec (fun c => castNode s c (c.par 146 2) == src) with
  | none => s
  | some (i, c) =>
    let slot := fld tspec 29 28
    let k := tspec % 1024
    match c.slots.find? (fun m => m.index == slot) with
    | none => finishWith s i (.st stAborted)
    | some m =>
      if len ≠ 4096 || m.len < 4096 * k + 4096 then finishWith s i (.st stAborted)
      else
        let key := 1024 * slot + k
        let s1 := engWrite s m m.alt (4096 * k) (bytesWith 4096 data 0)
        let aux := if c.aux.contains key then c.aux else c.aux ++ [key]
        if aux.length = c.slots.foldl (fun (a : Nat) x => a + x.len / 4096) 0 then finishWith s1 i (.st stOk)
        else s1.putCmd i { c with aux := aux }

/-- BREADY (R412). -/
def execBready (src job tspec : Nat) (s : State) : Host.Outcome State Fault Refusal := .next (castBready s src job tspec)
/-- BABORT (R412). -/
def execBabort (src job tspec : Nat) (s : State) : Host.Outcome State Fault Refusal := .next (castAbort s src job tspec)
/-- BCAST (R412). -/
def execBcast (src job tspec len data : Nat) (s : State) : Host.Outcome State Fault Refusal := .next (castData s src job tspec len data)

/-! ### The non-finite check (R413, R414) -/

/-- Parameters of CU.CHECK (R389): EPOCH is a live, open epoch of the tenancy. -/
def cuCheckSpec : BlockSpec := fun s c =>
  let live := match liveEpoch s (handleOf (BitVec.ofNat 64 (c.par 144 8))) with
    | some e => e.1 / 64 == c.tenancy.val && !c.dev && e.2.state == .opened
    | none => false
  if 7 < c.par 136 1 || (groupOf s c.space (c.par 136 1)).isNone || !live || !c.zeroPar 137 3 || !c.zeroPar 152 104 then .error stRange
  else .ok []

/-- A check replaced. -/
def State.putCheck (s : State) (i : Nat) (k : Check) : State := { s with checks := Tab.put s.checks i k }

/-- TSPEC of VOTE and RESULT. -/
def Check.tspec (k : Check) : Nat := k.step % 4 * 2 ^ 30 + k.gid * 2 ^ 27

/-- A control packet of a check to a rank. -/
def checkSend (s : State) (k : Check) (rank type total : Nat) (flag : Bool) : State :=
  match groupOf s k.tenancy k.gid with
  | some g => s.send (g.node rank) 4 0 (jobOf s k.tenancy) 8 k.tspec (type + b2n flag * 256 + total % 2 ^ 32 * 256 ^ 4)
  | none => s

/-- The epoch a check resolves, while it is open. -/
def checkEpoch (s : State) (k : Check) : Option (Nat × Epoch) :=
  match liveEpoch s (handleOf k.epoch) with
  | some e => if e.2.state = .opened then some e else none
  | none => none

/-- The result of a check (R414): it is passed on, the command completes, and its epoch is resolved; one that software has
resolved is left as it is. -/
def checkResult (s : State) (i : Nat) (k : Check) (total : Nat) (flag : Bool) : State :=
  let s1 := [k.left, k.right].foldl (fun (st : State) c => match c with
    | some v => checkSend st k v.rank 6 total flag
    | none => st) { s with checks := Tab.del s.checks i }
  match checkEpoch s1 k with
  | none => finishWith s1 i (.st stStateConflict)
  | some (key, e) =>
    let s2 := finishWith s1 i ⟨stOk, 0, 0xFF, 2 * b2n flag, total⟩
    let s3 := if flag then { s2 with epochs := Tab.put s2.epochs key { e with torn := true } } else s2
    resolveStep s3 key (total = 0 && !flag)

/-- The sum of two votes, saturated (R413, R414). -/
def addVotes (a b : Nat) : Nat := min (2 ^ 32 - 1) (a + b)

/-- Whether a child's part of the check is known. -/
def VChild.known (v : VChild) : Bool := v.missing || v.vote.isSome

/-- A check goes on once its own vote is taken and its children's are known (R414). -/
def checkGo (s : State) (i : Nat) : State :=
  match Tab.get? s.checks i with
  | none => s
  | some k =>
    match k.own with
    | none => s
    | some own =>
      let kids := k.left.toList ++ k.right.toList
      if k.sent || !kids.all (fun v => v.known) then s
      else
        let votes := kids.map (fun v => if v.missing then (0, true) else v.vote.getD (0, false))
        let total := votes.foldl (fun (a : Nat) v => addVotes a v.1) own
        let flag := votes.any (fun v => v.2)
        match groupOf s k.tenancy k.gid with
        | none => s
        | some g =>
          if g.rank = 0 then checkResult s i k total flag
          else checkSend (s.putCheck i { k with sent := true }) k ((g.rank - 1) / 2) 5 total flag

/-- The check that a VOTE or a RESULT of a job is for. -/
def findCheck (s : State) (job tspec : Nat) : Option (Nat × Check) :=
  s.checks.find? (fun e => jobOf s e.2.tenancy == job && e.2.gid == fld tspec 29 27 && e.2.step % 4 == fld tspec 31 30)

/-- A child's vote taken into a check. -/
def putVote (k : Check) (rank total : Nat) (flag : Bool) : Check :=
  let set (v : VChild) : VChild := if v.rank = rank && !v.missing && v.vote.isNone then { v with vote := some (total, flag) } else v
  { k with left := k.left.map set, right := k.right.map set }

/-- The votes that came before the node's own are taken. -/
def heldVotes (i : Nat) : Nat → State → State
  | 0, s => s
  | f + 1, s =>
    match Tab.get? s.checks i with
    | none => s
    | some k =>
      let a := takeHeld s (fun h => h.kind == 0 && h.job == jobOf s k.tenancy && h.tspec / 2 ^ 27 == k.tspec / 2 ^ 27)
      match a.2 with
      | none => s
      | some h =>
        match (groupOf s k.tenancy k.gid).bind (fun g => g.rankOf h.src) with
        | some rank => heldVotes i f (a.1.putCheck i (putVote k rank h.total h.flag))
        | none => heldVotes i f a.1

/-- A started CU.CHECK. A RESULT that came before it takes effect at once. -/
def startCheck (s : State) (i : Nat) (c : Cmd) : State :=
  match groupOf s c.space (c.par 136 1) with
  | none => s
  | some g =>
    let n := g.nodes.length
    let kid (right : Bool) : Option VChild := (childRank n 0 g.rank right).map (fun r => ⟨r, none, false⟩)
    let k : Check :=
      { tenancy := c.space, gid := c.par 136 1, step := c.par 140 4, epoch := BitVec.ofNat 64 (c.par 144 8), own := none,
        left := kid false, right := kid true, sent := false }
    let a := takeHeld s (fun h => h.kind == 1 && h.job == jobOf s c.space && h.tspec / 2 ^ 27 == k.tspec / 2 ^ 27)
    match a.2 with
    | some h => checkResult a.1 i k h.total h.flag
    | none => s.putCheck i k

/-- The acceptance of a CU.CHECK. -/
def acceptCuCheck (i : Nat) (s : State) : State := afterAccept i (fun s1 c => startCheck s1 i c) (acceptBlock cuCheckSpec i s)

/-- CU.CHECK (R413). -/
def execCuCheck (t : Tid) (rd : RIdx) (cs : PIdx) (a : CForm) (s : State) := engineInstr t (cuOp 4 0) rd cs a acceptCuCheck s

/-- The live commands of the epoch a check resolves: Bellows and collective ones beside checks. -/
def epochCmds (s : State) (key : Nat) : List (Nat × Cmd) :=
  s.cmds.filter (fun e => e.2.engine ≤ 1 && !(e.2.engine == 1 && e.2.op == 4) && !e.2.dev && e.2.tenancy.val == key / 64 &&
    e.2.epoch == some (key % 64))

/-- The module's own vote (R413), when it can be taken; expired: the wait for broadcasts is over. -/
def voteTaken (s : State) (i : Nat) (expired : Bool) : State :=
  match Tab.get? s.checks i with
  | none => s
  | some k =>
    if k.own.isSome then s
    else
      let h := handleOf k.epoch
      let key := 64 * h.tenancy + h.index
      let live := epochCmds s key
      let late := live.filter (fun e => e.2.engine == 1 && e.2.op == 3)
      if live.length ≠ late.length || (!late.isEmpty && (!expired || strictMode s k.tenancy)) then s
      else
        let own := addVotes (match Tab.get? s.epochs key with | some e => e.vote | none => 0) late.length
        let rank := match groupOf s k.tenancy k.gid with | some g => g.rank | none => 0
        let s1 := late.foldl (fun (st : State) e => breach st k.tenancy 3 3 k.gid rank k.step (e.2.par 136 4)) s
        let s2 := s1.putCheck i { k with own := some own }
        checkGo (heldVotes i (s2.heldCtl.length + 1) s2) i

/-- VOTE_TAKEN (R413). -/
def execVoteTaken (cmd : Nat) (expired : Bool) (s : State) : Host.Outcome State Fault Refusal := .next (voteTaken s cmd expired)

/-- A VOTE (R414): held until the node's own vote is taken. -/
def checkVote (s : State) (src job tspec total : Nat) (flag : Bool) : State :=
  let held := { s with heldCtl := s.heldCtl ++ [⟨0, job, src, tspec, total, flag⟩] }
  match findCheck s job tspec with
  | none => held
  | some (i, k) =>
    if k.own.isNone then held
    else match (groupOf s k.tenancy k.gid).bind (fun g => g.rankOf src) with
      | some rank => checkGo (s.putCheck i (putVote k rank total flag)) i
      | none => s

/-- A RESULT (R414): held until the CU.CHECK that it is for. -/
def checkFinal (s : State) (src job tspec total : Nat) (flag : Bool) : State :=
  match findCheck s job tspec with
  | none => { s with heldCtl := s.heldCtl ++ [⟨1, job, src, tspec, total, flag⟩] }
  | some (i, k) =>
    match groupOf s k.tenancy k.gid with
    | some g => if g.rank ≠ 0 && g.node ((g.rank - 1) / 2) = src then checkResult s i k total flag else s
    | none => s

/-- VOTE (R414). -/
def execVote (src job tspec total : Nat) (flag : Bool) (s : State) : Host.Outcome State Fault Refusal := .next (checkVote s src job tspec total flag)
/-- RESULT (R414). -/
def execResult (src job tspec total : Nat) (flag : Bool) (s : State) : Host.Outcome State Fault Refusal := .next (checkFinal s src job tspec total flag)

/-- VOTE_DEADLINE (R414): a child's VOTE has not arrived. -/
def execVoteDeadline (cmd : Nat) (right : Bool) (s : State) : Host.Outcome State Fault Refusal :=
  match Tab.get? s.checks cmd with
  | none => .next s
  | some k =>
    match (if right then k.right else k.left) with
    | none => .next s
    | some v =>
      if k.own.isNone || v.known || strictMode s k.tenancy then .next s
      else
        let v1 : VChild := { v with missing := true }
        let k1 := if right then { k with right := some v1 } else { k with left := some v1 }
        let rank := match groupOf s k.tenancy k.gid with | some g => g.rank | none => 0
        .next (checkGo (breach (s.putCheck cmd k1) k.tenancy 3 2 k.gid rank k.step 0) cmd)

end Sys2Proof.Machine
end

