-- ==== Sys2Proof/Machine/FloatOps.lean ====
section
/-!
DEFINITION. Machine/FloatOps.lean: the FP64 instructions of majors 0x10, 0x11 and 0x12 and the FP64 comparisons (R41, R42).
No floating-point condition raises an exception.
-/

namespace Sys2Proof.Machine

/-- A two-source FP64 operation on codes, with its mode. -/
def fltOp (f : Nat → Nat → Nat) (a b : Reg) : Reg := .flt (f a.val.toNat b.val.toNat)

/-- FADD (R41). -/
def execFadd (t : Tid) (rd rs1 rs2 : RIdx) (mode : RMode) (s : State) :=
  simple t (binary t rd rs1 rs2 .fp (fltOp (fAdd fp64 mode))) s
/-- FSUB (R41). -/
def execFsub (t : Tid) (rd rs1 rs2 : RIdx) (mode : RMode) (s : State) :=
  simple t (binary t rd rs1 rs2 .fp (fltOp (fSub fp64 mode))) s
/-- FMUL (R41). -/
def execFmul (t : Tid) (rd rs1 rs2 : RIdx) (mode : RMode) (s : State) :=
  simple t (binary t rd rs1 rs2 .fp (fltOp (fMul fp64 mode))) s
/-- FDIV (R41). -/
def execFdiv (t : Tid) (rd rs1 rs2 : RIdx) (mode : RMode) (s : State) :=
  simple t (binary t rd rs1 rs2 .fp (fltOp (fDiv fp64 mode))) s
/-- FSQRT (R41). -/
def execFsqrt (t : Tid) (rd rs1 : RIdx) (mode : RMode) (s : State) :=
  simple t (unary t rd rs1 .fp (fun a => .flt (fSqrt fp64 mode a.val.toNat))) s
/-- FMIN: a NaN operand gives NaN, −0 orders below +0 (R41). -/
def execFmin (t : Tid) (rd rs1 rs2 : RIdx) (s : State) := simple t (binary t rd rs1 rs2 .fp (fltOp (fMin fp64))) s
/-- FMAX (R41). -/
def execFmax (t : Tid) (rd rs1 rs2 : RIdx) (s : State) := simple t (binary t rd rs1 rs2 .fp (fltOp (fMax fp64))) s

/-- A sign operation: exact, and a NaN gives the canonical NaN, as every NaN result is (R41). -/
def signOp (f : Num → Num) (a : Reg) : Reg := .flt (encodeF fp64 .rne (f (decodeF fp64 a.val.toNat)))

/-- The absolute value. -/
def Num.abs : Num → Num
  | .nan => .nan
  | .inf _ => .inf false
  | .fin _ m e => .fin false m e

/-- FABS (R41). -/
def execFabs (t : Tid) (rd rs1 : RIdx) (s : State) := simple t (unary t rd rs1 .fp (signOp Num.abs)) s
/-- FNEG (R41). -/
def execFneg (t : Tid) (rd rs1 : RIdx) (s : State) := simple t (unary t rd rs1 .fp (signOp Num.neg)) s

/-- A fused multiply-add with exact negations of the product and of the addend (R41). -/
def fmaOp (mode : RMode) (negP negC : Bool) (a b c : Reg) : Reg :=
  .flt (fFma fp64 mode negP negC a.val.toNat b.val.toNat c.val.toNat)

/-- FMADD (R41). -/
def execFmadd (t : Tid) (rd rs1 rs2 rs3 : RIdx) (mode : RMode) (s : State) :=
  simple t (ternary t rd rs1 rs2 rs3 .fp (fmaOp mode false false)) s
/-- FMSUB (R41). -/
def execFmsub (t : Tid) (rd rs1 rs2 rs3 : RIdx) (mode : RMode) (s : State) :=
  simple t (ternary t rd rs1 rs2 rs3 .fp (fmaOp mode false true)) s
/-- FNMADD (R41). -/
def execFnmadd (t : Tid) (rd rs1 rs2 rs3 : RIdx) (mode : RMode) (s : State) :=
  simple t (ternary t rd rs1 rs2 rs3 .fp (fmaOp mode true true)) s
/-- FNMSUB (R41). -/
def execFnmsub (t : Tid) (rd rs1 rs2 rs3 : RIdx) (mode : RMode) (s : State) :=
  simple t (ternary t rd rs1 rs2 rs3 .fp (fmaOp mode true false)) s

/-- I2F (R41). -/
def execI2f (t : Tid) (rd rs1 : RIdx) (mode : RMode) (s : State) :=
  simple t (unary t rd rs1 .int (fun a => .flt (encodeF fp64 mode (intNum a.val.toInt)))) s
/-- U2F (R41). -/
def execU2f (t : Tid) (rd rs1 : RIdx) (mode : RMode) (s : State) :=
  simple t (unary t rd rs1 .int (fun a => .flt (encodeF fp64 mode (intNum a.val.toNat)))) s
/-- F2I: saturating, NaN gives 0 (R41). -/
def execF2i (t : Tid) (rd rs1 : RIdx) (mode : RMode) (s : State) :=
  simple t (unary t rd rs1 .fp (fun a => .int (ofInt64 (fToInt fp64 mode (-2 ^ 63) (2 ^ 63 - 1) a.val.toNat)))) s
/-- F2U (R41). -/
def execF2u (t : Tid) (rd rs1 : RIdx) (mode : RMode) (s : State) :=
  simple t (unary t rd rs1 .fp (fun a => .int (ofInt64 (fToInt fp64 mode 0 (2 ^ 64 - 1) a.val.toNat)))) s
/-- F2S: FP32 bits in [31:0], tagged INT (R41). -/
def execF2s (t : Tid) (rd rs1 : RIdx) (mode : RMode) (s : State) :=
  simple t (unary t rd rs1 .fp (fun a => .int (BitVec.ofNat 64 (fCvt fp64 fp32 mode a.val.toNat)))) s
/-- S2F (R41). -/
def execS2f (t : Tid) (rd rs1 : RIdx) (mode : RMode) (s : State) :=
  simple t (unary t rd rs1 .int (fun a => .flt (fCvt fp32 fp64 mode (a.val.toNat % 2 ^ 32)))) s

/-- CMP.FEQ: any NaN gives 0 (R42). -/
def execCmpFeq (t : Tid) (rd rs1 rs2 : RIdx) (s : State) :=
  simple t (binary t rd rs1 rs2 .fp (fun a b => .bool (fEq fp64 a.val.toNat b.val.toNat))) s
/-- CMP.FLT (R42). -/
def execCmpFlt (t : Tid) (rd rs1 rs2 : RIdx) (s : State) :=
  simple t (binary t rd rs1 rs2 .fp (fun a b => .bool (fLt fp64 a.val.toNat b.val.toNat))) s
/-- CMP.FLE (R42). -/
def execCmpFle (t : Tid) (rd rs1 rs2 : RIdx) (s : State) :=
  simple t (binary t rd rs1 rs2 .fp
    (fun a b => .bool (fLt fp64 a.val.toNat b.val.toNat || fEq fp64 a.val.toNat b.val.toNat))) s
/-- CMP.FUN: any NaN gives 1 (R42). -/
def execCmpFun (t : Tid) (rd rs1 rs2 : RIdx) (s : State) :=
  simple t (binary t rd rs1 rs2 .fp (fun a b => .bool (fUn fp64 a.val.toNat b.val.toNat))) s

end Sys2Proof.Machine
end

