-- ==== Sys2Proof/Machine/Security.lean ====
section
/-!
DEFINITION. Machine/Security.lean: key epochs, bundles, attestation, the scrub, and the life of a tenancy (R471 to R502).
-/

namespace Sys2Proof.Machine

/-! ### Key epochs (R477 to R481) -/

/-- A space's epoch counter rises by one; the Stop shows it (R477, R479). -/
def advanceKey (s : State) (n : Fin 17) : State :=
  let p := s.sp n
  let k := (p.keyEpoch + 1) % 2 ^ 32
  let s1 := s.setSp n { p with keyEpoch := k }
  if n.val = 16 then s1.setDev 0x8004 0 k else s1.setTen n.val 0xC080 0 k

/-- Pages whose data is under a key of an earlier epoch: what a sweep has to take (R346). -/
def stalePages (s : State) (n : Fin 17) : Nat :=
  ((leavesOf s n).filter (fun l => l.entry % 8 == 2 && staleKey s n l.entry)).length +
    (s.shadows.filter (fun x => x.space == n.val && x.filled && x.keyEpoch != (s.sp n).keyEpoch % 4)).length

/-- A rotation of a tenancy's key (R346, R479, R480). -/
def rotateKey (s : State) (ten : Nat) : Except Nat State :=
  let n := spaceOf ten
  if s.ten ten 0xC050 1 ≠ 0 || s.tstate ten = tsAbsent || s.tstate ten = tsScrubbing then .error stStateConflict
  else
    let s1 := advanceKey s n
    let left := stalePages s1 n
    if left = 0 then .ok (s1.post ten 6 (s1.ten ten 0xC080 0))
    else .ok ((s1.setSp n { s1.sp n with sweeping := true }).setTen ten 0xC050 1 left)

/-- A write of KEY_ROTATE (R479, R480, R502). -/
def writeKeyRotate (s : State) (ten v : Nat) : Except Nat State := if v = 1 then rotateKey s ten else .error stRange

/-- KEY_ROTATE (R480). -/
def execKeyRotate (ten : Fin 16) (v : BitVec 8) (s : State) : Host.Outcome State Fault Refusal :=
  orSame s (writeKeyRotate s ten.val v.toNat)

/-! ### Bundles (R487 to R490) -/

/-- A bundle header: the fields before the members, and what follows them (R487). -/
structure BundleHead where
  blob : Blob
  members : Nat

/-- The header of a byte string. -/
def bundleHead (b : Blob) : BundleHead := ⟨b, b.field 36 4⟩
/-- Bytes before SIGLEN: the signed bytes. -/
def BundleHead.signedLen (h : BundleHead) : Nat := 2056 + 1168 * h.members
/-- VERSION. -/
def BundleHead.version (h : BundleHead) : Nat := h.blob.field 4 4
/-- BUNDLE_ID. -/
def BundleHead.ident (h : BundleHead) : Nat := h.blob.field 8 16
/-- PAYLOAD_BYTES. -/
def BundleHead.bytes (h : BundleHead) : Nat := h.blob.field 24 8
/-- CHUNKS. -/
def BundleHead.chunks (h : BundleHead) : Nat := h.blob.field 32 4
/-- Member k: KEM_DIGEST. -/
def BundleHead.digest (h : BundleHead) (k : Nat) : Nat := h.blob.field (2056 + 1168 * k) 32

/-- A byte string as a number that keeps its order, compared from byte 0. -/
def byteOrder (n v : Nat) : Nat := ofBe (leBytes n v)

/-- Check 1 of R489: lengths, FORMAT, SIGLEN, reserved bytes and the order of the entries. -/
def BundleHead.formed (h : BundleHead) : Bool :=
  let n := h.members
  h.blob.len == 1168 * n + 5369 && h.blob.field 0 4 == 1 && n != 0 && decide (n ≤ 16384) &&
    h.chunks == ceilDiv h.bytes 1048576 && h.blob.field h.signedLen 2 == 3309 && h.blob.field (h.signedLen + 2) 2 == 0 &&
    (upto (n - 1)).all (fun k => decide (byteOrder 32 (h.digest k) < byteOrder 32 (h.digest (k + 1))))

/-- The seeds d and z of the module KEM key (R472). -/
def kemSeed : Nat := shake256 40 (asciiNum "OZ4KEMK0" + Config.deviceSecret.toNat * 256 ^ 8) 64

/-- K_b from the module's own entry, none where a tag or the decapsulation fails (R487, check 6 of R489). -/
def unwrapKey (h : BundleHead) (k : Nat) : Option Nat :=
  let at_ := 2056 + 1168 * k
  match Config.mlkemDecaps kemSeed (h.blob.field (at_ + 32) 1088) with
  | none => none
  | some ss =>
    let m := asciiNum "OZ4BKEK0" + ss % 256 ^ 32 * 256 ^ 8 + h.ident * 256 ^ 40 + h.version * 256 ^ 56
    let kek := leBytes 32 (shake256 60 m 32)
    let w := h.blob.field (at_ + 1120) 48
    (gcmOpen kek (List.replicate 12 0) (leBytes 16 h.ident) (leBytes 32 w) (leBytes 16 (w / 256 ^ 32))).map ofLe

/-- The bundles of a tenancy that its entries would name, with one more: those kept, those open, and the new one (R492). -/
def bundleCount (s : State) (ten ident : Nat) : Nat :=
  ((s.tenant ten).bundles.map (fun b => b.ident) ++ (s.keySlots.filter (fun e => e.2.tenancy == ten)).map (fun e => e.2.ident) ++
    [ident]).eraseDups.length

/-- SF.BOPEN on a header (R489): the key slot, or the status of the first check that fails. -/
def openBundle (s : State) (ten : Nat) (b : Blob) : Except Nat (State × Nat) :=
  let h := bundleHead b
  let x := s.tenant ten
  let pk := b.field 104 1952
  if !h.formed then .error stRange
  else if shake256 1952 pk 64 ≠ s.ten ten 0xC080 2 then .error stNoCapability
  else if !Config.mldsaVerify pk "OZ4-BUNDLE" h.signedLen (b.field 0 h.signedLen) (b.field (h.signedLen + 4) 3309) then .error stBadDigest
  else if h.version < Tab.getD x.versions h.ident 0 then .error stStateConflict
  else match findIdx? (fun k => h.digest k == s.dev 0x8001 1) (upto h.members) 0 with
    | none => .error stNotInSet
    | some k => match unwrapKey h k with
      | none => .error stBadDigest
      | some key =>
        let slot := Tab.lowestFree s.keySlots
        if 64 ≤ slot || 21 < bundleCount s ten h.ident then .error stExhausted
        else
          let ks : KeySlot :=
            { tenancy := ten, key := key, version := h.version, ident := h.ident, bytes := h.bytes, chunks := h.chunks,
              payload := b.field 40 64, digest := shake256 h.signedLen (b.field 0 h.signedLen) 64, order := x.opened, tags := [] }
          let x1 := { x with opened := x.opened + 1, versions := Tab.put x.versions h.ident h.version }
          .ok ({ s with keySlots := Tab.put s.keySlots slot ks }.setTenant ten x1, slot)

/-- Plaintext bytes of a chunk (R488). -/
def KeySlot.chunkLen (k : KeySlot) (c : Nat) : Nat := min 1048576 (k.bytes - 1048576 * c)

/-- The plaintext of a chunk, none where its tag does not verify (R488, R490). -/
def openChunk (k : KeySlot) (c : Nat) (cipher : Nat) : Option (List Nat) :=
  let n := k.chunkLen c
  gcmOpen (leBytes 32 k.key) (leBytes 12 (c + k.version * 256 ^ 4)) (leBytes 16 k.ident) (leBytes n cipher) (leBytes 16 (cipher / 256 ^ n))

/-- A chunk's tag joins those its slot has verified. -/
def verifyChunk (s : State) (slot : Nat) (k : KeySlot) (c cipher : Nat) : State :=
  { s with keySlots := Tab.put s.keySlots slot { k with tags := Tab.put k.tags c (cipher / 256 ^ k.chunkLen c % 256 ^ 16) } }

/-- A bundle in its place by the order of opening. -/
def insertBundle (b : Bundle) : List Bundle → List Bundle
  | [] => [b]
  | x :: xs => if b.order < x.order then b :: x :: xs else x :: insertBundle b xs

/-- SF.BCLOSE on a slot (R490). -/
def closeBundle (s : State) (slot : Nat) (k : KeySlot) : State × Nat :=
  let s1 := { s with keySlots := Tab.del s.keySlots slot }
  let all := packRecords 16 ((upto k.chunks).map (fun c => Tab.getD k.tags c 0))
  if shake256 (16 * k.chunks) all 64 ≠ k.payload then (s1, stBadDigest)
  else
    let x := s1.tenant k.tenancy
    let kept := x.bundles.filter (fun b => !(b.ident == k.ident && decide (b.version ≤ k.version)))
    (s1.setTenant k.tenancy { x with bundles := insertBundle ⟨k.order, k.version, k.ident, k.digest⟩ kept }, stOk)

/-- A Saffron instruction (R494). -/
def sfOp (cmd : Nat) : EngineOp := { engine := 3, op := cmd, perms := permENG + permLD + permLDCAP }

/-- The slots of a Saffron command: only a DEV capability drives Saffron (R494). -/
def sfSpec (ok : State → Cmd → Bool) (needs : State → Cmd → Except Nat (List SlotNeed)) : BlockSpec := fun s c =>
  if !c.cs.toCap.dev then .error stNoCapability
  else if !ok s c then .error stRange
  else needs s c

/-- A Saffron command completes when it is done. -/
def sfAccept (spec : BlockSpec) (run : State → Nat → Cmd → State × CmdResult) (i : Nat) (s : State) : State :=
  afterAccept i (fun s1 c => let r := run s1 i c; finishWith r.1 i r.2) (acceptBlock spec i s)

/-- A parameter that names a tenancy, and nothing else in the block. -/
def sfTenancy (c : Cmd) : Bool := decide (c.par 136 1 < 16) && c.zeroPar 137 119

/-- SF.BOPEN: its slots. -/
def sfBopenSpec : BlockSpec := sfSpec (fun _ c => sfTenancy c) (fun _ c => .ok [{ index := 0, perms := permLD, len := c.slotLen 0 }])

/-- The outcome of SF.BOPEN. -/
def sfBopen (s : State) (i : Nat) (c : Cmd) : State × CmdResult :=
  let m := c.slot 0
  let r := engRead s (c.ep s) m false 0 m.len
  if bytesPoison r.2 then haltCmd r.1 i c 0 m.base
  else match openBundle r.1 (c.par 136 1) ⟨m.len, bytesVal r.2⟩ with
    | .error st => (r.1, .st st)
    | .ok (s1, slot) => (s1, { CmdResult.zero with count := slot })

/-- SF.BOPEN (R489). -/
def execSfBopen (t : Tid) (rd : RIdx) (cs : PIdx) (a : CForm) (s : State) := engineInstr t (sfOp 0) rd cs a (sfAccept sfBopenSpec sfBopen) s

/-- SF.BCHUNK: its slots. A key slot that is not in use, or a chunk the bundle does not have, is outside what it accepts. -/
def sfBchunkSpec : BlockSpec := sfSpec (fun s c => (Tab.get? s.keySlots (c.par 136 1)).isSome && c.zeroPar 137 3 && c.zeroPar 144 112)
  (fun s c => match Tab.get? s.keySlots (c.par 136 1) with
    | none => .error stRange
    | some k =>
      if k.chunks ≤ c.par 140 4 then .error stRange
      else
        let n := k.chunkLen (c.par 140 4)
        .ok [{ index := 0, perms := permLD, len := n + 16 }, { index := 1, perms := permST, len := n }])

/-- The outcome of SF.BCHUNK (R490): a chunk is written only when its tag verifies. -/
def sfBchunk (s : State) (i : Nat) (c : Cmd) : State × CmdResult :=
  let slot := c.par 136 1
  match Tab.get? s.keySlots slot with
  | none => (s, .st stRange)
  | some k =>
    if (c.slot 1).space ≠ k.tenancy then (s, { CmdResult.st stNoCapability with slot := 1 })
    else
      let m := c.slot 0
      let r := engRead s (c.ep s) m false 0 m.len
      if bytesPoison r.2 then haltCmd r.1 i c 0 m.base
      else match openChunk k (c.par 140 4) (bytesVal r.2) with
        | none => (r.1, .st stBadDigest)
        | some plain =>
          let s1 := engWrite r.1 (c.slot 1) false 0 (plain.map (fun b => (b, false)))
          (verifyChunk s1 slot k (c.par 140 4) (bytesVal r.2), .zero)

/-- SF.BCHUNK (R490). -/
def execSfBchunk (t : Tid) (rd : RIdx) (cs : PIdx) (a : CForm) (s : State) := engineInstr t (sfOp 1) rd cs a (sfAccept sfBchunkSpec sfBchunk) s

/-- SF.BCLOSE: it has no slots. -/
def sfBcloseSpec : BlockSpec := sfSpec (fun s c => (Tab.get? s.keySlots (c.par 136 1)).isSome && c.zeroPar 137 119) (fun _ _ => .ok [])

/-- The outcome of SF.BCLOSE. -/
def sfBclose (s : State) (_ : Nat) (c : Cmd) : State × CmdResult :=
  match Tab.get? s.keySlots (c.par 136 1) with
  | none => (s, .st stRange)
  | some k => let r := closeBundle s (c.par 136 1) k; (r.1, .st r.2)

/-- SF.BCLOSE (R490). -/
def execSfBclose (t : Tid) (rd : RIdx) (cs : PIdx) (a : CForm) (s : State) := engineInstr t (sfOp 2) rd cs a (sfAccept sfBcloseSpec sfBclose) s

/-! ### Attestation (R491 to R493) -/

/-- A measurement entry of 72 bytes. -/
def measure (kind index svn digest : Nat) : Nat := kind + index % 256 * 256 + svn % 2 ^ 32 * 256 ^ 4 + digest * 256 ^ 8

/-- The entries of a report in order (R492). -/
def measurements (s : State) (ten : Nat) : List Nat :=
  let fw := (upto 3).map (fun k => measure (k + 1) 0 (Config.fwSvn k).toNat (Config.fwDigest k).toNat)
  if 16 ≤ ten then fw
  else
    let x := s.tenant ten
    fw ++ x.programs.map (fun p => measure 0x10 p.1 0 p.2) ++ x.bundles.map (fun b => measure 0x20 b.order b.version b.digest)

/-- Whether a cache is disabled. -/
def cacheDisabled (s : State) : Bool := (upto 4).any (fun k => s.dev 0xF030 (k + 1) != 0)

/-- The attestation report for a nonce and a tenancy, 0xFF for the device alone (R491). -/
def attestReport (s : State) (nonce ten : Nat) : Blob × State :=
  let es := measurements s ten
  let n := es.length
  let t := decide (ten < 16)
  let flags := b2n (s.dev 0x6004 0 == 1) + 2 * b2n (cacheDisabled s) + 4 * b2n (t && s.ten ten 0xC020 5 == 1)
  let v := 1 + (144 + 72 * n) * 256 ^ 4 + ten * 256 ^ 8 + (if t then s.tstate ten % 256 else 0xFF) * 256 ^ 9 + s.dstate % 256 * 256 ^ 10 +
    n * 256 ^ 11 + flags * 256 ^ 12 + s.dev 0x1002 0 % 256 ^ 16 * 256 ^ 16 + s.dev 0x1010 0 % 256 ^ 8 * 256 ^ 32 + nonce % 256 ^ 32 * 256 ^ 40 +
    shake256 1952 idPublic 64 * 256 ^ 72 + (if t then s.ten ten 0xC080 0 % 2 ^ 32 else 0) * 256 ^ 136 +
    (if t then s.ten ten 0xC080 3 % 2 ^ 16 else 0xFFFF) * 256 ^ 140 + packRecords 72 es * 256 ^ 144
  let body : Blob := ⟨144 + 72 * n, v⟩
  let sig := signId "OZ4-ATTEST" body s
  (body.append ⟨3313, 3309 + sig.1 % 256 ^ 3309 * 256 ^ 4⟩, sig.2)

/-- Whether 64 bytes are an attestation request (R491). -/
def attestAsk (v : Nat) : Bool :=
  let ten := v / 256 ^ 32 % 256
  (decide (ten < 16) || ten == 0xFF) && v / 256 ^ 33 == 0

/-- SF.ATTEST: its slots. -/
def sfAttestSpec : BlockSpec := sfSpec (fun _ c => c.zeroPar 136 120)
  (fun _ _ => .ok [{ index := 0, perms := permLD, len := 64 }, { index := 1, perms := permST, len := 5761 }])

/-- The outcome of SF.ATTEST. -/
def sfAttest (s : State) (i : Nat) (c : Cmd) : State × CmdResult :=
  let r := engRead s (c.ep s) (c.slot 0) false 0 64
  let v := bytesVal r.2
  if bytesPoison r.2 then haltCmd r.1 i c 0 (c.slot 0).base
  else if !attestAsk v then (r.1, .st stRange)
  else
    let a := attestReport r.1 (v % 256 ^ 32) (v / 256 ^ 32 % 256)
    (engWrite a.2 (c.slot 1) false 0 (mkBytes a.1.len a.1.val false), { CmdResult.zero with count := a.1.len })

/-- SF.ATTEST (R491). -/
def execSfAttest (t : Tid) (rd : RIdx) (cs : PIdx) (a : CForm) (s : State) := engineInstr t (sfOp 3) rd cs a (sfAccept sfAttestSpec sfAttest) s

/-- SF.ROTATE and SF.ERASE name a tenancy and have no slots. -/
def sfTenSpec : BlockSpec := sfSpec (fun _ c => sfTenancy c) (fun _ _ => .ok [])

/-- The outcome of SF.ROTATE (R479, R480). -/
def sfRotate (s : State) (_ : Nat) (c : Cmd) : State × CmdResult :=
  match rotateKey s (c.par 136 1) with
  | .error st => (s, .st st)
  | .ok s1 => (s1, { CmdResult.zero with count := s1.ten (c.par 136 1) 0xC080 0 })

/-- SF.ROTATE (R479). -/
def execSfRotate (t : Tid) (rd : RIdx) (cs : PIdx) (a : CForm) (s : State) := engineInstr t (sfOp 4) rd cs a (sfAccept sfTenSpec sfRotate) s

/-- A tenancy's bundle-key slots are freed and its epoch counter advances (R494). -/
def eraseKeys (s : State) (ten : Nat) : State :=
  advanceKey { s with keySlots := Tab.keep s.keySlots (fun _ k => k.tenancy != ten) } (spaceOf ten)

/-- SF.ERASE (R494). -/
def execSfErase (t : Tid) (rd : RIdx) (cs : PIdx) (a : CForm) (s : State) :=
  engineInstr t (sfOp 5) rd cs a (sfAccept sfTenSpec (fun s1 _ c => (eraseKeys s1 (c.par 136 1), .zero))) s

/-! ### The scrub (R499, R500) -/

/-- The live commands of a tenancy. -/
def tenancyCmds (s : State) (n : Nat) : List (Nat × Cmd) := s.cmds.filter (fun e => e.2.space == n && !e.2.dev)

/-- STEP_CLOSE commands whose step will not end any more complete with ABORTED. -/
def abortCloses (s : State) (n : Nat) : State :=
  (s.fn (fnOf n)).cmds.foldl (fun (st : State) c =>
    if c.op = 6 && c.stage = 1 then hostFinish st (fnOf n) c.sq c.hseq stAborted 0 else st) s

/-- A pending snapshot point ends, and a drain halts at once; no SOURCE of R449 names that cause. -/
def dropSnapshots (s : State) (n : Nat) : State :=
  let s1 := match (s.tenant n).point with
    | some p => syncSnap (endPoint (s.setTenant n { s.tenant n with point := none }) n p.cmd p.host stAborted 0) n
    | none => s
  if (s1.tenant n).drain.isSome then
    let r := drawFree s1
    haltDrain r.2 n (r.1.toNat % 256) false
  else s1

/-- Step 1: the sweep stops, gather schedules halt, and a command that has not started is aborted (R481, R499). -/
def scrubStart (s : State) (n : Nat) : State :=
  let p := s.sp (spaceOf n)
  let s1 := (s.setSp (spaceOf n) { p with sweeping := false }).setTen n 0xC050 1 0
  let s2 := dropSnapshots (abortCloses s1 n) n
  (tenancyCmds s2 n).foldl (fun (st : State) e =>
    if e.2.engine = 2 || e.2.phase == .accepting || e.2.phase == .held then finishWith st e.1 (.st stAborted) else st) s2

/-- Engine commands that have started take their effect; one that cannot is aborted. -/
def scrubEngines (s : State) (n : Nat) : State :=
  (tenancyCmds s n).foldl (fun (st : State) e =>
    if e.2.engine = 0 && e.2.phase == .started then
      let r := runBellows st e.1 e.2
      finishWith r.1 e.1 (r.2.getD (.st stAborted))
    else if e.2.phase == .ended then finishCmd st e.1
    else finishWith { st with reds := Tab.del st.reds e.1, checks := Tab.del st.checks e.1 } e.1 (.st stAborted)) s

/-- The runs of 64 KiB units that a space holds, its pool included. -/
def spaceUnits (s : State) (n : Fin 17) : Runs :=
  let p := s.sp n
  ((leavesOf s n).filter (fun l => l.entry % 8 == 2)).map Leaf.units ++ p.nodeFrames.map (fun e => (e.1, 1)) ++
    (s.shadows.filter (fun x => x.space == n.val)).map (fun x => (x.frame, levelUnits x.level)) ++ p.pool

/-- A run of units back to the device free list, in its region (R253). -/
def giveBack (s : State) (r : Nat × Nat) : State :=
  if h : r.1 / 2 ^ 28 < 5 then
    { s with freeFrames := s.freeFrames.set (r.1 / 2 ^ 28) (runsAdd r.1 r.2 s.freeFrames[r.1 / 2 ^ 28]) }
  else s

/-- Step 2: every frame of the space is zeroed and returned; the root node is zeroed in its place (R499). -/
def scrubFrames (s : State) (n : Fin 17) : State :=
  let runs := spaceUnits s n
  let s1 := runs.foldl (fun (st : State) r => zeroPhys st (r.1 * 65536) (r.2 * 65536)) s
  let s2 := runs.foldl giveBack s1
  let root := ptRoot s n
  let s3 := if root = 0 then s2 else zeroPhys s2 root 65536
  let inRuns (u : Nat) : Bool := runs.any (fun r => decide (r.1 ≤ u) && decide (u < r.1 + r.2))
  let s4 := { s3 with shadows := s3.shadows.filter (fun x => x.space != n.val), fills := s3.fills.filter (fun f => f.space != n.val),
                      pairMap := Tab.keep s3.pairMap (fun u _ => !inRuns u) }
  syncFree (s4.setSp n { s4.sp n with pool := [], nodeFrames := [], pagesHeld := 0 })

/-- Step 4 on one core of the tenancy. -/
def scrubCore (s : State) (c : CoreId) : State :=
  let s1 := s.setCore c { s.core c with l1 := [], icache := [], tiles := [], tileWait := [], parts := Vector.replicate 4 .reset }
  (coreTids c).foldl (fun (st : State) t =>
    st.setTh t { st.th t with vregs := Vector.replicate 32 ⟨0, 0⟩, timerCmp := 0xFFFFFFFFFFFFFFFF, group := none }) s1

/-- The Stops that a scrub leaves: KEY_EPOCH, the ring sequence Stops, the root's address and the tenancy state. -/
def scrubKeeps (idx sub : Nat) : Bool :=
  (idx == 0xC080 && (sub == 0 || sub == 4)) || (0xC0A0 ≤ idx && idx ≤ 0xC0A2) || (idx == 0xC030 && sub == 0)

/-- Stops of a tenancy's window back to their defaults. -/
def defaultStops (s : State) (n : Nat) (keep : Nat → Nat → Bool) : State :=
  s.stops.foldl (fun (st : State) e =>
    let idx := e.1 / 256 % 65536
    let sub := e.1 % 256
    if e.1 / 2 ^ 24 = n + 1 && !keep idx sub then st.setTen n idx sub (stopDefault idx sub) else st) s

/-- What is left of a tenancy's tasks, epochs, channels, groups and root sums goes. -/
def scrubTasks (s : State) (n : Nat) : State :=
  let ts := s.tasks.filter (fun e => !e.2.dev && e.2.tenancy.val == n)
  let s1 := ts.foldl (fun (st : State) e =>
    freeTask (match e.2.thread with | some m => stopThread st (tidOf m) | none => st) e.1 .aborted) s
  let s2 := (s1.chans.filter (fun e => !e.2.dev && e.2.tenancy.val == n)).foldl (fun (st : State) e => freeChan st e.1 e.2) s1
  { dropGroups s2 n with
            epochs := Tab.keep s2.epochs (fun k _ => k / 64 != n), overlay := Tab.keep s2.overlay (fun k _ => k / 2 ^ 41 / 64 != n),
            groups := Tab.keep s2.groups (fun k _ => k / 64 != n), streams := Tab.keep s2.streams (fun _ c => c.dev || c.tenancy.val != n),
            landing := s2.landing.filter (fun l => l.space != n) }

/-- Steps 1 to 6 of the scrub after its start. -/
def scrubEnd (s : State) (n : Nat) : State :=
  let mask := s.ten n 0xC010 0
  let s1 := scrubFrames (closeDigests (scrubTasks (scrubEngines s n) n) n) (spaceOf n)
  let s2 := invalidateSpace s1 (spaceOf n)
  let s3 := ((upto 48).filter (fun c => bit mask c)).foldl (fun (st : State) c => scrubCore st (coreOf c)) s2
  let s4 := defaultStops (eraseKeys s3 n) n scrubKeeps
  s4.setTenant n { Tenant.reset with refused := (s4.tenant n).refused, refusedVa := (s4.tenant n).refusedVa }

/-! ### The life of a tenancy (R495, R497, R498) -/

/-- Address of a space's root node: it stays where BRINGUP has placed it (R244). -/
def rootNode (s : State) (n : Nat) : Nat := 65536 * (regionUnits s.qlShare 0 + Config.rootBase + n)

/-- A tenancy of an enabled function comes into being in IDLE, while the device is READY or DEGRADED (R495, R497). -/
def createTenancy (s : State) (n : Nat) : State :=
  if s.tstate n = tsAbsent && (s.fn (fnOf n)).enabled && (s.dstate = dsReady || s.dstate = dsDegraded) then
    setTstate (s.setTen n 0xC030 0 (rootNode s n)) n tsIdle 0
  else s

/-- FUNCTION_ENABLE (R497): the endpoint answers from BRINGUP on while PERST_N is high (R577). -/
def execFunctionEnable (fn : Fin 16) (s : State) : Host.Outcome State Fault Refusal :=
  if !s.clockOn || s.power.perstLow then .next s
  else .next (createTenancy (s.setFn fn { s.fn fn with enabled := true }) fn.val)

/-- A function goes: its tenancy is stopped without a breach, scrubbed and ABSENT; its rings and their sequence Stops take their
reset values (R498, R529, R531). -/
def dropFunction (s : State) (fn : Fin 16) : State :=
  let n := fn.val
  let s0 := s.setFn fn { Func.reset with ide := (s.fn fn).ide }
  let s1 :=
    if s0.tstate n = tsAbsent then s0
    else
      let live := s0.tstate n = tsRunning || s0.tstate n = tsDraining
      let a := setTstate s0 n tsScrubbing 2
      -- a drain halts at once, with the stream that carries it
      let b := if live then haltStreams (stopTenancy a n) n (fun _ => false) else a
      (setTstate (scrubEnd (scrubStart b n) n) n tsAbsent 2).setTen n 0xC030 0 0
  defaultStops s1 n (fun idx _ => !(decide (0xC0A0 ≤ idx) && decide (idx ≤ 0xC0A2)))

/-- FUNCTION_DISABLE (R498). -/
def execFunctionDisable (fn : Fin 16) (s : State) : Host.Outcome State Fault Refusal := .next (dropFunction s fn)
/-- FUNCTION_LEVEL_RESET (R498, R531). -/
def execFunctionLevelReset (fn : Fin 16) (s : State) : Host.Outcome State Fault Refusal := .next (dropFunction s fn)

/-- Whether the work of a DRAINING tenancy has finished. -/
def drained (s : State) (n : Nat) : Bool :=
  !s.tasks.any (fun e => !e.2.dev && e.2.tenancy.val == n && e.2.state == .running) && (tenancyCmds s n).isEmpty &&
    (s.tenant n).drain.isNone && (s.fn (fnOf n)).cqs.all (fun q => q.2.waiting.isEmpty)

/-- DRAINING_END (R497): the job is over. Tasks that were never dispatched go with it. -/
def execDrainingEnd (ten : Fin 16) (s : State) : Host.Outcome State Fault Refusal :=
  let n := ten.val
  if s.tstate n ≠ tsDraining || !drained s n then .next s
  else
    let ts := s.tasks.filter (fun e => !e.2.dev && e.2.tenancy.val == n)
    let s1 := ts.foldl (fun (st : State) e => freeTask st e.1 .aborted) s
    let s2 := abortCloses (closeDigests (dropGroups s1 n) n) n
    .next (setTstate ((s2.setTen n 0xC080 3 0xFFFF).setTenant n { s2.tenant n with finalStep := none }) n tsLoaded 3)

end Sys2Proof.Machine
end

