-- ==== Sys2Proof/Machine/Stops.lean ====
section
/-!
DEFINITION. Machine/Stops.lean: access to a Stop over every path: the checks in their order, the accepted ranges, the states in
which a write is refused, and what a write does (R539 to R547, R558 to R561, and the Stop tables of the chapters).
-/

namespace Sys2Proof.Machine

/-- The path of an access (R540, R543): the physical function, a virtual function by its tenancy, or the Stop Access Protocol
without and with a tag. -/
inductive StopPath where
  | pf
  | vf (n : Nat)
  | plain
  | tagged
deriving DecidableEq, Repr

/-- Whether a path may read a Stop (R543). -/
def StopPath.reads (p : StopPath) (idx : Nat) : Bool :=
  let ident := (0x1000 ≤ idx && idx ≤ 0x1FFF) || idx == 0x8001 || idx == 0x8002
  match p with
  | .pf => true
  | .vf _ => inWindow idx || ident
  | .plain => ident || idx == 0x8020
  | .tagged => true

/-- Whether a path may write a Stop (R543). -/
def StopPath.writes (p : StopPath) (s : State) (idx : Nat) : Bool :=
  match p with
  | .pf => true
  | .vf _ => inWindow idx
  | .plain => false
  | .tagged => idx != 0x8010 || s.dev 0x8010 0 != 0

/-- The tenancy whose window an access names (R540). -/
def StopPath.window (p : StopPath) (ten : Nat) : Nat :=
  match p with
  | .vf n => n
  | _ => ten

/-- Whether the TENANCY byte of a message names neither a tenancy nor none (R540). -/
def StopPath.noTenancy (p : StopPath) (idx ten : Nat) : Bool :=
  match p with
  | .plain => inWindow idx && decide (16 ≤ ten) && ten != 0xFF
  | .tagged => inWindow idx && decide (16 ≤ ten) && ten != 0xFF
  | _ => false

/-- Whether the Drone serves a Stop in the present device state (R547, R573). -/
def stopServed (s : State) (idx sub : Nat) : Bool :=
  if s.dstate = dsReady || s.dstate = dsDegraded then true
  else if s.dstate = dsOff then false
  else (0x1000 ≤ idx && idx ≤ 0x2FFF) || (0x8001 ≤ idx && idx ≤ 0x8020) || (idx == 0xA000 && sub == 0) || idx == 0xF001 ||
    idx == 0xF010 || idx == 0xF011 || (stopInfo idx sub).any (fun i => i.stored)

/-- Whether a value has been produced (R547). -/
def stopProduced (s : State) (idx : Nat) : Bool := !(idx == 0x8040 && s.dev 0x8040 0 == 0)

/-- Whether a window access names a tenancy that is ABSENT, or none (R540). -/
def windowAbsent (s : State) (idx n : Nat) : Bool := inWindow idx && (decide (16 ≤ n) || s.tstate n == tsAbsent)

/-- The value of a Stop. -/
def stopValue (s : State) (idx sub n : Nat) : Nat := if inWindow idx then s.ten n idx sub else s.dev idx sub

/-- GEN of a Stop (R545). -/
def stopGen (s : State) (idx sub n : Nat) : Nat :=
  match Tab.get? s.stops (if inWindow idx then tenKey n idx sub else devKey idx sub) with
  | some c => c.gen.toNat
  | none => 0

/-- Bytes of a value: ATTEST_REPORT has the size of the report it holds (R561). -/
def stopSize (s : State) (idx : Nat) (i : StopInfo) : Nat :=
  if idx = 0x8020 then
    let v := s.dev 0x8020 0
    if v = 0 then 0 else v / 256 ^ 4 % 256 ^ 4 + 3313
  else i.size

/-- What an access answers: size, type code, value and GEN. -/
structure StopAnswer where
  size : Nat
  type : Nat
  value : Nat
  gen : Nat
deriving DecidableEq, Repr

/-- A read of a Stop (R542): the first check that fails gives the status. A WO Stop reads as zeros. -/
def stopRead (s : State) (p : StopPath) (idx sub ten : Nat) : Except Nat StopAnswer :=
  let n := p.window ten
  match stopInfo idx sub with
  | none => .error stRange
  | some i =>
    if p.noTenancy idx ten then .error stRange
    else if !p.reads idx then .error stNoCapability
    else if !stopServed s idx sub || !stopProduced s idx then .error stNotReady
    else if windowAbsent s idx n then .error stStateConflict
    else .ok ⟨stopSize s idx i, i.type, if i.acc = .wo then 0 else stopValue s idx sub n, stopGen s idx sub n⟩

/-- Frames of the module in 64 KiB units (R241, R272). -/
def moduleFrames (s : State) : Nat := (upto 5).foldl (fun (a : Nat) r => a + regionUnits s.qlShare r) 0

/-- Whether a value lies in the accepted range of a Stop, its reserved fields zero (check 3 of R542). -/
def stopInRange (s : State) (n idx sub v : Nat) : Bool :=
  let within (lo hi : Nat) : Bool := decide (lo ≤ v) && decide (v ≤ hi)
  match idx with
  | 0x1020 => sub != 1 || within 2 64
  | 0x2040 => within 4096 16777216
  | 0x3001 => within 0 4
  | 0x3040 => within 1 8
  | 0x4000 => match sub with
    | 0 => within 0 0x3FFF || v == 0xFFFF
    | 2 => within 0 1
    | 5 => fld v 7 4 == 0 && fld v 15 14 == 0
    | 6 => within 1 255
    | 7 => within (2 ^ 16) (2 ^ 30)
    | _ => true
  | 0x4001 => within 0 7
  | 0x6003 => within 0 1
  | 0x7001 => within 3600 604800
  | 0x7003 => within 2 (s.dev 0x7004 0)
  | 0x7007 => within 1 255
  | 0x8003 => decide (s.dev 0x8003 0 ≤ v)
  | 0xF001 => v == 0x5A
  | 0xC010 => match sub with
    | 0 => within 0 (2 ^ 48 - 1)
    | 1 => within 1 65536
    | 2 => within 0 1024
    | _ => true
  | 0xC020 => v % 65536 == 0
  | 0xC030 => match sub with
    | 5 => v % 16384 == 0
    | _ => within 0 (moduleFrames s)
  | 0xC050 => v % 16384 == 0
  | 0xC060 => match sub with
    | 0 => v % 16384 == 0
    | 2 => within (2 ^ 16) (2 ^ 30)
    | 3 => v % 65536 == 0
    | _ => true
  | 0xC070 => v % 16384 == 0
  | 0xC0A4 => fld v 7 4 == 0 && fld v 15 14 == 0 && bit (s.ten n 0xC010 0) (fld v 13 8)
  | _ =>
    if 0x4100 ≤ idx && idx ≤ 0x413F then v % 4 == 0
    else if 0x6100 ≤ idx && idx ≤ 0x6104 then
      sub != 13 && sub != 14 && v % 65536 == 0 && within (2 ^ 23) (255 * 2 ^ 23 - 1)
    else true

/-- Whether the owning rule allows a write in the present state (check 5 of R542), for the Stops that have such a rule. -/
def stopStateOk (s : State) (n idx sub v : Nat) : Bool :=
  let idle := !anyRunning s
  let stopped := s.tstate n != tsRunning
  match idx with
  | 0x4000 => match sub with
    | 0 => idle
    | 1 => idle
    | 2 => v != 1 || s.dev 0x4000 0 != 0xFFFF
    | 3 => idle
    | _ => true
  | 0x6001 => idle
  | 0x6002 => idle
  | 0x6003 => idle
  | 0x6004 => idle
  | 0xF001 => idle
  | 0xC010 => sub != 0 || (stopped && (upto 16).all (fun m => m == n || Nat.land (s.ten m 0xC010 0) v == 0))
  | 0xC020 => stopped
  | 0xC030 => sub != 5 || stopped
  | 0xC050 => stopped
  | 0xC060 => stopped
  | 0xC070 => stopped
  | 0xC080 => sub != 2 || s.tstate n == tsIdle || s.tstate n == tsLoaded
  | _ => !(decide (0x6100 ≤ idx) && decide (idx ≤ 0x6104)) || idle

/-- Every stored RW Stop of indices 0x1020 to 0x7FFF returns to its default (R561). -/
def storedDefaults (s : State) : State :=
  s.stops.foldl (fun (st : State) e =>
    let idx := e.1 / 256
    let sub := e.1 % 256
    match (if e.1 < 2 ^ 24 && 0x1020 ≤ idx && idx ≤ 0x7FFF then stopInfo idx sub else none) with
    | some i => if i.stored && i.acc = .rw then st.setDev idx sub i.dflt else st
    | none => st) s

/-- What an accepted write does. -/
def stopStore (s : State) (n idx sub v : Nat) : State :=
  match idx with
  | 0x4000 =>
    let s1 := s.setDev 0x4000 sub v
    if sub ≤ 1 || sub = 3 then helloChanged s1 else s1
  | 0x7002 => writeMtbf s v
  | 0xF001 => storedDefaults s
  | 0xC010 =>
    let s1 := s.setTen n 0xC010 sub v
    if sub = 0 then haltOutside s1 n else s1
  | _ => if inWindow idx then s.setTen n idx sub v else s.setDev idx sub v

/-- Checks 3 and 5 of R542 and the effect of a write; a Stop whose write is an operation has its own. -/
def stopEffect (s : State) (n idx sub v : Nat) : Except Nat State :=
  match idx with
  | 0xF030 => cacheCtl s (fld v 31 30) (bit v 29) (bit v 28) (v % 256) (fld v 27 8)
  | 0xC040 => windowWrite s n sub v
  | 0xC080 =>
    if sub = 1 then writeKeyRotate s n v
    else if !stopStateOk s n idx sub v then .error stStateConflict
    else .ok (stopStore s n idx sub v)
  | 0x4001 => if !stopInRange s n idx sub v then .error stRange else writePortCtl s (portOf sub) v
  | _ =>
    if !stopInRange s n idx sub v then .error stRange
    else if !stopStateOk s n idx sub v then .error stStateConflict
    else .ok (stopStore s n idx sub v)

/-- A write of a Stop (R542): the state and the Stop's information, or the status of the first check that fails. -/
def stopWrite (s : State) (p : StopPath) (idx sub ten len v : Nat) : Except Nat (State × StopInfo) :=
  let n := p.window ten
  match stopInfo idx sub with
  | none => .error stRange
  | some i =>
    if p.noTenancy idx ten then .error stRange
    else if !p.writes s idx || i.acc = .ro || i.acc = .rl then .error stNoCapability
    else if len ≠ i.size || 256 ^ i.size ≤ v || (i.type = 7 && 1 < v) then .error stRange
    else
      let e := stopEffect s n idx sub v
      match e with
      | .error st =>
        if st = stRange then .error stRange
        else if !stopServed s idx sub then .error stNotReady
        else if windowAbsent s idx n then .error stStateConflict
        else .error st
      | .ok s1 =>
        if !stopServed s idx sub then .error stNotReady
        else if windowAbsent s idx n then .error stStateConflict
        else .ok (s1, i)

/-- A write of a stored Stop waits for flash (R546). -/
def toFlash (s0 s : State) (idx sub n : Nat) (asker : Asker) : State :=
  let key := if inWindow idx then tenKey n idx sub else devKey idx sub
  { s with flash := s.flash ++ [⟨key, stopValue s0 idx sub n, asker⟩] }

/-- The answer that a completed write gives: the value now held; a WO Stop's value is not read back. -/
def stopHeld (s : State) (idx sub n : Nat) (i : StopInfo) : StopAnswer :=
  ⟨i.size, i.type, if i.acc = .wo then 0 else stopValue s idx sub n, stopGen s idx sub n⟩

/-- STORED_DEFAULTS (R561), written through the physical function. -/
def execStoredDefaults (v : BitVec 8) (s : State) : Host.Outcome State Fault Refusal :=
  match stopWrite s .pf 0xF001 0 0 1 v.toNat with
  | .ok r => .next r.1
  | .error _ => .next s

end Sys2Proof.Machine
end

