-- ==== Sys2Proof/Machine/Host.lean ====
section
/-!
DEFINITION. Machine/Host.lean: the host interface: BAR0 registers, rings, completions, events and MSI-X, user doorbells, the host
commands, resynchronisation, the BAR2 aperture, the DOE mailbox and the statistics periods (R503 to R538).
-/

namespace Sys2Proof.Machine

/-! ### Requests to a function -/

/-- Whether a request to a BAR of a function is taken: the function is enabled and its endpoint is not in reset; while its TDI is
in the RUN state only a request with the T bit (R504). -/
def barOk (s : State) (fn : Fin 16) (tee : Bool) : Bool :=
  (s.fn fn).enabled && !s.power.perstLow && (fn.val == 0 || (s.fn fn).tdi != 2 || tee)

/-- Whether the rings are served (R526). -/
def ringsServed (s : State) : Bool := s.dstate == dsReady || s.dstate == dsDegraded

/-- A memory write of the module on its PCIe link. -/
def State.hostWrite (s : State) (addr : Nat) (b : Blob) : State := { s with hostOut := s.hostOut ++ [(addr, b)] }

/-! ### MSI-X -/

/-- A word of the MSI-X table: the address of vector v at 2v, data and control at 2v + 1. A vector is masked until it is set up. -/
def Func.msixWord (x : Func) (k : Nat) : Nat := Tab.getD x.msix k (if k % 2 = 1 then 2 ^ 32 else 0)

/-- The message of a vector, or its pending bit while it is masked. -/
def sendMsix (s : State) (fn : Fin 16) (v : Nat) : State :=
  let x := s.fn fn
  let c := x.msixWord (2 * v + 1)
  if bit c 32 then s.setFn fn { x with pending := Nat.lor x.pending (2 ^ v) }
  else s.hostWrite (x.msixWord (2 * v)) ⟨4, c % 2 ^ 32⟩

/-- A write of the MSI-X table: a pending vector that is no longer masked sends its message. -/
def writeMsix (s : State) (fn : Fin 16) (k v : Nat) : State :=
  let x := s.fn fn
  let n := k / 2
  let keep := if k % 2 = 1 then v % 2 ^ 33 else v - v % 4
  let x1 := { x with msix := Tab.put x.msix k keep }
  if bit x.pending n && !bit (x1.msixWord (2 * n + 1)) 32 then
    sendMsix (s.setFn fn { x1 with pending := x.pending - 2 ^ n }) fn n
  else s.setFn fn x1

/-! ### Rings (R506 to R513, R518 to R520) -/

/-- Depth of a submission ring. -/
def SubRing.depth (r : SubRing) : Nat := 2 ^ (fld r.ctl 3 1 + 4)
/-- Depth of a completion ring or the event ring. -/
def CompRing.depth (r : CompRing) : Nat := 2 ^ (fld r.ctl 4 2 + 4)
/-- The completion ring q of a function, 64 the event ring. -/
def Func.comp (x : Func) (q : Nat) : CompRing := if q = 64 then x.ev else x.cq q
/-- A completion ring replaced. -/
def Func.setComp (x : Func) (q : Nat) (r : CompRing) : Func := if q = 64 then { x with ev := r } else { x with cqs := Tab.put x.cqs q r }
/-- A submission ring replaced. -/
def Func.setSq (x : Func) (q : Nat) (r : SubRing) : Func := { x with sqs := Tab.put x.sqs q r }

/-- The posting that comes next in a ring: its DSEQ. -/
def nextPost (s : State) (fn : Fin 16) (q : Nat) : Nat := (s.ten fn.val 0xC0A2 q + 1) % 2 ^ 32

/-- Whether a ring has room for its next posting (R518). -/
def ringRoom (s : State) (fn : Fin 16) (q : Nat) : Bool :=
  let r := (s.fn fn).comp q
  decide ((nextPost s fn q + 2 ^ 32 - r.head) % 2 ^ 32 < r.depth)

/-- A completion ring waits: a posting has no room (R518, R520). -/
def cqWaits (s : State) (fn : Fin 16) (q : Nat) : Bool := !((s.fn fn).cq q).waiting.isEmpty && !ringRoom s fn q

/-- A ring entry is written and the ring's message sent (R516, R518, R519, R521): the 32 bytes without DSEQ and phase. -/
def postEntry (s : State) (fn : Fin 16) (q body : Nat) : State :=
  let r := (s.fn fn).comp q
  let p := nextPost s fn q
  let s1 := s.hostWrite (r.base + 32 * (p % r.depth)) ⟨32, body + p + (1 - p / r.depth % 2) * 256 ^ 7⟩
  let s2 := s1.setTen fn.val 0xC0A2 q p
  if bit r.ctl 1 then sendMsix s2 fn q else s2

/-- W1C bits of a STATUS byte: the flags CFGERR and DBERR that a write clears. -/
def clearStatus (status v : Nat) : Nat := status - Nat.land status (Nat.land v 6)

/-- A write of a submission ring's base: ignored while the ring is enabled (R510). -/
def writeSqBase (s : State) (fn : Fin 16) (q v : Nat) : State :=
  let x := s.fn fn
  let r := x.sq q
  s.setFn fn (x.setSq q (if bit r.ctl 0 then { r with status := Nat.lor r.status 2 } else { r with base := v - v % 4096 }))

/-- A write of SQ_CTL (R507, R510). -/
def writeSqCtl (s : State) (fn : Fin 16) (q v : Nat) : State :=
  let x := s.fn fn
  let r := { x.sq q with status := clearStatus (x.sq q).status (fld v 23 16) }
  let err (y : SubRing) : State := s.setFn fn (x.setSq q { y with status := Nat.lor y.status 2 })
  let new := v % 2 ^ 10
  let owed := x.cmds.any (fun c => c.sq == q) || x.cqs.any (fun e => e.2.waiting.any (fun w => w.sq == q && !w.reset))
  if bit r.ctl 0 then
    if !bit v 0 then (if owed then err r else
      if new / 2 ≠ r.ctl / 2 then err { r with ctl := r.ctl - 1 } else s.setFn fn (x.setSq q { r with ctl := r.ctl - 1 }))
    else if new / 2 ≠ r.ctl / 2 then err r
    else s.setFn fn (x.setSq q r)
  else if bit v 0 && !bit (x.cq (fld v 9 4)).ctl 0 then err r
  else s.setFn fn (x.setSq q { r with ctl := new })

/-- A write of a completion ring's or the event ring's base. -/
def writeCqBase (s : State) (fn : Fin 16) (q v : Nat) : State :=
  let x := s.fn fn
  let r := x.comp q
  s.setFn fn (x.setComp q (if bit r.ctl 0 then { r with status := Nat.lor r.status 2 } else { r with base := v - v % 4096 }))

/-- A write of CQ_CTL or EV_CTL (R508, R510). -/
def writeCqCtl (s : State) (fn : Fin 16) (q v : Nat) : State :=
  let x := s.fn fn
  let r := { x.comp q with status := clearStatus (x.comp q).status (fld v 23 16) }
  let err (y : CompRing) : State := s.setFn fn (x.setComp q { y with status := Nat.lor y.status 2 })
  let bound := q != 64 && x.sqs.any (fun e => bit e.2.ctl 0 && fld e.2.ctl 9 4 == q)
  if bit r.ctl 0 then
    if !bit v 0 && bound then err r
    else
      let r1 := { r with ctl := fld r.ctl 4 2 * 4 + v % 4 }
      if fld v 4 2 ≠ fld r.ctl 4 2 then err r1 else s.setFn fn (x.setComp q r1)
  else s.setFn fn (x.setComp q { r with ctl := v % 32 })

/-- SQ_CTL_WRITE (R510). -/
def execSqCtlWrite (fn : Fin 16) (q : Fin 64) (v : BitVec 32) (tee : Bool) (s : State) : Host.Outcome State Fault Refusal :=
  .next (if barOk s fn tee then writeSqCtl s fn q.val v.toNat else s)

/-- CQ_CTL_WRITE (R510): ring 64 is the event ring. -/
def execCqCtlWrite (fn : Fin 16) (q : Fin 65) (v : BitVec 32) (tee : Bool) (s : State) : Host.Outcome State Fault Refusal :=
  .next (if barOk s fn tee then writeCqCtl s fn q.val v.toNat else s)

/-- A submission doorbell write (R513). A BAD_SEQ stop ends with it (R512). -/
def writeDoorbell (s : State) (fn : Fin 16) (q v : Nat) : State :=
  let x := s.fn fn
  let r := { x.sq q with stalled := false }
  let d := (v + 2 ^ 32 - s.ten fn.val 0xC0A0 q) % 2 ^ 32
  let r1 :=
    if 1 ≤ d && d ≤ r.depth then { r with door := v }
    else if d = 0 || 2 ^ 31 < d then r
    else { r with status := Nat.lor r.status 4 }
  s.setFn fn (x.setSq q r1)

/-- SUBMISSION_DOORBELL (R513). -/
def execSubmissionDoorbell (fn : Fin 16) (q : Fin 64) (v : BitVec 32) (tee : Bool) (s : State) : Host.Outcome State Fault Refusal :=
  .next (if barOk s fn tee then writeDoorbell s fn q.val v.toNat else s)

/-- A head doorbell write (R518). -/
def writeHead (s : State) (fn : Fin 16) (q v : Nat) : State := s.setFn fn ((s.fn fn).setComp q { (s.fn fn).comp q with head := v })

/-- COMPLETION_HEAD_DOORBELL (R518). -/
def execCompletionHeadDoorbell (fn : Fin 16) (q : Fin 65) (v : BitVec 32) (tee : Bool) (s : State) : Host.Outcome State Fault Refusal :=
  .next (if barOk s fn tee then writeHead s fn q.val v.toNat else s)

/-- A user doorbell write (R524): vector 32 + i on its target, when the target's core is in the tenancy's mask. -/
def userDoorbell (s : State) (fn : Fin 16) (i : Nat) : State :=
  let t := s.ten fn.val 0xC0A4 i
  if bit (s.ten fn.val 0xC010 0) (fld t 13 8) then s.pend (tidOf (16 * fld t 13 8 + fld t 3 0)) (32 + i)
  else s.count fn.val 0x2D 1

/-- USER_DOORBELL (R524). -/
def execUserDoorbell (fn i : Fin 16) (tee : Bool) (s : State) : Host.Outcome State Fault Refusal :=
  .next (if barOk s fn tee then userDoorbell s fn i.val else s)

/-! ### The order of commands (R512, R514) -/

/-- Whether an accepted command may start: every earlier one of its ring has started, and for an ORDERED one has finished. -/
def mayStart (cs : List HostCmd) (c : HostCmd) : Bool :=
  let before := (cs.takeWhile (fun d => !(d.sq == c.sq && d.hseq == c.hseq))).filter (fun d => d.sq == c.sq)
  if c.ordered then before.isEmpty else before.all (fun d => d.stage != 0)

/-- Entries without a command complete with RANGE as their turn comes (R525). -/
def sweepIllegal (fn : Fin 16) : Nat → State → State
  | 0, s => s
  | f + 1, s =>
    match (s.fn fn).cmds.find? (fun c => c.stage == 0 && (c.op == 0 || decide (0x0E < c.op)) && mayStart (s.fn fn).cmds c) with
    | none => s
    | some c => sweepIllegal fn f (hostFinish s fn c.sq c.hseq stRange 0)

/-- Every such entry that may start. -/
def settle (s : State) (fn : Fin 16) : State := sweepIllegal fn ((s.fn fn).cmds.length + 1) s

/-- SQ_ENTRY_FETCH (R511, R512, R520): the entry at the expected slot, as the host holds it. -/
def execSqEntryFetch (fn : Fin 16) (q : Fin 64) (entry : BitVec 512) (s : State) : Host.Outcome State Fault Refusal :=
  let x := s.fn fn
  let r := x.sq q.val
  let e := (s.ten fn.val 0xC0A0 q.val + 1) % 2 ^ 32
  let v := entry.toNat
  let hseq := v / 256 ^ 4 % 2 ^ 32
  let tag := v / 256 ^ 8 % 2 ^ 64
  if !ringsServed s || !bit r.ctl 0 || r.stalled || cqWaits s fn (fld r.ctl 9 4) || r.depth ≤ (r.door + 2 ^ 32 - e) % 2 ^ 32 then .next s
  else if hseq ≠ e then
    let s1 := queuePosting s fn ⟨stBadSeq, s.tstate fn.val, q.val, false, hseq, tag, e⟩
    .next (s1.setFn fn ((s1.fn fn).setSq q.val { r with stalled := true }))
  else
    let op := if fld v 15 9 = 0 && fld v 31 16 = 0 then v % 256 else 0
    let c : HostCmd := { sq := q.val, hseq := hseq, op := op, ordered := bit v 8, tag := tag, params := v / 256 ^ 16, stage := 0, cmd := none }
    .next (settle ((s.setTen fn.val 0xC0A0 q.val e).setFn fn { x with cmds := x.cmds ++ [c] }) fn)

/-- The 32 bytes of a completion, without DSEQ and phase (R516). -/
def Posting.body (w : Posting) : Nat :=
  w.status * 256 ^ 4 + w.tstate * 256 ^ 5 + w.sq * 256 ^ 6 + 2 * b2n w.reset * 256 ^ 7 + w.hseq * 256 ^ 8 + w.tag * 256 ^ 16 +
    w.result % 2 ^ 64 * 256 ^ 24

/-- COMPLETION_POSTING (R516, R518, R519): the oldest completion of an enabled ring that has room. -/
def execCompletionPosting (fn : Fin 16) (q : Fin 64) (s : State) : Host.Outcome State Fault Refusal :=
  let x := s.fn fn
  let r := x.cq q.val
  match r.waiting with
  | [] => .next s
  | w :: ws =>
    if !ringsServed s || !bit r.ctl 0 || !ringRoom s fn q.val then .next s
    else .next (settle (postEntry (s.setFn fn (x.setComp q.val { r with waiting := ws })) fn q.val w.body) fn)

/-- An event's 32 bytes, without DSEQ and phase (R521). -/
def eventBody (code detail lost : Nat) : Nat := code * 256 ^ 4 + detail % 256 ^ 16 * 256 ^ 8 + lost % 2 ^ 32 * 256 ^ 24

/-- EVENT_POSTING (R521, R522): the oldest event held for an enabled event ring that has room, once a RESUME that is owed has
gone first (R530). -/
def execEventPosting (fn : Fin 16) (s : State) : Host.Outcome State Fault Refusal :=
  let x := s.fn fn
  match s.events[fn.val] with
  | [] => .next s
  | e :: es =>
    if !ringsServed s || !bit x.ev.ctl 0 || !ringRoom s fn 64 || x.resume.isSome then .next s
    else
      let lost := s.eventsLost[fn.val]
      .next (postEntry { s with events := s.events.set fn.val es, eventsLost := s.eventsLost.set fn.val 0 } fn 64
        (eventBody e.code e.detail lost))

/-! ### Resynchronisation (R529, R530) -/

/-- The completions of abandoned commands of a ring, in HSEQ order per submission ring: the order of acceptance. -/
def resetPostings (s : State) (fn : Fin 16) (q : Nat) : List Posting :=
  ((s.fn fn).abandoned.filter (fun a => a.1 == q)).map (fun a => ⟨stAborted, s.tstate fn.val, a.2.sq, true, a.2.hseq, a.2.tag, 0⟩)

/-- RING_RESUME (R530): with no ring, RESUME is posted first in the enabled event ring; with a ring, its RESET completions are put
in line once RESUME is posted, and SQ_EXECUTED follows SQ_ACCEPTED. -/
def execRingResume (fn : Fin 16) (ring : Option (Fin 64)) (s : State) : Host.Outcome State Fault Refusal :=
  let x := s.fn fn
  match ring, x.resume with
  | none, some kind =>
    if !ringsServed s || !bit x.ev.ctl 0 || !ringRoom s fn 64 then .next s
    else
      let detail := kind + s.dev 0xA000 0 * 256 ^ 4 + x.abandoned.length * 256 ^ 8
      .next (postEntry (s.setFn fn { x with resume := none }) fn 64 (eventBody 1 detail s.eventsLost[fn.val]))
  | some q, none =>
    let r := x.cq q.val
    let ps := resetPostings s fn q.val
    if !ringsServed s || !bit r.ctl 0 || ps.isEmpty then .next s
    else
      let x1 := { x with abandoned := x.abandoned.filter (fun a => a.1 != q.val) }
      let s1 := s.setFn fn (x1.setComp q.val { r with waiting := ps ++ r.waiting })
      .next ((ps.map (fun p => p.sq)).foldl (fun (st : State) k => st.setTen fn.val 0xC0A1 k (st.ten fn.val 0xC0A0 k)) s1)
  | _, _ => .next s

/-! ### Carrying out a command (R525 to R527) -/

/-- A field of a command's PARAMS by its entry offset. -/
def HostCmd.par (c : HostCmd) (off n : Nat) : Nat := c.params / 256 ^ (off - 16) % 256 ^ n

/-- Whether the bytes of PARAMS from an entry offset on are zero. -/
def HostCmd.zeroFrom (c : HostCmd) (off : Nat) : Bool := c.params / 256 ^ (off - 16) == 0

/-- A host command of a row: it starts in its turn, in one of its states, with its unused bytes zero; or, where again holds, a
started one goes on. -/
def hostRow (s : State) (fn : Fin 16) (q hseq op : Nat) (states : List Nat) (again : Bool) (ok : HostCmd → Bool)
    (run : State → HostCmd → State) : Host.Outcome State Fault Refusal :=
  match hostCmd s fn q hseq with
  | none => .next s
  | some c =>
    if c.op ≠ op || !ringsServed s then .next s
    else if c.stage = 1 && again then .next (settle (run s c) fn)
    else if c.stage ≠ 0 || !mayStart (s.fn fn).cmds c then .next s
    else if !states.contains (s.tstate fn.val) then .next (settle (hostFinish s fn q hseq stStateConflict 0) fn)
    else if !ok c then .next (settle (hostFinish s fn q hseq stRange 0) fn)
    else
      let c1 := { c with stage := 1 }
      .next (settle (run (putHostCmd s fn c1) c1) fn)

/-- A command finishes. -/
def HostCmd.finish (c : HostCmd) (s : State) (fn : Fin 16) (status result : Nat) : State := hostFinish s fn c.sq c.hseq status result

/-- The physical runs of a range of a tenancy for a write, or the REASON of a page that refuses it (R251, R527). -/
def hostRange (s : State) (n va len : Nat) (write : Bool) : State × Except Nat (List (Nat × Nat)) :=
  let a := translateRange (spaceOf n) (2 ^ 32) (!write) write false (len / 65536 + 2) va len s
  (a.1, match a.2 with
    | .pieces ps => .ok (runsOf false (len + ps.length + 2) ps 0 len)
    | .bad r => .error r
    | .wait => .error 2)

/-- LOAD_PROGRAM (R492, R527): the LENGTH bytes at HADDR. -/
def execLoadProgram (fn : Fin 16) (q : Fin 64) (hseq : BitVec 32) (data : Nat) (s : State) : Host.Outcome State Fault Refusal :=
  hostRow s fn q.val hseq.toNat 1 [tsIdle, tsLoaded] false
    (fun c => c.par 24 4 % 4 == 0 && decide (c.par 24 4 ≤ 2 ^ 30) && decide (c.par 28 1 ≤ 7) && c.par 29 3 == 0 && c.zeroFrom 40)
    (fun s1 c =>
      let n := fn.val
      let len := c.par 24 4
      let a := hostRange s1 n (c.par 32 8) len true
      match a.2 with
      | .error r => c.finish a.1 fn stAborted r
      | .ok runs =>
        let v := data % 256 ^ len
        let s2 := (writeRuns (windowAt a.1 n (c.par 32 8)) runs (mkBytes len v false) a.1).count n 0x15 len
        let x := s2.tenant n
        let s3 := s2.setTenant n { x with programs := Tab.put x.programs (c.par 28 1) (shake256 len v 64) }
        c.finish (if s3.tstate n = tsIdle then setTstate s3 n tsLoaded 0 else s3) fn stOk 0)

/-- The chunks of a bundle in order, until one fails: the state, the chunks verified, and the status with a REASON. -/
def loadChunks (n slot va data : Nat) : List Nat → State → Nat → State × Nat × Nat
  | [], s, k => (s, k, stOk)
  | c :: cs, s, k =>
    match Tab.get? s.keySlots slot with
    | none => (s, k, stRange)
    | some ks =>
      let len := ks.chunkLen c
      let a := hostRange s n (va + 1048576 * c) len true
      match a.2 with
      | .error _ => (a.1, k, stAborted)
      | .ok runs =>
        match openChunk ks c (data / 256 ^ (1048592 * c) % 256 ^ (len + 16)) with
        | none => (a.1, k, stBadDigest)
        | some plain =>
          let s1 := writeRuns (windowAt a.1 n (va + 1048576 * c)) runs (plain.map (fun b => (b, false))) a.1
          loadChunks n slot va data cs (verifyChunk s1 slot ks c (data / 256 ^ (1048592 * c) % 256 ^ (len + 16))) (k + 1)

/-- LOAD_BUNDLE (R527): SF.BOPEN, SF.BCHUNK for each chunk, SF.BCLOSE. A bundle that fails gives its key slot back. -/
def execLoadBundle (fn : Fin 16) (q : Fin 64) (hseq : BitVec 32) (data : Nat) (s : State) : Host.Outcome State Fault Refusal :=
  hostRow s fn q.val hseq.toNat 2 [tsIdle, tsLoaded, tsHeld] false (fun c => c.zeroFrom 40)
    (fun s1 c =>
      let n := fn.val
      let len := c.par 24 8
      let all : Blob := ⟨len, data % 256 ^ len⟩
      let head := 1168 * all.field 36 4 + 5369
      let s2 := s1.count n 0x15 len
      if len < head || len ≠ head + all.field 24 8 + 16 * all.field 32 4 then c.finish s2 fn stRange 0
      else match openBundle s2 n ⟨head, all.field 0 head⟩ with
        | .error st => c.finish s2 fn st 0
        | .ok (s3, slot) =>
          let r := loadChunks n slot (c.par 32 8) (all.val / 256 ^ head) (upto (all.field 32 4)) s3 0
          if r.2.2 ≠ stOk then c.finish { r.1 with keySlots := Tab.del r.1.keySlots slot } fn r.2.2 r.2.1
          else match Tab.get? r.1.keySlots slot with
            | none => c.finish r.1 fn stRange r.2.1
            | some ks => let z := closeBundle r.1 slot ks; c.finish z.1 fn z.2 r.2.1)

/-- MAP and UNMAP: PG.SET over a range (R527). A range that an engine command still uses makes it wait (R252). -/
def hostMap (fn : Fin 16) (word : HostCmd → Nat) (s : State) (c : HostCmd) : State :=
  let va := c.par 16 8
  let len := c.par 24 8
  if 2 ^ 52 < va + len then c.finish s fn stRange 0
  else match pgSet s (spaceOf fn.val) va len (setArgOf (word c)) false with
    | .error st => c.finish s fn st 0
    | .ok s1 => if rangeHeld s fn.val va len then s else c.finish s1 fn stOk 0

/-- MAP (R525). -/
def execMap (fn : Fin 16) (q : Fin 64) (hseq : BitVec 32) (s : State) : Host.Outcome State Fault Refusal :=
  hostRow s fn q.val hseq.toNat 3 [tsIdle, tsLoaded, tsHeld] true (fun c => c.zeroFrom 40) (hostMap fn (fun c => c.par 32 8))

/-- UNMAP (R525): OP 0 at the smallest page size. -/
def execUnmap (fn : Fin 16) (q : Fin 64) (hseq : BitVec 32) (s : State) : Host.Outcome State Fault Refusal :=
  hostRow s fn q.val hseq.toNat 4 [tsIdle, tsLoaded, tsHeld] true (fun c => c.zeroFrom 32) (hostMap fn (fun _ => 0))

/-- The tenancy root (R496). -/
def tenancyRoot (n : Nat) : Pair :=
  Cap.toPair { otype := 0, base := 0, perms := 0x3FFF, tenancy := n, dev := false, lenE := 21, lenM := 0x80000000 }

/-- Whether the pages of a tensor table are LOCAL or TOUCH with PR and PW (R218). -/
def tensorTableOk (s : State) (n : Nat) : Bool :=
  match (walk s (spaceOf n) (s.ten n 0xC020 0)).2 with
  | .leaf _ _ e => (e % 8 == 2 || e % 8 == 3) && bit e 50 && bit e 51
  | _ => false

/-- The descriptor of a first task as it stands at its slice: none where its page does not translate. -/
def readDescriptor (s : State) (n va : Nat) : State × Except Nat (List Granule) :=
  let a := translate s (spaceOf n) va .read .other
  match a.2 with
  | .ok pa =>
    let s1 := sliceRead a.1 (pa / 128) 15 (windowAt a.1 n va)
    let f := viewFull s1 none (pa / 128)
    (s1, .ok ((upto 8).map (fun k =>
      (BitVec.ofNat 64 (f.data / 256 ^ (16 * k)), bit f.poison (2 * k), BitVec.ofNat 64 (f.data / 256 ^ (16 * k + 8)),
        bit f.poison (2 * k + 1), bit f.tags k))))
  | .err r _ => (a.1, .error r)
  | _ => (a.1, .error 7)

/-- The Stops that START_JOB sets (R239, R527, R528). -/
def jobStops (s : State) (n job profile rank first seed : Nat) : State :=
  (((((((s.setTen n 0xC020 1 seed).setTen n 0xC020 2 rank).setTen n 0xC020 3 first).setTen n 0xC020 4 0xFFFFFFFF).setTen n 0xC020 5
    profile).setTen n 0xC080 3 job).setTen n 0xC090 0x31 first).setTen n 0xC090 0x30 0

/-- The work of START_JOB (R527): nothing is set unless the descriptor is good. -/
def startJob (fn : Fin 16) (s : State) (c : HostCmd) : State :=
  let n := fn.val
  let job := c.par 16 2
  if (upto 16).any (fun m => m != n && s.ten m 0xC080 3 == job) || s.dev 0x4000 2 ≠ 1 || cacheDisabled s then c.finish s fn stStateConflict 0
  else if !tensorTableOk s n then c.finish s fn stRange 0
  else
    let a := readDescriptor s n (c.par 40 8)
    match a.2 with
    | .error r => c.finish a.1 fn stAborted r
    | .ok gs =>
      if (granuleWords gs).any (fun w => w.2) then c.finish a.1 fn stAborted 0
      else
        let d := { taskDescOf gs with argC := tenancyRoot n }
        let caps := [d.code, d.rstack, d.dstack]
        if !descGood d || bit d.flags 1 || d.pred ≠ 0 || caps.any (fun p => (capRefused 1 n p.toCap).isSome) then c.finish a.1 fn stRange 0
        else if !taskRoom a.1 n false then c.finish a.1 fn stExhausted 0
        else
          let s1 := jobStops a.1 n job (c.par 18 1) (c.par 20 2) (c.par 24 4) (c.par 32 8)
          let x := s1.tenant n
          let s2 := s1.setTenant n { x with stepTimes := [], badDiscards := 0, heldCase := 0, committed := false, restored := none,
                                            restoredOk := false, finalStep := none }
          let r := newTask s2 d fn false none none none
          match Tab.get? r.2.tasks r.1 with
          | some k => c.finish (setTstate r.2 n tsRunning 0) fn stOk (taskHandle k r.1).toNat
          | none => c.finish r.2 fn stExhausted 0

/-- START_JOB (R527). -/
def execStartJob (fn : Fin 16) (q : Fin 64) (hseq : BitVec 32) (s : State) : Host.Outcome State Fault Refusal :=
  hostRow s fn q.val hseq.toNat 5 [tsLoaded] false
    (fun c => c.par 16 2 != 0xFFFF && decide (c.par 18 1 ≤ 1) && c.par 19 1 == 0 && c.par 22 2 == 0 && c.par 28 4 == 0 &&
      c.par 40 8 % 128 == 0 && c.zeroFrom 48) (startJob fn)

/-- The work of STEP_CLOSE (R527): it waits for the end of its step; a step that has ended gives its STEP_TIME at once. -/
def stepClose (fn : Fin 16) (s : State) (c : HostCmd) : State :=
  let n := fn.val
  let step := c.par 16 4
  let cur := s.ten n 0xC090 0x31
  let final := bit (c.par 20 1) 0
  if step + 1 < cur then c.finish s fn stRange 0
  else if step < cur then
    c.finish (if final then setTstate s n tsDraining 3 else s) fn stOk (s.ten n 0xC091 0x30)
  else if final then s.setTenant n { s.tenant n with finalStep := some step } else s

/-- STEP_CLOSE (R527). -/
def execStepClose (fn : Fin 16) (q : Fin 64) (hseq : BitVec 32) (s : State) : Host.Outcome State Fault Refusal :=
  hostRow s fn q.val hseq.toNat 6 [tsRunning] false (fun c => decide (c.par 20 1 ≤ 1) && c.zeroFrom 21) (stepClose fn)

/-- Bytes of a range of a tenancy at their slices, or a REASON. -/
def hostRead (s : State) (n va len : Nat) : State × Except Nat (List PByte) :=
  let a := hostRange s n va len false
  match a.2 with
  | .error r => (a.1, .error r)
  | .ok runs =>
    let b := readRuns none (windowAt a.1 n va) runs a.1
    (b.1, .ok b.2)

/-- The work of SNAPSHOT_NOW (R455, R459, R527): a point for the tenancy's next epoch with STEP set. -/
def snapshotNow (fn : Fin 16) (s : State) (c : HostCmd) : State :=
  let n := fn.val
  let va := c.par 16 8
  let a := hostRead s n va 16
  match a.2 with
  | .error r => c.finish a.1 fn stAborted r
  | .ok head =>
    let k := bytesVal head / 256 ^ 8 % 256
    let b := if k ≤ 16 then hostRead a.1 n (va + 16) (24 * k) else (a.1, .ok [])
    match b.2 with
    | .error r => c.finish b.1 fn stAborted r
    | .ok tab =>
      let cs := (upto k).map (fun j => cursorOf (bytesVal tab / 256 ^ (24 * j) % 256 ^ 24))
      let x := b.1.tenant n
      if bytesPoison head || bytesPoison tab then c.finish b.1 fn stAborted 0
      else if 16 < k || cs.any (fun d => d.den == 0) then c.finish b.1 fn stRange 0
      else if x.point.isSome || x.snapTarget.isNone then c.finish b.1 fn stStateConflict 0
      else
        let p : SnapPoint := ⟨0, some (c.sq, c.hseq), 0, bytesVal head % 2 ^ 64, cs, false⟩
        syncSnap (b.1.setTenant n { x with point := some p }) n

/-- SNAPSHOT_NOW (R527). -/
def execSnapshotNow (fn : Fin 16) (q : Fin 64) (hseq : BitVec 32) (s : State) : Host.Outcome State Fault Refusal :=
  hostRow s fn q.val hseq.toNat 7 [tsRunning] false (fun c => c.zeroFrom 24) (snapshotNow fn)

/-- The work of RESTORE: an image that another module holds, as its bytes and the poison of its words come (R465, R527). A drain in
progress makes it wait (R464). -/
def hostRestore (fn : Fin 16) (image poison : Nat) (s : State) (c : HostCmd) : State :=
  let n := fn.val
  if (s.tenant n).drain.isSome then s
  else
    let read : ImageRead := fun st off len =>
      (st, (upto len).map (fun j => (image / 256 ^ (off + j) % 256, bit poison ((off + j) / 8))))
    let r := restoreImage s read (c.par 24 8) (fun _ _ => some n)
      (fun st => (st.postError n 1 2 0 0 0 0, { CmdResult.zero with status := stAborted, flags := 1 }))
    c.finish r.1 fn r.2.status r.2.count

/-- RESTORE (R464, R527): refused in a RUNNING tenancy that has committed. -/
def execRestore (fn : Fin 16) (q : Fin 64) (hseq : BitVec 32) (image poison : Nat) (s : State) : Host.Outcome State Fault Refusal :=
  hostRow s fn q.val hseq.toNat 8 [tsHeld, tsRunning] true
    (fun c => decide (c.par 16 2 ≤ 0x3FFF) && c.par 18 2 == 0 && c.zeroFrom 32)
    (fun s1 c => if !restoreAllowed s1 fn.val then c.finish s1 fn stStateConflict 0 else hostRestore fn image poison s1 c)

/-- HOLD (R468, R526). -/
def execHold (fn : Fin 16) (q : Fin 64) (hseq : BitVec 32) (s : State) : Host.Outcome State Fault Refusal :=
  hostRow s fn q.val hseq.toNat 9 [tsRunning] false (fun c => c.zeroFrom 16) (fun s1 c => c.finish (enterHeld s1 fn.val 1) fn stOk 0)

/-- RELEASE (R469). -/
def execRelease (fn : Fin 16) (q : Fin 64) (hseq : BitVec 32) (s : State) : Host.Outcome State Fault Refusal :=
  hostRow s fn q.val hseq.toNat 10 [tsHeld] false (fun c => c.zeroFrom 16) (fun s1 c =>
    let x := s1.tenant fn.val
    if (x.heldCase = 3 || x.heldCase = 4) && !x.restoredOk then c.finish s1 fn stStateConflict 0
    else c.finish (setTstate (s1.setTenant fn.val { x with heldCase := 0 }) fn.val tsRunning 0) fn stOk 0)

/-- SCRUB (R499, R526): it changes the state when it starts, and completes when the tenancy is IDLE. -/
def execScrub (fn : Fin 16) (q : Fin 64) (hseq : BitVec 32) (s : State) : Host.Outcome State Fault Refusal :=
  hostRow s fn q.val hseq.toNat 11 [tsIdle, tsLoaded, tsHeld] true (fun c => c.zeroFrom 16) (fun s1 c =>
    if s1.tstate fn.val = tsScrubbing then c.finish (setTstate (scrubEnd s1 fn.val) fn.val tsIdle 0) fn stOk 0
    else scrubStart (setTstate s1 fn.val tsScrubbing 0) fn.val)

/-- QUERY (R525). -/
def execQuery (fn : Fin 16) (q : Fin 64) (hseq : BitVec 32) (s : State) : Host.Outcome State Fault Refusal :=
  hostRow s fn q.val hseq.toNat 12 (upto 7) false (fun c => c.zeroFrom 16) (fun s1 c =>
    c.finish s1 fn stOk (s1.tstate fn.val + s1.dstate * 2 ^ 8 + s1.ten fn.val 0xC090 0x31 % 2 ^ 32 * 2 ^ 16 +
      s1.ten fn.val 0xC070 2 * 2 ^ 48))

/-- The path of a function's Stop accesses (R540, R543). -/
def fnPath (fn : Fin 16) : StopPath := if fn.val = 0 then .pf else .vf fn.val

/-- Whether the bytes of a Stop command that have no meaning are zero. -/
def stopParsOk (c : HostCmd) : Bool := decide (c.par 19 1 ≤ 1) && c.par 20 4 == 0 && c.zeroFrom 36 && (c.par 19 1 == 1 || c.par 32 4 == 0)

/-- SET_STOP (R527): the value from the entry, or the LENGTH bytes at HADDR. A stored Stop completes when its value is in flash. -/
def execSetStop (fn : Fin 16) (q : Fin 64) (hseq : BitVec 32) (data : Nat) (s : State) : Host.Outcome State Fault Refusal :=
  hostRow s fn q.val hseq.toNat 13 (upto 7) false stopParsOk (fun s1 c =>
    let idx := c.par 16 2
    let sub := c.par 18 1
    let ind := c.par 19 1 = 1
    let size := match stopInfo idx sub with | some i => i.size | none => 0
    let len := if ind then c.par 32 4 else if size ≤ 8 then size else 8
    let v := if ind then data % 256 ^ len else c.par 24 8
    let s2 := if ind then s1.count fn.val 0x15 len else s1
    match stopWrite s2 (fnPath fn) idx sub fn.val len v with
    | .error st => c.finish s2 fn st 0
    | .ok (s3, i) =>
      if i.stored then toFlash s2 (putHostCmd s3 fn { c with stage := 2 }) idx sub fn.val (.ring fn.val c.sq c.hseq)
      else c.finish s3 fn stOk 0)

/-- GET_STOP (R527): the value in RESULT when it fits; with INDIRECT, at most LENGTH bytes of it go to HADDR. -/
def execGetStop (fn : Fin 16) (q : Fin 64) (hseq : BitVec 32) (s : State) : Host.Outcome State Fault Refusal :=
  hostRow s fn q.val hseq.toNat 14 (upto 7) false
    (fun c => stopParsOk c && (c.par 19 1 == 1 || c.par 24 8 == 0)) (fun s1 c =>
    match stopRead s1 (fnPath fn) (c.par 16 2) (c.par 18 1) fn.val with
    | .error st => c.finish s1 fn st 0
    | .ok a =>
      let len := min a.size (c.par 32 4)
      let s2 := if c.par 19 1 = 1 then (s1.hostWrite (c.par 24 8) ⟨len, a.value % 256 ^ len⟩).count fn.val 0x15 len else s1
      c.finish s2 fn stOk (if a.size ≤ 8 then a.value else 0))

/-! ### The BAR2 aperture (R533) -/

/-- An access through BAR2 that is dropped or aborted: counted, and reported once in a management period. -/
def bar2Refused (s : State) (fn : Fin 16) (va : Nat) : State :=
  let n := fn.val
  let x := s.tenant n
  let s1 := (s.count n 0x2D 1).setTenant n { x with refused := x.refused + 1, refusedVa := if x.refused = 0 then va else x.refusedVa }
  if x.refused = 0 then s1.postError n 5 4 n 0 1 va else s1

/-- The parts of an access page by page: address and length. -/
def pageParts : Nat → Nat → Nat → List (Nat × Nat)
  | 0, _, _ => []
  | f + 1, va, len => if len = 0 then [] else
    let k := min len (65536 - va % 65536)
    (va, k) :: pageParts f (va + k) (len - k)

/-- What a read finds on one page: bytes, or none where it is aborted. -/
def bar2Part (s : State) (n va len : Nat) : State × Option (List PByte) :=
  let w := walk s (spaceOf n) va
  match w.2 with
  | .leaf _ _ e =>
    if e % 8 = 3 then (w.1, some (List.replicate len (0, false)))
    else if e % 8 = 2 && bit e 50 then
      let r := hostRead w.1 n va len
      (r.1, match r.2 with | .ok bs => some bs | .error _ => none)
    else (w.1, none)
  | _ => (w.1, none)

/-- The parts of a read in order. -/
def bar2Parts (n : Nat) : List (Nat × Nat) → State → State × Option (List PByte)
  | [], s => (s, some [])
  | p :: ps, s =>
    let a := bar2Part s n p.1 p.2
    match a.2 with
    | none => (a.1, none)
    | some bs =>
      let b := bar2Parts n ps a.1
      (b.1, b.2.map (fun cs => bs ++ cs))

/-- BAR2_READ (R504, R533): len bytes at an offset of the aperture; the completion stands in the function's reply. -/
def execBar2Read (fn : Fin 16) (off : BitVec 36) (len : BitVec 13) (tee : Bool) (s : State) : Host.Outcome State Fault Refusal :=
  let n := fn.val
  let k := len.toNat
  let reply (st : State) (kind : Nat) (b : Blob) : State := st.setFn fn { st.fn fn with reply := (kind, b) }
  let va := (s.fn fn).bar2 + off.toNat
  if !barOk s fn tee then .next (reply s 3 ⟨0, 0⟩)
  else if s.tstate n = tsScrubbing then .next (reply s 0 ⟨k, 0⟩)
  else
    let r := bar2Parts n (pageParts (k / 65536 + 2) va k) s
    match r.2 with
    | none => .next (reply (bar2Refused r.1 fn va) 2 ⟨0, 0⟩)
    | some bs => .next (reply (r.1.count n 0x15 k) (b2n (bytesPoison bs)) ⟨k, bytesVal bs⟩)

/-- One page of a write: dropped and counted unless its page takes it. -/
def bar2Store (fn : Fin 16) (s : State) (va len v : Nat) : State :=
  let n := fn.val
  let a := hostRange s n va len true
  match a.2 with
  | .error _ => bar2Refused a.1 fn va
  | .ok runs => (writeRuns (windowAt a.1 n va) runs (mkBytes len v false) a.1).count n 0x15 len

/-- BAR2_WRITE (R504, R533, R515). -/
def execBar2Write (fn : Fin 16) (off : BitVec 36) (len : BitVec 10) (data : Nat) (tee : Bool) (s : State) : Host.Outcome State Fault Refusal :=
  let k := len.toNat
  let va := (s.fn fn).bar2 + off.toNat
  if !barOk s fn tee || s.tstate fn.val = tsScrubbing then .next s
  else .next ((pageParts (k / 65536 + 2) va k).foldl (fun (st : State) p =>
    bar2Store fn st p.1 p.2 (data / 256 ^ (p.1 - va) % 256 ^ p.2)) s)

/-! ### The DOE mailbox (R493, R503, R504) -/

/-- DOE_ATTEST (R493, R503): the mailbox is the physical function's, so it answers for tenancy 0 and for the device. -/
def execDoeAttest (req : BitVec 512) (s : State) : Host.Outcome State Fault Refusal :=
  let v := req.toNat
  let ten := v / 256 ^ 32 % 256
  if !attestAsk v || (ten ≠ 0 && ten ≠ 0xFF) then .next { s with doe := none }
  else
    let a := attestReport s (v % 256 ^ 32) ten
    .next { a.2 with doe := some a.1 }

/-- The answer of the DOE mailbox to a request of another protocol: its bytes are not the spec's. -/
def doeReply (s : State) (kind len v : Nat) : State :=
  let r := Config.doeAnswer kind len v s.draws
  { s with doe := some ⟨r.1, r.2⟩, draws := s.draws + 1 }

/-- SPDM_TDISP_REQUEST (R503, R504): a session under the module's own algorithms, stream keys within it, and the states of a
virtual function's TDI: 0 unlocked, 1 locked, 2 RUN. -/
def execSpdmTdispRequest (req : DoeReq) (s : State) : Host.Outcome State Fault Refusal :=
  match req with
  | .discovery index => .next (doeReply s 0 1 index.toNat)
  | .spdm own len body => .next (doeReply (if own then { s with spdm := true } else s) 1 len body)
  | .ideKey fn key => .next (doeReply (if s.spdm then s.setFn fn { s.fn fn with ide := some key.toNat } else s) 2 33 (key.toNat * 256 + fn.val))
  | .tdisp fn op =>
    let x := s.fn fn
    let new := match op with
      | .lock => if x.tdi = 0 then 1 else x.tdi
      | .start => if x.tdi = 1 then 2 else x.tdi
      | .stop => 0
    .next (doeReply (if s.spdm && fn.val ≠ 0 then s.setFn fn { x with tdi := new } else s) 3 1 fn.val)

/-! ### The management period (R354, R431, R535, R560) -/

/-- Counters of the device banks (R536). -/
def deviceCounters : List Nat := upto 0x16 ++ (upto 14).map (fun k => 0x20 + k) ++ (upto 5).map (fun k => 0x40 + k)

/-- The device and port banks latch and restart; PERIOD has risen first and goes on. -/
def latchDevice (s : State) : State :=
  let s1 := s.setDev 0x9000 0x44 (s.dev 0x9000 0x44 + 1)
  let s2 := deviceCounters.foldl (fun (st : State) k =>
    let st1 := st.setDev 0x9001 k (st.dev 0x9000 k)
    if k = 0x44 then st1 else st1.setDev 0x9000 k 0) s1
  (upto 96).foldl (fun (st : State) j =>
    let idx := 0x9010 + j / 6
    (st.setDev idx (0x10 + j % 6) (st.dev idx (j % 6))).setDev idx (j % 6) 0) s2

/-- A share of the sweep that fell short on a channel (R430, R431). -/
def shareShort (s : State) (channel n : Nat) : State :=
  let left := s.ten n 0xC050 1
  if left = 0 then s else breach s n 4 5 0xFF channel (s.ten n 0xC090 0x31) (min left (2 ^ 32 - 1))

/-- MANAGEMENT_PERIOD (R535): the mean input power of the period, and the channels and tenancies whose reserved share fell short. -/
def execManagementPeriod (power : BitVec 32) (short : List (Fin 192 × Fin 16)) (s : State) : Host.Outcome State Fault Refusal :=
  let s1 := short.eraseDups.foldl (fun (st : State) x => shareShort st x.1.val x.2.val) s
  let s2 := (latchDevice s1).setDev 0x2006 0 power.toNat
  .next { s2 with ports := s2.ports.map (fun p => { p with departures := 0 }),
                  tenants := s2.tenants.map (fun t => { t with refused := 0, refusedVa := 0 }) }

end Sys2Proof.Machine
end

