-- ==== Sys2Proof/Machine/Clock.lean ====
section
/-!
DEFINITION. Machine/Clock.lean: CK_CTL cycles that pass. The table has no row for a tick: cycles pass while no command waits, and
LOCAL_TIMER brings a timer to its comparison value (DESIGN CHOICE, log entry 1).
-/

namespace Sys2Proof.Machine

/-- Whether STEP_TIME of a tenancy counts: it has a job (R497, R536). -/
def stepCounting (s : State) (n : Nat) : Bool :=
  s.tstate n == tsRunning || s.tstate n == tsHeld || s.tstate n == tsDraining

/-- The counter STEP_TIME of a tenancy after n more cycles (R536). -/
def addStepTime (n : Nat) (s : State) (t : Nat) : State :=
  if stepCounting s t then s.setTen t 0xC090 0x30 (s.ten t 0xC090 0x30 + n) else s

/-- n CK_CTL cycles pass: TIMER_NOW of every core rises by n (R599), and STEP_TIME of every tenancy that has a job (R536). Nothing
counts while the clocks of the cores are stopped. -/
def passCycles (s : State) (n : Nat) : State :=
  if !s.clockOn then s
  else
    let s1 : State := { s with cores := s.cores.map (fun k => { k with timerNow := k.timerNow + BitVec.ofNat 64 n }) }
    (upto 16).foldl (addStepTime n) s1

/-- What a step does when no command waits: one cycle passes. -/
def tick (s : State) : State := passCycles s 1

end Sys2Proof.Machine
end

