-- ==== Sys2Proof/Machine/System.lean ====
section
/-!
DEFINITION. Machine/System.lean: the system registers, ERET, SVCLR and SVSET of major 0x62, interrupts, NMI and the local
timer (R85, R86, R92 to R95, R99 to R102, R599).
-/

namespace Sys2Proof.Machine

/-! ### The register map (R86, R92) -/

/-- The fields of a save set that SYS names. -/
inductive SvField where
  | pc | pcc | rscap | rsp | state | prog | cause | faddr | tags | g2627 | g28 | g29 | g3031
deriving DecidableEq, Repr

/-- The system registers; n is 1 or 2. -/
inductive SysReg where
  | level | tenancy | ie | ipend | timerNow | timerCmp
  | dt (n : Nat) | lrs (n : Nat) | lrsp (n : Nat) | imask (n : Nat)
  | sv (n : Nat) (f : SvField)
deriving DecidableEq, Repr

/-- The save-set field at an offset (R92). -/
def svFieldOf (off : Nat) : Option SvField :=
  match off with
  | 0x00 => some .pc | 0x01 => some .pcc | 0x02 => some .rscap | 0x03 => some .rsp | 0x04 => some .state
  | 0x05 => some .prog | 0x06 => some .cause | 0x07 => some .faddr | 0x08 => some .tags | 0x10 => some .g2627
  | 0x12 => some .g28 | 0x13 => some .g29 | 0x14 => some .g3031
  | _ => none

/-- The register of a sysreg number, none for one the table does not list. -/
def sysRegOf (n : Nat) : Option SysReg :=
  match n with
  | 0x000 => some .level | 0x001 => some .tenancy | 0x002 => some .ie | 0x003 => some .ipend
  | 0x004 => some .timerNow | 0x005 => some .timerCmp
  | 0x010 => some (.dt 1) | 0x011 => some (.lrs 1) | 0x012 => some (.lrsp 1) | 0x013 => some (.imask 1)
  | 0x020 => some (.dt 2) | 0x021 => some (.lrs 2) | 0x022 => some (.lrsp 2) | 0x023 => some (.imask 2)
  | _ =>
    if n / 256 = 1 || n / 256 = 2 then (svFieldOf (n % 256)).map (SysReg.sv (n / 256)) else none

/-- Whether a save-set field is a pair. -/
def SvField.isPair : SvField → Bool
  | .pcc => true
  | .rscap => true
  | .g2627 => true
  | .g3031 => true
  | _ => false

/-- Whether a register is a pair register. -/
def SysReg.isPair : SysReg → Bool
  | .dt _ => true
  | .lrs _ => true
  | .sv _ f => f.isPair
  | _ => false

/-- The level a register needs. -/
def SysReg.minLevel : SysReg → Nat
  | .level => 0
  | .tenancy => 0
  | .ie => 1
  | .ipend => 1
  | .timerNow => 1
  | .timerCmp => 1
  | .dt n => n
  | .lrs n => n
  | .lrsp n => n
  | .imask n => n
  | .sv n _ => n

/-- Whether the register holds a saved general register. -/
def SysReg.isG : SysReg → Bool
  | .sv _ .g2627 => true
  | .sv _ .g28 => true
  | .sv _ .g29 => true
  | .sv _ .g3031 => true
  | _ => false

/-- The register of an instruction: ILLEGAL_OP for one not listed or of the other kind (R86). -/
def sysLookup (sysreg : BitVec 12) (pair : Bool) : M SysReg :=
  match sysRegOf sysreg.toNat with
  | none => illegal
  | some r => if r.isPair == pair then pure r else illegal

/-- SYS on PCC and a sufficient level; CAP_VIOLATION sub-code 0x0C otherwise (R86). -/
def needSys (t : Tid) (level : Nat) : M Unit := do
  let th ← getT t
  let c := th.pcc.toCap
  if !c.has permSYS || th.level.val < level then capViol (c.missing permSYS) 0xC 0

/-! ### Values -/

/-- Interrupts pending on a thread: those made pending, and vector 56 while TIMER_NOW is at or above TIMER_CMP (R101,
R599). -/
def pendingOf (s : State) (t : Tid) : Nat :=
  let th := s.th t
  setFld (th.ipend.toNat / 2 ^ 32 * 2 ^ 32) 56 56 (b2n (decide (th.timerCmp.toNat ≤ (s.core t.core).timerNow.toNat)))

/-- The STATE word (R93). -/
def stateWord (v : SaveSet) : Nat :=
  b2n v.live * 2 ^ 15 + v.prevLevel.val * 2 ^ 10 + b2n v.prevIe * 2 ^ 9 + b2n v.nmi * 2 ^ 8 + v.tenancy.val

/-- The TAGS word (R95). -/
def tagsWord (v : SaveSet) : Nat :=
  b2n v.rscap.isCap * 2 ^ 25 + b2n v.pcc.isCap * 2 ^ 24 + v.g31.tag.code * 2 ^ 20 + v.g30.tag.code * 2 ^ 16 +
    v.g29.tag.code * 2 ^ 12 + v.g28.tag.code * 2 ^ 8 + v.g27.tag.code * 2 ^ 4 + v.g26.tag.code

/-- A saved register as SYSRD returns it: a capability half as INT (R92). -/
def halfAsInt (r : Reg) : Reg := if r.tag.isCap then .int r.val else r

/-- A saved pair as SYSRDC returns it: a capability only when its halves form one (R92). -/
def pairAsRead (p : Pair) : Pair := if p.isCap then p else ⟨halfAsInt p.a, halfAsInt p.b⟩

/-- A capability register as SYSRDC returns it: NIL halves when it holds none (R14). -/
def capAsRead (p : Pair) : Pair := if p.isCap then p else .nil

/-- The value of a single register. -/
def sysValue (s : State) (t : Tid) (r : SysReg) : Reg :=
  let th := s.th t
  match r with
  | .level => .int (BitVec.ofNat 64 th.level.val)
  | .tenancy => .int (BitVec.ofNat 64 th.tenancy.val)
  | .ie => .int (BitVec.ofNat 64 (b2n th.ie))
  | .ipend => .int (BitVec.ofNat 64 (pendingOf s t))
  | .timerNow => .int (s.core t.core).timerNow
  | .timerCmp => .int th.timerCmp
  | .lrsp n => .int (th.lrsp n)
  | .imask n => .int (if n = 1 then th.imask1 else th.imask2)
  | .sv n f =>
    let v := th.sv n
    match f with
    | .pc => .int v.pc
    | .rsp => .int v.rsp
    | .state => .int (BitVec.ofNat 64 (stateWord v))
    | .prog => .int (v.prog.zeroExtend 64)
    | .cause => .int v.cause
    | .faddr => .int v.faddr
    | .tags => .int (BitVec.ofNat 64 (tagsWord v))
    | .g28 => halfAsInt v.g28
    | .g29 => halfAsInt v.g29
    | _ => .nil
  | _ => .nil

/-- The value of a pair register. -/
def sysPair (th : Thread) (r : SysReg) : Pair :=
  match r with
  | .dt n => capAsRead (th.dt n)
  | .lrs n => capAsRead (th.lrs n)
  | .sv n f =>
    let v := th.sv n
    match f with
    | .pcc => capAsRead v.pcc
    | .rscap => capAsRead v.rscap
    | .g2627 => pairAsRead ⟨v.g26, v.g27⟩
    | .g3031 => pairAsRead ⟨v.g30, v.g31⟩
    | _ => .nil
  | _ => .nil

/-- A saved partner of G28 or G29 that is half of a capability becomes NIL (R92). -/
def partnerKept (r : Reg) : Reg := if r.tag.isCap then .nil else r

/-- A write of a single register; RO registers and reserved bits ignore it (R11, R15, R86, R92, R93). -/
def sysWrite (th : Thread) (r : SysReg) (v : Reg) : Thread :=
  match r with
  | .ie => { th with ie := bit v.val.toNat 0 }
  | .timerCmp => { th with timerCmp := v.val }
  | .lrsp n => if n = 1 then { th with lrsp1 := v.val } else { th with lrsp2 := v.val }
  | .imask n =>
    let m := v.val &&& 0xFFFFFFFF00000000
    if n = 1 then { th with imask1 := m } else { th with imask2 := m }
  | .sv n f =>
    let x := th.sv n
    match f with
    | .pc => th.setSv n { x with pc := v.val }
    | .rsp => th.setSv n { x with rsp := v.val }
    | .state => th.setSv n { x with prevIe := bit v.val.toNat 9 }
    | .prog => th.setSv n { x with prog := v.val.truncate 32 }
    | .faddr => th.setSv n { x with faddr := v.val }
    | .g28 => th.setSv n { x with g28 := v, g29 := partnerKept x.g29 }
    | .g29 => th.setSv n { x with g29 := v, g28 := partnerKept x.g28 }
    | _ => th
  | _ => th

/-- A write of a pair register. -/
def sysWritePair (th : Thread) (r : SysReg) (p : Pair) : Thread :=
  match r with
  | .dt n => if n = 1 then { th with dt1 := p } else { th with dt2 := p }
  | .lrs n => if n = 1 then { th with lrs1 := p } else { th with lrs2 := p }
  | .sv n f =>
    let x := th.sv n
    match f with
    | .pcc => th.setSv n { x with pcc := p }
    | .rscap => th.setSv n { x with rscap := p }
    | .g2627 => th.setSv n { x with g26 := p.a, g27 := p.b }
    | .g3031 => th.setSv n { x with g30 := p.a, g31 := p.b }
    | _ => th
  | _ => th

/-! ### The instructions (R85, R86) -/

/-- SYSRD (R85, R86, R92). -/
def execSysrd (t : Tid) (rd : RIdx) (sysreg : BitVec 12) (s : State) :=
  simple t (do
    let r ← sysLookup sysreg false
    needSys t r.minLevel
    let s1 ← getS
    wr t rd (sysValue s1 t r)) s

/-- SYSRDC (R85, R86, R92). -/
def execSysrdc (t : Tid) (rd : RIdx) (sysreg : BitVec 12) (s : State) :=
  simple t (do
    let r ← sysLookup sysreg true
    needEven [rd]
    needSys t r.minLevel
    let th ← getT t
    wrPair t rd (sysPair th r)) s

/-- SYSWR: rs1 of the condition class with USE 0x6, or of the move class for G28 and G29 (R86). -/
def execSyswr (t : Tid) (rs1 : RIdx) (sysreg : BitVec 12) (s : State) :=
  simple t (do
    let r ← sysLookup sysreg false
    let v ← greg t rs1
    if r.isG then checkOps [opnd 1 .move v] else checkOps [⟨1, .cond, v, false, some 6, 0⟩]
    needSys t r.minLevel
    modT t (fun th => sysWrite th r v)) s

/-- The operands of SYSWRC: a capability of class 0x5 for PCC, RSCAP, DT and LRS; for a saved general pair a capability,
sealed or not, or two values of the move class other than NIL, stored with their tags (R34, R76, R92). -/
def syswrcOps (r : SysReg) (p : Pair) : List Opnd :=
  if r.isG then
    if p.a.tag.isCap || p.b.tag.isCap then pairOps 1 p .capOrSealed
    else [opnd 1 .moveNotNil p.a, opnd 1 .moveNotNil p.b]
  else pairOps 1 p .cap

/-- SYSWRC (R85, R86, R92). -/
def execSyswrc (t : Tid) (rs1 : RIdx) (sysreg : BitVec 12) (s : State) :=
  simple t (do
    let r ← sysLookup sysreg true
    needEven [rs1]
    let th ← getT t
    let p := th.pair rs1
    checkOps (syswrcOps r p)
    needSys t r.minLevel
    if p.isCap then capUse t p.toCap 0
    modT t (fun h => sysWritePair h r p)) s

/-! ### NMI (R102) -/

/-- Takes an asynchronous vector on a thread; a waiting request for tile registers counts as new when the thread resumes
(R128). -/
def takeAsync (s : State) (t : Tid) (v : Nat) : State :=
  let th := s.th t
  takeTrap t ⟨v, 0, 0, th.stopPfx, th.stopExt, false, true⟩ (dropTileWait (issue s t) t)

/-- Whether a thread is at a boundary where an asynchronous vector can enter: it runs, is loaded, or waits with nothing
done. -/
def Thread.atBoundary (th : Thread) : Bool :=
  match th.status with
  | .active => true
  | .loaded => true
  | .waiting _ => true
  | _ => false

/-- Delivers an NMI to a thread: it enters at L2, or is held while SV2 is LIVE; a halted thread holds it until it runs
again, and one without a task takes none (R102). -/
def deliverNmi (s : State) (t : Tid) : State :=
  let th := s.th t
  if th.status = .empty then s
  else if th.atBoundary && !th.sv2.live then takeAsync s t 1
  else s.setTh t { th with nmi := .held }

/-- A held NMI enters at L2 once SV2 is not LIVE (R102). -/
def enterHeldNmi (t : Tid) (s : State) : State :=
  let th := s.th t
  if th.nmi = .held && th.atBoundary && !th.sv2.live then takeAsync s t 1 else s

/-- A state function after a step's next state. -/
def andThen (f : State → State) : Host.Outcome State Fault Refusal → Host.Outcome State Fault Refusal
  | .next s => .next (f s)
  | .fault e => .fault e
  | .refused e => .refused e

/-- Whether a thread runs a task. -/
def Thread.runsTask (th : Thread) : Bool := th.task.isSome && th.status != .empty

/-- The threads an NMI goes to. -/
def nmiThreads (s : State) : NmiTarget → List Tid
  | .thread t => [t]
  | .core c => coreTids c
  | .running => allTids.filter (fun t => (s.th t).runsTask)

/-- NMI (R102). -/
def execNmi (target : NmiTarget) (s : State) : Host.Outcome State Fault Refusal :=
  .next ((nmiThreads s target).foldl deliverNmi s)

/-- An NMI held to the end of its bound with SV2 still LIVE ends at L3 (R102): SV3 with ESC 1 and ASYNC 1. -/
def execNmiHoldExpiry (t : Tid) (s : State) : Host.Outcome State Fault Refusal :=
  let th := s.th t
  if th.nmi = .held && th.atBoundary && th.sv2.live then
    .next (haltThread s t ⟨1, 0, 0, th.stopPfx, th.stopExt, true, true⟩)
  else .next s

/-! ### ERET, SVCLR, SVSET (R86, R99, R100) -/

/-- ERET (R99): the restored iteration counter stays as PROG left it. -/
def execEret (t : Tid) (s : State) : Host.Outcome State Fault Refusal :=
  andThen (enterHeldNmi t) (runInstr t {} (do
    needSys t 1
    let th ← getT t
    let n := th.level.val
    let v := th.sv n
    if !v.live then illegal 0x20
    modT t (fun h => (h.setSv n { v with live := false }).restore v)
    pauseM) s)

/-- LIVE of the current level's save set. -/
def setLive (t : Tid) (b : Bool) : M Unit := do
  needSys t 1
  modT t (fun h => h.setSv h.level.val { h.sv h.level.val with live := b })

/-- SVCLR (R85, R100). -/
def execSvclr (t : Tid) (s : State) : Host.Outcome State Fault Refusal :=
  andThen (enterHeldNmi t) (simple t (setLive t false) s)
/-- SVSET (R85, R100). -/
def execSvset (t : Tid) (s : State) : Host.Outcome State Fault Refusal := simple t (setLive t true) s

/-! ### Interrupts and the timer (R101, R599) -/

/-- The lowest pending interrupt that a thread accepts at its boundary (R101). -/
def acceptedVector (s : State) (t : Tid) : Option Nat :=
  let th := s.th t
  if !th.ie || th.inRepn || !th.atBoundary then none
  else
    let m := Nat.land (pendingOf s t) (if th.level.val = 2 then th.imask2.toNat else th.imask1.toNat)
    (upto 64).find? (fun v => 32 ≤ v && bit m v)

/-- INTERRUPT_ENTRY: the accepted interrupt is no longer pending, and enters (R96, R101). -/
def execInterruptEntry (t : Tid) (s : State) : Host.Outcome State Fault Refusal :=
  match acceptedVector s t with
  | none => .next s
  | some v =>
    let th := s.th t
    .next (takeAsync (s.setTh t { th with ipend := BitVec.ofNat 64 (setFld th.ipend.toNat v v 0) }) t v)

/-- LOCAL_TIMER: cycles pass until TIMER_NOW of the thread's core has reached the thread's TIMER_CMP (R599). -/
def execLocalTimer (t : Tid) (s : State) : Host.Outcome State Fault Refusal :=
  .next (passCycles s ((s.th t).timerCmp.toNat - (s.core t.core).timerNow.toNat))

end Sys2Proof.Machine
end

