-- ==== Sys2Proof/Machine/Sap.lean ====
section
/-!
DEFINITION. Machine/Sap.lean: the BAR0 mailboxes, the registers of BAR0, the Stop Access Protocol on the management port and over the
fabric, and stored Stops reaching flash (R505, R506, R546 to R557, R580).
-/

namespace Sys2Proof.Machine

/-! ### The BAR0 mailboxes (R548, R549) -/

/-- A mailbox of a function. -/
def Func.box (x : Func) (m : Nat) : Mailbox := Tab.getD x.boxes m .reset
/-- A mailbox replaced. -/
def State.putBox (s : State) (fn : Fin 16) (m : Nat) (b : Mailbox) : State := s.setFn fn { s.fn fn with boxes := Tab.put (s.fn fn).boxes m b }

/-- BUSY of MB_STATUS. -/
def Mailbox.busy (b : Mailbox) : Bool := bit b.status 8

/-- A mailbox write is ignored while BUSY and sets OVERRUN. -/
def Mailbox.overrun (b : Mailbox) : Mailbox := { b with status := Nat.lor b.status 1024 }

/-- The path of a mailbox request, and the tenancy whose window it names (R540). -/
def boxWindow (fn : Fin 16) (b : Mailbox) : Nat := if fn.val = 0 then (if bit b.req 36 then fld b.req 35 32 else 0) else fn.val

/-- TYPE and GEN of a Stop whether or not an access of it succeeds; none where the map has no such Stop. -/
def stopTypeGen (s : State) (idx sub n : Nat) : Nat × Nat :=
  match stopInfo idx sub with
  | some i => (i.type, stopGen s idx sub n)
  | none => (0, 0)

/-- Steps 1 to 4 of R549: the value that an access left, RLEN, TYPE, GEN and STATUS; DONE is set and BUSY cleared. -/
def boxDone (s : State) (fn : Fin 16) (m st : Nat) (a : StopAnswer) : State :=
  let b := (s.fn fn).box m
  let data := if a.size = 0 then b.data else setFld b.data (8 * a.size - 1) 0 a.value
  let ovr := b.status / 1024 % 2
  s.putBox fn m { b with data := data, status := a.gen * 2 ^ 32 + a.size * 2 ^ 16 + a.type * 2 ^ 12 + ovr * 2 ^ 10 + 2 ^ 9 + st }

/-- A request that does not succeed. -/
def boxFailed (s : State) (fn : Fin 16) (m st : Nat) (tg : Nat × Nat) : State := boxDone s fn m st ⟨0, tg.1, 0, tg.2⟩

/-- GO: the request of a mailbox is performed (R549). A write of a stored Stop stays BUSY until its value is in flash (R546); a
reserved OP is rejected with RANGE (R11). -/
def boxGo (s : State) (fn : Fin 16) (m : Nat) : State :=
  let b := (s.fn fn).box m
  if b.busy then s.putBox fn m b.overrun
  else
    let idx := b.req % 65536
    let sub := fld b.req 23 16
    let op := fld b.req 27 24
    let n := boxWindow fn b
    let s1 := s.putBox fn m { b with status := b.status - b.status / 512 % 2 * 512 + 256 }
    if op = 1 then
      match stopRead s1 (fnPath fn) idx sub n with
      | .ok a => boxDone s1 fn m stOk a
      | .error st => boxFailed s1 fn m st (stopTypeGen s1 idx sub n)
    else if op = 2 then
      match stopWrite s1 (fnPath fn) idx sub n b.len (b.data % 256 ^ b.len) with
      | .error st => boxFailed s1 fn m st (stopTypeGen s1 idx sub n)
      | .ok (s2, i) =>
        if i.stored then toFlash s1 s2 idx sub n (.box fn.val m)
        else boxDone s2 fn m stOk (stopHeld s2 idx sub n i)
    else boxFailed s1 fn m stRange (0, 0)

/-- GET (R549): GO of a mailbox whose OP is GET. -/
def execGet (fn box : Fin 16) (tee : Bool) (s : State) : Host.Outcome State Fault Refusal :=
  .next (if barOk s fn tee && fld ((s.fn fn).box box.val).req 27 24 == 1 then boxGo s fn box.val else s)

/-- SET (R549): GO of a mailbox whose OP is SET. -/
def execSet (fn box : Fin 16) (tee : Bool) (s : State) : Host.Outcome State Fault Refusal :=
  .next (if barOk s fn tee && fld ((s.fn fn).box box.val).req 27 24 == 2 then boxGo s fn box.val else s)

/-- A write of eight bytes in a mailbox's 64 KiB: MB_REQ, MB_LEN, MB_GO, the W1C bit of MB_STATUS, or the data area. -/
def writeBox (s : State) (fn : Fin 16) (m off v : Nat) : State :=
  let b := (s.fn fn).box m
  if off = 0x18 then s.putBox fn m (if bit v 10 then { b with status := b.status - b.status / 1024 % 2 * 1024 } else b)
  else if off = 0x10 then (if b.busy then s.putBox fn m b.overrun else if bit v 0 then boxGo s fn m else s)
  else if 0x18 < off && off < 0x100 then s
  else if b.busy then s.putBox fn m b.overrun
  else if off = 0 then s.putBox fn m { b with req := v % 2 ^ 28 + fld v 36 32 * 2 ^ 32 }
  else if off = 8 then s.putBox fn m { b with len := v % 65536 }
  else s.putBox fn m { b with data := setFld b.data (8 * (off - 0x100) + 63) (8 * (off - 0x100)) v }

/-! ### The registers of BAR0 (R505, R506) -/

/-- A write of EV_STATUS: its W1C bits. -/
def writeEvStatus (s : State) (fn : Fin 16) (v : Nat) : State :=
  let x := s.fn fn
  s.setFn fn { x with ev := { x.ev with status := clearStatus x.ev.status (v % 256) } }

/-- A write of a register in the pages of function and ring registers. -/
def writeRingReg (s : State) (fn : Fin 16) (o v : Nat) : State :=
  let q := o / 16 % 256
  if o < 0x101000 then
    match o % 4096 with
    | 0x00 => s.setFn fn { s.fn fn with bar2 := v - v % 2 ^ 36 }
    | 0x08 => writeCqBase s fn 64 v
    | 0x10 => writeCqCtl s fn 64 (v % 2 ^ 32)
    | 0x18 => writeEvStatus s fn v
    | _ => s
  else if 64 ≤ q then s
  else if o < 0x102000 then (if o % 16 = 0 then writeSqBase s fn q v else writeSqCtl s fn q (v % 2 ^ 32))
  else (if o % 16 = 0 then writeCqBase s fn q v else writeCqCtl s fn q (v % 2 ^ 32))

/-- A write of eight bytes at an offset of BAR0. -/
def writeBar0 (s : State) (fn : Fin 16) (off v : Nat) : State :=
  let o := off / 8 * 8
  let k := o % 4096 / 8
  if o < 0x100000 then writeBox s fn (o / 65536) (o % 65536) v
  else if o < 0x103000 then writeRingReg s fn o v
  else if 0x200000 ≤ o && o < 0x201000 then (if k < 64 then writeDoorbell s fn k (v % 2 ^ 32) else s)
  else if 0x201000 ≤ o && o < 0x202000 then (if k ≤ 64 then writeHead s fn k (v % 2 ^ 32) else s)
  else if 0x203000 ≤ o && o < 0x203080 then userDoorbell s fn k
  else if 0x300000 ≤ o && o < 0x301000 then (if k < 130 then writeMsix s fn k v else s)
  else s

/-- A write of a register of SV3 (R580): those of R92 that may be written; the rest ignore it. -/
def writeSv3 (s : State) (t : Tid) (num : Nat) (r : Pair) : State :=
  if num / 256 ≠ 3 then s
  else match svFieldOf (num % 256) with
    | none => s
    | some f => s.setTh t (if f.isPair then sysWritePair (s.th t) (.sv 3 f) r else sysWrite (s.th t) (.sv 3 f) r.a)

/-- REGISTER_WRITE (R15, R505, R542, R580): a write that is refused has no effect. -/
def execRegisterWrite (target : RegTarget) (s : State) : Host.Outcome State Fault Refusal :=
  match target with
  | .bar0 fn off v tee => .next (if barOk s fn tee then writeBar0 s fn off.toNat v.toNat else s)
  | .stop idx sub ten len v =>
    match stopWrite s .pf idx.toNat sub.toNat ten.toNat len v with
    | .ok (s1, i) => .next (if i.stored then toFlash s s1 idx.toNat sub.toNat ten.toNat .none else s1)
    | .error _ => .next s
  | .sv3 t num v odd tag oddTag =>
    .next (writeSv3 s t num.toNat ⟨⟨v, Tag.ofCode tag.toNat⟩, ⟨odd, Tag.ofCode oddTag.toNat⟩⟩)

/-! ### Stop Access messages (R551 to R553) -/

/-- The fields of a message. -/
def Blob.op (m : Blob) : Nat := m.field 3 1
def Blob.seq (m : Blob) : Nat := m.field 4 2
def Blob.session (m : Blob) : Nat := m.field 8 4
def Blob.idx (m : Blob) : Nat := m.field 12 2
def Blob.sub (m : Blob) : Nat := m.field 14 1
def Blob.ten (m : Blob) : Nat := m.field 15 1
def Blob.length (m : Blob) : Nat := m.field 16 2
def Blob.offset (m : Blob) : Nat := m.field 20 4
def Blob.tagged (m : Blob) : Bool := bit (m.field 7 1) 0

/-- Whether a request is well formed (R552). A GET may leave out the bytes that its LENGTH counts, which are those it asks for. -/
def Blob.formed (m : Blob) : Bool :=
  let tag := if m.tagged then 32 else 0
  decide (32 ≤ m.len) && m.field 0 2 == 0x5A4F && m.field 2 1 == 1 && decide (1 ≤ m.op) && decide (m.op ≤ 4) &&
    decide (m.field 7 1 < 2) && m.field 18 2 == 0 && m.field 29 3 == 0 &&
    (m.len == 32 + m.length + tag || (m.op == 1 && m.len == 32 + tag))

/-- TAG over the bytes before it, under MGMT_KEY (R553). -/
def sapTag (s : State) (len v : Nat) : Nat := shake256 (32 + len) (s.dev 0x8010 0 + v % 256 ^ len * 256 ^ 32) 32

/-- Whether the TAG of a tagged request verifies. -/
def tagGood (s : State) (m : Blob) : Bool := m.field (m.len - 32) 32 == sapTag s (m.len - 32) m.val

/-- What a response carries. -/
structure SapReply where
  status : Nat
  offset : Nat
  gen : Nat
  type : Nat
  value : Blob
deriving DecidableEq, Repr

/-- The response to a request (R551). -/
def sapMessage (s : State) (m : Blob) (tagged : Bool) (r : SapReply) : Blob :=
  let n := 32 + r.value.len
  let v := 0x5A4F + 256 ^ 2 + (m.op + 128) * 256 ^ 3 + m.seq * 256 ^ 4 + r.status * 256 ^ 6 + b2n tagged * 256 ^ 7 +
    m.session * 256 ^ 8 + m.idx * 256 ^ 12 + m.sub * 256 ^ 14 + m.ten * 256 ^ 15 + r.value.len * 256 ^ 16 +
    r.offset % 2 ^ 32 * 256 ^ 20 + r.gen % 2 ^ 32 * 256 ^ 24 + r.type * 256 ^ 28 + r.value.val % 256 ^ r.value.len * 256 ^ 32
  if tagged then ⟨n + 32, v + sapTag s n v * 256 ^ n⟩ else ⟨n, v⟩

/-- A request that does not succeed. -/
def sapFailure (m : Blob) (st : Nat) (tg : Nat × Nat) : SapReply := ⟨st, if m.op = 1 then m.offset else 0, tg.2, tg.1, ⟨0, 0⟩⟩

/-! ### Where answers go (R550, R557) -/

/-- Addresses of the fabric: the SRC node of a request above every IPv6 address. -/
def nodeAddr (node : Nat) : Nat := 2 ^ 128 + node

/-- The reverse of a source route: its hop count field, and its port list read from the last hop to the first (R371, R557). -/
def reverseRoute (hops list : Nat) : Nat := (upto (hops + 1)).foldl (fun (v : Nat) h => v + list / 16 ^ (hops - h) % 16 * 16 ^ h) 0

/-- A response leaves: on the management port, or as an MGMT_RSP by the reverse route or by table to SRC. -/
def sapSend (s : State) (src : SapFrom) (b : Blob) : State :=
  if src.addr < 2 ^ 128 then { s with sapOut := s.sapOut ++ [(src, b)] }
  else
    let node := src.addr - 2 ^ 128
    match src.route with
    | none => s.send node 10 0 0xFFFF b.len (b.seq * 2 ^ 16) b.val
    | some (hops, list) => s.send node 10 4 0xFFFF (b.len + 8) (hops + b.seq * 2 ^ 16) (reverseRoute hops list + b.val * 256 ^ 8)

/-! ### Sources and sessions (R554) -/

/-- The source of an address, when its state is held. -/
def sapSource (s : State) (addr : Nat) : Option Source := s.sources.find? (fun x => x.ident == addr)

/-- A source's state is used: it goes to the end, and the one used least recently gives up the slot it needs. -/
def useSource (s : State) (x : Source) : State :=
  let others := s.sources.filter (fun y => y.ident != x.ident)
  { s with sources := (if 4 ≤ others.length then others.drop (others.length - 3) else others) ++ [x] }

/-- A kept response takes its place, when its request's session is still its source's. -/
def keepResponse (s : State) (src : SapFrom) (m b : Blob) : State :=
  { s with sources := s.sources.map (fun x =>
      if x.ident = src.addr && x.session = m.session then
        { x with kept := x.kept.map (fun k => if k.1 = m.seq && k.2.len = 0 then (k.1, b) else k) }
      else x) }

/-- A request completes: its response is kept when it is tagged, and sent. -/
def sapFinish (s : State) (src : SapFrom) (m : Blob) (tagged : Bool) (r : SapReply) : State :=
  let b := sapMessage s m tagged r
  sapSend (if tagged then keepResponse s src m b else s) src b

/-! ### The requests (R552, R556) -/

/-- The path of a request (R543). -/
def sapPath (tagged : Bool) : StopPath := if tagged then .tagged else .plain

/-- GET: at most LENGTH bytes from OFFSET onward. -/
def sapGet (s : State) (m : Blob) (tagged : Bool) : SapReply :=
  match stopRead s (sapPath tagged) m.idx m.sub m.ten with
  | .error st => sapFailure m st (stopTypeGen s m.idx m.sub m.ten)
  | .ok a =>
    if a.size ≤ m.offset then sapFailure m stRange (a.type, a.gen)
    else ⟨stOk, m.offset, a.gen, a.type, ⟨min (min m.length 1024) (a.size - m.offset), a.value / 256 ^ m.offset⟩⟩

/-- SET: the whole value; the response of a stored Stop waits for flash. -/
def sapSet (s : State) (src : SapFrom) (m : Blob) (tagged : Bool) : State :=
  match stopWrite s (sapPath tagged) m.idx m.sub m.ten m.length (m.field 32 m.length) with
  | .error st => sapFinish s src m tagged (sapFailure m st (stopTypeGen s m.idx m.sub m.ten))
  | .ok (s1, i) =>
    if i.stored then toFlash s s1 m.idx m.sub m.ten (.sap src m tagged)
    else
      let a := stopHeld s1 m.idx m.sub m.ten i
      sapFinish s1 src m tagged ⟨stOk, 0, a.gen, a.type, ⟨a.size, a.value⟩⟩

/-- ATTEST: the report goes into ATTEST_REPORT; OFFSET holds its length and GEN its GEN. -/
def sapAttest (s : State) (src : SapFrom) (m : Blob) (tagged : Bool) : State :=
  let v := m.field 32 64
  if m.length ≠ 64 || !attestAsk v then sapFinish s src m tagged (sapFailure m stRange (0, 0))
  else
    let a := attestReport s (v % 256 ^ 32) (v / 256 ^ 32 % 256)
    let s1 := a.2.setDev 0x8020 0 a.1.val
    sapFinish s1 src m tagged ⟨stOk, a.1.len, stopGen s1 0x8020 0 0, 0, ⟨0, 0⟩⟩

/-- The VALUE of a DISCOVER answer. -/
def discoverValue (s : State) : Blob :=
  ⟨64, s.dev 0x1002 0 + s.dev 0x1010 0 * 256 ^ 16 + s.dev 0x4000 0 * 256 ^ 24 + s.dev 0x1020 0 * 256 ^ 26 + s.dstate * 256 ^ 27⟩

/-- DISCOVER. -/
def sapDiscover (s : State) (src : SapFrom) (m : Blob) (tagged : Bool) : State := sapFinish s src m tagged ⟨stOk, 0, 0, 0, discoverValue s⟩

/-- A request is executed; the answer to a DISCOVER by multicast waits for the slot's delay. -/
def sapRun (s : State) (src : SapFrom) (m : Blob) (tagged multicast : Bool) : State :=
  if m.op = 1 then sapFinish s src m tagged (sapGet s m tagged)
  else if m.op = 2 then sapSet s src m tagged
  else if m.op = 3 then sapAttest s src m tagged
  else if multicast then { s with discovers := s.discovers ++ [(src, m)] }
  else sapDiscover s src m tagged

/-- A tagged request under its session (R554). -/
def sapSession (s : State) (src : SapFrom) (m : Blob) (multicast : Bool) : State :=
  let floor := s.dev 0x1022 0
  let fresh (st : State) : State :=
    if m.session ≤ floor then
      sapSend st src (sapMessage st m true ⟨stBadSeq, if m.op = 1 then m.offset else 0, floor, 0, ⟨0, 0⟩⟩)
    else sapRun (useSource (st.setDev 0x1022 0 m.session) ⟨src.addr, m.session, m.seq, [(m.seq, ⟨0, 0⟩)]⟩) src m true multicast
  match sapSource s src.addr with
  | none => fresh s
  | some x =>
    if x.session ≠ m.session then fresh s
    else match x.kept.find? (fun k => k.1 == m.seq) with
      | some k => if k.2.len = 0 then useSource s x else sapSend (useSource s x) src k.2
      | none =>
        let d := (m.seq + 65536 - x.last) % 65536
        if 1 ≤ d && d ≤ 32767 then
          let kept := x.kept ++ [(m.seq, ⟨0, 0⟩)]
          sapRun (useSource s { x with last := m.seq, kept := kept.drop (kept.length - 16) }) src m true multicast
        else fresh s

/-- Only the boot ROM runs: the Drone's own image has been refused (R573). -/
def bootRomOnly (s : State) : Bool := s.dstate == dsFaulted && !Config.fwGood 0

/-- A message arrives (R551 to R554). -/
def sapArrives (s : State) (src : SapFrom) (m : Blob) (multicast : Bool) : State :=
  if s.dstate = dsOff then s
  else if !m.formed then s.count 16 0x2D 1
  else if bootRomOnly s && m.op ≠ 4 then s
  else if !m.tagged then sapRun s src m false multicast
  else if s.dev 0x8010 0 = 0 then sapFinish s src m false (sapFailure m stNoCapability (0, 0))
  else if !tagGood s m then s.count 16 0x2D 1
  else sapSession s src m multicast

/-- A message on the management port whose OP is a row's, or that is malformed. -/
def sapRow (op : Nat) (addr : BitVec 128) (port : BitVec 16) (len data : Nat) (multicast : Bool) (s : State) :
    Host.Outcome State Fault Refusal :=
  let m : Blob := ⟨len, data % 256 ^ len⟩
  .next (if m.op = op || !m.formed then sapArrives s ⟨addr.toNat, port.toNat, none⟩ m multicast else s)

/-- GET of the Stop Access Protocol (R552). -/
def execSapGet (addr : BitVec 128) (port : BitVec 16) (len data : Nat) (s : State) : Host.Outcome State Fault Refusal :=
  sapRow 1 addr port len data false s
/-- SET of the Stop Access Protocol (R552). -/
def execSapSet (addr : BitVec 128) (port : BitVec 16) (len data : Nat) (s : State) : Host.Outcome State Fault Refusal :=
  sapRow 2 addr port len data false s
/-- ATTEST (R556). -/
def execAttest (addr : BitVec 128) (port : BitVec 16) (len data : Nat) (s : State) : Host.Outcome State Fault Refusal :=
  sapRow 3 addr port len data false s
/-- DISCOVER (R556). -/
def execDiscover (addr : BitVec 128) (port : BitVec 16) (len data : Nat) (multicast : Bool) (s : State) : Host.Outcome State Fault Refusal :=
  sapRow 4 addr port len data multicast s

/-- DISCOVER_REPLY (R556): the slot's delay of the oldest DISCOVER by multicast is over. -/
def execDiscoverReply (s : State) : Host.Outcome State Fault Refusal :=
  match s.discovers with
  | [] => .next s
  | d :: ds => .next (sapDiscover { s with discovers := ds } d.1 d.2 (d.2.tagged && s.dev 0x8010 0 != 0))

/-! ### Stored Stops (R546) -/

/-- A write of a stored Stop is in flash: who asked for it has the answer. -/
def flashDone (s : State) (f : FlashWrite) : State :=
  let idx := f.key / 256 % 65536
  let sub := f.key % 256
  let n := f.key / 2 ^ 24 - 1
  match stopInfo idx sub with
  | none => s
  | some i =>
    let a := stopHeld s idx sub n i
    match f.asker with
    | .box fn m => if ((s.fn (fnOf fn)).box m).busy then boxDone s (fnOf fn) m stOk a else s
    | .ring fn sq hseq => settle (hostFinish s (fnOf fn) sq hseq stOk 0) (fnOf fn)
    | .sap src m tagged => sapFinish s src m tagged ⟨stOk, 0, a.gen, a.type, ⟨a.size, a.value⟩⟩
    | .none => s

/-- STORED_STOP_COMMIT (R546): the oldest write that has not reached flash does. -/
def execStoredStopCommit (s : State) : Host.Outcome State Fault Refusal :=
  match s.flash with
  | [] => .next s
  | f :: fs => .next (if s.dstate = dsOff then s else flashDone { s with flash := fs } f)

/-! ### Over the fabric (R557) -/

/-- The message and the route of a management packet: with SRCROUTE the 8-byte port list goes ahead of the message (R371). -/
def mgmtSplit (flags tspec len data : Nat) : Blob × Option (Nat × Nat) :=
  if bit flags 2 then (⟨len - 8, data / 256 ^ 8 % 256 ^ (len - 8)⟩, some (tspec % 16, data % 256 ^ 8))
  else (⟨len, data % 256 ^ len⟩, none)

/-- A request carried over the fabric: the Drone handles it as one on its management port, with the SRC node as its source. -/
def mgmtReq (s : State) (src flags tspec len data : Nat) : State :=
  let m := mgmtSplit flags tspec len data
  sapArrives s ⟨nodeAddr src, 0, m.2⟩ m.1 false

/-- A response carried over the fabric goes to the Drone. -/
def mgmtRsp (s : State) (src flags tspec len data : Nat) : State :=
  if s.dstate = dsOff then s else { s with sapIn := s.sapIn ++ [(nodeAddr src, (mgmtSplit flags tspec len data).1)] }

/-- MGMT_REQ (R557). -/
def execMgmtReq (src flags tspec len data : Nat) (s : State) : Host.Outcome State Fault Refusal := .next (mgmtReq s src flags tspec len data)
/-- MGMT_RSP (R557). -/
def execMgmtRsp (src flags tspec len data : Nat) (s : State) : Host.Outcome State Fault Refusal := .next (mgmtRsp s src flags tspec len data)

end Sys2Proof.Machine
end

