-- ==== Sys2Proof/Machine/Power.lean ====
section
/-!
DEFINITION. Machine/Power.lean: supplies, clocks, device states, resets, start-up, throttle, trip, leak and the sideband pins
(R562 to R580, R584 to R588, R591 to R596).
-/

namespace Sys2Proof.Machine

/-- The state with the standby island's record changed. -/
def State.pow (s : State) (f : Power → Power) : State := { s with power := f s.power }
/-- The device enters a state (R573). -/
def State.setDstate (s : State) (v : Nat) : State := s.setDev 0x1021 0 v

/-! ### What a reset clears (R575) -/

/-- A command whose completion is still to be posted when its finished command stands in a ring's line. -/
def Posting.owed (w : Posting) : HostCmd := { sq := w.sq, hseq := w.hseq, op := 0, ordered := false, tag := w.tag, params := 0, stage := 0, cmd := none }

/-- Whether one owed completion goes before another: by submission ring, then in HSEQ order counted back from SQ_ACCEPTED. -/
def owedBefore (s : State) (n : Nat) (a b : Nat × HostCmd) : Bool :=
  let age (c : HostCmd) : Nat := (s.ten n 0xC0A0 c.sq + 2 ^ 32 - c.hseq) % 2 ^ 32
  decide (a.2.sq < b.2.sq) || (a.2.sq == b.2.sq && decide (age b.2 < age a.2))

/-- An owed completion in its place. -/
def owedInsert (s : State) (n : Nat) (a : Nat × HostCmd) : List (Nat × HostCmd) → List (Nat × HostCmd)
  | [] => [a]
  | b :: bs => if owedBefore s n a b then a :: b :: bs else b :: owedInsert s n a bs

/-- The accepted commands of a function whose completion has not been posted, with their completion rings (R530). -/
def owedCommands (s : State) (n : Nat) : List (Nat × HostCmd) :=
  let x := s.fn (fnOf n)
  let live := x.cmds.map (fun c => (fld (x.sq c.sq).ctl 9 4, c))
  let done := (x.cqs.map (fun e => (e.2.waiting.filter (fun w => w.status != stBadSeq)).map (fun w => (e.1, w.owed)))).flatten
  (x.abandoned ++ done ++ live).foldl (fun l a => owedInsert s n a l) []

/-- A pending write of a stored Stop goes on; a mailbox or a ring no longer waits for it. -/
def FlashWrite.orphan (f : FlashWrite) : FlashWrite :=
  match f.asker with
  | .sap _ _ _ => f
  | _ => { f with asker := .none }

/-- Everything but the standby island is as State.reset has it: what a loss of power leaves, and what BRINGUP starts from. The key
epoch counters, the owed completions and the resume of each function are kept. -/
def clearModule (s : State) : State :=
  let fs := (upto 16).foldl (fun (v : Vector Func 16) n =>
    v.set (fnOf n).val { Func.reset with abandoned := owedCommands s n, resume := (s.fn (fnOf n)).resume } (fnOf n).isLt) State.reset.funcs
  let s1 : State :=
    { State.reset with
      stops := s.stops, flash := s.flash.map FlashWrite.orphan, sources := s.sources, sapOut := s.sapOut, sapIn := s.sapIn,
      discovers := s.discovers, hostOut := s.hostOut, power := { s.power with changes := [] }, qlShare := s.qlShare, draws := s.draws,
      pending := s.pending, spaces := s.spaces.map (fun p => { Space.reset with keyEpoch := p.keyEpoch }), funcs := fs }
  (upto 16).foldl (fun (st : State) n => st.setTen n 0xC080 4 tsAbsent) s1

/-- The volatile Stops take their defaults (R546, R575), but for those whose value the standby island holds: SLOT_ID, DEVICE_STATE and
PGOOD, and, where they are kept, the ring sequence Stops. -/
def volatileDefaults (s : State) (keepRings : Bool) : State :=
  s.stops.foldl (fun (st : State) e =>
    let idx := e.1 / 256 % 65536
    let sub := e.1 % 256
    let kept := idx == 0x1020 || idx == 0x1021 || idx == 0x2005 || (keepRings && decide (0xC0A0 ≤ idx) && decide (idx ≤ 0xC0A2))
    match stopInfo idx sub with
    | some i => if i.stored || kept then st else st.putStop e.1 i.dflt i.dflt
    | none => st) s

/-- A cause of a reset: the lowest kind that has arrived before BRINGUP starts counts (R576). -/
def noteKind (s : State) (kind : Nat) : State :=
  s.pow (fun p => { p with kind := some (match p.kind with | some k => min k kind | none => kind) })

/-! ### BRINGUP (R577, R578) -/

/-- Whether an image verifies and its security version is not below FW_MIN_SVN (R475). -/
def imageOk (s : State) (part : Nat) : Bool := Config.fwGood part && decide (s.dev 0x8003 0 ≤ (Config.fwSvn part).toNat)

/-- Whether the boot steps S1 to S3 succeed (R471, R475, R577). -/
def bootOk (s : State) : Bool := Config.secretGood && imageOk s 0 && imageOk s 1

/-- The frame regions laid out under QL_SHARE (R241). -/
def layFrames (s : State) : State :=
  let ql := s.dev 0x3001 0
  let run (r : Nat) : Runs := if regionUnits ql r = 0 then [] else [(r * 2 ^ 28, regionUnits ql r)]
  syncFree { s with qlShare := ql, freeFrames := ⟨#[run 0, run 1, run 2, run 3, run 4], rfl⟩ }

/-- The monitor's image in its place, and the device space's root (R244, R577 step B5). -/
def layMonitor (s : State) : State :=
  let root := rootNode s 16
  let s1 := Config.monitorImage.foldl (fun (st : State) e => { st with hbm := cellsPut st.hbm (root + e.1) e.2 }) s
  s1.setDev 0x3020 0 root

/-- The DEV capability of the first monitor thread (R84). -/
def monitorRoot : Pair := Cap.toPair { otype := 0, base := 0, perms := 0x3FFF, tenancy := 0, dev := true, lenE := 21, lenM := 0x80000000 }
/-- Its DEV sealing capability (R84). -/
def monitorSeal : Pair :=
  Cap.toPair { otype := 0, base := 0, perms := permSEAL + permUNSEAL, tenancy := 0, dev := true, lenE := 0, lenM := 0xF00 }

/-- A pair that holds the words of a capability. -/
def pairOfWords (w : Word × Word) : Pair := (capOfWords w.1 w.2).toPair

/-- Thread 0 of core 0 starts at L2 with the monitor (R578). -/
def startMonitor (s : State) : State :=
  let th := (Thread.reset.writePair 26 monitorRoot).writePair 30 monitorSeal
  s.setTh (tidOf 0) { th with
    pc := Config.monitorEntry, pcc := pairOfWords Config.monitorPcc, rscap := pairOfWords Config.monitorRscap, rsp := Config.monitorRsp,
    level := 2, dev := true, status := .active }

/-- The rings of each function are disabled and no entry is available; RESUME is owed (R530, R575). -/
def renewRings (s : State) (kind : Nat) : State :=
  (upto 16).foldl (fun (st : State) n =>
    let x := st.fn (fnOf n)
    let used := (upto 64).filter (fun q => st.ten n 0xC0A0 q != 0xFFFFFFFF)
    let sqs := used.foldl (fun (t : Tab SubRing) q => Tab.put t q { SubRing.reset with door := st.ten n 0xC0A0 q }) []
    st.setFn (fnOf n) { x with sqs := sqs, resume := some kind }) s

/-- Ports with ENABLE begin training (R353). -/
def startPorts (s : State) : State :=
  (upto 16).foldl (fun (st : State) p =>
    if bit (st.dev 0x4001 p) 0 && vioGood st then st.setPstate (portOf p) psTraining else st) s

/-- BRINGUP up to the start of the monitor, with SLOT_ID as sampled; fails: a step finds what R579 names. -/
def bringup (s : State) (slot : Nat) (fails : Bool) : State :=
  let kind := s.power.kind.getD 1
  let s1 := volatileDefaults (clearModule s) true
  let s2 := ((s1.setDev 0x1020 0 slot).setDev 0xA000 0 (s1.dev 0xA000 0 + 1)).setDstate dsBringup
  let s3 := s2.log 1 (kind + s2.dev 0xA000 0 * 256 ^ 4)
  let s4 := renewRings (s3.pow (fun p => { p with kind := none, hot := 0, stopped := 0 })) kind
  let s5 := startPorts (layFrames ((upto 17).foldl (fun (st : State) n => advanceKey st ⟨n % 17, Nat.mod_lt _ (by decide)⟩) s4))
  if fails || !imageOk s5 2 then enterFaulted s5 else syncAlerts (startMonitor (layMonitor s5))

/-- BRINGUP starts, or waits while MRST_N is low (R574). -/
def startBringup (s : State) (slot : Nat) (fails : Bool) : State :=
  if s.power.mrstLow then (clearModule s).setDstate dsBringup else bringup s slot fails

/-- A reset that keeps power restarts BRINGUP (R574 to R576). -/
def restart (s : State) (kind slot : Nat) (fails : Bool) : State := startBringup (noteKind s kind) slot fails

/-- Whether the module runs: BRINGUP, READY or DEGRADED. -/
def deviceUp (s : State) : Bool := s.dstate == dsBringup || s.dstate == dsReady || s.dstate == dsDegraded

/-- Whether the domains above VSTBY have power (R567, R573). -/
def powered (s : State) : Bool := deviceUp s || (s.dstate == dsFaulted && s.power.pwrEn)

/-- The Drone removes power (R567): PWR_REQ is low; where there was power, the device is in STANDBY and the next BRINGUP has the kind of
the cause. -/
def removePower (s : State) (kind : Nat) : State :=
  let s1 := s.pow (fun p => { p with pwrReq := false })
  if powered s then syncAlerts ((clearModule (noteKind s1 kind)).setDstate dsStandby) else s1

/-! ### Supplies (R562 to R567) -/

/-- PGOOD of a supply. -/
def pgood (s : State) (n : Nat) : Bool := bit (s.dev 0x2005 0) n
/-- PGOOD follows a supply. -/
def setPgood (s : State) (n : Nat) (v : Bool) : State := s.setDev 0x2005 0 (setFld (s.dev 0x2005 0) n n (b2n v))
/-- A supply is above 10 % of nominal, or below. -/
def setRisen (s : State) (n : Nat) (v : Bool) : State := s.pow (fun p => { p with risen := setFld p.risen n n (b2n v) })

/-- The step of a supply: VANA_HI and VPP form one (R562). -/
def supplyStep (n : Nat) : Nat := if n = 0 then 1 else if n ≤ 2 then 2 else n

/-- Whether every supply of the step before a supply's own has PGOOD. -/
def stepBefore (s : State) (n : Nat) : Bool :=
  (upto 8).all (fun m => supplyStep m + 1 != supplyStep n || pgood s m)

/-- A supply of steps 2 to 6 has reached 10 % too early: SUPPLY_ORDER is logged and PWR_REQ is low (R567). -/
def orderBroken (s : State) : State := logFree (s.pow (fun p => { p with orderFault := true, pwrReq := if s.dstate = dsStandby then false else p.pwrReq }))

/-- A supply rises past 10 % of nominal. -/
def supplyRises (s : State) (n : Nat) : State :=
  let s1 := setRisen s n true
  if !bit s.power.risen n && 1 ≤ n && n ≤ 6 && !stepBefore s n then orderBroken s1 else s1

/-- SUPPLY_PGOOD (R563). VSTBY has POWER_ON. -/
def execSupplyPgood (supply : Fin 8) (s : State) : Host.Outcome State Fault Refusal :=
  let n := supply.val
  .next (if n = 0 then s else if s.dstate = dsOff then setRisen s n true else setPgood (supplyRises s n) n true)

/-- SUPPLY_ORDER (R567). -/
def execSupplyOrder (supply : Fin 8) (s : State) : Host.Outcome State Fault Refusal :=
  let n := supply.val
  .next (if n = 0 || 6 < n || s.dstate = dsOff || bit s.power.risen n || stepBefore s n then s else supplyRises s n)

/-- Writes of stored Stops that have not reached flash when its supply goes: each Stop holds its old value or its new one (R546). -/
def dropFlash (s : State) : State :=
  s.flash.foldl (fun (st : State) f =>
    let d := drawFree st
    if bit d.1.toNat 0 then d.2 else { d.2 with stops := Tab.upd d.2.stops f.key ⟨f.old, 0⟩ (fun c => { c with val := f.old }) })
    { s with flash := [] }

/-- VSTBY leaves its limits: every domain stops, and only configuration flash keeps what it holds (R567, R575). -/
def powerOff (s : State) : State :=
  let s1 := volatileDefaults (clearModule (dropFlash s)) false
  let s2 := (setPgood (setRisen s1 0 false) 0 false).setDstate dsOff
  { s2 with funcs := State.reset.funcs, sources := [], discovers := [], sapIn := [],
            power := { s2.power with pwrReq := false, locked := false, orderFault := false, retry := false, kind := some 0, hot := 0, stopped := 0 } }

/-- SUPPLY_FAULT (R563, R567). A supply that leaves its limits is taken to fall below 10 %; VANA feeds CK_ROOT (R569). -/
def execSupplyFault (supply : Fin 8) (s : State) : Host.Outcome State Fault Refusal :=
  let n := supply.val
  if n = 0 then .next (if s.dstate = dsOff then s else powerOff s)
  else
    let s1 := setRisen (setPgood s n false) n false
    let s2 := s1.pow (fun p => { p with locked := p.locked && n != 3, orderFault := p.orderFault && fld p.risen 7 1 != 0 })
    .next (if s.dstate = dsOff then s2 else removePower s2 1)

/-- POWER_ON (R574, R577): steps S1 to S3 with SLOT_ID as sampled. -/
def execPowerOn (slot : BitVec 6) (s : State) : Host.Outcome State Fault Refusal :=
  if s.dstate ≠ dsOff then .next s
  else
    let s1 := (setPgood (setRisen s 0 true) 0 true).setDev 0x1020 0 slot.toNat
    let s2 := s1.pow (fun p => { p with leakDry := !p.leakWet })
    let s3 := if bootOk s2 then s2.setDstate dsStandby else enterFaulted s2
    .next (syncAlerts (if fld s3.power.risen 6 1 ≠ 0 then orderBroken s3 else s3))

/-! ### The handshake of PWR_REQ and PWR_EN (R565) -/

/-- What PWR_REQ needs: STANDBY, supplies 1 to 7, CK_ROOT, and what allows power (R565, R567, R594, R595). -/
def requestOk (s : State) : Bool :=
  let p := s.power
  s.dstate == dsStandby && fld (s.dev 0x2005 0) 7 1 == 127 && p.locked && !p.orderFault && !p.trip && !p.tripOutside && !p.leak

/-- PWR_REQ (R565). After a PWR_EN that did not come it waits for its retry. -/
def execPwrReq (s : State) : Host.Outcome State Fault Refusal :=
  .next (if requestOk s && !s.power.retry then s.pow (fun p => { p with pwrReq := true }) else s)

/-- PWR_EN (R565, R567): high under PWR_REQ it starts BRINGUP; high without it, it is ignored; low, it takes the power away. -/
def execPwrEn (level : Bool) (slot : BitVec 6) (fails : Bool) (s : State) : Host.Outcome State Fault Refusal :=
  if level then
    let s1 := s.pow (fun p => { p with pwrEn := true })
    .next (if s.power.pwrReq && s.dstate == dsStandby then startBringup s1 slot.toNat fails else s1)
  else .next ((removePower s 1).pow (fun p => { p with pwrEn := false, pwrReq := if powered s then false else s.power.pwrReq }))

/-- PWR_EN_TIMEOUT (R565). -/
def execPwrEnTimeout (s : State) : Host.Outcome State Fault Refusal :=
  .next (if s.power.pwrReq && s.dstate == dsStandby then logFree (s.pow (fun p => { p with pwrReq := false, retry := true })) else s)

/-- PWR_REQ_RETRY (R565). -/
def execPwrReqRetry (s : State) : Host.Outcome State Fault Refusal :=
  .next (if s.power.retry then s.pow (fun p => { p with retry := false, pwrReq := p.pwrReq || requestOk s }) else s)

/-! ### Clocks (R569, R570) -/

/-- CK_ROOT_LOCK (R569, R570): CK_ROOT runs from VANA. -/
def execCkRootLock (s : State) : Host.Outcome State Fault Refusal :=
  .next (if s.dstate ≠ dsOff && pgood s 3 then s.pow (fun p => { p with locked := true }) else s)

/-- CK_ROOT_LOCK_TIMEOUT (R570). -/
def execCkRootLockTimeout (s : State) : Host.Outcome State Fault Refusal :=
  .next (if s.dstate = dsStandby && pgood s 3 && !s.power.locked then enterFaulted s else s)

/-- CK_ROOT_LOCK_LOSS (R570): as for a supply loss; the next BRINGUP is of kind 5. -/
def execCkRootLockLoss (s : State) : Host.Outcome State Fault Refusal :=
  .next (if s.power.locked then removePower (s.pow (fun p => { p with locked := false })) 5 else s)

/-! ### Resets (R573 to R579) -/

/-- MRST_N (R574): low for 1 us it is a reset of kind 2, and BRINGUP starts once it is high. From FAULTED without power the boot steps are
taken again (R573). -/
def execMrstN (low : Bool) (slot : BitVec 6) (fails : Bool) (s : State) : Host.Outcome State Fault Refusal :=
  let s1 := s.pow (fun p => { p with mrstLow := low, leakDry := p.leakDry || (low && !p.leakWet) })
  if low then
    if s.dstate = dsOff then .next s1
    else if powered s then .next (restart (s1.pow (fun p => { p with pwrReq := true })) 2 slot.toNat fails)
    else
      let s2 := noteKind s1 2
      .next (if s.dstate = dsFaulted && bootOk s then syncAlerts (s2.setDstate dsStandby) else s2)
  else .next (if s.dstate = dsBringup && s.power.kind.isSome then bringup s1 slot.toNat fails else s1)

/-- PERST_N (R574): a reset of kind 3 in BRINGUP, READY and DEGRADED; elsewhere it holds the endpoint. -/
def execPerstN (low : Bool) (slot : BitVec 6) (fails : Bool) (s : State) : Host.Outcome State Fault Refusal :=
  let s1 := s.pow (fun p => { p with perstLow := low })
  .next (if low && !s.power.perstLow && deviceUp s then restart s1 3 slot.toNat fails else s1)

/-- MONITOR_WATCHDOG (R574): kind 5. -/
def execMonitorWatchdog (slot : BitVec 6) (fails : Bool) (s : State) : Host.Outcome State Fault Refusal :=
  .next (if deviceUp s then restart s 5 slot.toNat fails else s)

/-- DEVICE_RESET_REQUEST (R574): kind 5. -/
def execDeviceResetRequest (slot : BitVec 6) (fails : Bool) (s : State) : Host.Outcome State Fault Refusal :=
  .next (if deviceUp s then restart s 5 slot.toNat fails else s)

/-- Whether BRINGUP has started and not ended. -/
def inBringup (s : State) : Bool := s.dstate == dsBringup && s.power.kind.isNone

/-- MONITOR_READY (R577): READY; the tenancies of enabled functions come into being (R495). The monitor has set SAFFRON_COMPLETION to an
address, 0 when it has not (R502). -/
def execMonitorReady (saffron : BitVec 64) (s : State) : Host.Outcome State Fault Refusal :=
  .next (if inBringup s then
    (upto 16).foldl createTenancy (syncAlerts ((s.setDev 0x8040 0 saffron.toNat).setDstate dsReady)) else s)

/-- BRINGUP_TIMEOUT (R579). -/
def execBringupTimeout (s : State) : Host.Outcome State Fault Refusal := .next (if inBringup s then enterFaulted s else s)

/-- RESUME3 (R580): as ERET does under R99, with SV3; with LIVE 0 it is logged and has no effect. -/
def execResume3 (t : Tid) (s : State) : Host.Outcome State Fault Refusal :=
  let th := s.th t
  let v := th.sv3
  .next (
    if !v.live then logFree s
    else if th.status ≠ .halted then s
    else enterHeldNmi t (s.setTh t { th.restore v with sv3 := { v with live := false }, status := .active, waitsWith := none }))

/-! ### Temperature (R571, R572, R591 to R594) -/

/-- A temperature of 32 bits as a number. -/
def degrees (v : Nat) : Int := sext 32 v

/-- THROTTLE_TEMP. -/
def throttleTemp (s : State) : Int := degrees (s.dev 0x2004 0)

/-- The divider that a quarter has or is about to take. -/
def dividerOf (s : State) (q : Nat) : Nat := (((s.power.changes.filter (fun c => c.1 == q)).getLast?).map (fun c => c.2)).getD (s.dev 0x2001 q)

/-- The next slower divider of R571. -/
def slower (d : Nat) : Nat := if d = 12 then 13 else if d = 13 then 14 else 16
/-- The next faster divider. -/
def faster (d : Nat) : Nat := if d = 16 then 14 else if d = 14 then 13 else 12

/-- The Drone decides to move a quarter's divider. -/
def decideDivider (s : State) (q d : Nat) : State := s.pow (fun p => { p with changes := p.changes ++ [(q, d)] })

/-- A trip (R593): the latch is set and logged, THERM_TRIP_N is driven low, and power is removed; the next BRINGUP is of kind 4. -/
def tripNow (s : State) : State := syncAlerts (removePower (noteKind (logFree (s.pow (fun p => { p with trip := true }))) 4) 4)

/-- The samples of a quarter: the hottest sensor, and a step down when it is at or above THROTTLE_TEMP and the sample before was not. -/
def sampleQuarter (sensors : Nat) (s : State) (q : Nat) : State :=
  let vs := (upto 16).map (fun k => sensors / 2 ^ (32 * (16 * q + k)) % 2 ^ 32)
  let top := vs.foldl (fun (m : Nat) v => if degrees m < degrees v then v else m) (vs.headD 0)
  let was := degrees (s.dev 0x2002 q)
  let s1 := s.setDev 0x2002 q top
  if deviceUp s && throttleTemp s ≤ degrees top && was < throttleTemp s && dividerOf s q ≠ 16 then decideDivider s1 q (slower (dividerOf s q))
  else s1

/-- THERMAL_SAMPLE (R591 to R593): 16 sensors of each quarter, 32 bits each, and the coolant. -/
def execThermalSample (sensors : BitVec 2048) (coolant : BitVec 32) (s : State) : Host.Outcome State Fault Refusal :=
  if s.dstate = dsOff then .next s
  else
    let v := sensors.toNat
    let s1 := ((upto 4).foldl (sampleQuarter v) s).setDev 0x2003 0 coolant.toNat
    let hot := (upto 64).foldl (fun (m : Nat) k =>
      m + b2n (decide (degrees (s.dev 0x2004 1) ≤ degrees (v / 2 ^ (32 * k) % 2 ^ 32))) * 2 ^ k) 0
    let s2 := syncAlerts (s1.pow (fun p => { p with hot := hot }))
    .next (if Nat.land hot s.power.hot ≠ 0 then tripNow s2 else s2)

/-- THROTTLE_STEP_DOWN (R592): the samples have stayed hot for 2^20 cycles more. -/
def execThrottleStepDown (q : Fin 4) (s : State) : Host.Outcome State Fault Refusal :=
  .next (if deviceUp s && throttleTemp s ≤ degrees (s.dev 0x2002 q.val) && dividerOf s q.val ≠ 16 then
    decideDivider s q.val (slower (dividerOf s q.val)) else s)

/-- THROTTLE_STEP_UP (R592): every sample has stayed below THROTTLE_TEMP less 5 degrees for 2^22 cycles. -/
def execThrottleStepUp (q : Fin 4) (s : State) : Host.Outcome State Fault Refusal :=
  .next (if deviceUp s && degrees (s.dev 0x2002 q.val) < throttleTemp s - 80 && dividerOf s q.val ≠ 12 then
    decideDivider s q.val (faster (dividerOf s q.val)) else s)

/-- DIVIDER_CHANGE (R572): the quarter's oldest decision takes effect; THROTTLE_EVENTS and the THROTTLE event. -/
def execDividerChange (q : Fin 4) (s : State) : Host.Outcome State Fault Refusal :=
  match s.power.changes.find? (fun c => c.1 == q.val) with
  | none => .next s
  | some c =>
    let s1 := (s.pow (fun p => { p with changes := p.changes.erase c })).setDev 0x2001 q.val c.2
    let s2 := s1.countDev 0x40 1
    let d := c.2 + q.val * 256 + s2.dev 0x2002 q.val * 256 ^ 4
    let s3 := (upto 16).foldl (fun (st : State) n => if st.tstate n == tsRunning then st.hold n 10 d else st) (s2.log 10 d)
    .next (syncAlerts s3)

/-- THERM_TRIP_N from outside (R593, R594). -/
def execThermTripN (low : Bool) (s : State) : Host.Outcome State Fault Refusal :=
  let s1 := s.pow (fun p => { p with tripOutside := low })
  .next (if low && s.power.pwrReq then tripNow s1 else s1)

/-- TRIP_LATCH_CLEAR (R594): every sensor has read 80 degrees or less for 10 s. -/
def execTripLatchClear (s : State) : Host.Outcome State Fault Refusal :=
  .next (if s.power.trip && (upto 4).all (fun q => decide (degrees (s.dev 0x2002 q) ≤ 1280)) then
    syncAlerts (s.pow (fun p => { p with trip := false })) else s)

/-- TRIP_COMPARATOR (R593): a quarter's own comparator stops its core regulators: its cores issue nothing until the next BRINGUP. It pulls
THERM_TRIP_N low, which trips the module while PWR_REQ is high. -/
def execTripComparator (q : Fin 4) (s : State) : Host.Outcome State Fault Refusal :=
  let s1 := if deviceUp s then s.pow (fun p => { p with stopped := Nat.lor p.stopped (2 ^ q.val) }) else s
  .next (if s.power.pwrReq then tripNow s1 else s1)

/-! ### Leak sensing and NMI_N (R587, R595) -/

/-- LEAK_N (R595): moisture for 1 ms at either input sets the latch; both inputs dry again. -/
def execLeakN (wet : Bool) (s : State) : Host.Outcome State Fault Refusal :=
  if wet then
    let s1 := logFree (s.pow (fun p => { p with leak := true, leakWet := true, leakDry := false }))
    .next (syncAlerts (if s.power.pwrReq then removePower (noteKind s1 6) 6 else s1))
  else .next (s.pow (fun p => { p with leakWet := false }))

/-- LEAK_LATCH_CLEAR (R595): both inputs have been dry for 60 s, and a reset has come since. -/
def execLeakLatchClear (s : State) : Host.Outcome State Fault Refusal :=
  .next (if s.power.leak && !s.power.leakWet && s.power.leakDry then
    syncAlerts (s.pow (fun p => { p with leak := false, leakDry := false })) else s)

/-- NMI_N (R102, R587): a falling edge held for 1 us, or the pin high for 1 us. VIO feeds the pin (R584). -/
def execNmiN (low : Bool) (s : State) : Host.Outcome State Fault Refusal :=
  let s1 := s.pow (fun p => { p with nmiLow := low })
  .next (
    if !low || s.power.nmiLow || !vioGood s || s.dstate = dsOff then s1
    else if s.dstate = dsReady || s.dstate = dsDegraded then (nmiThreads s1 .running).foldl deliverNmi s1
    else logFree s1)

end Sys2Proof.Machine
end

