-- ==== Sys2Proof/Machine/Route.lean ====
section
/-!
DEFINITION. Machine/Route.lean: delivering a packet to what it is for, and routing it (R362 to R365, R370 to R376, R401, R412).
-/

namespace Sys2Proof.Machine

/-! ### Delivery (R363, R401) -/

/-- A RED_CTL packet by its type in payload byte 0 (R401); a reserved type is discarded and counted. -/
def deliverCtl (s : State) (q : Packet) : State :=
  let f (off n : Nat) : Nat := q.data / 256 ^ off % 256 ^ n
  match f 0 1 with
  | 1 => redGrant s q.src q.job q.tspec (bit q.data 8)
  | 2 => redDone s q.src q.job q.tspec (f 2 2) ((upto (f 4 2)).map (fun k => f (6 + 2 * k) 2))
  | 3 => redDrop s q.src q.job q.tspec
  | 4 => redTorn s q.src q.job q.tspec (f 1 1)
  | 5 => checkVote s q.src q.job q.tspec (f 4 4) (bit q.data 8)
  | 6 => checkFinal s q.src q.job q.tspec (f 4 4) (bit q.data 8)
  | 7 => castBready s q.src q.job q.tspec
  | 8 => castAbort s q.src q.job q.tspec
  | _ => s.count 16 0x2D 1

/-- The space whose counters a packet's payload counts for: that of its JOB, the device space for every other (R362, R536). -/
def packetSpace (s : State) (q : Packet) : Nat := (jobSpace s q.job).getD 16

/-- A packet is delivered at this module. -/
def deliver (s0 : State) (q : Packet) : State :=
  let s := s0.count (packetSpace s0 q) 0x14 q.len
  match q.type with
  | 1 =>
    let r := Config.readReqOf q.tspec q.data
    readRequest s q.src q.job r.1 r.2.1 r.2.2
  | 2 =>
    let r := Config.readRspOf q.tspec q.len q.data
    readResponse s q.src q.job r.1 r.2.1 r.2.2.1 r.2.2.2.1 r.2.2.2.2.1 r.2.2.2.2.2
  | 3 => redData s q.src q.job q.tspec q.len q.data
  | 4 => deliverCtl s q
  | 5 => castData s q.src q.job q.tspec q.len q.data
  | 6 => streamData s q.src q.job q.tspec q.len q.data (bit q.flags 3)
  | 7 => streamOpen s q.src q.job (Config.streamOf q.data)
  | 8 => creditArrives s q.src q.job (Config.streamOf q.data) q.tspec
  | 9 => mgmtReq s q.src q.flags q.tspec q.len q.data
  | _ => mgmtRsp s q.src q.flags q.tspec q.len q.data

/-! ### Routing (R371 to R376) -/

/-- Where a packet goes. -/
inductive Routed where
  /-- It is discarded under R376. -/
  | discard
  /-- It is delivered here. -/
  | here
  /-- It leaves through a port on a channel, with its flags as they then are. -/
  | out (p : Fin 16) (vc : Nat) (q : Packet)
  /-- It waits for credit on a normal channel. -/
  | waits
  /-- It waits for credit on its escape channel. -/
  | escapes
deriving DecidableEq, Repr

/-- Whether a port is ACTIVE. -/
def portActive (s : State) (p : Nat) : Bool := s.pstate (portOf p) == psActive
/-- Whether a port holds credit for the whole of a packet on a channel. -/
def portCredit (s : State) (p vc : Nat) (q : Packet) : Bool := decide (q.flits ≤ (s.port (portOf p)).credits.getD vc 0)
/-- Flits queued at a port. -/
def portQueued (s : State) (p : Nat) : Nat := (s.port (portOf p)).unacked.length

/-- The route entry of a node (R373). -/
def routeEntry (s : State) (node : Nat) : Nat := s.dev (0x4100 + node / 256) (node % 256)

/-- ESC and DETOUR of a packet's flags. -/
def Packet.esc (q : Packet) : Bool := bit q.flags 1
def Packet.detour (q : Packet) : Bool := bit q.flags 0
/-- Whether a packet follows a port list. -/
def Packet.listed (q : Packet) : Bool := bit q.flags 2

/-- Whether both ends of a port's link report the same label: it carries no escape-channel packet (R369). -/
def sameLabel (s : State) (p : Fin 16) : Bool := bit ((neighbour s p).field 3 1) 0 == portLabel s p

/-- A packet leaves on escape channel c + 4 through the ESC port (R374 step 2), under the turn rule of R375: from is the port and the
channel it has arrived on. -/
def routeEscape (s : State) (arrival : Option (Fin 16 × Nat)) (c : Nat) (q : Packet) : Routed :=
  let e := routeEntry s q.dest
  let p := fld e 7 4
  let downward := match arrival with
    | some (a, vc) => decide (4 ≤ vc) && !portLabel s a
    | none => false
  if !bit e 3 || !portActive s p || (downward && !portLabel s (portOf p)) then .discard
  else if portCredit s p (c + 4) q && !sameLabel s (portOf p) then .out (portOf p) (c + 4) { q with flags := Nat.lor q.flags 2 }
  else .escapes

/-- The candidates of a packet (R374 step 3): number and port of each valid one whose port is ACTIVE, without the detours once it has
taken one. -/
def routeCandidates (s : State) (q : Packet) : List (Nat × Nat) :=
  let e := routeEntry s q.dest
  ((upto 4).map (fun n => (n, fld e (4 * n + 11) (4 * n + 8)))).filter (fun c =>
    bit e (28 + c.1) && portActive s c.2 && !(q.detour && bit e (24 + c.1)))

/-- Of the candidates with credit, the one with the fewest flits queued, the lowest number on a tie (R374 step 4). -/
def routeBest (s : State) (c : Nat) (q : Packet) : Option (Nat × Nat) :=
  ((routeCandidates s q).filter (fun x => portCredit s x.2 c q)).foldl (fun (b : Option (Nat × Nat)) x =>
    match b with
    | none => some x
    | some y => if portQueued s x.2 < portQueued s y.2 then some x else some y) none

/-- A packet under SRCROUTE (R371). -/
def routeListed (s : State) (arrival : Option (Fin 16 × Nat)) (c : Nat) (q : Packet) : Routed :=
  let escape := match arrival with | some (_, vc) => decide (4 ≤ vc) | none => false
  if (q.type != 9 && q.type != 10) || escape || q.esc then .discard
  else if q.hops = q.tspec % 16 + 1 then .here
  else
    let p := q.data / 16 ^ q.hops % 16
    if !portActive s p then .discard
    else if portCredit s p c q then .out (portOf p) c q
    else .waits

/-- Where a packet goes: arrival is the port and the channel it has arrived on, none for one that this module holds; its HOPS count the
link it has crossed. -/
def routeOf (s : State) (arrival : Option (Fin 16 × Nat)) (q : Packet) : Routed :=
  match typeChannel q.type with
  | none => .discard
  | some c =>
    let wrong := match arrival with | some (_, vc) => vc % 4 != c | none => false
    let own := decide (q.hops = 0) && q.dest == s.dev 0x4000 0
    if wrong || 63 < q.hops then .discard
    else if q.listed then routeListed s arrival c q
    else if s.dev 0x4000 2 ≠ 1 && !own then .discard
    else if q.dest = s.dev 0x4000 0 then .here
    else if 0x3FFF < q.dest then .discard
    else if q.esc then routeEscape s arrival c q
    else match routeBest s c q with
      | some x =>
        let detour := bit (routeEntry s q.dest) (24 + x.1)
        .out (portOf x.2) c (if detour then { q with flags := Nat.lor q.flags 1 } else q)
      | none => if (routeCandidates s q).isEmpty then routeEscape s arrival c q else .waits

/-- A packet that this module has made and that cannot go: it is counted as a discard of the device and reported through vector 59. -/
def discardOwn (s : State) : State := fabricEvent { s.count 16 0x2D 1 with fabricDiscards := s.fabricDiscards + 1 } 59 0

/-- What has been decided for a packet is done, the packet being already taken from where it waited. -/
def routeDone (s : State) (arrival : Option (Fin 16 × Nat)) (q : Packet) : Routed → State
  | .discard => match arrival with
    | some (p, _) => discardAt s p true
    | none => discardOwn s
  | .here => deliver s q
  | .out p vc r => transmit (if q.hops = 0 then s.count (packetSpace s q) 0x13 q.len else s) p vc r
  | _ => s

/-- The first packet of the module's own that does not wait, with its place and where it goes. -/
def firstRouted (s : State) : List Packet → Nat → Option (Nat × Packet × Routed)
  | [], _ => none
  | q :: qs, k => match routeOf s none q with
    | .waits => firstRouted s qs (k + 1)
    | .escapes => firstRouted s qs (k + 1)
    | r => some (k, q, r)

/-- The oldest packet that has arrived whole on a channel of a port. -/
def arrivedOn (s : State) (p : Fin 16) (vc : Nat) : Option RxPacket := (s.port p).arrived.find? (fun r => r.vc == vc)

/-- A packet that has arrived leaves its receive buffer, and its flits come back as credit. -/
def takeArrived (s : State) (p : Fin 16) (r : RxPacket) : State :=
  let x := s.port p
  s.setPort p (freeFlits { x with arrived := x.arrived.erase r } r.vc r.flits)

/-- PACKET_ROUTE (R364, R365, R374): the oldest packet on a channel of a port, or the first of the module's own that can go. A tag that
does not verify discards the packet, and the port goes to TRAINING. -/
def execPacketRoute (src : Option (Fin 16 × Fin 8)) (s : State) : Host.Outcome State Fault Refusal :=
  match src with
  | none => match firstRouted s s.outbox 0 with
    | none => .next s
    | some (k, q, r) => .next (routeDone { s with outbox := s.outbox.eraseIdx k } none q r)
  | some (p, vc) => match arrivedOn s p vc.val with
    | none => .next s
    | some x => match openPacket x with
      | none => .next (retrain (discardAt (takeArrived s p x) p true) p)
      | some q0 =>
        let q := { q0 with hops := q0.hops + 1 }
        let at_ := some (p, vc.val)
        match routeOf s at_ q with
        | .waits => .next s
        | .escapes => .next s
        | r => .next (routeDone (takeArrived s p x) at_ q r)

/-- A packet that has waited for a candidate sets ESC (R374 step 5): it goes through its ESC port, or waits there as one that the module
holds. -/
def escapeNow (s : State) (arrival : Option (Fin 16 × Nat)) (q : Packet) : State :=
  match typeChannel q.type with
  | none => s
  | some c =>
    let q1 := { q with flags := Nat.lor q.flags 2 }
    match routeEscape s arrival c q1 with
    | .escapes => { s with outbox := s.outbox ++ [q1] }
    | r => routeDone s arrival q1 r

/-- Whether a packet waits for a candidate. -/
def waitsForCandidate (s : State) (arrival : Option (Fin 16 × Nat)) (q : Packet) : Bool := !q.listed && routeOf s arrival q == .waits

/-- ESCAPE_TIMEOUT (R374): the oldest packet on a channel of a port, or the first of the module's own that waits for a candidate. -/
def execEscapeTimeout (src : Option (Fin 16 × Fin 8)) (s : State) : Host.Outcome State Fault Refusal :=
  match src with
  | none => match s.outbox.find? (waitsForCandidate s none) with
    | none => .next s
    | some q => .next (escapeNow { s with outbox := s.outbox.erase q } none q)
  | some (p, vc) => match arrivedOn s p vc.val with
    | none => .next s
    | some x => match openPacket x with
      | none => .next s
      | some q0 =>
        let q := { q0 with hops := q0.hops + 1 }
        let at_ := some (p, vc.val)
        if waitsForCandidate s at_ q then .next (escapeNow (takeArrived s p x) at_ q) else .next s

end Sys2Proof.Machine
end

