-- ==== Sys2Proof/Machine/Held.lean ====
section
/-!
DEFINITION. Machine/Held.lean: commands and instructions that wait and go on: held engine commands, full engine queues, remote
fetches; and reserved instruction words (R39, R64, R66, R133, R260).
-/

namespace Sys2Proof.Machine

/-! ### Held commands (R133) -/

/-- What a released command of an engine that acts at its start does; a Bellows command takes its effect when it completes. -/
def startReleased (s : State) (i : Nat) : State :=
  match Tab.get? s.cmds i with
  | none => s
  | some c =>
    if c.phase != .started then s
    else match c.engine, c.op with
      | 1, 1 => startRed s i c
      | 1, 3 => startBrecv s c
      | 4, 2 => startRestore s i c
      | _, _ => s

/-- HELD_COMMAND_RELEASE (R133): a command held for its epoch runs on commit and is aborted on discard. -/
def execHeldCommandRelease (cmd : Nat) (s : State) : Host.Outcome State Fault Refusal :=
  match Tab.get? s.cmds cmd with
  | none => .next s
  | some c =>
    if c.phase != .held then .next s
    else match heldOutcome s c with
      | none => .next s
      | some commit => .next (startReleased (releaseHeld s cmd c commit) cmd)

/-! ### Remote fetches (R260, R316) -/

/-- The acceptance of a live command, taken up again. -/
def acceptAgain (s : State) (i : Nat) (engine op : Nat) : State :=
  match engine, op with
  | 0, 0 => acceptBlock updateSpec i s (fun s2 c => .ok (updateKeep s2 c))
  | 0, 1 => acceptBlock oboeSpec i s oboeRoom
  | 0, 2 => acceptBlock transposeSpec i s
  | 0, 3 => acceptBlock gatherSpec i s
  | 0, 4 => acceptBlock gatherSpec i s
  | 0, 5 => acceptBlock zeroSpec i s
  | 0, 6 => acceptBlock reduceSpec i s
  | 0, 16 => acceptBlock scrubSpec i s
  | 1, 0 => acceptCuGroup i s
  | 1, 1 => acceptCuRed i s
  | 1, 2 => acceptCuBcast i s
  | 1, 3 => acceptCuBrecv i s
  | 1, 4 => acceptCuCheck i s
  | 2, 0 => acceptSched i s
  | 2, 1 => acceptFetch i s
  | 3, 0 => sfAccept sfBopenSpec sfBopen i s
  | 3, 1 => sfAccept sfBchunkSpec sfBchunk i s
  | 3, 2 => sfAccept sfBcloseSpec sfBclose i s
  | 3, 3 => sfAccept sfAttestSpec sfAttest i s
  | 3, 4 => sfAccept sfTenSpec sfRotate i s
  | 3, 5 => sfAccept sfTenSpec (fun s1 _ c => (eraseKeys s1 (c.par 136 1), .zero)) i s
  | 4, 0 => acceptSnSet i s
  | 4, 1 => acceptSnPoint i s
  | 4, 2 => acceptSnRestore i s
  | _, _ => s

/-- Commands whose acceptance waits for remote pages look again. -/
def retryAccepting (s : State) : State :=
  (s.cmds.filter (fun e => e.2.phase == .accepting)).foldl (fun (st : State) e => acceptAgain st e.1 e.2.engine e.2.op) s

/-- REMOTE_FETCH_FILLED (R260): the last byte of a shadow frame has arrived. -/
def execRemoteFetchFilled (space : Fin 17) (page : Nat) (s : State) : Host.Outcome State Fault Refusal :=
  match s.shadows.find? (fun x => x.space == space.val && x.page == page && !x.filled) with
  | some x => .next (retryAccepting (fillShadow s x))
  | none => .next s

/-! ### Full engine queues (R66) -/

/-- An engine instruction issued again. -/
def engineAgain (t : Tid) (engine op : Nat) (rd : RIdx) (cs : PIdx) (a : CForm) (s : State) : Host.Outcome State Fault Refusal :=
  match engine, op with
  | 0, 0 => execUpdate t rd cs a s
  | 0, 1 => execOboe t rd cs a s
  | 0, 2 => execTranspose t rd cs a s
  | 0, 3 => execGather t rd cs a s
  | 0, 4 => execSortedGather t rd cs a s
  | 0, 5 => execZero t rd cs a s
  | 0, 6 => execReduceAtMemory t rd cs a s
  | 0, 16 => execPcodeScrub t rd cs a s
  | 1, 0 => execCuGroup t rd cs a s
  | 1, 1 => execCuRed t rd cs a s
  | 1, 2 => execCuBcast t rd cs a s
  | 1, 3 => execCuBrecv t rd cs a s
  | 1, 4 => execCuCheck t rd cs a s
  | 2, 0 => execGeSched t rd cs a s
  | 2, 1 => execGeFetch t rd cs a s
  | 2, 2 => execGeRelease t rd cs a s
  | 2, 16 => execPgSet t rd cs a s
  | 3, 0 => execSfBopen t rd cs a s
  | 3, 1 => execSfBchunk t rd cs a s
  | 3, 2 => execSfBclose t rd cs a s
  | 3, 3 => execSfAttest t rd cs a s
  | 3, 4 => execSfRotate t rd cs a s
  | 3, 5 => execSfErase t rd cs a s
  | 4, 0 => execSnSet t rd cs a s
  | 4, 1 => execSnPoint t rd cs a s
  | 4, 2 => execSnRestore t rd cs a s
  | _, _ => .next s

/-- ENGINE_QUEUE_ENQUEUE (R66): an engine instruction that waits on a full queue is enqueued when there is room. -/
def execEngineQueueEnqueue (t : Tid) (s : State) : Host.Outcome State Fault Refusal :=
  let th := s.th t
  if th.status ≠ .waiting .engineQueue then .next s
  else
    let s1 := s.setTh t { th with status := .active, waitsWith := none }
    match th.waitsWith with
    | some (.engine fn rd cs a) => engineAgain t (fn / 4096) (fn % 4096) rd cs a s1
    | _ => .next s1

/-! ### Reserved words (R39, R64) -/

/-- What a reserved word does: ILLEGAL_OP or COPROC_ABSENT before any side effect. -/
def raiseReserved (r : Decode.Reserved) : M Unit :=
  match r with
  | .illegal => illegal
  | .absent e => raise 11 e 0

/-- RESERVED_MAJOR (R39, R64, R597, R598): w1 is the second word of an extended form. -/
def execReservedMajor (t : Tid) (w0 w1 : BitVec 32) (s : State) : Host.Outcome State Fault Refusal :=
  let ext := fld w0.toNat 31 25 == 0x7E
  match Decode.reserved w0.toNat w1.toNat with
  | none => .next s
  | some r => runInstr t { len := if ext then 8 else 4, ext := ext } (plain (raiseReserved r)) s

end Sys2Proof.Machine
end

