-- ==== Sys2Proof/Machine/Repeat.lean ====
section
/-!
DEFINITION. Machine/Repeat.lean: REP and REPN (R58 to R62). The instruction under them runs with every address it
computes increased by i × stride20; the iteration counter holds the completed iterations.
-/

namespace Sys2Proof.Machine

/-- Whether the repeated instruction is an extended form. -/
def repExt : RepBody → Bool
  | .stB _ _ m => m.isExt
  | .stH _ _ m => m.isExt
  | .stW _ _ m => m.isExt
  | .stD _ _ m => m.isExt
  | .svSt _ _ m => m.isExt
  | .scan _ _ _ a => a.isExt
  | .vst _ _ _ m => m.isExt
  | .bad ext => ext

/-- One iteration, off bytes past the instruction's own addresses. Answers whether the repeat ends with it (SCAN). -/
def repIter (t : Tid) (i : Nat) (off : Int) : RepBody → M Bool
  | .stB rs cs m => do
    storeOp t rs cs m 1 off
    pure false
  | .stH rs cs m => do
    storeOp t rs cs m 2 off
    pure false
  | .stW rs cs m => do
    storeOp t rs cs m 4 off
    pure false
  | .stD rs cs m => do
    storeOp t rs cs m 8 off
    pure false
  | .svSt rs cs m => do
    svStoreOp t rs cs m off
    pure false
  | .vst aligned vs cs m => do
    vstOp t vs cs m (if aligned then 64 else 1) off
    pure false
  | .scan kind rd cs a => do
    let r ← scanAt t kind rd cs a off
    match r with
    | none => do
      wr t rd .poison
      pure true
    | some true => do
      wr t rd (.int (BitVec.ofNat 64 i))
      pure true
    | some false => pure false
  | .bad _ => illegal

/-- A count that is reached: a prefixed SCAN writes the count (R49, R61). -/
def repEnd (t : Tid) (count : Word) : RepBody → M Unit
  | .scan _ rd _ _ => wr t rd (.int count)
  | _ => pure ()

/-- Iterations from the iteration counter on; lim at most in this issue (R60, R61). -/
def repLoop (t : Tid) (n : Nat) (count : Word) (stride : Int) (body : RepBody) : Nat → Option Nat → M Unit
  | 0, _ => pure ()
  | f + 1, lim => do
    let th ← getT t
    let i := th.iter.toNat
    if n ≤ i then repEnd t count body
    else if lim = some 0 then pauseM
    else
      let done ← repIter t i (i * stride) body
      modT t (fun h => { h with iter := BitVec.ofNat 32 (i + 1) })
      if done then pure ()
      else repLoop t n count stride body f (lim.map (fun l => l - 1))

/-- REP and REPN: the target, the count of the count class (slot 0x8), PROG (R58, R59, R61). -/
def repOp (t : Tid) (rn : RIdx) (stride : BitVec 20) (body : RepBody) (limit : Nat) (nmiOnly : Bool) (lim : Option Nat) :
    M Unit := do
  match body with
  | .bad _ => illegal
  | .svSt rs _ _ => needEven [rs]
  | _ => pure ()
  let r ← greg t rn
  checkOps [opnd 8 .count r]
  let n := r.val.toNat
  if limit < n then illegal 0x10
  let th ← getT t
  if n < th.iter.toNat then illegal 0x61
  modT t (fun h => { h with inRepn := nmiOnly })
  let left := n - th.iter.toNat
  repLoop t n r.val stride.toInt body ((match lim with
    | some l => min l left
    | none => left) + 1) lim

/-- The repeat and its instruction are one instruction for fetch, faults and interrupts (R58). -/
def repInstr (t : Tid) (rn : RIdx) (stride : BitVec 20) (body : RepBody) (limit : Nat) (nmiOnly : Bool) (lim : Option Nat)
    (s : State) : Host.Outcome State Fault Refusal :=
  runInstr t { len := 4 + lenOf (repExt body), ext := repExt body, pfx := true, resumable := true }
    (plain (repOp t rn stride body limit nmiOnly lim)) s

/-- REP: a count of 0 to 2^32 − 1 (R59, R61). -/
def execRep (t : Tid) (rn : RIdx) (stride : BitVec 20) (body : RepBody) (lim : Option Nat) (s : State) :=
  repInstr t rn stride body (2 ^ 32 - 1) false lim s

/-- REPN: a count of 0 to 64; ordinary interrupts wait for its end (R59, R62). -/
def execRepn (t : Tid) (rn : RIdx) (stride : BitVec 20) (body : RepBody) (lim : Option Nat) (s : State) :=
  repInstr t rn stride body 64 true lim s

end Sys2Proof.Machine
end

