-- ==== Sys2Proof/Machine/TagOps.lean ====
section
/-!
DEFINITION. Machine/TagOps.lean: SEL and the instructions that copy, read and set tags (R32, R34, R35, R42; HCHK stands in
Handles.lean).
-/

namespace Sys2Proof.Machine

/-- SEL (R42): rc of the integer class, rs1 and rs2 of the move class; POISON in any of the three gives POISON (R32). -/
def execSel (t : Tid) (rd rs1 rs2 rc : RIdx) (s : State) :=
  simple t (do
    let a ← greg t rs1
    let b ← greg t rs2
    let c ← greg t rc
    checkOps [opnd 1 .move a, opnd 2 .move b, opnd 3 .int c]
    wr t rd (orPoison (a.tag == .poison || b.tag == .poison || c.tag == .poison) (if c.val ≠ 0 then a else b))) s

/-- MOV: value and tag of rs1, of the move class; a POISON is copied as POISON with value 0 (R31, R32). -/
def execMov (t : Tid) (rd rs1 : RIdx) (s : State) := simple t (unary t rd rs1 .move id) s

/-- TGET: the tag of rs1 as an INT; every tag is accepted (R42). -/
def execTget (t : Tid) (rd rs1 : RIdx) (s : State) :=
  simple t (do
    let a ← greg t rs1
    wr t rd (.int (BitVec.ofNat 64 a.tag.code))) s

/-- TEQ: BOOL 1 when the tag of rs1 equals the code given (R42). -/
def execTeq (t : Tid) (rd rs1 : RIdx) (tag : BitVec 4) (s : State) :=
  simple t (do
    let a ← greg t rs1
    wr t rd (.bool (a.tag.code == tag.toNat))) s

/-- The value and tag that RETAG writes for a target, none for a target that is not permitted (R35). -/
def retagged (v : Word) (target : Nat) : Option Reg :=
  match target with
  | 1 => some ⟨v, .int⟩
  | 2 => some ⟨v, .flt⟩
  | 3 => some (.bool (v != 0))
  | 9 => some ⟨v &&& 0xFFFFFFFF, .seq⟩
  | _ => none

/-- RETAG (R35): the source in slot 0x1 is judged before the target tag in slot 0x2. -/
def execRetag (t : Tid) (rd rs1 : RIdx) (tag : BitVec 4) (s : State) :=
  simple t (do
    let a ← greg t rs1
    checkOps [opnd 1 .retag a]
    match retagged a.val tag.toNat with
    | some r => wr t rd r
    | none => raise vecTagMismatch (2 * 2 ^ 16 + tag.toNat * 2 ^ 12 + 0xE * 2 ^ 8 + 3) 0) s

/-- FMTCHK (R35, R216): the value tagged FMT when it is a valid descriptor; TAG_MISMATCH sub-code 0x02 otherwise. -/
def execFmtchk (t : Tid) (rd rs1 : RIdx) (s : State) :=
  simple t (do
    let a ← greg t rs1
    checkOps [opnd 1 .count a]
    if fmtValid a.val then wr t rd ⟨a.val, .fmt⟩
    else raise vecTagMismatch (1 * 2 ^ 16 + a.tag.code * 2 ^ 12 + 0xD * 2 ^ 8 + 2) 0) s

end Sys2Proof.Machine
end

