-- ==== Sys2Proof/Machine/Dispatch.lean ====
section
/-!
DEFINITION. Machine/Dispatch.lean: one arm per constructor of Instr, each one direct call of its meaning.
-/

namespace Sys2Proof.Machine

/-- The effect of a command on everything but the queue of waiting commands. -/
def exec (i : Instr) (s : State) : Host.Outcome State Fault Refusal :=
  match i with
  | .add t rd rs1 rs2 => Sys2Proof.Machine.execAdd t rd rs1 rs2 s
  | .sub t rd rs1 rs2 => Sys2Proof.Machine.execSub t rd rs1 rs2 s
  | .and t rd rs1 rs2 => Sys2Proof.Machine.execAnd t rd rs1 rs2 s
  | .or t rd rs1 rs2 => Sys2Proof.Machine.execOr t rd rs1 rs2 s
  | .xor t rd rs1 rs2 => Sys2Proof.Machine.execXor t rd rs1 rs2 s
  | .sll t rd rs1 rs2 => Sys2Proof.Machine.execSll t rd rs1 rs2 s
  | .srl t rd rs1 rs2 => Sys2Proof.Machine.execSrl t rd rs1 rs2 s
  | .sra t rd rs1 rs2 => Sys2Proof.Machine.execSra t rd rs1 rs2 s
  | .mul t rd rs1 rs2 => Sys2Proof.Machine.execMul t rd rs1 rs2 s
  | .mulh t rd rs1 rs2 => Sys2Proof.Machine.execMulh t rd rs1 rs2 s
  | .mulhu t rd rs1 rs2 => Sys2Proof.Machine.execMulhu t rd rs1 rs2 s
  | .div t rd rs1 rs2 => Sys2Proof.Machine.execDiv t rd rs1 rs2 s
  | .divu t rd rs1 rs2 => Sys2Proof.Machine.execDivu t rd rs1 rs2 s
  | .rem t rd rs1 rs2 => Sys2Proof.Machine.execRem t rd rs1 rs2 s
  | .remu t rd rs1 rs2 => Sys2Proof.Machine.execRemu t rd rs1 rs2 s
  | .min t rd rs1 rs2 => Sys2Proof.Machine.execMin t rd rs1 rs2 s
  | .max t rd rs1 rs2 => Sys2Proof.Machine.execMax t rd rs1 rs2 s
  | .minu t rd rs1 rs2 => Sys2Proof.Machine.execMinu t rd rs1 rs2 s
  | .maxu t rd rs1 rs2 => Sys2Proof.Machine.execMaxu t rd rs1 rs2 s
  | .clz t rd rs1 => Sys2Proof.Machine.execClz t rd rs1 s
  | .ctz t rd rs1 => Sys2Proof.Machine.execCtz t rd rs1 s
  | .popc t rd rs1 => Sys2Proof.Machine.execPopc t rd rs1 s
  | .addi t rd rs1 imm => Sys2Proof.Machine.execAddi t rd rs1 imm s
  | .andi t rd rs1 imm => Sys2Proof.Machine.execAndi t rd rs1 imm s
  | .ori t rd rs1 imm => Sys2Proof.Machine.execOri t rd rs1 imm s
  | .xori t rd rs1 imm => Sys2Proof.Machine.execXori t rd rs1 imm s
  | .slli t rd rs1 amount ext => Sys2Proof.Machine.execSlli t rd rs1 amount ext s
  | .srli t rd rs1 amount ext => Sys2Proof.Machine.execSrli t rd rs1 amount ext s
  | .srai t rd rs1 amount ext => Sys2Proof.Machine.execSrai t rd rs1 amount ext s
  | .lui t rd imm => Sys2Proof.Machine.execLui t rd imm s
  | .cmpi t rd rs1 kind imm => Sys2Proof.Machine.execCmpi t rd rs1 kind imm s
  | .fadd t rd rs1 rs2 mode => Sys2Proof.Machine.execFadd t rd rs1 rs2 mode s
  | .fsub t rd rs1 rs2 mode => Sys2Proof.Machine.execFsub t rd rs1 rs2 mode s
  | .fmul t rd rs1 rs2 mode => Sys2Proof.Machine.execFmul t rd rs1 rs2 mode s
  | .fdiv t rd rs1 rs2 mode => Sys2Proof.Machine.execFdiv t rd rs1 rs2 mode s
  | .fsqrt t rd rs1 mode => Sys2Proof.Machine.execFsqrt t rd rs1 mode s
  | .fmin t rd rs1 rs2 => Sys2Proof.Machine.execFmin t rd rs1 rs2 s
  | .fmax t rd rs1 rs2 => Sys2Proof.Machine.execFmax t rd rs1 rs2 s
  | .fabs t rd rs1 => Sys2Proof.Machine.execFabs t rd rs1 s
  | .fneg t rd rs1 => Sys2Proof.Machine.execFneg t rd rs1 s
  | .fmadd t rd rs1 rs2 rs3 mode => Sys2Proof.Machine.execFmadd t rd rs1 rs2 rs3 mode s
  | .fmsub t rd rs1 rs2 rs3 mode => Sys2Proof.Machine.execFmsub t rd rs1 rs2 rs3 mode s
  | .fnmadd t rd rs1 rs2 rs3 mode => Sys2Proof.Machine.execFnmadd t rd rs1 rs2 rs3 mode s
  | .fnmsub t rd rs1 rs2 rs3 mode => Sys2Proof.Machine.execFnmsub t rd rs1 rs2 rs3 mode s
  | .i2f t rd rs1 mode => Sys2Proof.Machine.execI2f t rd rs1 mode s
  | .u2f t rd rs1 mode => Sys2Proof.Machine.execU2f t rd rs1 mode s
  | .f2i t rd rs1 mode => Sys2Proof.Machine.execF2i t rd rs1 mode s
  | .f2u t rd rs1 mode => Sys2Proof.Machine.execF2u t rd rs1 mode s
  | .f2s t rd rs1 mode => Sys2Proof.Machine.execF2s t rd rs1 mode s
  | .s2f t rd rs1 mode => Sys2Proof.Machine.execS2f t rd rs1 mode s
  | .cmpEq t rd rs1 rs2 => Sys2Proof.Machine.execCmpEq t rd rs1 rs2 s
  | .cmpNe t rd rs1 rs2 => Sys2Proof.Machine.execCmpNe t rd rs1 rs2 s
  | .cmpLt t rd rs1 rs2 => Sys2Proof.Machine.execCmpLt t rd rs1 rs2 s
  | .cmpLtu t rd rs1 rs2 => Sys2Proof.Machine.execCmpLtu t rd rs1 rs2 s
  | .cmpGe t rd rs1 rs2 => Sys2Proof.Machine.execCmpGe t rd rs1 rs2 s
  | .cmpGeu t rd rs1 rs2 => Sys2Proof.Machine.execCmpGeu t rd rs1 rs2 s
  | .cmpFeq t rd rs1 rs2 => Sys2Proof.Machine.execCmpFeq t rd rs1 rs2 s
  | .cmpFlt t rd rs1 rs2 => Sys2Proof.Machine.execCmpFlt t rd rs1 rs2 s
  | .cmpFle t rd rs1 rs2 => Sys2Proof.Machine.execCmpFle t rd rs1 rs2 s
  | .cmpFun t rd rs1 rs2 => Sys2Proof.Machine.execCmpFun t rd rs1 rs2 s
  | .cmpSlt t rd rs1 rs2 => Sys2Proof.Machine.execCmpSlt t rd rs1 rs2 s
  | .sel t rd rs1 rs2 rc => Sys2Proof.Machine.execSel t rd rs1 rs2 rc s
  | .mov t rd rs1 => Sys2Proof.Machine.execMov t rd rs1 s
  | .tget t rd rs1 => Sys2Proof.Machine.execTget t rd rs1 s
  | .teq t rd rs1 tag => Sys2Proof.Machine.execTeq t rd rs1 tag s
  | .retag t rd rs1 tag => Sys2Proof.Machine.execRetag t rd rs1 tag s
  | .hchk t rd rs1 => Sys2Proof.Machine.execHchk t rd rs1 s
  | .fmtchk t rd rs1 => Sys2Proof.Machine.execFmtchk t rd rs1 s
  | .ldB t rd cs m => Sys2Proof.Machine.execLdB t rd cs m s
  | .ldBu t rd cs m => Sys2Proof.Machine.execLdBu t rd cs m s
  | .ldH t rd cs m => Sys2Proof.Machine.execLdH t rd cs m s
  | .ldHu t rd cs m => Sys2Proof.Machine.execLdHu t rd cs m s
  | .ldW t rd cs m => Sys2Proof.Machine.execLdW t rd cs m s
  | .ldWu t rd cs m => Sys2Proof.Machine.execLdWu t rd cs m s
  | .ldD t rd cs m => Sys2Proof.Machine.execLdD t rd cs m s
  | .ldF t rd cs m => Sys2Proof.Machine.execLdF t rd cs m s
  | .ldc t rd cs m => Sys2Proof.Machine.execLdc t rd cs m s
  | .stB t rs cs m => Sys2Proof.Machine.execStB t rs cs m s
  | .stH t rs cs m => Sys2Proof.Machine.execStH t rs cs m s
  | .stW t rs cs m => Sys2Proof.Machine.execStW t rs cs m s
  | .stD t rs cs m => Sys2Proof.Machine.execStD t rs cs m s
  | .stc t rs cs m => Sys2Proof.Machine.execStc t rs cs m s
  | .scanEqD t rd cs a => Sys2Proof.Machine.execScanEqD t rd cs a s
  | .scanNeD t rd cs a => Sys2Proof.Machine.execScanNeD t rd cs a s
  | .scanEqW t rd cs a => Sys2Proof.Machine.execScanEqW t rd cs a s
  | .scanNeW t rd cs a => Sys2Proof.Machine.execScanNeW t rd cs a s
  | .amoadd t rd cs a => Sys2Proof.Machine.execAmoadd t rd cs a s
  | .amoand t rd cs a => Sys2Proof.Machine.execAmoand t rd cs a s
  | .amoor t rd cs a => Sys2Proof.Machine.execAmoor t rd cs a s
  | .amoxor t rd cs a => Sys2Proof.Machine.execAmoxor t rd cs a s
  | .amoswap t rd cs a => Sys2Proof.Machine.execAmoswap t rd cs a s
  | .amocas t rd cs a => Sys2Proof.Machine.execAmocas t rd cs a s
  | .amomin t rd cs a => Sys2Proof.Machine.execAmomin t rd cs a s
  | .amomax t rd cs a => Sys2Proof.Machine.execAmomax t rd cs a s
  | .bz t rs off => Sys2Proof.Machine.execBz t rs off s
  | .bnz t rs off => Sys2Proof.Machine.execBnz t rs off s
  | .j t off => Sys2Proof.Machine.execJ t off s
  | .call t off => Sys2Proof.Machine.execCall t off s
  | .jr t rs1 => Sys2Proof.Machine.execJr t rs1 s
  | .callr t rs1 => Sys2Proof.Machine.execCallr t rs1 s
  | .callc t cs m => Sys2Proof.Machine.execCallc t cs m s
  | .ret t => Sys2Proof.Machine.execRet t s
  | .push t rs1 => Sys2Proof.Machine.execPush t rs1 s
  | .pop t rd => Sys2Proof.Machine.execPop t rd s
  | .pushc t rs1 => Sys2Proof.Machine.execPushc t rs1 s
  | .svVadd t rd rs1 rs2 lanes => Sys2Proof.Machine.execSvVadd t rd rs1 rs2 lanes s
  | .svVsub t rd rs1 rs2 lanes => Sys2Proof.Machine.execSvVsub t rd rs1 rs2 lanes s
  | .svVmul t rd rs1 rs2 lanes => Sys2Proof.Machine.execSvVmul t rd rs1 rs2 lanes s
  | .svVmin t rd rs1 rs2 lanes => Sys2Proof.Machine.execSvVmin t rd rs1 rs2 lanes s
  | .svVmax t rd rs1 rs2 lanes => Sys2Proof.Machine.execSvVmax t rd rs1 rs2 lanes s
  | .svVminu t rd rs1 rs2 lanes => Sys2Proof.Machine.execSvVminu t rd rs1 rs2 lanes s
  | .svVmaxu t rd rs1 rs2 lanes => Sys2Proof.Machine.execSvVmaxu t rd rs1 rs2 lanes s
  | .svVand t rd rs1 rs2 lanes => Sys2Proof.Machine.execSvVand t rd rs1 rs2 lanes s
  | .svVor t rd rs1 rs2 lanes => Sys2Proof.Machine.execSvVor t rd rs1 rs2 lanes s
  | .svVxor t rd rs1 rs2 lanes => Sys2Proof.Machine.execSvVxor t rd rs1 rs2 lanes s
  | .svVsll t rd rs1 rs2 lanes => Sys2Proof.Machine.execSvVsll t rd rs1 rs2 lanes s
  | .svVsrl t rd rs1 rs2 lanes => Sys2Proof.Machine.execSvVsrl t rd rs1 rs2 lanes s
  | .svVsra t rd rs1 rs2 lanes => Sys2Proof.Machine.execSvVsra t rd rs1 rs2 lanes s
  | .svVcmpeq t rd rs1 rs2 lanes => Sys2Proof.Machine.execSvVcmpeq t rd rs1 rs2 lanes s
  | .svVcmplt t rd rs1 rs2 lanes => Sys2Proof.Machine.execSvVcmplt t rd rs1 rs2 lanes s
  | .svVsadd t rd rs1 rs2 lanes => Sys2Proof.Machine.execSvVsadd t rd rs1 rs2 lanes s
  | .svVdot4 t rd rs1 rs2 => Sys2Proof.Machine.execSvVdot4 t rd rs1 rs2 s
  | .svVfadd t rd rs1 rs2 lanes => Sys2Proof.Machine.execSvVfadd t rd rs1 rs2 lanes s
  | .svVfsub t rd rs1 rs2 lanes => Sys2Proof.Machine.execSvVfsub t rd rs1 rs2 lanes s
  | .svVfmul t rd rs1 rs2 lanes => Sys2Proof.Machine.execSvVfmul t rd rs1 rs2 lanes s
  | .svVfmin t rd rs1 rs2 lanes => Sys2Proof.Machine.execSvVfmin t rd rs1 rs2 lanes s
  | .svVfmax t rd rs1 rs2 lanes => Sys2Proof.Machine.execSvVfmax t rd rs1 rs2 lanes s
  | .svFma t rd rs1 rs2 rs3 op lanes => Sys2Proof.Machine.execSvFma t rd rs1 rs2 rs3 op lanes s
  | .svVbcast t rd rs1 => Sys2Proof.Machine.execSvVbcast t rd rs1 s
  | .svVshuf t rd rs1 rs2 => Sys2Proof.Machine.execSvVshuf t rd rs1 rs2 s
  | .svVext t rd rs1 rs2 => Sys2Proof.Machine.execSvVext t rd rs1 rs2 s
  | .svVins t rd rs2 lane => Sys2Proof.Machine.execSvVins t rd rs2 lane s
  | .svLd t rd cs m => Sys2Proof.Machine.execSvLd t rd cs m s
  | .svSt t rs cs m => Sys2Proof.Machine.execSvSt t rs cs m s
  | .fenceAcq t => Sys2Proof.Machine.execFenceAcq t s
  | .fenceRel t => Sys2Proof.Machine.execFenceRel t s
  | .fenceAr t => Sys2Proof.Machine.execFenceAr t s
  | .fenceI t => Sys2Proof.Machine.execFenceI t s
  | .rep t rn stride body lim => Sys2Proof.Machine.execRep t rn stride body lim s
  | .repn t rn stride body lim => Sys2Proof.Machine.execRepn t rn stride body lim s
  | .engineQueueEnqueue t => Sys2Proof.Machine.execEngineQueueEnqueue t s
  | .cgetBase t rd rs1 => Sys2Proof.Machine.execCgetBase t rd rs1 s
  | .cgetLen t rd rs1 => Sys2Proof.Machine.execCgetLen t rd rs1 s
  | .cgetPerm t rd rs1 => Sys2Proof.Machine.execCgetPerm t rd rs1 s
  | .cgetTen t rd rs1 => Sys2Proof.Machine.execCgetTen t rd rs1 s
  | .cgetType t rd rs1 => Sys2Proof.Machine.execCgetType t rd rs1 s
  | .cgetQuant t rd rs1 => Sys2Proof.Machine.execCgetQuant t rd rs1 s
  | .csetOff t rd rs1 rs2 => Sys2Proof.Machine.execCsetOff t rd rs1 rs2 s
  | .csetLen t rd rs1 rs2 => Sys2Proof.Machine.execCsetLen t rd rs1 rs2 s
  | .candPerm t rd rs1 rs2 => Sys2Proof.Machine.execCandPerm t rd rs1 rs2 s
  | .csetTen t rd rs1 rs2 => Sys2Proof.Machine.execCsetTen t rd rs1 rs2 s
  | .cseal t rd rs1 rs2 => Sys2Proof.Machine.execCseal t rd rs1 rs2 s
  | .cgate t rd rs1 => Sys2Proof.Machine.execCgate t rd rs1 s
  | .cunseal t rd rs1 rs2 => Sys2Proof.Machine.execCunseal t rd rs1 rs2 s
  | .cmove t rd rs1 => Sys2Proof.Machine.execCmove t rd rs1 s
  | .ctest t rd rs1 => Sys2Proof.Machine.execCtest t rd rs1 s
  | .ctestSub t rd rs1 rs2 => Sys2Proof.Machine.execCtestSub t rd rs1 rs2 s
  | .sysrd t rd sysreg => Sys2Proof.Machine.execSysrd t rd sysreg s
  | .syswr t rs1 sysreg => Sys2Proof.Machine.execSyswr t rs1 sysreg s
  | .sysrdc t rd sysreg => Sys2Proof.Machine.execSysrdc t rd sysreg s
  | .syswrc t rs1 sysreg => Sys2Proof.Machine.execSyswrc t rs1 sysreg s
  | .eret t => Sys2Proof.Machine.execEret t s
  | .svclr t => Sys2Proof.Machine.execSvclr t s
  | .svset t => Sys2Proof.Machine.execSvset t s
  | .interruptEntry t => Sys2Proof.Machine.execInterruptEntry t s
  | .nmi target => Sys2Proof.Machine.execNmi target s
  | .nmiHoldExpiry t => Sys2Proof.Machine.execNmiHoldExpiry t s
  | .localTimer t => Sys2Proof.Machine.execLocalTimer t s
  | .taskNew t rd cs rx => Sys2Proof.Machine.execTaskNew t rd cs rx s
  | .taskCue t rd cs rs => Sys2Proof.Machine.execTaskCue t rd cs rs s
  | .taskDone t => Sys2Proof.Machine.execTaskDone t s
  | .taskBind t rd cs rx rs => Sys2Proof.Machine.execTaskBind t rd cs rx rs s
  | .taskEpoch t rd cs rs => Sys2Proof.Machine.execTaskEpoch t rd cs rs s
  | .epochSlotWaitEnd t => Sys2Proof.Machine.execEpochSlotWaitEnd t s
  | .taskCommit t rd cs rs => Sys2Proof.Machine.execTaskCommit t rd cs rs s
  | .taskDiscard t rd cs rs => Sys2Proof.Machine.execTaskDiscard t rd cs rs s
  | .taskState t rd rs => Sys2Proof.Machine.execTaskState t rd rs s
  | .taskSig t rd cs rx rs => Sys2Proof.Machine.execTaskSig t rd cs rx rs s
  | .taskAbort t rd cs rs => Sys2Proof.Machine.execTaskAbort t rd cs rs s
  | .taskDispatch quarter core t => Sys2Proof.Machine.execTaskDispatch quarter core t s
  | .epochResolutionComplete ten slot => Sys2Proof.Machine.execEpochResolutionComplete ten slot s
  | .specStoreRelease t => Sys2Proof.Machine.execSpecStoreRelease t s
  | .heldCommandRelease cmd => Sys2Proof.Machine.execHeldCommandRelease cmd s
  | .chOpen t rd cs rs => Sys2Proof.Machine.execChOpen t rd cs rs s
  | .chSend t rd cs rx rs => Sys2Proof.Machine.execChSend t rd cs rx rs s
  | .chRecv t rd cs rx rs => Sys2Proof.Machine.execChRecv t rd cs rx rs s
  | .channelSlotReady t => Sys2Proof.Machine.execChannelSlotReady t s
  | .handoffBlockArrival chan => Sys2Proof.Machine.execHandoffBlockArrival chan s
  | .chCue t rd cs rx rs => Sys2Proof.Machine.execChCue t rd cs rx rs s
  | .chClose t rd cs rs => Sys2Proof.Machine.execChClose t rd cs rs s
  | .chSopen t rd cs rs => Sys2Proof.Machine.execChSopen t rd cs rs s
  | .chSsend t rd cs rx rs lim => Sys2Proof.Machine.execChSsend t rd cs rx rs lim s
  | .lvWakeComplete core => Sys2Proof.Machine.execLvWakeComplete core s
  | .lvPowerDown core => Sys2Proof.Machine.execLvPowerDown core s
  | .vadd t vd vs1 vs2 lanes => Sys2Proof.Machine.execVadd t vd vs1 vs2 lanes s
  | .vsub t vd vs1 vs2 lanes => Sys2Proof.Machine.execVsub t vd vs1 vs2 lanes s
  | .vmul t vd vs1 vs2 lanes => Sys2Proof.Machine.execVmul t vd vs1 vs2 lanes s
  | .vmin t vd vs1 vs2 lanes => Sys2Proof.Machine.execVmin t vd vs1 vs2 lanes s
  | .vmax t vd vs1 vs2 lanes => Sys2Proof.Machine.execVmax t vd vs1 vs2 lanes s
  | .vminu t vd vs1 vs2 lanes => Sys2Proof.Machine.execVminu t vd vs1 vs2 lanes s
  | .vmaxu t vd vs1 vs2 lanes => Sys2Proof.Machine.execVmaxu t vd vs1 vs2 lanes s
  | .vand t vd vs1 vs2 lanes => Sys2Proof.Machine.execVand t vd vs1 vs2 lanes s
  | .vor t vd vs1 vs2 lanes => Sys2Proof.Machine.execVor t vd vs1 vs2 lanes s
  | .vxor t vd vs1 vs2 lanes => Sys2Proof.Machine.execVxor t vd vs1 vs2 lanes s
  | .vsll t vd vs1 vs2 lanes => Sys2Proof.Machine.execVsll t vd vs1 vs2 lanes s
  | .vsrl t vd vs1 vs2 lanes => Sys2Proof.Machine.execVsrl t vd vs1 vs2 lanes s
  | .vsra t vd vs1 vs2 lanes => Sys2Proof.Machine.execVsra t vd vs1 vs2 lanes s
  | .vcmpeq t vd vs1 vs2 lanes => Sys2Proof.Machine.execVcmpeq t vd vs1 vs2 lanes s
  | .vcmplt t vd vs1 vs2 lanes => Sys2Proof.Machine.execVcmplt t vd vs1 vs2 lanes s
  | .vsel t vd vs1 vs2 lanes => Sys2Proof.Machine.execVsel t vd vs1 vs2 lanes s
  | .vsadd t vd vs1 vs2 lanes => Sys2Proof.Machine.execVsadd t vd vs1 vs2 lanes s
  | .vfadd t vd vs1 vs2 lanes => Sys2Proof.Machine.execVfadd t vd vs1 vs2 lanes s
  | .vfsub t vd vs1 vs2 lanes => Sys2Proof.Machine.execVfsub t vd vs1 vs2 lanes s
  | .vfmul t vd vs1 vs2 lanes => Sys2Proof.Machine.execVfmul t vd vs1 vs2 lanes s
  | .vfdiv t vd vs1 vs2 lanes => Sys2Proof.Machine.execVfdiv t vd vs1 vs2 lanes s
  | .vfsqrt t vd vs1 lanes => Sys2Proof.Machine.execVfsqrt t vd vs1 lanes s
  | .vfmin t vd vs1 vs2 lanes => Sys2Proof.Machine.execVfmin t vd vs1 vs2 lanes s
  | .vfmax t vd vs1 vs2 lanes => Sys2Proof.Machine.execVfmax t vd vs1 vs2 lanes s
  | .vfcmplt t vd vs1 vs2 lanes => Sys2Proof.Machine.execVfcmplt t vd vs1 vs2 lanes s
  | .vfcmpeq t vd vs1 vs2 lanes => Sys2Proof.Machine.execVfcmpeq t vd vs1 vs2 lanes s
  | .vfexp t vd vs1 lanes => Sys2Proof.Machine.execVfexp t vd vs1 lanes s
  | .vfln t vd vs1 lanes => Sys2Proof.Machine.execVfln t vd vs1 lanes s
  | .vfmadd t vd vs1 vs2 lanes => Sys2Proof.Machine.execVfmadd t vd vs1 vs2 lanes s
  | .vfmsub t vd vs1 vs2 lanes => Sys2Proof.Machine.execVfmsub t vd vs1 vs2 lanes s
  | .vfnmadd t vd vs1 vs2 lanes => Sys2Proof.Machine.execVfnmadd t vd vs1 vs2 lanes s
  | .vfnmsub t vd vs1 vs2 lanes => Sys2Proof.Machine.execVfnmsub t vd vs1 vs2 lanes s
  | .vwmulLo t vd vs1 vs2 => Sys2Proof.Machine.execVwmulLo t vd vs1 vs2 s
  | .vwmulHi t vd vs1 vs2 => Sys2Proof.Machine.execVwmulHi t vd vs1 vs2 s
  | .vwmul16Lo t vd vs1 vs2 => Sys2Proof.Machine.execVwmul16Lo t vd vs1 vs2 s
  | .vwmul16Hi t vd vs1 vs2 => Sys2Proof.Machine.execVwmul16Hi t vd vs1 vs2 s
  | .vwfmulLo t vd vs1 vs2 lanes => Sys2Proof.Machine.execVwfmulLo t vd vs1 vs2 lanes s
  | .vwfmulHi t vd vs1 vs2 lanes => Sys2Proof.Machine.execVwfmulHi t vd vs1 vs2 lanes s
  | .vdot4I8 t vd vs1 vs2 => Sys2Proof.Machine.execVdot4I8 t vd vs1 vs2 s
  | .vdot2F16 t vd vs1 vs2 lanes => Sys2Proof.Machine.execVdot2F16 t vd vs1 vs2 lanes s
  | .vdot4F8 t vd vs1 vs2 lanes => Sys2Proof.Machine.execVdot4F8 t vd vs1 vs2 lanes s
  | .vcvtNarrow t vd vs1 rs2 => Sys2Proof.Machine.execVcvtNarrow t vd vs1 rs2 s
  | .vcvtWiden t vd vs1 rs2 => Sys2Proof.Machine.execVcvtWiden t vd vs1 rs2 s
  | .vzero t vd => Sys2Proof.Machine.execVzero t vd s
  | .vcopy t vd vs1 => Sys2Proof.Machine.execVcopy t vd vs1 s
  | .vbcastD t vd rs => Sys2Proof.Machine.execVbcastD t vd rs s
  | .vbcastW t vd rs => Sys2Proof.Machine.execVbcastW t vd rs s
  | .vextW t rd vs1 rs2 => Sys2Proof.Machine.execVextW t rd vs1 rs2 s
  | .vextD t rd vs1 rs2 => Sys2Proof.Machine.execVextD t rd vs1 rs2 s
  | .vinsW t vd rs rs2 => Sys2Proof.Machine.execVinsW t vd rs rs2 s
  | .vinsD t vd rs rs2 => Sys2Proof.Machine.execVinsD t vd rs rs2 s
  | .vmovs t vd rs rs2 => Sys2Proof.Machine.execVmovs t vd rs rs2 s
  | .vmovl t rd vs1 rs2 => Sys2Proof.Machine.execVmovl t rd vs1 rs2 s
  | .vldA t vd cs m => Sys2Proof.Machine.execVldA t vd cs m s
  | .vldU t vd cs m => Sys2Proof.Machine.execVldU t vd cs m s
  | .vstA t vs cs m => Sys2Proof.Machine.execVstA t vs cs m s
  | .vstU t vs cs m => Sys2Proof.Machine.execVstU t vs cs m s
  | .vnormSum t vd cs m fmt lim => Sys2Proof.Machine.execVnormSum t vd cs m fmt lim s
  | .vnormSsq t vd cs m fmt lim => Sys2Proof.Machine.execVnormSsq t vd cs m fmt lim s
  | .vnormScale t vd cs m fmt lim => Sys2Proof.Machine.execVnormScale t vd cs m fmt lim s
  | .vsmaxMax t vd cs m fmt lim => Sys2Proof.Machine.execVsmaxMax t vd cs m fmt lim s
  | .vsmaxSum t vd cs m fmt lim => Sys2Proof.Machine.execVsmaxSum t vd cs m fmt lim s
  | .vsmaxNorm t vd cs m fmt lim => Sys2Proof.Machine.execVsmaxNorm t vd cs m fmt lim s
  | .vlossXent t vd cs m fmt => Sys2Proof.Machine.execVlossXent t vd cs m fmt s
  | .vlossGrad t vd cs m fmt lim => Sys2Proof.Machine.execVlossGrad t vd cs m fmt lim s
  | .tcfg t rd cs rx => Sys2Proof.Machine.execTcfg t rd cs rx s
  | .tileGroupGrant t => Sys2Proof.Machine.execTileGroupGrant t s
  | .trel t => Sys2Proof.Machine.execTrel t s
  | .tshape t rs => Sys2Proof.Machine.execTshape t rs s
  | .tvalid t rd rs => Sys2Proof.Machine.execTvalid t rd rs s
  | .tmask t rs => Sys2Proof.Machine.execTmask t rs s
  | .tld t td cs m lim => Sys2Proof.Machine.execTld t td cs m lim s
  | .tldAll t td cs m lim => Sys2Proof.Machine.execTldAll t td cs m lim s
  | .tst t td cs m lim => Sys2Proof.Machine.execTst t td cs m lim s
  | .tmma t ta tb bank rfa rfb => Sys2Proof.Machine.execTmma t ta tb bank rfa rfb s
  | .tmmaQueueAccept t => Sys2Proof.Machine.execTmmaQueueAccept t s
  | .tmmaPassStart core part => Sys2Proof.Machine.execTmmaPassStart core part s
  | .tmmaPassComplete core part => Sys2Proof.Machine.execTmmaPassComplete core part s
  | .tmmaCvt t td ta tb bank rfa rfb rfd => Sys2Proof.Machine.execTmmaCvt t td ta tb bank rfa rfb rfd s
  | .tmmaCvtF t td ta tb bank rfa rfb rfd => Sys2Proof.Machine.execTmmaCvtF t td ta tb bank rfa rfb rfd s
  | .tz t bank => Sys2Proof.Machine.execTz t bank s
  | .tzTurn core part => Sys2Proof.Machine.execTzTurn core part s
  | .trdaRaw t td bank roff => Sys2Proof.Machine.execTrdaRaw t td bank roff s
  | .trdaCvt t td bank rfd roff => Sys2Proof.Machine.execTrdaCvt t td bank rfd roff s
  | .partitionDrainComplete core part => Sys2Proof.Machine.execPartitionDrainComplete core part s
  | .touchFillComplete space page => Sys2Proof.Machine.execTouchFillComplete space page s
  | .remoteFetchFilled space page => Sys2Proof.Machine.execRemoteFetchFilled space page s
  | .remoteFetchTimeout space page => Sys2Proof.Machine.execRemoteFetchTimeout space page s
  | .geSched t rd cs a => Sys2Proof.Machine.execGeSched t rd cs a s
  | .gatherEntryStart cmd => Sys2Proof.Machine.execGatherEntryStart cmd s
  | .gatherEntryFilled cmd entry => Sys2Proof.Machine.execGatherEntryFilled cmd entry s
  | .geFetch t rd cs a => Sys2Proof.Machine.execGeFetch t rd cs a s
  | .geRelease t rd cs a => Sys2Proof.Machine.execGeRelease t rd cs a s
  | .pgSet t rd cs a => Sys2Proof.Machine.execPgSet t rd cs a s
  | .pgSetComplete cmd => Sys2Proof.Machine.execPgSetComplete cmd s
  | .readReq src job frame off len => Sys2Proof.Machine.execReadReq src job frame off len s
  | .readRsp node job frame off len served data poison => Sys2Proof.Machine.execReadRsp node job frame off len served data poison s
  | .sectorFill line sector => Sys2Proof.Machine.execSectorFill line sector s
  | .victimWriteback slice => Sys2Proof.Machine.execVictimWriteback slice s
  | .reductionRequest space line op fp mask vals => Sys2Proof.Machine.execReductionRequest space line op fp mask vals s
  | .disable l1 all number => Sys2Proof.Machine.execDisable l1 all number s
  | .enable l1 all number => Sys2Proof.Machine.execEnable l1 all number s
  | .enableInv l1 all number => Sys2Proof.Machine.execEnableInv l1 all number s
  | .windowWrite ten idx record => Sys2Proof.Machine.execWindowWrite ten idx record s
  | .update t rd cs a => Sys2Proof.Machine.execUpdate t rd cs a s
  | .oboe t rd cs a => Sys2Proof.Machine.execOboe t rd cs a s
  | .transpose t rd cs a => Sys2Proof.Machine.execTranspose t rd cs a s
  | .gather t rd cs a => Sys2Proof.Machine.execGather t rd cs a s
  | .sortedGather t rd cs a => Sys2Proof.Machine.execSortedGather t rd cs a s
  | .zero t rd cs a => Sys2Proof.Machine.execZero t rd cs a s
  | .reduceAtMemory t rd cs a => Sys2Proof.Machine.execReduceAtMemory t rd cs a s
  | .pcodeScrub t rd cs a => Sys2Proof.Machine.execPcodeScrub t rd cs a s
  | .bellowsCommandComplete cmd => Sys2Proof.Machine.execBellowsCommandComplete cmd s
  | .pageReencrypt space page => Sys2Proof.Machine.execPageReencrypt space page s
  | .keySweepPage space page => Sys2Proof.Machine.execKeySweepPage space page s
  | .portTrained p tx rx => Sys2Proof.Machine.execPortTrained p tx rx s
  | .trainingTimeout p => Sys2Proof.Machine.execTrainingTimeout p s
  | .blockLockLost p lane => Sys2Proof.Machine.execBlockLockLost p lane s
  | .blockReceive p hdr f0 f1 f2 f3 f4 badA badB corrected => Sys2Proof.Machine.execBlockReceive p hdr f0 f1 f2 f3 f4 badA badB corrected s
  | .hello p body => Sys2Proof.Machine.execHello p body s
  | .helloTimer p => Sys2Proof.Machine.execHelloTimer p s
  | .keyMsg p body => Sys2Proof.Machine.execKeyMsg p body s
  | .keyingTimeout p => Sys2Proof.Machine.execKeyingTimeout p s
  | .keySwitch p epoch => Sys2Proof.Machine.execKeySwitch p epoch s
  | .creditSync p credits => Sys2Proof.Machine.execCreditSync p credits s
  | .rekeyStart p => Sys2Proof.Machine.execRekeyStart p s
  | .packetRoute src => Sys2Proof.Machine.execPacketRoute src s
  | .escapeTimeout src => Sys2Proof.Machine.execEscapeTimeout src s
  | .strOpen src job stream => Sys2Proof.Machine.execStrOpen src job stream s
  | .strOpenTimer stream => Sys2Proof.Machine.execStrOpenTimer stream s
  | .strCredit src job stream tspec => Sys2Proof.Machine.execStrCredit src job stream tspec s
  | .strData src job tspec len data last => Sys2Proof.Machine.execStrData src job tspec len data last s
  | .streamBlockTimeout stream => Sys2Proof.Machine.execStreamBlockTimeout stream s
  | .mgmtReq src flags tspec len data => Sys2Proof.Machine.execMgmtReq src flags tspec len data s
  | .mgmtRsp src flags tspec len data => Sys2Proof.Machine.execMgmtRsp src flags tspec len data s
  | .cuGroup t rd cs a => Sys2Proof.Machine.execCuGroup t rd cs a s
  | .cuRed t rd cs a => Sys2Proof.Machine.execCuRed t rd cs a s
  | .contextOpen p => Sys2Proof.Machine.execContextOpen p s
  | .redData src job tspec len data => Sys2Proof.Machine.execRedData src job tspec len data s
  | .grant src job tspec resend => Sys2Proof.Machine.execGrant src job tspec resend s
  | .done src job tspec count roots => Sys2Proof.Machine.execDone src job tspec count roots s
  | .drop src job tspec => Sys2Proof.Machine.execDrop src job tspec s
  | .torn src job tspec reason => Sys2Proof.Machine.execTorn src job tspec reason s
  | .vote src job tspec total flag => Sys2Proof.Machine.execVote src job tspec total flag s
  | .result src job tspec total flag => Sys2Proof.Machine.execResult src job tspec total flag s
  | .bready src job tspec => Sys2Proof.Machine.execBready src job tspec s
  | .babort src job tspec => Sys2Proof.Machine.execBabort src job tspec s
  | .bcast src job tspec len data => Sys2Proof.Machine.execBcast src job tspec len data s
  | .redDeadlineExpiry cmd right => Sys2Proof.Machine.execRedDeadlineExpiry cmd right s
  | .resendTimeout cmd right => Sys2Proof.Machine.execResendTimeout cmd right s
  | .tearTimeout cmd right => Sys2Proof.Machine.execTearTimeout cmd right s
  | .gradientLanding cmd => Sys2Proof.Machine.execGradientLanding cmd s
  | .cuBcast t rd cs a => Sys2Proof.Machine.execCuBcast t rd cs a s
  | .cuBrecv t rd cs a => Sys2Proof.Machine.execCuBrecv t rd cs a s
  | .cuCheck t rd cs a => Sys2Proof.Machine.execCuCheck t rd cs a s
  | .voteTaken cmd expired => Sys2Proof.Machine.execVoteTaken cmd expired s
  | .voteDeadline cmd right => Sys2Proof.Machine.execVoteDeadline cmd right s
  | .slicePatrol slice failed => Sys2Proof.Machine.execSlicePatrol slice failed s
  | .snSet t rd cs a => Sys2Proof.Machine.execSnSet t rd cs a s
  | .snPoint t rd cs a => Sys2Proof.Machine.execSnPoint t rd cs a s
  | .drainComplete ten => Sys2Proof.Machine.execDrainComplete ten s
  | .mtbfSWrite v => Sys2Proof.Machine.execMtbfSWrite v s
  | .snRestore t rd cs a => Sys2Proof.Machine.execSnRestore t rd cs a s
  | .sfBopen t rd cs a => Sys2Proof.Machine.execSfBopen t rd cs a s
  | .sfBchunk t rd cs a => Sys2Proof.Machine.execSfBchunk t rd cs a s
  | .sfBclose t rd cs a => Sys2Proof.Machine.execSfBclose t rd cs a s
  | .sfAttest t rd cs a => Sys2Proof.Machine.execSfAttest t rd cs a s
  | .sfRotate t rd cs a => Sys2Proof.Machine.execSfRotate t rd cs a s
  | .sfErase t rd cs a => Sys2Proof.Machine.execSfErase t rd cs a s
  | .keyRotate ten v => Sys2Proof.Machine.execKeyRotate ten v s
  | .functionEnable fn => Sys2Proof.Machine.execFunctionEnable fn s
  | .functionDisable fn => Sys2Proof.Machine.execFunctionDisable fn s
  | .functionLevelReset fn => Sys2Proof.Machine.execFunctionLevelReset fn s
  | .drainingEnd ten => Sys2Proof.Machine.execDrainingEnd ten s
  | .submissionDoorbell fn q v tee => Sys2Proof.Machine.execSubmissionDoorbell fn q v tee s
  | .sqEntryFetch fn q entry => Sys2Proof.Machine.execSqEntryFetch fn q entry s
  | .completionHeadDoorbell fn q v tee => Sys2Proof.Machine.execCompletionHeadDoorbell fn q v tee s
  | .completionPosting fn q => Sys2Proof.Machine.execCompletionPosting fn q s
  | .eventPosting fn => Sys2Proof.Machine.execEventPosting fn s
  | .userDoorbell fn num tee => Sys2Proof.Machine.execUserDoorbell fn num tee s
  | .sqCtlWrite fn q v tee => Sys2Proof.Machine.execSqCtlWrite fn q v tee s
  | .cqCtlWrite fn q v tee => Sys2Proof.Machine.execCqCtlWrite fn q v tee s
  | .loadProgram fn q hseq data => Sys2Proof.Machine.execLoadProgram fn q hseq data s
  | .loadBundle fn q hseq data => Sys2Proof.Machine.execLoadBundle fn q hseq data s
  | .map fn q hseq => Sys2Proof.Machine.execMap fn q hseq s
  | .unmap fn q hseq => Sys2Proof.Machine.execUnmap fn q hseq s
  | .startJob fn q hseq => Sys2Proof.Machine.execStartJob fn q hseq s
  | .stepClose fn q hseq => Sys2Proof.Machine.execStepClose fn q hseq s
  | .snapshotNow fn q hseq => Sys2Proof.Machine.execSnapshotNow fn q hseq s
  | .restore fn q hseq image poison => Sys2Proof.Machine.execRestore fn q hseq image poison s
  | .hold fn q hseq => Sys2Proof.Machine.execHold fn q hseq s
  | .release fn q hseq => Sys2Proof.Machine.execRelease fn q hseq s
  | .scrub fn q hseq => Sys2Proof.Machine.execScrub fn q hseq s
  | .query fn q hseq => Sys2Proof.Machine.execQuery fn q hseq s
  | .setStop fn q hseq data => Sys2Proof.Machine.execSetStop fn q hseq data s
  | .getStop fn q hseq => Sys2Proof.Machine.execGetStop fn q hseq s
  | .ringResume fn ring => Sys2Proof.Machine.execRingResume fn ring s
  | .bar2Read fn off len tee => Sys2Proof.Machine.execBar2Read fn off len tee s
  | .bar2Write fn off len data tee => Sys2Proof.Machine.execBar2Write fn off len data tee s
  | .doeAttest req => Sys2Proof.Machine.execDoeAttest req s
  | .managementPeriod power short => Sys2Proof.Machine.execManagementPeriod power short s
  | .get fn box tee => Sys2Proof.Machine.execGet fn box tee s
  | .set fn box tee => Sys2Proof.Machine.execSet fn box tee s
  | .sapGet addr port len data => Sys2Proof.Machine.execSapGet addr port len data s
  | .sapSet addr port len data => Sys2Proof.Machine.execSapSet addr port len data s
  | .attest addr port len data => Sys2Proof.Machine.execAttest addr port len data s
  | .discover addr port len data multicast => Sys2Proof.Machine.execDiscover addr port len data multicast s
  | .discoverReply => Sys2Proof.Machine.execDiscoverReply s
  | .storedStopCommit => Sys2Proof.Machine.execStoredStopCommit s
  | .storedDefaults v => Sys2Proof.Machine.execStoredDefaults v s
  | .portCtlWrite p v => Sys2Proof.Machine.execPortCtlWrite p v s
  | .registerWrite target => Sys2Proof.Machine.execRegisterWrite target s
  | .powerOn slot => Sys2Proof.Machine.execPowerOn slot s
  | .supplyPgood supply => Sys2Proof.Machine.execSupplyPgood supply s
  | .supplyFault supply => Sys2Proof.Machine.execSupplyFault supply s
  | .pwrReq => Sys2Proof.Machine.execPwrReq s
  | .pwrEn level slot fails => Sys2Proof.Machine.execPwrEn level slot fails s
  | .pwrEnTimeout => Sys2Proof.Machine.execPwrEnTimeout s
  | .pwrReqRetry => Sys2Proof.Machine.execPwrReqRetry s
  | .ckRootLock => Sys2Proof.Machine.execCkRootLock s
  | .ckRootLockTimeout => Sys2Proof.Machine.execCkRootLockTimeout s
  | .ckRootLockLoss => Sys2Proof.Machine.execCkRootLockLoss s
  | .mrstN low slot fails => Sys2Proof.Machine.execMrstN low slot fails s
  | .perstN low slot fails => Sys2Proof.Machine.execPerstN low slot fails s
  | .monitorWatchdog slot fails => Sys2Proof.Machine.execMonitorWatchdog slot fails s
  | .deviceResetRequest slot fails => Sys2Proof.Machine.execDeviceResetRequest slot fails s
  | .monitorReady saffron => Sys2Proof.Machine.execMonitorReady saffron s
  | .bringupTimeout => Sys2Proof.Machine.execBringupTimeout s
  | .resume3 t => Sys2Proof.Machine.execResume3 t s
  | .thermalSample sensors coolant => Sys2Proof.Machine.execThermalSample sensors coolant s
  | .throttleStepDown q => Sys2Proof.Machine.execThrottleStepDown q s
  | .throttleStepUp q => Sys2Proof.Machine.execThrottleStepUp q s
  | .dividerChange q => Sys2Proof.Machine.execDividerChange q s
  | .thermTripN low => Sys2Proof.Machine.execThermTripN low s
  | .tripLatchClear => Sys2Proof.Machine.execTripLatchClear s
  | .leakN wet => Sys2Proof.Machine.execLeakN wet s
  | .leakLatchClear => Sys2Proof.Machine.execLeakLatchClear s
  | .nmiN low => Sys2Proof.Machine.execNmiN low s
  | .stackPopc t rd => Sys2Proof.Machine.execStackPopc t rd s
  | .reservedMajor t w0 w1 => Sys2Proof.Machine.execReservedMajor t w0 w1 s
  | .droneTaskAbort t => Sys2Proof.Machine.execDroneTaskAbort t s
  | .spdmTdispRequest req => Sys2Proof.Machine.execSpdmTdispRequest req s
  | .supplyOrder supply => Sys2Proof.Machine.execSupplyOrder supply s
  | .tripComparator q => Sys2Proof.Machine.execTripComparator q s

end Sys2Proof.Machine
end

