-- ==== Sys2Proof/WellFormed.lean ====
section
/-!
DEFINITION. WellFormed.lean: which commands the module can be given. The types of Syntax.lean already hold every operand of an
instruction to its field; what is left are the sizes of what arrives over a link or a port, and the word of RESERVED_MAJOR.
-/

namespace Sys2Proof

open Sys2Proof.Machine (fld bit)

/-- A node number: 16 bits (R362). -/
def nodeOk (n : Nat) : Bool := decide (n < 65536)

/-- A job id: 16 bits (R362). -/
def jobOk (n : Nat) : Bool := decide (n < 65536)

/-- TSPEC: 32 bits (R362). -/
def tspecOk (n : Nat) : Bool := decide (n < 2 ^ 32)

/-- A byte string as one number. -/
def bytesOk (len v : Nat) : Bool := decide (v < 256 ^ len)

/-- A packet's payload: 1 to 4,096 bytes (R362). -/
def payloadOk (len v : Nat) : Bool := decide (1 ≤ len) && decide (len ≤ 4096) && bytesOk len v

/-- A UDP message over IPv6 (R550): at most 65,527 bytes. -/
def messageOk (len v : Nat) : Bool := decide (len ≤ 65527) && bytesOk len v

/-- The target of a REGISTER_WRITE: a Stop takes a value of at most 65,535 bytes (R549), and SV3 holds a tag that is produced
(R30). -/
def targetOk : RegTarget → Bool
  | .bar0 .. => true
  | .stop _ _ _ len v => decide (len < 65536) && bytesOk len v
  | .sv3 _ _ _ _ tag oddTag => (decide (tag.toNat ≤ 9) || tag == 15) && (decide (oddTag.toNat ≤ 9) || oddTag == 15)

/-- A request of a DOE protocol. -/
def doeRequestOk : DoeReq → Bool
  | .discovery _ => true
  | .spdm _ len body => bytesOk len body
  | .ideKey _ _ => true
  | .tdisp _ _ => true

/-- A command that the module can be given. -/
def Instr.wellFormed : Instr → Bool
  | .add .. => true
  | .sub .. => true
  | .and .. => true
  | .or .. => true
  | .xor .. => true
  | .sll .. => true
  | .srl .. => true
  | .sra .. => true
  | .mul .. => true
  | .mulh .. => true
  | .mulhu .. => true
  | .div .. => true
  | .divu .. => true
  | .rem .. => true
  | .remu .. => true
  | .min .. => true
  | .max .. => true
  | .minu .. => true
  | .maxu .. => true
  | .clz .. => true
  | .ctz .. => true
  | .popc .. => true
  | .addi .. => true
  | .andi .. => true
  | .ori .. => true
  | .xori .. => true
  | .slli .. => true
  | .srli .. => true
  | .srai .. => true
  | .lui .. => true
  | .cmpi .. => true
  | .fadd .. => true
  | .fsub .. => true
  | .fmul .. => true
  | .fdiv .. => true
  | .fsqrt .. => true
  | .fmin .. => true
  | .fmax .. => true
  | .fabs .. => true
  | .fneg .. => true
  | .fmadd .. => true
  | .fmsub .. => true
  | .fnmadd .. => true
  | .fnmsub .. => true
  | .i2f .. => true
  | .u2f .. => true
  | .f2i .. => true
  | .f2u .. => true
  | .f2s .. => true
  | .s2f .. => true
  | .cmpEq .. => true
  | .cmpNe .. => true
  | .cmpLt .. => true
  | .cmpLtu .. => true
  | .cmpGe .. => true
  | .cmpGeu .. => true
  | .cmpFeq .. => true
  | .cmpFlt .. => true
  | .cmpFle .. => true
  | .cmpFun .. => true
  | .cmpSlt .. => true
  | .sel .. => true
  | .mov .. => true
  | .tget .. => true
  | .teq .. => true
  | .retag .. => true
  | .hchk .. => true
  | .fmtchk .. => true
  | .ldB .. => true
  | .ldBu .. => true
  | .ldH .. => true
  | .ldHu .. => true
  | .ldW .. => true
  | .ldWu .. => true
  | .ldD .. => true
  | .ldF .. => true
  | .ldc .. => true
  | .stB .. => true
  | .stH .. => true
  | .stW .. => true
  | .stD .. => true
  | .stc .. => true
  | .scanEqD .. => true
  | .scanNeD .. => true
  | .scanEqW .. => true
  | .scanNeW .. => true
  | .amoadd .. => true
  | .amoand .. => true
  | .amoor .. => true
  | .amoxor .. => true
  | .amoswap .. => true
  | .amocas .. => true
  | .amomin .. => true
  | .amomax .. => true
  | .bz .. => true
  | .bnz .. => true
  | .j .. => true
  | .call .. => true
  | .jr .. => true
  | .callr .. => true
  | .callc .. => true
  | .ret .. => true
  | .push .. => true
  | .pop .. => true
  | .pushc .. => true
  | .svVadd .. => true
  | .svVsub .. => true
  | .svVmul .. => true
  | .svVmin .. => true
  | .svVmax .. => true
  | .svVminu .. => true
  | .svVmaxu .. => true
  | .svVand .. => true
  | .svVor .. => true
  | .svVxor .. => true
  | .svVsll .. => true
  | .svVsrl .. => true
  | .svVsra .. => true
  | .svVcmpeq .. => true
  | .svVcmplt .. => true
  | .svVsadd .. => true
  | .svVdot4 .. => true
  | .svVfadd .. => true
  | .svVfsub .. => true
  | .svVfmul .. => true
  | .svVfmin .. => true
  | .svVfmax .. => true
  | .svFma .. => true
  | .svVbcast .. => true
  | .svVshuf .. => true
  | .svVext .. => true
  | .svVins .. => true
  | .svLd .. => true
  | .svSt .. => true
  | .fenceAcq .. => true
  | .fenceRel .. => true
  | .fenceAr .. => true
  | .fenceI .. => true
  | .rep .. => true
  | .repn .. => true
  | .engineQueueEnqueue .. => true
  | .cgetBase .. => true
  | .cgetLen .. => true
  | .cgetPerm .. => true
  | .cgetTen .. => true
  | .cgetType .. => true
  | .cgetQuant .. => true
  | .csetOff .. => true
  | .csetLen .. => true
  | .candPerm .. => true
  | .csetTen .. => true
  | .cseal .. => true
  | .cgate .. => true
  | .cunseal .. => true
  | .cmove .. => true
  | .ctest .. => true
  | .ctestSub .. => true
  | .sysrd .. => true
  | .syswr .. => true
  | .sysrdc .. => true
  | .syswrc .. => true
  | .eret .. => true
  | .svclr .. => true
  | .svset .. => true
  | .interruptEntry .. => true
  | .nmi .. => true
  | .nmiHoldExpiry .. => true
  | .localTimer .. => true
  | .taskNew .. => true
  | .taskCue .. => true
  | .taskDone .. => true
  | .taskBind .. => true
  | .taskEpoch .. => true
  | .epochSlotWaitEnd .. => true
  | .taskCommit .. => true
  | .taskDiscard .. => true
  | .taskState .. => true
  | .taskSig .. => true
  | .taskAbort .. => true
  | .taskDispatch .. => true
  | .epochResolutionComplete .. => true
  | .specStoreRelease .. => true
  | .heldCommandRelease .. => true
  | .chOpen .. => true
  | .chSend .. => true
  | .chRecv .. => true
  | .channelSlotReady .. => true
  | .handoffBlockArrival .. => true
  | .chCue .. => true
  | .chClose .. => true
  | .chSopen .. => true
  | .chSsend .. => true
  | .lvWakeComplete .. => true
  | .lvPowerDown .. => true
  | .vadd .. => true
  | .vsub .. => true
  | .vmul .. => true
  | .vmin .. => true
  | .vmax .. => true
  | .vminu .. => true
  | .vmaxu .. => true
  | .vand .. => true
  | .vor .. => true
  | .vxor .. => true
  | .vsll .. => true
  | .vsrl .. => true
  | .vsra .. => true
  | .vcmpeq .. => true
  | .vcmplt .. => true
  | .vsel .. => true
  | .vsadd .. => true
  | .vfadd .. => true
  | .vfsub .. => true
  | .vfmul .. => true
  | .vfdiv .. => true
  | .vfsqrt .. => true
  | .vfmin .. => true
  | .vfmax .. => true
  | .vfcmplt .. => true
  | .vfcmpeq .. => true
  | .vfexp .. => true
  | .vfln .. => true
  | .vfmadd .. => true
  | .vfmsub .. => true
  | .vfnmadd .. => true
  | .vfnmsub .. => true
  | .vwmulLo .. => true
  | .vwmulHi .. => true
  | .vwmul16Lo .. => true
  | .vwmul16Hi .. => true
  | .vwfmulLo .. => true
  | .vwfmulHi .. => true
  | .vdot4I8 .. => true
  | .vdot2F16 .. => true
  | .vdot4F8 .. => true
  | .vcvtNarrow .. => true
  | .vcvtWiden .. => true
  | .vzero .. => true
  | .vcopy .. => true
  | .vbcastD .. => true
  | .vbcastW .. => true
  | .vextW .. => true
  | .vextD .. => true
  | .vinsW .. => true
  | .vinsD .. => true
  | .vmovs .. => true
  | .vmovl .. => true
  | .vldA .. => true
  | .vldU .. => true
  | .vstA .. => true
  | .vstU .. => true
  | .vnormSum .. => true
  | .vnormSsq .. => true
  | .vnormScale .. => true
  | .vsmaxMax .. => true
  | .vsmaxSum .. => true
  | .vsmaxNorm .. => true
  | .vlossXent .. => true
  | .vlossGrad .. => true
  | .tcfg .. => true
  | .tileGroupGrant .. => true
  | .trel .. => true
  | .tshape .. => true
  | .tvalid .. => true
  | .tmask .. => true
  | .tld .. => true
  | .tldAll .. => true
  | .tst .. => true
  | .tmma .. => true
  | .tmmaQueueAccept .. => true
  | .tmmaPassStart .. => true
  | .tmmaPassComplete .. => true
  | .tmmaCvt .. => true
  | .tmmaCvtF .. => true
  | .tz .. => true
  | .tzTurn .. => true
  | .trdaRaw .. => true
  | .trdaCvt .. => true
  | .partitionDrainComplete .. => true
  | .touchFillComplete .. => true
  | .remoteFetchFilled .. => true
  | .remoteFetchTimeout .. => true
  | .geSched .. => true
  | .gatherEntryStart .. => true
  | .gatherEntryFilled .. => true
  | .geFetch .. => true
  | .geRelease .. => true
  | .pgSet .. => true
  | .pgSetComplete .. => true
  | .readReq src job frame _ len => nodeOk src && jobOk job && decide (frame < 2 ^ 32) && decide (0 < len)
  | .readRsp node job frame _ len _ data poison => nodeOk node && jobOk job && decide (frame < 2 ^ 32) && bytesOk len data && decide (poison < 2 ^ ((len + 7) / 8))
  | .sectorFill line _ => decide (line < 2 ^ 41)
  | .victimWriteback .. => true
  | .reductionRequest _ line _ _ _ _ => decide (line < 2 ^ 41)
  | .disable .. => true
  | .enable .. => true
  | .enableInv .. => true
  | .windowWrite .. => true
  | .update .. => true
  | .oboe .. => true
  | .transpose .. => true
  | .gather .. => true
  | .sortedGather .. => true
  | .zero .. => true
  | .reduceAtMemory .. => true
  | .pcodeScrub .. => true
  | .bellowsCommandComplete .. => true
  | .pageReencrypt .. => true
  | .keySweepPage .. => true
  | .portTrained .. => true
  | .trainingTimeout .. => true
  | .blockLockLost .. => true
  | .blockReceive .. => true
  | .hello .. => true
  | .helloTimer .. => true
  | .keyMsg .. => true
  | .keyingTimeout .. => true
  | .keySwitch .. => true
  | .creditSync .. => true
  | .rekeyStart .. => true
  | .packetRoute .. => true
  | .escapeTimeout .. => true
  | .strOpen src job stream => nodeOk src && jobOk job && decide (stream < 4096)
  | .strOpenTimer .. => true
  | .strCredit src job stream tspec => nodeOk src && jobOk job && decide (stream < 4096) && tspecOk tspec
  | .strData src job tspec len data _ => nodeOk src && jobOk job && tspecOk tspec && payloadOk len data
  | .streamBlockTimeout .. => true
  | .mgmtReq src flags tspec len data => nodeOk src && decide (flags < 256) && tspecOk tspec && payloadOk len data
  | .mgmtRsp src flags tspec len data => nodeOk src && decide (flags < 256) && tspecOk tspec && payloadOk len data
  | .cuGroup .. => true
  | .cuRed .. => true
  | .contextOpen .. => true
  | .redData src job tspec len data => nodeOk src && jobOk job && tspecOk tspec && payloadOk len data
  | .grant src job tspec _ => nodeOk src && jobOk job && tspecOk tspec
  | .done src job tspec count roots => nodeOk src && jobOk job && tspecOk tspec && decide (count < 65536) && roots.all nodeOk
  | .drop src job tspec => nodeOk src && jobOk job && tspecOk tspec
  | .torn src job tspec reason => nodeOk src && jobOk job && tspecOk tspec && decide (reason < 256)
  | .vote src job tspec _ _ => nodeOk src && jobOk job && tspecOk tspec
  | .result src job tspec _ _ => nodeOk src && jobOk job && tspecOk tspec
  | .bready src job tspec => nodeOk src && jobOk job && tspecOk tspec
  | .babort src job tspec => nodeOk src && jobOk job && tspecOk tspec
  | .bcast src job tspec len data => nodeOk src && jobOk job && tspecOk tspec && payloadOk len data
  | .redDeadlineExpiry .. => true
  | .resendTimeout .. => true
  | .tearTimeout .. => true
  | .gradientLanding .. => true
  | .cuBcast .. => true
  | .cuBrecv .. => true
  | .cuCheck .. => true
  | .voteTaken .. => true
  | .voteDeadline .. => true
  | .slicePatrol .. => true
  | .snSet .. => true
  | .snPoint .. => true
  | .drainComplete .. => true
  | .mtbfSWrite .. => true
  | .snRestore .. => true
  | .sfBopen .. => true
  | .sfBchunk .. => true
  | .sfBclose .. => true
  | .sfAttest .. => true
  | .sfRotate .. => true
  | .sfErase .. => true
  | .keyRotate .. => true
  | .functionEnable .. => true
  | .functionDisable .. => true
  | .functionLevelReset .. => true
  | .drainingEnd .. => true
  | .submissionDoorbell .. => true
  | .sqEntryFetch .. => true
  | .completionHeadDoorbell .. => true
  | .completionPosting .. => true
  | .eventPosting .. => true
  | .userDoorbell .. => true
  | .sqCtlWrite .. => true
  | .cqCtlWrite .. => true
  | .loadProgram .. => true
  | .loadBundle .. => true
  | .map .. => true
  | .unmap .. => true
  | .startJob .. => true
  | .stepClose .. => true
  | .snapshotNow .. => true
  | .restore .. => true
  | .hold .. => true
  | .release .. => true
  | .scrub .. => true
  | .query .. => true
  | .setStop .. => true
  | .getStop .. => true
  | .ringResume .. => true
  | .bar2Read .. => true
  | .bar2Write _ _ len data _ => bytesOk len.toNat data
  | .doeAttest .. => true
  | .managementPeriod _ short => decide short.Nodup
  | .get .. => true
  | .set .. => true
  | .sapGet _ _ len data => messageOk len data
  | .sapSet _ _ len data => messageOk len data
  | .attest _ _ len data => messageOk len data
  | .discover _ _ len data _ => messageOk len data
  | .discoverReply => true
  | .storedStopCommit => true
  | .storedDefaults .. => true
  | .portCtlWrite .. => true
  | .registerWrite target => targetOk target
  | .powerOn .. => true
  | .supplyPgood .. => true
  | .supplyFault .. => true
  | .pwrReq => true
  | .pwrEn .. => true
  | .pwrEnTimeout => true
  | .pwrReqRetry => true
  | .ckRootLock => true
  | .ckRootLockTimeout => true
  | .ckRootLockLoss => true
  | .mrstN .. => true
  | .perstN .. => true
  | .monitorWatchdog .. => true
  | .deviceResetRequest .. => true
  | .monitorReady .. => true
  | .bringupTimeout => true
  | .resume3 .. => true
  | .thermalSample .. => true
  | .throttleStepDown .. => true
  | .throttleStepUp .. => true
  | .dividerChange .. => true
  | .thermTripN .. => true
  | .tripLatchClear => true
  | .leakN .. => true
  | .leakLatchClear => true
  | .nmiN .. => true
  | .stackPopc .. => true
  | .reservedMajor _ w0 w1 => (Decode.reserved w0.toNat w1.toNat).isSome
  | .droneTaskAbort .. => true
  | .spdmTdispRequest req => doeRequestOk req
  | .supplyOrder .. => true
  | .tripComparator .. => true

end Sys2Proof
end

