-- ==== Sys2Proof/Safety.lean ====
section
/-!
DEFINITION. Safety.lean: the terms in which claims about the module are stated: an instruction that is fetched, an instruction that
has completed, the canonical forms of the state, and a run that neither faults nor is refused.
-/

namespace Sys2Proof.Machine

/-- The thread may issue and the fetch of len bytes at PC succeeds, leaving s1 (R37, R107). -/
def Fetches (t : Tid) (len : Nat) (ext : Bool) (s s1 : State) : Prop :=
  (s.th t).eligible = true ∧ coreStopped s (t.val / 16) = false ∧ fetchInstr t len ext (issue s t) = .ok () s1

/-- The state after an instruction of len bytes that leaves the thread's registers as th and does not jump (R37). -/
def done (t : Tid) (len : Nat) (s : State) (th : Thread) : State :=
  s.setTh t { th with pc := (s.th t).pc + BitVec.ofNat 64 len, iter := 0, inRepn := false, stopPfx := false, stopExt := false }

/-- The state after an instruction that jumps to an address. -/
def jumped (t : Tid) (target : Word) (s : State) (th : Thread) : State :=
  s.setTh t { th with pc := target, iter := 0, inRepn := false, stopPfx := false, stopExt := false }

/-- The state in which the meaning of an instruction starts that does not resume: its iteration counter is 0 (R99). -/
def begun (t : Tid) (s : State) : State := s.setTh t { s.th t with iter := 0 }

/-- A thread's access of len bytes at a through a capability passes the checks of R45, R51 and R73. -/
def Allowed (th : Thread) (c : Cap) (mask a len align : Nat) : Prop :=
  capRefused th.level.val th.tenancy.val c = none ∧ c.has permRET = false ∧ c.has mask = true ∧ c.base ≤ a ∧ a + len ≤ c.top ∧
    a % align = 0

/-- The registers of an M-format address carry their tags: an unsealed capability, and INT in rx (R31, R597). -/
def AddrOk (th : Thread) (cs : PIdx) (m : MForm) : Prop :=
  (th.cap cs).isUnsealed = true ∧ match m with
    | .short rx _ => (th.g rx).tag = .int
    | .ext _ => True

/-- The registers of an A-format address carry their tags. -/
def AddrOkA (th : Thread) (cs : PIdx) (a : AForm) : Prop :=
  (th.cap cs).isUnsealed = true ∧ match a with
    | .short rx _ => (th.g rx).tag = .int
    | .ext _ => True

/-- The registers of the data stack carry their tags: c15 an unsealed capability, g29 an INT (R54). -/
def StackOk (th : Thread) : Prop := (th.cap 15).isUnsealed = true ∧ (th.g 29).tag = .int

/-- Pair cs gives a thread the permissions of a command, without an address (R73, R115). -/
def Auth (th : Thread) (cs : PIdx) (mask : Nat) : Prop :=
  (th.cap cs).isUnsealed = true ∧ capRefused th.level.val th.tenancy.val (th.cap cs).toCap = none ∧ (th.cap cs).toCap.has mask = true

/-- The bytes of a range stored with their marks, in the state after its translations; no epoch's quota stands in the way. -/
def Stores (t : Tid) (n : Fin 17) (a : Nat) (bs : List PByte) (tag : Bool) (s s1 : State) : Prop :=
  ∃ ps s2, xlateAll t n .write (pieces 8 a bs.length) s = .ok ps s2 ∧ quotaWait t ps s2 = .ok () s2 ∧
    s1 = writePieces t n tag ps bs s2

/-- A register holds an integer: tag INT or BOOL (R31, class 0x1). -/
def IsInt (th : Thread) (r : RIdx) (v : Word) : Prop := (th.g r).val = v ∧ ((th.g r).tag = .int ∨ (th.g r).tag = .bool)

/-- A register holds a value with a tag. -/
def Holds (th : Thread) (r : RIdx) (v : Word) (g : Tag) : Prop := th.g r = ⟨v, g⟩

/-- The state after an instruction has raised an exception: nothing but the entry (R96) follows. -/
def trapped (t : Tid) (vector detail faddr : Nat) (ext : Bool) (s : State) : State :=
  takeTrap t ⟨vector, detail, faddr, false, ext, false, false⟩ (s.setTh t { s.th t with iter := 0 })

/-- The canonical form of the memory and of every table that stands for it. -/
def State.wf (s : State) : Bool :=
  Memory.wf s && Tab.wf s.hbmTags && Tab.wf s.hbmPoison && Tab.wf s.hbmErrs && Tab.wf s.slc && Tab.wf s.stops

/-! ### The summation order of R160 in its own words -/

/-- combine(v): the sum of a block joins the levels, an unoccupied level being none. -/
def carrySum : List (Option Nat) → Nat → List (Option Nat)
  | [], v => [some v]
  | none :: r, v => some v :: r
  | some x :: r, v => none :: carrySum r (fAdd fp32 .rne x v)

/-- finish(): the occupied levels, the lowest first; +0.0 when no level is occupied. -/
def finishSum : Option Nat → List (Option Nat) → Nat
  | r, [] => r.getD 0
  | r, none :: l => finishSum r l
  | none, some y :: l => finishSum (some y) l
  | some x, some y :: l => finishSum (some (fAdd fp32 .rne y x)) l

/-- The tree over 2^n terms: the left operand of every addition covers the lower indices. -/
def treeOf : Nat → List Nat → Nat
  | 0, l => l.headD 0
  | n + 1, l => fAdd fp32 .rne (treeOf n (l.take (2 ^ n))) (treeOf n (l.drop (2 ^ n)))

/-- A command may wait in the queue of a safe run. -/
def State.queueOk (s : State) : Bool := s.pending.all Instr.wellFormed

/-- One step is safe when it answers a next state. -/
def safeStep (s : State) : Prop := ∃ s', step s = .next s'

end Sys2Proof.Machine
end

