-- ==== Sys2Proof/Certificates/Slice0/Obligations.lean ====
section
/-!
DEFINITION. Certificates/Slice0/Obligations.lean: the statements about the module. A state after a fetch is called s1: the fetch of
an instruction fills caches and counters and leaves the thread's registers as they are.
-/

open Sys2Proof Sys2Proof.Machine

/-- A step takes the command at the front of the queue and runs it with the rest behind it. What an empty queue does is the model's
choice (log entry 1). -/
def Obligations.StepRunsFrontCommand : Prop :=
  (∀ (s : State) (c : Instr) (rest : List Instr), s.pending = c :: rest →
    step s = exec c { s with pending := rest }) ∧
  (∀ s : State, s.pending = [] → step s = .next (tick s))

/-- R39: the integer register instructions. The state is the one the fetch leaves with rd written and PC advanced: nothing else
changes. -/
def Obligations.IntegerRegisterResults : Prop :=
  ∀ (t : Tid) (rd rs1 rs2 : RIdx) (s s1 : State) (a b : Word),
    Fetches t 4 false s s1 → IsInt (s1.th t) rs1 a → IsInt (s1.th t) rs2 b →
    let th := s1.th t
    let put (v : Word) : State := done t 4 s1 (th.write rd ⟨v, .int⟩)
    let bits (v : Word) : State :=
      done t 4 s1 (th.write rd ⟨v, if (th.g rs1).tag = .bool ∧ (th.g rs2).tag = .bool then .bool else .int⟩)
    exec (.add t rd rs1 rs2) s = .next (put (a + b)) ∧
    exec (.sub t rd rs1 rs2) s = .next (put (a - b)) ∧
    exec (.and t rd rs1 rs2) s = .next (bits (a &&& b)) ∧
    exec (.or t rd rs1 rs2) s = .next (bits (a ||| b)) ∧
    exec (.xor t rd rs1 rs2) s = .next (bits (a ^^^ b)) ∧
    exec (.sll t rd rs1 rs2) s = .next (put (a <<< (b.toNat % 64))) ∧
    exec (.srl t rd rs1 rs2) s = .next (put (a >>> (b.toNat % 64))) ∧
    exec (.sra t rd rs1 rs2) s = .next (put (a.sshiftRight (b.toNat % 64))) ∧
    exec (.mul t rd rs1 rs2) s = .next (put (a * b)) ∧
    exec (.mulh t rd rs1 rs2) s = .next (put ((a.signExtend 128 * b.signExtend 128).extractLsb' 64 64)) ∧
    exec (.mulhu t rd rs1 rs2) s = .next (put ((a.zeroExtend 128 * b.zeroExtend 128).extractLsb' 64 64)) ∧
    exec (.min t rd rs1 rs2) s = .next (put (if b.toInt < a.toInt then b else a)) ∧
    exec (.max t rd rs1 rs2) s = .next (put (if a.toInt < b.toInt then b else a)) ∧
    exec (.minu t rd rs1 rs2) s = .next (put (if b.toNat < a.toNat then b else a)) ∧
    exec (.maxu t rd rs1 rs2) s = .next (put (if a.toNat < b.toNat then b else a)) ∧
    (∃ n, n ≤ 64 ∧ (∀ i, i < n → a.getMsbD i = false) ∧ (n < 64 → a.getMsbD n = true) ∧
      exec (.clz t rd rs1) s = .next (put (BitVec.ofNat 64 n))) ∧
    (∃ n, n ≤ 64 ∧ (∀ i, i < n → a.getLsbD i = false) ∧ (n < 64 → a.getLsbD n = true) ∧
      exec (.ctz t rd rs1) s = .next (put (BitVec.ofNat 64 n))) ∧
    exec (.popc t rd rs1) s = .next (put (BitVec.ofNat 64 ((List.range 64).filter (fun i => a.getLsbD i)).length))

/-- R33: sequence arithmetic, but for its last point (TAG_MISMATCH of other uses), which the tag statement says. -/
def Obligations.SequenceArithmetic : Prop :=
  ∀ (t : Tid) (rd rs1 rs2 : RIdx) (s s1 : State) (a b : Word),
    Fetches t 4 false s s1 → Holds (s1.th t) rs1 a .seq →
    let put (r : Reg) : State := done t 4 s1 ((s1.th t).write rd r)
    let x : BitVec 32 := a.truncate 32
    let y : BitVec 32 := b.truncate 32
    (Holds (s1.th t) rs2 b .int →
      exec (.add t rd rs1 rs2) s = .next (put ⟨(x + y).zeroExtend 64, .seq⟩) ∧
      exec (.sub t rd rs1 rs2) s = .next (put ⟨(x - y).zeroExtend 64, .seq⟩)) ∧
    (Holds (s1.th t) rs2 b .seq →
      exec (.sub t rd rs1 rs2) s = .next (put ⟨(x - y).signExtend 64, .int⟩) ∧
      exec (.cmpSlt t rd rs1 rs2) s =
        .next (put ⟨if 1 ≤ (y - x).toNat ∧ (y - x).toNat ≤ 2 ^ 31 - 1 then 1 else 0, .bool⟩))

/-- R40: division. -/
def Obligations.DivisionResults : Prop :=
  ∀ (t : Tid) (rd rs1 rs2 : RIdx) (s s1 : State), Fetches t 4 false s s1 →
    let th := s1.th t
    let put (r : Reg) : State := done t 4 s1 (th.write rd r)
    (∀ a b : Word, IsInt th rs1 a → IsInt th rs2 b → b ≠ 0 →
      exec (.div t rd rs1 rs2) s = .next (put (.int (BitVec.ofInt 64 (a.toInt.tdiv b.toInt)))) ∧
      exec (.divu t rd rs1 rs2) s = .next (put (.int (BitVec.ofNat 64 (a.toNat / b.toNat)))) ∧
      exec (.rem t rd rs1 rs2) s = .next (put (.int (BitVec.ofInt 64 (a.toInt.tmod b.toInt)))) ∧
      exec (.remu t rd rs1 rs2) s = .next (put (.int (BitVec.ofNat 64 (a.toNat % b.toNat))))) ∧
    (∀ a : Word, IsInt th rs1 a → IsInt th rs2 0 →
      ∀ i ∈ [Instr.div t rd rs1 rs2, .divu t rd rs1 rs2, .rem t rd rs1 rs2, .remu t rd rs1 rs2],
        exec i s = .next (trapped t 14 1 0 false s1)) ∧
    (((th.g rs1).tag = .poison ∧ (th.g rs2).tag ∈ [Tag.int, .bool, .poison]) ∨
      ((th.g rs2).tag = .poison ∧ (th.g rs1).tag ∈ [Tag.int, .bool, .poison]) →
      ∀ i ∈ [Instr.div t rd rs1 rs2, .divu t rd rs1 rs2, .rem t rd rs1 rs2, .remu t rd rs1 rs2],
        exec i s = .next (put .poison))

/-- R597 and the list below R40: the immediate forms. -/
def Obligations.ImmediateResults : Prop :=
  ∀ (t : Tid) (rd rs1 : RIdx) (s s1 : State) (a : Word),
    let put (len : Nat) (r : Reg) : State := done t len s1 ((s1.th t).write rd r)
    (∀ (imm : IForm), Fetches t (lenOf imm.isExt) imm.isExt s s1 → IsInt (s1.th t) rs1 a →
      let v : Word := match imm with
        | .short i => i.signExtend 64
        | .ext i => i.signExtend 64
      exec (.addi t rd rs1 imm) s = .next (put (lenOf imm.isExt) (.int (a + v))) ∧
      exec (.andi t rd rs1 imm) s = .next (put (lenOf imm.isExt) (.int (a &&& v))) ∧
      exec (.ori t rd rs1 imm) s = .next (put (lenOf imm.isExt) (.int (a ||| v))) ∧
      exec (.xori t rd rs1 imm) s = .next (put (lenOf imm.isExt) (.int (a ^^^ v)))) ∧
    (∀ (n : BitVec 6) (ext : Bool), Fetches t (lenOf ext) ext s s1 → IsInt (s1.th t) rs1 a →
      exec (.slli t rd rs1 n ext) s = .next (put (lenOf ext) (.int (a <<< n.toNat))) ∧
      exec (.srli t rd rs1 n ext) s = .next (put (lenOf ext) (.int (a >>> n.toNat))) ∧
      exec (.srai t rd rs1 n ext) s = .next (put (lenOf ext) (.int (a.sshiftRight n.toNat)))) ∧
    (∀ (imm : BitVec 20), Fetches t 4 false s s1 →
      exec (.lui t rd (.short imm)) s = .next (put 4 (.int (imm.signExtend 64 <<< 12)))) ∧
    (∀ (imm : BitVec 32), Fetches t 8 true s s1 →
      exec (.lui t rd (.ext imm)) s = .next (put 8 (.int (imm.signExtend 64)))) ∧
    (∀ (imm : KForm), Fetches t (lenOf imm.isExt) imm.isExt s s1 → IsInt (s1.th t) rs1 a →
      let v : Word := match imm with
        | .short i => i.signExtend 64
        | .ext i => i.signExtend 64
      let b (p : Prop) [Decidable p] : Reg := ⟨if p then 1 else 0, .bool⟩
      exec (.cmpi t rd rs1 .eq imm) s = .next (put (lenOf imm.isExt) (b (a = v))) ∧
      exec (.cmpi t rd rs1 .ne imm) s = .next (put (lenOf imm.isExt) (b (a ≠ v))) ∧
      exec (.cmpi t rd rs1 .lt imm) s = .next (put (lenOf imm.isExt) (b (a.toInt < v.toInt))) ∧
      exec (.cmpi t rd rs1 .ltu imm) s = .next (put (lenOf imm.isExt) (b (a.toNat < v.toNat))) ∧
      exec (.cmpi t rd rs1 .ge imm) s = .next (put (lenOf imm.isExt) (b (v.toInt ≤ a.toInt))) ∧
      exec (.cmpi t rd rs1 .geu imm) s = .next (put (lenOf imm.isExt) (b (v.toNat ≤ a.toNat))))

/-- The compare table under R42. The order of two FP64 values that are no NaN is that of the values their codes stand for. -/
def Obligations.CompareResults : Prop :=
  ∀ (t : Tid) (rd rs1 rs2 : RIdx) (s s1 : State) (a b : Word), Fetches t 4 false s s1 →
    let put (p : Bool) : State := done t 4 s1 ((s1.th t).write rd ⟨if p then 1 else 0, .bool⟩)
    (IsInt (s1.th t) rs1 a → IsInt (s1.th t) rs2 b →
      exec (.cmpEq t rd rs1 rs2) s = .next (put (decide (a = b))) ∧
      exec (.cmpNe t rd rs1 rs2) s = .next (put (decide (a ≠ b))) ∧
      exec (.cmpLt t rd rs1 rs2) s = .next (put (decide (a.toInt < b.toInt))) ∧
      exec (.cmpLtu t rd rs1 rs2) s = .next (put (decide (a.toNat < b.toNat))) ∧
      exec (.cmpGe t rd rs1 rs2) s = .next (put (decide (b.toInt ≤ a.toInt))) ∧
      exec (.cmpGeu t rd rs1 rs2) s = .next (put (decide (b.toNat ≤ a.toNat)))) ∧
    (Holds (s1.th t) rs1 a .flt → Holds (s1.th t) rs2 b .flt →
      let x := decodeF fp64 a.toNat
      let y := decodeF fp64 b.toNat
      ((x = .nan ∨ y = .nan) →
        (∀ i ∈ [Instr.cmpFeq t rd rs1 rs2, .cmpFlt t rd rs1 rs2, .cmpFle t rd rs1 rs2], exec i s = .next (put false)) ∧
        exec (.cmpFun t rd rs1 rs2) s = .next (put true)) ∧
      (x ≠ .nan → y ≠ .nan →
        exec (.cmpFeq t rd rs1 rs2) s = .next (put (decide (x.cmp y = 0))) ∧
        exec (.cmpFlt t rd rs1 rs2) s = .next (put (decide (x.cmp y < 0))) ∧
        exec (.cmpFle t rd rs1 rs2) s = .next (put (decide (x.cmp y ≤ 0))) ∧
        exec (.cmpFun t rd rs1 rs2) s = .next (put false)))

/-- R41: the FP64 instructions. Num is exact: encodeF is the one rounding. -/
def Obligations.Fp64Results : Prop :=
  ∀ (t : Tid) (rd rs1 rs2 rs3 : RIdx) (mode : RMode) (s s1 : State) (a b c : Word), Fetches t 4 false s s1 →
    let put (g : Tag) (v : Nat) : State := done t 4 s1 ((s1.th t).write rd ⟨BitVec.ofNat 64 v, g⟩)
    let x := decodeF fp64 a.toNat
    let y := decodeF fp64 b.toNat
    let z := decodeF fp64 c.toNat
    (Holds (s1.th t) rs1 a .flt →
      exec (.fsqrt t rd rs1 mode) s = .next (put .flt (encodeF fp64 mode x.sqrtS.1 x.sqrtS.2)) ∧
      exec (.fabs t rd rs1) s = .next (put .flt (if x.isNan then 0x7FF8000000000000 else a.toNat % 2 ^ 63)) ∧
      exec (.fneg t rd rs1) s =
        .next (put .flt (if x.isNan then 0x7FF8000000000000 else (a.toNat + 2 ^ 63) % 2 ^ 64)) ∧
      exec (.f2i t rd rs1 mode) s = .next (done t 4 s1 ((s1.th t).write rd (.int (BitVec.ofInt 64 (match x with
        | .nan => 0
        | .inf neg => if neg then -2 ^ 63 else 2 ^ 63 - 1
        | .fin neg m e => max (-2 ^ 63) (min (2 ^ 63 - 1) (numToInt mode neg m e))))))) ∧
      exec (.f2u t rd rs1 mode) s = .next (done t 4 s1 ((s1.th t).write rd (.int (BitVec.ofInt 64 (match x with
        | .nan => 0
        | .inf neg => if neg then 0 else 2 ^ 64 - 1
        | .fin neg m e => max 0 (min (2 ^ 64 - 1) (numToInt mode neg m e))))))) ∧
      exec (.f2s t rd rs1 mode) s = .next (put .int (encodeF fp32 mode x))) ∧
    (IsInt (s1.th t) rs1 a →
      exec (.i2f t rd rs1 mode) s = .next (put .flt (encodeF fp64 mode (.fin (decide (a.toInt < 0)) a.toInt.natAbs 0))) ∧
      exec (.u2f t rd rs1 mode) s = .next (put .flt (encodeF fp64 mode (.fin false a.toNat 0))) ∧
      exec (.s2f t rd rs1 mode) s = .next (put .flt (encodeF fp64 mode (decodeF fp32 (a.toNat % 2 ^ 32))))) ∧
    (Holds (s1.th t) rs1 a .flt → Holds (s1.th t) rs2 b .flt →
      exec (.fadd t rd rs1 rs2 mode) s = .next (put .flt (encodeF fp64 mode (x.add mode y))) ∧
      exec (.fsub t rd rs1 rs2 mode) s = .next (put .flt (encodeF fp64 mode (x.add mode y.neg))) ∧
      exec (.fmul t rd rs1 rs2 mode) s = .next (put .flt (encodeF fp64 mode (x.mul y))) ∧
      exec (.fdiv t rd rs1 rs2 mode) s = .next (put .flt (encodeF fp64 mode (x.divS y).1 (x.divS y).2)) ∧
      exec (.fmin t rd rs1 rs2) s =
        .next (put .flt (if x.isNan || y.isNan then 0x7FF8000000000000 else if x.ord y ≤ 0 then a.toNat else b.toNat)) ∧
      exec (.fmax t rd rs1 rs2) s =
        .next (put .flt (if x.isNan || y.isNan then 0x7FF8000000000000 else if x.ord y ≤ 0 then b.toNat else a.toNat)) ∧
      (Holds (s1.th t) rs3 c .flt →
        exec (.fmadd t rd rs1 rs2 rs3 mode) s = .next (put .flt (encodeF fp64 mode ((x.mul y).add mode z))) ∧
        exec (.fmsub t rd rs1 rs2 rs3 mode) s = .next (put .flt (encodeF fp64 mode ((x.mul y).add mode z.neg))) ∧
        exec (.fnmadd t rd rs1 rs2 rs3 mode) s = .next (put .flt (encodeF fp64 mode ((x.neg.mul y).add mode z.neg))) ∧
        exec (.fnmsub t rd rs1 rs2 rs3 mode) s = .next (put .flt (encodeF fp64 mode ((x.neg.mul y).add mode z)))))

/-- R34, R35 and the tag table: what the instructions that copy, read and set tags write. -/
def Obligations.TagInstructionResults : Prop :=
  ∀ (t : Tid) (rd rs1 rs2 rc : RIdx) (s s1 : State), Fetches t 4 false s s1 →
    let th := s1.th t
    let put (r : Reg) : State := done t 4 s1 (th.write rd r)
    let movable (r : RIdx) : Prop := (th.g r).tag ∈ [Tag.nil, .int, .flt, .bool, .handle, .fmt, .seq]
    (∀ c : Word, movable rs1 → movable rs2 → IsInt th rc c →
      exec (.sel t rd rs1 rs2 rc) s = .next (put (if c ≠ 0 then th.g rs1 else th.g rs2))) ∧
    (movable rs1 → exec (.mov t rd rs1) s = .next (put (th.g rs1))) ∧
    exec (.tget t rd rs1) s = .next (put (.int (BitVec.ofNat 64 (th.g rs1).tag.code))) ∧
    (∀ g : BitVec 4, exec (.teq t rd rs1 g) s =
      .next (put ⟨if (th.g rs1).tag.code = g.toNat then 1 else 0, .bool⟩)) ∧
    ((th.g rs1).tag ∈ [Tag.nil, .int, .flt, .bool, .seq] →
      exec (.retag t rd rs1 1) s = .next (put ⟨(th.g rs1).val, .int⟩) ∧
      exec (.retag t rd rs1 2) s = .next (put ⟨(th.g rs1).val, .flt⟩) ∧
      exec (.retag t rd rs1 3) s = .next (put ⟨if (th.g rs1).val ≠ 0 then 1 else 0, .bool⟩) ∧
      exec (.retag t rd rs1 9) s = .next (put ⟨(th.g rs1).val &&& 0xFFFFFFFF, .seq⟩)) ∧
    ((th.g rs1).tag = .int → fmtValid (th.g rs1).val = true →
      exec (.fmtchk t rd rs1) s = .next (put ⟨(th.g rs1).val, .fmt⟩)) ∧
    ((th.g rs1).tag = .int → fmtValid (th.g rs1).val = false →
      exec (.fmtchk t rd rs1) s = .next (trapped t 4 (0x10000 + 0x1000 + 0xD00 + 2) 0 false s1))

/-- R32 for the scalar instructions: POISON in, POISON out, with value 0. -/
def Obligations.PoisonPropagates : Prop :=
  ∀ (t : Tid) (rd rs1 rs2 rs3 : RIdx) (mode : RMode) (s s1 : State), Fetches t 4 false s s1 →
    let th := s1.th t
    let out : Host.Outcome State Fault Refusal := .next (done t 4 s1 (th.write rd ⟨0, .poison⟩))
    let tags (l : List Tag) (rs : List RIdx) : Prop := (∀ r ∈ rs, (th.g r).tag ∈ l) ∧ ∃ r ∈ rs, (th.g r).tag = .poison
    (tags [.int, .bool, .poison] [rs1, rs2] →
      ∀ i ∈ [Instr.add t rd rs1 rs2, .sub t rd rs1 rs2, .and t rd rs1 rs2, .or t rd rs1 rs2, .xor t rd rs1 rs2,
        .sll t rd rs1 rs2, .srl t rd rs1 rs2, .sra t rd rs1 rs2, .mul t rd rs1 rs2, .mulh t rd rs1 rs2, .mulhu t rd rs1 rs2,
        .min t rd rs1 rs2, .max t rd rs1 rs2, .minu t rd rs1 rs2, .maxu t rd rs1 rs2, .cmpEq t rd rs1 rs2,
        .cmpNe t rd rs1 rs2, .cmpLt t rd rs1 rs2, .cmpLtu t rd rs1 rs2, .cmpGe t rd rs1 rs2, .cmpGeu t rd rs1 rs2],
        exec i s = out) ∧
    (tags [.int, .bool, .poison] [rs1] →
      (∀ i ∈ [Instr.clz t rd rs1, .ctz t rd rs1, .popc t rd rs1, .i2f t rd rs1 mode, .u2f t rd rs1 mode, .s2f t rd rs1 mode],
        exec i s = out) ∧
      ∀ (imm : BitVec 15) (k : CmpKind) (c : BitVec 12) (n : BitVec 6),
        ∀ i ∈ [Instr.addi t rd rs1 (.short imm), .andi t rd rs1 (.short imm), .ori t rd rs1 (.short imm),
          .xori t rd rs1 (.short imm), .slli t rd rs1 n false, .srli t rd rs1 n false, .srai t rd rs1 n false,
          .cmpi t rd rs1 k (.short c)], exec i s = out) ∧
    (tags [.flt, .poison] [rs1, rs2] →
      ∀ i ∈ [Instr.fadd t rd rs1 rs2 mode, .fsub t rd rs1 rs2 mode, .fmul t rd rs1 rs2 mode, .fdiv t rd rs1 rs2 mode,
        .fmin t rd rs1 rs2, .fmax t rd rs1 rs2, .cmpFeq t rd rs1 rs2, .cmpFlt t rd rs1 rs2, .cmpFle t rd rs1 rs2,
        .cmpFun t rd rs1 rs2], exec i s = out) ∧
    (tags [.flt, .poison] [rs1] →
      ∀ i ∈ [Instr.fsqrt t rd rs1 mode, .fabs t rd rs1, .fneg t rd rs1, .f2i t rd rs1 mode, .f2u t rd rs1 mode,
        .f2s t rd rs1 mode], exec i s = out) ∧
    (tags [.flt, .poison] [rs1, rs2, rs3] →
      ∀ i ∈ [Instr.fmadd t rd rs1 rs2 rs3 mode, .fmsub t rd rs1 rs2 rs3 mode, .fnmadd t rd rs1 rs2 rs3 mode,
        .fnmsub t rd rs1 rs2 rs3 mode], exec i s = out) ∧
    (tags [.seq, .poison] [rs1, rs2] → exec (.cmpSlt t rd rs1 rs2) s = out) ∧
    ((∀ r ∈ [rs1, rs2], (th.g r).tag ∈ [Tag.nil, .int, .flt, .bool, .handle, .fmt, .seq, .poison]) →
      (th.g rs3).tag ∈ [Tag.int, .bool, .poison] → (∃ r ∈ [rs1, rs2, rs3], (th.g r).tag = .poison) →
      exec (.sel t rd rs1 rs2 rs3) s = out)

/-- R30, R31 and R36 for the two-source integer and FP64 instructions: the detail names slot, tag and class, and the lowest slot
wins. -/
def Obligations.TagMismatchNamesOperand : Prop :=
  ∀ (t : Tid) (rd rs1 rs2 : RIdx) (mode : RMode) (s s1 : State), Fetches t 4 false s s1 →
    let th := s1.th t
    let traps (slot cls : Nat) (g : Tag) : Host.Outcome State Fault Refusal :=
      .next (trapped t 4 (slot * 2 ^ 16 + g.code * 2 ^ 12 + cls * 2 ^ 8) 0 false s1)
    let ints : List Instr := [.and t rd rs1 rs2, .or t rd rs1 rs2, .xor t rd rs1 rs2, .sll t rd rs1 rs2, .srl t rd rs1 rs2,
      .sra t rd rs1 rs2, .mul t rd rs1 rs2, .mulh t rd rs1 rs2, .mulhu t rd rs1 rs2, .div t rd rs1 rs2, .divu t rd rs1 rs2,
      .rem t rd rs1 rs2, .remu t rd rs1 rs2, .min t rd rs1 rs2, .max t rd rs1 rs2, .minu t rd rs1 rs2, .maxu t rd rs1 rs2,
      .cmpEq t rd rs1 rs2, .cmpNe t rd rs1 rs2, .cmpLt t rd rs1 rs2, .cmpLtu t rd rs1 rs2, .cmpGe t rd rs1 rs2,
      .cmpGeu t rd rs1 rs2]
    let flts : List Instr := [.fadd t rd rs1 rs2 mode, .fsub t rd rs1 rs2 mode, .fmul t rd rs1 rs2 mode, .fdiv t rd rs1 rs2 mode,
      .fmin t rd rs1 rs2, .fmax t rd rs1 rs2, .cmpFeq t rd rs1 rs2, .cmpFlt t rd rs1 rs2, .cmpFle t rd rs1 rs2,
      .cmpFun t rd rs1 rs2]
    ((th.g rs1).tag ∉ [Tag.int, .bool, .poison] → ∀ i ∈ ints, exec i s = traps 1 1 (th.g rs1).tag) ∧
    ((th.g rs1).tag ∈ [Tag.int, .bool, .poison] → (th.g rs2).tag ∉ [Tag.int, .bool, .poison] →
      ∀ i ∈ ints, exec i s = traps 2 1 (th.g rs2).tag) ∧
    ((th.g rs1).tag ∉ [Tag.flt, .poison] → ∀ i ∈ flts, exec i s = traps 1 2 (th.g rs1).tag) ∧
    ((th.g rs1).tag ∈ [Tag.flt, .poison] → (th.g rs2).tag ∉ [Tag.flt, .poison] →
      ∀ i ∈ flts, exec i s = traps 2 2 (th.g rs2).tag)

/-- R45 to R47 for the loads: the value that the bytes read give; R299 for what a miss does to the stride detectors (how a detector
predicts is the model's, log entry 180). -/
def Obligations.LoadResults : Prop :=
  ∀ (t : Tid) (rd : RIdx) (cs : PIdx) (m : MForm) (s s1 s2 : State),
    Fetches t (lenOf m.isExt) m.isExt s s1 → AddrOk (s1.th t) cs m →
    let th := s1.th t
    let c := (th.cap cs).toCap
    let put (f : Thread → Thread) : Host.Outcome State Fault Refusal := .next (done t (lenOf m.isExt) s2 (f (begun t s1 |>.th t)))
    let val (bs : List PByte) (r : Reg) : Thread → Thread := fun h => h.write rd (if bs.any (fun b => b.2) then ⟨0, .poison⟩ else r)
    (∀ bs : List PByte, Allowed th c 0x0001 (mAddr th cs m 1 0) 1 1 →
      demandBytes t c (mAddr th cs m 1 0) 1 (begun t s1) = .ok bs s2 →
      exec (.ldB t rd cs m) s = put (val bs ⟨(BitVec.ofNat 8 (bytesVal bs)).signExtend 64, .int⟩) ∧
      exec (.ldBu t rd cs m) s = put (val bs ⟨BitVec.ofNat 64 (bytesVal bs), .int⟩)) ∧
    (∀ bs : List PByte, Allowed th c 0x0001 (mAddr th cs m 2 0) 2 2 →
      demandBytes t c (mAddr th cs m 2 0) 2 (begun t s1) = .ok bs s2 →
      exec (.ldH t rd cs m) s = put (val bs ⟨(BitVec.ofNat 16 (bytesVal bs)).signExtend 64, .int⟩) ∧
      exec (.ldHu t rd cs m) s = put (val bs ⟨BitVec.ofNat 64 (bytesVal bs), .int⟩)) ∧
    (∀ bs : List PByte, Allowed th c 0x0001 (mAddr th cs m 4 0) 4 4 →
      demandBytes t c (mAddr th cs m 4 0) 4 (begun t s1) = .ok bs s2 →
      exec (.ldW t rd cs m) s = put (val bs ⟨(BitVec.ofNat 32 (bytesVal bs)).signExtend 64, .int⟩) ∧
      exec (.ldWu t rd cs m) s = put (val bs ⟨BitVec.ofNat 64 (bytesVal bs), .int⟩)) ∧
    (∀ bs : List PByte, Allowed th c 0x0001 (mAddr th cs m 8 0) 8 8 →
      demandBytes t c (mAddr th cs m 8 0) 8 (begun t s1) = .ok bs s2 →
      exec (.ldD t rd cs m) s = put (val bs ⟨BitVec.ofNat 64 (bytesVal bs), .int⟩) ∧
      exec (.ldF t rd cs m) s = put (val bs ⟨BitVec.ofNat 64 (bytesVal bs), .flt⟩)) ∧
    (∀ bs : List PByte, rd.val % 2 = 0 → Allowed th c 0x0001 (mAddr th cs m 16 0) 16 16 →
      demandBytes t c (mAddr th cs m 16 0) 16 (begun t s1) = .ok bs s2 →
      let half (k : Nat) : Reg := let h := slice bs (8 * k) 8
        if h.any (fun b => b.2) then ⟨0, .poison⟩ else ⟨BitVec.ofNat 64 (bytesVal h), .int⟩
      exec (.svLd t rd cs m) s = put (fun h => h.writePair rd ⟨half 0, half 1⟩)) ∧
    (∀ (a b : Word) (pa pb tag : Bool), rd.val % 2 = 0 → Allowed th c 0x0001 (mAddr th cs m 16 0) 16 16 →
      demandGranule t c (mAddr th cs m 16 0) (begun t s1) = .ok (a, pa, b, pb, tag) s2 →
      let word (v : Word) (p : Bool) : Reg := if p then ⟨0, .poison⟩ else ⟨v, .int⟩
      exec (.ldc t rd cs m) s = put (fun h => h.writePair rd
        (if pa = false ∧ pb = false ∧ tag = true ∧ c.has 0x0008 = true ∧ canonicalCap a b = true then (capOfWords a b).toPair
         else ⟨word a pa, word b pb⟩))) ∧
    (∀ (a n : Nat) (bs : List PByte) (w u : State), demandBytes t c a n w = .ok bs u →
      ∃ v, loadBytes t c.space a n w = .ok bs v ∧ (u = v ∨ u = prefetchAfter v t (v.th t).ep c a)) ∧
    (∀ (ep : Option Nat) (va : Nat) (w : State) (rest : List Detector),
      let n := c.space.val
      let ds := Tab.getD w.detectors t.val []
      let seen (d : Detector) (l : List Detector) : State := { w with detectors := Tab.put w.detectors t.val (d :: l) }
      ((∀ d ∈ ds, d.predicts n va = false) → prefetchAfter w t ep c va = seen ⟨n, va, 0, 1, 0⟩ (ds.take 7)) ∧
      (∀ (st : Int) (last ahead : Nat), st ≠ 0 → st % 32 = 0 → st.natAbs ≤ 65536 → (va : Int) = last + st →
        (ds = ⟨n, last, 0, 1, 0⟩ :: rest → (∀ d ∈ rest, d.predicts n va = false) →
          prefetchAfter w t ep c va = seen ⟨n, va, st, 2, 0⟩ rest) ∧
        (ds = ⟨n, last, st, 2, 0⟩ :: rest → prefetchDepth w (windowAt w n va) = 0 →
          prefetchAfter w t ep c va = seen ⟨n, va, st, 3, 0⟩ rest)))

/-- R45 to R47 for the stores. What is stored is given byte by byte; where it goes is the address of the operands. -/
def Obligations.StoreResults : Prop :=
  ∀ (t : Tid) (rs : RIdx) (cs : PIdx) (m : MForm) (s s1 s2 : State),
    Fetches t (lenOf m.isExt) m.isExt s s1 → AddrOk (s1.th t) cs m →
    let th := s1.th t
    let c := (th.cap cs).toCap
    let out : Host.Outcome State Fault Refusal := .next (done t (lenOf m.isExt) s2 (begun t s1 |>.th t))
    let low (n : Nat) (r : Reg) : List PByte :=
      (List.range n).map (fun i => (r.val.toNat / 256 ^ i % 256, decide (r.tag = .poison)))
    let word (r : Reg) : Prop := r.tag ∈ [Tag.int, .flt, .bool, .seq, .poison]
    let p := th.pair rs
    let pb := low 8 p.a ++ low 8 p.b
    (word (th.g rs) →
      (Allowed th c 0x0002 (mAddr th cs m 1 0) 1 1 → Stores t c.space (mAddr th cs m 1 0) (low 1 (th.g rs)) false (begun t s1) s2 →
        exec (.stB t rs cs m) s = out) ∧
      (Allowed th c 0x0002 (mAddr th cs m 2 0) 2 2 → Stores t c.space (mAddr th cs m 2 0) (low 2 (th.g rs)) false (begun t s1) s2 →
        exec (.stH t rs cs m) s = out) ∧
      (Allowed th c 0x0002 (mAddr th cs m 4 0) 4 4 → Stores t c.space (mAddr th cs m 4 0) (low 4 (th.g rs)) false (begun t s1) s2 →
        exec (.stW t rs cs m) s = out) ∧
      (Allowed th c 0x0002 (mAddr th cs m 8 0) 8 8 → Stores t c.space (mAddr th cs m 8 0) (low 8 (th.g rs)) false (begun t s1) s2 →
        exec (.stD t rs cs m) s = out)) ∧
    (rs.val % 2 = 0 → p.isCap = true → capRefused th.level.val th.tenancy.val p.toCap = none →
      Allowed th c 0x0012 (mAddr th cs m 16 0) 16 16 → Stores t c.space (mAddr th cs m 16 0) pb true (begun t s1) s2 →
      exec (.stc t rs cs m) s = out) ∧
    (rs.val % 2 = 0 → word p.a → word p.b → Allowed th c 0x0002 (mAddr th cs m 16 0) 16 16 →
      Stores t c.space (mAddr th cs m 16 0) pb false (begun t s1) s2 → exec (.stc t rs cs m) s = out) ∧
    (rs.val % 2 = 0 → p.a.tag ∈ [Tag.int, .flt, .poison] → p.b.tag ∈ [Tag.int, .flt, .poison] →
      Allowed th c 0x0002 (mAddr th cs m 16 0) 16 16 →
      Stores t c.space (mAddr th cs m 16 0) pb false (begun t s1) s2 → exec (.svSt t rs cs m) s = out)

/-- R54: the data stack. -/
def Obligations.DataStackResults : Prop :=
  ∀ (t : Tid) (r : RIdx) (s s1 s2 : State), Fetches t 4 false s s1 → StackOk (s1.th t) →
    let th := s1.th t
    let c := (th.cap 15).toCap
    let top : Word := (th.g 29).val
    let at_ (off : Int) : Nat := ((c.base + top.toNat + off : Int) % 2 ^ 64).toNat
    let put (f : Thread → Thread) : Host.Outcome State Fault Refusal := .next (done t 4 s2 (f (begun t s1 |>.th t)))
    let low (x : Reg) : List PByte := (List.range 8).map (fun i => (x.val.toNat / 256 ^ i % 256, decide (x.tag = .poison)))
    let p := th.pair r
    ((th.g r).tag ∈ [Tag.int, .flt, .bool, .seq, .poison] → Allowed th c 0x0002 (at_ (-8)) 8 8 →
      Stores t c.space (at_ (-8)) (low (th.g r)) false (begun t s1) s2 →
      exec (.push t r) s = put (fun h => h.write 29 ⟨top - 8, .int⟩)) ∧
    (∀ bs : List PByte, Allowed th c 0x0001 (at_ 0) 8 8 → demandBytes t c (at_ 0) 8 (begun t s1) = .ok bs s2 →
      exec (.pop t r) s = put (fun h =>
        (h.write r (if bs.any (fun b => b.2) then ⟨0, .poison⟩ else ⟨BitVec.ofNat 64 (bytesVal bs), .int⟩)).write 29
          ⟨top + 8, .int⟩)) ∧
    (r.val % 2 = 0 → p.isCap = true → capRefused th.level.val th.tenancy.val p.toCap = none →
      Allowed th c 0x0012 (at_ (-16)) 16 16 → Stores t c.space (at_ (-16)) (low p.a ++ low p.b) true (begun t s1) s2 →
      exec (.pushc t r) s = put (fun h => h.write 29 ⟨top - 16, .int⟩)) ∧
    (r.val % 2 = 0 → p.a.tag ∈ [Tag.int, .flt, .bool, .seq, .poison] → p.b.tag ∈ [Tag.int, .flt, .bool, .seq, .poison] →
      Allowed th c 0x0002 (at_ (-16)) 16 16 → Stores t c.space (at_ (-16)) (low p.a ++ low p.b) false (begun t s1) s2 →
      exec (.pushc t r) s = put (fun h => h.write 29 ⟨top - 16, .int⟩)) ∧
    (∀ (a b : Word) (pa pb tag : Bool), r.val % 2 = 0 → Allowed th c 0x0001 (at_ 0) 16 16 →
      demandGranule t c (at_ 0) (begun t s1) = .ok (a, pa, b, pb, tag) s2 →
      let word (v : Word) (q : Bool) : Reg := if q then ⟨0, .poison⟩ else ⟨v, .int⟩
      exec (.stackPopc t r) s = put (fun h => (h.writePair r
        (if pa = false ∧ pb = false ∧ tag = true ∧ c.has 0x0008 = true ∧ canonicalCap a b = true then (capOfWords a b).toPair
         else ⟨word a pa, word b pb⟩)).write 29 ⟨top + 16, .int⟩))

/-- R48 and R297: the old word in rd, the new word at the slice (in the epoch's overlay for a speculative thread). -/
def Obligations.AtomicResults : Prop :=
  ∀ (t : Tid) (rd : RIdx) (cs : PIdx) (a : AForm) (pa : Nat) (s s1 s2 : State),
    Fetches t (lenOf a.isExt) a.isExt s s1 → AddrOkA (s1.th t) cs a →
    let th := s1.th t
    let c := (th.cap cs).toCap
    let va := aAddr th cs a 0
    let r := th.g (match a with | .short _ rs => rs | .ext _ => rd)
    r.tag = .int → Allowed th c 0x0003 va 8 8 → xlate t c.space va .amo (begun t s1) = .ok pa s2 →
    quotaWait t [(va, 8, pa)] s2 = .ok () s2 →
    let ln := pa / 128
    let ac := windowAt s2 c.space.val va
    let s3 := sliceRead (l1Flush s2 t.core ln) ln (runSectors (pa % 128) 8) ac
    let v := viewFull s3 th.ep ln
    let old : Word := BitVec.ofNat 64 (v.data / 256 ^ (pa % 128))
    let put (w : Word) : State := match th.ep with
      | some e => overlayWrite s3 e ln (255 * 2 ^ (pa % 128)) (w.toNat * 256 ^ (pa % 128)) 0 0 ac
      | none => sliceWrite s3 ln (255 * 2 ^ (pa % 128)) (w.toNat * 256 ^ (pa % 128)) 0 0 ac
    let fin (q : State) (x : Reg) : Host.Outcome State Fault Refusal :=
      .next (done t (lenOf a.isExt) q ((begun t s1 |>.th t).write rd x))
    (v.poison.testBit (pa % 128 / 8) = false →
      exec (.amoadd t rd cs a) s = fin (put (old + r.val)) ⟨old, .int⟩ ∧
      exec (.amoand t rd cs a) s = fin (put (old &&& r.val)) ⟨old, .int⟩ ∧
      exec (.amoor t rd cs a) s = fin (put (old ||| r.val)) ⟨old, .int⟩ ∧
      exec (.amoxor t rd cs a) s = fin (put (old ^^^ r.val)) ⟨old, .int⟩ ∧
      exec (.amoswap t rd cs a) s = fin (put r.val) ⟨old, .int⟩ ∧
      exec (.amomin t rd cs a) s = fin (put (if old.toInt ≤ r.val.toInt then old else r.val)) ⟨old, .int⟩ ∧
      exec (.amomax t rd cs a) s = fin (put (if r.val.toInt ≤ old.toInt then old else r.val)) ⟨old, .int⟩ ∧
      ((th.g rd).tag = .int →
        exec (.amocas t rd cs a) s = fin (if old = (th.g rd).val then put r.val else s3) ⟨old, .int⟩)) ∧
    (v.poison.testBit (pa % 128 / 8) = true →
      (∀ i ∈ [Instr.amoadd t rd cs a, .amoand t rd cs a, .amoor t rd cs a, .amoxor t rd cs a, .amoswap t rd cs a,
        .amomin t rd cs a, .amomax t rd cs a], exec i s = fin s3 ⟨0, .poison⟩) ∧
      ((th.g rd).tag = .int → exec (.amocas t rd cs a) s = fin s3 ⟨0, .poison⟩))

/-- R49: one comparison. -/
def Obligations.ScanResults : Prop :=
  ∀ (t : Tid) (rd : RIdx) (cs : PIdx) (a : AForm) (bs : List PByte) (s s1 s2 : State),
    Fetches t (lenOf a.isExt) a.isExt s s1 → AddrOkA (s1.th t) cs a →
    let th := s1.th t
    let c := (th.cap cs).toCap
    let va := aAddr th cs a 0
    let r := th.g (match a with | .short _ rs => rs | .ext _ => rd)
    r.tag ∈ [Tag.int, .bool, .poison] →
    let fin (p : Prop) [Decidable p] : Host.Outcome State Fault Refusal :=
      .next (done t (lenOf a.isExt) s2 ((begun t s1 |>.th t).write rd
        (if r.tag = .poison ∨ ∃ b ∈ bs, b.2 = true then ⟨0, .poison⟩ else ⟨if p then 0 else 1, .int⟩)))
    (Allowed th c 0x0001 va 8 8 → loadBytes t c.space va 8 (begun t s1) = .ok bs s2 →
      exec (.scanEqD t rd cs a) s = fin (bytesVal bs = r.val.toNat) ∧
      exec (.scanNeD t rd cs a) s = fin (bytesVal bs ≠ r.val.toNat)) ∧
    (Allowed th c 0x0001 va 4 4 → loadBytes t c.space va 4 (begun t s1) = .ok bs s2 →
      exec (.scanEqW t rd cs a) s = fin (bytesVal bs = r.val.toNat % 2 ^ 32) ∧
      exec (.scanNeW t rd cs a) s = fin (bytesVal bs ≠ r.val.toNat % 2 ^ 32))

/-- R42 and R43: branches and jumps. -/
def Obligations.BranchResults : Prop :=
  ∀ (t : Tid) (r : RIdx) (s s1 : State),
    let th := s1.th t
    (∀ (off : BForm) (v : Word), Fetches t (lenOf off.isExt) off.isExt s s1 → IsInt th r v →
      let d : Int := match off with | .short o => o.toInt | .ext o => o.toInt
      let target : Word := th.pc + 4 * BitVec.ofInt 64 d
      let past := done t (lenOf off.isExt) s1 th
      exec (.bz t r off) s = .next (if v = 0 then jumped t target s1 th else past) ∧
      exec (.bnz t r off) s = .next (if v = 0 then past else jumped t target s1 th)) ∧
    (∀ off : JForm, Fetches t (lenOf off.isExt) off.isExt s s1 →
      let d : Int := match off with | .short o => o.toInt | .ext o => o.toInt
      exec (.j t off) s = .next (jumped t (th.pc + 4 * BitVec.ofInt 64 d) s1 th)) ∧
    (∀ v : Word, Fetches t 4 false s s1 → Holds th r v .int →
      (v.toNat % 4 = 0 → exec (.jr t r) s = .next (jumped t v s1 th)) ∧
      (v.toNat % 4 ≠ 0 → exec (.jr t r) s = .next (trapped t 13 0 v.toNat false s1)))

/-- R51 to R53, R79: calls and the return. -/
def Obligations.CallReturnResults : Prop :=
  ∀ (t : Tid) (s s1 s2 : State),
    let th := s1.th t
    let h0 := (begun t s1).th t
    let rc := th.rscap.toCap
    let n := rc.space
    let good : Prop := th.rscap.isUnsealed = true ∧ rc.has 0x0080 = true ∧ capRefused th.level.val th.tenancy.val rc = none
    let pushes (kind : Nat) (ret : Word) (from_ to_ : State) : Prop := 32 ≤ th.rsp.toNat ∧
      let a := rc.base + (th.rsp.toNat - 32)
      let low (k : Nat) (w : Nat) : List PByte := (List.range k).map (fun i => (w / 256 ^ i % 256, false))
      ∃ p1 p2 q1 q2, xlateAll t n .write (pieces 8 a 16) from_ = .ok p1 q1 ∧
        xlateAll t n .write (pieces 8 (a + 16) 16) q1 = .ok p2 q2 ∧ quotaWait t (p1 ++ p2) q2 = .ok () q2 ∧
        to_ = writePieces t n false p2 (low 8 ret.toNat ++ low 8 (kind * 2 ^ 56))
          (writePieces t n (a % 16 == 0 && th.pcc.isUnsealed) p1 (pairBytes th.pcc) q2)
    good →
    (∀ off : JForm, Fetches t (lenOf off.isExt) off.isExt s s1 →
      pushes 1 (th.pc + BitVec.ofNat 64 (lenOf off.isExt)) (begun t s1) s2 →
      let d : Int := match off with | .short o => o.toInt | .ext o => o.toInt
      exec (.call t off) s = .next (jumped t (th.pc + 4 * BitVec.ofInt 64 d) s2 { h0 with rsp := th.rsp - 32 })) ∧
    (∀ (r : RIdx) (v : Word), Fetches t 4 false s s1 → Holds th r v .int → v.toNat % 4 = 0 →
      pushes 1 (th.pc + 4) (begun t s1) s2 →
      exec (.callr t r) s = .next (jumped t v s2 { h0 with rsp := th.rsp - 32 })) ∧
    (∀ (cs : PIdx) (m : CallForm), Fetches t (lenOf m.isExt) m.isExt s s1 → (th.cap cs).isUnsealed = true →
      let c := (th.cap cs).toCap
      let off : Int := match m with | .short i => 4 * i.toInt | .ext i => i.toInt
      let target : Nat := ((c.base + off) % 2 ^ 64).toNat
      capRefused th.level.val th.tenancy.val c = none → c.has 0x0004 = true → target % 4 = 0 →
      pushes 2 (th.pc + BitVec.ofNat 64 (lenOf m.isExt)) (begun t s1) s2 →
      exec (.callc t cs m) s = .next (jumped t (BitVec.ofNat 64 target) s2 { h0 with rsp := th.rsp - 32, pcc := th.cap cs })) ∧
    (∀ (cs : PIdx) (m : CallForm) (q0 q1 q2 q3 : State) (ps : List (Nat × Nat × Nat)) (code data : Pair) (off : Word)
        (g0 g1 : Word × Bool × Word × Bool × Bool) (tag : Bool),
      Fetches t (lenOf m.isExt) m.isExt s s1 → (m = .short 0 ∨ m = .ext 0) →
      (th.cap cs).a.tag = .sealed → (th.cap cs).b.tag = .capB →
      let c := (th.cap cs).toCap
      c.otype = 0xF01 → capRefused th.level.val th.tenancy.val c = none →
      xlateAll t c.space .read (pieces 8 c.base 48) (begun t s1) = .ok ps q0 →
      loadGranule t c.space c.base q0 = .ok g0 q1 → loadGranule t c.space (c.base + 16) q1 = .ok g1 q2 →
      loadGranule t c.space (c.base + 32) q2 = .ok (off, false, 0, false, tag) q3 →
      g0.2.1 = false → g0.2.2.2.1 = false → g1.2.1 = false → g1.2.2.2.1 = false →
      code = granulePair true g0 → data = granulePair true g1 → code.isUnsealed = true → code.toCap.has 0x0004 = true →
      capRefused th.level.val th.tenancy.val code.toCap = none →
      (data.isCap = true → capRefused th.level.val th.tenancy.val data.toCap = none) → off.toNat % 4 = 0 →
      off.toNat < code.toCap.length → pushes 3 (th.pc + BitVec.ofNat 64 (lenOf m.isExt)) q3 s2 →
      exec (.callc t cs m) s = .next (jumped t (BitVec.ofNat 64 (code.toCap.base + off.toNat)) s2
        ({ h0 with rsp := th.rsp - 32, pcc := code }.writePair 26 (if data.isCap then data else ⟨⟨0, .nil⟩, ⟨0, .nil⟩⟩)))) ∧
    (∀ (q0 : State) (ps : List (Nat × Nat × Nat)) (w0 w1 pc w3 : Word),
      Fetches t 4 false s s1 → th.rsp.toNat + 32 ≤ rc.length →
      xlateAll t n .read (pieces 8 (rc.base + th.rsp.toNat) 32) (begun t s1) = .ok ps q0 →
      readRecord t n (rc.base + th.rsp.toNat) q0 = .ok ([(w0, false), (w1, false), (pc, false), (w3, false)], true) s2 →
      let kind := w3.toNat / 2 ^ 56
      1 ≤ kind → kind ≤ 3 →
      let pcc : Pair := if canonicalCap w0 w1 then (capOfWords w0 w1).toPair else ⟨⟨w0, .int⟩, ⟨w1, .int⟩⟩
      let h := { h0 with rsp := th.rsp + 32, pcc := pcc }
      exec (.ret t) s = .next (jumped t pc s2 (if kind = 3 then h.writePair 26 ⟨⟨0, .nil⟩, ⟨0, .nil⟩⟩ else h)))

/-- R50 and R294: what a fence leaves in the caches of its core. -/
def Obligations.FenceResults : Prop :=
  ∀ (t : Tid) (s s1 : State), Fetches t 4 false s s1 → Tab.wf (s1.core t.core).l1 = true →
    let h0 := (begun t s1).th t
    let ran (i : Instr) (p : Core → Prop) : Prop :=
      ∃ s2, exec i s = .next (done t 4 s2 h0) ∧ s2.threads = (begun t s1).threads ∧ p (s2.core t.core)
    let on : Prop := l1Off s1 t.core = false
    ran (.fenceRel t) (fun k => on → ∀ e ∈ k.l1, e.2.dirty = 0) ∧
    ran (.fenceAcq t) (fun k => on → ∀ e ∈ k.l1, e.2.dirty ≠ 0 ∧ e.2.valid = dirtySectors e.2.dirty) ∧
    ran (.fenceAr t) (fun k => on → k.l1 = []) ∧
    ran (.fenceI t) (fun k => k.icache = [] ∧ k.l1 = (s1.core t.core).l1)

/-- R55 to R57: the lanes of the result, one by one. -/
def Obligations.ShortVectorResults : Prop :=
  ∀ (t : Tid) (rd rs1 rs2 rs3 : RIdx) (s s1 : State), Fetches t 4 false s s1 →
    let th := s1.th t
    let words (r : RIdx) : Prop := r.val % 2 = 0 ∧ (th.pair r).a.tag ∈ [Tag.int, .flt] ∧ (th.pair r).b.tag ∈ [Tag.int, .flt]
    words rs1 → words rs2 → rd.val % 2 = 0 →
    let lane (w : Nat) (x : Word) (k : Nat) : BitVec w := BitVec.ofNat w (x.toNat / 2 ^ (w * k))
    let res (i : Instr) (w : Nat) (g : Tag) (f : BitVec w → BitVec w → BitVec w → BitVec w) : Prop :=
      ∃ lo hi : Word, exec i s = .next (done t 4 s1 (th.writePair rd ⟨⟨lo, g⟩, ⟨hi, g⟩⟩)) ∧
        ∀ k, w * k < 64 →
          lane w lo k = f (lane w (th.pair rs1).a.val k) (lane w (th.pair rs2).a.val k) (lane w (th.pair rs3).a.val k) ∧
          lane w hi k = f (lane w (th.pair rs1).b.val k) (lane w (th.pair rs2).b.val k) (lane w (th.pair rs3).b.val k)
    let ones (w : Nat) (p : Bool) : BitVec w := if p then BitVec.allOnes w else 0
    let sat (w : Nat) (x : Int) : BitVec w := BitVec.ofInt w (max (-2 ^ (w - 1)) (min x (2 ^ (w - 1) - 1)))
    (∀ lanes : Fin 4, let w := 8 * 2 ^ lanes.val
      res (.svVadd t rd rs1 rs2 lanes) w .int (fun a b _ => a + b) ∧
      res (.svVsub t rd rs1 rs2 lanes) w .int (fun a b _ => a - b) ∧
      res (.svVmul t rd rs1 rs2 lanes) w .int (fun a b _ => a * b) ∧
      res (.svVmin t rd rs1 rs2 lanes) w .int (fun a b _ => if a.toInt ≤ b.toInt then a else b) ∧
      res (.svVmax t rd rs1 rs2 lanes) w .int (fun a b _ => if a.toInt ≤ b.toInt then b else a) ∧
      res (.svVminu t rd rs1 rs2 lanes) w .int (fun a b _ => if a.toNat ≤ b.toNat then a else b) ∧
      res (.svVmaxu t rd rs1 rs2 lanes) w .int (fun a b _ => if a.toNat ≤ b.toNat then b else a) ∧
      res (.svVand t rd rs1 rs2 lanes) w .int (fun a b _ => a &&& b) ∧
      res (.svVor t rd rs1 rs2 lanes) w .int (fun a b _ => a ||| b) ∧
      res (.svVxor t rd rs1 rs2 lanes) w .int (fun a b _ => a ^^^ b) ∧
      res (.svVsll t rd rs1 rs2 lanes) w .int (fun a b _ => a <<< (b.toNat % w)) ∧
      res (.svVsrl t rd rs1 rs2 lanes) w .int (fun a b _ => a >>> (b.toNat % w)) ∧
      res (.svVsra t rd rs1 rs2 lanes) w .int (fun a b _ => a.sshiftRight (b.toNat % w)) ∧
      res (.svVcmpeq t rd rs1 rs2 lanes) w .int (fun a b _ => ones w (a == b)) ∧
      res (.svVcmplt t rd rs1 rs2 lanes) w .int (fun a b _ => ones w (decide (a.toInt < b.toInt))) ∧
      res (.svVsadd t rd rs1 rs2 lanes) w .int (fun a b _ => sat w (a.toInt + b.toInt))) ∧
    (rs3 = rd → words rd → res (.svVdot4 t rd rs1 rs2) 32 .int (fun a b c =>
      let x (v : BitVec 32) (j : Nat) : BitVec 32 := (BitVec.ofNat 8 (v.toNat / 2 ^ (8 * j))).signExtend 32
      c + x a 0 * x b 0 + x a 1 * x b 1 + x a 2 * x b 2 + x a 3 * x b 3)) ∧
    (∀ lanes : SvLanes, let f := svLane lanes
      let g : Tag := if lanes = .fp64 then .flt else .int
      let num (w x : Nat) : BitVec w := BitVec.ofNat w x
      res (.svVfadd t rd rs1 rs2 lanes) f.width g (fun a b _ => num _ (fAdd f .rne a.toNat b.toNat)) ∧
      res (.svVfsub t rd rs1 rs2 lanes) f.width g (fun a b _ => num _ (fSub f .rne a.toNat b.toNat)) ∧
      res (.svVfmul t rd rs1 rs2 lanes) f.width g (fun a b _ => num _ (fMul f .rne a.toNat b.toNat)) ∧
      res (.svVfmin t rd rs1 rs2 lanes) f.width g (fun a b _ => num _ (fMin f a.toNat b.toNat)) ∧
      res (.svVfmax t rd rs1 rs2 lanes) f.width g (fun a b _ => num _ (fMax f a.toNat b.toNat)) ∧
      (words rs3 →
        res (.svFma t rd rs1 rs2 rs3 0 lanes) f.width g (fun a b c => num _ (fFma f .rne false false a.toNat b.toNat c.toNat)) ∧
        res (.svFma t rd rs1 rs2 rs3 1 lanes) f.width g (fun a b c => num _ (fFma f .rne false true a.toNat b.toNat c.toNat)) ∧
        res (.svFma t rd rs1 rs2 rs3 2 lanes) f.width g (fun a b c => num _ (fFma f .rne true true a.toNat b.toNat c.toNat)) ∧
        res (.svFma t rd rs1 rs2 rs3 3 lanes) f.width g (fun a b c => num _ (fFma f .rne true false a.toNat b.toNat c.toNat))))

/-- R55 to R57: the permutes of major 0x43. -/
def Obligations.ShortVectorPermutes : Prop :=
  ∀ (t : Tid) (rd rs1 rs2 : RIdx) (s s1 : State), Fetches t 4 false s s1 →
    let th := s1.th t
    let words (r : RIdx) : Prop := r.val % 2 = 0 ∧ (th.pair r).a.tag ∈ [Tag.int, .flt] ∧ (th.pair r).b.tag ∈ [Tag.int, .flt]
    let scalar (r : RIdx) : Prop := (th.g r).tag ∈ [Tag.int, .flt, .bool, .handle, .fmt, .seq]
    let put (lo hi : Word) : State := done t 4 s1 (th.writePair rd ⟨⟨lo, .int⟩, ⟨hi, .int⟩⟩)
    (rd.val % 2 = 0 → scalar rs1 → exec (.svVbcast t rd rs1) s = .next (put (th.g rs1).val (th.g rs1).val)) ∧
    (rd.val % 2 = 0 → words rs1 → words rs2 →
      let byte (p : Pair) (k : Nat) : Nat := (p.a.val.toNat + 2 ^ 64 * p.b.val.toNat) / 256 ^ k % 256
      (∀ k < 16, byte (th.pair rs2) k < 16) →
      ∃ lo hi : Word, exec (.svVshuf t rd rs1 rs2) s = .next (put lo hi) ∧
        ∀ k < 16, byte ⟨⟨lo, .int⟩, ⟨hi, .int⟩⟩ k = byte (th.pair rs1) (byte (th.pair rs2) k)) ∧
    (words rs1 → (th.g rs2).tag = .int →
      exec (.svVext t rd rs1 rs2) s = .next (done t 4 s1 (th.write rd
        ⟨if (th.g rs2).val.getLsbD 0 then (th.pair rs1).b.val else (th.pair rs1).a.val, .int⟩))) ∧
    (rd.val % 2 = 0 → scalar rs2 → (th.pair rd).b.tag ∈ [Tag.int, .flt] →
      exec (.svVins t rd rs2 0) s = .next (put (th.g rs2).val (th.pair rd).b.val)) ∧
    (rd.val % 2 = 0 → scalar rs2 → (th.pair rd).a.tag ∈ [Tag.int, .flt] →
      exec (.svVins t rd rs2 1) s = .next (put (th.pair rd).a.val (th.g rs2).val))

/-- R58 to R62: the repeats. The chain q names the state before each iteration. -/
def Obligations.RepeatResults : Prop :=
  ∀ (t : Tid) (rn : RIdx) (stride : BitVec 20) (body : RepBody) (n : Nat) (s s1 : State) (q : Nat → State),
    let len := 4 + lenOf (repExt body)
    let th := s1.th t
    let next (u : State) (i : Nat) : State := u.setTh t { u.th t with iter := BitVec.ofNat 32 i }
    let run (nmi : Bool) (lim : Option Nat) : Host.Outcome State Fault Refusal :=
      exec (if nmi then .repn t rn stride body lim else .rep t rn stride body lim) s
    Fetches t len (repExt body) s s1 → th.iter = 0 → th.g rn = ⟨BitVec.ofNat 64 n, .int⟩ → n < 2 ^ 64 →
    (∀ ext, body ≠ .bad ext) → (∀ rs cs m, body = .svSt rs cs m → rs.val % 2 = 0) →
    ∀ (nmi : Bool),
      (n ≤ (if nmi then 64 else 2 ^ 32 - 1) → q 0 = s1.setTh t { th with inRepn := nmi } →
        (∀ m ≤ n, (∀ i < m, ∃ u, repIter t i (i * stride.toInt) body (q i) = .ok false u ∧ q (i + 1) = next u (i + 1)) →
          (m = n → ∀ lim : Option Nat, (∀ l, lim = some l → n ≤ l) →
            run nmi lim = .next (done t len (q n) (match body with
              | .scan _ rd _ _ => ((q n).th t).write rd ⟨BitVec.ofNat 64 n, .int⟩
              | _ => (q n).th t))) ∧
          (m < n → run nmi (some m) = .next (markStop (q m) t true (repExt body))) ∧
          (∀ u, m < n → repIter t m (m * stride.toInt) body (q m) = .ok true u →
            run nmi none = .next (done t len u (u.th t))))) ∧
      ((if nmi then 64 else 2 ^ 32 - 1) < n →
        run nmi none = .next (takeTrap t ⟨12, 0x10, 0, true, repExt body, false, false⟩ s1)) ∧
      (∀ (rs : RIdx) (cs : PIdx) (m : MForm) (i : Nat) (u v : State), AddrOk (u.th t) cs m →
        let h := u.th t
        let c := (h.cap cs).toCap
        let a := mAddr h cs m 4 (i * stride.toInt)
        (h.g rs).tag ∈ [Tag.int, .flt, .bool, .seq] → Allowed h c 0x0002 a 4 4 →
        Stores t c.space a ((List.range 4).map (fun k => ((h.g rs).val.toNat / 256 ^ k % 256, false))) false u v →
        repIter t i (i * stride.toInt) (.stW rs cs m) u = .ok false v)

/-- R69 to R78: the capability instructions on capabilities that they accept. -/
def Obligations.CapabilityResults : Prop :=
  ∀ (t : Tid) (rd rs1 rs2 : RIdx) (s s1 : State), Fetches t 4 false s s1 →
    let th := s1.th t
    let p := th.pair rs1
    let q := th.pair rs2
    let c := p.toCap
    let k := q.toCap
    let ok (x : Pair) : Prop := capRefused th.level.val th.tenancy.val x.toCap = none
    let put (r : Reg) : Host.Outcome State Fault Refusal := .next (done t 4 s1 (th.write rd r))
    let putc (r : Pair) : Host.Outcome State Fault Refusal := .next (done t 4 s1 (th.writePair rd r))
    let num (n : Nat) : Reg := ⟨BitVec.ofNat 64 n, .int⟩
    let flag (x : Prop) [Decidable x] : Reg := ⟨if x then 1 else 0, .bool⟩
    let canon (e m : Nat) : Prop := m < 2 ^ 32 ∧ (e = 0 ∨ (e ≤ 21 ∧ 2 ^ 31 ≤ m))
    let even (r : RIdx) : Prop := r.val % 2 = 0
    (even rs1 → p.isCap = true → ok p →
      exec (.cgetBase t rd rs1) s = put (num (p.a.val.toNat % 2 ^ 52)) ∧
      exec (.cgetLen t rd rs1) s = put (num (p.b.val.toNat % 2 ^ 32 * 2 ^ (p.b.val.toNat / 2 ^ 32 % 64))) ∧
      exec (.cgetPerm t rd rs1) s = put (num (p.b.val.toNat / 2 ^ 48)) ∧
      exec (.cgetTen t rd rs1) s = put (num (p.b.val.toNat / 2 ^ 43 % 2 * 16 + p.b.val.toNat / 2 ^ 44 % 16)) ∧
      exec (.cgetType t rd rs1) s = put (num (p.a.val.toNat / 2 ^ 52)) ∧
      (even rd → exec (.cmove t rd rs1) s = putc p)) ∧
    (∀ n : Word, IsInt th rs1 n → exec (.cgetQuant t rd rs1) s = put (num
      (if n.toNat < 2 ^ 32 then 1 else if n.toNat ≤ 2 ^ 52 then 2 ^ (Nat.log2 n.toNat - 31) else 0))) ∧
    (∀ x : Word, even rd → even rs1 → p.isUnsealed = true → ok p → Holds th rs2 x .int →
      (∀ e m, canon e m → x.toNat ≤ c.length → c.length - x.toNat = m * 2 ^ e → c.base + x.toNat < 2 ^ 52 →
        exec (.csetOff t rd rs1 rs2) s = putc { c with base := c.base + x.toNat, lenE := e, lenM := m }.toPair) ∧
      (∀ e m, canon e m → x.toNat ≤ c.length → x.toNat = m * 2 ^ e →
        exec (.csetLen t rd rs1 rs2) s = putc { c with lenE := e, lenM := m }.toPair) ∧
      (c.length < x.toNat → exec (.csetOff t rd rs1 rs2) s = .next (trapped t 5 6 0 false s1) ∧
        exec (.csetLen t rd rs1 rs2) s = .next (trapped t 5 6 0 false s1)) ∧
      exec (.candPerm t rd rs1 rs2) s = putc { c with perms := c.perms &&& (x.toNat % 2 ^ 16) }.toPair ∧
      (th.level = 2 → c.dev = true →
        exec (.csetTen t rd rs1 rs2) s = putc { c with dev := false, tenancy := x.toNat % 16 }.toPair)) ∧
    (even rd → even rs1 → even rs2 → q.isUnsealed = true → ok p → ok q →
      (p.isUnsealed = true → k.has 0x0020 = true → 1 ≤ k.length → 1 ≤ k.base → k.base ≤ 0xEFF →
        exec (.cseal t rd rs1 rs2) s = putc { c with otype := k.base }.toPair) ∧
      (p.isCap = true → k.has 0x0040 = true → k.base ≤ c.otype → c.otype < k.base + k.length →
        exec (.cunseal t rd rs1 rs2) s = putc { c with otype := 0 }.toPair)) ∧
    (even rd → even rs1 → p.isUnsealed = true → ok p → c.has 0x0009 = true → c.base % 16 = 0 → 48 ≤ c.length →
      exec (.cgate t rd rs1) s = putc { c with lenE := 0, lenM := 48, otype := 0xF01 }.toPair) ∧
    (even rs1 → exec (.ctest t rd rs1) s = put (flag (p.isCap = true))) ∧
    (even rs1 → even rs2 → exec (.ctestSub t rd rs1 rs2) s = put (flag
      (p.isUnsealed = true ∧ q.isUnsealed = true ∧ c.base ≤ k.base ∧ k.base + k.length ≤ c.base + c.length ∧
        c.perms &&& k.perms = k.perms ∧
        ((c.dev = k.dev ∧ c.tenancy = k.tenancy) ∨ (c.dev = true ∧ k.dev = false)))))

/-- R85, R86, R92: the registers that SYSRD, SYSRDC, SYSWR and SYSWRC name. -/
def Obligations.SystemRegisterResults : Prop :=
  ∀ (t : Tid) (r : RIdx) (s s1 : State), Fetches t 4 false s s1 → (s1.th t).pcc.toCap.has 0x0400 = true →
    let th := s1.th t
    let lvl (n : Nat) : Prop := n ≤ th.level.val
    let rd (n : Nat) (v : Nat) : Prop := exec (.sysrd t r (BitVec.ofNat 12 n)) s =
      .next (done t 4 s1 (th.write r ⟨BitVec.ofNat 64 v, .int⟩))
    let rdc (n : Nat) (p : Pair) : Prop := exec (.sysrdc t r (BitVec.ofNat 12 n)) s =
      .next (done t 4 s1 (th.writePair r (if p.isCap then p else ⟨⟨0, .nil⟩, ⟨0, .nil⟩⟩)))
    let wr (n : Nat) (h : Thread) : Prop := exec (.syswr t r (BitVec.ofNat 12 n)) s = .next (done t 4 s1 h)
    let wrc (n : Nat) (h : Thread) : Prop := exec (.syswrc t r (BitVec.ofNat 12 n)) s = .next (done t 4 s1 h)
    rd 0x000 th.level.val ∧ rd 0x001 th.tenancy.val ∧
    (lvl 1 → rd 0x002 (if th.ie then 1 else 0) ∧ rd 0x004 (s1.core t.core).timerNow.toNat ∧ rd 0x005 th.timerCmp.toNat ∧
      rd 0x012 th.lrsp1.toNat ∧ rd 0x013 th.imask1.toNat ∧ rd 0x100 th.sv1.pc.toNat ∧ rd 0x103 th.sv1.rsp.toNat ∧
      rd 0x105 th.sv1.prog.toNat ∧ rd 0x106 th.sv1.cause.toNat ∧ rd 0x107 th.sv1.faddr.toNat ∧
      (r.val % 2 = 0 → rdc 0x010 th.dt1 ∧ rdc 0x011 th.lrs1 ∧ rdc 0x101 th.sv1.pcc ∧ rdc 0x102 th.sv1.rscap)) ∧
    (lvl 2 → rd 0x022 th.lrsp2.toNat ∧ rd 0x023 th.imask2.toNat ∧ rd 0x200 th.sv2.pc.toNat ∧ rd 0x203 th.sv2.rsp.toNat ∧
      rd 0x205 th.sv2.prog.toNat ∧ rd 0x206 th.sv2.cause.toNat ∧ rd 0x207 th.sv2.faddr.toNat ∧
      (r.val % 2 = 0 → rdc 0x020 th.dt2 ∧ rdc 0x021 th.lrs2 ∧ rdc 0x201 th.sv2.pcc ∧ rdc 0x202 th.sv2.rscap)) ∧
    (∀ v : Word, IsInt th r v → lvl 1 →
      wr 0x002 { th with ie := v.getLsbD 0 } ∧ wr 0x003 th ∧ wr 0x004 th ∧ wr 0x005 { th with timerCmp := v } ∧
      wr 0x012 { th with lrsp1 := v } ∧ wr 0x013 { th with imask1 := v &&& 0xFFFFFFFF00000000 } ∧
      wr 0x100 { th with sv1 := { th.sv1 with pc := v } } ∧ wr 0x103 { th with sv1 := { th.sv1 with rsp := v } } ∧
      wr 0x104 { th with sv1 := { th.sv1 with prevIe := v.getLsbD 9 } } ∧
      wr 0x105 { th with sv1 := { th.sv1 with prog := v.truncate 32 } } ∧ wr 0x106 th ∧
      wr 0x107 { th with sv1 := { th.sv1 with faddr := v } } ∧ wr 0x108 th ∧
      (lvl 2 → wr 0x022 { th with lrsp2 := v } ∧ wr 0x023 { th with imask2 := v &&& 0xFFFFFFFF00000000 } ∧
        wr 0x200 { th with sv2 := { th.sv2 with pc := v } })) ∧
    (∀ p : Pair, p = th.pair r → r.val % 2 = 0 → p.isUnsealed = true → capRefused th.level.val th.tenancy.val p.toCap = none →
      (lvl 1 → wrc 0x010 { th with dt1 := p } ∧ wrc 0x011 { th with lrs1 := p } ∧
        wrc 0x101 { th with sv1 := { th.sv1 with pcc := p } } ∧ wrc 0x102 { th with sv1 := { th.sv1 with rscap := p } }) ∧
      (lvl 2 → wrc 0x020 { th with dt2 := p } ∧ wrc 0x021 { th with lrs2 := p })) ∧
    (th.level.val < 2 → exec (.sysrd t r 0x022) s = .next (trapped t 5 0xC 0 false s1)) ∧
    (th.level.val < 1 → exec (.sysrd t r 0x002) s = .next (trapped t 5 0xC 0 false s1))

/-- R96 at the level at which the lookup starts. n is 1 or 2. -/
def Obligations.ExceptionEntry : Prop :=
  ∀ (t : Tid) (i : EntryInfo) (n : Nat) (e : DescEntry) (s s1 : State),
    let th := s.th t
    n = (if i.vector = 1 ∨ i.vector = 2 then 2 else max 1 th.level.val) → n ≤ 2 →
    let table := (th.dt n).toCap
    (th.dt n).isUnsealed = true → table.has 0x0009 = true → 4096 ≤ table.length → table.base % 64 = 0 →
    capRefused n th.tenancy.val table = none → readEntry s t (th.dt n) i.vector = (s1, .entry e) →
    e.poisoned = false → e.valid = true → e.target = n →
    let code := e.code.toCap
    let stack := e.stack.toCap
    let ok (p : Pair) : Prop := capRefused n th.tenancy.val p.toCap = none
    e.code.isUnsealed = true → code.has 0x0004 = true → e.offset % 4 = 0 → e.offset < code.length → e.data.isCap = true →
    e.stack.isUnsealed = true → stack.has 0x0003 = true → 64 ≤ stack.length → ok e.code → ok e.data → ok e.stack →
    (th.lrs n).isUnsealed = true → (th.lrs n).toCap.has 0x0080 = true → (th.sv n).live = false →
    ∃ h : Thread, takeTrap t i s = s1.setTh t h ∧
      let sv := h.sv n
      (sv.pc = th.pc ∧ sv.pcc = th.pcc ∧ sv.rscap = th.rscap ∧ sv.rsp = th.rsp ∧ sv.live = true ∧
        sv.prevLevel.val = th.level.val ∧ sv.prevIe = th.ie ∧ sv.nmi = (i.vector == 1) ∧ sv.tenancy = th.tenancy ∧
        sv.prog = th.iter ∧ sv.faddr = BitVec.ofNat 64 i.faddr ∧
        sv.cause = BitVec.ofNat 64 (i.vector * 2 ^ 42 + th.level.val * 2 ^ 40 + i.pfx.toNat * 2 ^ 39 + i.ext.toNat * 2 ^ 38 +
          i.esc.toNat * 2 ^ 37 + i.async.toNat * 2 ^ 36 + i.detail % 2 ^ 32) ∧
        sv.g26 = th.g 26 ∧ sv.g27 = th.g 27 ∧ sv.g28 = th.g 28 ∧ sv.g29 = th.g 29 ∧ sv.g30 = th.g 30 ∧ sv.g31 = th.g 31) ∧
      (h.pair 26 = e.data ∧ h.g 28 = ⟨sv.cause, .int⟩ ∧ h.g 29 = ⟨BitVec.ofNat 64 stack.length, .int⟩ ∧ h.pair 30 = e.stack) ∧
      (h.pcc = e.code ∧ h.pc = BitVec.ofNat 64 (code.base + e.offset) ∧ h.rscap = th.lrs n ∧ h.rsp = th.lrsp n ∧
        h.level.val = n ∧ h.ie = e.unmask ∧ h.iter = 0 ∧ h.status = .active) ∧
      ((∀ r : RIdx, r.val < 26 → h.g r = th.g r) ∧ h.tenancy = th.tenancy ∧ h.dt1 = th.dt1 ∧ h.dt2 = th.dt2 ∧
        h.lrs1 = th.lrs1 ∧ h.lrs2 = th.lrs2 ∧ h.imask1 = th.imask1 ∧ h.imask2 = th.imask2 ∧ h.timerCmp = th.timerCmp ∧
        h.ipend = th.ipend ∧ h.vregs = th.vregs ∧ h.sv3 = th.sv3 ∧ (n = 1 → h.sv2 = th.sv2) ∧ (n = 2 → h.sv1 = th.sv1))

/-- R85, R86, R99, R100: the return from a handler and the LIVE bit. -/
def Obligations.ExceptionReturn : Prop :=
  ∀ (t : Tid) (s s1 : State), Fetches t 4 false s s1 →
    let th := s1.th t
    let n := th.level.val
    let v := th.sv n
    (th.pcc.toCap.has 0x0400 = true → 1 ≤ n → th.nmi ≠ .held →
      (v.live = true → ∃ h : Thread, exec (.eret t) s = .next (s1.setTh t h) ∧
        (h.pc = v.pc ∧ h.pcc = v.pcc ∧ h.rscap = v.rscap ∧ h.rsp = v.rsp ∧ h.iter = v.prog ∧ h.ie = v.prevIe ∧
          (v.prevLevel.val ≤ 2 → h.level.val = v.prevLevel.val) ∧
          h.g 26 = v.g26 ∧ h.g 27 = v.g27 ∧ h.g 28 = v.g28 ∧ h.g 29 = v.g29 ∧ h.g 30 = v.g30 ∧ h.g 31 = v.g31 ∧
          h.sv n = { v with live := false }) ∧
        ((∀ r : RIdx, r.val < 26 → h.g r = th.g r) ∧ h.tenancy = th.tenancy ∧ h.dt1 = th.dt1 ∧ h.dt2 = th.dt2 ∧
          h.imask1 = th.imask1 ∧ h.imask2 = th.imask2 ∧ h.ipend = th.ipend ∧ h.vregs = th.vregs ∧
          (n = 1 → h.sv2 = th.sv2) ∧ (n = 2 → h.sv1 = th.sv1))) ∧
      (v.live = false → exec (.eret t) s = .next (trapped t 12 0x20 0 false s1)) ∧
      exec (.svclr t) s = .next (done t 4 s1 (th.setSv n { v with live := false })) ∧
      exec (.svset t) s = .next (done t 4 s1 (th.setSv n { v with live := true }))) ∧
    (th.pcc.toCap.has 0x0400 = true → n = 0 → exec (.svset t) s = .next (trapped t 5 0xC 0 false s1))

/-- R101, R102 and R599: what enters a thread from outside its instructions. -/
def Obligations.AsynchronousEntries : Prop :=
  ∀ (t : Tid) (s : State),
    let th := s.th t
    let boundary : Prop := th.status = .active ∨ th.status = .loaded ∨ ∃ w, th.status = .waiting w
    let pends (v : Nat) : Prop := if v = 56 then th.timerCmp.toNat ≤ (s.core t.core).timerNow.toNat
      else 32 ≤ v ∧ v < 64 ∧ th.ipend.toNat.testBit v = true
    let takes (v : Nat) : Prop := pends v ∧ (if th.level.val = 2 then th.imask2 else th.imask1).toNat.testBit v = true
    let enters (v : Nat) (u : State) : State :=
      takeTrap t ⟨v, 0, 0, th.stopPfx, th.stopExt, false, true⟩ (dropTileWait (issue u t) t)
    (∀ v : Nat, th.ie = true → th.inRepn = false → boundary → takes v → (∀ w < v, ¬ takes w) →
      exec (.interruptEntry t) s = .next (enters v
        (s.setTh t { th with ipend := th.ipend &&& ~~~ (1#64 <<< v) }))) ∧
    ((th.ie = false ∨ th.inRepn = true ∨ ¬ boundary ∨ ∀ v, ¬ takes v) → exec (.interruptEntry t) s = .next s) ∧
    (th.status = .empty → exec (.nmi (.thread t)) s = .next s) ∧
    (boundary → th.sv2.live = false → exec (.nmi (.thread t)) s = .next (enters 1 s)) ∧
    (th.status ≠ .empty → (th.sv2.live = true ∨ ¬ boundary) →
      exec (.nmi (.thread t)) s = .next (s.setTh t { th with nmi := .held })) ∧
    (th.nmi = .held → boundary → th.sv2.live = true → s.dstate ≠ dsBringup → ∃ u, exec (.nmiHoldExpiry t) s = .next u ∧
      (u.th t).status = .halted ∧ (u.th t).sv3.nmi = true ∧ (u.th t).sv3.live = true ∧ (u.th t).sv3.pc = th.pc ∧
      (u.th t).regs = th.regs ∧ ⟨t.val / 16, t.val % 16, 1⟩ ∈ u.droneMail) ∧
    (s.clockOn = true → ∃ u, exec (.localTimer t) s = .next u ∧ u.threads = s.threads ∧
      th.timerCmp.toNat ≤ (u.core t.core).timerNow.toNat ∧ u.hbm = s.hbm) ∧
    (∀ target : NmiTarget, ∃ u, exec (.nmi target) s = .next u ∧ u.pending = s.pending)

/-- R111, R113, R115, R116: creating tasks and epochs. -/
def Obligations.TaskAndEpochCreation : Prop :=
  ∀ (t : Tid) (rd r : RIdx) (cs : PIdx) (s s1 : State), Fetches t 4 false s s1 →
    let th := s1.th t
    let c := (th.cap cs).toCap
    let n := th.tenancy.val
    let status (x : State) (v : Nat) : State := done t 4 x ((begun t s1 |>.th t).write rd ⟨BitVec.ofNat 64 v, .int⟩)
    (∀ (gs : List Granule) (s2 : State),
      let a := (c.base + (th.g r).val.toNat) % 2 ^ 64
      let d := taskDescOf gs
      let k := d.code.toCap
      let ten := if k.dev then 0 else k.tenancy % 16
      (th.cap cs).isUnsealed = true → (th.g r).tag = .int → Allowed th c 0x1001 a 128 128 →
      loadGranules t c.space 8 a (begun t s1) = .ok gs s2 → (∀ g ∈ gs, g.2.1 = false ∧ g.2.2.2.1 = false) →
      descRefused th d = none → th.epoch = none → d.flags.testBit 1 = false → d.pred = 0 →
      (descGood d = true → taskRoom s2 ten k.dev = true → ∃ (slot : Nat) (q : Task) (u : State),
        exec (.taskNew t rd cs r) s = .next u ∧ Tab.get? s2.tasks slot = none ∧ Tab.get? u.tasks slot = some q ∧
        (∀ x, x ≠ slot → Tab.get? u.tasks x = Tab.get? s2.tasks x) ∧
        u.ready = (if d.cue = 0 then s2.ready ++ [slot] else s2.ready) ∧
        q.state = (if d.cue = 0 then .dispatchable else .waitCue) ∧ q.cue = d.cue ∧ q.code = d.code ∧ q.rstack = d.rstack ∧
        q.dstack = d.dstack ∧ q.argC = d.argC ∧ q.w0 = d.w0 ∧ q.succ = d.succ ∧ q.group = d.group ∧ q.tenancy.val = ten ∧
        q.dev = k.dev ∧ q.epoch = none ∧ q.thread = none ∧
        (u.th t).g rd = ⟨taskHandle q slot, .handle⟩ ∧ (u.th t).pc = th.pc + 4) ∧
      (descGood d = true → taskRoom s2 ten k.dev = false → exec (.taskNew t rd cs r) s = .next (status s2 9)) ∧
      (descGood d = false → exec (.taskNew t rd cs r) s = .next (status s2 5))) ∧
    (Auth th cs 0x1000 → (th.g r).tag = .int →
      let held := s1.epochs.filter (fun e => e.1 / 64 == n)
      ((th.g r).val = 0 ∨ (th.g r).val = 1 → held.length < 64 → ∃ (slot : Nat) (e : Epoch) (u : State),
        exec (.taskEpoch t rd cs r) s = .next u ∧ slot < 64 ∧ Tab.get? s1.epochs (64 * n + slot) = none ∧
        Tab.get? u.epochs (64 * n + slot) = some e ∧ e.state = .opened ∧ e.step = ((th.g r).val == 1) ∧ e.lines = 0 ∧
        (∀ x, x ≠ 64 * n + slot → Tab.get? u.epochs x = Tab.get? s1.epochs x) ∧
        (u.th t).g rd = ⟨BitVec.ofNat 64 (2 * 2 ^ 60 + n * 2 ^ 56 + e.gen % 2 ^ 23 * 2 ^ 32 + slot), .handle⟩) ∧
      ((th.g r).val = 0 ∨ (th.g r).val = 1 → 64 ≤ held.length → (∀ e ∈ held, e.2.state = .opened) →
        exec (.taskEpoch t rd cs r) s = .next (status (begun t s1) 9)) ∧
      ((th.g r).val = 0 ∨ (th.g r).val = 1 → 64 ≤ held.length → (∃ e ∈ held, e.2.state ≠ .opened) →
        ∃ u, exec (.taskEpoch t rd cs r) s = .next u ∧ (u.th t).status = .waiting .epochSlot ∧
          (u.th t).waitsWith = some (.taskEpoch rd cs r) ∧ (u.th t).pc = th.pc ∧ u.epochs = s1.epochs) ∧
      (1 < (th.g r).val.toNat → exec (.taskEpoch t rd cs r) s = .next (status (begun t s1) 5))) ∧
    (∀ w : State, (w.th t).status = .waiting .epochSlot → (w.th t).waitsWith = some (.taskEpoch rd cs r) →
      (w.epochs.filter (fun e => e.1 / 64 == (w.th t).tenancy.val)).length < 64 →
      s = w.setTh t { w.th t with status := .active, waitsWith := none } → Auth th cs 0x1000 → (th.g r).tag = .int →
      (th.g r).val = 0 ∨ (th.g r).val = 1 → s1.epochs = w.epochs → n = (w.th t).tenancy.val →
      ∃ (slot : Nat) (u : State), exec (.epochSlotWaitEnd t) w = .next u ∧ Tab.get? w.epochs (64 * n + slot) = none ∧
        (Tab.get? u.epochs (64 * n + slot)).isSome = true ∧ (u.th t).pc = th.pc + 4)

/-- R111 to R114, R118: cues, the end of a task, and dispatch. -/
def Obligations.TaskFlow : Prop :=
  ∀ (t : Tid) (rd r : RIdx) (cs : PIdx) (s : State),
    (∀ s1 : State, Fetches t 4 false s s1 → Tab.wf s1.tasks = true →
      let th := s1.th t
      let h := handleOf (th.g r).val
      (Auth th cs 0x1000 → (th.g r).tag = .handle → h.kind = 1 → handleTenancyOk th h = true →
        (∀ k : Task, liveTask s1 h = some k → k.state = .waitCue → 0 < k.cue → ∃ (q : Task) (u : State),
          exec (.taskCue t rd cs r) s = .next u ∧ (u.th t).g rd = ⟨1, .bool⟩ ∧ (u.th t).pc = th.pc + 4 ∧
          Tab.get? u.tasks h.index = some q ∧ q.cue = k.cue - 1 ∧
          q.state = (if k.cue = 1 then .dispatchable else .waitCue) ∧
          u.ready = (if k.cue = 1 then s1.ready ++ [h.index] else s1.ready) ∧
          ∀ x, x ≠ h.index → Tab.get? u.tasks x = Tab.get? s1.tasks x) ∧
        ((liveTask s1 h = none ∨ ∃ k, liveTask s1 h = some k ∧ (k.state ≠ .waitCue ∨ k.cue = 0)) →
          exec (.taskCue t rd cs r) s = .next (done t 4 s1 (th.write rd ⟨0, .bool⟩)))) ∧
      (∀ (slot : Nat) (k : Task), th.task = some slot → Tab.get? s1.tasks slot = some k → k.epoch = none → ∃ u,
        exec (.taskDone t) s = .next u ∧ (u.th t).status = .empty ∧ (u.th t).task = none ∧ (u.th t).group = none ∧
        Tab.get? u.tasks slot = none ∧ Tab.get? u.taskEnd slot = some .done) ∧
      (∀ (slot : Nat) (k : Task) (e : Nat), th.task = some slot → Tab.get? s1.tasks slot = some k → specEpoch s1 k = some e →
        ∃ u q, exec (.taskDone t) s = .next u ∧ (u.th t).status = .empty ∧ Tab.get? u.tasks slot = some q ∧
          q.state = .doneSpec ∧ q.thread = none)) ∧
    (∀ (quarter : Fin 4) (slot : Nat) (k : Task), t.val / 16 / 12 = quarter.val → (s.th t).status = .empty →
      nextFor s (t.val / 16) = some (slot, k) → ∃ u h q,
        exec (.taskDispatch quarter t.core t) s = .next u ∧ h = u.th t ∧ h.status = .loaded ∧ h.task = some slot ∧
        h.pc = BitVec.ofNat 64 (k.code.toCap.base + k.offset.toNat) ∧ h.pcc = k.code ∧ h.rscap = k.rstack ∧
        h.rsp = BitVec.ofNat 64 k.rstack.toCap.length ∧ h.g 1 = ⟨taskHandle k slot, .handle⟩ ∧ h.g 8 = ⟨k.w0, .int⟩ ∧
        h.g 29 = ⟨BitVec.ofNat 64 k.dstack.toCap.length, .int⟩ ∧ h.pair 30 = k.dstack ∧
        h.pair 2 = (if k.argCap then k.argC else ⟨⟨0, .nil⟩, ⟨0, .nil⟩⟩) ∧
        (∀ x : RIdx, x ∉ [(1 : RIdx), 2, 3, 8, 29, 30, 31] → h.g x = ⟨0, .nil⟩) ∧ h.level.val = (if k.dev then 2 else 0) ∧
        h.ie = k.ie ∧ h.tenancy = k.tenancy ∧ Tab.get? u.tasks slot = some q ∧ q.state = .running ∧ q.thread = some t.val) ∧
    (∀ (quarter : Fin 4) (core : CoreId), core.val / 12 ≠ quarter.val ∨ t.core ≠ core ∨ (s.th t).status ≠ .empty ∨
      nextFor s core.val = none → exec (.taskDispatch quarter core t) s = .next s)

/-- R115 to R117, R131, R135: the other task commands. -/
def Obligations.TaskControls : Prop :=
  ∀ (t : Tid) (rd rx r : RIdx) (cs : PIdx) (s : State),
    (∀ s1 : State, Fetches t 4 false s s1 → Tab.wf s1.tasks = true →
      let th := s1.th t
      let h := handleOf (th.g r).val
      let put (v : Nat) (g : Tag) : Host.Outcome State Fault Refusal := .next (done t 4 s1 (th.write rd ⟨BitVec.ofNat 64 v, g⟩))
      let x := (th.g rx).val.toNat
      let m := (th.g r).val.toNat
      let mask := if th.dev then 2 ^ 48 - 1 else s1.ten th.tenancy.val 0xC010 0
      (Auth th cs 0x1000 → (th.g rx).tag = .int → (th.g r).tag = .int →
        (1 ≤ x → x ≤ 63 → 1 ≤ m → m &&& mask = m → ∃ u, exec (.taskBind t rd cs rx r) s = .next u ∧
          u = done t 4 { s1 with groups := u.groups } (th.write rd ⟨1, .bool⟩) ∧
          Tab.get? u.groups (64 * th.tenancy.val + x) = some m ∧
          ∀ y, y ≠ 64 * th.tenancy.val + x → Tab.get? u.groups y = Tab.get? s1.groups y) ∧
        (x = 0 ∨ 63 < x ∨ m = 0 ∨ m &&& mask ≠ m → exec (.taskBind t rd cs rx r) s = put 5 .int)) ∧
      ((th.g r).tag = .handle → handleTenancyOk th h = true →
        (∀ k : Task, h.kind = 1 → liveTask s1 h = some k → exec (.taskState t rd r) s = put
          (match k.state with | .waitCue => 0 | .dispatchable => 1 | .running => 2 | .doneSpec => 3 | .done => 4 | .discarded => 5 | .aborted => 6) .int) ∧
        (∀ e : Nat × Epoch, h.kind = 2 → liveEpoch s1 h = some e → exec (.taskState t rd r) s = put
          (match e.2.state with | .opened => 0x10 | .committed => 0x11 | .discarded => 0x12) .int) ∧
        (h.kind = 2 → liveEpoch s1 h = none → exec (.taskState t rd r) s = put 0x13 .int) ∧
        (∀ k : Task, Auth th cs 0x1000 → h.kind = 1 → liveTask s1 h = some k → (th.g rx).tag = .int →
          (3 < x → exec (.taskSig t rd cs rx r) s = put 5 .int) ∧
          (x ≤ 3 → k.thread = none → exec (.taskSig t rd cs rx r) s = put 0 .bool) ∧
          (∀ n : Tid, x ≤ 3 → k.thread = some n.val → ∃ u, exec (.taskSig t rd cs rx r) s = .next u ∧
            (u.th t).g rd = ⟨1, .bool⟩ ∧ (u.th n).ipend = (s1.th n).ipend ||| (1#64 <<< (48 + x)) ∧
            (∀ y, y ≠ n → y ≠ t → u.th y = s1.th y) ∧ u.tasks = s1.tasks)) ∧
        (∀ k : Task, Auth th cs 0x1000 → 1 ≤ th.level.val → h.kind = 1 → liveTask s1 h = some k →
          (k.state = .doneSpec → exec (.taskAbort t rd cs r) s = put 0 .bool) ∧
          (k.state ≠ .doneSpec → ∃ u, exec (.taskAbort t rd cs r) s = .next u ∧ (u.th t).g rd = ⟨1, .bool⟩ ∧
            Tab.get? u.tasks h.index = none ∧ Tab.get? u.taskEnd h.index = some .aborted ∧
            ∀ n : Tid, k.thread = some n.val → (u.th n).status = .empty)))) ∧
    (∀ (n : Fin 16) (slot : Nat), (s.th t).status = .waiting (.overlay n.val slot) →
      ((∀ e, Tab.get? s.epochs (64 * n.val + slot) = some e → e.state ≠ .opened) →
        exec (.specStoreRelease t) s = .next (s.setTh t { s.th t with status := .active, waitsWith := none })) ∧
      (∀ e, Tab.get? s.epochs (64 * n.val + slot) = some e → e.state = .opened → exec (.specStoreRelease t) s = .next s)) ∧
    (∀ (slot : Nat) (k : Task), Tab.wf s.tasks = true → (s.th t).status = .halted → (s.th t).task = some slot →
      Tab.get? s.tasks slot = some k → k.state = .running → k.thread = some t.val → ∃ u,
        exec (.droneTaskAbort t) s = .next u ∧ (u.th t).status = .empty ∧ Tab.get? u.tasks slot = none ∧
        Tab.get? u.taskEnd slot = some .aborted) ∧
    ((s.th t).status ≠ .halted → exec (.droneTaskAbort t) s = .next s)

/-- R115, R116, R134: the resolution of epochs. -/
def Obligations.EpochResolution : Prop :=
  ∀ (t : Tid) (rd r : RIdx) (cs : PIdx) (s : State),
    (∀ (s1 : State) (key : Nat) (e : Epoch), Fetches t 4 false s s1 → Tab.wf s1.tasks = true → Tab.wf s1.epochs = true →
      let th := s1.th t
      let h := handleOf (th.g r).val
      Auth th cs 0x1000 → (th.g r).tag = .handle → h.kind = 2 → handleTenancyOk th h = true → liveEpoch s1 h = some (key, e) →
      (e.state = .opened →
        (∃ u e1, exec (.taskCommit t rd cs r) s = .next u ∧ (u.th t).g rd = ⟨1, .bool⟩ ∧ Tab.get? u.epochs key = some e1 ∧
          e1.state = .committed ∧ e1.gen = e.gen ∧
          ((s1.tenant (key / 64)).point = none → ∀ n : Tid, (u.th n).tenancy.val = key / 64 → (u.th n).dev = false →
            (u.th n).epoch ≠ some (key % 64))) ∧
        (∃ u e1, exec (.taskDiscard t rd cs r) s = .next u ∧ (u.th t).g rd = ⟨1, .bool⟩ ∧ Tab.get? u.epochs key = some e1 ∧
          e1.state = .discarded ∧ ∀ x q, Tab.get? s1.tasks x = some q → q.dev = false → q.tenancy.val = key / 64 →
            q.epoch = some (key % 64) → Tab.get? u.tasks x = none)) ∧
      (e.state ≠ .opened →
        exec (.taskCommit t rd cs r) s = .next (done t 4 s1 (th.write rd ⟨2, .int⟩)) ∧
        exec (.taskDiscard t rd cs r) s = .next (done t 4 s1 (th.write rd ⟨2, .int⟩)))) ∧
    (∀ (n : Fin 16) (slot : Fin 64), Tab.wf s.epochs = true →
      let key := 64 * n.val + slot.val
      let busy : Prop := (∃ x ∈ s.tasks, x.2.dev = false ∧ x.2.epoch = some slot.val ∧ x.2.tenancy = n) ∨
        ∃ x ∈ s.cmds, x.2.phase = .held ∧ x.2.tenancy = n ∧ x.2.dev = false ∧ x.2.epoch = some slot.val
      (∀ e, Tab.get? s.epochs key = some e → e.state ≠ .opened → ¬ busy → ∃ u,
        exec (.epochResolutionComplete n slot) s = .next u ∧ Tab.get? u.epochs key = none ∧ u.threads = s.threads ∧
        u.tasks = s.tasks ∧ ∀ x, x ≠ key → Tab.get? u.epochs x = Tab.get? s.epochs x) ∧
      (Tab.get? s.epochs key = none ∨ (∃ e, Tab.get? s.epochs key = some e ∧ e.state = .opened) ∨ busy →
        exec (.epochResolutionComplete n slot) s = .next s))

/-- R35, R122 to R125: hand-off channels. -/
def Obligations.HandoffChannels : Prop :=
  ∀ (t : Tid) (rd rx r : RIdx) (cs : PIdx) (s : State),
    (∀ s1 : State, Fetches t 4 false s s1 → Tab.wf s1.chans = true →
      let th := s1.th t
      let w := (th.g r).val
      let h := handleOf w
      let put (v : Nat) (g : Tag) : Host.Outcome State Fault Refusal := .next (done t 4 s1 (th.write rd ⟨BitVec.ofNat 64 v, g⟩))
      ((th.g r).tag = .int → (handleLive s1 th w = true → exec (.hchk t rd r) s = .next (done t 4 s1 (th.write rd ⟨w, .handle⟩))) ∧
        (handleLive s1 th w = false → exec (.hchk t rd r) s = .next (trapped t 5 0xB 0 false s1))) ∧
      (Auth th cs 0x2000 → (th.g r).tag = .int →
        let x := w.toNat
        let producer := x % 64
        let consumer := x / 64 % 64
        let depth := x / 2 ^ 12 % 16 + 1
        let bytes := 512 * (x / 2 ^ 16 % 128)
        let units := (depth * bytes + 32767) / 32768
        let mask := if th.dev then 2 ^ 48 - 1 else s1.ten th.tenancy.val 0xC010 0
        x < 2 ^ 23 → producer < 48 → consumer < 48 → mask.testBit producer = true → mask.testBit consumer = true → 2 ≤ depth →
        1 ≤ bytes → bytes ≤ 32768 → (s1.core (coreOf consumer)).lentUnits + units ≤ 32 →
        ∃ i c u, exec (.chOpen t rd cs r) s = .next u ∧ Tab.get? s1.chans i = none ∧ Tab.get? u.chans i = some c ∧
          c.producer = producer ∧ c.consumer = consumer ∧ c.depth = depth ∧ c.slotBytes = bytes ∧ c.blocks = [] ∧
          c.halted = false ∧ c.task = none ∧ (u.th t).g rd = ⟨c.handle i, .handle⟩ ∧
          (u.core (coreOf consumer)).lentUnits = (s1.core (coreOf consumer)).lentUnits + units ∧
          ∀ y, y ≠ i → Tab.get? u.chans y = Tab.get? s1.chans y) ∧
      (∀ c : Chan, Auth th cs 0x2000 → (th.g r).tag = .handle → h.kind = 3 → handleTenancyOk th h = true → liveChan s1 h = some c →
        let p := (th.g rx).val.toNat
        let tile := (s1.core t.core).tile p
        let mine : Prop := (th.g rx).tag = .int ∧ p < 64 ∧ ∃ g, th.group = some g ∧ p ∈ g.members
        let whole : Prop := tile.rows * tile.rowBytes ≤ c.slotBytes ∧ ∀ k < tile.rows, tile.rowValid k = true
        (c.halted = true → (th.g rx).tag = .int → exec (.chSend t rd cs rx r) s = put 10 .int ∧ exec (.chRecv t rd cs rx r) s = put 10 .int) ∧
        (c.halted = false → c.closing = false → t.core.val = c.producer → mine → whole →
          (c.blocks.length < c.depth → ∃ u c1 b, exec (.chSend t rd cs rx r) s = .next u ∧ (u.th t).g rd = ⟨1, .bool⟩ ∧
            Tab.get? u.chans h.index = some c1 ∧ c1 = { c with blocks := c.blocks ++ [b] } ∧ b.rows = tile.rows ∧
            b.rowBytes = tile.rowBytes ∧ b.landed = false ∧ (∀ k < tile.rows, Tab.getD b.data k ⟨0, 0⟩ = tile.row k) ∧
            (u.core t.core).tiles = (s1.core t.core).tiles ∧
            ∀ q : State, (q.th t).status = .waiting (.channel h.index) → (q.th t).waitsWith = some (.chSend rd cs rx r) →
              s = q.setTh t { q.th t with status := .active, waitsWith := none } → exec (.channelSlotReady t) q = .next u) ∧
          (c.depth ≤ c.blocks.length → ∃ u, exec (.chSend t rd cs rx r) s = .next u ∧
            (u.th t).status = .waiting (.channel h.index) ∧ (u.th t).waitsWith = some (.chSend rd cs rx r) ∧
            (u.th t).pc = th.pc ∧ u.chans = s1.chans)) ∧
        (∀ (b : Block) (bs : List Block), c.halted = false → c.closing = false → t.core.val = c.consumer → mine →
          c.blocks = b :: bs → b.landed = true → b.rows = tile.rows → b.rowBytes = tile.rowBytes →
          tileBusy (s1.core t.core) p = false → ∃ u q, exec (.chRecv t rd cs rx r) s = .next u ∧ (u.th t).g rd = ⟨1, .bool⟩ ∧
            Tab.get? u.chans h.index = some { c with blocks := bs } ∧ q = (u.core t.core).tile p ∧ q.rows = tile.rows ∧
            q.rowBytes = tile.rowBytes ∧ q.data = b.data ∧ (∀ k < 128, q.rowValid k = decide (k < b.rows))) ∧
        (∀ k : Task, (th.g rx).tag = .handle → (handleOf (th.g rx).val).kind = 1 →
          handleTenancyOk th (handleOf (th.g rx).val) = true → liveTask s1 (handleOf (th.g rx).val) = some k →
          liveStream s1 h = none → c.halted = false → ∃ u, exec (.chCue t rd cs rx r) s = .next u ∧ (u.th t).g rd = ⟨1, .bool⟩ ∧
            Tab.get? u.chans h.index = some { c with task := some (th.g rx).val }) ∧
        (liveStream s1 h = none → c.halted = false → ∃ u, exec (.chClose t rd cs r) s = .next u ∧ (u.th t).g rd = ⟨1, .bool⟩ ∧
          Tab.get? u.chans h.index = (if c.blocks = [] then none else some { c with closing := true })))) ∧
    (∀ (i : Nat) (c : Chan) (bs cs1 : List Block) (b : Block), Tab.get? s.chans i = some c → c.blocks = bs ++ b :: cs1 →
      (∀ x ∈ bs, x.landed = true) → b.landed = false → c.halted = false →
      let c1 := { c with blocks := bs ++ { b with landed := true } :: cs1 }
      ((∃ x ∈ b.data, x.2.poison ≠ 0) → ∃ u, exec (.handoffBlockArrival i) s = .next u ∧
        Tab.get? u.chans i = some { c1 with halted := true }) ∧
      ((∀ x ∈ b.data, x.2.poison = 0) →
        (c.task = none → exec (.handoffBlockArrival i) s = .next { s with chans := Tab.put s.chans i c1 }) ∧
        (∀ (v : Word) (k : Task), c.task = some v → liveTask s (handleOf v) = some k → k.state = .waitCue → 0 < k.cue →
          ∃ u q, exec (.handoffBlockArrival i) s = .next u ∧ Tab.get? u.chans i = some c1 ∧
            Tab.get? u.tasks (handleOf v).index = some q ∧ q.cue = k.cue - 1)))

/-- R379 to R383: stream channels. -/
def Obligations.StreamChannels : Prop :=
  ∀ (t : Tid) (rd rx r : RIdx) (cs : PIdx) (s : State),
    (∀ s1 : State, Fetches t 4 false s s1 →
      let th := s1.th t
      let v := (th.g r).val.toNat
      let h := handleOf (th.g r).val
      let k := (th.cap cs).toCap
      let put (n : Nat) (g : Tag) : Host.Outcome State Fault Refusal := .next (done t 4 s1 (th.write rd ⟨BitVec.ofNat 64 n, g⟩))
      (Auth th cs 0x2300 → (th.g r).tag = .int →
        let size := 2 ^ (v / 2 ^ 16 % 16 + 12)
        let sends : Prop := k.length = 1 ∧ v < 2 ^ 12 ∧ k.base ≤ 0x3FFF
        let receives : Prop := k.length ≠ 1 ∧ v < 2 ^ 20 ∧ v / 2 ^ 12 % 16 = 0 ∧ v / 2 ^ 16 ≤ 12 ∧ k.length % size = 0 ∧
          1 ≤ k.length / size ∧ k.length / size ≤ 128
        (sends ∨ receives → ∃ i c u, exec (.chSopen t rd cs r) s = .next u ∧ Tab.get? s1.streams i = none ∧
          Tab.get? u.streams i = some c ∧ c.number = v % 4096 ∧ c.halted = false ∧ c.answered = false ∧ c.credit = 0 ∧
          c.ringSlots = [] ∧ (u.th t).g rd = ⟨c.handle i, .handle⟩ ∧ (sends → c.recv = false ∧ c.node = some k.base) ∧
          (receives → c.recv = true ∧ c.node = none ∧ c.slotBytes = size ∧ c.slots = k.length / size ∧ c.granted = c.slots)) ∧
        (¬ sends → ¬ receives → exec (.chSopen t rd cs r) s = put 5 .int)) ∧
      (∀ c : Stream, (th.cap cs).isUnsealed = true → (th.g rx).tag = .int → (th.g r).tag = .handle →
        Allowed th k 0x2101 k.base (th.g rx).val.toNat 1 → h.kind = 4 → handleTenancyOk th h = true → liveStream s1 h = some c →
        th.iter = 0 →
        let bytes := (th.g rx).val.toNat
        let count := (bytes + 4095) / 4096
        let own := creatorKey s1 t
        (c.halted = true → exec (.chSsend t rd cs rx r none) s = put 10 .int) ∧
        (c.halted = false → c.recv = false → 1 ≤ bytes → (c.answered = true → bytes ≤ c.slotBytes) →
          (∀ y ∈ c.sending, ¬ (y.1 = t.val ∧ y.2.1 = own)) →
          (c.answered = false ∨ c.credit = 0 → ∃ u, exec (.chSsend t rd cs rx r none) s = .next u ∧
            (u.th t).status = .waiting (.channel h.index) ∧ (u.th t).pc = th.pc ∧ u.streams = s1.streams ∧ u.outbox = s1.outbox) ∧
          (∀ q : Nat → State, c.answered = true → 1 ≤ c.credit →
            let c1 := { c with credit := c.credit - 1, sent := c.sent + 1, sending := c.sending ++ [(t.val, own, c.sent)] }
            q 0 = (s1.putStream h.index c1).setTh t { th with iter := 0 } →
            (∀ i < count, ∃ u, sendPacket t c1 k.space (k.base + 4096 * i) (min 4096 (bytes - 4096 * i)) c.sent i (i + 1 == count)
              (q i) = .ok true u ∧ q (i + 1) = u.setTh t { u.th t with iter := BitVec.ofNat 32 (i + 1) }) → bytes < 2 ^ 43 →
            ∃ u, exec (.chSsend t rd cs rx r none) s = .next u ∧ (u.th t).g rd = ⟨1, .bool⟩ ∧ (u.th t).pc = th.pc + 4 ∧
              u.outbox = (q count).outbox ∧ u.hbm = (q count).hbm))) ∧
      (∀ (c : Stream) (n : Fin 17) (va len block i : Nat) (last : Bool) (ps : List (Nat × Nat × Nat)) (u : State),
        len ≤ 4096 → xlateAll t n .read (pieces (len / 128 + 3) va len) s1 = .ok ps u →
        let rd (a : List PByte × State) (p : Nat × Nat × Nat) : List PByte × State :=
          let x := readRun a.2 (s1.th t).ep p.2.2 p.2.1 (windowAt a.2 n.val p.1)
          (a.1 ++ x.2, x.1)
        let b := ps.foldl rd ([], u)
        (∀ y ∈ b.1, y.2 = false) → ∃ f, sendPacket t c n va len block i last s1 = .ok true f ∧
          f.outbox = b.2.outbox ++ [⟨c.node.getD 0, b.2.dev 0x4000 0, 6, if last then 8 else 0, 0, jobOf b.2 c.space, len,
            c.number * 2 ^ 20 + block % 256 * 2 ^ 12 + i, bytesVal b.1⟩])) ∧
    (∀ (i : Nat) (c : Stream), Tab.get? s.streams i = some c → c.recv = false → c.answered = false → c.halted = false →
      ∀ n, c.node = some n → ∃ u, exec (.strOpenTimer i) s = .next u ∧ ∃ p, u.outbox = s.outbox ++ [p] ∧ p.dest = n ∧ p.type = 7 ∧
        p.tspec = c.number ∧ u.streams = s.streams) ∧
    (∀ (src job number i : Nat) (c : Stream),
      s.streams.find? (fun e => e.2.recv && e.2.number == number && jobOf s e.2.space == job) = some (i, c) → c.node = none →
      ∃ u p, exec (.strOpen src job number) s = .next u ∧ Tab.get? u.streams i = some { c with node := some src, answered := true } ∧
        u.outbox = s.outbox ++ [p] ∧ p.dest = src ∧ p.type = 8 ∧ p.tspec % 256 = c.slots % 256) ∧
    (∀ (src job tspec len data i b : Nat) (last : Bool) (c : Stream),
      s.streams.find? (fun e => e.2.recv && e.2.number == fld tspec 31 20 && jobOf s e.2.space == job && e.2.node == some src) =
        some (i, c) →
      blockNumber c (fld tspec 19 12) = some b → c.slots ≠ 0 → c.halted = false → c.task = none →
      let k := tspec % 4096
      let slot := b % c.slots
      let a := Tab.getD c.ringSlots slot ⟨b, [], none, false, none⟩
      (a.block = b → a.cued = false → k ∉ a.got → 4096 * k + len ≤ c.slotBytes → ∀ u : State,
        writeRing c.ring.toCap.space (len + 2) (c.ring.toCap.base + slot * c.slotBytes + 4096 * k) (bytesWith len data 0) s = some u →
        ∃ f c1 a1, exec (.strData src job tspec len data last) s = .next f ∧ Tab.get? f.streams i = some c1 ∧
          Tab.get? c1.ringSlots slot = some a1 ∧ a1.got = a.got ++ [k] ∧ a1.last = (if last then some k else a.last) ∧ f.hbm = u.hbm) ∧
      (a.block ≠ b ∨ a.cued = true ∨ k ∈ a.got ∨ c.slotBytes < 4096 * k + len →
        exec (.strData src job tspec len data last) s = .next (s.count c.space 0x2D 1))) ∧
    (∀ (i : Nat) (c : Stream), Tab.get? s.streams i = some c → c.halted = false → (∃ a ∈ c.ringSlots, a.2.whole = false ∧ a.2.got ≠ []) →
      ∃ u, exec (.streamBlockTimeout i) s = .next u ∧ Tab.get? u.streams i = some { c with halted := true })

/-- R127, R128, R171 to R175, R204: tile groups. -/
def Obligations.TileGroups : Prop :=
  ∀ (t : Tid) (rd r : RIdx) (cs : PIdx) (s : State),
    let granted (k : Core) (h : Thread) (u : State) (shapes : List (Nat × Nat)) (part : Nat) (regs : List Nat) (idx : Option Nat) : Prop :=
      ∃ g, (u.th t).group = some g ∧ g.members = regs ∧ g.part = idx ∧ g.gen = h.groupGen + 1 ∧
        regs.length = shapes.length ∧ regs.Nodup ∧ (∀ p ∈ regs, p < 64 ∧ Tab.get? k.tiles p = none) ∧
        (∀ p < 64, Tab.get? k.tiles p = none → p ∉ regs → ∀ x ∈ regs, x < p) ∧
        (∀ x ∈ regs.zip shapes, (u.core t.core).tile x.1 = ⟨x.2.1, x.2.2, 0, []⟩) ∧
        (part = 0 → idx = none) ∧
        (∀ i, idx = some i → (u.core t.core).part i = { Partition.reset with width := 64 * 2 ^ part, holder := some t.val }) ∧
        (u.th t).pair rd = ⟨⟨handleWord 5 h.tenancy.val h.dev g.gen t.val, .handle⟩,
          ⟨BitVec.ofNat 64 (packBits 6 regs + idx.getD 0 * 2 ^ 48 + part * 2 ^ 50), .int⟩⟩
    (∀ s1 : State, Fetches t 4 false s s1 →
      let th := s1.th t
      let c := (th.cap cs).toCap
      let a := (c.base + (th.g r).val.toNat) % 2 ^ 64
      let v := (th.g r).val.toNat
      let k := s1.core t.core
      (∀ (bs : List PByte) (u : State), rd.val % 2 = 0 → th.group = none → (th.cap cs).isUnsealed = true → (th.g r).tag = .int →
        Allowed th c 0x0001 a 64 64 → loadBytes t c.space a 64 (begun t s1) = .ok bs u → (∀ b ∈ bs, b.2 = false) →
        (tcfgBlock (bytesVal bs) = none →
          exec (.tcfg t rd cs r) s = .next (done t 4 u ((begun t s1 |>.th t).writePair rd ⟨⟨5, .int⟩, ⟨0, .int⟩⟩))) ∧
        (∀ (shapes : List (Nat × Nat)) (part : Nat), tcfgBlock (bytesVal bs) = some (shapes, part) →
          (∀ (regs : List Nat) (idx : Option Nat), (u.core t.core).tileWait = [] →
            tileFits (u.core t.core) ⟨t.val, rd, shapes, part⟩ = some (regs, idx) → ∃ f, exec (.tcfg t rd cs r) s = .next f ∧
              granted (u.core t.core) th f shapes part regs idx ∧ (f.th t).pc = th.pc + 4) ∧
          ((u.core t.core).tileWait ≠ [] ∨ tileFits (u.core t.core) ⟨t.val, rd, shapes, part⟩ = none →
            ∃ f, exec (.tcfg t rd cs r) s = .next f ∧ (f.th t).status = .waiting .tileGrant ∧ (f.th t).pc = th.pc ∧
              (f.core t.core).tileWait = (u.core t.core).tileWait ++ [⟨t.val, rd, shapes, part⟩]))) ∧
      ((th.group = none → exec (.trel t) s = .next (done t 4 s1 th)) ∧
        (∀ g : TileGroup, th.group = some g → ∃ f, exec (.trel t) s = .next f ∧ (f.th t).group = none ∧ (f.th t).regs = th.regs ∧
          (g.part = none → Tab.wf k.tiles = true → ∀ p ∈ g.members, Tab.get? (f.core t.core).tiles p = none) ∧
          (∀ i < 4, g.part = some i → (∀ q ∈ (k.part i).queue, q.started = false) →
            (f.core t.core).part i = Partition.reset ∧ ∀ p ∈ g.members, Tab.get? (f.core t.core).tiles p = none) ∧
          (∀ i < 4, g.part = some i → (∃ q ∈ (k.part i).queue, q.started = true) →
            ((f.core t.core).part i).draining = true ∧ (f.core t.core).tiles = k.tiles))) ∧
      (∀ (g : TileGroup) (p : Nat), th.group = some g → g.members[v % 8]? = some p →
        (let rows := v / 2 ^ 8 % 128 + 1
         let rb := (v / 2 ^ 16 % 128 + 1) * 4
         (th.g r).tag = .int → rows * rb ≤ 32768 → tileBusy k p = false →
          exec (.tshape t r) s = .next (done t 4 (s1.setCore t.core { k with tiles := Tab.put k.tiles p ⟨rows, rb, 0, []⟩ }) th)) ∧
        ((th.g r).tag = .int → rd.val % 2 = 0 →
          exec (.tvalid t rd r) s = .next (done t 4 s1 (th.writePair rd
            ⟨⟨(k.tile p).valid.truncate 64, .int⟩, ⟨((k.tile p).valid >>> 64).truncate 64, .int⟩⟩)))) ∧
      (∀ (g : TileGroup) (i : Nat), th.group = some g → g.part = some i → r.val % 2 = 0 → (th.pair r).a.tag = .int →
        (th.pair r).b.tag = .int → exec (.tmask t r) s = .next (done t 4 (s1.setCore t.core (k.setPart i { k.part i with
          mask := (th.pair r).b.val ++ (th.pair r).a.val })) th))) ∧
    (∀ (q : TileReq) (rest : List TileReq) (regs : List Nat) (idx : Option Nat), (s.core t.core).tileWait = q :: rest →
      q.thread = t.val → q.rd = rd → (s.th t).status = .waiting .tileGrant → tileFits (s.core t.core) q = some (regs, idx) →
      ∃ f, exec (.tileGroupGrant t) s = .next f ∧ granted (s.core t.core) (s.th t) f q.shapes q.part regs idx ∧
        (f.th t).pc = (s.th t).pc + 4 ∧ (f.th t).status = .active ∧ (f.core t.core).tileWait = rest) ∧
    (∀ (core : CoreId) (i : Fin 4), let k := s.core core
      ((k.part i.val).draining = false → exec (.partitionDrainComplete core i) s = .next s) ∧
      ((k.part i.val).draining = true → ∃ f, exec (.partitionDrainComplete core i) s = .next f ∧
        (f.core core).part i.val = Partition.reset ∧ ∀ p ∈ (k.part i.val).drainRegs, Tab.get? (f.core core).tiles p = none))

/-- R176 to R179: the moves of tiles. The chain q names the state before each row. -/
def Obligations.TileMoves : Prop :=
  ∀ (t : Tid) (td : MIdx) (cs : PIdx) (m : TMForm) (g : TileGroup) (p : Nat) (s s1 : State) (q : Nat → State),
    let len := lenOf m.isExt
    let th := s1.th t
    let c := (th.cap cs).toCap
    let v := (s1.core t.core).tile p
    let iter (u : State) (i : Nat) : State := u.setTh t { u.th t with iter := BitVec.ofNat 32 i }
    let put (u : State) (x : Tile) : State := u.setCore t.core { u.core t.core with tiles := Tab.put (u.core t.core).tiles p x }
    Fetches t len m.isExt s s1 → (th.cap cs).isUnsealed = true →
    (match m with | .short rx rst => (th.g rx).tag = .int ∧ (th.g rst).tag = .int | .ext rst _ => (th.g rst).tag = .int) →
    th.group = some g → g.members[td.val]? = some p → v.rows ≤ 128 →
    (tileBusy (s1.core t.core) p = false → q 0 = s1 →
      (∀ r < v.rows, (((q r).core t.core).tile p).rowValid r = true → q (r + 1) = q r) →
      (∀ r < v.rows, (((q r).core t.core).tile p).rowValid r = false → loadRow t p c (rowAddr th cs m r) r (iter (q r) r) = .ok () (q (r + 1))) →
      exec (.tld t td cs m none) s = .next (done t len (q v.rows) ((q v.rows).th t))) ∧
    (th.iter = 0 → tileBusy (s1.core t.core) p = false → 1 ≤ v.rows → Allowed th c 0x0001 (rowAddr th cs m 0) v.rowBytes 4 →
      q 0 = put s1 { v with valid := 0, data := [] } → ∀ n ≤ v.rows,
      (∀ r < n, ∃ u, loadRow t p c (rowAddr th cs m r) r (q r) = .ok () u ∧ q (r + 1) = iter u (r + 1)) →
      (n = v.rows → exec (.tldAll t td cs m none) s = .next (done t len (q n) ((q n).th t))) ∧
      (n < v.rows → exec (.tldAll t td cs m (some n)) s = .next (markStop (q n) t false m.isExt))) ∧
    (th.iter = 0 → 1 ≤ v.rows → q 0 = s1 → ∀ n ≤ v.rows,
      (∀ r < n, ∃ u, storeRow t p c (rowAddr th cs m r) r (q r) = .ok () u ∧ q (r + 1) = iter u (r + 1)) →
      (n = v.rows → exec (.tst t td cs m none) s = .next (done t len (q n) ((q n).th t))) ∧
      (n < v.rows → exec (.tst t td cs m (some n)) s = .next (markStop (q n) t false m.isExt))) ∧
    (∀ (a r : Nat) (w u : State) (bs : List PByte),
      let x := (w.core t.core).tile p
      Allowed (w.th t) c 0x0001 a x.rowBytes 4 → demandBytes t c a x.rowBytes w = .ok bs u → ∃ y,
        loadRow t p c a r w = .ok () (put u y) ∧ y.rows = x.rows ∧ y.rowBytes = x.rowBytes ∧ y.valid = x.valid ||| (1#128 <<< r) ∧
        (Tab.getD y.data r ⟨0, 0⟩).data = bytesVal bs ∧
        (∀ i < x.rowBytes, (bs.getD i (0, false)).2 = true → (Tab.getD y.data r ⟨0, 0⟩).poison.testBit (i / 4) = true) ∧
        ∀ i, i ≠ r → Tab.get? y.data i = Tab.get? x.data i) ∧
    (∀ (a r : Nat) (w : State) (ps : List (Nat × Nat × Nat)) (w1 u : State),
      let x := (w.core t.core).tile p
      let bs : List PByte := (List.range x.rowBytes).map (fun i => ((x.row r).data / 256 ^ i % 256, (x.row r).poison.testBit (i / 4)))
      Allowed (w.th t) c 0x0002 a x.rowBytes 4 → x.rowValid r = true → xlateAll t c.space .write (pieces 8 a x.rowBytes) w = .ok ps w1 →
      Stores t c.space a bs false w1 u → storeRow t p c a r w = .ok () u)

/-- R181, R190, R194, R195, R197 to R199: passes over a partition. -/
def Obligations.MatrixPasses : Prop :=
  ∀ (t : Tid) (bank : Fin 2) (s : State),
    (∀ s1 : State, Fetches t 4 false s s1 →
      let th := s1.th t
      let k := s1.core t.core
      let b := begun t s1
      let push (i : Nat) (q : Pass) : State :=
        done t 4 (s1.setCore t.core (k.setPart i { k.part i with queue := (k.part i).queue ++ [q] })) th
      let waits (i : Instr) (w : HeldInstr) : Prop := ∃ u, exec i s = .next u ∧ (u.th t).status = .waiting .tileQueue ∧
        (u.th t).waitsWith = some w ∧ (u.th t).pc = th.pc ∧ u.cores = s1.cores
      (∀ (ta tb : MIdx) (fa fb : RIdx) (wa wb : Word) (pl : PassPlan), Holds th fa wa .fmt → Holds th fb wb .fmt →
        passPlan t ta tb bank wa wb none b = .ok pl b →
        ((k.part pl.part).full = false → exec (.tmma t ta tb bank fa fb) s = .next (push pl.part pl.pass) ∧
          ∀ w : State, (w.th t).status = .waiting .tileQueue → (w.th t).waitsWith = some (.tmma ta tb bank fa fb) →
            s = w.setTh t { w.th t with status := .active, waitsWith := none } →
            exec (.tmmaQueueAccept t) w = .next (push pl.part pl.pass)) ∧
        ((k.part pl.part).full = true → waits (.tmma t ta tb bank fa fb) (.tmma ta tb bank fa fb))) ∧
      (∀ (g : TileGroup) (i : Nat), th.group = some g → g.part = some i →
        ((k.part i).full = false → exec (.tz t bank) s = .next (push i (Pass.mk true bank 0 [] none none 0 0 0 0 0 false))) ∧
        ((k.part i).full = true → waits (.tz t bank) (.tz bank)) ∧
        (∀ (td : MIdx) (ro : RIdx) (p : Nat) (v : Word), Holds th ro v .int → g.members[td.val]? = some p →
          let x := k.tile p
          let r0 := v.toNat % 128
          let c0 := v.toNat / 2 ^ 16 % 512
          let n := x.rowBytes / 4
          let cells := ((k.part i).bank bank).cells (k.part i).width
          r0 + x.rows ≤ 128 → c0 + n ≤ (k.part i).width → x.rows ≤ 128 →
          (∀ q ∈ (k.part i).queue, q.bank ≠ bank) → tileBusy k p = false →
          ∃ u, exec (.trdaRaw t td bank ro) s = .next u ∧ u.threads = (done t 4 s1 th).threads ∧
            ((u.core t.core).tile p).rows = x.rows ∧
            ∀ r < x.rows, ((u.core t.core).tile p).rowValid r = true ∧ ∀ j < n, ∀ c, (cells (r0 + r))[c0 + j]? = some c →
              (((u.core t.core).tile p).row r).data / 2 ^ (32 * j) % 2 ^ 32 = c.1 ∧
              (((u.core t.core).tile p).row r).poison.testBit j = c.2))) ∧
    (∀ (core : CoreId) (i : Fin 4) (q : Pass) (pre post : List Pass),
      let k := s.core core
      let pt := k.part i.val
      (pt.queue = pre ++ q :: post → (∀ x ∈ pre, x.started = true) → (∀ x ∈ post, x.started = false) → q.started = false → q.isTz = false →
        ∃ u, exec (.tmmaPassStart core i) s = .next u ∧
          ((u.core core).part i.val) = { pt with queue := pre ++ { q with started := true } :: post } ∧ u.threads = s.threads ∧
          u.dev 0x9000 (fmtOf q.fmtA).format =
            s.dev 0x9000 (fmtOf q.fmtA).format + (q.liveRows.length * pt.width * q.k)) ∧
      (pt.queue = q :: post → q.started = true → q.isTz = false → pt.draining = false →
        ∃ u, exec (.tmmaPassComplete core i) s = .next u ∧ (u.core core).part i.val =
          ({ pt with queue := post } : Partition).setBank q.bank (passInto k pt.width q (pt.bank q.bank))) ∧
      (pt.queue = q :: post → q.isTz = true → ∃ u, exec (.tzTurn core i) s = .next u ∧
        (u.core core).part i.val = ({ pt with queue := post } : Partition).setBank q.bank Bank.reset) ∧
      (pt.queue = [] → exec (.tzTurn core i) s = .next s ∧ exec (.tmmaPassComplete core i) s = .next s ∧
        exec (.tmmaPassStart core i) s = .next s)) ∧
    (∀ (k : Core) (w : Nat) (q : Pass) (b : Bank) (r j c : Nat),
      let d := fmtOf q.fmtA
      let as := rowElems d.format d.mx q.k ((k.tile q.a).row r)
      let bs := bRows k q w
      q.integer = true → r ∈ q.liveRows → j < w → (b.cells w r)[j]? = some (c, false) → (∀ a ∈ as, a.2 = false) →
      (∀ x ∈ bs, x.length = w ∧ ∃ y, x[j]? = some (y, false)) →
      ((passInto k w q b).cells w r)[j]? = some
        (((c : Int) + (List.zipWith (fun (a : Machine.Num × Bool) (x : List (Machine.Num × Bool)) =>
          numInt (a.1.mul (x.getD j (.nan, false)).1)) as bs).sum) % 2 ^ 32 |>.toNat, false))

/-- R152, R199 to R201, R213, R217, R234: conversions that complete. -/
def Obligations.Conversions : Prop :=
  ∀ (t : Tid) (s s1 : State), Fetches t 4 false s s1 →
    let th := s1.th t
    let b := begun t s1
    (∀ (td ta tb : MIdx) (bank : Fin 2) (fa fb fd : RIdx) (wa wb wd : Word) (pl : PassPlan) (rcd : Nat) (s2 : State) (fused : Bool),
      Holds th fa wa .fmt → Holds th fb wb .fmt → Holds th fd wd .fmt →
      passPlan t ta tb bank wa wb (some (td, wd)) b = .ok pl b → (∀ p ∈ pl.dregs ++ pl.dscale.toList, tileBusy (s1.core t.core) p = false) →
      ((s1.core t.core).part pl.part).queue = [] → (fmtOf wd).probe = false → readTensor t (fmtOf wd) b = .ok rcd s2 →
      let q := pl.pass
      let k := s2.core t.core
      let pt := k.part pl.part
      let b0 := pt.bank bank
      let b1 := passInto k pl.width q (if fused then b0.zeroRows q.liveRows else b0)
      let s3 := wakeTiles ((countPass s2 pt q).setCore t.core (k.setPart pl.part
        (pt.setBank bank (if fused then b1.zeroRows q.liveRows else b1)))) t.core
      ∀ (r : CvtOut) (s4 : State),
        convertRows t (fmtOf wd) rcd (bankScales b1).1 (bankScales b1).2 (bankRows b1 pl.width q.liveRows 0 pl.width)
          (if fused then 3 else 2) q.liveRows s3 = .ok r s4 →
        let i : Instr := if fused then .tmmaCvtF t td ta tb bank fa fb fd else .tmmaCvt t td ta tb bank fa fb fd
        (r.exhausted = none → ∃ u, exec i s = .next u ∧ (u.th t).pc = th.pc + 4 ∧
          (u.th t).g fd = ⟨fmtWriteBack wd r.scale r.retry, .fmt⟩ ∧ (u.core t.core).parts = (s3.core t.core).parts ∧
          ∀ p, pl.dregs = [p] → pl.dscale = none → ∀ x ∈ q.liveRows.zip r.rows, x.1 < 128 → q.liveRows.Nodup →
            ((u.core t.core).tile p).row x.1 = outRow (fmtOf wd).format x.2.elems) ∧
        (∀ detail, r.exhausted = some detail → ∃ u, exec i s = .next (takeTrap t ⟨15, detail, 0, false, false, false, false⟩ u) ∧
          (u.th t).pc = th.pc ∧ (u.th t).g fd = th.g fd)) ∧
    (∀ (td : MIdx) (bank : Fin 2) (fd ro : RIdx) (wd v : Word) (g : TileGroup) (i p rcd : Nat) (s2 s4 : State) (r : CvtOut),
      Holds th fd wd .fmt → Holds th ro v .int → th.group = some g → g.part = some i → g.members[td.val]? = some p →
      let k := s1.core t.core
      let x := k.tile p
      let d := fmtOf wd
      let e := fmtStore d.format
      let n := x.rowBytes * 8 / e
      let bk := (k.part i).bank bank
      let r0 := v.toNat % 128
      let c0 := v.toNat / 2 ^ 16 % 512
      fmtReadout d.format = true → x.rowBytes * 8 % e = 0 → r0 + x.rows ≤ 128 → c0 + n ≤ (k.part i).width → d.mx = false →
      (∀ q ∈ (k.part i).queue, q.bank ≠ bank) → tileBusy k p = false → d.probe = false → readTensor t d b = .ok rcd s2 →
      convertRows t d rcd (bankScales bk).1 (bankScales bk).2
        (bankRows bk (k.part i).width ((List.range x.rows).map (fun j => r0 + j)) c0 n) 1 (List.range x.rows) s2 = .ok r s4 →
      r.exhausted = none → ∃ u, exec (.trdaCvt t td bank fd ro) s = .next u ∧ (u.th t).pc = th.pc + 4 ∧
        (u.th t).g fd = ⟨fmtWriteBack wd r.scale r.retry, .fmt⟩ ∧ (u.core t.core).parts = k.parts ∧
        ∀ y ∈ (List.range x.rows).zip r.rows, ((u.core t.core).tile p).row y.1 = outRow d.format y.2.elems) ∧
    (∀ (vd vs1 : RIdx) (rs2 : RIdx) (w : Word), Holds th rs2 w .fmt → (s1.core t.core).lv = .powered →
      let d := fmtOf w
      d.format ≠ 0 → d.format ≠ 13 → d.format ≠ 14 →
      (∀ (rcd : Nat) (s2 s3 : State) (r : CvtOut), d.probe = false → readTensor t d b = .ok rcd s2 →
        convertRows t d rcd (.fin false 1 0) (.fin false 1 0)
          [(0, (vLanes th.vregs[vs1.val] 32).map (fun x => (decodeF fp32 x.1, x.2)))] 0 [] s2 = .ok r s3 → r.exhausted = none →
        ∃ u, exec (.vcvtNarrow t vd vs1 rs2) s = .next u ∧ (u.th t).pc = th.pc + 4 ∧
          (u.th t).g rs2 = ⟨fmtWriteBack w r.scale r.retry, .fmt⟩ ∧ ∃ o, r.rows = [o] ∧
          (u.th t).vregs[vd.val] = packedReg (fmtStore d.format) o.elems (packBits 8 o.scales * 2 ^ (8 * 508))) ∧
      (d.format ≠ 15 → d.mx = false → ∃ u, exec (.vcvtWiden t vd vs1 rs2) s = .next u ∧ (u.th t).pc = th.pc + 4 ∧
        (u.th t).regs = th.regs ∧ ∀ j < 128, let e := fmtStore d.format
          spanPoison th.vregs[vs1.val].poison.toNat (e * j) e = false →
          ∀ c, (vLanes (u.th t).vregs[vd.val] 32)[j]? = some c → c.2 = false →
            c.1 = widenElem d (elemNum d.format false (th.vregs[vs1.val].bits.toNat / 2 ^ (e * j) % 2 ^ e))))

/-- R141, R148 to R150: the lanes and the poison bits of vd, one by one. -/
def Obligations.LongVectorLanes : Prop :=
  ∀ (t : Tid) (vd vs1 vs2 : RIdx) (s s1 : State), Fetches t 4 false s s1 → (s1.core t.core).lv = .powered →
    let th := s1.th t
    let lane (w : Nat) (v : VReg) (k : Nat) : BitVec w := BitVec.ofNat w (v.bits.toNat / 2 ^ (w * k))
    let bad (v : VReg) (j : Nat) : Bool := v.poison.toNat.testBit j
    let res (i : Instr) (w : Nat) (srcs : List RIdx) (f : BitVec w → BitVec w → BitVec w → BitVec w) : Prop :=
      ∃ v : VReg, exec i s = .next (done t 4 s1 { th with vregs := th.vregs.set vd.val v }) ∧
        (∀ j, j < 64 → bad v j = srcs.any (fun r => bad th.vregs[r.val] j)) ∧
        ∀ k, w * k < 4096 → lane w v k = if bad v (w * k / 64) then 0 else
          f (lane w th.vregs[vs1.val] k) (lane w th.vregs[vs2.val] k) (lane w th.vregs[vd.val] k)
    let ones (w : Nat) (p : Bool) : BitVec w := if p then BitVec.allOnes w else 0
    let sat (w : Nat) (x : Int) : BitVec w := BitVec.ofInt w (max (-2 ^ (w - 1)) (min x (2 ^ (w - 1) - 1)))
    let two : List RIdx := [vs1, vs2]
    let three : List RIdx := [vs1, vs2, vd]
    (∀ lanes : Fin 4, let w := 8 * 2 ^ lanes.val
      res (.vadd t vd vs1 vs2 lanes) w two (fun a b _ => a + b) ∧
      res (.vsub t vd vs1 vs2 lanes) w two (fun a b _ => a - b) ∧
      res (.vmul t vd vs1 vs2 lanes) w two (fun a b _ => a * b) ∧
      res (.vmin t vd vs1 vs2 lanes) w two (fun a b _ => if a.toInt ≤ b.toInt then a else b) ∧
      res (.vmax t vd vs1 vs2 lanes) w two (fun a b _ => if a.toInt ≤ b.toInt then b else a) ∧
      res (.vminu t vd vs1 vs2 lanes) w two (fun a b _ => if a.toNat ≤ b.toNat then a else b) ∧
      res (.vmaxu t vd vs1 vs2 lanes) w two (fun a b _ => if a.toNat ≤ b.toNat then b else a) ∧
      res (.vand t vd vs1 vs2 lanes) w two (fun a b _ => a &&& b) ∧
      res (.vor t vd vs1 vs2 lanes) w two (fun a b _ => a ||| b) ∧
      res (.vxor t vd vs1 vs2 lanes) w two (fun a b _ => a ^^^ b) ∧
      res (.vsll t vd vs1 vs2 lanes) w two (fun a b _ => a <<< (b.toNat % w)) ∧
      res (.vsrl t vd vs1 vs2 lanes) w two (fun a b _ => a >>> (b.toNat % w)) ∧
      res (.vsra t vd vs1 vs2 lanes) w two (fun a b _ => a.sshiftRight (b.toNat % w)) ∧
      res (.vcmpeq t vd vs1 vs2 lanes) w two (fun a b _ => ones w (a == b)) ∧
      res (.vcmplt t vd vs1 vs2 lanes) w two (fun a b _ => ones w (decide (a.toInt < b.toInt))) ∧
      res (.vsadd t vd vs1 vs2 lanes) w two (fun a b _ => sat w (a.toInt + b.toInt)) ∧
      res (.vsel t vd vs1 vs2 lanes) w three (fun a b d => (a &&& d) ||| (b &&& ~~~d))) ∧
    (∀ lanes : Fin 4, let f := [fp32, bf16, fp16, fp64].getD lanes.val fp32
      let num (w x : Nat) : BitVec w := BitVec.ofNat w x
      res (.vfadd t vd vs1 vs2 lanes) f.width two (fun a b _ => num _ (fAdd f .rne a.toNat b.toNat)) ∧
      res (.vfsub t vd vs1 vs2 lanes) f.width two (fun a b _ => num _ (fSub f .rne a.toNat b.toNat)) ∧
      res (.vfmul t vd vs1 vs2 lanes) f.width two (fun a b _ => num _ (fMul f .rne a.toNat b.toNat)) ∧
      res (.vfdiv t vd vs1 vs2 lanes) f.width two (fun a b _ => num _ (fDiv f .rne a.toNat b.toNat)) ∧
      res (.vfsqrt t vd vs1 lanes) f.width [vs1] (fun a _ _ => num _ (fSqrt f .rne a.toNat)) ∧
      res (.vfmin t vd vs1 vs2 lanes) f.width two (fun a b _ => num _ (fMin f a.toNat b.toNat)) ∧
      res (.vfmax t vd vs1 vs2 lanes) f.width two (fun a b _ => num _ (fMax f a.toNat b.toNat)) ∧
      res (.vfcmplt t vd vs1 vs2 lanes) f.width two (fun a b _ => ones _ (fLt f a.toNat b.toNat)) ∧
      res (.vfcmpeq t vd vs1 vs2 lanes) f.width two (fun a b _ => ones _ (fEq f a.toNat b.toNat)) ∧
      res (.vfmadd t vd vs1 vs2 lanes) f.width three (fun a b c => num _ (fFma f .rne false false a.toNat b.toNat c.toNat)) ∧
      res (.vfmsub t vd vs1 vs2 lanes) f.width three (fun a b c => num _ (fFma f .rne false true a.toNat b.toNat c.toNat)) ∧
      res (.vfnmadd t vd vs1 vs2 lanes) f.width three (fun a b c => num _ (fFma f .rne true true a.toNat b.toNat c.toNat)) ∧
      res (.vfnmsub t vd vs1 vs2 lanes) f.width three (fun a b c => num _ (fFma f .rne true false a.toNat b.toNat c.toNat)) ∧
      (lanes = 0 →
        res (.vfexp t vd vs1 lanes) 32 [vs1] (fun a _ _ => num _ (fexp a.toNat)) ∧
        res (.vfln t vd vs1 lanes) 32 [vs1] (fun a _ _ => num _ (fln a.toNat))) ∧
      (lanes ≠ 0 →
        exec (.vfexp t vd vs1 lanes) s = .next (trapped t 12 0 0 false s1) ∧
        exec (.vfln t vd vs1 lanes) s = .next (trapped t 12 0 0 false s1)))

/-- R141 to R144, R151, R153: widening, dot products, moves and power states. -/
def Obligations.LongVectorMoves : Prop :=
  let lane (w : Nat) (v : VReg) (k : Nat) : BitVec w := BitVec.ofNat w (v.bits.toNat / 2 ^ (w * k))
  let bad (v : VReg) (j : Nat) : Bool := v.poison.toNat.testBit j
  let num (w x : Nat) : BitVec w := BitVec.ofNat w x
  (∀ (t : Tid) (vd vs1 vs2 : RIdx) (s s1 : State), Fetches t 4 false s s1 → (s1.core t.core).lv = .powered →
    let th := s1.th t
    let vr (r : RIdx) : VReg := th.vregs[r.val]
    let out (v : VReg) : Host.Outcome State Fault Refusal := .next (done t 4 s1 { th with vregs := th.vregs.set vd.val v })
    let illegalOp : Host.Outcome State Fault Refusal := .next (trapped t 12 0 0 false s1)
    let wide (i : Instr) (w half : Nat) (f : BitVec w → BitVec w → BitVec (2 * w)) : Prop :=
      ∃ v : VReg, exec i s = out v ∧
        (∀ j, j < 64 → bad v j = (bad (vr vs1) (32 * half + j / 2) || bad (vr vs2) (32 * half + j / 2))) ∧
        ∀ k, 2 * w * k < 4096 → lane (2 * w) v k = if bad v (2 * w * k / 64) then 0 else
          f (lane w (vr vs1) (2048 / w * half + k)) (lane w (vr vs2) (2048 / w * half + k))
    let dot (i : Instr) (f : BitVec 32 → BitVec 32 → BitVec 32 → BitVec 32) : Prop :=
      ∃ v : VReg, exec i s = out v ∧ (∀ j, j < 64 → bad v j = [vs1, vs2, vd].any (fun r => bad (vr r) j)) ∧
        ∀ k, k < 128 → lane 32 v k = if bad v (k / 2) then 0 else f (lane 32 (vr vs1) k) (lane 32 (vr vs2) k) (lane 32 (vr vd) k)
    let part (w : Nat) (x : BitVec 32) (j : Nat) : Nat := x.toNat / 2 ^ (w * j) % 2 ^ w
    let add := fAdd fp32 .rne
    wide (.vwmulLo t vd vs1 vs2) 8 0 (fun a b => a.signExtend 16 * b.signExtend 16) ∧
    wide (.vwmulHi t vd vs1 vs2) 8 1 (fun a b => a.signExtend 16 * b.signExtend 16) ∧
    wide (.vwmul16Lo t vd vs1 vs2) 16 0 (fun a b => a.signExtend 32 * b.signExtend 32) ∧
    wide (.vwmul16Hi t vd vs1 vs2) 16 1 (fun a b => a.signExtend 32 * b.signExtend 32) ∧
    (∀ lanes : Fin 4, lanes = 1 ∨ lanes = 2 → let f := if lanes = 1 then bf16 else fp16
      let prod (a b : Nat) : Nat := encodeF fp32 .rne ((decodeF f a).mul (decodeF f b))
      wide (.vwfmulLo t vd vs1 vs2 lanes) 16 0 (fun a b => num _ (prod a.toNat b.toNat)) ∧
      wide (.vwfmulHi t vd vs1 vs2 lanes) 16 1 (fun a b => num _ (prod a.toNat b.toNat)) ∧
      dot (.vdot2F16 t vd vs1 vs2 lanes) (fun a b c =>
        num _ (add c.toNat (add (prod (part 16 a 0) (part 16 b 0)) (prod (part 16 a 1) (part 16 b 1)))))) ∧
    (∀ lanes : Fin 4, lanes = 0 ∨ lanes = 3 → exec (.vwfmulLo t vd vs1 vs2 lanes) s = illegalOp ∧
      exec (.vwfmulHi t vd vs1 vs2 lanes) s = illegalOp ∧ exec (.vdot2F16 t vd vs1 vs2 lanes) s = illegalOp) ∧
    dot (.vdot4I8 t vd vs1 vs2) (fun a b c =>
      let x (v : BitVec 32) (j : Nat) : BitVec 32 := (BitVec.ofNat 8 (part 8 v j)).signExtend 32
      c + x a 0 * x b 0 + x a 1 * x b 1 + x a 2 * x b 2 + x a 3 * x b 3) ∧
    (∀ lanes : Fin 4, let f := if lanes = 0 then e4m3 else e5m2
      let prod (a b : BitVec 32) (j : Nat) : Nat := encodeF fp32 .rne ((decodeF f (part 8 a j)).mul (decodeF f (part 8 b j)))
      (lanes.val ≤ 1 → dot (.vdot4F8 t vd vs1 vs2 lanes) (fun a b c =>
        num _ (add c.toNat (add (add (prod a b 0) (prod a b 1)) (add (prod a b 2) (prod a b 3)))))) ∧
      (1 < lanes.val → exec (.vdot4F8 t vd vs1 vs2 lanes) s = illegalOp)) ∧
    exec (.vzero t vd) s = out ⟨0, 0⟩ ∧ exec (.vcopy t vd vs1) s = out (vr vs1) ∧
    (∀ (rs : RIdx) (x : Reg), th.g rs = x → x.tag ∈ [Tag.int, .flt, .bool, .handle, .fmt, .seq, .poison] →
      let p := decide (x.tag = .poison)
      (∃ v, exec (.vbcastD t vd rs) s = out v ∧ ∀ j, j < 64 → bad v j = p ∧ lane 64 v j = if p then 0 else x.val) ∧
      (∃ v, exec (.vbcastW t vd rs) s = out v ∧ (∀ j, j < 64 → bad v j = p) ∧
        ∀ k, k < 128 → lane 32 v k = if p then 0 else x.val.setWidth 32) ∧
      (∀ (rs2 : RIdx) (i : Word), Holds th rs2 i .int →
        (i.toNat < 128 → ∃ v, exec (.vinsW t vd rs rs2) s = out v ∧
          (∀ j, j < 64 → bad v j = (bad (vr vd) j || decide (j = i.toNat / 2) && p)) ∧
          ∀ k, k < 128 → lane 32 v k = if k / 2 = i.toNat / 2 ∧ bad v (k / 2) = true then 0
            else if k = i.toNat then x.val.setWidth 32 else lane 32 (vr vd) k) ∧
        (i.toNat < 64 → ∃ v, exec (.vinsD t vd rs rs2) s = out v ∧
          ∀ j, j < 64 → bad v j = (if j = i.toNat then p else bad (vr vd) j) ∧
            lane 64 v j = if j = i.toNat then (if p then 0 else x.val) else lane 64 (vr vd) j) ∧
        (128 ≤ i.toNat → exec (.vinsW t vd rs rs2) s = illegalOp) ∧ (64 ≤ i.toNat → exec (.vinsD t vd rs rs2) s = illegalOp))) ∧
    (∀ (rd rs2 : RIdx) (i : Word), Holds th rs2 i .int →
      let word (j : Nat) : Reg := if bad (vr vs1) j then ⟨0, .poison⟩ else ⟨lane 64 (vr vs1) j, .int⟩
      (i.toNat < 128 → exec (.vextW t rd vs1 rs2) s = .next (done t 4 s1 (th.write rd
        (if bad (vr vs1) (i.toNat / 2) then ⟨0, .poison⟩ else ⟨(lane 32 (vr vs1) i.toNat).setWidth 64, .int⟩)))) ∧
      (i.toNat < 64 → exec (.vextD t rd vs1 rs2) s = .next (done t 4 s1 (th.write rd (word i.toNat)))) ∧
      (128 ≤ i.toNat → exec (.vextW t rd vs1 rs2) s = illegalOp) ∧ (64 ≤ i.toNat → exec (.vextD t rd vs1 rs2) s = illegalOp) ∧
      (rd.val % 2 = 0 → i.toNat < 32 → exec (.vmovl t rd vs1 rs2) s =
        .next (done t 4 s1 (th.writePair rd ⟨word (2 * i.toNat), word (2 * i.toNat + 1)⟩))) ∧
      (∀ rs : RIdx, rs.val % 2 = 0 → i.toNat < 32 → (th.pair rs).a.tag ∈ [Tag.int, .flt, .poison] →
        (th.pair rs).b.tag ∈ [Tag.int, .flt, .poison] →
        let src (j : Nat) : Reg := if j % 2 = 0 then (th.pair rs).a else (th.pair rs).b
        ∃ v, exec (.vmovs t vd rs rs2) s = out v ∧ ∀ j, j < 64 →
          bad v j = (if j / 2 = i.toNat then decide ((src j).tag = .poison) else bad (vr vd) j) ∧
          lane 64 v j = if j / 2 = i.toNat then (if (src j).tag = .poison then 0 else (src j).val) else lane 64 (vr vd) j) ∧
      (rd.val % 2 = 1 ∨ 32 ≤ i.toNat → exec (.vmovl t rd vs1 rs2) s = illegalOp))) ∧
  (∀ (t : Tid) (vd : RIdx) (s s1 : State), Fetches t 4 false s s1 → (s1.core t.core).lv ≠ .powered →
    ∃ u, exec (.vzero t vd) s = .next u ∧ (u.core t.core).lv = .waking ∧ (u.th t).status = .waiting .lvWake ∧
      (u.th t).pc = (s1.th t).pc ∧ (u.th t).vregs = (s1.th t).vregs ∧ (u.th t).regs = (s1.th t).regs ∧
      ∀ c, c ≠ t.core → u.core c = s1.core c) ∧
  (∀ (c : CoreId) (s : State),
    ((s.core c).lv = .waking → ∃ u, exec (.lvWakeComplete c) s = .next u ∧ u.core c = { s.core c with lv := .powered } ∧
      (∀ x, x ≠ c → u.core x = s.core x) ∧
      ∀ t : Tid, u.th t = if t.core = c ∧ (s.th t).status = .waiting .lvWake then { s.th t with status := .active, waitsWith := none }
        else s.th t) ∧
    ((s.core c).lv ≠ .waking → exec (.lvWakeComplete c) s = .next s) ∧
    ((s.core c).lv = .powered → vecAssigned s c = false → (∀ t : Tid, t.core = c → (s.th t).status ≠ .waiting .lvWake) →
      exec (.lvPowerDown c) s = .next (s.setCore c { s.core c with lv := .down })) ∧
    ((s.core c).lv ≠ .powered ∨ vecAssigned s c = true → exec (.lvPowerDown c) s = .next s))

/-- R154, R155: the vector loads and stores. -/
def Obligations.VectorLoadsAndStores : Prop :=
  ∀ (t : Tid) (vd : RIdx) (cs : PIdx) (m : VMForm) (s s1 s2 : State), Fetches t (lenOf m.isExt) m.isExt s s1 →
    (s1.core t.core).lv = .powered →
    let th := s1.th t
    let c := (th.cap cs).toCap
    let a := vmAddr th cs m 0
    let r := th.g (vmCount m)
    let n := r.val.toNat
    let h := (s2.th t)
    let v := th.vregs[vd.val]
    let low : List PByte := (List.range n).map (fun k => (v.bits.toNat / 256 ^ k % 256, v.poison.toNat.testBit (k / 8)))
    let rx : Prop := match m with | .short x _ => (th.g x).tag = .int | .ext _ _ => True
    r.tag = .int →
    ((th.cap cs).isUnsealed = true → rx → 1 ≤ n → n ≤ 512 →
      (∀ bs : List PByte, demandBytes t c a n (begun t s1) = .ok bs s2 → ∃ w : VReg,
        (∀ j, j < 64 → w.poison.toNat.testBit j = (slice bs (8 * j) 8).any (fun b => b.2)) ∧
        (∀ k, k < 512 → w.bits.toNat / 256 ^ k % 256 = if w.poison.toNat.testBit (k / 8) then 0 else (bs.getD k (0, false)).1 % 256) ∧
        (Allowed th c 1 a n 64 →
          exec (.vldA t vd cs m) s = .next (done t (lenOf m.isExt) s2 { h with vregs := h.vregs.set vd.val w })) ∧
        (Allowed th c 1 a n 1 →
          exec (.vldU t vd cs m) s = .next (done t (lenOf m.isExt) s2 { h with vregs := h.vregs.set vd.val w }))) ∧
      (Stores t c.space a low false (begun t s1) s2 →
        (Allowed th c 2 a n 64 → exec (.vstA t vd cs m) s = .next (done t (lenOf m.isExt) s2 h)) ∧
        (Allowed th c 2 a n 1 → exec (.vstU t vd cs m) s = .next (done t (lenOf m.isExt) s2 h)))) ∧
    (n = 0 ∨ 512 < n → ∀ i ∈ [Instr.vldA t vd cs m, .vldU t vd cs m, .vstA t vd cs m, .vstU t vd cs m],
      exec i s = .next (trapped t 12 0x60 0 m.isExt s1))

/-- R157 to R163: one block of a VR instruction, from PROG on; that VSMAX.MAX keeps its maximum in lane 127 is the
model's choice (log entry 174). -/
def Obligations.VectorReductions : Prop :=
  ∀ (t : Tid) (vd : RIdx) (cs : PIdx) (m : VMForm) (fmt : BitVec 4) (s s1 : State), Fetches t (lenOf m.isExt) m.isExt s s1 →
    (s1.core t.core).lv = .powered →
    let th := s1.th t
    let c := (th.cap cs).toCap
    let a := vmAddr th cs m 0
    let r := th.g (vmCount m)
    let n := r.val.toNat
    let i0 := th.iter.toNat
    let k := min 128 (n - i0)
    let e := [4, 2, 2, 1, 1].getD fmt.toNat 1
    let f := [fp32, bf16, fp16, e4m3, e5m2].getD fmt.toNat fp32
    let rx : Prop := match m with | .short x _ => (th.g x).tag = .int | .ext _ _ => True
    let trap (v d : Nat) : Host.Outcome State Fault Refusal := .next (takeTrap t ⟨v, d, 0, false, m.isExt, false, false⟩ s1)
    let clear (sa : State) : Prop :=
      let start (x : State) : State :=
        let h := x.th t
        let v0 := (List.range 16).foldl (fun (v : VReg) j => v.setWord j (0, false)) h.vregs[vd.val]
        x.setTh t { h with vregs := h.vregs.set vd.val (v0.setLane32 127 (0, false)) }
      (i0 = 0 → n = 0 → sa = start s1) ∧ (i0 ≠ 0 → sa = s1) ∧
      (i0 = 0 → n ≠ 0 → ∃ ps sx, xlateAll t c.space .read (pieces 8 a (e * min 128 n)) s1 = .ok ps sx ∧ sa = start sx)
    let ends (i : Option Nat → Instr) (u : State) (mid fin : VReg) : Prop :=
      let h := u.th t
      (i0 + k = n → ∀ lim ∈ [none, some 1], exec (i lim) s = .next (done t (lenOf m.isExt) u { h with vregs := h.vregs.set vd.val fin })) ∧
      (i0 + k < n → ∃ w, exec (i (some 1)) s = .next w ∧ (w.th t).pc = th.pc ∧ (w.th t).iter.toNat = i0 + 128 ∧
        (w.th t).vregs = h.vregs.set vd.val mid ∧ (w.th t).regs = h.regs ∧ w.slc = u.slc ∧ w.hbm = u.hbm)
    r.tag = .int → n < 2 ^ 32 → (th.cap cs).isUnsealed = true → rx →
    (fmt.toNat ≤ 4 → i0 % 128 = 0 → i0 ≤ n →
      (∀ (store : Bool) (sa s2 : State) (bs : List PByte), clear sa →
        (0 < k → Allowed th c (if store then 3 else 1) (a + i0 * e) (k * e) e) → loadBytes t c.space (a + i0 * e) (k * e) sa = .ok bs s2 →
        let code (b : List PByte) : Nat := if fmt = 0 then bytesVal b else fCvt f fp32 .rne (bytesVal b)
        let xs : List PLane := (List.range k).map (fun j => let b := slice bs (j * e) e
          (code b, b.any (fun y => y.2)))
        let v := (s2.th t).vregs[vd.val]
        let pm := v.lane32 124
        let ps := v.lane32 125
        let pt := v.lane32 126
        let sum (i : Option Nat → Instr) (terms : List PLane) : Prop :=
          let mid := if k = 0 then v else combineAt (i0 / 128) 32 0 v (blockSum terms)
          ends i s2 mid (mid.setLane32 127 (foldLevels ((n + 127) / 128) mid))
        let ex (x : Nat) : Nat := fexp (fSub fp32 .rne x pm.1)
        (store = false →
          sum (.vnormSum t vd cs m fmt) xs ∧
          sum (.vnormSsq t vd cs m fmt) (xs.map (fun x => (fMul fp32 .rne x.1 x.1, x.2))) ∧
          sum (.vsmaxSum t vd cs m fmt) (xs.map (fun x => (ex x.1, x.2 || pm.2)))) ∧
        (store = false →
          let w := if k = 0 then (if n = 0 then v.setLane32 127 (0xFF800000, false) else v) else
            v.setLane32 127 (xs.foldl (fun (y x : PLane) => (fMax fp32 y.1 x.1, y.2 || x.2))
              (if i0 = 0 then (0xFF800000, false) else v.lane32 127))
          ends (.vsmaxMax t vd cs m fmt) s2 w w) ∧
        (store = true → ∀ (out : List PByte) (s3 s4 : State), Stores t c.space (a + i0 * e) out false s3 s4 → 0 < k →
          let into (i : Option Nat → Instr) (bad : Bool) (g : Nat → Nat → Machine.Num) : Prop :=
            let ys := ((List.range k).zip xs).map (fun x => ((x.2.1, x.2.2 || bad), g (i0 + x.1) x.2.1))
            let exact : List PByte := ys.flatMap (fun y =>
              (List.range e).map (fun j => (if y.1.2 then 0 else encodeF f .rne y.2 / 256 ^ j % 256, y.1.2)))
            (fmt ≠ 3 → out = exact → s3 = s2 → ends i s4 v v) ∧ (fmt = 3 → vrMapped 3 1 ys s2 = .ok out s3 → ends i s4 v v)
          into (.vnormScale t vd cs m fmt) pm.2 (fun _ x => (decodeF fp32 x).mul (decodeF fp32 pm.1)) ∧
          into (.vsmaxNorm t vd cs m fmt) (pm.2 || ps.2) (fun _ x => decodeF fp32 (fDiv fp32 .rne (ex x) ps.1)) ∧
          into (.vlossGrad t vd cs m fmt) (pm.2 || ps.2 || pt.2) (fun j x =>
            decodeF fp32 (fSub fp32 .rne (fDiv fp32 .rne (ex x) ps.1) (if j = pt.1 then 0x3F800000 else 0)))) ∧
        (store = true → k = 0 → ∀ i ∈ [Instr.vnormScale t vd cs m fmt, .vsmaxNorm t vd cs m fmt, .vlossGrad t vd cs m fmt],
          ends i s2 v v)) ∧
      (let v := th.vregs[vd.val]
       let ti := v.lane32 126
       (∀ (bs : List PByte) (s2 : State), ti.1 < n → Allowed th c 1 (a + ti.1 * e) e e → a % e = 0 →
        loadBytes t c.space (a + ti.1 * e) e s1 = .ok bs s2 →
        let x := if fmt = 0 then bytesVal bs else fCvt f fp32 .rne (bytesVal bs)
        let v1 := if i0 = 0 then ((List.range 16).foldl (fun (w : VReg) j => w.setWord j (0, false)) v).setLane32 127 (0, false) else v
        let y := fSub fp32 .rne (fAdd fp32 .rne (fln (v.lane32 125).1) (v.lane32 124).1) x
        let bad := bs.any (fun b => b.2) || (v.lane32 124).2 || (v.lane32 125).2 || ti.2
        exec (.vlossXent t vd cs m fmt) s =
          .next (done t (lenOf m.isExt) s2 { s2.th t with vregs := (s2.th t).vregs.set vd.val (v1.setLane32 127 (y, bad)) })) ∧
       (n ≤ ti.1 → Allowed th c 1 a 0 e → exec (.vlossXent t vd cs m fmt) s = trap 14 2))) ∧
    (fmt.toNat ≤ 4 → i0 % 128 ≠ 0 ∨ n < i0 → ∀ lim, exec (.vnormSum t vd cs m fmt lim) s = trap 12 0x61 ∧
      exec (.vsmaxMax t vd cs m fmt lim) s = trap 12 0x61 ∧ exec (.vlossGrad t vd cs m fmt lim) s = trap 12 0x61 ∧
      exec (.vlossXent t vd cs m fmt) s = trap 12 0x61) ∧
    (4 < fmt.toNat → ∀ lim, exec (.vnormSum t vd cs m fmt lim) s = trap 12 0 ∧ exec (.vsmaxMax t vd cs m fmt lim) s = trap 12 0 ∧
      exec (.vlossXent t vd cs m fmt) s = trap 12 0)

/-- R160: occupancy read from the number of blocks, against the pseudocode with occupancy kept. -/
def Obligations.SummationOrder : Prop :=
  (∀ terms : List PLane, terms.length ≤ 128 →
    (blockSum terms).2 = terms.any (fun x => x.2) ∧
    (blockSum terms).1 = treeOf 7 (terms.map (fun x => x.1) ++ List.replicate (128 - terms.length) 0)) ∧
  ∀ (blocks : List (List PLane)) (v : VReg), blocks.length < 2 ^ 32 → (∀ b ∈ blocks, b.length ≤ 128) →
    (∀ j, j < 16 → v.word j = (0, false)) →
    let levels := (blocks.zip (List.range blocks.length)).foldl (fun (w : VReg) x => combineAt x.2 32 0 w (blockSum x.1)) v
    let r := foldLevels blocks.length levels
    r.2 = blocks.any (fun b => b.any (fun x => x.2)) ∧
    (r.2 = false → r.1 = finishSum none (blocks.foldl (fun l b => carrySum l (blockSum b).1) []))

/-- R65, R66, R314: the issue of an engine command. -/
def Obligations.EngineIssue : Prop :=
  ∀ (t : Tid) (rd : RIdx) (cs : PIdx) (a : CForm),
  let ext := a.isExt
  let started (n : Nat) (x : State) : State := (Tab.get? x.cmds n).elim x (fun c => x.putCmd n { c with phase := .started })
  let blockRows : List (Instr × Nat × Nat × Nat × (Nat → State → State)) := [
    (.update t rd cs a, 0, 0, 0x0809, fun n x => acceptBlock updateSpec n x (fun y c => .ok (updateKeep y c))),
    (.oboe t rd cs a, 0, 1, 0x0809, fun n x => acceptBlock oboeSpec n x oboeRoom),
    (.transpose t rd cs a, 0, 2, 0x0809, fun n x => acceptBlock transposeSpec n x),
    (.gather t rd cs a, 0, 3, 0x0809, fun n x => acceptBlock gatherSpec n x),
    (.sortedGather t rd cs a, 0, 4, 0x0809, fun n x => acceptBlock gatherSpec n x),
    (.zero t rd cs a, 0, 5, 0x0809, fun n x => acceptBlock zeroSpec n x),
    (.reduceAtMemory t rd cs a, 0, 6, 0x0809, fun n x => acceptBlock reduceSpec n x),
    (.pcodeScrub t rd cs a, 0, 16, 0x0809, fun n x => acceptBlock scrubSpec n x),
    (.cuGroup t rd cs a, 1, 0, 0x0A09, acceptCuGroup), (.cuRed t rd cs a, 1, 1, 0x0809, acceptCuRed),
    (.cuBcast t rd cs a, 1, 2, 0x0809, acceptCuBcast), (.cuBrecv t rd cs a, 1, 3, 0x0809, acceptCuBrecv),
    (.cuCheck t rd cs a, 1, 4, 0x0809, acceptCuCheck),
    (.sfBopen t rd cs a, 3, 0, 0x0809, sfAccept sfBopenSpec sfBopen), (.sfBchunk t rd cs a, 3, 1, 0x0809, sfAccept sfBchunkSpec sfBchunk),
    (.sfBclose t rd cs a, 3, 2, 0x0809, sfAccept sfBcloseSpec sfBclose),
    (.sfAttest t rd cs a, 3, 3, 0x0809, sfAccept sfAttestSpec sfAttest), (.sfRotate t rd cs a, 3, 4, 0x0809, sfAccept sfTenSpec sfRotate),
    (.sfErase t rd cs a, 3, 5, 0x0809, sfAccept sfTenSpec (fun x _ c => (eraseKeys x (c.par 136 1), .zero))),
    (.snSet t rd cs a, 4, 0, 0x0809, acceptSnSet), (.snPoint t rd cs a, 4, 1, 0x0809, acceptSnPoint),
    (.snRestore t rd cs a, 4, 2, 0x0809, acceptSnRestore)]
  let plainRows : List (Instr × Nat × Nat × Nat × (Nat → State → State)) := [
    (.geFetch t rd cs a, 2, 1, 0x0B01, acceptFetch), (.geRelease t rd cs a, 2, 2, 0x0901, acceptRelease)]
  let sched : Instr × Nat × Nat × Nat × (Nat → State → State) := (.geSched t rd cs a, 2, 0, 0x0901, acceptSched)
  let set : Instr × Nat × Nat × Nat × (Nat → State → State) := (.pgSet t rd cs a, 2, 16, 0x0902, started)
  (∀ (s s1 : State), Fetches t (lenOf ext) ext s s1 →
    let th := s1.th t
    let b := begun t s1
    let c := (th.cap cs).toCap
    let arg : Word := match a with | .short ra => (th.g ra).val | .ext imm => imm.signExtend 64
    let x := arg.toNat
    let tags : Prop := (th.cap cs).isUnsealed = true ∧ match a with | .short ra => (th.g ra).tag = .int | .ext _ => True
    let issues (row : Instr × Nat × Nat × Nat × (Nat → State → State)) : Prop :=
      let (i, engine, op, _, acc) := row
      let space := if engine = 3 ∨ th.dev = true then 16 else th.tenancy.val
      let ten : Fin 16 := if th.dev then 0 else th.tenancy
      let full : Bool := decide (1024 ≤ (cmdsOf s1 engine space).length) || (engine == 0 &&
        decide (64 ≤ (s1.cmds.filter (fun e => e.2.engine == 0 && e.2.thread / 192 == t.val / 192)).length))
      (full = false → ∀ r, r < 1024 → Tab.get? s1.cmds (engine * 17408 + space * 1024 + r) = none →
        (∀ q, q < r → (Tab.get? s1.cmds (engine * 17408 + space * 1024 + q)).isSome = true) →
        let n := engine * 17408 + space * 1024 + r
        let gen := Tab.getD s1.cmdGen n 0 + 1
        ∃ k : Cmd, k.gen = gen ∧ k.engine = engine ∧ k.op = op ∧ k.space = space ∧ k.tenancy = ten ∧ k.dev = th.dev ∧
          k.level = th.level.val ∧ k.thread = t.val ∧ k.task = creatorKey s1 t ∧ k.epoch = th.epoch ∧ k.seq = s1.cmdSeq ∧
          k.cs = th.cap cs ∧ k.arg = arg ∧ k.block = [] ∧ k.slots = [] ∧ k.entries = [] ∧ k.phase = .accepting ∧
          let s2 := syncLive { b with cmds := Tab.put b.cmds n k, cmdGen := Tab.put b.cmdGen n gen, cmdSeq := b.cmdSeq + 1 } space
          let s3 := acc n (s2.setTh t ((s2.th t).write rd ⟨handleWord 6 ten.val th.dev gen n, .handle⟩))
          exec i s = .next (done t (lenOf ext) s3 (s3.th t))) ∧
      (full = true → ∃ u, exec i s = .next u ∧ (u.th t).status = .waiting .engineQueue ∧
        (u.th t).waitsWith = some (.engine (engine * 4096 + op) rd cs a) ∧ (u.th t).pc = th.pc ∧ (u.th t).regs = th.regs ∧
        u.cmds = s1.cmds)
    tags →
    (∀ row ∈ blockRows, Allowed th c row.2.2.2.1 ((c.base + x) % 2 ^ 64) 256 256 → issues row) ∧
    (∀ row ∈ plainRows, Auth th cs row.2.2.2.1 → issues row) ∧
    (0 < x → Allowed th c 0x0901 c.base (64 * x) 1 → issues sched) ∧ (x = 0 → Auth th cs 0x0901 → issues sched) ∧
    (Auth th cs (if x / 2 ^ 61 = 2 then 0x0B02 else 0x0902) → issues set)) ∧
  (∀ (s : State) (engine op : Nat), (s.th t).status = .waiting .engineQueue →
    (s.th t).waitsWith = some (.engine (engine * 4096 + op) rd cs a) →
    ∀ row ∈ blockRows ++ plainRows ++ [sched, set], row.2.1 = engine → row.2.2.1 = op →
      exec (.engineQueueEnqueue t) s = exec row.1 (s.setTh t { s.th t with status := .active, waitsWith := none }))

/-- R252, R264 to R269: what the gather engine does with its commands. -/
def Obligations.GatherSchedules : Prop :=
  ∀ (i : Nat) (s : State) (c : Cmd), Tab.get? s.cmds i = some c →
    let k := c.cs.toCap
    let x := c.arg.toNat
    let ends (y : State) (status reason entry page : Nat) : State := finishWith y i ⟨status, reason, entry, 0, page⟩
    (∀ (y : State) (l epa e : Nat), walk s k.space k.base = (y, .leaf l epa e) →
      (x / 256 % 2 ^ 24 = 0 → 0 < k.length → k.length % 2 ^ levelShift l = 0 → acceptFetch i s = y.putCmd i
        { c with phase := .started, entries := [⟨k.base, k.length / 2 ^ levelShift l, x / 2 ^ 32, x % 256, 0, 0, 0, 0, true⟩] }) ∧
      (x / 256 % 2 ^ 24 ≠ 0 ∨ k.length = 0 ∨ k.length % 2 ^ levelShift l ≠ 0 → acceptFetch i s = ends y 5 0 0xFFFF 0)) ∧
    (x = 0 ∨ 4096 < x ∨ k.base % 64 ≠ 0 → acceptSched i s = ends s 5 0 0xFFFF 0) ∧
    (∀ (y : State) (es : List GEntry), 1 ≤ x → x ≤ 4096 → k.base % 64 = 0 →
      readSched k.space i (c.ep s) k.base (List.range x) s = (y, .entries es) →
      acceptSched i s = y.putCmd i { c with entries := es, phase := .started }) ∧
    (x ≠ 0 ∨ k.base % 65536 ≠ 0 ∨ k.length % 65536 ≠ 0 → acceptRelease i s = ends s 5 0 0xFFFF 0) ∧
    (c.engine = 2 → c.phase = .started → ∀ (j : Nat) (g : GEntry), c.entries[j]? = some g → g.state = 0 →
      (∀ p, p < j → ∀ q, c.entries[p]? = some q → q.state ≠ 0) →
      let ten := if k.space.val = 16 then 0 else k.space.val
      let ref (y : State) (w : Word) := taskRef y ten (k.space.val == 16) w
      ∀ (y : State) (l epa e : Nat), walk s k.space g.va = (y, .leaf l epa e) →
        let size := 2 ^ levelShift l
        let good : Bool := g.ok && decide (g.flags / 64 % 4 = 0) && decide (g.flags / 2 % 4 ≠ 3) && decide (0 < g.pages) &&
          decide (g.va % size = 0) && decide (g.va + g.pages * size ≤ 2 ^ 52) && decide (ref y g.start ≠ .never) &&
          decide (ref y g.release ≠ .never) &&
          (!g.flags.testBit 0 || decide (g.rows ≠ 0 ∧ g.pages * size / 2 ^ (g.flags / 2 % 4) % g.rows = 0))
        (good = false → exec (.gatherEntryStart i) s = .next (ends y 5 0 j 0)) ∧
        (good = true → ∀ slot, ref y g.start = .live slot false → exec (.gatherEntryStart i) s = .next s) ∧
        (good = true → (∀ slot, ref y g.start ≠ .live slot false) → ∀ (z : State) (ps : List (Nat × Nat × Nat)),
          remotePages k.space l g.va (List.range g.pages) y = (z, .ok ps) →
          let bound (p : Nat × Nat × Nat) := shadowOf z k.space (p.1 / 65536) p.2.2
          let layout := if g.flags.testBit 0 then some (g.va / 65536, g.pages, g.rows, 2 ^ (g.flags / 2 % 4)) else none
          (∀ p ∈ ps, ∀ b, bound p = some b → b.layout = layout) →
          let new := (ps.filter (fun p => (bound p).isNone)).length
          (shadowFits z k.space new (new * levelUnits l) = false → exec (.gatherEntryStart i) s = .next s) ∧
          (shadowFits z k.space new (new * levelUnits l) = true → ∀ u : State,
            let hs : List ShadowHolder := match ref y g.release with | .live r _ => [.entry c.seq j (some r)] | .ended => [] | _ => [.entry c.seq j none]
            bindPages k.space l (if g.flags.testBit 3 then 1 + g.flags / 16 % 4 else 0) hs layout ps 0 z = .ok u →
            exec (.gatherEntryStart i) s = .next (u.putCmd i { c with entries := c.entries.set j { g with state := 1, level := l } })))) ∧
    (c.engine = 2 → ∀ (j : Nat) (g : GEntry), c.entries[j]? = some g →
      let outstanding := s.shadows.any (fun b => b.space == k.space.val && !b.filled && decide (g.va ≤ b.page * 65536) &&
        decide (b.page * 65536 < g.va + g.pages * 2 ^ levelShift g.level))
      let es := c.entries.set j { g with state := 2 }
      let y := s.putCmd i { c with entries := es }
      (g.state ≠ 1 ∨ outstanding = true → exec (.gatherEntryFilled i j) s = .next s) ∧
      (g.state = 1 → outstanding = false → (∃ q ∈ es, q.state ≠ 2) → exec (.gatherEntryFilled i j) s = .next y) ∧
      (g.state = 1 → outstanding = false → (∀ q ∈ es, q.state = 2) →
        exec (.gatherEntryFilled i j) s = .next (dropShadows (ends y 0 0 0xFFFF 0)))) ∧
    (c.engine = 2 → c.op = 16 →
      let op := x / 2 ^ 61
      let size := x / 2 ^ 50 % 4
      let bytes := 2 ^ [16, 21, 30, 30].getD size 30
      (size = 3 ∨ x / 2 ^ 48 % 4 ≠ 0 ∨ 4 < op ∨ (op = 4 ∧ c.level ≠ 2) ∨ k.base % bytes ≠ 0 ∨ k.length % bytes ≠ 0 →
        exec (.pgSetComplete i) s = .next (ends s 5 0 0xFFFF 0)) ∧
      (∀ st, pgSet s k.space k.base k.length (setArgOf x) (c.level == 2) = .error st →
        exec (.pgSetComplete i) s = .next (ends s st 0 0xFFFF 0)) ∧
      (∀ y, pgSet s k.space k.base k.length (setArgOf x) (c.level == 2) = .ok y →
        (rangeHeld s k.space.val k.base k.length = true → exec (.pgSetComplete i) s = .next s) ∧
        (rangeHeld s k.space.val k.base k.length = false → exec (.pgSetComplete i) s = .next (ends y 0 0 0xFFFF 0))))

/-- R254, R259, R260, R263: the ends of fills and fetches, and the serving of reads. -/
def Obligations.RemotePages : Prop :=
  ∀ s : State,
    (∀ (sp : Fin 17) (page : Nat) (f : Fill), s.fills.find? (fun g => g.space == sp.val && g.page == page) = some f →
      ∀ (w : State) (level epa e : Nat), walk s (spaceOf f.space) (f.page * 65536) = (w, .leaf level epa e) →
        let w1 := { w with fills := w.fills.erase f }
        let units := (if level = 1 then 16384 else if level = 2 then 32 else 1) * (if e.testBit 61 then 2 else 1)
        let e1 := e % 2 ^ 61 / 2 ^ 48 * 2 ^ 48 + (f.frame % 2 ^ 32) * 2 ^ 16 + e % 2 ^ 16 / 8 * 8 + 2 + (e / 2 ^ 61 % 2) * 2 ^ 61 +
          (w1.sp (spaceOf f.space)).keyEpoch % 4 * 2 ^ 62
        (e < 2 ^ 64 → e % 8 = 3 → exec (.touchFillComplete sp page) s =
          .next (wakeOn (writeWord (zeroPhys w1 (f.frame * 65536) (units * 65536)) f.space epa e1) (.pageFill f.space f.page))) ∧
        (e % 8 ≠ 3 → exec (.touchFillComplete sp page) s = .next (wakeOn w1 (.pageFill f.space f.page)))) ∧
    (∀ (sp : Fin 17) (page : Nat), (∀ f ∈ s.fills, ¬ (f.space = sp.val ∧ f.page = page)) → exec (.touchFillComplete sp page) s = .next s) ∧
    (∀ (sp : Fin 17) (page : Nat) (x : Shadow), s.shadows.find? (fun y => y.space == sp.val && y.page == page && !y.filled) = some x →
      exec (.remoteFetchTimeout sp page) s = .next (fetchFailed s x 10) ∧
      (x.layout = none → x.got = [(0, levelUnits x.level * 65536)] → exec (.remoteFetchFilled sp page) s =
        .next (retryAccepting (wakeRemote { s with shadows := s.shadows.map (fun y =>
          if y = x then { y with filled := true, keyEpoch := (s.sp (spaceOf y.space)).keyEpoch % 4 } else y) } x.space x.page))) ∧
      (x.layout = none → x.got ≠ [(0, levelUnits x.level * 65536)] → exec (.remoteFetchFilled sp page) s = .next (retryAccepting s))) ∧
    ((∀ e ∈ s.cmds, e.2.phase ≠ .accepting) → retryAccepting s = s) ∧
    (∀ (sp : Fin 17) (page : Nat), (∀ y ∈ s.shadows, y.space = sp.val → y.page = page → y.filled = true) →
      exec (.remoteFetchTimeout sp page) s = .next s ∧ exec (.remoteFetchFilled sp page) s = .next s) ∧
    (∀ (x : Shadow) (t : Tid) (a reason : Nat), s.cmds = [] → (s.th t).status = .waiting (.remote x.space x.page a) → reason < 16 →
      (∀ t' b, t' ≠ t → (s.th t').status ≠ .waiting (.remote x.space x.page b)) → x.level < 4 →
      fetchFailed s x reason = takeTrap t ⟨6, reason * 2 ^ 20 + x.level * 2 ^ 18, a, (s.th t).stopPfx, (s.th t).stopExt, false, false⟩
        (syncHeld (freeFramesOf { s with shadows := s.shadows.erase x } (spaceOf x.space) x.frame (levelUnits x.level)) (spaceOf x.space))) ∧
    (∀ (node job frame off len data poison : Nat),
      let hit := s.shadows.filter (fun x => x.node == node && x.rframe == frame && jobOf s x.space == job && !x.filled)
      (hit = [] → ∀ served, exec (.readRsp node job frame off len served data poison) s = .next s) ∧
      (∀ x, hit = [x] →
        exec (.readRsp node job frame off len false data poison) s = .next (fetchFailed s x 9) ∧
        (levelUnits x.level * 65536 < off + len → exec (.readRsp node job frame off len true data poison) s = .next s) ∧
        (off + len ≤ levelUnits x.level * 65536 → x.layout = none →
          let bs : List PByte := (List.range len).map (fun j => (data / 256 ^ j % 256, poison.testBit (j / 8)))
          let s1 := writePhys (windowAt s x.space (x.page * 65536 + off)) (len + 1) (x.frame * 65536 + off) bs s
          let s2 := { s1 with shadows := s1.shadows.map (fun y => if y = x then { y with got := runsAdd off len y.got } else y) }
          (poison = 0 → exec (.readRsp node job frame off len true data poison) s = .next s2) ∧
          (poison ≠ 0 → exec (.readRsp node job frame off len true data poison) s = .next (haltGathers s2 x))))) ∧
    (∀ (src job frame off len : Nat),
      let serves (n : Nat) : Prop := job ≠ 0xFFFF ∧ s.ten n 0xC080 3 = job ∧ (s.tstate n = tsRunning ∨ s.tstate n = tsDraining)
      let answer (y : State) (ok : Bool) (bs : List PByte) : Host.Outcome State Fault Refusal :=
        .next ((Config.readRspCode frame off len ok (bytesVal bs) (wordMarks 0 bs)).foldl (fun st p => st.send src 2 0 job p.2.1 p.1 p.2.2) y)
      ((∀ n, n < 16 → ¬ serves n) → exec (.readReq src job frame off len) s = answer s false []) ∧
      (∀ n, n < 16 → serves n → (∀ p, p < n → ¬ serves p) →
        (leafOfFrame s (spaceOf n) (frame * 65536) = none → exec (.readReq src job frame off len) s = answer s false []) ∧
        (∀ l, leafOfFrame s (spaceOf n) (frame * 65536) = some l →
          let size := 2 ^ levelShift l.level
          (l.entry.testBit 55 = false ∨ l.entry.testBit 50 = false ∨ size < off + len →
            exec (.readReq src job frame off len) s = answer s false []) ∧
          (l.entry.testBit 55 = true → l.entry.testBit 50 = true → off + len ≤ size →
            let cur := localPa l.level l.entry 0 false
            let r := readRuns none ⟨n, 1, 16⟩ (runsOf false (len + 3) [⟨l.va, size, cur, cur, false⟩] off len) s
            exec (.readReq src job frame off len) s = answer r.1 true r.2))))

/-- R278 to R309: commands to the slices, the L1 caches and the windows. -/
def Obligations.CacheCommands : Prop :=
  ∀ s : State,
    (∀ (line : Nat) (k : Fin 4),
      (∀ m, Tab.get? s.misses line = some m → m.sectors.testBit k.val = false) → exec (.sectorFill line k) s = .next s) ∧
    (∀ (line : Nat) (k : Fin 4) (m : Miss), Tab.get? s.misses line = some m → m.sectors.testBit k.val = true →
      (m.sectors ≠ 2 ^ k.val → exec (.sectorFill line k) s =
        .next { s with misses := Tab.put s.misses line { m with sectors := m.sectors - 2 ^ k.val, done := Nat.lor m.done (2 ^ k.val) } }) ∧
      (∀ l, m.sectors = 2 ^ k.val → sliceOff s (sliceOf (128 * line)) = false → Tab.get? s.slc line = some l →
        ∃ u d, exec (.sectorFill line k) s = .next u ∧ u.misses = Tab.del s.misses line ∧ u.hbm = s.hbm ∧ u.victims = s.victims ∧
          Tab.get? u.slc line = some d ∧ d.valid = Nat.lor l.valid (Nat.lor m.done (2 ^ k.val)) ∧ d.dirty = l.dirty ∧
          d.data = (archFull s line).data ∧ (∀ x, x ≠ line → Tab.get? u.slc x = Tab.get? s.slc x) ∧
          ∀ x b, b < 128 → (archFull u x).data / 256 ^ b % 256 = (archFull s x).data / 256 ^ b % 256) ∧
      (m.sectors = 2 ^ k.val → sliceOff s (sliceOf (128 * line)) = true →
        exec (.sectorFill line k) s = .next { s with misses := Tab.del s.misses line })) ∧
    (∀ n : Fin 192,
      ((∀ v ∈ s.victims, sliceOf (128 * v.1) = n.val → v.2.dirty = 0) → exec (.victimWriteback n) s = .next s) ∧
      (∀ v, s.victims.find? (fun v => sliceOf (128 * v.1) == n.val && v.2.dirty != 0) = some v → ∃ u,
        exec (.victimWriteback n) s = .next u ∧ u.slc = s.slc ∧
        u.hbm = (hbmWrite s v.1 v.2.dirty v.2.data v.2.tags v.2.poison).hbm ∧
        u.victims = s.victims.map (fun w => if w = v then (w.1, { w.2 with dirty := 0, valid := 0 }) else w))) ∧
    (∀ (sp : Fin 17) (line : Nat) (op : Fin 3) (fp : Bool) (mask : BitVec 32) (vals : BitVec 1024),
      (fp = true → (sp.val = 16 ∨ s.ten sp.val 0xC020 5 = 0) → exec (.reductionRequest sp line op fp mask vals) s = .next s) ∧
      ((fp = true → sp.val ≠ 16 ∧ s.ten sp.val 0xC020 5 ≠ 0) → sliceOff s (sliceOf (128 * line)) = false → s.slcErrs = [] →
        ∀ l, Tab.get? s.slc line = some l → l.valid = 15 → ∃ u, exec (.reductionRequest sp line op fp mask vals) s = .next u ∧
          ∀ i, i < 32 →
            let old := (archFull s line).data / 2 ^ (32 * i) % 2 ^ 32
            let v := vals.toNat / 2 ^ (32 * i) % 2 ^ 32
            let bad := (archFull s line).poison.testBit (i / 2)
            (archFull u line).poison.testBit (i / 2) = bad ∧
            (archFull u line).data / 2 ^ (32 * i) % 2 ^ 32 = if mask.toNat.testBit i = false then old else if bad then 0
              else if fp then [fAdd fp32 .rne old v, fMin fp32 old v, fMax fp32 old v].getD op.val 0
              else [(old + v) % 2 ^ 32, if sext 32 old ≤ sext 32 v then old else v, if sext 32 old ≤ sext 32 v then v else old].getD op.val 0)) ∧
    (∀ (l1 : Bool) (n : BitVec 8),
      let limit := if l1 then 48 else 192
      let running : Prop := ∃ t, t < 16 ∧ s.tstate t = tsRunning
      (∀ all, running ∨ (all = false ∧ limit ≤ n.toNat) → exec (.disable l1 all n) s = .next s ∧ exec (.enable l1 all n) s = .next s ∧
        exec (.enableInv l1 all n) s = .next s) ∧
      (¬ running →
        exec (.disable l1 true n) s = .next ((List.range limit).foldl (fun x k => disableCache l1 x k) s) ∧
        exec (.enable l1 true n) s = .next ((List.range limit).foldl (fun x k => enableCache l1 false x k) s) ∧
        exec (.enableInv l1 true n) s = .next ((List.range limit).foldl (fun x k => enableCache l1 true x k) s))) ∧
    (¬ (∃ t, t < 16 ∧ s.tstate t = tsRunning) →
      (∀ n : BitVec 8, n.toNat < 192 →
        (sliceOff s n.toNat = true → exec (.disable false false n) s = .next s ∧
          (∃ u, exec (.enable false false n) s = .next u ∧ sliceOff u n.toNat = false ∧ u.slc = s.slc) ∧
          (∃ u, exec (.enableInv false false n) s = .next u ∧ sliceOff u n.toNat = false ∧
            u.slc = s.slc.filter (fun e => sliceOf (128 * e.1) != n.toNat))) ∧
        (sliceOff s n.toNat = false → exec (.enable false false n) s = .next s ∧ exec (.enableInv false false n) s = .next s ∧
          ∃ u, exec (.disable false false n) s = .next u ∧ sliceOff u n.toNat = true ∧
            (∀ e ∈ u.slc, sliceOf (128 * e.1) = n.toNat → e.2.dirty = 0) ∧ ∀ v ∈ u.victims, sliceOf (128 * v.1) ≠ n.toNat)) ∧
      (∀ (n : BitVec 8) (c : CoreId), n.toNat = c.val →
        (l1Off s c = true → exec (.disable true false n) s = .next s ∧
          (∃ u, exec (.enable true false n) s = .next u ∧ l1Off u c = false ∧ (u.core c).l1 = (s.core c).l1) ∧
          (∃ u, exec (.enableInv true false n) s = .next u ∧ l1Off u c = false ∧ (u.core c).l1 = [])) ∧
        (l1Off s c = false → Tab.wf (s.core c).l1 = true → exec (.enable true false n) s = .next s ∧
          ∃ u, exec (.disable true false n) s = .next u ∧ l1Off u c = true ∧ ∀ e ∈ (u.core c).l1, e.2.dirty = 0))) ∧
    (∀ (n i : Fin 16) (r : BitVec 256),
      let x := r.toNat
      (x % 65536 ≠ 0 ∨ x / 2 ^ 64 % 65536 ≠ 0 ∨ 2 ^ 52 < x % 2 ^ 64 + x / 2 ^ 64 % 2 ^ 64 ∨ 12 < x / 2 ^ 136 % 16 →
        exec (.windowWrite n i r) s = .next s) ∧
      (windowOk s n.val i.val x = true → ∃ u, exec (.windowWrite n i r) s = .next u ∧ u.ten n.val 0xC040 i.val = x ∧
        ∀ line l, Tab.get? s.slc line = some l →
          Tab.get? u.slc line = some (if l.cls = 3 ∧ l.space = n.val ∧ l.window = i.val then { l with cls := 2 } else l)))

/-- R317, R319 and the rules of the commands: what completing does. -/
def Obligations.BellowsEffects : Prop :=
  (∀ (i : Nat) (s : State) (c : Cmd), Tab.get? s.cmds i = some c → c.engine = 0 →
    let m (n : Nat) : SlotMap := (c.slots.find? (fun x => x.index == n)).getD ⟨n, 0, 0, 0, false, false, []⟩
    let par (off n : Nat) : Nat := packBits 64 c.block / 256 ^ off % 256 ^ n
    let rd (x : State) (n sz k cnt : Nat) : State × List Elem := readElems x (c.ep x) (m n) (m n).alt sz k cnt
    let ends (x : State) (r : CmdResult) : Host.Outcome State Fault Refusal := .next (finishWith x i r)
    (c.phase = .ended → exec (.bellowsCommandComplete i) s = .next (finishCmd s i)) ∧
    (c.phase = .accepting ∨ c.phase = .held → exec (.bellowsCommandComplete i) s = .next s) ∧
    (c.phase = .started → cmdBlocked s c = true ∨ drainHolds s c = true → exec (.bellowsCommandComplete i) s = .next s) ∧
    (c.phase = .started → cmdBlocked s c = false → drainHolds s c = false →
      (c.op = 5 → exec (.bellowsCommandComplete i) s = ends ((m 0).pieces.foldl (fun x p =>
        let x1 := if par 136 1 = 1 ∨ (m 0).alt = false then zeroPhys x p.cur p.len else x
        if par 136 1 = 1 ∨ (m 0).alt = true then zeroPhys x1 p.alt p.len else x1) s) ⟨0, 0, 0xFF, 0, 0⟩) ∧
      (c.op = 2 → ∀ (s1 : State) (es : List Elem),
        let e := 2 ^ par 136 1
        let rows := par 140 4
        let cols := par 144 4
        rd s 1 e 0 (rows * cols) = (s1, es) → (∀ x ∈ es, x.2 = false) → ∃ out : List Elem, out.length = rows * cols ∧
          (∀ x y, x < cols → y < rows → out[x * rows + y]? = es[y * cols + x]?) ∧
          exec (.bellowsCommandComplete i) s = ends (writeElems s1 (m 0) (m 0).alt e 0 out) ⟨0, 0, 0xFF, 0, 0⟩) ∧
      (c.op = 2 → ∀ (s1 : State) (es : List Elem), rd s 1 (2 ^ par 136 1) 0 (par 140 4 * par 144 4) = (s1, es) → (∃ x ∈ es, x.2 = true) →
        ∃ (pa va : Nat), exec (.bellowsCommandComplete i) s =
          ends (s1.postError c.space 1 2 (sliceOf pa) 0x70 i va) ⟨10, 0, 0xFF, 1, 0⟩) ∧
      (c.op = 3 ∨ c.op = 4 → ∀ (s1 : State) (ix : List Elem), rd s 2 4 0 (par 140 4) = (s1, ix) → (∀ x ∈ ix, x.2 = false) →
        let rb := par 136 4
        ((∃ x ∈ ix, (m 1).len / rb ≤ x.1) → exec (.bellowsCommandComplete i) s = ends s1 ⟨5, 0, 0xFF, 0, 0⟩) ∧
        ((∀ x ∈ ix, x.1 < (m 1).len / rb) →
          let w := windowAt s1 (m 1).space (m 1).base
          let sorted : Prop := c.op = 4 ∨ (w.space < 16 ∧ w.window < 16 ∧ (s1.ten w.space 0xC040 w.window).testBit (8 * 19) = true)
          let step (a : State × List (Nat × List PByte)) (row : Nat) : State × List (Nat × List PByte) :=
            let r := engRead a.1 (c.ep a.1) (m 1) (m 1).alt (row * rb) rb
            (r.1, a.2 ++ [(row, r.2)])
          ∀ order : List Nat, (¬ sorted → order = ix.map (fun x => x.1)) →
            (sorted → order.Pairwise (· < ·) ∧ ∀ row, row ∈ order ↔ ∃ x ∈ ix, x.1 = row) →
          let r := order.foldl step (s1, [])
          let row (x : Elem) : List PByte := ((r.2.find? (fun y => y.1 == x.1)).map (fun y => y.2)).getD []
          (∀ y ∈ r.2, ∀ b ∈ y.2, b.2 = false) →
            exec (.bellowsCommandComplete i) s = ends (engWrite r.1 (m 0) (m 0).alt 0 (ix.map row).flatten) ⟨0, 0, 0xFF, 0, 0⟩)) ∧
      (c.op = 6 → ∀ (s1 s2 : State) (da sa : List Elem),
        let n := (m 0).len / 4
        rd s 0 4 0 n = (s1, da) → rd s1 1 (if par 138 1 = 1 then 2 else 4) 0 n = (s2, sa) →
        let out := (da.zip sa).map (fun x => if x.1.2 || x.2.2 then ((0, true) : Elem) else
          (reduceElem (par 136 1) (par 137 1) x.1.1 (if par 138 1 = 1 then fCvt bf16 fp32 .rne x.2.1 else
            if par 138 1 = 15 then fCvt w22 fp32 .rne (x.2.1 % 2 ^ 22) else x.2.1), false))
        let bad := (out.filter (fun e => e.2)).length
        exec (.bellowsCommandComplete i) s = ends (writeElems s2 (m 0) (m 0).alt 4 0 out) ⟨0, 0, 0xFF, if bad = 0 then 0 else 1, bad⟩) ∧
      (c.op = 1 → ∀ (s1 : State) (xs : List Elem), rd s 2 (if par 144 1 = 0 then 4 else 2) 0 (par 152 4) = (s1, xs) →
        let x32 := xs.map (fun x => if par 144 1 = 0 then x else (fCvt bf16 fp32 .rne x.1, x.2))
        let r := (List.range (par 148 4)).foldl (fun (a : State × Nat) k =>
          let b := oboeRow c x32 k a.1
          (b.1, a.2 + (if b.2 then 1 else 0))) (s1, 0)
        exec (.bellowsCommandComplete i) s = ends r.1 ⟨0, 0, 0xFF, if r.2 = 0 then 0 else 1, r.2⟩) ∧
      (c.op = 0 →
        (∀ x r, runUpdate s i c = (x, some r) → exec (.bellowsCommandComplete i) s = ends x r) ∧
        (∀ x, runUpdate s i c = (x, none) → exec (.bellowsCommandComplete i) s = .next x) ∧
        (par 152 1 ≤ 1 → par 153 1 = 0 → ∀ (s1 : State) (g : List Elem), rd s 5 4 0 ((m 0).len / 4) = (s1, g) → (m 5).alt = false →
          ∃ c1 : Cmd, Tab.get? (updRun s1 i c (some []) 0 (g.map (fun x => (x, par 160 4)))).cmds i = some c1 ∧
            (c1.aux.getD 0 0 = c.aux.getD 0 0 + g.length) ∧
            ((m 0).len / 4 ≤ c1.aux.getD 0 0 → runUpdate s i c =
              (updRun s1 i c (some []) 0 (g.map (fun x => (x, par 160 4))), some ⟨0, 0, 0xFF, c1.aux.getD 2 0, c1.aux.getD 1 0⟩)))) ∧
      (c.op = 16 →
        let hit (a : Nat) : Bool := (m 0).pieces.any (fun p => codePageMeets a (if (m 0).alt then p.alt else p.cur) p.len)
        let r := repairHbm s false hit
        exec (.bellowsCommandComplete i) s = ends (patrolFound s r.1 hit) ⟨0, 0, 0xFF, 0, r.2⟩ ∧
        ((∀ e ∈ r.1.hbmPoison, hit (8 * e.1) = false) → patrolFound s r.1 hit = r.1)))) ∧
  (∀ (i : Nat) (s : State), Tab.get? s.cmds i = none → exec (.bellowsCommandComplete i) s = .next s) ∧
  (∀ (k : Nat → Nat) (x : UpdElem),
    let mul := fMul fp32 .rne
    let add := fAdd fp32 .rne
    let fma := fFma fp32 .rne false false
    let m1 := fma (k 1) x.m (mul (k 2) x.g)
    let v1 := fma (k 3) x.v (mul (k 4) (mul x.g x.g))
    let u := fDiv fp32 .rne (mul m1 (k 8)) (add (fSqrt fp32 .rne (mul v1 (k 9))) (k 5))
    adamw k x = { x with w := fFma fp32 .rne true false (k 0) (fma (k 6) x.w u) x.w, m := m1, v := v1 } ∧
    msgd k x = { x with w := fFma fp32 .rne true false (k 0) (fma (k 6) x.w (fma (k 1) x.m x.g)) x.w, m := fma (k 1) x.m x.g }) ∧
  (let k := [0x3A800000, 0x3F600000, 0x3E000000, 0x3F7E0000, 0x3C000000, 0x322BCC77, 0x3D800000, 0x3F800000, 0x41000000, 0x43000000]
   adamw (fun j => k.getD j 0) ⟨0x3F000000, 0x3F800000, 0, 0, 0⟩ = ⟨0x3F000000, 0x3F7FBC00, 0x3D800000, 0x3B000000, 0⟩)

/-- R39, R64, R133, R258, R346, R347. -/
def Obligations.SweepHeldReserved : Prop :=
  (∀ (n : Fin 17) (page : Nat) (s : State),
    let ep := (s.sp n).keyEpoch % 4
    let waits : Prop := ∃ t : Tid, (s.th t).status = .waiting (.reencrypt n.val page)
    let swept (w : State) (level epa e : Nat) : State :=
      let bytes := 2 ^ levelShift level * (if e.testBit 61 then 2 else 1)
      sweepOne (writeWord (cleanRange w (e / 2 ^ 16 % 2 ^ 32 * 65536) bytes) n.val epa
        (e % 2 ^ 62 + ((cleanRange w (e / 2 ^ 16 % 2 ^ 32 * 65536) bytes).sp n).keyEpoch % 4 * 2 ^ 62)) n
    let stale (w : State) (level e : Nat) : Bool := decide (e % 8 = 2) && decide (e / 2 ^ 62 ≠ (w.sp n).keyEpoch % 4) &&
      !rangeHeld w n.val (page * 65536 / 2 ^ levelShift level * 2 ^ levelShift level) (2 ^ levelShift level)
    (¬ waits → exec (.pageReencrypt n page) s = .next s) ∧
    ((s.sp n).sweeping = false → exec (.keySweepPage n page) s = .next s) ∧
    (∀ w level epa e, walk s n (page * 65536) = (w, .leaf level epa e) → e < 2 ^ 64 →
      let first := page * 65536 / 2 ^ levelShift level * 2 ^ levelShift level / 65536
      let u := if stale w level e then wakeOn (swept w level epa e) (.reencrypt n.val first) else s
      (waits → exec (.pageReencrypt n page) s = .next u) ∧
      ((s.sp n).sweeping = true → (∀ x ∈ s.shadows, ¬ (x.space = n.val ∧ x.page = page)) → exec (.keySweepPage n page) s = .next u)) ∧
    ((s.sp n).sweeping = true → ∀ x, s.shadows.find? (fun y => y.space == n.val && y.page == page) = some x →
      let size := (if x.level = 1 then 16384 else if x.level = 2 then 32 else 1) * 65536
      let s1 := cleanRange s (x.frame * 65536) size
      (x.filled = true → x.keyEpoch ≠ ep → rangeHeld s n.val (x.page * 65536) size = false → exec (.keySweepPage n page) s =
        .next (sweepOne { s1 with shadows := s1.shadows.map (fun y => if y = x then { y with keyEpoch := ep } else y) } n)) ∧
      (x.filled = false ∨ x.keyEpoch = ep ∨ rangeHeld s n.val (x.page * 65536) size = true → exec (.keySweepPage n page) s = .next s)) ∧
    (n.val < 16 → (s.sp n).sweeping = true →
      (sweepOne s n).ten n.val 0xC050 1 = s.ten n.val 0xC050 1 - 1 ∧
      ((sweepOne s n).sp n).sweeping = decide (1 < s.ten n.val 0xC050 1))) ∧
  (∀ (i : Nat) (s : State) (c : Cmd), Tab.get? s.cmds i = some c →
    let outcome := (c.epoch.bind (fun e => Tab.get? s.epochs (64 * c.tenancy.val + e))).elim EpochState.committed (fun x => x.state)
    (c.phase ≠ .held → exec (.heldCommandRelease i) s = .next s) ∧
    (c.phase = .held → outcome = .opened → exec (.heldCommandRelease i) s = .next s) ∧
    (c.phase = .held → outcome = .committed → c.engine ≠ 1 → c.engine ≠ 4 →
      exec (.heldCommandRelease i) s = .next { s with cmds := Tab.put s.cmds i { c with phase := .started, epoch := none } }) ∧
    (c.phase = .held → outcome = .committed → exec (.heldCommandRelease i) s =
      .next (startReleased { s with cmds := Tab.put s.cmds i { c with phase := .started, epoch := none } } i)) ∧
    (c.phase = .held → outcome ≠ .opened → outcome ≠ .committed → c.engine = 0 → exec (.heldCommandRelease i) s =
      .next { s with cmds := Tab.put s.cmds i { c with phase := .ended, result := ⟨10, 0, 0xFF, 0, 0⟩ } })) ∧
  (∀ (t : Tid) (w0 w1 : BitVec 32) (s s1 : State),
    let major := w0.toNat / 2 ^ 25
    let inner := w0.toNat / 2 ^ 18 % 2 ^ 7
    let n := if major = 0x7E then inner else major
    Fetches t (lenOf (major == 0x7E)) (major == 0x7E) s s1 →
    (0x75 ≤ n → exec (.reservedMajor t w0 w1) s = .next (trapped t 11 n 0 (major == 0x7E) s1)) ∧
    (major = 0 ∨ (0x08 ≤ major ∧ major ≤ 0x0F) ∨ (0x13 ≤ major ∧ major ≤ 0x17) ∨ (0x1C ≤ major ∧ major ≤ 0x1F) ∨
      (0x3C ≤ major ∧ major ≤ 0x3F) ∨ major = 0x46 ∨ major = 0x47 ∨ (0x53 ≤ major ∧ major ≤ 0x57) ∨ major = 0x5F ∨ major = 0x63 ∨
      (0x65 ≤ major ∧ major ≤ 0x6D) ∨ (0x70 ≤ major ∧ major ≤ 0x74 ∧ 0x10 < w0.toNat % 2048) ∨ (major = 0x01 ∧ 0x15 < w0.toNat % 1024) ∨
      (major = 0x7E ∧ inner = 0x01) → exec (.reservedMajor t w0 w1) s = .next (trapped t 12 0 0 (major == 0x7E) s1)))

/-- R351 to R354, R361, R366 to R369, R482 to R486, R385: the events of a port. -/
def Obligations.LinkPorts : Prop :=
  ∀ (s : State) (p : Fin 16),
    let x := s.port p
    let st := s.dev 0x4002 p.val % 8
    let up : Prop := st = 2 ∨ st = 3 ∨ st = 4
    let left (u : State) (new : Nat) : Prop :=
      (u.port p).unacked = [] ∧ (u.port p).txKey = none ∧ (u.port p).rxKey = none ∧ (u.port p).kex = none ∧ (u.port p).rxPart = [] ∧
      (u.port p).arrived = x.arrived ∧ (u.port p).departures = (if st = 4 then x.departures + 1 else x.departures) ∧
      u.dev 0x4002 p.val % 8 = (if st = 4 ∧ new = 1 ∧ s.dev 0x4000 6 ≤ x.departures + 1 then 5 else new) ∧
      ∀ q, q ≠ p → u.port q = s.port q
    let group (m : Nat) : Option (Nat × Nat) :=
      if m &&& 0xFFFF = 0xFFFF then some (0xFFFF, 16) else if m &&& 0xFF = 0xFF then some (0xFF, 8)
      else if m &&& 0xFF00 = 0xFF00 then some (0xFF00, 8) else if m &&& 0xF = 0xF then some (0xF, 4)
      else if m &&& 0xF0 = 0xF0 then some (0xF0, 4) else if m &&& 0xF00 = 0xF00 then some (0xF00, 4)
      else if m &&& 0xF000 = 0xF000 then some (0xF000, 4) else none
    (∀ tx rx : BitVec 16,
      (∀ a b, st = 1 → group tx.toNat = some a → group rx.toNat = some b → ∃ u, exec (.portTrained p tx rx) s = .next u ∧
        u.dev 0x4002 p.val % 8 = 2 ∧ u.dev 0x4002 p.val / 2 ^ 8 % 32 = a.2 ∧ u.dev 0x4002 p.val / 2 ^ 16 % 32 = b.2 ∧
        (u.port p).txLanes = a.1 ∧ (u.port p).rxLanes = b.1 ∧ (u.port p).unacked.length = 1 ∧ (u.port p).helloSent = x.helloSent + 1) ∧
      (st ≠ 1 ∨ group tx.toNat = none ∨ group rx.toNat = none → exec (.portTrained p tx rx) s = .next s)) ∧
    (st = 1 → exec (.trainingTimeout p) s = .next (s.setPort p x.relink)) ∧ (st ≠ 1 → exec (.trainingTimeout p) s = .next s) ∧
    (∀ lane : Fin 16,
      (x.rxLanes.testBit lane.val = false ∨ ¬ up → exec (.blockLockLost p lane) s = .next s) ∧
      (x.rxLanes.testBit lane.val = true → up → ∃ u, exec (.blockLockLost p lane) s = .next u ∧ left u 1)) ∧
    (¬ up → exec (.helloTimer p) s = .next s) ∧
    (up → ∃ u body, exec (.helloTimer p) s = .next u ∧ (u.port p).helloSent = x.helloSent + 1 ∧
      (u.port p).unacked = x.unacked ++ [(x.txSeq, mkFlit 2 body)] ∧ (u.port p).txSeq = (x.txSeq + 1) % 4096 ∧
      body % 256 = 1 ∧ body / 256 ^ 2 % 256 = p.val ∧ body / 256 ^ 74 % 2 ^ 32 = (x.helloSent + 1) % 2 ^ 32) ∧
    (∀ body : BitVec 2016,
      let h (off n : Nat) : Nat := body.toNat / 256 ^ off % 256 ^ n
      (¬ up → exec (.hello p body) s = .next s ∧ exec (.keyMsg p body) s = .next s) ∧
      (up → ∃ u, exec (.hello p body) s = .next u ∧ u.dev 0x4003 p.val = body.toNat ∧
        (st = 2 → (h 3 1).testBit 1 = false → h 8 8 = s.dev 0x4000 1 → h 16 8 = s.dev 0x1010 0 →
          u.dev 0x4002 p.val % 8 = 3 ∧ (u.port p).kex.isSome = true) ∧
        (st = 2 → (h 3 1).testBit 1 = false → h 8 8 ≠ s.dev 0x4000 1 ∨ h 16 8 ≠ s.dev 0x1010 0 → u.dev 0x4002 p.val % 8 = 2) ∧
        ((h 3 1).testBit 1 = true → left u 1)) ∧
      (st = 2 → exec (.keyMsg p body) s = .next s) ∧
      (∀ k msg frag n got, st = 3 ∨ st = 4 → x.kex = some k → k.part = some (msg, frag, n, got) → msg = 1 ∨ msg = 2 →
        h 1 1 = msg →
        (h 2 2 = frag → h 4 2 = n → 1 ≤ h 6 2 → h 6 2 ≤ 244 → frag + 1 ≠ n → n ≠ 0 → exec (.keyMsg p body) s =
          .next (s.setPort p { x with kex := some { k with part := some (msg, frag + 1, n,
            ⟨got.len + h 6 2, got.val % 256 ^ got.len + h 8 (h 6 2) * 256 ^ got.len⟩) } })) ∧
        (h 2 2 ≠ frag ∨ h 4 2 ≠ n ∨ h 6 2 = 0 ∨ 244 < h 6 2 → ∃ u, exec (.keyMsg p body) s = .next u ∧
          (u.port p).kexFails = x.kexFails + 1 ∧ left u 1))) ∧
    (let live : Prop := st = 3 ∨ (st = 4 ∧ x.kex.isSome = true)
     (¬ live → exec (.keyingTimeout p) s = .next s) ∧
     (live → ∃ u, exec (.keyingTimeout p) s = .next u ∧ (u.port p).kexFails = x.kexFails + 1 ∧ left u 1)) ∧
    (∀ e : Bool, (∀ k, x.nextRx = some k → (if e then 1 else 0) = x.keyEpoch →
        exec (.keySwitch p e) s = .next (s.setPort p { x with rxKey := some k, nextRx := none, rxCount := 0 })) ∧
      (x.nextRx = none ∨ (if e then 1 else 0) ≠ x.keyEpoch → exec (.keySwitch p e) s = .next s)) ∧
    (∀ c : BitVec 128, exec (.creditSync p c) s =
      .next (s.setPort p { x with credits := (List.range 8).map (fun i => c.toNat / 2 ^ (16 * i) % 2 ^ 16) })) ∧
    (let due : Prop := st = 4 ∧ 2 ^ 39 ≤ x.txCount ∧ x.kex = none
     (¬ due → exec (.rekeyStart p) s = .next s) ∧
     (due → ∃ u k, exec (.rekeyStart p) s = .next u ∧ (u.port p).kex = some k ∧ k.offer.len = 10994 ∧
       (u.port p).unacked.length = x.unacked.length + 46 ∧ u.dev 0x4002 p.val = s.dev 0x4002 p.val)) ∧
    (∀ v : BitVec 32,
      let relabel : Prop := v.toNat.testBit 1 ≠ (s.dev 0x4001 p.val).testBit 1
      let running : Prop := ∃ n, n < 16 ∧ s.tstate n = tsRunning
      (8 ≤ v.toNat ∨ (relabel ∧ running) → exec (.portCtlWrite p v) s = .next s) ∧
      (v.toNat < 8 → ¬ (relabel ∧ running) → ∃ u, exec (.portCtlWrite p v) s = .next u ∧ u.dev 0x4001 p.val = v.toNat ∧
        (v.toNat.testBit 0 = false → u.dev 0x4002 p.val % 8 = 0) ∧
        (v.toNat.testBit 0 = true → v.toNat.testBit 2 = true → u.dev 0x4002 p.val % 8 = 5) ∧
        (v.toNat.testBit 0 = true → v.toNat.testBit 2 = false → st = 0 → (s.dev 0x2005 0).testBit 4 = true → s.clockOn = true →
          u.dev 0x4002 p.val % 8 = 1 ∧ (u.port p).helloSent = 0) ∧
        (v.toNat.testBit 0 = true → v.toNat.testBit 2 = false → st ≠ 0 → u.dev 0x4002 p.val % 8 = st)))

/-- R355 to R360, R363 to R365, R370 to R376: blocks and the router. -/
def Obligations.BlocksAndRoutes : Prop :=
  (∀ (s : State) (p : Fin 16) (hdr : BitVec 40) (f0 f1 f2 f3 f4 : BitVec 2048) (badA badB : Bool) (corrected : Fin 3),
    let c : Instr := .blockReceive p hdr f0 f1 f2 f3 f4 badA badB corrected
    let x := s.port p
    let st := s.dev 0x4002 p.val % 8
    let up : Prop := st = 2 ∨ st = 3 ∨ st = 4
    let h := hdr.toNat
    let ok (f : BitVec 2048) : Prop := flitCrc (f.toNat % 256 ^ 253) = f.toNat / 256 ^ 253
    let idle (f : BitVec 2048) : Prop := ok f ∧ f.toNat % 8 = 1
    let rest : Prop := idle f1 ∧ idle f2 ∧ idle f3 ∧ idle f4
    (¬ up → exec c s = .next s) ∧
    (up → ∃ u, exec c s = .next u ∧ u.dev (0x9010 + p.val) 0 = s.dev (0x9010 + p.val) 0 + corrected.val ∧
      u.dev (0x9010 + p.val) 1 = s.dev (0x9010 + p.val) 1 + (if badA then 1 else 0) + (if badB then 1 else 0) ∧
      -- a failed header, or a failed first flit that is the one expected
      (headerCrc h ≠ h % 256 ∨ (headerCrc h = h % 256 ∧ h / 2 ^ 28 = x.rxSeq ∧ h.testBit 15 = false ∧
          (badA = true ∨ ¬ ok f0 ∨ 2 < f0.toNat % 8)) →
        (x.rxFails < 7 → (u.port p).rxFails = x.rxFails + 1 ∧ (u.port p).nak = true ∧ (u.port p).rxSeq = x.rxSeq ∧
          (u.port p).arrived = x.arrived ∧ u.dev 0x4002 p.val = s.dev 0x4002 p.val) ∧
        (7 ≤ x.rxFails → u.dev 0x4002 p.val % 8 = (if st = 4 ∧ s.dev 0x4000 6 ≤ x.departures + 1 then 5 else 1) ∧
          (u.port p).rxKey = none ∧ (u.port p).arrived = x.arrived)) ∧
      (headerCrc h = h % 256 → h.testBit 15 = false → badA = false → badB = false → rest →
        let ack := h / 2 ^ 16 % 4096
        let vc := h / 2 ^ 12 % 8
        let left := match x.unacked with
          | [] => []
          | f :: _ => if (ack + 4096 - f.1) % 4096 ≤ x.unacked.length then x.unacked.drop ((ack + 4096 - f.1) % 4096) else x.unacked
        let more : Port := { x with unacked := left, txFails := (0, 0) }
        let y : Port := { more with credits := x.credits.set vc (min (if vc < 4 then 384 else 128) (x.credits.getD vc 0 + 8 * (h / 2 ^ 8 % 16))) }
        (idle f0 → u.port p = y) ∧
        (ok f0 → f0.toNat % 8 = 0 → h / 2 ^ 28 = x.rxSeq →
          let z : Port := { y with rxSeq := (x.rxSeq + 1) % 4096, rxFails := 0, nak := false }
          let v := f0.toNat / 2 ^ 5 % 8
          let b := f0.toNat / 256 % 256 ^ 252
          let whole : RxPacket := ⟨v, x.rxCount, x.rxKey, ⟨252, b⟩⟩
          let longer (r : RxPacket) : RxPacket :=
            { r with bytes := ⟨r.bytes.len + 252, r.bytes.val % 256 ^ r.bytes.len + b * 256 ^ r.bytes.len⟩ }
          (f0.toNat.testBit 4 = true → Tab.get? x.rxPart v = none →
            u.port p = if f0.toNat.testBit 3 then { z with rxCount := x.rxCount + 1, rxPart := Tab.del x.rxPart v, arrived := x.arrived ++ [whole] }
              else { z with rxCount := x.rxCount + 1, rxPart := Tab.put x.rxPart v whole }) ∧
          (∀ r, f0.toNat.testBit 4 = false → Tab.get? x.rxPart v = some r →
            u.port p = if f0.toNat.testBit 3 then { z with rxPart := Tab.del x.rxPart v, arrived := x.arrived ++ [longer r] }
              else { z with rxPart := Tab.put x.rxPart v (longer r) }))))) ∧
  (∀ s : State,
    let active (k : Nat) : Prop := s.dev 0x4002 (k % 16) % 8 = 4
    let label (k : Nat) : Bool := (s.dev 0x4001 (k % 16)).testBit 1
    let size (q : Packet) : Nat := (q.len + 32 + 251) / 252
    let credit (k v : Nat) (q : Packet) : Prop := size q ≤ (s.port (portOf k)).credits.getD v 0
    let queued (k : Nat) : Nat := (s.port (portOf k)).unacked.length
    let entry (q : Packet) : Nat := s.dev (0x4100 + q.dest / 256) (q.dest % 256)
    let channel (t : Nat) : Option Nat := [none, some 0, some 1, some 2, some 2, some 2, some 3, some 0, some 1, some 0, some 1].getD t none
    let escape (at_ : Option (Fin 16 × Nat)) (c : Nat) (q : Packet) (r : Routed) : Prop :=
      let k := entry q / 2 ^ 4 % 16
      let down : Prop := match at_ with
        | some (a, v) => 4 ≤ v ∧ label a.val = false
        | none => False
      let may : Prop := (entry q).testBit 3 = true ∧ active k ∧ ¬ (down ∧ label k = false)
      let now : Prop := credit k (c + 4) q ∧ (s.dev 0x4003 k / 256 ^ 3).testBit 0 ≠ label k
      (¬ may ∧ r = .discard) ∨ (may ∧ now ∧ r = .out (portOf k) (c + 4) { q with flags := q.flags ||| 2 }) ∨ (may ∧ ¬ now ∧ r = .escapes)
    let routes (at_ : Option (Fin 16 × Nat)) (q : Packet) (r : Routed) : Prop :=
      match channel q.type with
      | none => r = .discard
      | some c =>
        let other : Bool := match at_ with
          | some (_, v) => decide (v % 4 ≠ c)
          | none => false
        let esc : Prop := match at_ with
          | some (_, v) => 4 ≤ v
          | none => False
        let listBad : Prop := q.type < 9 ∨ esc ∨ q.flags.testBit 1 = true
        let hop := q.data / 16 ^ q.hops % 16
        let cand (n : Nat) : Prop := n < 4 ∧ (entry q).testBit (28 + n) = true ∧ active (entry q / 2 ^ (4 * n + 8) % 16) ∧
          ¬ (q.flags.testBit 0 = true ∧ (entry q).testBit (24 + n) = true)
        let port (n : Nat) : Nat := entry q / 2 ^ (4 * n + 8) % 16
        let ready (n : Nat) : Prop := cand n ∧ credit (port n) c q
        let best (n : Nat) : Prop := ready n ∧ ∀ m, ready m → queued (port n) < queued (port m) ∨ (queued (port n) = queued (port m) ∧ n ≤ m)
        if other = true ∨ 63 < q.hops then r = .discard
        else if q.flags.testBit 2 = true then
          (listBad ∧ r = .discard) ∨ (¬ listBad ∧ q.hops = q.tspec % 16 + 1 ∧ r = .here) ∨
          (¬ listBad ∧ q.hops ≠ q.tspec % 16 + 1 ∧ ((¬ active hop ∧ r = .discard) ∨ (active hop ∧ credit hop c q ∧ r = .out (portOf hop) c q) ∨
            (active hop ∧ ¬ credit hop c q ∧ r = .waits)))
        else if s.dev 0x4000 2 ≠ 1 ∧ ¬ (q.hops = 0 ∧ q.dest = s.dev 0x4000 0) then r = .discard
        else if q.dest = s.dev 0x4000 0 then r = .here
        else if 0x4000 ≤ q.dest then r = .discard
        else if q.flags.testBit 1 = true then escape at_ c q r
        else (∃ n, best n ∧ r = .out (portOf (port n)) c (if (entry q).testBit (24 + n) then { q with flags := q.flags ||| 1 } else q)) ∨
          ((∀ n, ¬ ready n) ∧ (∃ n, cand n) ∧ r = .waits) ∨ ((∀ n, ¬ cand n) ∧ escape at_ c q r)
    let stays (at_ : Option (Fin 16 × Nat)) (q : Packet) : Prop := routes at_ q .waits ∨ routes at_ q .escapes
    let own (u : State) (q : Packet) (r : Routed) : State := match r with
      | .discard => fabricEvent { u.count 16 0x2D 1 with fabricDiscards := u.fabricDiscards + 1 } 59 0
      | .here => deliver u q
      | .out k v w => transmit (if q.hops = 0 then u.count ((jobSpace u q.job).getD 16) 0x13 q.len else u) k v w
      | _ => u
    (∀ at_ q, ∃ r, routes at_ q r) ∧
    ((∀ q ∈ s.outbox, stays none q) → exec (.packetRoute none) s = .next s) ∧
    (∀ before q after r, s.outbox = before ++ q :: after → (∀ y ∈ before, stays none y) → routes none q r → r ≠ .waits → r ≠ .escapes →
      exec (.packetRoute none) s = .next (own { s with outbox := before ++ after } q r)) ∧
    (∀ (p : Fin 16) (vc : Fin 8),
      let x := s.port p
      ((∀ r ∈ x.arrived, r.vc ≠ vc.val) → exec (.packetRoute (some (p, vc))) s = .next s ∧ exec (.escapeTimeout (some (p, vc))) s = .next s) ∧
      (∀ before y after, x.arrived = before ++ y :: after → y.vc = vc.val → (∀ r ∈ before, r.vc ≠ vc.val) →
        let freed := x.freed.set vc.val ((x.freed.getD vc.val 0 + y.bytes.len / 252) % 8)
        let taken := s.setPort p { x with arrived := before ++ after, freed := freed }
        (openPacket y = none → ∃ u, exec (.packetRoute (some (p, vc))) s = .next u ∧ (u.port p).arrived = before ++ after ∧
          u.dev (0x9010 + p.val) 3 = s.dev (0x9010 + p.val) 3 + 1 ∧
          (s.dev 0x4002 p.val % 8 = 4 → u.dev 0x4002 p.val % 8 = (if s.dev 0x4000 6 ≤ x.departures + 1 then 5 else 1))) ∧
        (∀ q0, openPacket y = some q0 →
          let q := { q0 with hops := q0.hops + 1 }
          let at_ := some (p, vc.val)
          (stays at_ q → exec (.packetRoute (some (p, vc))) s = .next s) ∧
          (∀ r, routes at_ q r → r ≠ .waits → r ≠ .escapes → exec (.packetRoute (some (p, vc))) s = .next (match r with
            | .discard => discardAt taken p true
            | r => own taken q r)) ∧
          (q.flags.testBit 2 = true ∨ ¬ routes at_ q .waits → exec (.escapeTimeout (some (p, vc))) s = .next s) ∧
          (∀ c r, q.flags.testBit 2 = false → routes at_ q .waits → channel q.type = some c →
            let q1 := { q with flags := q.flags ||| 2 }
            escape at_ c q1 r → exec (.escapeTimeout (some (p, vc))) s = .next (match r with
              | .discard => discardAt taken p true
              | .escapes => { taken with outbox := s.outbox ++ [q1] }
              | r => own taken q1 r))))) ∧
    ((∀ q ∈ s.outbox, q.flags.testBit 2 = true ∨ ¬ routes none q .waits) → exec (.escapeTimeout none) s = .next s) ∧
    (∀ before q after c r, s.outbox = before ++ q :: after → (∀ y ∈ before, y ≠ q ∧ (y.flags.testBit 2 = true ∨ ¬ routes none y .waits)) →
      q.flags.testBit 2 = false → routes none q .waits → channel q.type = some c →
      let q1 := { q with flags := q.flags ||| 2 }
      escape none c q1 r → exec (.escapeTimeout none) s = .next (match r with
        | .escapes => { s with outbox := before ++ after ++ [q1] }
        | r => own { s with outbox := before ++ after } q1 r)))

/-- R380, R440, R447, R456, R462; log entry 126 for the tenancy whose steps a write of MTBF_S uses. -/
def Obligations.DrainsAndPatrol : Prop :=
  ∀ s : State,
    let interval (c mtbf : Nat) (steps : List Nat) : Nat :=
      let m := fMul fp64 .rne (toFp64 mtbf) (toFp64 212500000)
      let sum := steps.foldl (fun a x => fAdd fp64 .rne a (toFp64 x)) 0
      let i := fDiv fp64 .rne (fSqrt fp64 .rne (fMul fp64 .rne (fMul fp64 .rne (toFp64 2) (toFp64 c)) m))
        (fDiv fp64 .rne sum (toFp64 steps.length))
      let lo := s.dev 0x7003 0
      let hi := s.dev 0x7004 0
      if mtbf = 0 ∨ steps = [] then 0 else max lo (min hi (fToInt fp64 .rne 0 hi i).toNat)
    (∀ src job number tspec : Nat,
      let names (e : Nat × Stream) : Prop := e.2.number = number ∧ jobOf s e.2.space = job ∧ e.2.node = some src
      ((∀ e ∈ s.streams, ¬ names e) → exec (.strCredit src job number tspec) s = .next s) ∧
      (∀ before i c after, s.streams = before ++ (i, c) :: after → (∀ e ∈ before, ¬ names e) → names (i, c) → c.recv = false →
        tspec.testBit 31 = false → tspec.testBit 30 = false →
        let c0 : Stream := { c with answered := true, credit := c.credit + tspec % 256, slots := if c.answered then c.slots else tspec % 256 }
        let c1 : Stream := { c0 with slotBytes := if c.answered then c.slotBytes else 2 ^ (tspec / 2 ^ 16 % 16 + 12) }
        ((∀ n < 16, ∀ d, (s.tenant n).drain = some d → d.stream ≠ i) →
          exec (.strCredit src job number tspec) s = .next { s with streams := Tab.put s.streams i c1 }) ∧
        (∀ n d b more, n < 16 → (s.tenant n).drain = some d → d.stream = i → (∀ m < n, ∀ e, (s.tenant m).drain = some e → e.stream ≠ i) →
          d.blocks = (b, false) :: more → c.credit + tspec % 256 = 1 → c.halted = false → Tab.get? s.streams i = some c →
          ∃ u, exec (.strCredit src job number tspec) s = .next u ∧
            (u.tenant n).drain = some { d with blocks := more, sent := d.sent + 1, returned := d.returned + tspec % 256 } ∧
            Tab.get? u.streams i = some { c1 with credit := 0, sent := c.sent + 1 } ∧
            u.outbox.length = s.outbox.length + (b.len + 4095) / 4096 ∧
            (∀ k, k < (b.len + 4095) / 4096 → u.outbox[s.outbox.length + k]? = some ⟨src, s.dev 0x4000 0, 6,
              if k + 1 = (b.len + 4095) / 4096 then 8 else 0, 0, job, min 4096 (b.len - 4096 * k),
              number * 2 ^ 20 + c.sent % 256 * 2 ^ 12 + k, b.val / 256 ^ (4096 * k) % 256 ^ min 4096 (b.len - 4096 * k)⟩)))) ∧
    (∀ n : Fin 16,
      (∀ d, (s.tenant n.val).drain = some d → d.blocks ≠ [] ∨ d.returned < d.sent) → exec (.drainComplete n) s = .next s) ∧
    (∀ (n : Fin 16) (d : Drain), (s.tenant n.val).drain = some d → d.blocks = [] → d.sent ≤ d.returned →
      (∀ e ∈ s.cmds, e.2.engine = 4 → e.2.op = 2 → e.2.phase ≠ .held) →
      ∃ u, exec (.drainComplete n) s = .next u ∧ (u.tenant n.val).drain = none ∧ u.ten n.val 0xC070 1 = d.step % 2 ^ 32 ∧
        u.ten n.val 0xC070 2 = (if (s.tenant n.val).point.isSome then 1 else 0) ∧
        u.dev 0x7005 0 = (s.now - d.start) % 2 ^ 64 ∧
        u.dev 0x7006 0 = interval ((s.now - d.start) % 2 ^ 64) (s.dev 0x7002 0) (s.tenant n.val).stepTimes) ∧
    (∀ v : BitVec 32,
      let w := s.setDev 0x7002 0 v.toNat
      (∀ n < 16, (∀ m < n, (s.tenant m).stepTimes = []) → (s.tenant n).stepTimes ≠ [] →
        exec (.mtbfSWrite v) s = .next (w.setDev 0x7006 0 (interval (s.dev 0x7005 0) v.toNat (s.tenant n).stepTimes))) ∧
      ((∀ n < 16, (s.tenant n).stepTimes = []) → exec (.mtbfSWrite v) s = .next (w.setDev 0x7006 0 0))) ∧
    (∀ slice : Fin 192,
      ((∀ e ∈ s.slcErrs, sliceOf e.1 ≠ slice.val) → exec (.slicePatrol slice none) s = .next s) ∧
      (∀ a e, s.slcErrs = [(a, e)] → sliceOf a = slice.val → ∃ u, exec (.slicePatrol slice none) s = .next u ∧ u.slcErrs = [] ∧
        u.dev 0x9000 0x25 = s.dev 0x9000 0x25 + 1) ∧
      (∀ set, s.dev 0x1021 0 = 3 → ∃ u, exec (.slicePatrol slice (some set)) s = .next u ∧ u.dev 0x1021 0 = 4 ∧
        u.monitorMail = s.monitorMail + 1 ∧ (slice.val, set) ∈ u.retired ∧
        (∀ n < 16, s.tstate n = tsRunning → u.tstate n = tsHeld ∧ (u.tenant n).heldCase = 4) ∧
        ((∀ n < 16, s.tstate n ≠ tsRunning) → ∀ k, sliceOf (128 * k) = slice.val → Config.sliceSet k = set → Tab.get? u.slc k = none)))

/-- R540 to R557, R561: Stops over every path. -/
def Obligations.StopAccess : Prop :=
  ∀ s : State,
    let win (i : Nat) : Bool := decide (0xC000 ≤ i ∧ i ≤ 0xCFFF)
    let ident (i : Nat) : Prop := (0x1000 ≤ i ∧ i ≤ 0x1FFF) ∨ i = 0x8001 ∨ i = 0x8002
    let ds := s.dev 0x1021 0
    let served (i sub : Nat) (x : StopInfo) : Prop := ds = 3 ∨ ds = 4 ∨ (ds ≠ 0 ∧ ((0x1000 ≤ i ∧ i ≤ 0x2FFF) ∨ (0x8001 ≤ i ∧ i ≤ 0x8020) ∨
      (i = 0xA000 ∧ sub = 0) ∨ i = 0xF001 ∨ i = 0xF010 ∨ i = 0xF011 ∨ x.stored = true))
    let absent (i n : Nat) : Prop := win i = true ∧ (16 ≤ n ∨ s.tstate n = 0)
    let value (u : State) (i sub n : Nat) : Nat := if win i then u.ten n i sub else u.dev i sub
    let gen (u : State) (i sub n : Nat) : Nat := match Tab.get? u.stops (if win i then tenKey n i sub else devKey i sub) with
      | some c => c.gen.toNat
      | none => 0
    let read (may bad : Prop) (i sub n st size ty v g : Nat) : Prop := match stopInfo i sub with
      | none => st = 5 ∧ size = 0 ∧ ty = 0 ∧ v = 0 ∧ g = 0
      | some x =>
        let ready : Prop := served i sub x ∧ ¬ (i = 0x8040 ∧ s.dev 0x8040 0 = 0)
        ty = x.type ∧ g = gen s i sub n ∧ (bad → st = 5) ∧ (¬ bad → ¬ may → st = 4) ∧ (¬ bad → may → ¬ ready → st = 1) ∧
          (¬ bad → may → ready → absent i n → st = 2) ∧ (¬ bad → may → ready → ¬ absent i n → st = 0) ∧ (st ≠ 0 → size = 0 ∧ v = 0) ∧
          (st = 0 → size = (if i = 0x8020 then (if s.dev 0x8020 0 = 0 then 0 else s.dev 0x8020 0 / 256 ^ 4 % 256 ^ 4 + 3313) else x.size) ∧
            v = if x.acc = .wo then 0 else value s i sub n)
    let special (i sub : Nat) : Prop := i = 0xF030 ∨ i = 0xC040 ∨ i = 0x4001 ∨ (i = 0xC080 ∧ sub = 1)
    let plain (i sub : Nat) : Prop := ¬ special i sub ∧ i ≠ 0x4000 ∧ i ≠ 0x7002 ∧ i ≠ 0xF001 ∧ i ≠ 0xC010
    let write (may bad : Prop) (i sub n len v st : Nat) : Prop := match stopInfo i sub with
      | none => st = 5
      | some x =>
        let deny : Prop := ¬ may ∨ x.acc = .ro ∨ x.acc = .rl
        let wrong : Prop := len ≠ x.size ∨ 256 ^ x.size ≤ v ∨ (x.type = 7 ∧ 1 < v) ∨ stopInRange s n i sub v = false
        (bad → st = 5) ∧ (¬ bad → deny → st = 4) ∧ (¬ bad → ¬ deny → wrong → st = 5) ∧ (¬ bad → ¬ deny → ¬ wrong → ¬ served i sub x → st = 1) ∧
          (¬ bad → ¬ deny → ¬ wrong → served i sub x → absent i n ∨ stopStateOk s n i sub v = false → st = 2) ∧
          (¬ bad → ¬ deny → ¬ wrong → served i sub x → ¬ absent i n → stopStateOk s n i sub v = true → st = 0)
    let wrote (u : State) (i sub n v : Nat) : Prop := value u i sub n = v ∧
      gen u i sub n = if value s i sub n = v then gen s i sub n else (gen s i sub n + 1) % 2 ^ 32
    -- mailboxes
    (∀ (fn box : Fin 16) (tee : Bool),
      let b := (s.fn fn).box box.val
      let i := b.req % 65536
      let sub := b.req / 2 ^ 16 % 256
      let op := b.req / 2 ^ 24 % 16
      let n := if fn.val = 0 then (if b.req.testBit 36 then b.req / 2 ^ 32 % 16 else 0) else fn.val
      let ends (u : State) (st size ty v g : Nat) : Prop := (u.fn fn).box box.val = { b with
        data := if size = 0 then b.data else b.data / 256 ^ size * 256 ^ size + v % 256 ^ size
        status := g * 2 ^ 32 + size * 2 ^ 16 + ty * 2 ^ 12 + b.status / 2 ^ 10 % 2 * 2 ^ 10 + 2 ^ 9 + st }
      let mayRead : Prop := fn.val = 0 ∨ win i = true ∨ ident i
      let mayWrite : Prop := fn.val = 0 ∨ win i = true
      (barOk s fn tee = false ∨ op ≠ 1 → exec (.get fn box tee) s = .next s) ∧
      (barOk s fn tee = false ∨ op ≠ 2 → exec (.set fn box tee) s = .next s) ∧
      (barOk s fn tee = true → b.status.testBit 8 = true → op = 1 ∨ op = 2 →
        exec (if op = 1 then .get fn box tee else .set fn box tee) s = .next (s.putBox fn box.val { b with status := b.status ||| 2 ^ 10 })) ∧
      (barOk s fn tee = true → b.status.testBit 8 = false → op = 1 → ∀ st size ty v g, read mayRead False i sub n st size ty v g →
        ∃ u, exec (.get fn box tee) s = .next u ∧ u.stops = s.stops ∧ ends u st size ty v g) ∧
      (barOk s fn tee = true → b.status.testBit 8 = false → op = 2 → ∃ u, exec (.set fn box tee) s = .next u ∧
        ∀ st, ¬ special i sub → write mayWrite False i sub n b.len (b.data % 256 ^ b.len) st →
          (st ≠ 0 → u.stops = s.stops ∧ ∃ ty g, (∀ x, stopInfo i sub = some x → ty = x.type ∧ g = gen s i sub n) ∧ ends u st 0 ty 0 g) ∧
          (st = 0 → plain i sub → ∀ x, stopInfo i sub = some x → wrote u i sub n (b.data % 256 ^ b.len) ∧
            (x.stored = false → u.flash = s.flash ∧
              ends u 0 x.size x.type (if x.acc = .wo then 0 else b.data % 256 ^ b.len) (gen u i sub n)) ∧
            (x.stored = true → ((u.fn fn).box box.val).status.testBit 8 = true ∧
              u.flash = s.flash ++ [⟨if win i then tenKey n i sub else devKey i sub, value s i sub n, .box fn.val box.val⟩])))) ∧
    (∀ f fs, s.flash = f :: fs → ds ≠ 0 → ∃ u, exec .storedStopCommit s = .next u ∧ u.flash = fs ∧
      (f.asker = .none → u = { s with flash := fs }) ∧
      (∀ fn m : Fin 16, ∀ idx sub x, f.asker = .box fn.val m.val → f.key = devKey idx sub → idx < 65536 → win idx = false → sub < 256 →
        stopInfo idx sub = some x → ((s.fn fn).box m.val).status.testBit 8 = true →
        ((u.fn fn).box m.val).status.testBit 8 = false ∧ ((u.fn fn).box m.val).status.testBit 9 = true)) ∧
    (s.flash = [] ∨ ds = 0 → exec .storedStopCommit s = .next s) ∧
    (∀ v : BitVec 8, (v ≠ 0x5A → exec (.storedDefaults v) s = .next s) ∧
      ((∃ m, m < 16 ∧ s.tstate m = tsRunning) → exec (.storedDefaults v) s = .next s) ∧
      (v = 0x5A → (∀ m < 16, s.tstate m ≠ tsRunning) → ds ≠ 0 → ∃ u, exec (.storedDefaults v) s = .next u ∧
        (∀ i sub x, 0x1020 ≤ i → i ≤ 0x7FFF → sub < 256 → stopInfo i sub = some x → x.stored = true → x.acc = .rw →
          u.dev i sub = x.dflt) ∧ u.dev 0x8010 0 = s.dev 0x8010 0 ∧ u.dev 0x1022 0 = s.dev 0x1022 0)) ∧
    -- messages
    (let key := s.dev 0x8010 0
    let floor := s.dev 0x1022 0
    let formed (m : Blob) : Prop := let tag := if (m.field 7 1).testBit 0 then 32 else 0
      32 ≤ m.len ∧ m.field 0 3 = 0x015A4F ∧ 1 ≤ m.field 3 1 ∧ m.field 3 1 ≤ 4 ∧ m.field 7 1 < 2 ∧ m.field 18 2 = 0 ∧ m.field 29 3 = 0 ∧
      (m.len = 32 + m.field 16 2 + tag ∨ (m.field 3 1 = 1 ∧ m.len = 32 + tag))
    let carries (k : Nat) (r m : Blob) (tagged : Bool) (st off g ty : Nat) (v : Blob) : Prop :=
      r.len = 32 + v.len + (if tagged then 32 else 0) ∧ r.field 0 3 = 0x015A4F ∧ r.field 3 1 = m.field 3 1 + 128 ∧
      r.field 4 2 = m.field 4 2 ∧ r.field 6 1 = st ∧ r.field 7 1 = (if tagged then 1 else 0) ∧ r.field 8 8 = m.field 8 8 ∧
      r.field 16 4 = v.len ∧ r.field 20 4 = off ∧ r.field 24 4 = g ∧ r.field 28 4 = ty ∧ r.field 32 v.len = v.val % 256 ^ v.len ∧
      (tagged = true → r.field (32 + v.len) 32 = shake256 (64 + v.len) (k + r.val % 256 ^ (32 + v.len) * 256 ^ 32) 32)
    let identity := s.dev 0x1002 0 + s.dev 0x1010 0 * 256 ^ 16 + s.dev 0x4000 0 * 256 ^ 24 + s.dev 0x1020 0 * 256 ^ 26 + ds * 256 ^ 27
    (∀ (addr : BitVec 128) (port : BitVec 16) (len data : Nat) (many : Bool) (op : Nat) (c : Instr),
      (op, c) ∈ ([(1, .sapGet addr port len data), (2, .sapSet addr port len data), (3, .attest addr port len data),
        (4, .discover addr port len data many)] : List (Nat × Instr)) →
      let m : Blob := ⟨len, data % 256 ^ len⟩
      let src : SapFrom := ⟨addr.toNat, port.toNat, none⟩
      let live : Prop := ds ≠ 0 ∧ ¬ (ds = 5 ∧ Config.fwGood 0 = false ∧ op ≠ 4)
      let tagged := (m.field 7 1).testBit 0
      let i := m.field 12 2
      let sub := m.field 14 1
      let n := m.field 15 1
      let known : Prop := ∃ x, s.sources.find? (fun y => y.ident == addr.toNat) = some x ∧ x.session = m.field 8 4 ∧
        ((∃ k ∈ x.kept, k.1 = m.field 4 2) ∨ ((m.field 4 2 + 65536 - x.last) % 65536 ≠ 0 ∧ (m.field 4 2 + 65536 - x.last) % 65536 ≤ 32767))
      let repeats : Prop := ∃ x, s.sources.find? (fun y => y.ident == addr.toNat) = some x ∧ x.session = m.field 8 4 ∧ ∃ k ∈ x.kept, k.1 = m.field 4 2
      let good : Prop := key ≠ 0 ∧ m.field (len - 32) 32 = shake256 len (key + m.val % 256 ^ (len - 32) * 256 ^ 32) 32
      let runs : Prop := live ∧ formed m ∧ m.field 3 1 = op ∧ (tagged = true → good ∧ ¬ repeats ∧ (known ∨ floor < m.field 8 4))
      let out (u : State) (r : Blob) : Prop := u.sapOut = s.sapOut ++ [(src, r)] ∧
        (tagged = true → ∃ x ∈ u.sources, x.ident = addr.toNat ∧ x.session = m.field 8 4 ∧ x.last = m.field 4 2 ∧ (m.field 4 2, r) ∈ x.kept)
      let bad : Prop := win i = true ∧ 16 ≤ n ∧ n ≠ 0xFF
      (ds = 0 ∨ (formed m ∧ m.field 3 1 ≠ op) → exec c s = .next s) ∧
      (ds ≠ 0 → ¬ formed m → exec c s = .next (s.count 16 0x2D 1)) ∧
      (live → formed m → m.field 3 1 = op → tagged = true →
        (key = 0 → ∃ r, exec c s = .next { s with sapOut := s.sapOut ++ [(src, r)] } ∧
          carries key r m false 4 (if op = 1 then m.field 20 4 else 0) 0 0 ⟨0, 0⟩) ∧
        (key ≠ 0 → ¬ good → exec c s = .next (s.count 16 0x2D 1)) ∧
        (good → ∀ x k, s.sources.find? (fun y => y.ident == addr.toNat) = some x → x.session = m.field 8 4 →
          x.kept.find? (fun y => y.1 == m.field 4 2) = some k → ∃ u, exec c s = .next u ∧ u.stops = s.stops ∧
            u.sapOut = s.sapOut ++ (if k.2.len = 0 then [] else [(src, k.2)])) ∧
        (good → ¬ known → m.field 8 4 ≤ floor → ∃ r, exec c s = .next { s with sapOut := s.sapOut ++ [(src, r)] } ∧
          carries key r m true 3 (if op = 1 then m.field 20 4 else 0) (floor % 2 ^ 32) 0 ⟨0, 0⟩) ∧
        (runs → ∃ u, exec c s = .next u ∧ (i ≠ 0x1022 → u.dev 0x1022 0 = if floor < m.field 8 4 ∧ ¬ known then m.field 8 4 else floor))) ∧
      (runs → op = 1 → i ≠ 0x1022 →
        ∀ st size ty v g, read (tagged = true ∨ ident i ∨ i = 0x8020) bad i sub n st size ty v g → ∃ u r, exec c s = .next u ∧ out u r ∧
          (st ≠ 0 → carries key r m tagged st (m.field 20 4) g ty ⟨0, 0⟩) ∧
          (st = 0 → size ≤ m.field 20 4 → carries key r m tagged 5 (m.field 20 4) g ty ⟨0, 0⟩) ∧
          (st = 0 → m.field 20 4 < size → carries key r m tagged 0 (m.field 20 4) g ty
            ⟨min (min (m.field 16 2) 1024) (size - m.field 20 4), v / 256 ^ m.field 20 4⟩)) ∧
      (runs → op = 2 → i ≠ 0x1022 → ¬ special i sub → ∀ st,
        write (tagged = true ∧ (i ≠ 0x8010 ∨ key ≠ 0)) bad i sub n (m.field 16 2) (m.field 32 (m.field 16 2)) st → ∃ u, exec c s = .next u ∧
          (st ≠ 0 → ∃ r ty g, out u r ∧ (∀ x, stopInfo i sub = some x → ty = x.type ∧ g = gen s i sub n) ∧ carries key r m tagged st 0 g ty ⟨0, 0⟩) ∧
          (st = 0 → plain i sub → ∀ x, stopInfo i sub = some x → wrote u i sub n (m.field 32 (m.field 16 2)) ∧
            (x.stored = false → ∃ r, out u r ∧ carries key r m tagged 0 0 (gen u i sub n) x.type
              ⟨x.size, if x.acc = .wo then 0 else m.field 32 (m.field 16 2)⟩) ∧
            (x.stored = true → u.sapOut = s.sapOut ∧
              u.flash = s.flash ++ [⟨if win i then tenKey n i sub else devKey i sub, value s i sub n, .sap src m tagged⟩]))) ∧
      (runs → op = 3 →
        let ask := m.field 32 64
        let ten := ask / 256 ^ 32 % 256
        let asks : Prop := m.field 16 2 = 64 ∧ (ten < 16 ∨ ten = 0xFF) ∧ ask / 256 ^ 33 = 0
        (¬ asks → ∃ u r, exec c s = .next u ∧ out u r ∧ carries key r m tagged 5 0 0 0 ⟨0, 0⟩) ∧
        (asks → (measurements s ten).length < 256 → ∃ u r, exec c s = .next u ∧ out u r ∧
          let report := u.dev 0x8020 0
          carries key r m tagged 0 (report / 256 ^ 4 % 256 ^ 4 + 3313) (gen u 0x8020 0 0) 0 ⟨0, 0⟩ ∧ report % 256 ^ 4 = 1 ∧
          report / 256 ^ 8 % 256 = ten ∧ report / 256 ^ 40 % 256 ^ 32 = ask % 256 ^ 32)) ∧
      (runs → op = 4 → many = false → ∃ u r, exec c s = .next u ∧ out u r ∧ carries key r m tagged 0 0 0 0 ⟨64, identity⟩) ∧
      (runs → op = 4 → many = true → ∃ u, exec c s = .next u ∧ u.sapOut = s.sapOut ∧ u.discovers = s.discovers ++ [(src, m)])) ∧
    (s.discovers = [] → exec .discoverReply s = .next s) ∧
    (∀ src m rest, s.discovers = (src, m) :: rest → src.addr < 2 ^ 128 → ∃ u r, exec .discoverReply s = .next u ∧ u.discovers = rest ∧
      u.sapOut = s.sapOut ++ [(src, r)] ∧ (m.field 3 1 = 4 → carries key r m (decide ((m.field 7 1).testBit 0 = true ∧ key ≠ 0)) 0 0 0 0 ⟨64, identity⟩)) ∧
    -- over the fabric
    (∀ src flags tspec len data : Nat,
      let route := flags.testBit 2
      let m : Blob := if route then ⟨len - 8, data / 256 ^ 8 % 256 ^ (len - 8)⟩ else ⟨len, data % 256 ^ len⟩
      (ds = 0 → exec (.mgmtReq src flags tspec len data) s = .next s ∧ exec (.mgmtRsp src flags tspec len data) s = .next s) ∧
      (ds ≠ 0 → exec (.mgmtRsp src flags tspec len data) s = .next { s with sapIn := s.sapIn ++ [(2 ^ 128 + src, m)] } ∧
        (¬ formed m → exec (.mgmtReq src flags tspec len data) s = .next (s.count 16 0x2D 1)) ∧
        (formed m → m.field 3 1 = 4 → m.field 7 1 = 0 → ∃ r q, exec (.mgmtReq src flags tspec len data) s = .next { s with outbox := s.outbox ++ [q] } ∧
          carries key r m false 0 0 0 0 ⟨64, identity⟩ ∧ q.dest = src ∧ q.type = 10 ∧ q.job = 0xFFFF ∧
          (route = false → q.flags = 0 ∧ q.len = r.len ∧ q.data = r.val ∧ q.tspec = m.field 4 2 * 2 ^ 16) ∧
          (route = true → q.flags = 4 ∧ q.len = r.len + 8 ∧ q.data / 256 ^ 8 = r.val ∧ q.tspec = tspec % 16 + m.field 4 2 * 2 ^ 16 ∧
            ∀ h ≤ tspec % 16, q.data / 16 ^ h % 16 = data % 256 ^ 8 / 16 ^ (tspec % 16 - h) % 16))))) ∧
    -- a register without a row of its own
    (∀ (i : BitVec 16) (sub ten : BitVec 8) (len v st : Nat), ¬ special i.toNat sub.toNat → write True False i.toNat sub.toNat ten.toNat len v st →
      ∃ u, exec (.registerWrite (.stop i sub ten len v)) s = .next u ∧ (st ≠ 0 → u = s) ∧
        (st = 0 → plain i.toNat sub.toNat → wrote u i.toNat sub.toNat ten.toNat v)) ∧
    (∀ (fn : Fin 16) (off : BitVec 26) (v : BitVec 64) (tee : Bool), ∃ u, exec (.registerWrite (.bar0 fn off v tee)) s = .next u ∧
      let m := off.toNat / 65536
      let o := off.toNat / 8 * 8 % 65536
      let b := (s.fn fn).box m
      (barOk s fn tee = false → u = s) ∧
      (barOk s fn tee = true → off.toNat < 0x100000 → b.status.testBit 8 = true → o < 0x18 ∨ 0x100 ≤ o →
        u = s.putBox fn m { b with status := b.status ||| 2 ^ 10 }) ∧
      (barOk s fn tee = true → off.toNat < 0x100000 → b.status.testBit 8 = false →
        (o = 0 → u = s.putBox fn m { b with req := v.toNat % 2 ^ 28 + v.toNat / 2 ^ 32 % 32 * 2 ^ 32 }) ∧
        (o = 8 → u = s.putBox fn m { b with len := v.toNat % 65536 }) ∧
        (0x100 ≤ o → u = s.putBox fn m { b with data := setFld b.data (8 * (o - 0x100) + 63) (8 * (o - 0x100)) v.toNat })) ∧
      (barOk s fn tee = true → off.toNat < 0x100000 → o = 0x18 → ((u.fn fn).box m).status.testBit 10 = (b.status.testBit 10 && !v.toNat.testBit 10))) ∧
    (∀ (t : Tid) (num : BitVec 12) (v odd : BitVec 64) (g h : BitVec 4),
      let c : Instr := .registerWrite (.sv3 t num v odd g h)
      (num.toNat / 256 ≠ 3 ∨ svFieldOf (num.toNat % 256) = none → exec c s = .next s) ∧
      (∀ f, num.toNat / 256 = 3 → svFieldOf (num.toNat % 256) = some f → exec c s = .next (s.setTh t (if f.isPair
        then sysWritePair (s.th t) (.sv 3 f) ⟨⟨v, Tag.ofCode g.toNat⟩, ⟨odd, Tag.ofCode h.toNat⟩⟩ else sysWrite (s.th t) (.sv 3 f) ⟨v, Tag.ofCode g.toNat⟩))))

/-- R391 to R409: what the events of a reduction do. -/
def Obligations.Reductions : Prop :=
  ∀ s : State,
    let named (job tspec : Nat) (e : Nat × Red) : Prop := e.2.job = job ∧ e.2.gid = tspec / 2 ^ 27 % 8 ∧ e.2.rid = tspec / 2 ^ 10 % 2 ^ 17 ∧
      e.2.step % 4 = tspec / 2 ^ 30 % 4
    let finds (job tspec i : Nat) (r : Red) : Prop := ∃ before after, s.reds = before ++ (i, r) :: after ∧ named job tspec (i, r) ∧
      (∀ e ∈ before, ¬ named job tspec e) ∧ Tab.get? s.reds i = some r
    let rank (r : Red) : Nat := (r.pos + r.owner) % r.n
    let parent (r : Red) : Nat := ((r.pos - 1) / 2 + r.owner) % r.n
    let chunks (r : Red) : Nat := (r.elems + 1023) / 1024
    let size (r : Red) (k : Nat) : Nat := min 1024 (r.elems - 1024 * k)
    let wire (r : Red) : Nat := if r.pfmt = 1 then 2 else if r.pfmt = 15 then 3 else 4
    let side (r : Red) (right : Bool) : Option RChild := if right then r.right else r.left
    let withSide (r : Red) (right : Bool) (c : RChild) : Red := if right then { r with right := some c } else { r with left := some c }
    let kids (r : Red) : List RChild := (r.left.toList ++ r.right.toList).filter (fun c => !c.missing)
    let packet (g : RGroup) (r : Red) (dst type chunk len data : Nat) : Packet := ⟨g.nodes.getD dst 0xFFFF, s.dev 0x4000 0, type, 0, 0, r.job, len,
      r.step % 4 * 2 ^ 30 + r.gid * 2 ^ 27 + r.rid * 2 ^ 10 + chunk, data⟩
    let grant (g : RGroup) (r : Red) (dst k : Nat) (again : Bool) : Packet := packet g r dst 4 k 2 (1 + if again then 256 else 0)
    let strict (r : Red) : Prop := r.tenancy < 16 ∧ s.ten r.tenancy 0xC060 1 = 1
    let child (src : Nat) (g : RGroup) (r : Red) (right : Bool) (c : RChild) : Prop := r.opened = true ∧ groupOf s r.tenancy r.gid = some g ∧
      (∃ before after, g.nodes = before ++ src :: after ∧ src ∉ before ∧ before.length = c.rank) ∧ side r right = some c ∧ c.missing = false ∧
      (right = true → ∀ d, r.left = some d → d.rank ≠ c.rank)
    let up (src : Nat) (g : RGroup) (r : Red) : Prop := r.pos ≠ 0 ∧ groupOf s r.tenancy r.gid = some g ∧ g.nodes.getD (parent r) 0xFFFF = src
    -- a chunk that cannot be added yet: it is not granted, or a present child has not sent it
    let stuck (r : Red) : Prop := r.next < chunks r ∧ ((r.pos ≠ 0 ∧ r.granted ≤ r.next) ∨ ∃ c ∈ kids r, ∀ x ∈ c.buf, x.1 ≠ r.next)
    let torn (u : State) (i : Nat) (g : RGroup) (r : Red) (reason : Nat) : Prop := Tab.get? u.reds i = none ∧ Tab.get? u.cmds i = none ∧
      u.outbox = s.outbox ++ (if r.pos = 0 then [] else [packet g r (parent r) 4 0 2 (4 + reason * 256)]) ++
        (kids r).map (fun c => packet g r c.rank 4 0 1 3)
    let owes (r : Red) (c : RChild) : Prop := c.seen = true ∧ c.fin = none ∧ (r.next = chunks r ∨ (r.next < c.grant ∧ ∀ x ∈ c.buf, x.1 ≠ r.next) ∨
      ∀ k < chunks r, k < r.next ∨ ∃ x ∈ c.buf, x.1 = k)
    -- what RESEND_TIMEOUT repeats the GRANT for: in strict mode every silent child
    let repeats (r : Red) (c : RChild) : Prop := (strict r ∧ (owes r c ∨ c.seen = false)) ∨ (¬ strict r ∧ owes r c ∧ c.resent = false)
    (∀ p : Fin 16,
      let waits (e : Nat × Red) : Prop := e.2.port = p.val ∧ e.2.opened = false ∧ e.2.next = 0 ∧ e.2.doneSent = false ∧
        ∃ g, groupOf s e.2.tenancy e.2.gid = some g ∧ (s.reds.filter (fun x => x.2.opened && x.2.port == e.2.port && x.2.tenancy == e.2.tenancy &&
          x.2.gid == e.2.gid)).length < g.ctxq
      ((∀ e ∈ s.reds, ¬ waits e) → exec (.contextOpen p) s = .next s) ∧
      (∀ i r g a b, (i, r) ∈ s.reds → Tab.get? s.reds i = some r → waits (i, r) → (∀ e ∈ s.reds, waits e → e ≠ (i, r) → r.step < e.2.step ∨
          (r.step = e.2.step ∧ r.rid < e.2.rid)) → groupOf s r.tenancy r.gid = some g → r.left = some a → r.right = some b →
        a.missing = false → b.missing = false → a.buf = [] → 0 < r.elems →
        let k := min 7 (chunks r - 1)
        ∃ u, exec (.contextOpen p) s = .next u ∧ Tab.get? u.reds i = some { r with
            opened := true
            left := some { a with grant := max a.grant (k + 1) }
            right := some { b with grant := max b.grant (k + 1) } } ∧
          u.outbox = s.outbox ++ [grant g r a.rank k false, grant g r b.rank k false])) ∧
    (∀ (src job tspec : Nat),
      let k := tspec % 1024
      let noChild : Prop := (∀ e ∈ s.reds, ¬ named job tspec e) ∨ ∃ i r, finds job tspec i r ∧ ∀ g right c, ¬ child src g r right c
      let late (c : Instr) : Prop := match jobSpace s job with
        | none => exec c s = .next s
        | some n => exec c s = .next (if (n, tspec / 1024, src) ∈ s.lateSeen then s
            else { s.count n 0x23 1 with lateSeen := s.lateSeen ++ [(n, tspec / 1024, src)] })
      (noChild → (∀ len data, late (.redData src job tspec len data)) ∧ (∀ n roots, late (.done src job tspec n roots)) ∧
        ∀ reason, late (.torn src job tspec reason)) ∧
      (∀ i r g right c, finds job tspec i r → child src g r right c →
        (∀ reason, (Tab.get? s.cmds i).isSome = true → ∃ u, exec (.torn src job tspec reason) s = .next u ∧ torn u i g r reason) ∧
        (∀ len data,
          let heard : RChild := { c with seen := true, resent := false }
          let got : RChild := if k < r.next ∨ ∃ x ∈ c.buf, x.1 = k then heard else { heard with buf := c.buf ++ [(k, data)] }
          let r1 := withSide r right got
          (chunks r ≤ k ∨ len ≠ wire r * size r k → (Tab.get? s.cmds i).isSome = true →
            ∃ u, exec (.redData src job tspec len data) s = .next u ∧ torn u i g r 3) ∧
          (k < chunks r → len = wire r * size r k → stuck r1 → (Tab.get? s.cmds i).isSome = true →
            exec (.redData src job tspec len data) s = .next (s.putRed i r1)) ∧
          -- the chunk is added: this one, when the next one cannot be added at once
          (∀ m a, k < chunks r → len = wire r * size r k → ¬ stuck r1 → r.next < chunks r → r.next + 1 < chunks r → chunks r ≤ r.next + 8 →
            Tab.get? s.cmds i = some m → (∀ x ∈ got.buf, x.1 ≠ r.next + 1) →
            let sz := fmtStore (fmtOf r.cfmt).format / 8
            let j := r.next
            readElems (s.putRed i r1) (m.ep (s.putRed i r1)) (m.slot 0) false sz (1024 * j) (size r j) = a → (∀ e ∈ a.2, e.2 = false) →
            let term (y : RChild) (n : Nat) : Nat := match y.buf.find? (fun x => x.1 == j) with
              | some x => x.2 / 256 ^ (wire r * n) % 256 ^ wire r
              | none => 0
            let add (v w : Nat) : Nat := if r.pfmt = 12 then (v + w) % 2 ^ 32 else fAdd fp32 .rne v
              (fCvt (if r.pfmt = 1 then bf16 else if r.pfmt = 15 then w22 else fp32) fp32 .rne w)
            let sum (n : Nat) : Nat := (kids r1).foldl (fun v y => add v (term y n)) (ownElem m r (1024 * j + n) ((a.2.map (fun e => e.1)).getD n 0))
            let sums := (List.range (size r j)).map sum
            let sent := sums.map (fun x => if r.pfmt = 12 then x else fCvt fp32 (if r.pfmt = 1 then bf16 else if r.pfmt = 15 then w22 else fp32) .rne x)
            ∃ u q, exec (.redData src job tspec len data) s = .next u ∧ Tab.get? u.reds i = some q ∧ q.next = j + 1 ∧
              (r.pos = 0 → q.sums = r.sums ++ [(j, packRecords 4 sums)] ∧ u.outbox = a.1.outbox) ∧
              (r.pos ≠ 0 → q.sums = r.sums ∧ q.unacked = r.unacked ++ [(j, packRecords (wire r) sent)] ∧
                u.outbox = a.1.outbox ++ [packet g r (parent r) 3 j (wire r * size r j) (packRecords (wire r) sent)]))) ∧
        (∀ n roots,
          let heard : RChild := { c with seen := true, resent := false, fin := if c.fin.isSome then c.fin else some (n, roots) }
          let r1 := withSide r right heard
          let missing := ((r.left.toList ++ r.right.toList).filter (fun y => y.missing)).map (fun y => y.rank)
          let count := (kids r1).foldl (fun v y => v + (y.fin.elim 0 (fun f => f.1))) 1
          let gone := missing ++ ((kids r1).map (fun y => y.fin.elim [] (fun f => f.2))).flatten
          (stuck r1 → (Tab.get? s.cmds i).isSome = true → exec (.done src job tspec n roots) s = .next (s.putRed i r1)) ∧
          (r.next = chunks r → r.doneSent = false → r.pos ≠ 0 → (∀ y ∈ kids r1, y.fin.isSome = true) → (Tab.get? s.cmds i).isSome = true →
            ∃ u q before, exec (.done src job tspec n roots) s = .next u ∧ Tab.get? u.reds i = some q ∧ q.doneSent = true ∧
              u.outbox = s.outbox ++ before ++ [packet g r (parent r) 4 0 (6 + 2 * gone.length)
                (2 + count % 65536 * 256 ^ 2 + gone.length % 65536 * 256 ^ 4 + packRecords 2 gone * 256 ^ 6)]))) ∧
      -- from the parent
      (∀ again : Bool, (∀ e ∈ s.reds, ¬ named job tspec e) → ∃ rest, exec (.grant src job tspec again) s =
          .next { s with heldCtl := rest ++ [⟨3, job, src, tspec, 0, false⟩] } ∧ ∀ h ∈ rest, h ∈ s.heldCtl) ∧
      ((∀ e ∈ s.reds, ¬ named job tspec e) → exec (.drop src job tspec) s = .next { s with heldCtl := s.heldCtl ++ [⟨4, job, src, tspec, 0, false⟩] }) ∧
      (∀ i r, finds job tspec i r →
        ((∀ g, ¬ up src g r) → exec (.drop src job tspec) s = .next s ∧ ∀ again, exec (.grant src job tspec again) s = .next s) ∧
        (∀ g, up src g r →
          (∃ u, exec (.drop src job tspec) s = .next u ∧ Tab.get? u.reds i = none ∧ Tab.get? u.cmds i = none ∧ u.outbox = s.outbox) ∧
          (r.doneSent = true → k + 1 = chunks r → ∃ u, exec (.grant src job tspec false) s = .next u ∧ Tab.get? u.reds i = none ∧
            Tab.get? u.cmds i = none) ∧
          (∀ again : Bool,
            let r1 : Red := { r with granted := max r.granted (k + 1), unacked := r.unacked.filter (fun x => decide (k < x.1 + 8)) }
            r.doneSent = false → stuck r1 → (Tab.get? s.cmds i).isSome = true → exec (.grant src job tspec again) s = .next { s.putRed i r1 with
              outbox := s.outbox ++ (if again then r1.unacked.map (fun x => packet g r (parent r) 3 x.1 (wire r * size r x.1) x.2) else []) })))) ∧
    (∀ (i : Nat) (right : Bool),
      let expiry : Instr := .redDeadlineExpiry i right
      let resend : Instr := .resendTimeout i right
      let tear : Instr := .tearTimeout i right
      (¬ (∃ r c, Tab.get? s.reds i = some r ∧ side r right = some c ∧ r.opened = true ∧ c.missing = false) →
        exec expiry s = .next s ∧ exec resend s = .next s ∧ exec tear s = .next s) ∧
      (∀ r c g, Tab.get? s.reds i = some r → side r right = some c → r.opened = true → c.missing = false → groupOf s r.tenancy r.gid = some g →
        (c.seen = true ∨ strict r → exec expiry s = .next s) ∧
        (c.seen = false → ¬ strict r → ∃ u more, exec expiry s = .next u ∧ u.outbox = s.outbox ++ [packet g r c.rank 4 0 1 3] ++ more ∧
          u.dev 0x9000 0x23 = s.dev 0x9000 0x23 + subtreeSize r.n ((c.rank + r.n - r.owner) % r.n) ∧
          (∀ q, Tab.get? u.reds i = some q → q.late = true ∧ ∃ d, side q right = some d ∧ d.missing = true)) ∧
        (repeats r c → exec resend s = .next { s.putRed i (withSide r right { c with grant := max c.grant (c.grant - 1 + 1), resent := true })
          with outbox := s.outbox ++ [grant g r c.rank (c.grant - 1) true] }) ∧
        (¬ repeats r c → exec resend s = .next s) ∧
        (owes r c → c.resent = true → ¬ strict r → (Tab.get? s.cmds i).isSome = true → ∃ u, exec tear s = .next u ∧ torn u i g r 1) ∧
        (¬ owes r c ∨ c.resent = false ∨ strict r → exec tear s = .next s))) ∧
    (∀ i : Nat,
      let c : Instr := .gradientLanding i
      let lands : Prop := ∃ r m, Tab.get? s.reds i = some r ∧ Tab.get? s.cmds i = some m ∧ r.sums ≠ [] ∧ r.pos = 0 ∧ r.doneSent = true ∧ r.opened = true
      (¬ lands → exec c s = .next s) ∧
      (∀ r m k v rest, Tab.get? s.reds i = some r → Tab.get? s.cmds i = some m → r.sums = (k, v) :: rest → r.pos = 0 → r.doneSent = true →
        r.opened = true → ∃ u, exec c s = .next u ∧ u.landing = s.landing ++ [⟨(m.slot 1).space, r.job, (m.slot 1).base + 4096 * k, size r k,
            (kids r).foldl (fun v y => v + (y.fin.elim 0 (fun f => f.1))) 1, i, v, 0⟩] ∧
          Tab.get? u.reds i = some { r with sums := rest, opened := !rest.isEmpty }))

/-- R412 to R414: the events of checks and broadcasts. -/
def Obligations.VotesAndBroadcasts : Prop :=
  ∀ s : State,
    let held (kind job src tspec total : Nat) (flag : Bool) : State := { s with heldCtl := s.heldCtl ++ [⟨kind, job, src, tspec, total, flag⟩] }
    let sat (a b : Nat) : Nat := min (2 ^ 32 - 1) (a + b)
    let strict (k : Check) : Prop := k.tenancy < 16 ∧ s.ten k.tenancy 0xC060 1 = 1
    let kids (k : Check) : List VChild := k.left.toList ++ k.right.toList
    let known (v : VChild) : Prop := v.missing = true ∨ v.vote ≠ none
    let named (job tspec : Nat) (e : Nat × Check) : Prop := jobOf s e.2.tenancy = job ∧ e.2.gid = tspec / 2 ^ 27 % 8 ∧ e.2.step % 4 = tspec / 2 ^ 30 % 4
    let finds (job tspec i : Nat) (k : Check) : Prop := ∃ before after, s.checks = before ++ (i, k) :: after ∧ named job tspec (i, k) ∧
      (∀ e ∈ before, ¬ named job tspec e) ∧ Tab.get? s.checks i = some k
    let packet (k : Check) (g : RGroup) (to_ type total : Nat) (flag : Bool) : Packet := ⟨g.nodes.getD to_ 0xFFFF, s.dev 0x4000 0, 4, 0, 0,
      jobOf s k.tenancy, 8, k.step % 4 * 2 ^ 30 + k.gid * 2 ^ 27, type + (if flag then 256 else 0) + total % 2 ^ 32 * 256 ^ 4⟩
    let epochOf (k : Check) : Nat := 64 * (handleOf k.epoch).tenancy + (handleOf k.epoch).index
    let total (own : Nat) (vs : List VChild) : Nat := vs.foldl (fun a v => if v.missing then sat a 0 else sat a (v.vote.elim 0 (fun x => x.1))) own
    let flagged (vs : List VChild) : Bool := vs.any (fun v => v.missing || v.vote.elim false (fun x => x.2))
    -- the result of a check, at one of its nodes
    let resolved (u : State) (i : Nat) (k : Check) (g : RGroup) (t : Nat) (flag : Bool) : Prop :=
      Tab.get? u.checks i = none ∧ Tab.get? u.cmds i = none ∧
      (∃ more, u.outbox = s.outbox ++ (kids k).map (fun v => packet k g v.rank 6 t flag) ++ more) ∧
      ((handleOf k.epoch).kind = 2 → (handleOf k.epoch).odd = false → (handleOf k.epoch).index < 64 → ∀ e, Tab.get? s.epochs (epochOf k) = some e →
        e.gen % 2 ^ 23 = (handleOf k.epoch).gen →
        (e.state = .opened → ∃ f, Tab.get? u.epochs (epochOf k) = some f ∧ f.gen = e.gen ∧
          f.state = if t = 0 ∧ flag = false then .committed else .discarded) ∧
        (e.state ≠ .opened → ∃ f, Tab.get? u.epochs (epochOf k) = some f ∧ f.state = e.state))
    -- a check whose own vote is taken goes on
    let goes (u : State) (i : Nat) (k : Check) (g : RGroup) (own : Nat) : Prop :=
      let t := total own (kids k)
      let flag := flagged (kids k)
      (k.sent = true ∨ (∃ v ∈ kids k, ¬ known v) → Tab.get? u.checks i = some k ∧ u.outbox = s.outbox) ∧
      (k.sent = false → (∀ v ∈ kids k, known v) → g.rank ≠ 0 → Tab.get? u.checks i = some { k with sent := true } ∧
        u.outbox = s.outbox ++ [packet k g ((g.rank - 1) / 2) 5 t flag]) ∧
      (k.sent = false → (∀ v ∈ kids k, known v) → g.rank = 0 → resolved u i k g t flag)
    (∀ (src job tspec tot : Nat) (flag : Bool),
      let vote : Instr := .vote src job tspec tot flag
      let result : Instr := .result src job tspec tot flag
      ((∀ e ∈ s.checks, ¬ named job tspec e) → exec vote s = .next (held 0 job src tspec tot flag) ∧
        exec result s = .next (held 1 job src tspec tot flag)) ∧
      (∀ i k, finds job tspec i k → k.own = none → exec vote s = .next (held 0 job src tspec tot flag)) ∧
      (∀ i k g own before after, finds job tspec i k → k.own = some own → groupOf s k.tenancy k.gid = some g →
        g.nodes = before ++ src :: after → src ∉ before →
        let take (v : VChild) : VChild := if v.rank = before.length ∧ v.missing = false ∧ v.vote = none then { v with vote := some (tot, flag) } else v
        ∃ u, exec vote s = .next u ∧ goes u i { k with left := k.left.map take, right := k.right.map take } g own) ∧
      (∀ i k g own, finds job tspec i k → k.own = some own → groupOf s k.tenancy k.gid = some g → src ∉ g.nodes → exec vote s = .next s) ∧
      (∀ i k g, finds job tspec i k → groupOf s k.tenancy k.gid = some g →
        (g.rank ≠ 0 → g.nodes.getD ((g.rank - 1) / 2) 0xFFFF = src → ∃ u, exec result s = .next u ∧ resolved u i k g tot flag) ∧
        (g.rank = 0 ∨ g.nodes.getD ((g.rank - 1) / 2) 0xFFFF ≠ src → exec result s = .next s))) ∧
    (∀ (i : Nat) (expired : Bool),
      let c : Instr := .voteTaken i expired
      ((Tab.get? s.checks i = none ∨ ∃ k, Tab.get? s.checks i = some k ∧ k.own ≠ none) → exec c s = .next s) ∧
      (∀ k g, Tab.get? s.checks i = some k → k.own = none → groupOf s k.tenancy k.gid = some g →
        let key := epochOf k
        let counts (e : Nat × Cmd) : Prop := e.2.engine ≤ 1 ∧ ¬ (e.2.engine = 1 ∧ e.2.op = 4) ∧ e.2.dev = false ∧ e.2.tenancy.val = key / 64 ∧
          e.2.epoch = some (key % 64)
        let holder (e : Nat × Cmd) : Prop := e.2.engine = 1 ∧ e.2.op = 3
        let ended : Prop := ∀ e ∈ s.cmds, counts e → holder e ∧ expired = true ∧ ¬ strict k
        (¬ ended → exec c s = .next s) ∧
        (ended → (∀ h ∈ s.heldCtl, ¬ (h.kind = 0 ∧ h.job = jobOf s k.tenancy ∧ h.tspec / 2 ^ 27 = k.step % 4 * 2 ^ 3 + k.gid)) →
          let late := (s.cmds.filter (fun e => e.2.engine ≤ 1 && !(e.2.engine == 1 && e.2.op == 4) && !e.2.dev && e.2.tenancy.val == key / 64 &&
            e.2.epoch == some (key % 64))).length
          let own := sat (match Tab.get? s.epochs key with | some e => e.vote | none => 0) late
          ∃ u, exec c s = .next u ∧ goes u i { k with own := some own } g own ∧
            (((∃ v ∈ kids k, ¬ known v) ∨ g.rank ≠ 0) → u.dev 0x9000 0x2A = s.dev 0x9000 0x2A + late)))) ∧
    (∀ (i : Nat) (right : Bool),
      let c : Instr := .voteDeadline i right
      let side (k : Check) : Option VChild := if right then k.right else k.left
      let due : Prop := ∃ k v, Tab.get? s.checks i = some k ∧ side k = some v ∧ k.own ≠ none ∧ ¬ known v ∧ ¬ strict k
      (¬ due → exec c s = .next s) ∧
      (∀ k v g own, Tab.get? s.checks i = some k → side k = some v → k.own = some own → ¬ known v → ¬ strict k → groupOf s k.tenancy k.gid = some g →
        let gone : VChild := { v with missing := true }
        let k1 : Check := if right then { k with right := some gone } else { k with left := some gone }
        ∃ u, exec c s = .next u ∧ goes u i k1 g own ∧ (((∃ w ∈ kids k1, ¬ known w) ∨ g.rank ≠ 0) → u.dev 0x9000 0x2A = s.dev 0x9000 0x2A + 1))) ∧
    (∀ (src job tspec : Nat),
      let isCmd (op : Nat) (p : Cmd → Prop) (e : Nat × Cmd) : Prop := e.2.engine = 1 ∧ e.2.op = op ∧ e.2.phase = .started ∧ jobOf s e.2.space = job ∧
        e.2.par 136 4 = tspec / 2 ^ 10 % 2 ^ 18 ∧ e.2.par 140 4 % 4 = tspec / 2 ^ 30 % 4 ∧ p e.2
      let the (op : Nat) (p : Cmd → Prop) (i : Nat) (c : Cmd) : Prop := ∃ before after, s.cmds = before ++ (i, c) :: after ∧ isCmd op p (i, c) ∧
        (∀ e ∈ before, ¬ isCmd op p e) ∧ Tab.get? s.cmds i = some c
      let node (c : Cmd) (rank : Nat) : Nat := match groupOf s c.space (c.par 145 1) with
        | some g => g.nodes.getD rank 0xFFFF
        | none => 0xFFFF
      let dests (c : Cmd) : List Nat := (List.range (c.par 144 1)).map (fun k => node c (c.par (146 + 2 * k) 2))
      let sends (c : Cmd) : Prop := src ∈ dests c
      let owned (c : Cmd) : Prop := node c (c.par 146 2) = src
      let spec (c : Cmd) (slot k : Nat) : Nat := c.par 140 4 % 4 * 2 ^ 30 + slot * 2 ^ 28 + c.par 136 4 * 2 ^ 10 + k
      ((∀ e ∈ s.cmds, ¬ isCmd 2 sends e) → exec (.bready src job tspec) s = .next (held 2 job src tspec 0 false)) ∧
      (∀ i c, the 2 sends i c →
        let fresh := (List.range (dests c).length).filter (fun k => (dests c).getD k 0 == src && !c.aux.contains k)
        (fresh = [] → exec (.bready src job tspec) s = .next s) ∧
        (fresh ≠ [] → ∀ r, castRead s c = r →
          ((∀ d ∈ r.2, firstPoison d.1 0 d.2 = none) → ∃ u, exec (.bready src job tspec) s = .next u ∧
            u.outbox = r.1.outbox ++ (r.2.map (fun d => (List.range (d.1.len / 4096)).map (fun k => (⟨src, r.1.dev 0x4000 0, 5, 0, 0, job, 4096,
              spec c d.1.index k, bytesVal ((d.2.drop (4096 * k)).take 4096)⟩ : Packet)))).flatten ∧
            (c.aux.length + fresh.length = (dests c).length → Tab.get? u.cmds i = none) ∧
            (c.aux.length + fresh.length ≠ (dests c).length → Tab.get? u.cmds i = some { c with aux := c.aux ++ fresh })) ∧
          ((∃ d ∈ r.2, firstPoison d.1 0 d.2 ≠ none) → ∃ u, exec (.bready src job tspec) s = .next u ∧ Tab.get? u.cmds i = none ∧
            u.outbox = r.1.outbox ++ (dests c).eraseDups.map (fun n => (⟨n, r.1.dev 0x4000 0, 4, 0, 0, job, 1, spec c 0 0, 8⟩ : Packet))))) ∧
      ((∀ e ∈ s.cmds, ¬ isCmd 3 owned e) → exec (.babort src job tspec) s = .next s ∧ ∀ len data, exec (.bcast src job tspec len data) s = .next s) ∧
      (∀ i c, the 3 owned i c →
        (∃ u, exec (.babort src job tspec) s = .next u ∧ Tab.get? u.cmds i = none) ∧
        (∀ len data,
          let slot := tspec / 2 ^ 28 % 4
          let k := tspec % 1024
          let b : Instr := .bcast src job tspec len data
          ((∀ m ∈ c.slots, m.index ≠ slot) ∨ len ≠ 4096 → ∃ u, exec b s = .next u ∧ Tab.get? u.cmds i = none) ∧
          (∀ m, c.slots.find? (fun m => m.index == slot) = some m → len = 4096 →
            let aux := if 1024 * slot + k ∈ c.aux then c.aux else c.aux ++ [1024 * slot + k]
            let all := c.slots.foldl (fun a x => a + x.len / 4096) 0
            let wrote := engWrite s m m.alt (4096 * k) ((List.range 4096).map (fun j => (data / 256 ^ j % 256, false)))
            (m.len < 4096 * k + 4096 → ∃ u, exec b s = .next u ∧ Tab.get? u.cmds i = none) ∧
            (4096 * k + 4096 ≤ m.len → aux.length ≠ all → exec b s = .next (wrote.putCmd i { c with aux := aux })) ∧
            (4096 * k + 4096 ≤ m.len → aux.length = all → ∃ u, exec b s = .next u ∧ Tab.get? u.cmds i = none)))))

/-- R479, R480, R495 to R499, R529, R531: keys and the life of a tenancy. -/
def Obligations.TenancyLife : Prop :=
  ∀ s : State,
    (∀ (n : Fin 16) (v : BitVec 8),
      let refused : Prop := v ≠ 1 ∨ s.ten n.val 0xC050 1 ≠ 0 ∨ s.tstate n.val = 0 ∨ s.tstate n.val = 1
      let p := s.sp (spaceOf n.val)
      let k := (p.keyEpoch + 1) % 2 ^ 32
      let s1 := (s.setSp (spaceOf n.val) { p with keyEpoch := k }).setTen n.val 0xC080 0 k
      (refused → exec (.keyRotate n v) s = .next s) ∧
      (¬ refused → stalePages s1 (spaceOf n.val) = 0 → exec (.keyRotate n v) s = .next (s1.post n.val 6 k)) ∧
      (¬ refused → stalePages s1 (spaceOf n.val) ≠ 0 → ∃ u, exec (.keyRotate n v) s = .next u ∧ u.ten n.val 0xC080 0 = k ∧
        (u.sp (spaceOf n.val)).keyEpoch = k ∧ (u.sp (spaceOf n.val)).sweeping = true ∧
        u.ten n.val 0xC050 1 = stalePages s1 (spaceOf n.val))) ∧
    (∀ fn : Fin 16,
      let ds := s.dev 0x1021 0
      let clock : Prop := ds = 2 ∨ ds = 3 ∨ ds = 4
      (¬ clock ∨ s.power.perstLow = true → exec (.functionEnable fn) s = .next s) ∧
      (clock → s.power.perstLow = false → ∃ u, exec (.functionEnable fn) s = .next u ∧ u.fn fn = { s.fn fn with enabled := true } ∧
        (s.tstate fn.val = 0 → ds = 3 ∨ ds = 4 → u.tstate fn.val = 2 ∧
          u.ten fn.val 0xC030 0 = 65536 * (regionUnits s.qlShare 0 + Config.rootBase + fn.val)) ∧
        (s.tstate fn.val ≠ 0 ∨ ds = 2 → u.tstate fn.val = s.tstate fn.val)) ∧
      (∀ c ∈ [Instr.functionDisable fn, .functionLevelReset fn], ∃ u, exec c s = .next u ∧
        u.fn fn = { Func.reset with ide := (s.fn fn).ide } ∧ u.tstate fn.val = 0 ∧
        (∀ q < 64, u.ten fn.val 0xC0A0 q = 0xFFFFFFFF ∧ u.ten fn.val 0xC0A1 q = 0xFFFFFFFF ∧ u.ten fn.val 0xC0A2 q = 0xFFFFFFFF) ∧
        (∀ m : Fin 16, m ≠ fn → u.tstate m.val = s.tstate m.val ∧ u.fn m = s.fn m) ∧
        (s.tstate fn.val ≠ 0 → (u.sp (spaceOf fn.val)).keyEpoch = ((s.sp (spaceOf fn.val)).keyEpoch + 1) % 2 ^ 32 ∧
          u.ten fn.val 0xC080 0 = ((s.sp (spaceOf fn.val)).keyEpoch + 1) % 2 ^ 32 ∧ (u.sp (spaceOf fn.val)).sweeping = false ∧
          (u.sp (spaceOf fn.val)).pagesHeld = 0 ∧ u.ten fn.val 0xC010 0 = 0 ∧ u.ten fn.val 0xC080 3 = 0xFFFF ∧
          (∀ e ∈ u.tasks, e.2.dev = false → e.2.tenancy ≠ fn) ∧ (∀ e ∈ u.epochs, e.1 / 64 ≠ fn.val) ∧
          (∀ e ∈ u.keySlots, e.2.tenancy ≠ fn.val) ∧ (∀ x ∈ u.shadows, x.space ≠ fn.val)))) ∧
    (∀ n : Fin 16,
      let drained : Prop := (∀ e ∈ s.tasks, e.2.dev = false → e.2.tenancy = n → e.2.state ≠ .running) ∧
        (∀ e ∈ s.cmds, ¬ (e.2.space = n.val ∧ e.2.dev = false)) ∧ (s.tenant n.val).drain = none ∧ ∀ q ∈ (s.fn n).cqs, q.2.waiting = []
      (s.tstate n.val ≠ 6 ∨ ¬ drained → exec (.drainingEnd n) s = .next s) ∧
      (s.tstate n.val = 6 → drained → ∃ u, exec (.drainingEnd n) s = .next u ∧ u.tstate n.val = 3 ∧ u.ten n.val 0xC080 3 = 0xFFFF ∧
        (u.tenant n.val).finalStep = none ∧ (∀ e ∈ u.tasks, e.2.dev = false → e.2.tenancy ≠ n) ∧ (∀ e ∈ u.redGroups, e.1 / 8 ≠ n.val)))

/-- R503 to R524, R530, R535: the rings of a function, its mailbox, and the period. -/
def Obligations.RingsAndEvents : Prop :=
  ∀ s : State,
    let ready : Prop := s.dev 0x1021 0 = 3 ∨ s.dev 0x1021 0 = 4
    (∀ (fn : Fin 16) (tee : Bool),
      let x := s.fn fn
      let taken : Prop := x.enabled = true ∧ s.power.perstLow = false ∧ (fn.val = 0 ∨ x.tdi ≠ 2 ∨ tee = true)
      (¬ taken → (∀ q v, exec (.submissionDoorbell fn q v tee) s = .next s) ∧ (∀ q v, exec (.completionHeadDoorbell fn q v tee) s = .next s) ∧
        (∀ i, exec (.userDoorbell fn i tee) s = .next s) ∧ (∀ q v, exec (.sqCtlWrite fn q v tee) s = .next s) ∧
        ∀ q v, exec (.cqCtlWrite fn q v tee) s = .next s) ∧
      (taken →
        (∀ (q : Fin 64) (v : BitVec 32),
          let r := x.sq q.val
          let d := (v.toNat + 2 ^ 32 - s.ten fn.val 0xC0A0 q.val) % 2 ^ 32
          let r0 : SubRing := { r with stalled := false }
          exec (.submissionDoorbell fn q v tee) s = .next (s.setFn fn (x.setSq q.val (if 1 ≤ d ∧ d ≤ 2 ^ (r.ctl / 2 % 8 + 4) then { r0 with door := v.toNat }
            else if d = 0 ∨ 2 ^ 31 < d then r0 else { r0 with status := r.status ||| 4 })))) ∧
        (∀ (q : Fin 65) (v : BitVec 32), exec (.completionHeadDoorbell fn q v tee) s = .next (s.setFn fn
          (if q.val = 64 then { x with ev := { x.ev with head := v.toNat } } else { x with cqs := Tab.put x.cqs q.val { x.cq q.val with head := v.toNat } }))) ∧
        (∀ i : Fin 16,
          let w := s.ten fn.val 0xC0A4 i.val
          let t := tidOf (16 * (w / 2 ^ 8 % 64) + w % 16)
          ((s.ten fn.val 0xC010 0).testBit (w / 2 ^ 8 % 64) = true →
            exec (.userDoorbell fn i tee) s = .next (s.setTh t { s.th t with ipend := (s.th t).ipend ||| 1#64 <<< (32 + i.val) })) ∧
          ((s.ten fn.val 0xC010 0).testBit (w / 2 ^ 8 % 64) = false → exec (.userDoorbell fn i tee) s = .next (s.count fn.val 0x2D 1))) ∧
        (∀ (q : Fin 64) (v : BitVec 32),
          let w := v.toNat
          let r := x.sq q.val
          let r0 : SubRing := { r with status := r.status - (r.status &&& ((w / 2 ^ 16 % 256) &&& 6)) }
          let error (y : SubRing) : SubRing := { y with status := r0.status ||| 2 }
          let owed : Bool := x.cmds.any (fun c => c.sq == q.val) || x.cqs.any (fun e => e.2.waiting.any (fun y => y.sq == q.val && !y.reset))
          let same : Bool := decide (w % 2 ^ 10 / 2 = r.ctl / 2)
          exec (.sqCtlWrite fn q v tee) s = .next (s.setFn fn (x.setSq q.val (if r.ctl.testBit 0 then
              (if w.testBit 0 then (if same then r0 else error r0)
                else if owed then error r0 else if same then { r0 with ctl := r.ctl - 1 } else error { r0 with ctl := r.ctl - 1 })
            else if w.testBit 0 && !(x.cq (w / 2 ^ 4 % 64)).ctl.testBit 0 then error r0 else { r0 with ctl := w % 2 ^ 10 })))) ∧
        (∀ (q : Fin 65) (v : BitVec 32),
          let w := v.toNat
          let r := if q.val = 64 then x.ev else x.cq q.val
          let r0 : CompRing := { r with status := r.status - (r.status &&& ((w / 2 ^ 16 % 256) &&& 6)) }
          let error (y : CompRing) : CompRing := { y with status := r0.status ||| 2 }
          let bound : Bool := q.val != 64 && x.sqs.any (fun e => e.2.ctl.testBit 0 && e.2.ctl / 2 ^ 4 % 64 == q.val)
          let put (y : CompRing) : Func := if q.val = 64 then { x with ev := y } else { x with cqs := Tab.put x.cqs q.val y }
          let kept : CompRing := { r0 with ctl := r.ctl / 4 % 8 * 4 + w % 4 }
          exec (.cqCtlWrite fn q v tee) s = .next (s.setFn fn (put (if r.ctl.testBit 0 then
              (if !w.testBit 0 && bound then error r0 else if w / 4 % 8 = r.ctl / 4 % 8 then kept else error kept)
            else { r0 with ctl := w % 32 })))))) ∧
    (∀ fn : Fin 16,
      let x := s.fn fn
      let legal : Prop := ∀ c ∈ x.cmds, 1 ≤ c.op ∧ c.op ≤ 14
      let next (q : Nat) : Nat := (s.ten fn.val 0xC0A2 q + 1) % 2 ^ 32
      let depth (r : CompRing) : Nat := 2 ^ (r.ctl / 4 % 8 + 4)
      let room (q : Nat) (r : CompRing) : Prop := (next q + 2 ^ 32 - r.head) % 2 ^ 32 < depth r
      -- an entry of 32 bytes at its slot, and the message of its ring
      let posted (u : State) (q : Nat) (r : CompRing) (body : Nat) : Prop := ∃ msg, u.hostOut = s.hostOut ++
          [(r.base + 32 * (next q % depth r), ⟨32, body + next q + (1 - next q / depth r % 2) * 256 ^ 7⟩)] ++ msg ∧
        u.ten fn.val 0xC0A2 q = next q ∧ (r.ctl.testBit 1 = false → msg = []) ∧
        (r.ctl.testBit 1 = true → (x.msixWord (2 * q + 1)).testBit 32 = false → msg = [(x.msixWord (2 * q), ⟨4, x.msixWord (2 * q + 1) % 2 ^ 32⟩)]) ∧
        (r.ctl.testBit 1 = true → (x.msixWord (2 * q + 1)).testBit 32 = true → msg = [] ∧ (u.fn fn).pending = x.pending ||| 2 ^ q)
      (∀ (q : Fin 64) (entry : BitVec 512),
        let r := x.sq q.val
        let e := (s.ten fn.val 0xC0A0 q.val + 1) % 2 ^ 32
        let v := entry.toNat
        let bound := x.cq (r.ctl / 2 ^ 4 % 64)
        let fetches : Prop := ready ∧ r.ctl.testBit 0 = true ∧ r.stalled = false ∧ (bound.waiting = [] ∨ room (r.ctl / 2 ^ 4 % 64) bound) ∧
          (r.door + 2 ^ 32 - e) % 2 ^ 32 < 2 ^ (r.ctl / 2 % 8 + 4)
        let op := if v / 2 ^ 9 % 2 ^ 7 = 0 ∧ v / 2 ^ 16 % 2 ^ 16 = 0 then v % 256 else 0
        (¬ fetches → exec (.sqEntryFetch fn q entry) s = .next s) ∧
        (fetches → v / 256 ^ 4 % 2 ^ 32 ≠ e → ∃ u, exec (.sqEntryFetch fn q entry) s = .next u ∧ u.stops = s.stops ∧ ((u.fn fn).sq q.val).stalled = true ∧
          (u.fn fn).cmds = x.cmds ∧ ((u.fn fn).cq (r.ctl / 2 ^ 4 % 64)).waiting =
            bound.waiting ++ [⟨3, s.tstate fn.val, q.val, false, v / 256 ^ 4 % 2 ^ 32, v / 256 ^ 8 % 2 ^ 64, e⟩]) ∧
        (fetches → v / 256 ^ 4 % 2 ^ 32 = e → legal → 1 ≤ op → op ≤ 14 → exec (.sqEntryFetch fn q entry) s = .next ((s.setTen fn.val 0xC0A0 q.val e).setFn fn
          { x with cmds := x.cmds ++ [⟨q.val, e, op, v.testBit 8, v / 256 ^ 8 % 2 ^ 64, v / 256 ^ 16, 0, none⟩] })) ∧
        (fetches → v / 256 ^ 4 % 2 ^ 32 = e → x.cmds = [] → op = 0 ∨ 14 < op → ∃ u, exec (.sqEntryFetch fn q entry) s = .next u ∧
          u.ten fn.val 0xC0A0 q.val = e ∧ (u.fn fn).cmds = [] ∧ ((u.fn fn).cq (r.ctl / 2 ^ 4 % 64)).waiting =
            bound.waiting ++ [⟨5, s.tstate fn.val, q.val, false, e, v / 256 ^ 8 % 2 ^ 64, 0⟩])) ∧
      (∀ q : Fin 64,
        let r := x.cq q.val
        let can : Prop := r.waiting ≠ [] ∧ ready ∧ r.ctl.testBit 0 = true ∧ room q.val r
        (¬ can → exec (.completionPosting fn q) s = .next s) ∧
        (∀ w ws, can → legal → r.waiting = w :: ws → ∃ u, exec (.completionPosting fn q) s = .next u ∧ ((u.fn fn).cq q.val).waiting = ws ∧
          posted u q.val r (w.status * 256 ^ 4 + w.tstate * 256 ^ 5 + w.sq * 256 ^ 6 + (if w.reset then 2 else 0) * 256 ^ 7 + w.hseq * 256 ^ 8 +
            w.tag * 256 ^ 16 + w.result % 2 ^ 64 * 256 ^ 24))) ∧
      (let can : Prop := ready ∧ x.ev.ctl.testBit 0 = true ∧ room 64 x.ev
       (s.events[fn.val] = [] ∨ ¬ can ∨ x.resume ≠ none → exec (.eventPosting fn) s = .next s) ∧
       (∀ e es, s.events[fn.val] = e :: es → can → x.resume = none → ∃ u, exec (.eventPosting fn) s = .next u ∧ u.events[fn.val] = es ∧
          u.eventsLost[fn.val] = 0 ∧ posted u 64 x.ev (e.code * 256 ^ 4 + e.detail % 256 ^ 16 * 256 ^ 8 + s.eventsLost[fn.val] % 2 ^ 32 * 256 ^ 24)) ∧
       (x.resume = none ∨ ¬ can → exec (.ringResume fn none) s = .next s) ∧
       (∀ kind, x.resume = some kind → can → ∃ u, exec (.ringResume fn none) s = .next u ∧ (u.fn fn).resume = none ∧
          posted u 64 x.ev (256 ^ 4 + (kind + s.dev 0xA000 0 * 256 ^ 4 + x.abandoned.length * 256 ^ 8) % 256 ^ 16 * 256 ^ 8 +
            s.eventsLost[fn.val] % 2 ^ 32 * 256 ^ 24)) ∧
       (∀ q : Fin 64,
          let owed := x.abandoned.filter (fun a => a.1 == q.val)
          let r := x.cq q.val
          (x.resume ≠ none ∨ ¬ ready ∨ r.ctl.testBit 0 = false ∨ owed = [] → exec (.ringResume fn (some q)) s = .next s) ∧
          (x.resume = none → ready → r.ctl.testBit 0 = true → owed ≠ [] → ∃ u, exec (.ringResume fn (some q)) s = .next u ∧
            (u.fn fn).abandoned = x.abandoned.filter (fun a => a.1 != q.val) ∧ ((u.fn fn).cq q.val).waiting =
              owed.map (fun a => ⟨10, s.tstate fn.val, a.2.sq, true, a.2.hseq, a.2.tag, 0⟩) ++ r.waiting ∧
            ∀ a ∈ owed, u.ten fn.val 0xC0A1 a.2.sq = s.ten fn.val 0xC0A0 a.2.sq)))) ∧
    (∀ (power : BitVec 32) (short : List (Fin 192 × Fin 16)), ∃ u, exec (.managementPeriod power short) s = .next u ∧ u.dev 0x2006 0 = power.toNat ∧
      u.dev 0x9000 0x44 = s.dev 0x9000 0x44 + 1 ∧ u.dev 0x9001 0x44 = s.dev 0x9000 0x44 + 1 ∧ (∀ p : Fin 16, (u.port p).departures = 0) ∧
      (∀ n, (u.tenant n).refused = 0) ∧ (∀ p : Fin 16, ∀ k < 6, u.dev (0x9010 + p.val) (0x10 + k) = s.dev (0x9010 + p.val) k ∧ u.dev (0x9010 + p.val) k = 0) ∧
      ∀ k, k < 0x16 ∨ (0x20 ≤ k ∧ k < 0x2E) ∨ (0x40 ≤ k ∧ k < 0x44) → u.dev 0x9000 k = 0 ∧
        ((∀ n < 16, s.ten n 0xC050 1 = 0) ∨ short = [] → u.dev 0x9001 k = s.dev 0x9000 k)) ∧
    (∀ req : BitVec 512,
      let v := req.toNat
      let ten := v / 256 ^ 32 % 256
      let asks : Prop := (ten = 0 ∨ ten = 0xFF) ∧ v / 256 ^ 33 = 0
      (¬ asks → exec (.doeAttest req) s = .next { s with doe := none }) ∧
      (asks → (measurements s ten).length < 256 → ∃ u b, exec (.doeAttest req) s = .next u ∧ u.doe = some b ∧
        b.len = 3457 + 72 * (measurements s ten).length ∧ b.field 0 4 = 1 ∧ b.field 8 1 = ten ∧ b.field 40 32 = v % 256 ^ 32)) ∧
    (∀ fn : Fin 16,
      let x := s.fn fn
      let answered (u : State) : Prop := u.doe.isSome = true ∧ u.draws = s.draws + 1 ∧ u.stops = s.stops
      (∀ i, ∃ u, exec (.spdmTdispRequest (.discovery i)) s = .next u ∧ answered u ∧ u.funcs = s.funcs ∧ u.spdm = s.spdm) ∧
      (∀ own len body, ∃ u, exec (.spdmTdispRequest (.spdm own len body)) s = .next u ∧ answered u ∧ u.funcs = s.funcs ∧ u.spdm = (own || s.spdm)) ∧
      (∀ key, ∃ u, exec (.spdmTdispRequest (.ideKey fn key)) s = .next u ∧ answered u ∧
        u.fn fn = if s.spdm then { x with ide := some key.toNat } else x) ∧
      (∀ op, ∃ u, exec (.spdmTdispRequest (.tdisp fn op)) s = .next u ∧ answered u ∧
        (s.spdm = false ∨ fn.val = 0 → u.fn fn = x) ∧
        (s.spdm = true → fn.val ≠ 0 → (op = .lock → x.tdi = 0 → (u.fn fn).tdi = 1) ∧ (op = .start → x.tdi = 1 → (u.fn fn).tdi = 2) ∧
          (op = .stop → (u.fn fn).tdi = 0) ∧ (op = .lock → x.tdi ≠ 0 → u.fn fn = x) ∧ (op = .start → x.tdi ≠ 1 → u.fn fn = x))))

/-- R514, R516, R525 to R529, R533: the host commands, their completions, and BAR2. -/
def Obligations.HostCommands : Prop :=
  ∀ (s : State) (fn : Fin 16),
    let n := fn.val
    let ready : Prop := s.dev 0x1021 0 = 3 ∨ s.dev 0x1021 0 = 4
    -- a completion: the command is no longer accepted, its posting stands last in its ring, and SQ_EXECUTED follows
    (∀ (u : State) (q h st res : Nat) (c : HostCmd), hostCmd u fn q h = some c →
      let v := hostFinish u fn q h st res
      let ring := ((u.fn fn).sq q).ctl / 2 ^ 4 % 64
      let left := (u.fn fn).cmds.filter (fun d => !(d.sq == q && d.hseq == h))
      (v.fn fn).cmds = left ∧
      ((v.fn fn).cq ring).waiting = ((u.fn fn).cq ring).waiting ++ [⟨st, u.tstate n, q, false, h, c.tag, res⟩] ∧
      (∀ d, left.find? (fun d => d.sq == q) = some d → v.ten n 0xC0A1 q = (d.hseq + 2 ^ 32 - 1) % 2 ^ 32) ∧
      (left.find? (fun d => d.sq == q) = none → v.ten n 0xC0A1 q = u.ten n 0xC0A0 q) ∧
      v.hbm = u.hbm ∧ v.tstate n = u.tstate n ∧ ∀ m, m ≠ fn → v.fn m = u.fn m) ∧
    -- what follows a command: entries without a command complete with RANGE as their turn comes
    (∀ u : State, (∀ c ∈ (u.fn fn).cmds, 1 ≤ c.op ∧ c.op ≤ 14) → settle u fn = u) ∧
    (∀ (q : Fin 64) (h : BitVec 32),
      let accepted (c : HostCmd) (op : Nat) : Prop := hostCmd s fn q.val h.toNat = some c ∧ c.op = op ∧ ready
      let turn (c : HostCmd) : Prop :=
        let before := ((s.fn fn).cmds.takeWhile (fun d => !(d.sq == c.sq && d.hseq == c.hseq))).filter (fun d => d.sq == c.sq)
        c.stage = 0 ∧ (c.ordered = true → before = []) ∧ ∀ d ∈ before, d.stage ≠ 0
      let par (c : HostCmd) (off k : Nat) : Nat := c.params / 256 ^ (off - 16) % 256 ^ k
      let zero (c : HostCmd) (off : Nat) : Bool := c.params / 256 ^ (off - 16) == 0
      let fin (u : State) (st res : Nat) : State := hostFinish u fn q.val h.toNat st res
      let moved (u : State) (new cause : Nat) : State := (u.setTen n 0xC080 4 new).post n 7 (u.tstate n + new * 2 ^ 8 + cause * 2 ^ 16)
      let row (op : Nat) (states : List Nat) (again : Bool) (ok : HostCmd → Bool) (i : Instr) (work : HostCmd → State → State → Prop) : Prop :=
        ((¬ ∃ c, accepted c op) → exec i s = .next s) ∧
        (∀ c, accepted c op → ¬ turn c → (again = true → c.stage ≠ 1) → exec i s = .next s) ∧
        (∀ c, accepted c op → turn c → s.tstate n ∉ states → exec i s = .next (settle (fin s 2 0) fn)) ∧
        (∀ c, accepted c op → turn c → s.tstate n ∈ states → ok c = false → exec i s = .next (settle (fin s 5 0) fn)) ∧
        (∀ c, accepted c op → turn c → s.tstate n ∈ states → ok c = true →
          ∃ u, exec i s = .next (settle u fn) ∧ work { c with stage := 1 } (putHostCmd s fn { c with stage := 1 }) u) ∧
        (again = true → ∀ c, accepted c op → c.stage = 1 → ∃ u, exec i s = .next (settle u fn) ∧ work c s u)
      let all := [0, 1, 2, 3, 4, 5, 6]
      (∀ data, row 1 [2, 3] false
        (fun c => par c 24 4 % 4 == 0 && decide (par c 24 4 ≤ 2 ^ 30) && decide (par c 28 1 ≤ 7) && par c 29 3 == 0 && zero c 40)
        (.loadProgram fn q h data) (fun c s1 u =>
          let len := par c 24 4
          let a := hostRange s1 n (par c 32 8) len true
          (∀ r, a.2 = .error r → u = fin a.1 10 r) ∧
          ∀ runs, a.2 = .ok runs →
            let s2 := (writeRuns (windowAt a.1 n (par c 32 8)) runs (mkBytes len (data % 256 ^ len) false) a.1).count n 0x15 len
            let s3 := s2.setTenant n { s2.tenant n with programs := Tab.put (s2.tenant n).programs (par c 28 1) (shake256 len (data % 256 ^ len) 64) }
            u = fin (if s3.tstate n = 2 then moved s3 3 0 else s3) 0 0)) ∧
      (∀ data, row 2 [2, 3, 5] false (fun c => zero c 40) (.loadBundle fn q h data) (fun c s1 u =>
        let len := par c 24 8
        let b : Blob := ⟨len, data % 256 ^ len⟩
        let head := 1168 * b.field 36 4 + 5369
        let s2 := s1.count n 0x15 len
        (len < head ∨ len ≠ head + b.field 24 8 + 16 * b.field 32 4 → u = fin s2 5 0) ∧
        (head ≤ len → len = head + b.field 24 8 + 16 * b.field 32 4 →
          (∀ st, openBundle s2 n ⟨head, b.field 0 head⟩ = .error st → u = fin s2 st 0) ∧
          ∀ s3 slot, openBundle s2 n ⟨head, b.field 0 head⟩ = .ok (s3, slot) →
            let r := loadChunks n slot (par c 32 8) (b.val / 256 ^ head) (upto (b.field 32 4)) s3 0
            (r.2.2 ≠ 0 → u = fin { r.1 with keySlots := Tab.del r.1.keySlots slot } r.2.2 r.2.1) ∧
            ∀ ks, r.2.2 = 0 → Tab.get? r.1.keySlots slot = some ks → u = fin (closeBundle r.1 slot ks).1 (closeBundle r.1 slot ks).2 r.2.1))) ∧
      (let map (word : HostCmd → Nat) (c : HostCmd) (s1 u : State) : Prop :=
        let va := par c 16 8
        let len := par c 24 8
        let set := pgSet s1 (spaceOf n) va len (setArgOf (word c)) false
        (2 ^ 52 < va + len → u = fin s1 5 0) ∧
        (va + len ≤ 2 ^ 52 → (∀ st, set = .error st → u = fin s1 st 0) ∧
          ∀ s2, set = .ok s2 → u = if rangeHeld s1 n va len then s1 else fin s2 0 0)
       row 3 [2, 3, 5] true (fun c => zero c 40) (.map fn q h) (map (fun c => par c 32 8)) ∧
       row 4 [2, 3, 5] true (fun c => zero c 32) (.unmap fn q h) (map (fun _ => 0))) ∧
      row 5 [3] false
        (fun c => par c 16 2 != 0xFFFF && decide (par c 18 1 ≤ 1) && par c 19 1 == 0 && par c 22 2 == 0 && par c 28 4 == 0 && par c 40 8 % 128 == 0 && zero c 48)
        (.startJob fn q h) (fun c s1 u =>
          let job := par c 16 2
          let other : Prop := (∃ m < 16, m ≠ n ∧ s1.ten m 0xC080 3 = job) ∨ s1.dev 0x4000 2 ≠ 1 ∨ cacheDisabled s1 = true
          let a := readDescriptor s1 n (par c 40 8)
          (other → u = fin s1 2 0) ∧
          (¬ other → tensorTableOk s1 n = false → u = fin s1 5 0) ∧
          (¬ other → tensorTableOk s1 n = true → (∀ r, a.2 = .error r → u = fin a.1 10 r) ∧
            ∀ gs, a.2 = .ok gs →
              let poisoned := (granuleWords gs).any (fun w => w.2)
              let d := { taskDescOf gs with argC := tenancyRoot n }
              let good : Prop := descGood d = true ∧ d.flags.testBit 1 = false ∧ d.pred = 0 ∧
                ∀ p ∈ [d.code, d.rstack, d.dstack], capRefused 1 n p.toCap = none
              (poisoned = true → u = fin a.1 10 0) ∧
              (poisoned = false → ¬ good → u = fin a.1 5 0) ∧
              (poisoned = false → good → taskRoom a.1 n false = false → u = fin a.1 9 0) ∧
              (poisoned = false → good → taskRoom a.1 n false = true →
                let s2 := (((((((a.1.setTen n 0xC020 1 (par c 32 8)).setTen n 0xC020 2 (par c 20 2)).setTen n 0xC020 3 (par c 24 4)).setTen n 0xC020 4
                  0xFFFFFFFF).setTen n 0xC020 5 (par c 18 1)).setTen n 0xC080 3 job).setTen n 0xC090 0x31 (par c 24 4)).setTen n 0xC090 0x30 0
                let s3 := s2.setTenant n { s2.tenant n with stepTimes := [], badDiscards := 0, heldCase := 0, committed := false, restored := none,
                                                            restoredOk := false, finalStep := none }
                let r := newTask s3 d fn false none none none
                ∃ k, Tab.get? r.2.tasks r.1 = some k ∧ u = fin (setTstate r.2 n 4 0) 0 (taskHandle k r.1).toNat))) ∧
      row 6 [4] false (fun c => decide (par c 20 1 ≤ 1) && zero c 21) (.stepClose fn q h) (fun c s1 u =>
        let step := par c 16 4
        let now := s1.ten n 0xC090 0x31
        let final : Bool := (par c 20 1).testBit 0
        (step + 1 < now → u = fin s1 5 0) ∧
        (step + 1 = now → u = fin (if final then moved s1 6 3 else s1) 0 (s1.ten n 0xC091 0x30)) ∧
        (now ≤ step → u = if final then s1.setTenant n { s1.tenant n with finalStep := some step } else s1)) ∧
      row 7 [4] false (fun c => zero c 24) (.snapshotNow fn q h) (fun c s1 u =>
        let va := par c 16 8
        let a := hostRead s1 n va 16
        (∀ r, a.2 = .error r → u = fin a.1 10 r) ∧
        ∀ head, a.2 = .ok head →
          let k := bytesVal head / 256 ^ 8 % 256
          let b := if k ≤ 16 then hostRead a.1 n (va + 16) (24 * k) else (a.1, .ok [])
          (∀ r, b.2 = .error r → u = fin b.1 10 r) ∧
          ∀ tab, b.2 = .ok tab →
            let cs := (upto k).map (fun j => cursorOf (bytesVal tab / 256 ^ (24 * j) % 256 ^ 24))
            let poisoned : Bool := bytesPoison head || bytesPoison tab
            let bad : Prop := 16 < k ∨ ∃ d ∈ cs, d.den = 0
            let x := b.1.tenant n
            (poisoned = true → u = fin b.1 10 0) ∧
            (poisoned = false → bad → u = fin b.1 5 0) ∧
            (poisoned = false → ¬ bad → x.point.isSome = true ∨ x.snapTarget = none → u = fin b.1 2 0) ∧
            (poisoned = false → ¬ bad → x.point = none → x.snapTarget.isSome = true →
              (u.tenant n).point = some ⟨0, some (q.val, h.toNat), 0, bytesVal head % 2 ^ 64, cs, false⟩ ∧ (u.fn fn).cmds = (b.1.fn fn).cmds)) ∧
      (∀ image poison, row 8 [5, 4] true (fun c => decide (par c 16 2 ≤ 0x3FFF) && par c 18 2 == 0 && zero c 32) (.restore fn q h image poison)
        (fun c s1 u =>
          let read : ImageRead := fun st off len => (st, (upto len).map (fun j => (image / 256 ^ (off + j) % 256, poison.testBit ((off + j) / 8))))
          let r := restoreImage s1 read (par c 24 8) (fun _ _ => some n)
            (fun st => (st.postError n 1 2 0 0 0 0, { CmdResult.zero with status := 10, flags := 1 }))
          (restoreAllowed s1 n = false → u = fin s1 2 0) ∧
          (restoreAllowed s1 n = true → (s1.tenant n).drain.isSome = true → u = s1) ∧
          (restoreAllowed s1 n = true → (s1.tenant n).drain = none → u = fin r.1 r.2.status r.2.count))) ∧
      row 9 [4] false (fun c => zero c 16) (.hold fn q h) (fun _ s1 u => u = fin (enterHeld s1 n 1) 0 0) ∧
      row 10 [5] false (fun c => zero c 16) (.release fn q h) (fun _ s1 u =>
        let x := s1.tenant n
        let owes : Prop := (x.heldCase = 3 ∨ x.heldCase = 4) ∧ x.restoredOk = false
        (owes → u = fin s1 2 0) ∧ (¬ owes → u = fin (setTstate (s1.setTenant n { x with heldCase := 0 }) n 4 0) 0 0)) ∧
      row 11 [2, 3, 5] true (fun c => zero c 16) (.scrub fn q h) (fun _ s1 u =>
        (s1.tstate n = 1 → u = fin (setTstate (scrubEnd s1 n) n 2 0) 0 0) ∧ (s1.tstate n ≠ 1 → u = scrubStart (moved s1 1 0) n)) ∧
      row 12 all false (fun c => zero c 16) (.query fn q h) (fun _ s1 u =>
        u = fin s1 0 (s1.tstate n + s1.dev 0x1021 0 * 2 ^ 8 + s1.ten n 0xC090 0x31 % 2 ^ 32 * 2 ^ 16 + s1.ten n 0xC070 2 * 2 ^ 48)) ∧
      (let path : StopPath := if n = 0 then .pf else .vf n
       let ok (c : HostCmd) : Bool := decide (par c 19 1 ≤ 1) && par c 20 4 == 0 && zero c 36 && (par c 19 1 == 1 || par c 32 4 == 0)
       (∀ data, row 13 all false ok (.setStop fn q h data) (fun c s1 u =>
          let size := ((stopInfo (par c 16 2) (par c 18 1)).map StopInfo.size).getD 0
          let len := if par c 19 1 = 1 then par c 32 4 else if size ≤ 8 then size else 8
          let v := if par c 19 1 = 1 then data % 256 ^ len else par c 24 8
          let s2 := if par c 19 1 = 1 then s1.count n 0x15 len else s1
          let w := stopWrite s2 path (par c 16 2) (par c 18 1) n len v
          (∀ st, w = .error st → u = fin s2 st 0) ∧
          ∀ s3 i, w = .ok (s3, i) → (i.stored = false → u = fin s3 0 0) ∧
            (i.stored = true → u = toFlash s2 (putHostCmd s3 fn { c with stage := 2 }) (par c 16 2) (par c 18 1) n (.ring n q.val h.toNat)))) ∧
       row 14 all false (fun c => ok c && (par c 19 1 == 1 || par c 24 8 == 0)) (.getStop fn q h) (fun c s1 u =>
          let r := stopRead s1 path (par c 16 2) (par c 18 1) n
          (∀ st, r = .error st → u = fin s1 st 0) ∧
          ∀ a, r = .ok a →
            let len := min a.size (par c 32 4)
            u = fin (if par c 19 1 = 1 then (s1.hostWrite (par c 24 8) ⟨len, a.value % 256 ^ len⟩).count n 0x15 len else s1) 0
              (if a.size ≤ 8 then a.value else 0)))) ∧
    (let x := s.fn fn
     let reply (u : State) (kind : Nat) (b : Blob) : State := u.setFn fn { u.fn fn with reply := (kind, b) }
     let refused (u : State) (va : Nat) : State :=
       let y := u.tenant n
       let v := (u.count n 0x2D 1).setTenant n { y with refused := y.refused + 1, refusedVa := if y.refused = 0 then va else y.refusedVa }
       if y.refused = 0 then v.post n 3 (5 + 4 * 2 ^ 8 + n * 2 ^ 16 + 2 ^ 32 + va % 2 ^ 64 * 2 ^ 64) else v
     ∀ (off : BitVec 36) (tee : Bool),
      let va := x.bar2 + off.toNat
      let taken : Prop := x.enabled = true ∧ s.power.perstLow = false ∧ (n = 0 ∨ x.tdi ≠ 2 ∨ tee = true)
      (∀ len : BitVec 13,
        let k := len.toNat
        (¬ taken → exec (.bar2Read fn off len tee) s = .next (reply s 3 ⟨0, 0⟩)) ∧
        (taken → s.tstate n = 1 → exec (.bar2Read fn off len tee) s = .next (reply s 0 ⟨k, 0⟩)) ∧
        (taken → s.tstate n ≠ 1 → 0 < k → va % 65536 + k ≤ 65536 →
          let w := walk s (spaceOf n) va
          (∀ l f e, w.2 = .leaf l f e → e % 8 = 3 → exec (.bar2Read fn off len tee) s = .next (reply (w.1.count n 0x15 k) 0 ⟨k, 0⟩)) ∧
          (∀ l f e bs, w.2 = .leaf l f e → e % 8 = 2 → e.testBit 50 = true → (hostRead w.1 n va k).2 = .ok bs →
            exec (.bar2Read fn off len tee) s = .next (reply ((hostRead w.1 n va k).1.count n 0x15 k) (if bytesPoison bs then 1 else 0) ⟨k, bytesVal bs⟩)) ∧
          ((∀ l f e, w.2 = .leaf l f e → e % 8 ≠ 3 ∧ (e % 8 = 2 → e.testBit 50 = false)) →
            exec (.bar2Read fn off len tee) s = .next (reply (refused w.1 va) 2 ⟨0, 0⟩)))) ∧
      (∀ (len : BitVec 10) (data : Nat),
        let k := len.toNat
        (¬ taken ∨ s.tstate n = 1 → exec (.bar2Write fn off len data tee) s = .next s) ∧
        (taken → s.tstate n ≠ 1 → 0 < k → va % 65536 + k ≤ 65536 →
          let a := hostRange s n va k true
          (∀ r, a.2 = .error r → exec (.bar2Write fn off len data tee) s = .next (refused a.1 va)) ∧
          ∀ runs, a.2 = .ok runs → exec (.bar2Write fn off len data tee) s =
            .next ((writeRuns (windowAt a.1 n va) runs (mkBytes k (data % 256 ^ k) false) a.1).count n 0x15 k))))

/-- R562 to R579: supplies, handshake, clocks, device states and resets. -/
def Obligations.PowerAndResets : Prop :=
  ∀ s : State,
    let ds := s.dev 0x1021 0
    let p := s.power
    let up : Prop := ds = 2 ∨ ds = 3 ∨ ds = 4
    let powered : Prop := up ∨ (ds = 5 ∧ p.pwrEn = true)
    let good (k : Nat) : Bool := (s.dev 0x2005 0).testBit k
    let logged (u : State) : Prop := u.dev 0xF011 0 = (s.dev 0xF011 0 + 1) % 2 ^ 32
    let least (k : Nat) : Option Nat := some (p.kind.elim k (fun j => min j k))
    let boot : Bool := Config.secretGood && Config.fwGood 0 && decide (s.dev 0x8003 0 ≤ (Config.fwSvn 0).toNat) && Config.fwGood 1 &&
      decide (s.dev 0x8003 0 ≤ (Config.fwSvn 1).toNat)
    let cleared (u : State) : Prop := u.hbm = [] ∧ u.threads = State.reset.threads ∧ u.tasks = [] ∧ u.cmds = [] ∧ ∀ n < 16, u.tstate n = 0
    -- power is taken away, for a cause of a kind
    let removed (u : State) (kind : Nat) : Prop := u.power.pwrReq = false ∧
      (powered → u.dev 0x1021 0 = 1 ∧ cleared u ∧ u.power.kind = least kind) ∧
      (¬ powered → u.dev 0x1021 0 = ds ∧ u.hbm = s.hbm ∧ u.threads = s.threads ∧ u.power.kind = p.kind)
    -- BRINGUP up to the start of the monitor
    let brought (u : State) (kind : Nat) (slot : BitVec 6) (fails : Bool) : Prop :=
      let bad : Prop := fails = true ∨ Config.fwGood 2 = false ∨ (Config.fwSvn 2).toNat < s.dev 0x8003 0
      u.dev 0x1020 0 = slot.toNat ∧ u.dev 0xA000 0 = s.dev 0xA000 0 + 1 ∧ u.power.kind = none ∧ u.tasks = [] ∧ u.cmds = [] ∧
      (∀ m : Fin 16, (u.fn m).resume = some kind ∧ (u.fn m).enabled = false ∧ u.tstate m.val = 0) ∧
      (bad → u.dev 0x1021 0 = 5 ∧ u.power.pwrReq = false) ∧
      (¬ bad → u.dev 0x1021 0 = 2 ∧ ∀ t : Tid, (t.val ≠ 0 → u.th t = Thread.reset) ∧ (t.val = 0 → (u.th t).pc = Config.monitorEntry ∧
        (u.th t).level.val = 2 ∧ (u.th t).dev = true ∧ (u.th t).status = .active ∧ (u.th t).rsp = Config.monitorRsp))
    let restarted (u : State) (kind : Nat) (slot : BitVec 6) (fails : Bool) : Prop :=
      (p.mrstLow = true → u.dev 0x1021 0 = 2 ∧ cleared u ∧ u.power.kind = least kind) ∧
      (p.mrstLow = false → brought u (p.kind.elim kind (fun j => min j kind)) slot fails)
    (∀ f : Fin 8,
      let n := f.val
      let step (k : Nat) : Nat := if k = 0 then 1 else if k ≤ 2 then 2 else k
      let early : Prop := 1 ≤ n ∧ n ≤ 6 ∧ p.risen.testBit n = false ∧ ∃ m < 8, step m + 1 = step n ∧ good m = false
      let rises (u : State) : Prop := (∀ k, u.power.risen.testBit k = (decide (k = n) || p.risen.testBit k)) ∧
        (early → u.power.orderFault = true ∧ logged u ∧ u.power.pwrReq = if ds = 1 then false else p.pwrReq) ∧
        (¬ early → u.power.orderFault = p.orderFault ∧ u.power.pwrReq = p.pwrReq ∧ u.dev 0xF011 0 = s.dev 0xF011 0) ∧
        u.dev 0x1021 0 = ds ∧ u.hbm = s.hbm ∧ u.threads = s.threads
      (n = 0 → exec (.supplyPgood f) s = .next s) ∧
      (n ≠ 0 → ds = 0 → ∃ u, exec (.supplyPgood f) s = .next u ∧ u.stops = s.stops ∧
        ∀ k, u.power.risen.testBit k = (decide (k = n) || p.risen.testBit k)) ∧
      (n ≠ 0 → ds ≠ 0 → ∃ u, exec (.supplyPgood f) s = .next u ∧ rises u ∧ ∀ k, (u.dev 0x2005 0).testBit k = (decide (k = n) || good k)) ∧
      (¬ early ∨ ds = 0 → exec (.supplyOrder f) s = .next s) ∧
      (early → ds ≠ 0 → ∃ u, exec (.supplyOrder f) s = .next u ∧ rises u ∧ u.dev 0x2005 0 = s.dev 0x2005 0) ∧
      (n = 0 → ds = 0 → exec (.supplyFault f) s = .next s) ∧
      (n = 0 → ds ≠ 0 → ∃ u, exec (.supplyFault f) s = .next u ∧ u.dev 0x1021 0 = 0 ∧ cleared u ∧ u.flash = [] ∧ u.funcs = State.reset.funcs ∧
        (u.dev 0x2005 0).testBit 0 = false ∧ u.power.pwrReq = false ∧ u.power.locked = false ∧ u.power.kind = some 0) ∧
      (n ≠ 0 → ∃ u, exec (.supplyFault f) s = .next u ∧ (∀ k, (u.dev 0x2005 0).testBit k = (!decide (k = n) && good k)) ∧
        u.power.locked = (p.locked && !decide (n = 3)) ∧ (ds ≠ 0 → removed u 1) ∧ (ds = 0 → u.dev 0x1021 0 = 0 ∧ u.power.pwrReq = p.pwrReq))) ∧
    (∀ slot : BitVec 6, (ds ≠ 0 → exec (.powerOn slot) s = .next s) ∧
      (ds = 0 → ∃ u, exec (.powerOn slot) s = .next u ∧ u.dev 0x1020 0 = slot.toNat ∧ (u.dev 0x2005 0).testBit 0 = true ∧
        u.dev 0x1021 0 = (if boot then 1 else 5) ∧ u.power.orderFault = (p.orderFault || decide (p.risen / 2 % 64 ≠ 0)))) ∧
    (let ready : Bool := decide (ds = 1) && decide (s.dev 0x2005 0 / 2 % 128 = 127) && p.locked && !p.orderFault && !p.trip && !p.tripOutside && !p.leak
     (exec .pwrReq s = .next (if ready && !p.retry then { s with power := { p with pwrReq := true } } else s)) ∧
     (exec .pwrReqRetry s = .next (if p.retry then { s with power := { p with retry := false, pwrReq := p.pwrReq || ready } } else s)) ∧
     (¬ (p.pwrReq = true ∧ ds = 1) → exec .pwrEnTimeout s = .next s) ∧
     (p.pwrReq = true → ds = 1 → ∃ u, exec .pwrEnTimeout s = .next u ∧ u.power = { p with pwrReq := false, retry := true } ∧ logged u) ∧
     (∀ (slot : BitVec 6) (fails : Bool),
       (¬ (p.pwrReq = true ∧ ds = 1) → exec (.pwrEn true slot fails) s = .next { s with power := { p with pwrEn := true } }) ∧
       (p.pwrReq = true → ds = 1 → ∃ u, exec (.pwrEn true slot fails) s = .next u ∧ u.power.pwrEn = true ∧
         (p.mrstLow = true → u.dev 0x1021 0 = 2 ∧ u.power.kind = p.kind) ∧ (p.mrstLow = false → brought u (p.kind.getD 1) slot fails)) ∧
       (powered → ∃ u, exec (.pwrEn false slot fails) s = .next u ∧ removed u 1 ∧ u.power.pwrEn = false) ∧
       (¬ powered → exec (.pwrEn false slot fails) s = .next { s with power := { p with pwrEn := false } }))) ∧
    ((exec .ckRootLock s = .next (if decide (ds ≠ 0) && good 3 then { s with power := { p with locked := true } } else s)) ∧
     (¬ (ds = 1 ∧ good 3 = true ∧ p.locked = false) → exec .ckRootLockTimeout s = .next s) ∧
     (ds = 1 → good 3 = true → p.locked = false → ∃ u, exec .ckRootLockTimeout s = .next u ∧ u.dev 0x1021 0 = 5 ∧ u.power.pwrReq = false) ∧
     (p.locked = false → exec .ckRootLockLoss s = .next s) ∧
     (p.locked = true → ∃ u, exec .ckRootLockLoss s = .next u ∧ removed u 5 ∧ u.power.locked = false)) ∧
    (∀ (slot : BitVec 6) (fails : Bool),
      (ds = 0 → exec (.mrstN true slot fails) s = .next { s with power := { p with mrstLow := true, leakDry := p.leakDry || !p.leakWet } }) ∧
      (powered → ∃ u, exec (.mrstN true slot fails) s = .next u ∧ u.dev 0x1021 0 = 2 ∧ cleared u ∧ u.power.kind = least 2 ∧ u.power.mrstLow = true) ∧
      (ds ≠ 0 → ¬ powered → ∃ u, exec (.mrstN true slot fails) s = .next u ∧ u.power.kind = least 2 ∧ u.power.mrstLow = true ∧ u.hbm = s.hbm ∧
        u.dev 0x1021 0 = if boot && decide (ds = 5) then 1 else ds) ∧
      (ds = 2 → ∀ k, p.kind = some k → ∃ u, exec (.mrstN false slot fails) s = .next u ∧ u.power.mrstLow = false ∧ brought u k slot fails) ∧
      (ds ≠ 2 ∨ p.kind = none → exec (.mrstN false slot fails) s = .next { s with power := { p with mrstLow := false } }) ∧
      (∀ low : Bool, ¬ (low = true ∧ p.perstLow = false ∧ up) → exec (.perstN low slot fails) s = .next { s with power := { p with perstLow := low } }) ∧
      (p.perstLow = false → up → ∃ u, exec (.perstN true slot fails) s = .next u ∧ u.power.perstLow = true ∧ restarted u 3 slot fails) ∧
      (∀ c ∈ [Instr.monitorWatchdog slot fails, .deviceResetRequest slot fails], (¬ up → exec c s = .next s) ∧
        (up → ∃ u, exec c s = .next u ∧ restarted u 5 slot fails))) ∧
    (let starts : Prop := ds = 2 ∧ p.kind = none
     (¬ starts → exec .bringupTimeout s = .next s ∧ ∀ a, exec (.monitorReady a) s = .next s) ∧
     (starts → (∃ u, exec .bringupTimeout s = .next u ∧ u.dev 0x1021 0 = 5 ∧ u.power.pwrReq = false) ∧
       ∀ a : BitVec 64, ∃ u, exec (.monitorReady a) s = .next u ∧ u.dev 0x1021 0 = 3 ∧ u.dev 0x8040 0 = a.toNat ∧ u.threads = s.threads ∧
         ∀ n : Fin 16, u.tstate n.val = if s.tstate n.val = 0 ∧ (s.fn n).enabled = true then 2 else s.tstate n.val))

/-- R571, R572, R580, R587, R591 to R596: temperature, moisture, NMI_N and RESUME3. -/
def Obligations.ThermalAndLeak : Prop :=
  ∀ s : State,
    let ds := s.dev 0x1021 0
    let p := s.power
    let up : Bool := decide (ds = 2 ∨ ds = 3 ∨ ds = 4)
    let powered : Prop := up = true ∨ (ds = 5 ∧ p.pwrEn = true)
    let logged (u : State) : Prop := u.dev 0xF011 0 = (s.dev 0xF011 0 + 1) % 2 ^ 32
    let celsius (v : Nat) : Int := if v % 2 ^ 32 < 2 ^ 31 then (v % 2 ^ 32 : Nat) else ((v % 2 ^ 32 : Nat) : Int) - 2 ^ 32
    let throttle := celsius (s.dev 0x2004 0)
    let divider (q : Nat) : Nat := (((p.changes.filter (fun c => c.1 == q)).getLast?).map (fun c => c.2)).getD (s.dev 0x2001 q)
    let slow (d : Nat) : Nat := if d = 12 then 13 else if d = 13 then 14 else 16
    let fast (d : Nat) : Nat := if d = 16 then 14 else if d = 14 then 13 else 12
    let removed (u : State) (kind : Nat) : Prop := u.power.pwrReq = false ∧ u.power.kind = some (p.kind.elim kind (fun j => min j kind)) ∧
      (powered → u.dev 0x1021 0 = 1 ∧ u.hbm = [] ∧ u.threads = State.reset.threads ∧ u.power.changes = []) ∧
      (¬ powered → u.dev 0x1021 0 = ds ∧ u.hbm = s.hbm ∧ u.threads = s.threads)
    (∀ (sensors : BitVec 2048) (coolant : BitVec 32),
      let c : Instr := .thermalSample sensors coolant
      let v (k : Nat) : Nat := sensors.toNat / 2 ^ (32 * k) % 2 ^ 32
      let hot (k : Nat) : Prop := k < 64 ∧ celsius (s.dev 0x2004 1) ≤ celsius (v k)
      (ds = 0 → exec c s = .next s) ∧
      (ds ≠ 0 → ∃ u, exec c s = .next u ∧
        ((∃ k, hot k ∧ p.hot.testBit k = true) → u.power.trip = true ∧ removed u 4) ∧
        ((∀ k, hot k → p.hot.testBit k = false) → u.dev 0x1021 0 = ds ∧ u.power.trip = p.trip ∧ u.power.pwrReq = p.pwrReq ∧ u.dev 0x2003 0 = coolant.toNat ∧
          u.threads = s.threads ∧ (∀ k, u.power.hot.testBit k = true ↔ hot k) ∧
          (∀ q < 4, (∃ k < 16, u.dev 0x2002 q = v (16 * q + k)) ∧ ∀ k < 16, celsius (v (16 * q + k)) ≤ celsius (u.dev 0x2002 q)) ∧
          u.power.changes = p.changes ++ ((List.range 4).filter (fun q => up && decide (throttle ≤ celsius (u.dev 0x2002 q)) &&
            decide (celsius (s.dev 0x2002 q) < throttle) && decide (divider q ≠ 16))).map (fun q => (q, slow (divider q)))))) ∧
    (∀ q : Fin 4,
      let decided (d : Nat) : State := { s with power := { p with changes := p.changes ++ [(q.val, d)] } }
      exec (.throttleStepDown q) s = .next (if up && decide (throttle ≤ celsius (s.dev 0x2002 q.val)) && decide (divider q.val ≠ 16) then
        decided (slow (divider q.val)) else s) ∧
      exec (.throttleStepUp q) s = .next (if up && decide (celsius (s.dev 0x2002 q.val) < throttle - 5 * 16) && decide (divider q.val ≠ 12) then
        decided (fast (divider q.val)) else s) ∧
      let stopped := if up then p.stopped ||| 2 ^ q.val else p.stopped
      (p.pwrReq = false → exec (.tripComparator q) s = .next { s with power := { p with stopped := stopped } }) ∧
      (p.pwrReq = true → ∃ u, exec (.tripComparator q) s = .next u ∧ u.power.trip = true ∧ u.power.stopped = stopped ∧ removed u 4) ∧
      ((∀ c ∈ p.changes, c.1 ≠ q.val) → exec (.dividerChange q) s = .next s) ∧
      (∀ before d after, p.changes = before ++ (q.val, d) :: after → (∀ c ∈ before, c.1 ≠ q.val) →
        let detail := d + q.val * 256 + s.dev 0x2002 q.val * 256 ^ 4
        ∃ u, exec (.dividerChange q) s = .next u ∧ u.power.changes = before ++ after ∧ u.dev 0x2001 q.val = d ∧
          u.dev 0x9000 0x40 = s.dev 0x9000 0x40 + 1 ∧ u.threads = s.threads ∧
          ∀ n : Fin 16, (s.tstate n.val = 4 → s.events[n].length < 256 → u.events[n] = s.events[n] ++ [⟨10, detail⟩]) ∧
            (s.tstate n.val ≠ 4 → u.events[n] = s.events[n]))) ∧
    (∀ low : Bool,
      (¬ (low = true ∧ p.pwrReq = true) → exec (.thermTripN low) s = .next { s with power := { p with tripOutside := low } }) ∧
      (p.pwrReq = true → ∃ u, exec (.thermTripN true) s = .next u ∧ u.power.trip = true ∧ u.power.tripOutside = true ∧ removed u 4)) ∧
    (let cool : Prop := p.trip = true ∧ ∀ q < 4, celsius (s.dev 0x2002 q) ≤ 80 * 16
     (¬ cool → exec .tripLatchClear s = .next s) ∧
     (cool → ∃ u, exec .tripLatchClear s = .next u ∧ u.power.trip = false ∧ u.power.leak = p.leak ∧ u.threads = s.threads)) ∧
    (∃ u, exec (.leakN true) s = .next u ∧ u.power.leak = true ∧ u.power.leakWet = true ∧ u.power.leakDry = false ∧ (p.pwrReq = true → removed u 6) ∧
      (p.pwrReq = false → u.dev 0x1021 0 = ds ∧ u.power.kind = p.kind ∧ u.threads = s.threads)) ∧
    exec (.leakN false) s = .next { s with power := { p with leakWet := false } } ∧
    (let dry : Prop := p.leak = true ∧ p.leakWet = false ∧ p.leakDry = true
     (¬ dry → exec .leakLatchClear s = .next s) ∧
     (dry → ∃ u, exec .leakLatchClear s = .next u ∧ u.power.leak = false ∧ u.power.trip = p.trip ∧ u.threads = s.threads)) ∧
    (∀ low : Bool,
      let s1 : State := { s with power := { p with nmiLow := low } }
      let edge : Prop := low = true ∧ p.nmiLow = false ∧ (s.dev 0x2005 0).testBit 4 = true ∧ ds ≠ 0
      (¬ edge → exec (.nmiN low) s = .next s1) ∧
      (edge → ds = 3 ∨ ds = 4 → exec (.nmiN low) s = exec (.nmi .running) s1) ∧
      (edge → ds ≠ 3 → ds ≠ 4 → ∃ u, exec (.nmiN low) s = .next u ∧ logged u ∧ u.threads = s.threads ∧ u.power = s1.power)) ∧
    (∀ t : Tid,
      let th := s.th t
      let c : Instr := .resume3 t
      (th.sv3.live = false → ∃ u, exec c s = .next u ∧ logged u ∧ u.threads = s.threads) ∧
      (th.sv3.live = true → th.status ≠ .halted → exec c s = .next s) ∧
      (th.sv3.live = true → th.status = .halted → th.nmi ≠ .held → ∃ u, exec c s = .next u ∧ (u.th t).sv3.live = false ∧ (u.th t).status = .active ∧
        (u.th t).pc = (th.restore th.sv3).pc ∧ (u.th t).level = (th.restore th.sv3).level ∧ (u.th t).regs = (th.restore th.sv3).regs ∧
        ∀ t', t' ≠ t → u.th t' = s.th t'))

/-- R14, R107, R545 and the Stop tables: the state after reset. -/
def Obligations.ResetValues : Prop :=
  let s := State.reset
  Memory.wf s = true ∧ s.pending = [] ∧
  (∀ t : Tid, (s.th t).status = .empty ∧ (s.th t).timerCmp = 0xFFFFFFFFFFFFFFFF ∧ (s.th t).sv1.live = false ∧ (s.th t).sv2.live = false ∧
    (s.th t).sv3.live = false ∧ (s.th t).task = none ∧ (s.th t).epoch = none) ∧
  s.hbmTags = [] ∧ s.hbmPoison = [] ∧ s.tasks = [] ∧ s.epochs = [] ∧ s.chans = [] ∧ s.cmds = [] ∧ s.streams = [] ∧ s.reds = [] ∧ s.checks = [] ∧
  s.redGroups = [] ∧ s.keySlots = [] ∧ s.shadows = [] ∧ s.pairMap = [] ∧ s.outbox = [] ∧ s.stops = [] ∧
  (∀ f : Fin 16, (s.fn f).enabled = false ∧ (s.fn f).cmds = [] ∧ (s.fn f).ev.ctl = 0 ∧ (∀ q, ((s.fn f).sq q).ctl = 0 ∧ ((s.fn f).cq q).ctl = 0)) ∧
  (∀ n, s.tstate n = 0 ∧ s.ten n 0xC010 1 = 16384 ∧ s.ten n 0xC010 2 = 64 ∧ s.ten n 0xC020 4 = 0xFFFFFFFF ∧ s.ten n 0xC080 3 = 0xFFFF ∧
    ∀ q < 64, s.ten n 0xC0A0 q = 0xFFFFFFFF ∧ s.ten n 0xC0A1 q = 0xFFFFFFFF ∧ s.ten n 0xC0A2 q = 0xFFFFFFFF) ∧
  (∀ q < 4, s.dev 0x2001 q = 12) ∧ s.dev 0x2004 0 = 95 * 16 ∧ s.dev 0x2040 0 = 65536 ∧ s.dev 0x3001 0 = 1 ∧ s.dev 0x3002 0 = 2125000 ∧
  s.dev 0x3040 0 = 2 ∧ s.dev 0x4000 0 = 0xFFFF ∧ s.dev 0x4000 2 = 0 ∧ s.dev 0x4000 3 = 0xFFFF ∧ s.dev 0x4000 6 = 3 ∧ (∀ p < 16, s.dev 0x4001 p = 1) ∧
  s.dev 0x6001 0 = 200 ∧ s.dev 0x6002 0 = 20 ∧ s.dev 0xA000 0 = 0

/-- The memory invariant (R241, log entry 9): every step of every command keeps it. -/
def Obligations.MemoryCanonical : Prop :=
  ∀ s s' : State, Memory.wf s = true → step s = .next s' → Memory.wf s' = true
end

