-- ==== Sys2Proof/Laws/Exec.lean ====
section
/-!
SUPPORT. Laws/Exec.lean: what exec does with each command, one lemma per constructor, so that no proof opens the dispatch.
-/

namespace Sys2Proof.Machine

theorem exec_add (t : Tid) (rd rs1 rs2 : RIdx) (s : State) :
    exec (.add t rd rs1 rs2) s = execAdd t rd rs1 rs2 s := rfl
theorem exec_sub (t : Tid) (rd rs1 rs2 : RIdx) (s : State) :
    exec (.sub t rd rs1 rs2) s = execSub t rd rs1 rs2 s := rfl
theorem exec_and (t : Tid) (rd rs1 rs2 : RIdx) (s : State) :
    exec (.and t rd rs1 rs2) s = execAnd t rd rs1 rs2 s := rfl
theorem exec_or (t : Tid) (rd rs1 rs2 : RIdx) (s : State) :
    exec (.or t rd rs1 rs2) s = execOr t rd rs1 rs2 s := rfl
theorem exec_xor (t : Tid) (rd rs1 rs2 : RIdx) (s : State) :
    exec (.xor t rd rs1 rs2) s = execXor t rd rs1 rs2 s := rfl
theorem exec_sll (t : Tid) (rd rs1 rs2 : RIdx) (s : State) :
    exec (.sll t rd rs1 rs2) s = execSll t rd rs1 rs2 s := rfl
theorem exec_srl (t : Tid) (rd rs1 rs2 : RIdx) (s : State) :
    exec (.srl t rd rs1 rs2) s = execSrl t rd rs1 rs2 s := rfl
theorem exec_sra (t : Tid) (rd rs1 rs2 : RIdx) (s : State) :
    exec (.sra t rd rs1 rs2) s = execSra t rd rs1 rs2 s := rfl
theorem exec_mul (t : Tid) (rd rs1 rs2 : RIdx) (s : State) :
    exec (.mul t rd rs1 rs2) s = execMul t rd rs1 rs2 s := rfl
theorem exec_mulh (t : Tid) (rd rs1 rs2 : RIdx) (s : State) :
    exec (.mulh t rd rs1 rs2) s = execMulh t rd rs1 rs2 s := rfl
theorem exec_mulhu (t : Tid) (rd rs1 rs2 : RIdx) (s : State) :
    exec (.mulhu t rd rs1 rs2) s = execMulhu t rd rs1 rs2 s := rfl
theorem exec_div (t : Tid) (rd rs1 rs2 : RIdx) (s : State) :
    exec (.div t rd rs1 rs2) s = execDiv t rd rs1 rs2 s := rfl
theorem exec_divu (t : Tid) (rd rs1 rs2 : RIdx) (s : State) :
    exec (.divu t rd rs1 rs2) s = execDivu t rd rs1 rs2 s := rfl
theorem exec_rem (t : Tid) (rd rs1 rs2 : RIdx) (s : State) :
    exec (.rem t rd rs1 rs2) s = execRem t rd rs1 rs2 s := rfl
theorem exec_remu (t : Tid) (rd rs1 rs2 : RIdx) (s : State) :
    exec (.remu t rd rs1 rs2) s = execRemu t rd rs1 rs2 s := rfl
theorem exec_min (t : Tid) (rd rs1 rs2 : RIdx) (s : State) :
    exec (.min t rd rs1 rs2) s = execMin t rd rs1 rs2 s := rfl
theorem exec_max (t : Tid) (rd rs1 rs2 : RIdx) (s : State) :
    exec (.max t rd rs1 rs2) s = execMax t rd rs1 rs2 s := rfl
theorem exec_minu (t : Tid) (rd rs1 rs2 : RIdx) (s : State) :
    exec (.minu t rd rs1 rs2) s = execMinu t rd rs1 rs2 s := rfl
theorem exec_maxu (t : Tid) (rd rs1 rs2 : RIdx) (s : State) :
    exec (.maxu t rd rs1 rs2) s = execMaxu t rd rs1 rs2 s := rfl
theorem exec_clz (t : Tid) (rd rs1 : RIdx) (s : State) :
    exec (.clz t rd rs1) s = execClz t rd rs1 s := rfl
theorem exec_ctz (t : Tid) (rd rs1 : RIdx) (s : State) :
    exec (.ctz t rd rs1) s = execCtz t rd rs1 s := rfl
theorem exec_popc (t : Tid) (rd rs1 : RIdx) (s : State) :
    exec (.popc t rd rs1) s = execPopc t rd rs1 s := rfl
theorem exec_addi (t : Tid) (rd rs1 : RIdx) (imm : IForm) (s : State) :
    exec (.addi t rd rs1 imm) s = execAddi t rd rs1 imm s := rfl
theorem exec_andi (t : Tid) (rd rs1 : RIdx) (imm : IForm) (s : State) :
    exec (.andi t rd rs1 imm) s = execAndi t rd rs1 imm s := rfl
theorem exec_ori (t : Tid) (rd rs1 : RIdx) (imm : IForm) (s : State) :
    exec (.ori t rd rs1 imm) s = execOri t rd rs1 imm s := rfl
theorem exec_xori (t : Tid) (rd rs1 : RIdx) (imm : IForm) (s : State) :
    exec (.xori t rd rs1 imm) s = execXori t rd rs1 imm s := rfl
theorem exec_slli (t : Tid) (rd rs1 : RIdx) (amount : BitVec 6) (ext : Bool) (s : State) :
    exec (.slli t rd rs1 amount ext) s = execSlli t rd rs1 amount ext s := rfl
theorem exec_srli (t : Tid) (rd rs1 : RIdx) (amount : BitVec 6) (ext : Bool) (s : State) :
    exec (.srli t rd rs1 amount ext) s = execSrli t rd rs1 amount ext s := rfl
theorem exec_srai (t : Tid) (rd rs1 : RIdx) (amount : BitVec 6) (ext : Bool) (s : State) :
    exec (.srai t rd rs1 amount ext) s = execSrai t rd rs1 amount ext s := rfl
theorem exec_lui (t : Tid) (rd : RIdx) (imm : UForm) (s : State) :
    exec (.lui t rd imm) s = execLui t rd imm s := rfl
theorem exec_cmpi (t : Tid) (rd rs1 : RIdx) (kind : CmpKind) (imm : KForm) (s : State) :
    exec (.cmpi t rd rs1 kind imm) s = execCmpi t rd rs1 kind imm s := rfl
theorem exec_fadd (t : Tid) (rd rs1 rs2 : RIdx) (mode : RMode) (s : State) :
    exec (.fadd t rd rs1 rs2 mode) s = execFadd t rd rs1 rs2 mode s := rfl
theorem exec_fsub (t : Tid) (rd rs1 rs2 : RIdx) (mode : RMode) (s : State) :
    exec (.fsub t rd rs1 rs2 mode) s = execFsub t rd rs1 rs2 mode s := rfl
theorem exec_fmul (t : Tid) (rd rs1 rs2 : RIdx) (mode : RMode) (s : State) :
    exec (.fmul t rd rs1 rs2 mode) s = execFmul t rd rs1 rs2 mode s := rfl
theorem exec_fdiv (t : Tid) (rd rs1 rs2 : RIdx) (mode : RMode) (s : State) :
    exec (.fdiv t rd rs1 rs2 mode) s = execFdiv t rd rs1 rs2 mode s := rfl
theorem exec_fsqrt (t : Tid) (rd rs1 : RIdx) (mode : RMode) (s : State) :
    exec (.fsqrt t rd rs1 mode) s = execFsqrt t rd rs1 mode s := rfl
theorem exec_fmin (t : Tid) (rd rs1 rs2 : RIdx) (s : State) :
    exec (.fmin t rd rs1 rs2) s = execFmin t rd rs1 rs2 s := rfl
theorem exec_fmax (t : Tid) (rd rs1 rs2 : RIdx) (s : State) :
    exec (.fmax t rd rs1 rs2) s = execFmax t rd rs1 rs2 s := rfl
theorem exec_fabs (t : Tid) (rd rs1 : RIdx) (s : State) :
    exec (.fabs t rd rs1) s = execFabs t rd rs1 s := rfl
theorem exec_fneg (t : Tid) (rd rs1 : RIdx) (s : State) :
    exec (.fneg t rd rs1) s = execFneg t rd rs1 s := rfl
theorem exec_fmadd (t : Tid) (rd rs1 rs2 rs3 : RIdx) (mode : RMode) (s : State) :
    exec (.fmadd t rd rs1 rs2 rs3 mode) s = execFmadd t rd rs1 rs2 rs3 mode s := rfl
theorem exec_fmsub (t : Tid) (rd rs1 rs2 rs3 : RIdx) (mode : RMode) (s : State) :
    exec (.fmsub t rd rs1 rs2 rs3 mode) s = execFmsub t rd rs1 rs2 rs3 mode s := rfl
theorem exec_fnmadd (t : Tid) (rd rs1 rs2 rs3 : RIdx) (mode : RMode) (s : State) :
    exec (.fnmadd t rd rs1 rs2 rs3 mode) s = execFnmadd t rd rs1 rs2 rs3 mode s := rfl
theorem exec_fnmsub (t : Tid) (rd rs1 rs2 rs3 : RIdx) (mode : RMode) (s : State) :
    exec (.fnmsub t rd rs1 rs2 rs3 mode) s = execFnmsub t rd rs1 rs2 rs3 mode s := rfl
theorem exec_i2f (t : Tid) (rd rs1 : RIdx) (mode : RMode) (s : State) :
    exec (.i2f t rd rs1 mode) s = execI2f t rd rs1 mode s := rfl
theorem exec_u2f (t : Tid) (rd rs1 : RIdx) (mode : RMode) (s : State) :
    exec (.u2f t rd rs1 mode) s = execU2f t rd rs1 mode s := rfl
theorem exec_f2i (t : Tid) (rd rs1 : RIdx) (mode : RMode) (s : State) :
    exec (.f2i t rd rs1 mode) s = execF2i t rd rs1 mode s := rfl
theorem exec_f2u (t : Tid) (rd rs1 : RIdx) (mode : RMode) (s : State) :
    exec (.f2u t rd rs1 mode) s = execF2u t rd rs1 mode s := rfl
theorem exec_f2s (t : Tid) (rd rs1 : RIdx) (mode : RMode) (s : State) :
    exec (.f2s t rd rs1 mode) s = execF2s t rd rs1 mode s := rfl
theorem exec_s2f (t : Tid) (rd rs1 : RIdx) (mode : RMode) (s : State) :
    exec (.s2f t rd rs1 mode) s = execS2f t rd rs1 mode s := rfl
theorem exec_cmpEq (t : Tid) (rd rs1 rs2 : RIdx) (s : State) :
    exec (.cmpEq t rd rs1 rs2) s = execCmpEq t rd rs1 rs2 s := rfl
theorem exec_cmpNe (t : Tid) (rd rs1 rs2 : RIdx) (s : State) :
    exec (.cmpNe t rd rs1 rs2) s = execCmpNe t rd rs1 rs2 s := rfl
theorem exec_cmpLt (t : Tid) (rd rs1 rs2 : RIdx) (s : State) :
    exec (.cmpLt t rd rs1 rs2) s = execCmpLt t rd rs1 rs2 s := rfl
theorem exec_cmpLtu (t : Tid) (rd rs1 rs2 : RIdx) (s : State) :
    exec (.cmpLtu t rd rs1 rs2) s = execCmpLtu t rd rs1 rs2 s := rfl
theorem exec_cmpGe (t : Tid) (rd rs1 rs2 : RIdx) (s : State) :
    exec (.cmpGe t rd rs1 rs2) s = execCmpGe t rd rs1 rs2 s := rfl
theorem exec_cmpGeu (t : Tid) (rd rs1 rs2 : RIdx) (s : State) :
    exec (.cmpGeu t rd rs1 rs2) s = execCmpGeu t rd rs1 rs2 s := rfl
theorem exec_cmpFeq (t : Tid) (rd rs1 rs2 : RIdx) (s : State) :
    exec (.cmpFeq t rd rs1 rs2) s = execCmpFeq t rd rs1 rs2 s := rfl
theorem exec_cmpFlt (t : Tid) (rd rs1 rs2 : RIdx) (s : State) :
    exec (.cmpFlt t rd rs1 rs2) s = execCmpFlt t rd rs1 rs2 s := rfl
theorem exec_cmpFle (t : Tid) (rd rs1 rs2 : RIdx) (s : State) :
    exec (.cmpFle t rd rs1 rs2) s = execCmpFle t rd rs1 rs2 s := rfl
theorem exec_cmpFun (t : Tid) (rd rs1 rs2 : RIdx) (s : State) :
    exec (.cmpFun t rd rs1 rs2) s = execCmpFun t rd rs1 rs2 s := rfl
theorem exec_cmpSlt (t : Tid) (rd rs1 rs2 : RIdx) (s : State) :
    exec (.cmpSlt t rd rs1 rs2) s = execCmpSlt t rd rs1 rs2 s := rfl
theorem exec_sel (t : Tid) (rd rs1 rs2 rc : RIdx) (s : State) :
    exec (.sel t rd rs1 rs2 rc) s = execSel t rd rs1 rs2 rc s := rfl
theorem exec_mov (t : Tid) (rd rs1 : RIdx) (s : State) :
    exec (.mov t rd rs1) s = execMov t rd rs1 s := rfl
theorem exec_tget (t : Tid) (rd rs1 : RIdx) (s : State) :
    exec (.tget t rd rs1) s = execTget t rd rs1 s := rfl
theorem exec_teq (t : Tid) (rd rs1 : RIdx) (tag : BitVec 4) (s : State) :
    exec (.teq t rd rs1 tag) s = execTeq t rd rs1 tag s := rfl
theorem exec_retag (t : Tid) (rd rs1 : RIdx) (tag : BitVec 4) (s : State) :
    exec (.retag t rd rs1 tag) s = execRetag t rd rs1 tag s := rfl
theorem exec_hchk (t : Tid) (rd rs1 : RIdx) (s : State) :
    exec (.hchk t rd rs1) s = execHchk t rd rs1 s := rfl
theorem exec_fmtchk (t : Tid) (rd rs1 : RIdx) (s : State) :
    exec (.fmtchk t rd rs1) s = execFmtchk t rd rs1 s := rfl
theorem exec_ldB (t : Tid) (rd : RIdx) (cs : PIdx) (m : MForm) (s : State) :
    exec (.ldB t rd cs m) s = execLdB t rd cs m s := rfl
theorem exec_ldBu (t : Tid) (rd : RIdx) (cs : PIdx) (m : MForm) (s : State) :
    exec (.ldBu t rd cs m) s = execLdBu t rd cs m s := rfl
theorem exec_ldH (t : Tid) (rd : RIdx) (cs : PIdx) (m : MForm) (s : State) :
    exec (.ldH t rd cs m) s = execLdH t rd cs m s := rfl
theorem exec_ldHu (t : Tid) (rd : RIdx) (cs : PIdx) (m : MForm) (s : State) :
    exec (.ldHu t rd cs m) s = execLdHu t rd cs m s := rfl
theorem exec_ldW (t : Tid) (rd : RIdx) (cs : PIdx) (m : MForm) (s : State) :
    exec (.ldW t rd cs m) s = execLdW t rd cs m s := rfl
theorem exec_ldWu (t : Tid) (rd : RIdx) (cs : PIdx) (m : MForm) (s : State) :
    exec (.ldWu t rd cs m) s = execLdWu t rd cs m s := rfl
theorem exec_ldD (t : Tid) (rd : RIdx) (cs : PIdx) (m : MForm) (s : State) :
    exec (.ldD t rd cs m) s = execLdD t rd cs m s := rfl
theorem exec_ldF (t : Tid) (rd : RIdx) (cs : PIdx) (m : MForm) (s : State) :
    exec (.ldF t rd cs m) s = execLdF t rd cs m s := rfl
theorem exec_ldc (t : Tid) (rd : RIdx) (cs : PIdx) (m : MForm) (s : State) :
    exec (.ldc t rd cs m) s = execLdc t rd cs m s := rfl
theorem exec_stB (t : Tid) (rs : RIdx) (cs : PIdx) (m : MForm) (s : State) :
    exec (.stB t rs cs m) s = execStB t rs cs m s := rfl
theorem exec_stH (t : Tid) (rs : RIdx) (cs : PIdx) (m : MForm) (s : State) :
    exec (.stH t rs cs m) s = execStH t rs cs m s := rfl
theorem exec_stW (t : Tid) (rs : RIdx) (cs : PIdx) (m : MForm) (s : State) :
    exec (.stW t rs cs m) s = execStW t rs cs m s := rfl
theorem exec_stD (t : Tid) (rs : RIdx) (cs : PIdx) (m : MForm) (s : State) :
    exec (.stD t rs cs m) s = execStD t rs cs m s := rfl
theorem exec_stc (t : Tid) (rs : RIdx) (cs : PIdx) (m : MForm) (s : State) :
    exec (.stc t rs cs m) s = execStc t rs cs m s := rfl
theorem exec_scanEqD (t : Tid) (rd : RIdx) (cs : PIdx) (a : AForm) (s : State) :
    exec (.scanEqD t rd cs a) s = execScanEqD t rd cs a s := rfl
theorem exec_scanNeD (t : Tid) (rd : RIdx) (cs : PIdx) (a : AForm) (s : State) :
    exec (.scanNeD t rd cs a) s = execScanNeD t rd cs a s := rfl
theorem exec_scanEqW (t : Tid) (rd : RIdx) (cs : PIdx) (a : AForm) (s : State) :
    exec (.scanEqW t rd cs a) s = execScanEqW t rd cs a s := rfl
theorem exec_scanNeW (t : Tid) (rd : RIdx) (cs : PIdx) (a : AForm) (s : State) :
    exec (.scanNeW t rd cs a) s = execScanNeW t rd cs a s := rfl
theorem exec_amoadd (t : Tid) (rd : RIdx) (cs : PIdx) (a : AForm) (s : State) :
    exec (.amoadd t rd cs a) s = execAmoadd t rd cs a s := rfl
theorem exec_amoand (t : Tid) (rd : RIdx) (cs : PIdx) (a : AForm) (s : State) :
    exec (.amoand t rd cs a) s = execAmoand t rd cs a s := rfl
theorem exec_amoor (t : Tid) (rd : RIdx) (cs : PIdx) (a : AForm) (s : State) :
    exec (.amoor t rd cs a) s = execAmoor t rd cs a s := rfl
theorem exec_amoxor (t : Tid) (rd : RIdx) (cs : PIdx) (a : AForm) (s : State) :
    exec (.amoxor t rd cs a) s = execAmoxor t rd cs a s := rfl
theorem exec_amoswap (t : Tid) (rd : RIdx) (cs : PIdx) (a : AForm) (s : State) :
    exec (.amoswap t rd cs a) s = execAmoswap t rd cs a s := rfl
theorem exec_amocas (t : Tid) (rd : RIdx) (cs : PIdx) (a : AForm) (s : State) :
    exec (.amocas t rd cs a) s = execAmocas t rd cs a s := rfl
theorem exec_amomin (t : Tid) (rd : RIdx) (cs : PIdx) (a : AForm) (s : State) :
    exec (.amomin t rd cs a) s = execAmomin t rd cs a s := rfl
theorem exec_amomax (t : Tid) (rd : RIdx) (cs : PIdx) (a : AForm) (s : State) :
    exec (.amomax t rd cs a) s = execAmomax t rd cs a s := rfl
theorem exec_bz (t : Tid) (rs : RIdx) (off : BForm) (s : State) :
    exec (.bz t rs off) s = execBz t rs off s := rfl
theorem exec_bnz (t : Tid) (rs : RIdx) (off : BForm) (s : State) :
    exec (.bnz t rs off) s = execBnz t rs off s := rfl
theorem exec_j (t : Tid) (off : JForm) (s : State) :
    exec (.j t off) s = execJ t off s := rfl
theorem exec_call (t : Tid) (off : JForm) (s : State) :
    exec (.call t off) s = execCall t off s := rfl
theorem exec_jr (t : Tid) (rs1 : RIdx) (s : State) :
    exec (.jr t rs1) s = execJr t rs1 s := rfl
theorem exec_callr (t : Tid) (rs1 : RIdx) (s : State) :
    exec (.callr t rs1) s = execCallr t rs1 s := rfl
theorem exec_callc (t : Tid) (cs : PIdx) (m : CallForm) (s : State) :
    exec (.callc t cs m) s = execCallc t cs m s := rfl
theorem exec_ret (t : Tid) (s : State) :
    exec (.ret t) s = execRet t s := rfl
theorem exec_push (t : Tid) (rs1 : RIdx) (s : State) :
    exec (.push t rs1) s = execPush t rs1 s := rfl
theorem exec_pop (t : Tid) (rd : RIdx) (s : State) :
    exec (.pop t rd) s = execPop t rd s := rfl
theorem exec_pushc (t : Tid) (rs1 : RIdx) (s : State) :
    exec (.pushc t rs1) s = execPushc t rs1 s := rfl
theorem exec_svVadd (t : Tid) (rd rs1 rs2 : RIdx) (lanes : Fin 4) (s : State) :
    exec (.svVadd t rd rs1 rs2 lanes) s = execSvVadd t rd rs1 rs2 lanes s := rfl
theorem exec_svVsub (t : Tid) (rd rs1 rs2 : RIdx) (lanes : Fin 4) (s : State) :
    exec (.svVsub t rd rs1 rs2 lanes) s = execSvVsub t rd rs1 rs2 lanes s := rfl
theorem exec_svVmul (t : Tid) (rd rs1 rs2 : RIdx) (lanes : Fin 4) (s : State) :
    exec (.svVmul t rd rs1 rs2 lanes) s = execSvVmul t rd rs1 rs2 lanes s := rfl
theorem exec_svVmin (t : Tid) (rd rs1 rs2 : RIdx) (lanes : Fin 4) (s : State) :
    exec (.svVmin t rd rs1 rs2 lanes) s = execSvVmin t rd rs1 rs2 lanes s := rfl
theorem exec_svVmax (t : Tid) (rd rs1 rs2 : RIdx) (lanes : Fin 4) (s : State) :
    exec (.svVmax t rd rs1 rs2 lanes) s = execSvVmax t rd rs1 rs2 lanes s := rfl
theorem exec_svVminu (t : Tid) (rd rs1 rs2 : RIdx) (lanes : Fin 4) (s : State) :
    exec (.svVminu t rd rs1 rs2 lanes) s = execSvVminu t rd rs1 rs2 lanes s := rfl
theorem exec_svVmaxu (t : Tid) (rd rs1 rs2 : RIdx) (lanes : Fin 4) (s : State) :
    exec (.svVmaxu t rd rs1 rs2 lanes) s = execSvVmaxu t rd rs1 rs2 lanes s := rfl
theorem exec_svVand (t : Tid) (rd rs1 rs2 : RIdx) (lanes : Fin 4) (s : State) :
    exec (.svVand t rd rs1 rs2 lanes) s = execSvVand t rd rs1 rs2 lanes s := rfl
theorem exec_svVor (t : Tid) (rd rs1 rs2 : RIdx) (lanes : Fin 4) (s : State) :
    exec (.svVor t rd rs1 rs2 lanes) s = execSvVor t rd rs1 rs2 lanes s := rfl
theorem exec_svVxor (t : Tid) (rd rs1 rs2 : RIdx) (lanes : Fin 4) (s : State) :
    exec (.svVxor t rd rs1 rs2 lanes) s = execSvVxor t rd rs1 rs2 lanes s := rfl
theorem exec_svVsll (t : Tid) (rd rs1 rs2 : RIdx) (lanes : Fin 4) (s : State) :
    exec (.svVsll t rd rs1 rs2 lanes) s = execSvVsll t rd rs1 rs2 lanes s := rfl
theorem exec_svVsrl (t : Tid) (rd rs1 rs2 : RIdx) (lanes : Fin 4) (s : State) :
    exec (.svVsrl t rd rs1 rs2 lanes) s = execSvVsrl t rd rs1 rs2 lanes s := rfl
theorem exec_svVsra (t : Tid) (rd rs1 rs2 : RIdx) (lanes : Fin 4) (s : State) :
    exec (.svVsra t rd rs1 rs2 lanes) s = execSvVsra t rd rs1 rs2 lanes s := rfl
theorem exec_svVcmpeq (t : Tid) (rd rs1 rs2 : RIdx) (lanes : Fin 4) (s : State) :
    exec (.svVcmpeq t rd rs1 rs2 lanes) s = execSvVcmpeq t rd rs1 rs2 lanes s := rfl
theorem exec_svVcmplt (t : Tid) (rd rs1 rs2 : RIdx) (lanes : Fin 4) (s : State) :
    exec (.svVcmplt t rd rs1 rs2 lanes) s = execSvVcmplt t rd rs1 rs2 lanes s := rfl
theorem exec_svVsadd (t : Tid) (rd rs1 rs2 : RIdx) (lanes : Fin 4) (s : State) :
    exec (.svVsadd t rd rs1 rs2 lanes) s = execSvVsadd t rd rs1 rs2 lanes s := rfl
theorem exec_svVdot4 (t : Tid) (rd rs1 rs2 : RIdx) (s : State) :
    exec (.svVdot4 t rd rs1 rs2) s = execSvVdot4 t rd rs1 rs2 s := rfl
theorem exec_svVfadd (t : Tid) (rd rs1 rs2 : RIdx) (lanes : SvLanes) (s : State) :
    exec (.svVfadd t rd rs1 rs2 lanes) s = execSvVfadd t rd rs1 rs2 lanes s := rfl
theorem exec_svVfsub (t : Tid) (rd rs1 rs2 : RIdx) (lanes : SvLanes) (s : State) :
    exec (.svVfsub t rd rs1 rs2 lanes) s = execSvVfsub t rd rs1 rs2 lanes s := rfl
theorem exec_svVfmul (t : Tid) (rd rs1 rs2 : RIdx) (lanes : SvLanes) (s : State) :
    exec (.svVfmul t rd rs1 rs2 lanes) s = execSvVfmul t rd rs1 rs2 lanes s := rfl
theorem exec_svVfmin (t : Tid) (rd rs1 rs2 : RIdx) (lanes : SvLanes) (s : State) :
    exec (.svVfmin t rd rs1 rs2 lanes) s = execSvVfmin t rd rs1 rs2 lanes s := rfl
theorem exec_svVfmax (t : Tid) (rd rs1 rs2 : RIdx) (lanes : SvLanes) (s : State) :
    exec (.svVfmax t rd rs1 rs2 lanes) s = execSvVfmax t rd rs1 rs2 lanes s := rfl
theorem exec_svFma (t : Tid) (rd rs1 rs2 rs3 : RIdx) (op : Fin 4) (lanes : SvLanes) (s : State) :
    exec (.svFma t rd rs1 rs2 rs3 op lanes) s = execSvFma t rd rs1 rs2 rs3 op lanes s := rfl
theorem exec_svVbcast (t : Tid) (rd rs1 : RIdx) (s : State) :
    exec (.svVbcast t rd rs1) s = execSvVbcast t rd rs1 s := rfl
theorem exec_svVshuf (t : Tid) (rd rs1 rs2 : RIdx) (s : State) :
    exec (.svVshuf t rd rs1 rs2) s = execSvVshuf t rd rs1 rs2 s := rfl
theorem exec_svVext (t : Tid) (rd rs1 rs2 : RIdx) (s : State) :
    exec (.svVext t rd rs1 rs2) s = execSvVext t rd rs1 rs2 s := rfl
theorem exec_svVins (t : Tid) (rd rs2 : RIdx) (lane : Fin 2) (s : State) :
    exec (.svVins t rd rs2 lane) s = execSvVins t rd rs2 lane s := rfl
theorem exec_svLd (t : Tid) (rd : RIdx) (cs : PIdx) (m : MForm) (s : State) :
    exec (.svLd t rd cs m) s = execSvLd t rd cs m s := rfl
theorem exec_svSt (t : Tid) (rs : RIdx) (cs : PIdx) (m : MForm) (s : State) :
    exec (.svSt t rs cs m) s = execSvSt t rs cs m s := rfl
theorem exec_fenceAcq (t : Tid) (s : State) :
    exec (.fenceAcq t) s = execFenceAcq t s := rfl
theorem exec_fenceRel (t : Tid) (s : State) :
    exec (.fenceRel t) s = execFenceRel t s := rfl
theorem exec_fenceAr (t : Tid) (s : State) :
    exec (.fenceAr t) s = execFenceAr t s := rfl
theorem exec_fenceI (t : Tid) (s : State) :
    exec (.fenceI t) s = execFenceI t s := rfl
theorem exec_rep (t : Tid) (rn : RIdx) (stride : BitVec 20) (body : RepBody) (lim : Option Nat) (s : State) :
    exec (.rep t rn stride body lim) s = execRep t rn stride body lim s := rfl
theorem exec_repn (t : Tid) (rn : RIdx) (stride : BitVec 20) (body : RepBody) (lim : Option Nat) (s : State) :
    exec (.repn t rn stride body lim) s = execRepn t rn stride body lim s := rfl
theorem exec_engineQueueEnqueue (t : Tid) (s : State) :
    exec (.engineQueueEnqueue t) s = execEngineQueueEnqueue t s := rfl
theorem exec_cgetBase (t : Tid) (rd rs1 : RIdx) (s : State) :
    exec (.cgetBase t rd rs1) s = execCgetBase t rd rs1 s := rfl
theorem exec_cgetLen (t : Tid) (rd rs1 : RIdx) (s : State) :
    exec (.cgetLen t rd rs1) s = execCgetLen t rd rs1 s := rfl
theorem exec_cgetPerm (t : Tid) (rd rs1 : RIdx) (s : State) :
    exec (.cgetPerm t rd rs1) s = execCgetPerm t rd rs1 s := rfl
theorem exec_cgetTen (t : Tid) (rd rs1 : RIdx) (s : State) :
    exec (.cgetTen t rd rs1) s = execCgetTen t rd rs1 s := rfl
theorem exec_cgetType (t : Tid) (rd rs1 : RIdx) (s : State) :
    exec (.cgetType t rd rs1) s = execCgetType t rd rs1 s := rfl
theorem exec_cgetQuant (t : Tid) (rd rs1 : RIdx) (s : State) :
    exec (.cgetQuant t rd rs1) s = execCgetQuant t rd rs1 s := rfl
theorem exec_csetOff (t : Tid) (rd rs1 rs2 : RIdx) (s : State) :
    exec (.csetOff t rd rs1 rs2) s = execCsetOff t rd rs1 rs2 s := rfl
theorem exec_csetLen (t : Tid) (rd rs1 rs2 : RIdx) (s : State) :
    exec (.csetLen t rd rs1 rs2) s = execCsetLen t rd rs1 rs2 s := rfl
theorem exec_candPerm (t : Tid) (rd rs1 rs2 : RIdx) (s : State) :
    exec (.candPerm t rd rs1 rs2) s = execCandPerm t rd rs1 rs2 s := rfl
theorem exec_csetTen (t : Tid) (rd rs1 rs2 : RIdx) (s : State) :
    exec (.csetTen t rd rs1 rs2) s = execCsetTen t rd rs1 rs2 s := rfl
theorem exec_cseal (t : Tid) (rd rs1 rs2 : RIdx) (s : State) :
    exec (.cseal t rd rs1 rs2) s = execCseal t rd rs1 rs2 s := rfl
theorem exec_cgate (t : Tid) (rd rs1 : RIdx) (s : State) :
    exec (.cgate t rd rs1) s = execCgate t rd rs1 s := rfl
theorem exec_cunseal (t : Tid) (rd rs1 rs2 : RIdx) (s : State) :
    exec (.cunseal t rd rs1 rs2) s = execCunseal t rd rs1 rs2 s := rfl
theorem exec_cmove (t : Tid) (rd rs1 : RIdx) (s : State) :
    exec (.cmove t rd rs1) s = execCmove t rd rs1 s := rfl
theorem exec_ctest (t : Tid) (rd rs1 : RIdx) (s : State) :
    exec (.ctest t rd rs1) s = execCtest t rd rs1 s := rfl
theorem exec_ctestSub (t : Tid) (rd rs1 rs2 : RIdx) (s : State) :
    exec (.ctestSub t rd rs1 rs2) s = execCtestSub t rd rs1 rs2 s := rfl
theorem exec_sysrd (t : Tid) (rd : RIdx) (sysreg : BitVec 12) (s : State) :
    exec (.sysrd t rd sysreg) s = execSysrd t rd sysreg s := rfl
theorem exec_syswr (t : Tid) (rs1 : RIdx) (sysreg : BitVec 12) (s : State) :
    exec (.syswr t rs1 sysreg) s = execSyswr t rs1 sysreg s := rfl
theorem exec_sysrdc (t : Tid) (rd : RIdx) (sysreg : BitVec 12) (s : State) :
    exec (.sysrdc t rd sysreg) s = execSysrdc t rd sysreg s := rfl
theorem exec_syswrc (t : Tid) (rs1 : RIdx) (sysreg : BitVec 12) (s : State) :
    exec (.syswrc t rs1 sysreg) s = execSyswrc t rs1 sysreg s := rfl
theorem exec_eret (t : Tid) (s : State) :
    exec (.eret t) s = execEret t s := rfl
theorem exec_svclr (t : Tid) (s : State) :
    exec (.svclr t) s = execSvclr t s := rfl
theorem exec_svset (t : Tid) (s : State) :
    exec (.svset t) s = execSvset t s := rfl
theorem exec_interruptEntry (t : Tid) (s : State) :
    exec (.interruptEntry t) s = execInterruptEntry t s := rfl
theorem exec_nmi (target : NmiTarget) (s : State) :
    exec (.nmi target) s = execNmi target s := rfl
theorem exec_nmiHoldExpiry (t : Tid) (s : State) :
    exec (.nmiHoldExpiry t) s = execNmiHoldExpiry t s := rfl
theorem exec_localTimer (t : Tid) (s : State) :
    exec (.localTimer t) s = execLocalTimer t s := rfl
theorem exec_taskNew (t : Tid) (rd : RIdx) (cs : PIdx) (rx : RIdx) (s : State) :
    exec (.taskNew t rd cs rx) s = execTaskNew t rd cs rx s := rfl
theorem exec_taskCue (t : Tid) (rd : RIdx) (cs : PIdx) (rs : RIdx) (s : State) :
    exec (.taskCue t rd cs rs) s = execTaskCue t rd cs rs s := rfl
theorem exec_taskDone (t : Tid) (s : State) :
    exec (.taskDone t) s = execTaskDone t s := rfl
theorem exec_taskBind (t : Tid) (rd : RIdx) (cs : PIdx) (rx rs : RIdx) (s : State) :
    exec (.taskBind t rd cs rx rs) s = execTaskBind t rd cs rx rs s := rfl
theorem exec_taskEpoch (t : Tid) (rd : RIdx) (cs : PIdx) (rs : RIdx) (s : State) :
    exec (.taskEpoch t rd cs rs) s = execTaskEpoch t rd cs rs s := rfl
theorem exec_epochSlotWaitEnd (t : Tid) (s : State) :
    exec (.epochSlotWaitEnd t) s = execEpochSlotWaitEnd t s := rfl
theorem exec_taskCommit (t : Tid) (rd : RIdx) (cs : PIdx) (rs : RIdx) (s : State) :
    exec (.taskCommit t rd cs rs) s = execTaskCommit t rd cs rs s := rfl
theorem exec_taskDiscard (t : Tid) (rd : RIdx) (cs : PIdx) (rs : RIdx) (s : State) :
    exec (.taskDiscard t rd cs rs) s = execTaskDiscard t rd cs rs s := rfl
theorem exec_taskState (t : Tid) (rd : RIdx) (rs : RIdx) (s : State) :
    exec (.taskState t rd rs) s = execTaskState t rd rs s := rfl
theorem exec_taskSig (t : Tid) (rd : RIdx) (cs : PIdx) (rx rs : RIdx) (s : State) :
    exec (.taskSig t rd cs rx rs) s = execTaskSig t rd cs rx rs s := rfl
theorem exec_taskAbort (t : Tid) (rd : RIdx) (cs : PIdx) (rs : RIdx) (s : State) :
    exec (.taskAbort t rd cs rs) s = execTaskAbort t rd cs rs s := rfl
theorem exec_taskDispatch (quarter : Fin 4) (core : CoreId) (t : Tid) (s : State) :
    exec (.taskDispatch quarter core t) s = execTaskDispatch quarter core t s := rfl
theorem exec_epochResolutionComplete (ten : Fin 16) (slot : Fin 64) (s : State) :
    exec (.epochResolutionComplete ten slot) s = execEpochResolutionComplete ten slot s := rfl
theorem exec_specStoreRelease (t : Tid) (s : State) :
    exec (.specStoreRelease t) s = execSpecStoreRelease t s := rfl
theorem exec_heldCommandRelease (cmd : Nat) (s : State) :
    exec (.heldCommandRelease cmd) s = execHeldCommandRelease cmd s := rfl
theorem exec_chOpen (t : Tid) (rd : RIdx) (cs : PIdx) (rs : RIdx) (s : State) :
    exec (.chOpen t rd cs rs) s = execChOpen t rd cs rs s := rfl
theorem exec_chSend (t : Tid) (rd : RIdx) (cs : PIdx) (rx rs : RIdx) (s : State) :
    exec (.chSend t rd cs rx rs) s = execChSend t rd cs rx rs s := rfl
theorem exec_chRecv (t : Tid) (rd : RIdx) (cs : PIdx) (rx rs : RIdx) (s : State) :
    exec (.chRecv t rd cs rx rs) s = execChRecv t rd cs rx rs s := rfl
theorem exec_channelSlotReady (t : Tid) (s : State) :
    exec (.channelSlotReady t) s = execChannelSlotReady t s := rfl
theorem exec_handoffBlockArrival (chan : Nat) (s : State) :
    exec (.handoffBlockArrival chan) s = execHandoffBlockArrival chan s := rfl
theorem exec_chCue (t : Tid) (rd : RIdx) (cs : PIdx) (rx rs : RIdx) (s : State) :
    exec (.chCue t rd cs rx rs) s = execChCue t rd cs rx rs s := rfl
theorem exec_chClose (t : Tid) (rd : RIdx) (cs : PIdx) (rs : RIdx) (s : State) :
    exec (.chClose t rd cs rs) s = execChClose t rd cs rs s := rfl
theorem exec_chSopen (t : Tid) (rd : RIdx) (cs : PIdx) (rs : RIdx) (s : State) :
    exec (.chSopen t rd cs rs) s = execChSopen t rd cs rs s := rfl
theorem exec_chSsend (t : Tid) (rd : RIdx) (cs : PIdx) (rx rs : RIdx) (lim : Option Nat) (s : State) :
    exec (.chSsend t rd cs rx rs lim) s = execChSsend t rd cs rx rs lim s := rfl
theorem exec_lvWakeComplete (core : CoreId) (s : State) :
    exec (.lvWakeComplete core) s = execLvWakeComplete core s := rfl
theorem exec_lvPowerDown (core : CoreId) (s : State) :
    exec (.lvPowerDown core) s = execLvPowerDown core s := rfl
theorem exec_vadd (t : Tid) (vd vs1 vs2 : RIdx) (lanes : Fin 4) (s : State) :
    exec (.vadd t vd vs1 vs2 lanes) s = execVadd t vd vs1 vs2 lanes s := rfl
theorem exec_vsub (t : Tid) (vd vs1 vs2 : RIdx) (lanes : Fin 4) (s : State) :
    exec (.vsub t vd vs1 vs2 lanes) s = execVsub t vd vs1 vs2 lanes s := rfl
theorem exec_vmul (t : Tid) (vd vs1 vs2 : RIdx) (lanes : Fin 4) (s : State) :
    exec (.vmul t vd vs1 vs2 lanes) s = execVmul t vd vs1 vs2 lanes s := rfl
theorem exec_vmin (t : Tid) (vd vs1 vs2 : RIdx) (lanes : Fin 4) (s : State) :
    exec (.vmin t vd vs1 vs2 lanes) s = execVmin t vd vs1 vs2 lanes s := rfl
theorem exec_vmax (t : Tid) (vd vs1 vs2 : RIdx) (lanes : Fin 4) (s : State) :
    exec (.vmax t vd vs1 vs2 lanes) s = execVmax t vd vs1 vs2 lanes s := rfl
theorem exec_vminu (t : Tid) (vd vs1 vs2 : RIdx) (lanes : Fin 4) (s : State) :
    exec (.vminu t vd vs1 vs2 lanes) s = execVminu t vd vs1 vs2 lanes s := rfl
theorem exec_vmaxu (t : Tid) (vd vs1 vs2 : RIdx) (lanes : Fin 4) (s : State) :
    exec (.vmaxu t vd vs1 vs2 lanes) s = execVmaxu t vd vs1 vs2 lanes s := rfl
theorem exec_vand (t : Tid) (vd vs1 vs2 : RIdx) (lanes : Fin 4) (s : State) :
    exec (.vand t vd vs1 vs2 lanes) s = execVand t vd vs1 vs2 lanes s := rfl
theorem exec_vor (t : Tid) (vd vs1 vs2 : RIdx) (lanes : Fin 4) (s : State) :
    exec (.vor t vd vs1 vs2 lanes) s = execVor t vd vs1 vs2 lanes s := rfl
theorem exec_vxor (t : Tid) (vd vs1 vs2 : RIdx) (lanes : Fin 4) (s : State) :
    exec (.vxor t vd vs1 vs2 lanes) s = execVxor t vd vs1 vs2 lanes s := rfl
theorem exec_vsll (t : Tid) (vd vs1 vs2 : RIdx) (lanes : Fin 4) (s : State) :
    exec (.vsll t vd vs1 vs2 lanes) s = execVsll t vd vs1 vs2 lanes s := rfl
theorem exec_vsrl (t : Tid) (vd vs1 vs2 : RIdx) (lanes : Fin 4) (s : State) :
    exec (.vsrl t vd vs1 vs2 lanes) s = execVsrl t vd vs1 vs2 lanes s := rfl
theorem exec_vsra (t : Tid) (vd vs1 vs2 : RIdx) (lanes : Fin 4) (s : State) :
    exec (.vsra t vd vs1 vs2 lanes) s = execVsra t vd vs1 vs2 lanes s := rfl
theorem exec_vcmpeq (t : Tid) (vd vs1 vs2 : RIdx) (lanes : Fin 4) (s : State) :
    exec (.vcmpeq t vd vs1 vs2 lanes) s = execVcmpeq t vd vs1 vs2 lanes s := rfl
theorem exec_vcmplt (t : Tid) (vd vs1 vs2 : RIdx) (lanes : Fin 4) (s : State) :
    exec (.vcmplt t vd vs1 vs2 lanes) s = execVcmplt t vd vs1 vs2 lanes s := rfl
theorem exec_vsel (t : Tid) (vd vs1 vs2 : RIdx) (lanes : Fin 4) (s : State) :
    exec (.vsel t vd vs1 vs2 lanes) s = execVsel t vd vs1 vs2 lanes s := rfl
theorem exec_vsadd (t : Tid) (vd vs1 vs2 : RIdx) (lanes : Fin 4) (s : State) :
    exec (.vsadd t vd vs1 vs2 lanes) s = execVsadd t vd vs1 vs2 lanes s := rfl
theorem exec_vfadd (t : Tid) (vd vs1 vs2 : RIdx) (lanes : Fin 4) (s : State) :
    exec (.vfadd t vd vs1 vs2 lanes) s = execVfadd t vd vs1 vs2 lanes s := rfl
theorem exec_vfsub (t : Tid) (vd vs1 vs2 : RIdx) (lanes : Fin 4) (s : State) :
    exec (.vfsub t vd vs1 vs2 lanes) s = execVfsub t vd vs1 vs2 lanes s := rfl
theorem exec_vfmul (t : Tid) (vd vs1 vs2 : RIdx) (lanes : Fin 4) (s : State) :
    exec (.vfmul t vd vs1 vs2 lanes) s = execVfmul t vd vs1 vs2 lanes s := rfl
theorem exec_vfdiv (t : Tid) (vd vs1 vs2 : RIdx) (lanes : Fin 4) (s : State) :
    exec (.vfdiv t vd vs1 vs2 lanes) s = execVfdiv t vd vs1 vs2 lanes s := rfl
theorem exec_vfsqrt (t : Tid) (vd vs1 : RIdx) (lanes : Fin 4) (s : State) :
    exec (.vfsqrt t vd vs1 lanes) s = execVfsqrt t vd vs1 lanes s := rfl
theorem exec_vfmin (t : Tid) (vd vs1 vs2 : RIdx) (lanes : Fin 4) (s : State) :
    exec (.vfmin t vd vs1 vs2 lanes) s = execVfmin t vd vs1 vs2 lanes s := rfl
theorem exec_vfmax (t : Tid) (vd vs1 vs2 : RIdx) (lanes : Fin 4) (s : State) :
    exec (.vfmax t vd vs1 vs2 lanes) s = execVfmax t vd vs1 vs2 lanes s := rfl
theorem exec_vfcmplt (t : Tid) (vd vs1 vs2 : RIdx) (lanes : Fin 4) (s : State) :
    exec (.vfcmplt t vd vs1 vs2 lanes) s = execVfcmplt t vd vs1 vs2 lanes s := rfl
theorem exec_vfcmpeq (t : Tid) (vd vs1 vs2 : RIdx) (lanes : Fin 4) (s : State) :
    exec (.vfcmpeq t vd vs1 vs2 lanes) s = execVfcmpeq t vd vs1 vs2 lanes s := rfl
theorem exec_vfexp (t : Tid) (vd vs1 : RIdx) (lanes : Fin 4) (s : State) :
    exec (.vfexp t vd vs1 lanes) s = execVfexp t vd vs1 lanes s := rfl
theorem exec_vfln (t : Tid) (vd vs1 : RIdx) (lanes : Fin 4) (s : State) :
    exec (.vfln t vd vs1 lanes) s = execVfln t vd vs1 lanes s := rfl
theorem exec_vfmadd (t : Tid) (vd vs1 vs2 : RIdx) (lanes : Fin 4) (s : State) :
    exec (.vfmadd t vd vs1 vs2 lanes) s = execVfmadd t vd vs1 vs2 lanes s := rfl
theorem exec_vfmsub (t : Tid) (vd vs1 vs2 : RIdx) (lanes : Fin 4) (s : State) :
    exec (.vfmsub t vd vs1 vs2 lanes) s = execVfmsub t vd vs1 vs2 lanes s := rfl
theorem exec_vfnmadd (t : Tid) (vd vs1 vs2 : RIdx) (lanes : Fin 4) (s : State) :
    exec (.vfnmadd t vd vs1 vs2 lanes) s = execVfnmadd t vd vs1 vs2 lanes s := rfl
theorem exec_vfnmsub (t : Tid) (vd vs1 vs2 : RIdx) (lanes : Fin 4) (s : State) :
    exec (.vfnmsub t vd vs1 vs2 lanes) s = execVfnmsub t vd vs1 vs2 lanes s := rfl
theorem exec_vwmulLo (t : Tid) (vd vs1 vs2 : RIdx) (s : State) :
    exec (.vwmulLo t vd vs1 vs2) s = execVwmulLo t vd vs1 vs2 s := rfl
theorem exec_vwmulHi (t : Tid) (vd vs1 vs2 : RIdx) (s : State) :
    exec (.vwmulHi t vd vs1 vs2) s = execVwmulHi t vd vs1 vs2 s := rfl
theorem exec_vwmul16Lo (t : Tid) (vd vs1 vs2 : RIdx) (s : State) :
    exec (.vwmul16Lo t vd vs1 vs2) s = execVwmul16Lo t vd vs1 vs2 s := rfl
theorem exec_vwmul16Hi (t : Tid) (vd vs1 vs2 : RIdx) (s : State) :
    exec (.vwmul16Hi t vd vs1 vs2) s = execVwmul16Hi t vd vs1 vs2 s := rfl
theorem exec_vwfmulLo (t : Tid) (vd vs1 vs2 : RIdx) (lanes : Fin 4) (s : State) :
    exec (.vwfmulLo t vd vs1 vs2 lanes) s = execVwfmulLo t vd vs1 vs2 lanes s := rfl
theorem exec_vwfmulHi (t : Tid) (vd vs1 vs2 : RIdx) (lanes : Fin 4) (s : State) :
    exec (.vwfmulHi t vd vs1 vs2 lanes) s = execVwfmulHi t vd vs1 vs2 lanes s := rfl
theorem exec_vdot4I8 (t : Tid) (vd vs1 vs2 : RIdx) (s : State) :
    exec (.vdot4I8 t vd vs1 vs2) s = execVdot4I8 t vd vs1 vs2 s := rfl
theorem exec_vdot2F16 (t : Tid) (vd vs1 vs2 : RIdx) (lanes : Fin 4) (s : State) :
    exec (.vdot2F16 t vd vs1 vs2 lanes) s = execVdot2F16 t vd vs1 vs2 lanes s := rfl
theorem exec_vdot4F8 (t : Tid) (vd vs1 vs2 : RIdx) (lanes : Fin 4) (s : State) :
    exec (.vdot4F8 t vd vs1 vs2 lanes) s = execVdot4F8 t vd vs1 vs2 lanes s := rfl
theorem exec_vcvtNarrow (t : Tid) (vd vs1 rs2 : RIdx) (s : State) :
    exec (.vcvtNarrow t vd vs1 rs2) s = execVcvtNarrow t vd vs1 rs2 s := rfl
theorem exec_vcvtWiden (t : Tid) (vd vs1 rs2 : RIdx) (s : State) :
    exec (.vcvtWiden t vd vs1 rs2) s = execVcvtWiden t vd vs1 rs2 s := rfl
theorem exec_vzero (t : Tid) (vd : RIdx) (s : State) :
    exec (.vzero t vd) s = execVzero t vd s := rfl
theorem exec_vcopy (t : Tid) (vd vs1 : RIdx) (s : State) :
    exec (.vcopy t vd vs1) s = execVcopy t vd vs1 s := rfl
theorem exec_vbcastD (t : Tid) (vd rs : RIdx) (s : State) :
    exec (.vbcastD t vd rs) s = execVbcastD t vd rs s := rfl
theorem exec_vbcastW (t : Tid) (vd rs : RIdx) (s : State) :
    exec (.vbcastW t vd rs) s = execVbcastW t vd rs s := rfl
theorem exec_vextW (t : Tid) (rd vs1 rs2 : RIdx) (s : State) :
    exec (.vextW t rd vs1 rs2) s = execVextW t rd vs1 rs2 s := rfl
theorem exec_vextD (t : Tid) (rd vs1 rs2 : RIdx) (s : State) :
    exec (.vextD t rd vs1 rs2) s = execVextD t rd vs1 rs2 s := rfl
theorem exec_vinsW (t : Tid) (vd rs rs2 : RIdx) (s : State) :
    exec (.vinsW t vd rs rs2) s = execVinsW t vd rs rs2 s := rfl
theorem exec_vinsD (t : Tid) (vd rs rs2 : RIdx) (s : State) :
    exec (.vinsD t vd rs rs2) s = execVinsD t vd rs rs2 s := rfl
theorem exec_vmovs (t : Tid) (vd rs rs2 : RIdx) (s : State) :
    exec (.vmovs t vd rs rs2) s = execVmovs t vd rs rs2 s := rfl
theorem exec_vmovl (t : Tid) (rd vs1 rs2 : RIdx) (s : State) :
    exec (.vmovl t rd vs1 rs2) s = execVmovl t rd vs1 rs2 s := rfl
theorem exec_vldA (t : Tid) (vd : RIdx) (cs : PIdx) (m : VMForm) (s : State) :
    exec (.vldA t vd cs m) s = execVldA t vd cs m s := rfl
theorem exec_vldU (t : Tid) (vd : RIdx) (cs : PIdx) (m : VMForm) (s : State) :
    exec (.vldU t vd cs m) s = execVldU t vd cs m s := rfl
theorem exec_vstA (t : Tid) (vs : RIdx) (cs : PIdx) (m : VMForm) (s : State) :
    exec (.vstA t vs cs m) s = execVstA t vs cs m s := rfl
theorem exec_vstU (t : Tid) (vs : RIdx) (cs : PIdx) (m : VMForm) (s : State) :
    exec (.vstU t vs cs m) s = execVstU t vs cs m s := rfl
theorem exec_vnormSum (t : Tid) (vd : RIdx) (cs : PIdx) (m : VMForm) (fmt : BitVec 4) (lim : Option Nat) (s : State) :
    exec (.vnormSum t vd cs m fmt lim) s = execVnormSum t vd cs m fmt lim s := rfl
theorem exec_vnormSsq (t : Tid) (vd : RIdx) (cs : PIdx) (m : VMForm) (fmt : BitVec 4) (lim : Option Nat) (s : State) :
    exec (.vnormSsq t vd cs m fmt lim) s = execVnormSsq t vd cs m fmt lim s := rfl
theorem exec_vnormScale (t : Tid) (vd : RIdx) (cs : PIdx) (m : VMForm) (fmt : BitVec 4) (lim : Option Nat) (s : State) :
    exec (.vnormScale t vd cs m fmt lim) s = execVnormScale t vd cs m fmt lim s := rfl
theorem exec_vsmaxMax (t : Tid) (vd : RIdx) (cs : PIdx) (m : VMForm) (fmt : BitVec 4) (lim : Option Nat) (s : State) :
    exec (.vsmaxMax t vd cs m fmt lim) s = execVsmaxMax t vd cs m fmt lim s := rfl
theorem exec_vsmaxSum (t : Tid) (vd : RIdx) (cs : PIdx) (m : VMForm) (fmt : BitVec 4) (lim : Option Nat) (s : State) :
    exec (.vsmaxSum t vd cs m fmt lim) s = execVsmaxSum t vd cs m fmt lim s := rfl
theorem exec_vsmaxNorm (t : Tid) (vd : RIdx) (cs : PIdx) (m : VMForm) (fmt : BitVec 4) (lim : Option Nat) (s : State) :
    exec (.vsmaxNorm t vd cs m fmt lim) s = execVsmaxNorm t vd cs m fmt lim s := rfl
theorem exec_vlossXent (t : Tid) (vd : RIdx) (cs : PIdx) (m : VMForm) (fmt : BitVec 4) (s : State) :
    exec (.vlossXent t vd cs m fmt) s = execVlossXent t vd cs m fmt s := rfl
theorem exec_vlossGrad (t : Tid) (vd : RIdx) (cs : PIdx) (m : VMForm) (fmt : BitVec 4) (lim : Option Nat) (s : State) :
    exec (.vlossGrad t vd cs m fmt lim) s = execVlossGrad t vd cs m fmt lim s := rfl
theorem exec_tcfg (t : Tid) (rd : RIdx) (cs : PIdx) (rx : RIdx) (s : State) :
    exec (.tcfg t rd cs rx) s = execTcfg t rd cs rx s := rfl
theorem exec_tileGroupGrant (t : Tid) (s : State) :
    exec (.tileGroupGrant t) s = execTileGroupGrant t s := rfl
theorem exec_trel (t : Tid) (s : State) :
    exec (.trel t) s = execTrel t s := rfl
theorem exec_tshape (t : Tid) (rs : RIdx) (s : State) :
    exec (.tshape t rs) s = execTshape t rs s := rfl
theorem exec_tvalid (t : Tid) (rd rs : RIdx) (s : State) :
    exec (.tvalid t rd rs) s = execTvalid t rd rs s := rfl
theorem exec_tmask (t : Tid) (rs : RIdx) (s : State) :
    exec (.tmask t rs) s = execTmask t rs s := rfl
theorem exec_tld (t : Tid) (td : MIdx) (cs : PIdx) (m : TMForm) (lim : Option Nat) (s : State) :
    exec (.tld t td cs m lim) s = execTld t td cs m lim s := rfl
theorem exec_tldAll (t : Tid) (td : MIdx) (cs : PIdx) (m : TMForm) (lim : Option Nat) (s : State) :
    exec (.tldAll t td cs m lim) s = execTldAll t td cs m lim s := rfl
theorem exec_tst (t : Tid) (td : MIdx) (cs : PIdx) (m : TMForm) (lim : Option Nat) (s : State) :
    exec (.tst t td cs m lim) s = execTst t td cs m lim s := rfl
theorem exec_tmma (t : Tid) (ta tb : MIdx) (bank : Fin 2) (rfa rfb : RIdx) (s : State) :
    exec (.tmma t ta tb bank rfa rfb) s = execTmma t ta tb bank rfa rfb s := rfl
theorem exec_tmmaQueueAccept (t : Tid) (s : State) :
    exec (.tmmaQueueAccept t) s = execTmmaQueueAccept t s := rfl
theorem exec_tmmaPassStart (core : CoreId) (part : Fin 4) (s : State) :
    exec (.tmmaPassStart core part) s = execTmmaPassStart core part s := rfl
theorem exec_tmmaPassComplete (core : CoreId) (part : Fin 4) (s : State) :
    exec (.tmmaPassComplete core part) s = execTmmaPassComplete core part s := rfl
theorem exec_tmmaCvt (t : Tid) (td ta tb : MIdx) (bank : Fin 2) (rfa rfb rfd : RIdx) (s : State) :
    exec (.tmmaCvt t td ta tb bank rfa rfb rfd) s = execTmmaCvt t td ta tb bank rfa rfb rfd s := rfl
theorem exec_tmmaCvtF (t : Tid) (td ta tb : MIdx) (bank : Fin 2) (rfa rfb rfd : RIdx) (s : State) :
    exec (.tmmaCvtF t td ta tb bank rfa rfb rfd) s = execTmmaCvtF t td ta tb bank rfa rfb rfd s := rfl
theorem exec_tz (t : Tid) (bank : Fin 2) (s : State) :
    exec (.tz t bank) s = execTz t bank s := rfl
theorem exec_tzTurn (core : CoreId) (part : Fin 4) (s : State) :
    exec (.tzTurn core part) s = execTzTurn core part s := rfl
theorem exec_trdaRaw (t : Tid) (td : MIdx) (bank : Fin 2) (roff : RIdx) (s : State) :
    exec (.trdaRaw t td bank roff) s = execTrdaRaw t td bank roff s := rfl
theorem exec_trdaCvt (t : Tid) (td : MIdx) (bank : Fin 2) (rfd roff : RIdx) (s : State) :
    exec (.trdaCvt t td bank rfd roff) s = execTrdaCvt t td bank rfd roff s := rfl
theorem exec_partitionDrainComplete (core : CoreId) (part : Fin 4) (s : State) :
    exec (.partitionDrainComplete core part) s = execPartitionDrainComplete core part s := rfl
theorem exec_touchFillComplete (space : Fin 17) (page : Nat) (s : State) :
    exec (.touchFillComplete space page) s = execTouchFillComplete space page s := rfl
theorem exec_remoteFetchFilled (space : Fin 17) (page : Nat) (s : State) :
    exec (.remoteFetchFilled space page) s = execRemoteFetchFilled space page s := rfl
theorem exec_remoteFetchTimeout (space : Fin 17) (page : Nat) (s : State) :
    exec (.remoteFetchTimeout space page) s = execRemoteFetchTimeout space page s := rfl
theorem exec_geSched (t : Tid) (rd : RIdx) (cs : PIdx) (a : CForm) (s : State) :
    exec (.geSched t rd cs a) s = execGeSched t rd cs a s := rfl
theorem exec_gatherEntryStart (cmd : Nat) (s : State) :
    exec (.gatherEntryStart cmd) s = execGatherEntryStart cmd s := rfl
theorem exec_gatherEntryFilled (cmd entry : Nat) (s : State) :
    exec (.gatherEntryFilled cmd entry) s = execGatherEntryFilled cmd entry s := rfl
theorem exec_geFetch (t : Tid) (rd : RIdx) (cs : PIdx) (a : CForm) (s : State) :
    exec (.geFetch t rd cs a) s = execGeFetch t rd cs a s := rfl
theorem exec_geRelease (t : Tid) (rd : RIdx) (cs : PIdx) (a : CForm) (s : State) :
    exec (.geRelease t rd cs a) s = execGeRelease t rd cs a s := rfl
theorem exec_pgSet (t : Tid) (rd : RIdx) (cs : PIdx) (a : CForm) (s : State) :
    exec (.pgSet t rd cs a) s = execPgSet t rd cs a s := rfl
theorem exec_pgSetComplete (cmd : Nat) (s : State) :
    exec (.pgSetComplete cmd) s = execPgSetComplete cmd s := rfl
theorem exec_readReq (src job frame off len : Nat) (s : State) :
    exec (.readReq src job frame off len) s = execReadReq src job frame off len s := rfl
theorem exec_readRsp (node job frame off len : Nat) (served : Bool) (data poison : Nat) (s : State) :
    exec (.readRsp node job frame off len served data poison) s = execReadRsp node job frame off len served data poison s := rfl
theorem exec_sectorFill (line : Nat) (sector : Fin 4) (s : State) :
    exec (.sectorFill line sector) s = execSectorFill line sector s := rfl
theorem exec_victimWriteback (slice : Fin 192) (s : State) :
    exec (.victimWriteback slice) s = execVictimWriteback slice s := rfl
theorem exec_reductionRequest (space : Fin 17) (line : Nat) (op : Fin 3) (fp : Bool) (mask : BitVec 32) (vals : BitVec 1024) (s : State) :
    exec (.reductionRequest space line op fp mask vals) s = execReductionRequest space line op fp mask vals s := rfl
theorem exec_disable (l1 all : Bool) (number : BitVec 8) (s : State) :
    exec (.disable l1 all number) s = execDisable l1 all number s := rfl
theorem exec_enable (l1 all : Bool) (number : BitVec 8) (s : State) :
    exec (.enable l1 all number) s = execEnable l1 all number s := rfl
theorem exec_enableInv (l1 all : Bool) (number : BitVec 8) (s : State) :
    exec (.enableInv l1 all number) s = execEnableInv l1 all number s := rfl
theorem exec_windowWrite (ten idx : Fin 16) (record : BitVec 256) (s : State) :
    exec (.windowWrite ten idx record) s = execWindowWrite ten idx record s := rfl
theorem exec_update (t : Tid) (rd : RIdx) (cs : PIdx) (a : CForm) (s : State) :
    exec (.update t rd cs a) s = execUpdate t rd cs a s := rfl
theorem exec_oboe (t : Tid) (rd : RIdx) (cs : PIdx) (a : CForm) (s : State) :
    exec (.oboe t rd cs a) s = execOboe t rd cs a s := rfl
theorem exec_transpose (t : Tid) (rd : RIdx) (cs : PIdx) (a : CForm) (s : State) :
    exec (.transpose t rd cs a) s = execTranspose t rd cs a s := rfl
theorem exec_gather (t : Tid) (rd : RIdx) (cs : PIdx) (a : CForm) (s : State) :
    exec (.gather t rd cs a) s = execGather t rd cs a s := rfl
theorem exec_sortedGather (t : Tid) (rd : RIdx) (cs : PIdx) (a : CForm) (s : State) :
    exec (.sortedGather t rd cs a) s = execSortedGather t rd cs a s := rfl
theorem exec_zero (t : Tid) (rd : RIdx) (cs : PIdx) (a : CForm) (s : State) :
    exec (.zero t rd cs a) s = execZero t rd cs a s := rfl
theorem exec_reduceAtMemory (t : Tid) (rd : RIdx) (cs : PIdx) (a : CForm) (s : State) :
    exec (.reduceAtMemory t rd cs a) s = execReduceAtMemory t rd cs a s := rfl
theorem exec_pcodeScrub (t : Tid) (rd : RIdx) (cs : PIdx) (a : CForm) (s : State) :
    exec (.pcodeScrub t rd cs a) s = execPcodeScrub t rd cs a s := rfl
theorem exec_bellowsCommandComplete (cmd : Nat) (s : State) :
    exec (.bellowsCommandComplete cmd) s = execBellowsCommandComplete cmd s := rfl
theorem exec_pageReencrypt (space : Fin 17) (page : Nat) (s : State) :
    exec (.pageReencrypt space page) s = execPageReencrypt space page s := rfl
theorem exec_keySweepPage (space : Fin 17) (page : Nat) (s : State) :
    exec (.keySweepPage space page) s = execKeySweepPage space page s := rfl
theorem exec_portTrained (p : Fin 16) (tx rx : BitVec 16) (s : State) :
    exec (.portTrained p tx rx) s = execPortTrained p tx rx s := rfl
theorem exec_trainingTimeout (p : Fin 16) (s : State) :
    exec (.trainingTimeout p) s = execTrainingTimeout p s := rfl
theorem exec_blockLockLost (p lane : Fin 16) (s : State) :
    exec (.blockLockLost p lane) s = execBlockLockLost p lane s := rfl
theorem exec_blockReceive (p : Fin 16) (hdr : BitVec 40) (f0 f1 f2 f3 f4 : BitVec 2048) (badA badB : Bool) (corrected : Fin 3) (s : State) :
    exec (.blockReceive p hdr f0 f1 f2 f3 f4 badA badB corrected) s = execBlockReceive p hdr f0 f1 f2 f3 f4 badA badB corrected s := rfl
theorem exec_hello (p : Fin 16) (body : BitVec 2016) (s : State) :
    exec (.hello p body) s = execHello p body s := rfl
theorem exec_helloTimer (p : Fin 16) (s : State) :
    exec (.helloTimer p) s = execHelloTimer p s := rfl
theorem exec_keyMsg (p : Fin 16) (body : BitVec 2016) (s : State) :
    exec (.keyMsg p body) s = execKeyMsg p body s := rfl
theorem exec_keyingTimeout (p : Fin 16) (s : State) :
    exec (.keyingTimeout p) s = execKeyingTimeout p s := rfl
theorem exec_keySwitch (p : Fin 16) (epoch : Bool) (s : State) :
    exec (.keySwitch p epoch) s = execKeySwitch p epoch s := rfl
theorem exec_creditSync (p : Fin 16) (credits : BitVec 128) (s : State) :
    exec (.creditSync p credits) s = execCreditSync p credits s := rfl
theorem exec_rekeyStart (p : Fin 16) (s : State) :
    exec (.rekeyStart p) s = execRekeyStart p s := rfl
theorem exec_packetRoute (src : Option (Fin 16 × Fin 8)) (s : State) :
    exec (.packetRoute src) s = execPacketRoute src s := rfl
theorem exec_escapeTimeout (src : Option (Fin 16 × Fin 8)) (s : State) :
    exec (.escapeTimeout src) s = execEscapeTimeout src s := rfl
theorem exec_strOpen (src job stream : Nat) (s : State) :
    exec (.strOpen src job stream) s = execStrOpen src job stream s := rfl
theorem exec_strOpenTimer (stream : Nat) (s : State) :
    exec (.strOpenTimer stream) s = execStrOpenTimer stream s := rfl
theorem exec_strCredit (src job stream tspec : Nat) (s : State) :
    exec (.strCredit src job stream tspec) s = execStrCredit src job stream tspec s := rfl
theorem exec_strData (src job tspec len data : Nat) (last : Bool) (s : State) :
    exec (.strData src job tspec len data last) s = execStrData src job tspec len data last s := rfl
theorem exec_streamBlockTimeout (stream : Nat) (s : State) :
    exec (.streamBlockTimeout stream) s = execStreamBlockTimeout stream s := rfl
theorem exec_mgmtReq (src flags tspec len data : Nat) (s : State) :
    exec (.mgmtReq src flags tspec len data) s = execMgmtReq src flags tspec len data s := rfl
theorem exec_mgmtRsp (src flags tspec len data : Nat) (s : State) :
    exec (.mgmtRsp src flags tspec len data) s = execMgmtRsp src flags tspec len data s := rfl
theorem exec_cuGroup (t : Tid) (rd : RIdx) (cs : PIdx) (a : CForm) (s : State) :
    exec (.cuGroup t rd cs a) s = execCuGroup t rd cs a s := rfl
theorem exec_cuRed (t : Tid) (rd : RIdx) (cs : PIdx) (a : CForm) (s : State) :
    exec (.cuRed t rd cs a) s = execCuRed t rd cs a s := rfl
theorem exec_contextOpen (p : Fin 16) (s : State) :
    exec (.contextOpen p) s = execContextOpen p s := rfl
theorem exec_redData (src job tspec len data : Nat) (s : State) :
    exec (.redData src job tspec len data) s = execRedData src job tspec len data s := rfl
theorem exec_grant (src job tspec : Nat) (resend : Bool) (s : State) :
    exec (.grant src job tspec resend) s = execGrant src job tspec resend s := rfl
theorem exec_done (src job tspec count : Nat) (roots : List Nat) (s : State) :
    exec (.done src job tspec count roots) s = execDone src job tspec count roots s := rfl
theorem exec_drop (src job tspec : Nat) (s : State) :
    exec (.drop src job tspec) s = execDrop src job tspec s := rfl
theorem exec_torn (src job tspec reason : Nat) (s : State) :
    exec (.torn src job tspec reason) s = execTorn src job tspec reason s := rfl
theorem exec_vote (src job tspec total : Nat) (flag : Bool) (s : State) :
    exec (.vote src job tspec total flag) s = execVote src job tspec total flag s := rfl
theorem exec_result (src job tspec total : Nat) (flag : Bool) (s : State) :
    exec (.result src job tspec total flag) s = execResult src job tspec total flag s := rfl
theorem exec_bready (src job tspec : Nat) (s : State) :
    exec (.bready src job tspec) s = execBready src job tspec s := rfl
theorem exec_babort (src job tspec : Nat) (s : State) :
    exec (.babort src job tspec) s = execBabort src job tspec s := rfl
theorem exec_bcast (src job tspec len data : Nat) (s : State) :
    exec (.bcast src job tspec len data) s = execBcast src job tspec len data s := rfl
theorem exec_redDeadlineExpiry (cmd : Nat) (right : Bool) (s : State) :
    exec (.redDeadlineExpiry cmd right) s = execRedDeadlineExpiry cmd right s := rfl
theorem exec_resendTimeout (cmd : Nat) (right : Bool) (s : State) :
    exec (.resendTimeout cmd right) s = execResendTimeout cmd right s := rfl
theorem exec_tearTimeout (cmd : Nat) (right : Bool) (s : State) :
    exec (.tearTimeout cmd right) s = execTearTimeout cmd right s := rfl
theorem exec_gradientLanding (cmd : Nat) (s : State) :
    exec (.gradientLanding cmd) s = execGradientLanding cmd s := rfl
theorem exec_cuBcast (t : Tid) (rd : RIdx) (cs : PIdx) (a : CForm) (s : State) :
    exec (.cuBcast t rd cs a) s = execCuBcast t rd cs a s := rfl
theorem exec_cuBrecv (t : Tid) (rd : RIdx) (cs : PIdx) (a : CForm) (s : State) :
    exec (.cuBrecv t rd cs a) s = execCuBrecv t rd cs a s := rfl
theorem exec_cuCheck (t : Tid) (rd : RIdx) (cs : PIdx) (a : CForm) (s : State) :
    exec (.cuCheck t rd cs a) s = execCuCheck t rd cs a s := rfl
theorem exec_voteTaken (cmd : Nat) (expired : Bool) (s : State) :
    exec (.voteTaken cmd expired) s = execVoteTaken cmd expired s := rfl
theorem exec_voteDeadline (cmd : Nat) (right : Bool) (s : State) :
    exec (.voteDeadline cmd right) s = execVoteDeadline cmd right s := rfl
theorem exec_slicePatrol (slice : Fin 192) (failed : Option Nat) (s : State) :
    exec (.slicePatrol slice failed) s = execSlicePatrol slice failed s := rfl
theorem exec_snSet (t : Tid) (rd : RIdx) (cs : PIdx) (a : CForm) (s : State) :
    exec (.snSet t rd cs a) s = execSnSet t rd cs a s := rfl
theorem exec_snPoint (t : Tid) (rd : RIdx) (cs : PIdx) (a : CForm) (s : State) :
    exec (.snPoint t rd cs a) s = execSnPoint t rd cs a s := rfl
theorem exec_drainComplete (ten : Fin 16) (s : State) :
    exec (.drainComplete ten) s = execDrainComplete ten s := rfl
theorem exec_mtbfSWrite (v : BitVec 32) (s : State) :
    exec (.mtbfSWrite v) s = execMtbfSWrite v s := rfl
theorem exec_snRestore (t : Tid) (rd : RIdx) (cs : PIdx) (a : CForm) (s : State) :
    exec (.snRestore t rd cs a) s = execSnRestore t rd cs a s := rfl
theorem exec_sfBopen (t : Tid) (rd : RIdx) (cs : PIdx) (a : CForm) (s : State) :
    exec (.sfBopen t rd cs a) s = execSfBopen t rd cs a s := rfl
theorem exec_sfBchunk (t : Tid) (rd : RIdx) (cs : PIdx) (a : CForm) (s : State) :
    exec (.sfBchunk t rd cs a) s = execSfBchunk t rd cs a s := rfl
theorem exec_sfBclose (t : Tid) (rd : RIdx) (cs : PIdx) (a : CForm) (s : State) :
    exec (.sfBclose t rd cs a) s = execSfBclose t rd cs a s := rfl
theorem exec_sfAttest (t : Tid) (rd : RIdx) (cs : PIdx) (a : CForm) (s : State) :
    exec (.sfAttest t rd cs a) s = execSfAttest t rd cs a s := rfl
theorem exec_sfRotate (t : Tid) (rd : RIdx) (cs : PIdx) (a : CForm) (s : State) :
    exec (.sfRotate t rd cs a) s = execSfRotate t rd cs a s := rfl
theorem exec_sfErase (t : Tid) (rd : RIdx) (cs : PIdx) (a : CForm) (s : State) :
    exec (.sfErase t rd cs a) s = execSfErase t rd cs a s := rfl
theorem exec_keyRotate (ten : Fin 16) (v : BitVec 8) (s : State) :
    exec (.keyRotate ten v) s = execKeyRotate ten v s := rfl
theorem exec_functionEnable (fn : Fin 16) (s : State) :
    exec (.functionEnable fn) s = execFunctionEnable fn s := rfl
theorem exec_functionDisable (fn : Fin 16) (s : State) :
    exec (.functionDisable fn) s = execFunctionDisable fn s := rfl
theorem exec_functionLevelReset (fn : Fin 16) (s : State) :
    exec (.functionLevelReset fn) s = execFunctionLevelReset fn s := rfl
theorem exec_drainingEnd (ten : Fin 16) (s : State) :
    exec (.drainingEnd ten) s = execDrainingEnd ten s := rfl
theorem exec_submissionDoorbell (fn : Fin 16) (q : Fin 64) (v : BitVec 32) (tee : Bool) (s : State) :
    exec (.submissionDoorbell fn q v tee) s = execSubmissionDoorbell fn q v tee s := rfl
theorem exec_sqEntryFetch (fn : Fin 16) (q : Fin 64) (entry : BitVec 512) (s : State) :
    exec (.sqEntryFetch fn q entry) s = execSqEntryFetch fn q entry s := rfl
theorem exec_completionHeadDoorbell (fn : Fin 16) (q : Fin 65) (v : BitVec 32) (tee : Bool) (s : State) :
    exec (.completionHeadDoorbell fn q v tee) s = execCompletionHeadDoorbell fn q v tee s := rfl
theorem exec_completionPosting (fn : Fin 16) (q : Fin 64) (s : State) :
    exec (.completionPosting fn q) s = execCompletionPosting fn q s := rfl
theorem exec_eventPosting (fn : Fin 16) (s : State) :
    exec (.eventPosting fn) s = execEventPosting fn s := rfl
theorem exec_userDoorbell (fn num : Fin 16) (tee : Bool) (s : State) :
    exec (.userDoorbell fn num tee) s = execUserDoorbell fn num tee s := rfl
theorem exec_sqCtlWrite (fn : Fin 16) (q : Fin 64) (v : BitVec 32) (tee : Bool) (s : State) :
    exec (.sqCtlWrite fn q v tee) s = execSqCtlWrite fn q v tee s := rfl
theorem exec_cqCtlWrite (fn : Fin 16) (q : Fin 65) (v : BitVec 32) (tee : Bool) (s : State) :
    exec (.cqCtlWrite fn q v tee) s = execCqCtlWrite fn q v tee s := rfl
theorem exec_loadProgram (fn : Fin 16) (q : Fin 64) (hseq : BitVec 32) (data : Nat) (s : State) :
    exec (.loadProgram fn q hseq data) s = execLoadProgram fn q hseq data s := rfl
theorem exec_loadBundle (fn : Fin 16) (q : Fin 64) (hseq : BitVec 32) (data : Nat) (s : State) :
    exec (.loadBundle fn q hseq data) s = execLoadBundle fn q hseq data s := rfl
theorem exec_map (fn : Fin 16) (q : Fin 64) (hseq : BitVec 32) (s : State) :
    exec (.map fn q hseq) s = execMap fn q hseq s := rfl
theorem exec_unmap (fn : Fin 16) (q : Fin 64) (hseq : BitVec 32) (s : State) :
    exec (.unmap fn q hseq) s = execUnmap fn q hseq s := rfl
theorem exec_startJob (fn : Fin 16) (q : Fin 64) (hseq : BitVec 32) (s : State) :
    exec (.startJob fn q hseq) s = execStartJob fn q hseq s := rfl
theorem exec_stepClose (fn : Fin 16) (q : Fin 64) (hseq : BitVec 32) (s : State) :
    exec (.stepClose fn q hseq) s = execStepClose fn q hseq s := rfl
theorem exec_snapshotNow (fn : Fin 16) (q : Fin 64) (hseq : BitVec 32) (s : State) :
    exec (.snapshotNow fn q hseq) s = execSnapshotNow fn q hseq s := rfl
theorem exec_restore (fn : Fin 16) (q : Fin 64) (hseq : BitVec 32) (image poison : Nat) (s : State) :
    exec (.restore fn q hseq image poison) s = execRestore fn q hseq image poison s := rfl
theorem exec_hold (fn : Fin 16) (q : Fin 64) (hseq : BitVec 32) (s : State) :
    exec (.hold fn q hseq) s = execHold fn q hseq s := rfl
theorem exec_release (fn : Fin 16) (q : Fin 64) (hseq : BitVec 32) (s : State) :
    exec (.release fn q hseq) s = execRelease fn q hseq s := rfl
theorem exec_scrub (fn : Fin 16) (q : Fin 64) (hseq : BitVec 32) (s : State) :
    exec (.scrub fn q hseq) s = execScrub fn q hseq s := rfl
theorem exec_query (fn : Fin 16) (q : Fin 64) (hseq : BitVec 32) (s : State) :
    exec (.query fn q hseq) s = execQuery fn q hseq s := rfl
theorem exec_setStop (fn : Fin 16) (q : Fin 64) (hseq : BitVec 32) (data : Nat) (s : State) :
    exec (.setStop fn q hseq data) s = execSetStop fn q hseq data s := rfl
theorem exec_getStop (fn : Fin 16) (q : Fin 64) (hseq : BitVec 32) (s : State) :
    exec (.getStop fn q hseq) s = execGetStop fn q hseq s := rfl
theorem exec_ringResume (fn : Fin 16) (ring : Option (Fin 64)) (s : State) :
    exec (.ringResume fn ring) s = execRingResume fn ring s := rfl
theorem exec_bar2Read (fn : Fin 16) (off : BitVec 36) (len : BitVec 13) (tee : Bool) (s : State) :
    exec (.bar2Read fn off len tee) s = execBar2Read fn off len tee s := rfl
theorem exec_bar2Write (fn : Fin 16) (off : BitVec 36) (len : BitVec 10) (data : Nat) (tee : Bool) (s : State) :
    exec (.bar2Write fn off len data tee) s = execBar2Write fn off len data tee s := rfl
theorem exec_doeAttest (req : BitVec 512) (s : State) :
    exec (.doeAttest req) s = execDoeAttest req s := rfl
theorem exec_managementPeriod (power : BitVec 32) (short : List (Fin 192 × Fin 16)) (s : State) :
    exec (.managementPeriod power short) s = execManagementPeriod power short s := rfl
theorem exec_get (fn box : Fin 16) (tee : Bool) (s : State) :
    exec (.get fn box tee) s = execGet fn box tee s := rfl
theorem exec_set (fn box : Fin 16) (tee : Bool) (s : State) :
    exec (.set fn box tee) s = execSet fn box tee s := rfl
theorem exec_sapGet (addr : BitVec 128) (port : BitVec 16) (len data : Nat) (s : State) :
    exec (.sapGet addr port len data) s = execSapGet addr port len data s := rfl
theorem exec_sapSet (addr : BitVec 128) (port : BitVec 16) (len data : Nat) (s : State) :
    exec (.sapSet addr port len data) s = execSapSet addr port len data s := rfl
theorem exec_attest (addr : BitVec 128) (port : BitVec 16) (len data : Nat) (s : State) :
    exec (.attest addr port len data) s = execAttest addr port len data s := rfl
theorem exec_discover (addr : BitVec 128) (port : BitVec 16) (len data : Nat) (multicast : Bool) (s : State) :
    exec (.discover addr port len data multicast) s = execDiscover addr port len data multicast s := rfl
theorem exec_discoverReply  (s : State) :
    exec (.discoverReply) s = execDiscoverReply s := rfl
theorem exec_storedStopCommit  (s : State) :
    exec (.storedStopCommit) s = execStoredStopCommit s := rfl
theorem exec_storedDefaults (v : BitVec 8) (s : State) :
    exec (.storedDefaults v) s = execStoredDefaults v s := rfl
theorem exec_portCtlWrite (p : Fin 16) (v : BitVec 32) (s : State) :
    exec (.portCtlWrite p v) s = execPortCtlWrite p v s := rfl
theorem exec_registerWrite (target : RegTarget) (s : State) :
    exec (.registerWrite target) s = execRegisterWrite target s := rfl
theorem exec_powerOn (slot : BitVec 6) (s : State) :
    exec (.powerOn slot) s = execPowerOn slot s := rfl
theorem exec_supplyPgood (supply : Fin 8) (s : State) :
    exec (.supplyPgood supply) s = execSupplyPgood supply s := rfl
theorem exec_supplyFault (supply : Fin 8) (s : State) :
    exec (.supplyFault supply) s = execSupplyFault supply s := rfl
theorem exec_pwrReq  (s : State) :
    exec (.pwrReq) s = execPwrReq s := rfl
theorem exec_pwrEn (level : Bool) (slot : BitVec 6) (fails : Bool) (s : State) :
    exec (.pwrEn level slot fails) s = execPwrEn level slot fails s := rfl
theorem exec_pwrEnTimeout  (s : State) :
    exec (.pwrEnTimeout) s = execPwrEnTimeout s := rfl
theorem exec_pwrReqRetry  (s : State) :
    exec (.pwrReqRetry) s = execPwrReqRetry s := rfl
theorem exec_ckRootLock  (s : State) :
    exec (.ckRootLock) s = execCkRootLock s := rfl
theorem exec_ckRootLockTimeout  (s : State) :
    exec (.ckRootLockTimeout) s = execCkRootLockTimeout s := rfl
theorem exec_ckRootLockLoss  (s : State) :
    exec (.ckRootLockLoss) s = execCkRootLockLoss s := rfl
theorem exec_mrstN (low : Bool) (slot : BitVec 6) (fails : Bool) (s : State) :
    exec (.mrstN low slot fails) s = execMrstN low slot fails s := rfl
theorem exec_perstN (low : Bool) (slot : BitVec 6) (fails : Bool) (s : State) :
    exec (.perstN low slot fails) s = execPerstN low slot fails s := rfl
theorem exec_monitorWatchdog (slot : BitVec 6) (fails : Bool) (s : State) :
    exec (.monitorWatchdog slot fails) s = execMonitorWatchdog slot fails s := rfl
theorem exec_deviceResetRequest (slot : BitVec 6) (fails : Bool) (s : State) :
    exec (.deviceResetRequest slot fails) s = execDeviceResetRequest slot fails s := rfl
theorem exec_monitorReady (saffron : BitVec 64) (s : State) :
    exec (.monitorReady saffron) s = execMonitorReady saffron s := rfl
theorem exec_bringupTimeout  (s : State) :
    exec (.bringupTimeout) s = execBringupTimeout s := rfl
theorem exec_resume3 (t : Tid) (s : State) :
    exec (.resume3 t) s = execResume3 t s := rfl
theorem exec_thermalSample (sensors : BitVec 2048) (coolant : BitVec 32) (s : State) :
    exec (.thermalSample sensors coolant) s = execThermalSample sensors coolant s := rfl
theorem exec_throttleStepDown (q : Fin 4) (s : State) :
    exec (.throttleStepDown q) s = execThrottleStepDown q s := rfl
theorem exec_throttleStepUp (q : Fin 4) (s : State) :
    exec (.throttleStepUp q) s = execThrottleStepUp q s := rfl
theorem exec_dividerChange (q : Fin 4) (s : State) :
    exec (.dividerChange q) s = execDividerChange q s := rfl
theorem exec_thermTripN (low : Bool) (s : State) :
    exec (.thermTripN low) s = execThermTripN low s := rfl
theorem exec_tripLatchClear  (s : State) :
    exec (.tripLatchClear) s = execTripLatchClear s := rfl
theorem exec_leakN (wet : Bool) (s : State) :
    exec (.leakN wet) s = execLeakN wet s := rfl
theorem exec_leakLatchClear  (s : State) :
    exec (.leakLatchClear) s = execLeakLatchClear s := rfl
theorem exec_nmiN (low : Bool) (s : State) :
    exec (.nmiN low) s = execNmiN low s := rfl
theorem exec_stackPopc (t : Tid) (rd : RIdx) (s : State) :
    exec (.stackPopc t rd) s = execStackPopc t rd s := rfl
theorem exec_reservedMajor (t : Tid) (w0 w1 : BitVec 32) (s : State) :
    exec (.reservedMajor t w0 w1) s = execReservedMajor t w0 w1 s := rfl
theorem exec_droneTaskAbort (t : Tid) (s : State) :
    exec (.droneTaskAbort t) s = execDroneTaskAbort t s := rfl
theorem exec_spdmTdispRequest (req : DoeReq) (s : State) :
    exec (.spdmTdispRequest req) s = execSpdmTdispRequest req s := rfl
theorem exec_supplyOrder (supply : Fin 8) (s : State) :
    exec (.supplyOrder supply) s = execSupplyOrder supply s := rfl
theorem exec_tripComparator (q : Fin 4) (s : State) :
    exec (.tripComparator q) s = execTripComparator q s := rfl

/-- A step with a command in front. -/
theorem step_cons (s : State) (c : Instr) (rest : List Instr) (h : s.pending = c :: rest) :
    step s = exec c { s with pending := rest } := by
  unfold step; rw [h]

/-- A step on an empty queue. -/
theorem step_nil (s : State) (h : s.pending = []) : step s = .next (tick s) := by
  unfold step; rw [h]

end Sys2Proof.Machine
end

