-- ==== Sys2Proof/Laws/State.lean ====
section
/-!
SUPPORT. Laws/State.lean: what each named update of the state leaves unchanged, one lemma per field, and what it changes.
-/

namespace Sys2Proof.Machine

@[simp] theorem State.setTh_cores (s : State) (t : Tid) (th : Thread) : (s.setTh t th).cores = s.cores := rfl
@[simp] theorem State.setTh_hbm (s : State) (t : Tid) (th : Thread) : (s.setTh t th).hbm = s.hbm := rfl
@[simp] theorem State.setTh_hbmTags (s : State) (t : Tid) (th : Thread) : (s.setTh t th).hbmTags = s.hbmTags := rfl
@[simp] theorem State.setTh_hbmPoison (s : State) (t : Tid) (th : Thread) : (s.setTh t th).hbmPoison = s.hbmPoison := rfl
@[simp] theorem State.setTh_hbmErrs (s : State) (t : Tid) (th : Thread) : (s.setTh t th).hbmErrs = s.hbmErrs := rfl
@[simp] theorem State.setTh_slc (s : State) (t : Tid) (th : Thread) : (s.setTh t th).slc = s.slc := rfl
@[simp] theorem State.setTh_slcErrs (s : State) (t : Tid) (th : Thread) : (s.setTh t th).slcErrs = s.slcErrs := rfl
@[simp] theorem State.setTh_overlay (s : State) (t : Tid) (th : Thread) : (s.setTh t th).overlay = s.overlay := rfl
@[simp] theorem State.setTh_victims (s : State) (t : Tid) (th : Thread) : (s.setTh t th).victims = s.victims := rfl
@[simp] theorem State.setTh_misses (s : State) (t : Tid) (th : Thread) : (s.setTh t th).misses = s.misses := rfl
@[simp] theorem State.setTh_spaces (s : State) (t : Tid) (th : Thread) : (s.setTh t th).spaces = s.spaces := rfl
@[simp] theorem State.setTh_freeFrames (s : State) (t : Tid) (th : Thread) : (s.setTh t th).freeFrames = s.freeFrames := rfl
@[simp] theorem State.setTh_shadows (s : State) (t : Tid) (th : Thread) : (s.setTh t th).shadows = s.shadows := rfl
@[simp] theorem State.setTh_fills (s : State) (t : Tid) (th : Thread) : (s.setTh t th).fills = s.fills := rfl
@[simp] theorem State.setTh_pairMap (s : State) (t : Tid) (th : Thread) : (s.setTh t th).pairMap = s.pairMap := rfl
@[simp] theorem State.setTh_tasks (s : State) (t : Tid) (th : Thread) : (s.setTh t th).tasks = s.tasks := rfl
@[simp] theorem State.setTh_taskGen (s : State) (t : Tid) (th : Thread) : (s.setTh t th).taskGen = s.taskGen := rfl
@[simp] theorem State.setTh_taskEnd (s : State) (t : Tid) (th : Thread) : (s.setTh t th).taskEnd = s.taskEnd := rfl
@[simp] theorem State.setTh_ready (s : State) (t : Tid) (th : Thread) : (s.setTh t th).ready = s.ready := rfl
@[simp] theorem State.setTh_groups (s : State) (t : Tid) (th : Thread) : (s.setTh t th).groups = s.groups := rfl
@[simp] theorem State.setTh_epochs (s : State) (t : Tid) (th : Thread) : (s.setTh t th).epochs = s.epochs := rfl
@[simp] theorem State.setTh_epochGen (s : State) (t : Tid) (th : Thread) : (s.setTh t th).epochGen = s.epochGen := rfl
@[simp] theorem State.setTh_chans (s : State) (t : Tid) (th : Thread) : (s.setTh t th).chans = s.chans := rfl
@[simp] theorem State.setTh_chanGen (s : State) (t : Tid) (th : Thread) : (s.setTh t th).chanGen = s.chanGen := rfl
@[simp] theorem State.setTh_cmds (s : State) (t : Tid) (th : Thread) : (s.setTh t th).cmds = s.cmds := rfl
@[simp] theorem State.setTh_cmdGen (s : State) (t : Tid) (th : Thread) : (s.setTh t th).cmdGen = s.cmdGen := rfl
@[simp] theorem State.setTh_cmdSeq (s : State) (t : Tid) (th : Thread) : (s.setTh t th).cmdSeq = s.cmdSeq := rfl
@[simp] theorem State.setTh_landing (s : State) (t : Tid) (th : Thread) : (s.setTh t th).landing = s.landing := rfl
@[simp] theorem State.setTh_stops (s : State) (t : Tid) (th : Thread) : (s.setTh t th).stops = s.stops := rfl
@[simp] theorem State.setTh_events (s : State) (t : Tid) (th : Thread) : (s.setTh t th).events = s.events := rfl
@[simp] theorem State.setTh_eventsLost (s : State) (t : Tid) (th : Thread) : (s.setTh t th).eventsLost = s.eventsLost := rfl
@[simp] theorem State.setTh_droneMail (s : State) (t : Tid) (th : Thread) : (s.setTh t th).droneMail = s.droneMail := rfl
@[simp] theorem State.setTh_monitorMail (s : State) (t : Tid) (th : Thread) : (s.setTh t th).monitorMail = s.monitorMail := rfl
@[simp] theorem State.setTh_ports (s : State) (t : Tid) (th : Thread) : (s.setTh t th).ports = s.ports := rfl
@[simp] theorem State.setTh_outbox (s : State) (t : Tid) (th : Thread) : (s.setTh t th).outbox = s.outbox := rfl
@[simp] theorem State.setTh_fabricDiscards (s : State) (t : Tid) (th : Thread) : (s.setTh t th).fabricDiscards = s.fabricDiscards := rfl
@[simp] theorem State.setTh_streams (s : State) (t : Tid) (th : Thread) : (s.setTh t th).streams = s.streams := rfl
@[simp] theorem State.setTh_streamGen (s : State) (t : Tid) (th : Thread) : (s.setTh t th).streamGen = s.streamGen := rfl
@[simp] theorem State.setTh_redGroups (s : State) (t : Tid) (th : Thread) : (s.setTh t th).redGroups = s.redGroups := rfl
@[simp] theorem State.setTh_reds (s : State) (t : Tid) (th : Thread) : (s.setTh t th).reds = s.reds := rfl
@[simp] theorem State.setTh_checks (s : State) (t : Tid) (th : Thread) : (s.setTh t th).checks = s.checks := rfl
@[simp] theorem State.setTh_heldCtl (s : State) (t : Tid) (th : Thread) : (s.setTh t th).heldCtl = s.heldCtl := rfl
@[simp] theorem State.setTh_lateSeen (s : State) (t : Tid) (th : Thread) : (s.setTh t th).lateSeen = s.lateSeen := rfl
@[simp] theorem State.setTh_digests (s : State) (t : Tid) (th : Thread) : (s.setTh t th).digests = s.digests := rfl
@[simp] theorem State.setTh_tenants (s : State) (t : Tid) (th : Thread) : (s.setTh t th).tenants = s.tenants := rfl
@[simp] theorem State.setTh_keySlots (s : State) (t : Tid) (th : Thread) : (s.setTh t th).keySlots = s.keySlots := rfl
@[simp] theorem State.setTh_retired (s : State) (t : Tid) (th : Thread) : (s.setTh t th).retired = s.retired := rfl
@[simp] theorem State.setTh_funcs (s : State) (t : Tid) (th : Thread) : (s.setTh t th).funcs = s.funcs := rfl
@[simp] theorem State.setTh_hostOut (s : State) (t : Tid) (th : Thread) : (s.setTh t th).hostOut = s.hostOut := rfl
@[simp] theorem State.setTh_spdm (s : State) (t : Tid) (th : Thread) : (s.setTh t th).spdm = s.spdm := rfl
@[simp] theorem State.setTh_flash (s : State) (t : Tid) (th : Thread) : (s.setTh t th).flash = s.flash := rfl
@[simp] theorem State.setTh_sources (s : State) (t : Tid) (th : Thread) : (s.setTh t th).sources = s.sources := rfl
@[simp] theorem State.setTh_sapOut (s : State) (t : Tid) (th : Thread) : (s.setTh t th).sapOut = s.sapOut := rfl
@[simp] theorem State.setTh_discovers (s : State) (t : Tid) (th : Thread) : (s.setTh t th).discovers = s.discovers := rfl
@[simp] theorem State.setTh_sapIn (s : State) (t : Tid) (th : Thread) : (s.setTh t th).sapIn = s.sapIn := rfl
@[simp] theorem State.setTh_doe (s : State) (t : Tid) (th : Thread) : (s.setTh t th).doe = s.doe := rfl
@[simp] theorem State.setTh_power (s : State) (t : Tid) (th : Thread) : (s.setTh t th).power = s.power := rfl
@[simp] theorem State.setTh_detectors (s : State) (t : Tid) (th : Thread) : (s.setTh t th).detectors = s.detectors := rfl
@[simp] theorem State.setTh_qlShare (s : State) (t : Tid) (th : Thread) : (s.setTh t th).qlShare = s.qlShare := rfl
@[simp] theorem State.setTh_draws (s : State) (t : Tid) (th : Thread) : (s.setTh t th).draws = s.draws := rfl
@[simp] theorem State.setTh_pending (s : State) (t : Tid) (th : Thread) : (s.setTh t th).pending = s.pending := rfl
@[simp] theorem State.setCore_threads (s : State) (c : CoreId) (k : Core) : (s.setCore c k).threads = s.threads := rfl
@[simp] theorem State.setCore_hbm (s : State) (c : CoreId) (k : Core) : (s.setCore c k).hbm = s.hbm := rfl
@[simp] theorem State.setCore_hbmTags (s : State) (c : CoreId) (k : Core) : (s.setCore c k).hbmTags = s.hbmTags := rfl
@[simp] theorem State.setCore_hbmPoison (s : State) (c : CoreId) (k : Core) : (s.setCore c k).hbmPoison = s.hbmPoison := rfl
@[simp] theorem State.setCore_hbmErrs (s : State) (c : CoreId) (k : Core) : (s.setCore c k).hbmErrs = s.hbmErrs := rfl
@[simp] theorem State.setCore_slc (s : State) (c : CoreId) (k : Core) : (s.setCore c k).slc = s.slc := rfl
@[simp] theorem State.setCore_slcErrs (s : State) (c : CoreId) (k : Core) : (s.setCore c k).slcErrs = s.slcErrs := rfl
@[simp] theorem State.setCore_overlay (s : State) (c : CoreId) (k : Core) : (s.setCore c k).overlay = s.overlay := rfl
@[simp] theorem State.setCore_victims (s : State) (c : CoreId) (k : Core) : (s.setCore c k).victims = s.victims := rfl
@[simp] theorem State.setCore_misses (s : State) (c : CoreId) (k : Core) : (s.setCore c k).misses = s.misses := rfl
@[simp] theorem State.setCore_spaces (s : State) (c : CoreId) (k : Core) : (s.setCore c k).spaces = s.spaces := rfl
@[simp] theorem State.setCore_freeFrames (s : State) (c : CoreId) (k : Core) : (s.setCore c k).freeFrames = s.freeFrames := rfl
@[simp] theorem State.setCore_shadows (s : State) (c : CoreId) (k : Core) : (s.setCore c k).shadows = s.shadows := rfl
@[simp] theorem State.setCore_fills (s : State) (c : CoreId) (k : Core) : (s.setCore c k).fills = s.fills := rfl
@[simp] theorem State.setCore_pairMap (s : State) (c : CoreId) (k : Core) : (s.setCore c k).pairMap = s.pairMap := rfl
@[simp] theorem State.setCore_tasks (s : State) (c : CoreId) (k : Core) : (s.setCore c k).tasks = s.tasks := rfl
@[simp] theorem State.setCore_taskGen (s : State) (c : CoreId) (k : Core) : (s.setCore c k).taskGen = s.taskGen := rfl
@[simp] theorem State.setCore_taskEnd (s : State) (c : CoreId) (k : Core) : (s.setCore c k).taskEnd = s.taskEnd := rfl
@[simp] theorem State.setCore_ready (s : State) (c : CoreId) (k : Core) : (s.setCore c k).ready = s.ready := rfl
@[simp] theorem State.setCore_groups (s : State) (c : CoreId) (k : Core) : (s.setCore c k).groups = s.groups := rfl
@[simp] theorem State.setCore_epochs (s : State) (c : CoreId) (k : Core) : (s.setCore c k).epochs = s.epochs := rfl
@[simp] theorem State.setCore_epochGen (s : State) (c : CoreId) (k : Core) : (s.setCore c k).epochGen = s.epochGen := rfl
@[simp] theorem State.setCore_chans (s : State) (c : CoreId) (k : Core) : (s.setCore c k).chans = s.chans := rfl
@[simp] theorem State.setCore_chanGen (s : State) (c : CoreId) (k : Core) : (s.setCore c k).chanGen = s.chanGen := rfl
@[simp] theorem State.setCore_cmds (s : State) (c : CoreId) (k : Core) : (s.setCore c k).cmds = s.cmds := rfl
@[simp] theorem State.setCore_cmdGen (s : State) (c : CoreId) (k : Core) : (s.setCore c k).cmdGen = s.cmdGen := rfl
@[simp] theorem State.setCore_cmdSeq (s : State) (c : CoreId) (k : Core) : (s.setCore c k).cmdSeq = s.cmdSeq := rfl
@[simp] theorem State.setCore_landing (s : State) (c : CoreId) (k : Core) : (s.setCore c k).landing = s.landing := rfl
@[simp] theorem State.setCore_stops (s : State) (c : CoreId) (k : Core) : (s.setCore c k).stops = s.stops := rfl
@[simp] theorem State.setCore_events (s : State) (c : CoreId) (k : Core) : (s.setCore c k).events = s.events := rfl
@[simp] theorem State.setCore_eventsLost (s : State) (c : CoreId) (k : Core) : (s.setCore c k).eventsLost = s.eventsLost := rfl
@[simp] theorem State.setCore_droneMail (s : State) (c : CoreId) (k : Core) : (s.setCore c k).droneMail = s.droneMail := rfl
@[simp] theorem State.setCore_monitorMail (s : State) (c : CoreId) (k : Core) : (s.setCore c k).monitorMail = s.monitorMail := rfl
@[simp] theorem State.setCore_ports (s : State) (c : CoreId) (k : Core) : (s.setCore c k).ports = s.ports := rfl
@[simp] theorem State.setCore_outbox (s : State) (c : CoreId) (k : Core) : (s.setCore c k).outbox = s.outbox := rfl
@[simp] theorem State.setCore_fabricDiscards (s : State) (c : CoreId) (k : Core) : (s.setCore c k).fabricDiscards = s.fabricDiscards := rfl
@[simp] theorem State.setCore_streams (s : State) (c : CoreId) (k : Core) : (s.setCore c k).streams = s.streams := rfl
@[simp] theorem State.setCore_streamGen (s : State) (c : CoreId) (k : Core) : (s.setCore c k).streamGen = s.streamGen := rfl
@[simp] theorem State.setCore_redGroups (s : State) (c : CoreId) (k : Core) : (s.setCore c k).redGroups = s.redGroups := rfl
@[simp] theorem State.setCore_reds (s : State) (c : CoreId) (k : Core) : (s.setCore c k).reds = s.reds := rfl
@[simp] theorem State.setCore_checks (s : State) (c : CoreId) (k : Core) : (s.setCore c k).checks = s.checks := rfl
@[simp] theorem State.setCore_heldCtl (s : State) (c : CoreId) (k : Core) : (s.setCore c k).heldCtl = s.heldCtl := rfl
@[simp] theorem State.setCore_lateSeen (s : State) (c : CoreId) (k : Core) : (s.setCore c k).lateSeen = s.lateSeen := rfl
@[simp] theorem State.setCore_digests (s : State) (c : CoreId) (k : Core) : (s.setCore c k).digests = s.digests := rfl
@[simp] theorem State.setCore_tenants (s : State) (c : CoreId) (k : Core) : (s.setCore c k).tenants = s.tenants := rfl
@[simp] theorem State.setCore_keySlots (s : State) (c : CoreId) (k : Core) : (s.setCore c k).keySlots = s.keySlots := rfl
@[simp] theorem State.setCore_retired (s : State) (c : CoreId) (k : Core) : (s.setCore c k).retired = s.retired := rfl
@[simp] theorem State.setCore_funcs (s : State) (c : CoreId) (k : Core) : (s.setCore c k).funcs = s.funcs := rfl
@[simp] theorem State.setCore_hostOut (s : State) (c : CoreId) (k : Core) : (s.setCore c k).hostOut = s.hostOut := rfl
@[simp] theorem State.setCore_spdm (s : State) (c : CoreId) (k : Core) : (s.setCore c k).spdm = s.spdm := rfl
@[simp] theorem State.setCore_flash (s : State) (c : CoreId) (k : Core) : (s.setCore c k).flash = s.flash := rfl
@[simp] theorem State.setCore_sources (s : State) (c : CoreId) (k : Core) : (s.setCore c k).sources = s.sources := rfl
@[simp] theorem State.setCore_sapOut (s : State) (c : CoreId) (k : Core) : (s.setCore c k).sapOut = s.sapOut := rfl
@[simp] theorem State.setCore_discovers (s : State) (c : CoreId) (k : Core) : (s.setCore c k).discovers = s.discovers := rfl
@[simp] theorem State.setCore_sapIn (s : State) (c : CoreId) (k : Core) : (s.setCore c k).sapIn = s.sapIn := rfl
@[simp] theorem State.setCore_doe (s : State) (c : CoreId) (k : Core) : (s.setCore c k).doe = s.doe := rfl
@[simp] theorem State.setCore_power (s : State) (c : CoreId) (k : Core) : (s.setCore c k).power = s.power := rfl
@[simp] theorem State.setCore_detectors (s : State) (c : CoreId) (k : Core) : (s.setCore c k).detectors = s.detectors := rfl
@[simp] theorem State.setCore_qlShare (s : State) (c : CoreId) (k : Core) : (s.setCore c k).qlShare = s.qlShare := rfl
@[simp] theorem State.setCore_draws (s : State) (c : CoreId) (k : Core) : (s.setCore c k).draws = s.draws := rfl
@[simp] theorem State.setCore_pending (s : State) (c : CoreId) (k : Core) : (s.setCore c k).pending = s.pending := rfl
@[simp] theorem State.setSp_threads (s : State) (n : Fin 17) (v : Space) : (s.setSp n v).threads = s.threads := rfl
@[simp] theorem State.setSp_cores (s : State) (n : Fin 17) (v : Space) : (s.setSp n v).cores = s.cores := rfl
@[simp] theorem State.setSp_hbm (s : State) (n : Fin 17) (v : Space) : (s.setSp n v).hbm = s.hbm := rfl
@[simp] theorem State.setSp_hbmTags (s : State) (n : Fin 17) (v : Space) : (s.setSp n v).hbmTags = s.hbmTags := rfl
@[simp] theorem State.setSp_hbmPoison (s : State) (n : Fin 17) (v : Space) : (s.setSp n v).hbmPoison = s.hbmPoison := rfl
@[simp] theorem State.setSp_hbmErrs (s : State) (n : Fin 17) (v : Space) : (s.setSp n v).hbmErrs = s.hbmErrs := rfl
@[simp] theorem State.setSp_slc (s : State) (n : Fin 17) (v : Space) : (s.setSp n v).slc = s.slc := rfl
@[simp] theorem State.setSp_slcErrs (s : State) (n : Fin 17) (v : Space) : (s.setSp n v).slcErrs = s.slcErrs := rfl
@[simp] theorem State.setSp_overlay (s : State) (n : Fin 17) (v : Space) : (s.setSp n v).overlay = s.overlay := rfl
@[simp] theorem State.setSp_victims (s : State) (n : Fin 17) (v : Space) : (s.setSp n v).victims = s.victims := rfl
@[simp] theorem State.setSp_misses (s : State) (n : Fin 17) (v : Space) : (s.setSp n v).misses = s.misses := rfl
@[simp] theorem State.setSp_freeFrames (s : State) (n : Fin 17) (v : Space) : (s.setSp n v).freeFrames = s.freeFrames := rfl
@[simp] theorem State.setSp_shadows (s : State) (n : Fin 17) (v : Space) : (s.setSp n v).shadows = s.shadows := rfl
@[simp] theorem State.setSp_fills (s : State) (n : Fin 17) (v : Space) : (s.setSp n v).fills = s.fills := rfl
@[simp] theorem State.setSp_pairMap (s : State) (n : Fin 17) (v : Space) : (s.setSp n v).pairMap = s.pairMap := rfl
@[simp] theorem State.setSp_tasks (s : State) (n : Fin 17) (v : Space) : (s.setSp n v).tasks = s.tasks := rfl
@[simp] theorem State.setSp_taskGen (s : State) (n : Fin 17) (v : Space) : (s.setSp n v).taskGen = s.taskGen := rfl
@[simp] theorem State.setSp_taskEnd (s : State) (n : Fin 17) (v : Space) : (s.setSp n v).taskEnd = s.taskEnd := rfl
@[simp] theorem State.setSp_ready (s : State) (n : Fin 17) (v : Space) : (s.setSp n v).ready = s.ready := rfl
@[simp] theorem State.setSp_groups (s : State) (n : Fin 17) (v : Space) : (s.setSp n v).groups = s.groups := rfl
@[simp] theorem State.setSp_epochs (s : State) (n : Fin 17) (v : Space) : (s.setSp n v).epochs = s.epochs := rfl
@[simp] theorem State.setSp_epochGen (s : State) (n : Fin 17) (v : Space) : (s.setSp n v).epochGen = s.epochGen := rfl
@[simp] theorem State.setSp_chans (s : State) (n : Fin 17) (v : Space) : (s.setSp n v).chans = s.chans := rfl
@[simp] theorem State.setSp_chanGen (s : State) (n : Fin 17) (v : Space) : (s.setSp n v).chanGen = s.chanGen := rfl
@[simp] theorem State.setSp_cmds (s : State) (n : Fin 17) (v : Space) : (s.setSp n v).cmds = s.cmds := rfl
@[simp] theorem State.setSp_cmdGen (s : State) (n : Fin 17) (v : Space) : (s.setSp n v).cmdGen = s.cmdGen := rfl
@[simp] theorem State.setSp_cmdSeq (s : State) (n : Fin 17) (v : Space) : (s.setSp n v).cmdSeq = s.cmdSeq := rfl
@[simp] theorem State.setSp_landing (s : State) (n : Fin 17) (v : Space) : (s.setSp n v).landing = s.landing := rfl
@[simp] theorem State.setSp_stops (s : State) (n : Fin 17) (v : Space) : (s.setSp n v).stops = s.stops := rfl
@[simp] theorem State.setSp_events (s : State) (n : Fin 17) (v : Space) : (s.setSp n v).events = s.events := rfl
@[simp] theorem State.setSp_eventsLost (s : State) (n : Fin 17) (v : Space) : (s.setSp n v).eventsLost = s.eventsLost := rfl
@[simp] theorem State.setSp_droneMail (s : State) (n : Fin 17) (v : Space) : (s.setSp n v).droneMail = s.droneMail := rfl
@[simp] theorem State.setSp_monitorMail (s : State) (n : Fin 17) (v : Space) : (s.setSp n v).monitorMail = s.monitorMail := rfl
@[simp] theorem State.setSp_ports (s : State) (n : Fin 17) (v : Space) : (s.setSp n v).ports = s.ports := rfl
@[simp] theorem State.setSp_outbox (s : State) (n : Fin 17) (v : Space) : (s.setSp n v).outbox = s.outbox := rfl
@[simp] theorem State.setSp_fabricDiscards (s : State) (n : Fin 17) (v : Space) : (s.setSp n v).fabricDiscards = s.fabricDiscards := rfl
@[simp] theorem State.setSp_streams (s : State) (n : Fin 17) (v : Space) : (s.setSp n v).streams = s.streams := rfl
@[simp] theorem State.setSp_streamGen (s : State) (n : Fin 17) (v : Space) : (s.setSp n v).streamGen = s.streamGen := rfl
@[simp] theorem State.setSp_redGroups (s : State) (n : Fin 17) (v : Space) : (s.setSp n v).redGroups = s.redGroups := rfl
@[simp] theorem State.setSp_reds (s : State) (n : Fin 17) (v : Space) : (s.setSp n v).reds = s.reds := rfl
@[simp] theorem State.setSp_checks (s : State) (n : Fin 17) (v : Space) : (s.setSp n v).checks = s.checks := rfl
@[simp] theorem State.setSp_heldCtl (s : State) (n : Fin 17) (v : Space) : (s.setSp n v).heldCtl = s.heldCtl := rfl
@[simp] theorem State.setSp_lateSeen (s : State) (n : Fin 17) (v : Space) : (s.setSp n v).lateSeen = s.lateSeen := rfl
@[simp] theorem State.setSp_digests (s : State) (n : Fin 17) (v : Space) : (s.setSp n v).digests = s.digests := rfl
@[simp] theorem State.setSp_tenants (s : State) (n : Fin 17) (v : Space) : (s.setSp n v).tenants = s.tenants := rfl
@[simp] theorem State.setSp_keySlots (s : State) (n : Fin 17) (v : Space) : (s.setSp n v).keySlots = s.keySlots := rfl
@[simp] theorem State.setSp_retired (s : State) (n : Fin 17) (v : Space) : (s.setSp n v).retired = s.retired := rfl
@[simp] theorem State.setSp_funcs (s : State) (n : Fin 17) (v : Space) : (s.setSp n v).funcs = s.funcs := rfl
@[simp] theorem State.setSp_hostOut (s : State) (n : Fin 17) (v : Space) : (s.setSp n v).hostOut = s.hostOut := rfl
@[simp] theorem State.setSp_spdm (s : State) (n : Fin 17) (v : Space) : (s.setSp n v).spdm = s.spdm := rfl
@[simp] theorem State.setSp_flash (s : State) (n : Fin 17) (v : Space) : (s.setSp n v).flash = s.flash := rfl
@[simp] theorem State.setSp_sources (s : State) (n : Fin 17) (v : Space) : (s.setSp n v).sources = s.sources := rfl
@[simp] theorem State.setSp_sapOut (s : State) (n : Fin 17) (v : Space) : (s.setSp n v).sapOut = s.sapOut := rfl
@[simp] theorem State.setSp_discovers (s : State) (n : Fin 17) (v : Space) : (s.setSp n v).discovers = s.discovers := rfl
@[simp] theorem State.setSp_sapIn (s : State) (n : Fin 17) (v : Space) : (s.setSp n v).sapIn = s.sapIn := rfl
@[simp] theorem State.setSp_doe (s : State) (n : Fin 17) (v : Space) : (s.setSp n v).doe = s.doe := rfl
@[simp] theorem State.setSp_power (s : State) (n : Fin 17) (v : Space) : (s.setSp n v).power = s.power := rfl
@[simp] theorem State.setSp_detectors (s : State) (n : Fin 17) (v : Space) : (s.setSp n v).detectors = s.detectors := rfl
@[simp] theorem State.setSp_qlShare (s : State) (n : Fin 17) (v : Space) : (s.setSp n v).qlShare = s.qlShare := rfl
@[simp] theorem State.setSp_draws (s : State) (n : Fin 17) (v : Space) : (s.setSp n v).draws = s.draws := rfl
@[simp] theorem State.setSp_pending (s : State) (n : Fin 17) (v : Space) : (s.setSp n v).pending = s.pending := rfl
@[simp] theorem State.setFn_threads (s : State) (fn : Fin 16) (v : Func) : (s.setFn fn v).threads = s.threads := rfl
@[simp] theorem State.setFn_cores (s : State) (fn : Fin 16) (v : Func) : (s.setFn fn v).cores = s.cores := rfl
@[simp] theorem State.setFn_hbm (s : State) (fn : Fin 16) (v : Func) : (s.setFn fn v).hbm = s.hbm := rfl
@[simp] theorem State.setFn_hbmTags (s : State) (fn : Fin 16) (v : Func) : (s.setFn fn v).hbmTags = s.hbmTags := rfl
@[simp] theorem State.setFn_hbmPoison (s : State) (fn : Fin 16) (v : Func) : (s.setFn fn v).hbmPoison = s.hbmPoison := rfl
@[simp] theorem State.setFn_hbmErrs (s : State) (fn : Fin 16) (v : Func) : (s.setFn fn v).hbmErrs = s.hbmErrs := rfl
@[simp] theorem State.setFn_slc (s : State) (fn : Fin 16) (v : Func) : (s.setFn fn v).slc = s.slc := rfl
@[simp] theorem State.setFn_slcErrs (s : State) (fn : Fin 16) (v : Func) : (s.setFn fn v).slcErrs = s.slcErrs := rfl
@[simp] theorem State.setFn_overlay (s : State) (fn : Fin 16) (v : Func) : (s.setFn fn v).overlay = s.overlay := rfl
@[simp] theorem State.setFn_victims (s : State) (fn : Fin 16) (v : Func) : (s.setFn fn v).victims = s.victims := rfl
@[simp] theorem State.setFn_misses (s : State) (fn : Fin 16) (v : Func) : (s.setFn fn v).misses = s.misses := rfl
@[simp] theorem State.setFn_spaces (s : State) (fn : Fin 16) (v : Func) : (s.setFn fn v).spaces = s.spaces := rfl
@[simp] theorem State.setFn_freeFrames (s : State) (fn : Fin 16) (v : Func) : (s.setFn fn v).freeFrames = s.freeFrames := rfl
@[simp] theorem State.setFn_shadows (s : State) (fn : Fin 16) (v : Func) : (s.setFn fn v).shadows = s.shadows := rfl
@[simp] theorem State.setFn_fills (s : State) (fn : Fin 16) (v : Func) : (s.setFn fn v).fills = s.fills := rfl
@[simp] theorem State.setFn_pairMap (s : State) (fn : Fin 16) (v : Func) : (s.setFn fn v).pairMap = s.pairMap := rfl
@[simp] theorem State.setFn_tasks (s : State) (fn : Fin 16) (v : Func) : (s.setFn fn v).tasks = s.tasks := rfl
@[simp] theorem State.setFn_taskGen (s : State) (fn : Fin 16) (v : Func) : (s.setFn fn v).taskGen = s.taskGen := rfl
@[simp] theorem State.setFn_taskEnd (s : State) (fn : Fin 16) (v : Func) : (s.setFn fn v).taskEnd = s.taskEnd := rfl
@[simp] theorem State.setFn_ready (s : State) (fn : Fin 16) (v : Func) : (s.setFn fn v).ready = s.ready := rfl
@[simp] theorem State.setFn_groups (s : State) (fn : Fin 16) (v : Func) : (s.setFn fn v).groups = s.groups := rfl
@[simp] theorem State.setFn_epochs (s : State) (fn : Fin 16) (v : Func) : (s.setFn fn v).epochs = s.epochs := rfl
@[simp] theorem State.setFn_epochGen (s : State) (fn : Fin 16) (v : Func) : (s.setFn fn v).epochGen = s.epochGen := rfl
@[simp] theorem State.setFn_chans (s : State) (fn : Fin 16) (v : Func) : (s.setFn fn v).chans = s.chans := rfl
@[simp] theorem State.setFn_chanGen (s : State) (fn : Fin 16) (v : Func) : (s.setFn fn v).chanGen = s.chanGen := rfl
@[simp] theorem State.setFn_cmds (s : State) (fn : Fin 16) (v : Func) : (s.setFn fn v).cmds = s.cmds := rfl
@[simp] theorem State.setFn_cmdGen (s : State) (fn : Fin 16) (v : Func) : (s.setFn fn v).cmdGen = s.cmdGen := rfl
@[simp] theorem State.setFn_cmdSeq (s : State) (fn : Fin 16) (v : Func) : (s.setFn fn v).cmdSeq = s.cmdSeq := rfl
@[simp] theorem State.setFn_landing (s : State) (fn : Fin 16) (v : Func) : (s.setFn fn v).landing = s.landing := rfl
@[simp] theorem State.setFn_stops (s : State) (fn : Fin 16) (v : Func) : (s.setFn fn v).stops = s.stops := rfl
@[simp] theorem State.setFn_events (s : State) (fn : Fin 16) (v : Func) : (s.setFn fn v).events = s.events := rfl
@[simp] theorem State.setFn_eventsLost (s : State) (fn : Fin 16) (v : Func) : (s.setFn fn v).eventsLost = s.eventsLost := rfl
@[simp] theorem State.setFn_droneMail (s : State) (fn : Fin 16) (v : Func) : (s.setFn fn v).droneMail = s.droneMail := rfl
@[simp] theorem State.setFn_monitorMail (s : State) (fn : Fin 16) (v : Func) : (s.setFn fn v).monitorMail = s.monitorMail := rfl
@[simp] theorem State.setFn_ports (s : State) (fn : Fin 16) (v : Func) : (s.setFn fn v).ports = s.ports := rfl
@[simp] theorem State.setFn_outbox (s : State) (fn : Fin 16) (v : Func) : (s.setFn fn v).outbox = s.outbox := rfl
@[simp] theorem State.setFn_fabricDiscards (s : State) (fn : Fin 16) (v : Func) : (s.setFn fn v).fabricDiscards = s.fabricDiscards := rfl
@[simp] theorem State.setFn_streams (s : State) (fn : Fin 16) (v : Func) : (s.setFn fn v).streams = s.streams := rfl
@[simp] theorem State.setFn_streamGen (s : State) (fn : Fin 16) (v : Func) : (s.setFn fn v).streamGen = s.streamGen := rfl
@[simp] theorem State.setFn_redGroups (s : State) (fn : Fin 16) (v : Func) : (s.setFn fn v).redGroups = s.redGroups := rfl
@[simp] theorem State.setFn_reds (s : State) (fn : Fin 16) (v : Func) : (s.setFn fn v).reds = s.reds := rfl
@[simp] theorem State.setFn_checks (s : State) (fn : Fin 16) (v : Func) : (s.setFn fn v).checks = s.checks := rfl
@[simp] theorem State.setFn_heldCtl (s : State) (fn : Fin 16) (v : Func) : (s.setFn fn v).heldCtl = s.heldCtl := rfl
@[simp] theorem State.setFn_lateSeen (s : State) (fn : Fin 16) (v : Func) : (s.setFn fn v).lateSeen = s.lateSeen := rfl
@[simp] theorem State.setFn_digests (s : State) (fn : Fin 16) (v : Func) : (s.setFn fn v).digests = s.digests := rfl
@[simp] theorem State.setFn_tenants (s : State) (fn : Fin 16) (v : Func) : (s.setFn fn v).tenants = s.tenants := rfl
@[simp] theorem State.setFn_keySlots (s : State) (fn : Fin 16) (v : Func) : (s.setFn fn v).keySlots = s.keySlots := rfl
@[simp] theorem State.setFn_retired (s : State) (fn : Fin 16) (v : Func) : (s.setFn fn v).retired = s.retired := rfl
@[simp] theorem State.setFn_hostOut (s : State) (fn : Fin 16) (v : Func) : (s.setFn fn v).hostOut = s.hostOut := rfl
@[simp] theorem State.setFn_spdm (s : State) (fn : Fin 16) (v : Func) : (s.setFn fn v).spdm = s.spdm := rfl
@[simp] theorem State.setFn_flash (s : State) (fn : Fin 16) (v : Func) : (s.setFn fn v).flash = s.flash := rfl
@[simp] theorem State.setFn_sources (s : State) (fn : Fin 16) (v : Func) : (s.setFn fn v).sources = s.sources := rfl
@[simp] theorem State.setFn_sapOut (s : State) (fn : Fin 16) (v : Func) : (s.setFn fn v).sapOut = s.sapOut := rfl
@[simp] theorem State.setFn_discovers (s : State) (fn : Fin 16) (v : Func) : (s.setFn fn v).discovers = s.discovers := rfl
@[simp] theorem State.setFn_sapIn (s : State) (fn : Fin 16) (v : Func) : (s.setFn fn v).sapIn = s.sapIn := rfl
@[simp] theorem State.setFn_doe (s : State) (fn : Fin 16) (v : Func) : (s.setFn fn v).doe = s.doe := rfl
@[simp] theorem State.setFn_power (s : State) (fn : Fin 16) (v : Func) : (s.setFn fn v).power = s.power := rfl
@[simp] theorem State.setFn_detectors (s : State) (fn : Fin 16) (v : Func) : (s.setFn fn v).detectors = s.detectors := rfl
@[simp] theorem State.setFn_qlShare (s : State) (fn : Fin 16) (v : Func) : (s.setFn fn v).qlShare = s.qlShare := rfl
@[simp] theorem State.setFn_draws (s : State) (fn : Fin 16) (v : Func) : (s.setFn fn v).draws = s.draws := rfl
@[simp] theorem State.setFn_pending (s : State) (fn : Fin 16) (v : Func) : (s.setFn fn v).pending = s.pending := rfl
@[simp] theorem State.setPort_threads (s : State) (p : Fin 16) (v : Port) : (s.setPort p v).threads = s.threads := rfl
@[simp] theorem State.setPort_cores (s : State) (p : Fin 16) (v : Port) : (s.setPort p v).cores = s.cores := rfl
@[simp] theorem State.setPort_hbm (s : State) (p : Fin 16) (v : Port) : (s.setPort p v).hbm = s.hbm := rfl
@[simp] theorem State.setPort_hbmTags (s : State) (p : Fin 16) (v : Port) : (s.setPort p v).hbmTags = s.hbmTags := rfl
@[simp] theorem State.setPort_hbmPoison (s : State) (p : Fin 16) (v : Port) : (s.setPort p v).hbmPoison = s.hbmPoison := rfl
@[simp] theorem State.setPort_hbmErrs (s : State) (p : Fin 16) (v : Port) : (s.setPort p v).hbmErrs = s.hbmErrs := rfl
@[simp] theorem State.setPort_slc (s : State) (p : Fin 16) (v : Port) : (s.setPort p v).slc = s.slc := rfl
@[simp] theorem State.setPort_slcErrs (s : State) (p : Fin 16) (v : Port) : (s.setPort p v).slcErrs = s.slcErrs := rfl
@[simp] theorem State.setPort_overlay (s : State) (p : Fin 16) (v : Port) : (s.setPort p v).overlay = s.overlay := rfl
@[simp] theorem State.setPort_victims (s : State) (p : Fin 16) (v : Port) : (s.setPort p v).victims = s.victims := rfl
@[simp] theorem State.setPort_misses (s : State) (p : Fin 16) (v : Port) : (s.setPort p v).misses = s.misses := rfl
@[simp] theorem State.setPort_spaces (s : State) (p : Fin 16) (v : Port) : (s.setPort p v).spaces = s.spaces := rfl
@[simp] theorem State.setPort_freeFrames (s : State) (p : Fin 16) (v : Port) : (s.setPort p v).freeFrames = s.freeFrames := rfl
@[simp] theorem State.setPort_shadows (s : State) (p : Fin 16) (v : Port) : (s.setPort p v).shadows = s.shadows := rfl
@[simp] theorem State.setPort_fills (s : State) (p : Fin 16) (v : Port) : (s.setPort p v).fills = s.fills := rfl
@[simp] theorem State.setPort_pairMap (s : State) (p : Fin 16) (v : Port) : (s.setPort p v).pairMap = s.pairMap := rfl
@[simp] theorem State.setPort_tasks (s : State) (p : Fin 16) (v : Port) : (s.setPort p v).tasks = s.tasks := rfl
@[simp] theorem State.setPort_taskGen (s : State) (p : Fin 16) (v : Port) : (s.setPort p v).taskGen = s.taskGen := rfl
@[simp] theorem State.setPort_taskEnd (s : State) (p : Fin 16) (v : Port) : (s.setPort p v).taskEnd = s.taskEnd := rfl
@[simp] theorem State.setPort_ready (s : State) (p : Fin 16) (v : Port) : (s.setPort p v).ready = s.ready := rfl
@[simp] theorem State.setPort_groups (s : State) (p : Fin 16) (v : Port) : (s.setPort p v).groups = s.groups := rfl
@[simp] theorem State.setPort_epochs (s : State) (p : Fin 16) (v : Port) : (s.setPort p v).epochs = s.epochs := rfl
@[simp] theorem State.setPort_epochGen (s : State) (p : Fin 16) (v : Port) : (s.setPort p v).epochGen = s.epochGen := rfl
@[simp] theorem State.setPort_chans (s : State) (p : Fin 16) (v : Port) : (s.setPort p v).chans = s.chans := rfl
@[simp] theorem State.setPort_chanGen (s : State) (p : Fin 16) (v : Port) : (s.setPort p v).chanGen = s.chanGen := rfl
@[simp] theorem State.setPort_cmds (s : State) (p : Fin 16) (v : Port) : (s.setPort p v).cmds = s.cmds := rfl
@[simp] theorem State.setPort_cmdGen (s : State) (p : Fin 16) (v : Port) : (s.setPort p v).cmdGen = s.cmdGen := rfl
@[simp] theorem State.setPort_cmdSeq (s : State) (p : Fin 16) (v : Port) : (s.setPort p v).cmdSeq = s.cmdSeq := rfl
@[simp] theorem State.setPort_landing (s : State) (p : Fin 16) (v : Port) : (s.setPort p v).landing = s.landing := rfl
@[simp] theorem State.setPort_stops (s : State) (p : Fin 16) (v : Port) : (s.setPort p v).stops = s.stops := rfl
@[simp] theorem State.setPort_events (s : State) (p : Fin 16) (v : Port) : (s.setPort p v).events = s.events := rfl
@[simp] theorem State.setPort_eventsLost (s : State) (p : Fin 16) (v : Port) : (s.setPort p v).eventsLost = s.eventsLost := rfl
@[simp] theorem State.setPort_droneMail (s : State) (p : Fin 16) (v : Port) : (s.setPort p v).droneMail = s.droneMail := rfl
@[simp] theorem State.setPort_monitorMail (s : State) (p : Fin 16) (v : Port) : (s.setPort p v).monitorMail = s.monitorMail := rfl
@[simp] theorem State.setPort_outbox (s : State) (p : Fin 16) (v : Port) : (s.setPort p v).outbox = s.outbox := rfl
@[simp] theorem State.setPort_fabricDiscards (s : State) (p : Fin 16) (v : Port) : (s.setPort p v).fabricDiscards = s.fabricDiscards := rfl
@[simp] theorem State.setPort_streams (s : State) (p : Fin 16) (v : Port) : (s.setPort p v).streams = s.streams := rfl
@[simp] theorem State.setPort_streamGen (s : State) (p : Fin 16) (v : Port) : (s.setPort p v).streamGen = s.streamGen := rfl
@[simp] theorem State.setPort_redGroups (s : State) (p : Fin 16) (v : Port) : (s.setPort p v).redGroups = s.redGroups := rfl
@[simp] theorem State.setPort_reds (s : State) (p : Fin 16) (v : Port) : (s.setPort p v).reds = s.reds := rfl
@[simp] theorem State.setPort_checks (s : State) (p : Fin 16) (v : Port) : (s.setPort p v).checks = s.checks := rfl
@[simp] theorem State.setPort_heldCtl (s : State) (p : Fin 16) (v : Port) : (s.setPort p v).heldCtl = s.heldCtl := rfl
@[simp] theorem State.setPort_lateSeen (s : State) (p : Fin 16) (v : Port) : (s.setPort p v).lateSeen = s.lateSeen := rfl
@[simp] theorem State.setPort_digests (s : State) (p : Fin 16) (v : Port) : (s.setPort p v).digests = s.digests := rfl
@[simp] theorem State.setPort_tenants (s : State) (p : Fin 16) (v : Port) : (s.setPort p v).tenants = s.tenants := rfl
@[simp] theorem State.setPort_keySlots (s : State) (p : Fin 16) (v : Port) : (s.setPort p v).keySlots = s.keySlots := rfl
@[simp] theorem State.setPort_retired (s : State) (p : Fin 16) (v : Port) : (s.setPort p v).retired = s.retired := rfl
@[simp] theorem State.setPort_funcs (s : State) (p : Fin 16) (v : Port) : (s.setPort p v).funcs = s.funcs := rfl
@[simp] theorem State.setPort_hostOut (s : State) (p : Fin 16) (v : Port) : (s.setPort p v).hostOut = s.hostOut := rfl
@[simp] theorem State.setPort_spdm (s : State) (p : Fin 16) (v : Port) : (s.setPort p v).spdm = s.spdm := rfl
@[simp] theorem State.setPort_flash (s : State) (p : Fin 16) (v : Port) : (s.setPort p v).flash = s.flash := rfl
@[simp] theorem State.setPort_sources (s : State) (p : Fin 16) (v : Port) : (s.setPort p v).sources = s.sources := rfl
@[simp] theorem State.setPort_sapOut (s : State) (p : Fin 16) (v : Port) : (s.setPort p v).sapOut = s.sapOut := rfl
@[simp] theorem State.setPort_discovers (s : State) (p : Fin 16) (v : Port) : (s.setPort p v).discovers = s.discovers := rfl
@[simp] theorem State.setPort_sapIn (s : State) (p : Fin 16) (v : Port) : (s.setPort p v).sapIn = s.sapIn := rfl
@[simp] theorem State.setPort_doe (s : State) (p : Fin 16) (v : Port) : (s.setPort p v).doe = s.doe := rfl
@[simp] theorem State.setPort_power (s : State) (p : Fin 16) (v : Port) : (s.setPort p v).power = s.power := rfl
@[simp] theorem State.setPort_detectors (s : State) (p : Fin 16) (v : Port) : (s.setPort p v).detectors = s.detectors := rfl
@[simp] theorem State.setPort_qlShare (s : State) (p : Fin 16) (v : Port) : (s.setPort p v).qlShare = s.qlShare := rfl
@[simp] theorem State.setPort_draws (s : State) (p : Fin 16) (v : Port) : (s.setPort p v).draws = s.draws := rfl
@[simp] theorem State.setPort_pending (s : State) (p : Fin 16) (v : Port) : (s.setPort p v).pending = s.pending := rfl
@[simp] theorem Thread.write_pc (th : Thread) (r : RIdx) (v : Reg) : (th.write r v).pc = th.pc := rfl
@[simp] theorem Thread.write_pcc (th : Thread) (r : RIdx) (v : Reg) : (th.write r v).pcc = th.pcc := rfl
@[simp] theorem Thread.write_rscap (th : Thread) (r : RIdx) (v : Reg) : (th.write r v).rscap = th.rscap := rfl
@[simp] theorem Thread.write_rsp (th : Thread) (r : RIdx) (v : Reg) : (th.write r v).rsp = th.rsp := rfl
@[simp] theorem Thread.write_iter (th : Thread) (r : RIdx) (v : Reg) : (th.write r v).iter = th.iter := rfl
@[simp] theorem Thread.write_level (th : Thread) (r : RIdx) (v : Reg) : (th.write r v).level = th.level := rfl
@[simp] theorem Thread.write_tenancy (th : Thread) (r : RIdx) (v : Reg) : (th.write r v).tenancy = th.tenancy := rfl
@[simp] theorem Thread.write_dev (th : Thread) (r : RIdx) (v : Reg) : (th.write r v).dev = th.dev := rfl
@[simp] theorem Thread.write_ie (th : Thread) (r : RIdx) (v : Reg) : (th.write r v).ie = th.ie := rfl
@[simp] theorem Thread.write_dt1 (th : Thread) (r : RIdx) (v : Reg) : (th.write r v).dt1 = th.dt1 := rfl
@[simp] theorem Thread.write_dt2 (th : Thread) (r : RIdx) (v : Reg) : (th.write r v).dt2 = th.dt2 := rfl
@[simp] theorem Thread.write_lrs1 (th : Thread) (r : RIdx) (v : Reg) : (th.write r v).lrs1 = th.lrs1 := rfl
@[simp] theorem Thread.write_lrs2 (th : Thread) (r : RIdx) (v : Reg) : (th.write r v).lrs2 = th.lrs2 := rfl
@[simp] theorem Thread.write_lrsp1 (th : Thread) (r : RIdx) (v : Reg) : (th.write r v).lrsp1 = th.lrsp1 := rfl
@[simp] theorem Thread.write_lrsp2 (th : Thread) (r : RIdx) (v : Reg) : (th.write r v).lrsp2 = th.lrsp2 := rfl
@[simp] theorem Thread.write_imask1 (th : Thread) (r : RIdx) (v : Reg) : (th.write r v).imask1 = th.imask1 := rfl
@[simp] theorem Thread.write_imask2 (th : Thread) (r : RIdx) (v : Reg) : (th.write r v).imask2 = th.imask2 := rfl
@[simp] theorem Thread.write_timerCmp (th : Thread) (r : RIdx) (v : Reg) : (th.write r v).timerCmp = th.timerCmp := rfl
@[simp] theorem Thread.write_ipend (th : Thread) (r : RIdx) (v : Reg) : (th.write r v).ipend = th.ipend := rfl
@[simp] theorem Thread.write_nmi (th : Thread) (r : RIdx) (v : Reg) : (th.write r v).nmi = th.nmi := rfl
@[simp] theorem Thread.write_inRepn (th : Thread) (r : RIdx) (v : Reg) : (th.write r v).inRepn = th.inRepn := rfl
@[simp] theorem Thread.write_stopPfx (th : Thread) (r : RIdx) (v : Reg) : (th.write r v).stopPfx = th.stopPfx := rfl
@[simp] theorem Thread.write_stopExt (th : Thread) (r : RIdx) (v : Reg) : (th.write r v).stopExt = th.stopExt := rfl
@[simp] theorem Thread.write_sv1 (th : Thread) (r : RIdx) (v : Reg) : (th.write r v).sv1 = th.sv1 := rfl
@[simp] theorem Thread.write_sv2 (th : Thread) (r : RIdx) (v : Reg) : (th.write r v).sv2 = th.sv2 := rfl
@[simp] theorem Thread.write_sv3 (th : Thread) (r : RIdx) (v : Reg) : (th.write r v).sv3 = th.sv3 := rfl
@[simp] theorem Thread.write_status (th : Thread) (r : RIdx) (v : Reg) : (th.write r v).status = th.status := rfl
@[simp] theorem Thread.write_vregs (th : Thread) (r : RIdx) (v : Reg) : (th.write r v).vregs = th.vregs := rfl
@[simp] theorem Thread.write_group (th : Thread) (r : RIdx) (v : Reg) : (th.write r v).group = th.group := rfl
@[simp] theorem Thread.write_groupGen (th : Thread) (r : RIdx) (v : Reg) : (th.write r v).groupGen = th.groupGen := rfl
@[simp] theorem Thread.write_task (th : Thread) (r : RIdx) (v : Reg) : (th.write r v).task = th.task := rfl
@[simp] theorem Thread.write_epoch (th : Thread) (r : RIdx) (v : Reg) : (th.write r v).epoch = th.epoch := rfl
@[simp] theorem Thread.write_waitsWith (th : Thread) (r : RIdx) (v : Reg) : (th.write r v).waitsWith = th.waitsWith := rfl
@[simp] theorem Thread.writePair_pc (th : Thread) (r : RIdx) (p : Pair) : (th.writePair r p).pc = th.pc := rfl
@[simp] theorem Thread.writePair_pcc (th : Thread) (r : RIdx) (p : Pair) : (th.writePair r p).pcc = th.pcc := rfl
@[simp] theorem Thread.writePair_rscap (th : Thread) (r : RIdx) (p : Pair) : (th.writePair r p).rscap = th.rscap := rfl
@[simp] theorem Thread.writePair_rsp (th : Thread) (r : RIdx) (p : Pair) : (th.writePair r p).rsp = th.rsp := rfl
@[simp] theorem Thread.writePair_iter (th : Thread) (r : RIdx) (p : Pair) : (th.writePair r p).iter = th.iter := rfl
@[simp] theorem Thread.writePair_level (th : Thread) (r : RIdx) (p : Pair) : (th.writePair r p).level = th.level := rfl
@[simp] theorem Thread.writePair_tenancy (th : Thread) (r : RIdx) (p : Pair) : (th.writePair r p).tenancy = th.tenancy := rfl
@[simp] theorem Thread.writePair_dev (th : Thread) (r : RIdx) (p : Pair) : (th.writePair r p).dev = th.dev := rfl
@[simp] theorem Thread.writePair_ie (th : Thread) (r : RIdx) (p : Pair) : (th.writePair r p).ie = th.ie := rfl
@[simp] theorem Thread.writePair_dt1 (th : Thread) (r : RIdx) (p : Pair) : (th.writePair r p).dt1 = th.dt1 := rfl
@[simp] theorem Thread.writePair_dt2 (th : Thread) (r : RIdx) (p : Pair) : (th.writePair r p).dt2 = th.dt2 := rfl
@[simp] theorem Thread.writePair_lrs1 (th : Thread) (r : RIdx) (p : Pair) : (th.writePair r p).lrs1 = th.lrs1 := rfl
@[simp] theorem Thread.writePair_lrs2 (th : Thread) (r : RIdx) (p : Pair) : (th.writePair r p).lrs2 = th.lrs2 := rfl
@[simp] theorem Thread.writePair_lrsp1 (th : Thread) (r : RIdx) (p : Pair) : (th.writePair r p).lrsp1 = th.lrsp1 := rfl
@[simp] theorem Thread.writePair_lrsp2 (th : Thread) (r : RIdx) (p : Pair) : (th.writePair r p).lrsp2 = th.lrsp2 := rfl
@[simp] theorem Thread.writePair_imask1 (th : Thread) (r : RIdx) (p : Pair) : (th.writePair r p).imask1 = th.imask1 := rfl
@[simp] theorem Thread.writePair_imask2 (th : Thread) (r : RIdx) (p : Pair) : (th.writePair r p).imask2 = th.imask2 := rfl
@[simp] theorem Thread.writePair_timerCmp (th : Thread) (r : RIdx) (p : Pair) : (th.writePair r p).timerCmp = th.timerCmp := rfl
@[simp] theorem Thread.writePair_ipend (th : Thread) (r : RIdx) (p : Pair) : (th.writePair r p).ipend = th.ipend := rfl
@[simp] theorem Thread.writePair_nmi (th : Thread) (r : RIdx) (p : Pair) : (th.writePair r p).nmi = th.nmi := rfl
@[simp] theorem Thread.writePair_inRepn (th : Thread) (r : RIdx) (p : Pair) : (th.writePair r p).inRepn = th.inRepn := rfl
@[simp] theorem Thread.writePair_stopPfx (th : Thread) (r : RIdx) (p : Pair) : (th.writePair r p).stopPfx = th.stopPfx := rfl
@[simp] theorem Thread.writePair_stopExt (th : Thread) (r : RIdx) (p : Pair) : (th.writePair r p).stopExt = th.stopExt := rfl
@[simp] theorem Thread.writePair_sv1 (th : Thread) (r : RIdx) (p : Pair) : (th.writePair r p).sv1 = th.sv1 := rfl
@[simp] theorem Thread.writePair_sv2 (th : Thread) (r : RIdx) (p : Pair) : (th.writePair r p).sv2 = th.sv2 := rfl
@[simp] theorem Thread.writePair_sv3 (th : Thread) (r : RIdx) (p : Pair) : (th.writePair r p).sv3 = th.sv3 := rfl
@[simp] theorem Thread.writePair_status (th : Thread) (r : RIdx) (p : Pair) : (th.writePair r p).status = th.status := rfl
@[simp] theorem Thread.writePair_vregs (th : Thread) (r : RIdx) (p : Pair) : (th.writePair r p).vregs = th.vregs := rfl
@[simp] theorem Thread.writePair_group (th : Thread) (r : RIdx) (p : Pair) : (th.writePair r p).group = th.group := rfl
@[simp] theorem Thread.writePair_groupGen (th : Thread) (r : RIdx) (p : Pair) : (th.writePair r p).groupGen = th.groupGen := rfl
@[simp] theorem Thread.writePair_task (th : Thread) (r : RIdx) (p : Pair) : (th.writePair r p).task = th.task := rfl
@[simp] theorem Thread.writePair_epoch (th : Thread) (r : RIdx) (p : Pair) : (th.writePair r p).epoch = th.epoch := rfl
@[simp] theorem Thread.writePair_waitsWith (th : Thread) (r : RIdx) (p : Pair) : (th.writePair r p).waitsWith = th.waitsWith := rfl

@[simp] theorem State.th_setTh (s : State) (t : Tid) (th : Thread) : (s.setTh t th).th t = th := by
  simp [State.th, State.setTh]
theorem State.th_setTh_ne (s : State) (t u : Tid) (th : Thread) (h : t ≠ u) : (s.setTh t th).th u = s.th u := by
  have h2 : t.val ≠ u.val := fun e => h (Fin.ext e)
  simp [State.th, State.setTh, h2]
@[simp] theorem State.setTh_setTh (s : State) (t : Tid) (a b : Thread) : (s.setTh t a).setTh t b = s.setTh t b := by
  simp [State.setTh]
@[simp] theorem State.core_setCore (s : State) (c : CoreId) (k : Core) : (s.setCore c k).core c = k := by
  simp [State.core, State.setCore]
theorem State.core_setCore_ne (s : State) (c d : CoreId) (k : Core) (h : c ≠ d) : (s.setCore c k).core d = s.core d := by
  have h2 : c.val ≠ d.val := fun e => h (Fin.ext e)
  simp [State.core, State.setCore, h2]
@[simp] theorem State.setCore_setCore (s : State) (c : CoreId) (a b : Core) : (s.setCore c a).setCore c b = s.setCore c b := by
  simp [State.setCore]
@[simp] theorem State.th_setCore (s : State) (c : CoreId) (k : Core) (t : Tid) : (s.setCore c k).th t = s.th t := rfl
@[simp] theorem State.core_setTh (s : State) (t : Tid) (th : Thread) (c : CoreId) : (s.setTh t th).core c = s.core c := rfl
@[simp] theorem Thread.g_write (th : Thread) (r : RIdx) (v : Reg) : (th.write r v).g r = v := by
  have h : (partner r).val ≠ r.val := by simp only [partner]; omega
  unfold Thread.write Thread.g
  dsimp only
  split <;> simp [h]

@[simp] theorem State.setDev_threads (s : State) (i k v : Nat) : (s.setDev i k v).threads = s.threads := by
  unfold State.setDev State.putStop; split <;> split <;> rfl
@[simp] theorem State.setDev_cores (s : State) (i k v : Nat) : (s.setDev i k v).cores = s.cores := by
  unfold State.setDev State.putStop; split <;> split <;> rfl
@[simp] theorem State.setDev_hbm (s : State) (i k v : Nat) : (s.setDev i k v).hbm = s.hbm := by
  unfold State.setDev State.putStop; split <;> split <;> rfl
@[simp] theorem State.setDev_hbmTags (s : State) (i k v : Nat) : (s.setDev i k v).hbmTags = s.hbmTags := by
  unfold State.setDev State.putStop; split <;> split <;> rfl
@[simp] theorem State.setDev_hbmPoison (s : State) (i k v : Nat) : (s.setDev i k v).hbmPoison = s.hbmPoison := by
  unfold State.setDev State.putStop; split <;> split <;> rfl
@[simp] theorem State.setDev_hbmErrs (s : State) (i k v : Nat) : (s.setDev i k v).hbmErrs = s.hbmErrs := by
  unfold State.setDev State.putStop; split <;> split <;> rfl
@[simp] theorem State.setDev_slc (s : State) (i k v : Nat) : (s.setDev i k v).slc = s.slc := by
  unfold State.setDev State.putStop; split <;> split <;> rfl
@[simp] theorem State.setDev_slcErrs (s : State) (i k v : Nat) : (s.setDev i k v).slcErrs = s.slcErrs := by
  unfold State.setDev State.putStop; split <;> split <;> rfl
@[simp] theorem State.setDev_overlay (s : State) (i k v : Nat) : (s.setDev i k v).overlay = s.overlay := by
  unfold State.setDev State.putStop; split <;> split <;> rfl
@[simp] theorem State.setDev_victims (s : State) (i k v : Nat) : (s.setDev i k v).victims = s.victims := by
  unfold State.setDev State.putStop; split <;> split <;> rfl
@[simp] theorem State.setDev_misses (s : State) (i k v : Nat) : (s.setDev i k v).misses = s.misses := by
  unfold State.setDev State.putStop; split <;> split <;> rfl
@[simp] theorem State.setDev_spaces (s : State) (i k v : Nat) : (s.setDev i k v).spaces = s.spaces := by
  unfold State.setDev State.putStop; split <;> split <;> rfl
@[simp] theorem State.setDev_freeFrames (s : State) (i k v : Nat) : (s.setDev i k v).freeFrames = s.freeFrames := by
  unfold State.setDev State.putStop; split <;> split <;> rfl
@[simp] theorem State.setDev_shadows (s : State) (i k v : Nat) : (s.setDev i k v).shadows = s.shadows := by
  unfold State.setDev State.putStop; split <;> split <;> rfl
@[simp] theorem State.setDev_fills (s : State) (i k v : Nat) : (s.setDev i k v).fills = s.fills := by
  unfold State.setDev State.putStop; split <;> split <;> rfl
@[simp] theorem State.setDev_pairMap (s : State) (i k v : Nat) : (s.setDev i k v).pairMap = s.pairMap := by
  unfold State.setDev State.putStop; split <;> split <;> rfl
@[simp] theorem State.setDev_tasks (s : State) (i k v : Nat) : (s.setDev i k v).tasks = s.tasks := by
  unfold State.setDev State.putStop; split <;> split <;> rfl
@[simp] theorem State.setDev_taskGen (s : State) (i k v : Nat) : (s.setDev i k v).taskGen = s.taskGen := by
  unfold State.setDev State.putStop; split <;> split <;> rfl
@[simp] theorem State.setDev_taskEnd (s : State) (i k v : Nat) : (s.setDev i k v).taskEnd = s.taskEnd := by
  unfold State.setDev State.putStop; split <;> split <;> rfl
@[simp] theorem State.setDev_ready (s : State) (i k v : Nat) : (s.setDev i k v).ready = s.ready := by
  unfold State.setDev State.putStop; split <;> split <;> rfl
@[simp] theorem State.setDev_groups (s : State) (i k v : Nat) : (s.setDev i k v).groups = s.groups := by
  unfold State.setDev State.putStop; split <;> split <;> rfl
@[simp] theorem State.setDev_epochs (s : State) (i k v : Nat) : (s.setDev i k v).epochs = s.epochs := by
  unfold State.setDev State.putStop; split <;> split <;> rfl
@[simp] theorem State.setDev_epochGen (s : State) (i k v : Nat) : (s.setDev i k v).epochGen = s.epochGen := by
  unfold State.setDev State.putStop; split <;> split <;> rfl
@[simp] theorem State.setDev_chans (s : State) (i k v : Nat) : (s.setDev i k v).chans = s.chans := by
  unfold State.setDev State.putStop; split <;> split <;> rfl
@[simp] theorem State.setDev_chanGen (s : State) (i k v : Nat) : (s.setDev i k v).chanGen = s.chanGen := by
  unfold State.setDev State.putStop; split <;> split <;> rfl
@[simp] theorem State.setDev_cmds (s : State) (i k v : Nat) : (s.setDev i k v).cmds = s.cmds := by
  unfold State.setDev State.putStop; split <;> split <;> rfl
@[simp] theorem State.setDev_cmdGen (s : State) (i k v : Nat) : (s.setDev i k v).cmdGen = s.cmdGen := by
  unfold State.setDev State.putStop; split <;> split <;> rfl
@[simp] theorem State.setDev_cmdSeq (s : State) (i k v : Nat) : (s.setDev i k v).cmdSeq = s.cmdSeq := by
  unfold State.setDev State.putStop; split <;> split <;> rfl
@[simp] theorem State.setDev_landing (s : State) (i k v : Nat) : (s.setDev i k v).landing = s.landing := by
  unfold State.setDev State.putStop; split <;> split <;> rfl
@[simp] theorem State.setDev_events (s : State) (i k v : Nat) : (s.setDev i k v).events = s.events := by
  unfold State.setDev State.putStop; split <;> split <;> rfl
@[simp] theorem State.setDev_eventsLost (s : State) (i k v : Nat) : (s.setDev i k v).eventsLost = s.eventsLost := by
  unfold State.setDev State.putStop; split <;> split <;> rfl
@[simp] theorem State.setDev_droneMail (s : State) (i k v : Nat) : (s.setDev i k v).droneMail = s.droneMail := by
  unfold State.setDev State.putStop; split <;> split <;> rfl
@[simp] theorem State.setDev_monitorMail (s : State) (i k v : Nat) : (s.setDev i k v).monitorMail = s.monitorMail := by
  unfold State.setDev State.putStop; split <;> split <;> rfl
@[simp] theorem State.setDev_ports (s : State) (i k v : Nat) : (s.setDev i k v).ports = s.ports := by
  unfold State.setDev State.putStop; split <;> split <;> rfl
@[simp] theorem State.setDev_outbox (s : State) (i k v : Nat) : (s.setDev i k v).outbox = s.outbox := by
  unfold State.setDev State.putStop; split <;> split <;> rfl
@[simp] theorem State.setDev_fabricDiscards (s : State) (i k v : Nat) : (s.setDev i k v).fabricDiscards = s.fabricDiscards := by
  unfold State.setDev State.putStop; split <;> split <;> rfl
@[simp] theorem State.setDev_streams (s : State) (i k v : Nat) : (s.setDev i k v).streams = s.streams := by
  unfold State.setDev State.putStop; split <;> split <;> rfl
@[simp] theorem State.setDev_streamGen (s : State) (i k v : Nat) : (s.setDev i k v).streamGen = s.streamGen := by
  unfold State.setDev State.putStop; split <;> split <;> rfl
@[simp] theorem State.setDev_redGroups (s : State) (i k v : Nat) : (s.setDev i k v).redGroups = s.redGroups := by
  unfold State.setDev State.putStop; split <;> split <;> rfl
@[simp] theorem State.setDev_reds (s : State) (i k v : Nat) : (s.setDev i k v).reds = s.reds := by
  unfold State.setDev State.putStop; split <;> split <;> rfl
@[simp] theorem State.setDev_checks (s : State) (i k v : Nat) : (s.setDev i k v).checks = s.checks := by
  unfold State.setDev State.putStop; split <;> split <;> rfl
@[simp] theorem State.setDev_heldCtl (s : State) (i k v : Nat) : (s.setDev i k v).heldCtl = s.heldCtl := by
  unfold State.setDev State.putStop; split <;> split <;> rfl
@[simp] theorem State.setDev_lateSeen (s : State) (i k v : Nat) : (s.setDev i k v).lateSeen = s.lateSeen := by
  unfold State.setDev State.putStop; split <;> split <;> rfl
@[simp] theorem State.setDev_digests (s : State) (i k v : Nat) : (s.setDev i k v).digests = s.digests := by
  unfold State.setDev State.putStop; split <;> split <;> rfl
@[simp] theorem State.setDev_tenants (s : State) (i k v : Nat) : (s.setDev i k v).tenants = s.tenants := by
  unfold State.setDev State.putStop; split <;> split <;> rfl
@[simp] theorem State.setDev_keySlots (s : State) (i k v : Nat) : (s.setDev i k v).keySlots = s.keySlots := by
  unfold State.setDev State.putStop; split <;> split <;> rfl
@[simp] theorem State.setDev_retired (s : State) (i k v : Nat) : (s.setDev i k v).retired = s.retired := by
  unfold State.setDev State.putStop; split <;> split <;> rfl
@[simp] theorem State.setDev_funcs (s : State) (i k v : Nat) : (s.setDev i k v).funcs = s.funcs := by
  unfold State.setDev State.putStop; split <;> split <;> rfl
@[simp] theorem State.setDev_hostOut (s : State) (i k v : Nat) : (s.setDev i k v).hostOut = s.hostOut := by
  unfold State.setDev State.putStop; split <;> split <;> rfl
@[simp] theorem State.setDev_spdm (s : State) (i k v : Nat) : (s.setDev i k v).spdm = s.spdm := by
  unfold State.setDev State.putStop; split <;> split <;> rfl
@[simp] theorem State.setDev_flash (s : State) (i k v : Nat) : (s.setDev i k v).flash = s.flash := by
  unfold State.setDev State.putStop; split <;> split <;> rfl
@[simp] theorem State.setDev_sources (s : State) (i k v : Nat) : (s.setDev i k v).sources = s.sources := by
  unfold State.setDev State.putStop; split <;> split <;> rfl
@[simp] theorem State.setDev_sapOut (s : State) (i k v : Nat) : (s.setDev i k v).sapOut = s.sapOut := by
  unfold State.setDev State.putStop; split <;> split <;> rfl
@[simp] theorem State.setDev_discovers (s : State) (i k v : Nat) : (s.setDev i k v).discovers = s.discovers := by
  unfold State.setDev State.putStop; split <;> split <;> rfl
@[simp] theorem State.setDev_sapIn (s : State) (i k v : Nat) : (s.setDev i k v).sapIn = s.sapIn := by
  unfold State.setDev State.putStop; split <;> split <;> rfl
@[simp] theorem State.setDev_doe (s : State) (i k v : Nat) : (s.setDev i k v).doe = s.doe := by
  unfold State.setDev State.putStop; split <;> split <;> rfl
@[simp] theorem State.setDev_power (s : State) (i k v : Nat) : (s.setDev i k v).power = s.power := by
  unfold State.setDev State.putStop; split <;> split <;> rfl
@[simp] theorem State.setDev_detectors (s : State) (i k v : Nat) : (s.setDev i k v).detectors = s.detectors := by
  unfold State.setDev State.putStop; split <;> split <;> rfl
@[simp] theorem State.setDev_qlShare (s : State) (i k v : Nat) : (s.setDev i k v).qlShare = s.qlShare := by
  unfold State.setDev State.putStop; split <;> split <;> rfl
@[simp] theorem State.setDev_draws (s : State) (i k v : Nat) : (s.setDev i k v).draws = s.draws := by
  unfold State.setDev State.putStop; split <;> split <;> rfl
@[simp] theorem State.setDev_pending (s : State) (i k v : Nat) : (s.setDev i k v).pending = s.pending := by
  unfold State.setDev State.putStop; split <;> split <;> rfl
@[simp] theorem State.setTen_threads (s : State) (n i k v : Nat) : (s.setTen n i k v).threads = s.threads := by
  unfold State.setTen State.putStop; split <;> split <;> rfl
@[simp] theorem State.setTen_cores (s : State) (n i k v : Nat) : (s.setTen n i k v).cores = s.cores := by
  unfold State.setTen State.putStop; split <;> split <;> rfl
@[simp] theorem State.setTen_hbm (s : State) (n i k v : Nat) : (s.setTen n i k v).hbm = s.hbm := by
  unfold State.setTen State.putStop; split <;> split <;> rfl
@[simp] theorem State.setTen_hbmTags (s : State) (n i k v : Nat) : (s.setTen n i k v).hbmTags = s.hbmTags := by
  unfold State.setTen State.putStop; split <;> split <;> rfl
@[simp] theorem State.setTen_hbmPoison (s : State) (n i k v : Nat) : (s.setTen n i k v).hbmPoison = s.hbmPoison := by
  unfold State.setTen State.putStop; split <;> split <;> rfl
@[simp] theorem State.setTen_hbmErrs (s : State) (n i k v : Nat) : (s.setTen n i k v).hbmErrs = s.hbmErrs := by
  unfold State.setTen State.putStop; split <;> split <;> rfl
@[simp] theorem State.setTen_slc (s : State) (n i k v : Nat) : (s.setTen n i k v).slc = s.slc := by
  unfold State.setTen State.putStop; split <;> split <;> rfl
@[simp] theorem State.setTen_slcErrs (s : State) (n i k v : Nat) : (s.setTen n i k v).slcErrs = s.slcErrs := by
  unfold State.setTen State.putStop; split <;> split <;> rfl
@[simp] theorem State.setTen_overlay (s : State) (n i k v : Nat) : (s.setTen n i k v).overlay = s.overlay := by
  unfold State.setTen State.putStop; split <;> split <;> rfl
@[simp] theorem State.setTen_victims (s : State) (n i k v : Nat) : (s.setTen n i k v).victims = s.victims := by
  unfold State.setTen State.putStop; split <;> split <;> rfl
@[simp] theorem State.setTen_misses (s : State) (n i k v : Nat) : (s.setTen n i k v).misses = s.misses := by
  unfold State.setTen State.putStop; split <;> split <;> rfl
@[simp] theorem State.setTen_spaces (s : State) (n i k v : Nat) : (s.setTen n i k v).spaces = s.spaces := by
  unfold State.setTen State.putStop; split <;> split <;> rfl
@[simp] theorem State.setTen_freeFrames (s : State) (n i k v : Nat) : (s.setTen n i k v).freeFrames = s.freeFrames := by
  unfold State.setTen State.putStop; split <;> split <;> rfl
@[simp] theorem State.setTen_shadows (s : State) (n i k v : Nat) : (s.setTen n i k v).shadows = s.shadows := by
  unfold State.setTen State.putStop; split <;> split <;> rfl
@[simp] theorem State.setTen_fills (s : State) (n i k v : Nat) : (s.setTen n i k v).fills = s.fills := by
  unfold State.setTen State.putStop; split <;> split <;> rfl
@[simp] theorem State.setTen_pairMap (s : State) (n i k v : Nat) : (s.setTen n i k v).pairMap = s.pairMap := by
  unfold State.setTen State.putStop; split <;> split <;> rfl
@[simp] theorem State.setTen_tasks (s : State) (n i k v : Nat) : (s.setTen n i k v).tasks = s.tasks := by
  unfold State.setTen State.putStop; split <;> split <;> rfl
@[simp] theorem State.setTen_taskGen (s : State) (n i k v : Nat) : (s.setTen n i k v).taskGen = s.taskGen := by
  unfold State.setTen State.putStop; split <;> split <;> rfl
@[simp] theorem State.setTen_taskEnd (s : State) (n i k v : Nat) : (s.setTen n i k v).taskEnd = s.taskEnd := by
  unfold State.setTen State.putStop; split <;> split <;> rfl
@[simp] theorem State.setTen_ready (s : State) (n i k v : Nat) : (s.setTen n i k v).ready = s.ready := by
  unfold State.setTen State.putStop; split <;> split <;> rfl
@[simp] theorem State.setTen_groups (s : State) (n i k v : Nat) : (s.setTen n i k v).groups = s.groups := by
  unfold State.setTen State.putStop; split <;> split <;> rfl
@[simp] theorem State.setTen_epochs (s : State) (n i k v : Nat) : (s.setTen n i k v).epochs = s.epochs := by
  unfold State.setTen State.putStop; split <;> split <;> rfl
@[simp] theorem State.setTen_epochGen (s : State) (n i k v : Nat) : (s.setTen n i k v).epochGen = s.epochGen := by
  unfold State.setTen State.putStop; split <;> split <;> rfl
@[simp] theorem State.setTen_chans (s : State) (n i k v : Nat) : (s.setTen n i k v).chans = s.chans := by
  unfold State.setTen State.putStop; split <;> split <;> rfl
@[simp] theorem State.setTen_chanGen (s : State) (n i k v : Nat) : (s.setTen n i k v).chanGen = s.chanGen := by
  unfold State.setTen State.putStop; split <;> split <;> rfl
@[simp] theorem State.setTen_cmds (s : State) (n i k v : Nat) : (s.setTen n i k v).cmds = s.cmds := by
  unfold State.setTen State.putStop; split <;> split <;> rfl
@[simp] theorem State.setTen_cmdGen (s : State) (n i k v : Nat) : (s.setTen n i k v).cmdGen = s.cmdGen := by
  unfold State.setTen State.putStop; split <;> split <;> rfl
@[simp] theorem State.setTen_cmdSeq (s : State) (n i k v : Nat) : (s.setTen n i k v).cmdSeq = s.cmdSeq := by
  unfold State.setTen State.putStop; split <;> split <;> rfl
@[simp] theorem State.setTen_landing (s : State) (n i k v : Nat) : (s.setTen n i k v).landing = s.landing := by
  unfold State.setTen State.putStop; split <;> split <;> rfl
@[simp] theorem State.setTen_events (s : State) (n i k v : Nat) : (s.setTen n i k v).events = s.events := by
  unfold State.setTen State.putStop; split <;> split <;> rfl
@[simp] theorem State.setTen_eventsLost (s : State) (n i k v : Nat) : (s.setTen n i k v).eventsLost = s.eventsLost := by
  unfold State.setTen State.putStop; split <;> split <;> rfl
@[simp] theorem State.setTen_droneMail (s : State) (n i k v : Nat) : (s.setTen n i k v).droneMail = s.droneMail := by
  unfold State.setTen State.putStop; split <;> split <;> rfl
@[simp] theorem State.setTen_monitorMail (s : State) (n i k v : Nat) : (s.setTen n i k v).monitorMail = s.monitorMail := by
  unfold State.setTen State.putStop; split <;> split <;> rfl
@[simp] theorem State.setTen_ports (s : State) (n i k v : Nat) : (s.setTen n i k v).ports = s.ports := by
  unfold State.setTen State.putStop; split <;> split <;> rfl
@[simp] theorem State.setTen_outbox (s : State) (n i k v : Nat) : (s.setTen n i k v).outbox = s.outbox := by
  unfold State.setTen State.putStop; split <;> split <;> rfl
@[simp] theorem State.setTen_fabricDiscards (s : State) (n i k v : Nat) : (s.setTen n i k v).fabricDiscards = s.fabricDiscards := by
  unfold State.setTen State.putStop; split <;> split <;> rfl
@[simp] theorem State.setTen_streams (s : State) (n i k v : Nat) : (s.setTen n i k v).streams = s.streams := by
  unfold State.setTen State.putStop; split <;> split <;> rfl
@[simp] theorem State.setTen_streamGen (s : State) (n i k v : Nat) : (s.setTen n i k v).streamGen = s.streamGen := by
  unfold State.setTen State.putStop; split <;> split <;> rfl
@[simp] theorem State.setTen_redGroups (s : State) (n i k v : Nat) : (s.setTen n i k v).redGroups = s.redGroups := by
  unfold State.setTen State.putStop; split <;> split <;> rfl
@[simp] theorem State.setTen_reds (s : State) (n i k v : Nat) : (s.setTen n i k v).reds = s.reds := by
  unfold State.setTen State.putStop; split <;> split <;> rfl
@[simp] theorem State.setTen_checks (s : State) (n i k v : Nat) : (s.setTen n i k v).checks = s.checks := by
  unfold State.setTen State.putStop; split <;> split <;> rfl
@[simp] theorem State.setTen_heldCtl (s : State) (n i k v : Nat) : (s.setTen n i k v).heldCtl = s.heldCtl := by
  unfold State.setTen State.putStop; split <;> split <;> rfl
@[simp] theorem State.setTen_lateSeen (s : State) (n i k v : Nat) : (s.setTen n i k v).lateSeen = s.lateSeen := by
  unfold State.setTen State.putStop; split <;> split <;> rfl
@[simp] theorem State.setTen_digests (s : State) (n i k v : Nat) : (s.setTen n i k v).digests = s.digests := by
  unfold State.setTen State.putStop; split <;> split <;> rfl
@[simp] theorem State.setTen_tenants (s : State) (n i k v : Nat) : (s.setTen n i k v).tenants = s.tenants := by
  unfold State.setTen State.putStop; split <;> split <;> rfl
@[simp] theorem State.setTen_keySlots (s : State) (n i k v : Nat) : (s.setTen n i k v).keySlots = s.keySlots := by
  unfold State.setTen State.putStop; split <;> split <;> rfl
@[simp] theorem State.setTen_retired (s : State) (n i k v : Nat) : (s.setTen n i k v).retired = s.retired := by
  unfold State.setTen State.putStop; split <;> split <;> rfl
@[simp] theorem State.setTen_funcs (s : State) (n i k v : Nat) : (s.setTen n i k v).funcs = s.funcs := by
  unfold State.setTen State.putStop; split <;> split <;> rfl
@[simp] theorem State.setTen_hostOut (s : State) (n i k v : Nat) : (s.setTen n i k v).hostOut = s.hostOut := by
  unfold State.setTen State.putStop; split <;> split <;> rfl
@[simp] theorem State.setTen_spdm (s : State) (n i k v : Nat) : (s.setTen n i k v).spdm = s.spdm := by
  unfold State.setTen State.putStop; split <;> split <;> rfl
@[simp] theorem State.setTen_flash (s : State) (n i k v : Nat) : (s.setTen n i k v).flash = s.flash := by
  unfold State.setTen State.putStop; split <;> split <;> rfl
@[simp] theorem State.setTen_sources (s : State) (n i k v : Nat) : (s.setTen n i k v).sources = s.sources := by
  unfold State.setTen State.putStop; split <;> split <;> rfl
@[simp] theorem State.setTen_sapOut (s : State) (n i k v : Nat) : (s.setTen n i k v).sapOut = s.sapOut := by
  unfold State.setTen State.putStop; split <;> split <;> rfl
@[simp] theorem State.setTen_discovers (s : State) (n i k v : Nat) : (s.setTen n i k v).discovers = s.discovers := by
  unfold State.setTen State.putStop; split <;> split <;> rfl
@[simp] theorem State.setTen_sapIn (s : State) (n i k v : Nat) : (s.setTen n i k v).sapIn = s.sapIn := by
  unfold State.setTen State.putStop; split <;> split <;> rfl
@[simp] theorem State.setTen_doe (s : State) (n i k v : Nat) : (s.setTen n i k v).doe = s.doe := by
  unfold State.setTen State.putStop; split <;> split <;> rfl
@[simp] theorem State.setTen_power (s : State) (n i k v : Nat) : (s.setTen n i k v).power = s.power := by
  unfold State.setTen State.putStop; split <;> split <;> rfl
@[simp] theorem State.setTen_detectors (s : State) (n i k v : Nat) : (s.setTen n i k v).detectors = s.detectors := by
  unfold State.setTen State.putStop; split <;> split <;> rfl
@[simp] theorem State.setTen_qlShare (s : State) (n i k v : Nat) : (s.setTen n i k v).qlShare = s.qlShare := by
  unfold State.setTen State.putStop; split <;> split <;> rfl
@[simp] theorem State.setTen_draws (s : State) (n i k v : Nat) : (s.setTen n i k v).draws = s.draws := by
  unfold State.setTen State.putStop; split <;> split <;> rfl
@[simp] theorem State.setTen_pending (s : State) (n i k v : Nat) : (s.setTen n i k v).pending = s.pending := by
  unfold State.setTen State.putStop; split <;> split <;> rfl
@[simp] theorem State.log_threads (s : State) (c d : Nat) : (s.log c d).threads = s.threads := by simp [State.log]
@[simp] theorem State.log_cores (s : State) (c d : Nat) : (s.log c d).cores = s.cores := by simp [State.log]
@[simp] theorem State.log_hbm (s : State) (c d : Nat) : (s.log c d).hbm = s.hbm := by simp [State.log]
@[simp] theorem State.log_hbmTags (s : State) (c d : Nat) : (s.log c d).hbmTags = s.hbmTags := by simp [State.log]
@[simp] theorem State.log_hbmPoison (s : State) (c d : Nat) : (s.log c d).hbmPoison = s.hbmPoison := by simp [State.log]
@[simp] theorem State.log_hbmErrs (s : State) (c d : Nat) : (s.log c d).hbmErrs = s.hbmErrs := by simp [State.log]
@[simp] theorem State.log_slc (s : State) (c d : Nat) : (s.log c d).slc = s.slc := by simp [State.log]
@[simp] theorem State.log_slcErrs (s : State) (c d : Nat) : (s.log c d).slcErrs = s.slcErrs := by simp [State.log]
@[simp] theorem State.log_overlay (s : State) (c d : Nat) : (s.log c d).overlay = s.overlay := by simp [State.log]
@[simp] theorem State.log_victims (s : State) (c d : Nat) : (s.log c d).victims = s.victims := by simp [State.log]
@[simp] theorem State.log_misses (s : State) (c d : Nat) : (s.log c d).misses = s.misses := by simp [State.log]
@[simp] theorem State.log_spaces (s : State) (c d : Nat) : (s.log c d).spaces = s.spaces := by simp [State.log]
@[simp] theorem State.log_freeFrames (s : State) (c d : Nat) : (s.log c d).freeFrames = s.freeFrames := by simp [State.log]
@[simp] theorem State.log_shadows (s : State) (c d : Nat) : (s.log c d).shadows = s.shadows := by simp [State.log]
@[simp] theorem State.log_fills (s : State) (c d : Nat) : (s.log c d).fills = s.fills := by simp [State.log]
@[simp] theorem State.log_pairMap (s : State) (c d : Nat) : (s.log c d).pairMap = s.pairMap := by simp [State.log]
@[simp] theorem State.log_tasks (s : State) (c d : Nat) : (s.log c d).tasks = s.tasks := by simp [State.log]
@[simp] theorem State.log_taskGen (s : State) (c d : Nat) : (s.log c d).taskGen = s.taskGen := by simp [State.log]
@[simp] theorem State.log_taskEnd (s : State) (c d : Nat) : (s.log c d).taskEnd = s.taskEnd := by simp [State.log]
@[simp] theorem State.log_ready (s : State) (c d : Nat) : (s.log c d).ready = s.ready := by simp [State.log]
@[simp] theorem State.log_groups (s : State) (c d : Nat) : (s.log c d).groups = s.groups := by simp [State.log]
@[simp] theorem State.log_epochs (s : State) (c d : Nat) : (s.log c d).epochs = s.epochs := by simp [State.log]
@[simp] theorem State.log_epochGen (s : State) (c d : Nat) : (s.log c d).epochGen = s.epochGen := by simp [State.log]
@[simp] theorem State.log_chans (s : State) (c d : Nat) : (s.log c d).chans = s.chans := by simp [State.log]
@[simp] theorem State.log_chanGen (s : State) (c d : Nat) : (s.log c d).chanGen = s.chanGen := by simp [State.log]
@[simp] theorem State.log_cmds (s : State) (c d : Nat) : (s.log c d).cmds = s.cmds := by simp [State.log]
@[simp] theorem State.log_cmdGen (s : State) (c d : Nat) : (s.log c d).cmdGen = s.cmdGen := by simp [State.log]
@[simp] theorem State.log_cmdSeq (s : State) (c d : Nat) : (s.log c d).cmdSeq = s.cmdSeq := by simp [State.log]
@[simp] theorem State.log_landing (s : State) (c d : Nat) : (s.log c d).landing = s.landing := by simp [State.log]
@[simp] theorem State.log_events (s : State) (c d : Nat) : (s.log c d).events = s.events := by simp [State.log]
@[simp] theorem State.log_eventsLost (s : State) (c d : Nat) : (s.log c d).eventsLost = s.eventsLost := by simp [State.log]
@[simp] theorem State.log_droneMail (s : State) (c d : Nat) : (s.log c d).droneMail = s.droneMail := by simp [State.log]
@[simp] theorem State.log_monitorMail (s : State) (c d : Nat) : (s.log c d).monitorMail = s.monitorMail := by simp [State.log]
@[simp] theorem State.log_ports (s : State) (c d : Nat) : (s.log c d).ports = s.ports := by simp [State.log]
@[simp] theorem State.log_outbox (s : State) (c d : Nat) : (s.log c d).outbox = s.outbox := by simp [State.log]
@[simp] theorem State.log_fabricDiscards (s : State) (c d : Nat) : (s.log c d).fabricDiscards = s.fabricDiscards := by simp [State.log]
@[simp] theorem State.log_streams (s : State) (c d : Nat) : (s.log c d).streams = s.streams := by simp [State.log]
@[simp] theorem State.log_streamGen (s : State) (c d : Nat) : (s.log c d).streamGen = s.streamGen := by simp [State.log]
@[simp] theorem State.log_redGroups (s : State) (c d : Nat) : (s.log c d).redGroups = s.redGroups := by simp [State.log]
@[simp] theorem State.log_reds (s : State) (c d : Nat) : (s.log c d).reds = s.reds := by simp [State.log]
@[simp] theorem State.log_checks (s : State) (c d : Nat) : (s.log c d).checks = s.checks := by simp [State.log]
@[simp] theorem State.log_heldCtl (s : State) (c d : Nat) : (s.log c d).heldCtl = s.heldCtl := by simp [State.log]
@[simp] theorem State.log_lateSeen (s : State) (c d : Nat) : (s.log c d).lateSeen = s.lateSeen := by simp [State.log]
@[simp] theorem State.log_digests (s : State) (c d : Nat) : (s.log c d).digests = s.digests := by simp [State.log]
@[simp] theorem State.log_tenants (s : State) (c d : Nat) : (s.log c d).tenants = s.tenants := by simp [State.log]
@[simp] theorem State.log_keySlots (s : State) (c d : Nat) : (s.log c d).keySlots = s.keySlots := by simp [State.log]
@[simp] theorem State.log_retired (s : State) (c d : Nat) : (s.log c d).retired = s.retired := by simp [State.log]
@[simp] theorem State.log_funcs (s : State) (c d : Nat) : (s.log c d).funcs = s.funcs := by simp [State.log]
@[simp] theorem State.log_hostOut (s : State) (c d : Nat) : (s.log c d).hostOut = s.hostOut := by simp [State.log]
@[simp] theorem State.log_spdm (s : State) (c d : Nat) : (s.log c d).spdm = s.spdm := by simp [State.log]
@[simp] theorem State.log_flash (s : State) (c d : Nat) : (s.log c d).flash = s.flash := by simp [State.log]
@[simp] theorem State.log_sources (s : State) (c d : Nat) : (s.log c d).sources = s.sources := by simp [State.log]
@[simp] theorem State.log_sapOut (s : State) (c d : Nat) : (s.log c d).sapOut = s.sapOut := by simp [State.log]
@[simp] theorem State.log_discovers (s : State) (c d : Nat) : (s.log c d).discovers = s.discovers := by simp [State.log]
@[simp] theorem State.log_sapIn (s : State) (c d : Nat) : (s.log c d).sapIn = s.sapIn := by simp [State.log]
@[simp] theorem State.log_doe (s : State) (c d : Nat) : (s.log c d).doe = s.doe := by simp [State.log]
@[simp] theorem State.log_power (s : State) (c d : Nat) : (s.log c d).power = s.power := by simp [State.log]
@[simp] theorem State.log_detectors (s : State) (c d : Nat) : (s.log c d).detectors = s.detectors := by simp [State.log]
@[simp] theorem State.log_qlShare (s : State) (c d : Nat) : (s.log c d).qlShare = s.qlShare := by simp [State.log]
@[simp] theorem State.log_draws (s : State) (c d : Nat) : (s.log c d).draws = s.draws := by simp [State.log]
@[simp] theorem State.log_pending (s : State) (c d : Nat) : (s.log c d).pending = s.pending := by simp [State.log]
@[simp] theorem State.countDev_threads (s : State) (k n : Nat) : (s.countDev k n).threads = s.threads := by simp [State.countDev]
@[simp] theorem State.countDev_cores (s : State) (k n : Nat) : (s.countDev k n).cores = s.cores := by simp [State.countDev]
@[simp] theorem State.countDev_hbm (s : State) (k n : Nat) : (s.countDev k n).hbm = s.hbm := by simp [State.countDev]
@[simp] theorem State.countDev_hbmTags (s : State) (k n : Nat) : (s.countDev k n).hbmTags = s.hbmTags := by simp [State.countDev]
@[simp] theorem State.countDev_hbmPoison (s : State) (k n : Nat) : (s.countDev k n).hbmPoison = s.hbmPoison := by simp [State.countDev]
@[simp] theorem State.countDev_hbmErrs (s : State) (k n : Nat) : (s.countDev k n).hbmErrs = s.hbmErrs := by simp [State.countDev]
@[simp] theorem State.countDev_slc (s : State) (k n : Nat) : (s.countDev k n).slc = s.slc := by simp [State.countDev]
@[simp] theorem State.countDev_slcErrs (s : State) (k n : Nat) : (s.countDev k n).slcErrs = s.slcErrs := by simp [State.countDev]
@[simp] theorem State.countDev_overlay (s : State) (k n : Nat) : (s.countDev k n).overlay = s.overlay := by simp [State.countDev]
@[simp] theorem State.countDev_victims (s : State) (k n : Nat) : (s.countDev k n).victims = s.victims := by simp [State.countDev]
@[simp] theorem State.countDev_misses (s : State) (k n : Nat) : (s.countDev k n).misses = s.misses := by simp [State.countDev]
@[simp] theorem State.countDev_spaces (s : State) (k n : Nat) : (s.countDev k n).spaces = s.spaces := by simp [State.countDev]
@[simp] theorem State.countDev_freeFrames (s : State) (k n : Nat) : (s.countDev k n).freeFrames = s.freeFrames := by simp [State.countDev]
@[simp] theorem State.countDev_shadows (s : State) (k n : Nat) : (s.countDev k n).shadows = s.shadows := by simp [State.countDev]
@[simp] theorem State.countDev_fills (s : State) (k n : Nat) : (s.countDev k n).fills = s.fills := by simp [State.countDev]
@[simp] theorem State.countDev_pairMap (s : State) (k n : Nat) : (s.countDev k n).pairMap = s.pairMap := by simp [State.countDev]
@[simp] theorem State.countDev_tasks (s : State) (k n : Nat) : (s.countDev k n).tasks = s.tasks := by simp [State.countDev]
@[simp] theorem State.countDev_taskGen (s : State) (k n : Nat) : (s.countDev k n).taskGen = s.taskGen := by simp [State.countDev]
@[simp] theorem State.countDev_taskEnd (s : State) (k n : Nat) : (s.countDev k n).taskEnd = s.taskEnd := by simp [State.countDev]
@[simp] theorem State.countDev_ready (s : State) (k n : Nat) : (s.countDev k n).ready = s.ready := by simp [State.countDev]
@[simp] theorem State.countDev_groups (s : State) (k n : Nat) : (s.countDev k n).groups = s.groups := by simp [State.countDev]
@[simp] theorem State.countDev_epochs (s : State) (k n : Nat) : (s.countDev k n).epochs = s.epochs := by simp [State.countDev]
@[simp] theorem State.countDev_epochGen (s : State) (k n : Nat) : (s.countDev k n).epochGen = s.epochGen := by simp [State.countDev]
@[simp] theorem State.countDev_chans (s : State) (k n : Nat) : (s.countDev k n).chans = s.chans := by simp [State.countDev]
@[simp] theorem State.countDev_chanGen (s : State) (k n : Nat) : (s.countDev k n).chanGen = s.chanGen := by simp [State.countDev]
@[simp] theorem State.countDev_cmds (s : State) (k n : Nat) : (s.countDev k n).cmds = s.cmds := by simp [State.countDev]
@[simp] theorem State.countDev_cmdGen (s : State) (k n : Nat) : (s.countDev k n).cmdGen = s.cmdGen := by simp [State.countDev]
@[simp] theorem State.countDev_cmdSeq (s : State) (k n : Nat) : (s.countDev k n).cmdSeq = s.cmdSeq := by simp [State.countDev]
@[simp] theorem State.countDev_landing (s : State) (k n : Nat) : (s.countDev k n).landing = s.landing := by simp [State.countDev]
@[simp] theorem State.countDev_events (s : State) (k n : Nat) : (s.countDev k n).events = s.events := by simp [State.countDev]
@[simp] theorem State.countDev_eventsLost (s : State) (k n : Nat) : (s.countDev k n).eventsLost = s.eventsLost := by simp [State.countDev]
@[simp] theorem State.countDev_droneMail (s : State) (k n : Nat) : (s.countDev k n).droneMail = s.droneMail := by simp [State.countDev]
@[simp] theorem State.countDev_monitorMail (s : State) (k n : Nat) : (s.countDev k n).monitorMail = s.monitorMail := by simp [State.countDev]
@[simp] theorem State.countDev_ports (s : State) (k n : Nat) : (s.countDev k n).ports = s.ports := by simp [State.countDev]
@[simp] theorem State.countDev_outbox (s : State) (k n : Nat) : (s.countDev k n).outbox = s.outbox := by simp [State.countDev]
@[simp] theorem State.countDev_fabricDiscards (s : State) (k n : Nat) : (s.countDev k n).fabricDiscards = s.fabricDiscards := by simp [State.countDev]
@[simp] theorem State.countDev_streams (s : State) (k n : Nat) : (s.countDev k n).streams = s.streams := by simp [State.countDev]
@[simp] theorem State.countDev_streamGen (s : State) (k n : Nat) : (s.countDev k n).streamGen = s.streamGen := by simp [State.countDev]
@[simp] theorem State.countDev_redGroups (s : State) (k n : Nat) : (s.countDev k n).redGroups = s.redGroups := by simp [State.countDev]
@[simp] theorem State.countDev_reds (s : State) (k n : Nat) : (s.countDev k n).reds = s.reds := by simp [State.countDev]
@[simp] theorem State.countDev_checks (s : State) (k n : Nat) : (s.countDev k n).checks = s.checks := by simp [State.countDev]
@[simp] theorem State.countDev_heldCtl (s : State) (k n : Nat) : (s.countDev k n).heldCtl = s.heldCtl := by simp [State.countDev]
@[simp] theorem State.countDev_lateSeen (s : State) (k n : Nat) : (s.countDev k n).lateSeen = s.lateSeen := by simp [State.countDev]
@[simp] theorem State.countDev_digests (s : State) (k n : Nat) : (s.countDev k n).digests = s.digests := by simp [State.countDev]
@[simp] theorem State.countDev_tenants (s : State) (k n : Nat) : (s.countDev k n).tenants = s.tenants := by simp [State.countDev]
@[simp] theorem State.countDev_keySlots (s : State) (k n : Nat) : (s.countDev k n).keySlots = s.keySlots := by simp [State.countDev]
@[simp] theorem State.countDev_retired (s : State) (k n : Nat) : (s.countDev k n).retired = s.retired := by simp [State.countDev]
@[simp] theorem State.countDev_funcs (s : State) (k n : Nat) : (s.countDev k n).funcs = s.funcs := by simp [State.countDev]
@[simp] theorem State.countDev_hostOut (s : State) (k n : Nat) : (s.countDev k n).hostOut = s.hostOut := by simp [State.countDev]
@[simp] theorem State.countDev_spdm (s : State) (k n : Nat) : (s.countDev k n).spdm = s.spdm := by simp [State.countDev]
@[simp] theorem State.countDev_flash (s : State) (k n : Nat) : (s.countDev k n).flash = s.flash := by simp [State.countDev]
@[simp] theorem State.countDev_sources (s : State) (k n : Nat) : (s.countDev k n).sources = s.sources := by simp [State.countDev]
@[simp] theorem State.countDev_sapOut (s : State) (k n : Nat) : (s.countDev k n).sapOut = s.sapOut := by simp [State.countDev]
@[simp] theorem State.countDev_discovers (s : State) (k n : Nat) : (s.countDev k n).discovers = s.discovers := by simp [State.countDev]
@[simp] theorem State.countDev_sapIn (s : State) (k n : Nat) : (s.countDev k n).sapIn = s.sapIn := by simp [State.countDev]
@[simp] theorem State.countDev_doe (s : State) (k n : Nat) : (s.countDev k n).doe = s.doe := by simp [State.countDev]
@[simp] theorem State.countDev_power (s : State) (k n : Nat) : (s.countDev k n).power = s.power := by simp [State.countDev]
@[simp] theorem State.countDev_detectors (s : State) (k n : Nat) : (s.countDev k n).detectors = s.detectors := by simp [State.countDev]
@[simp] theorem State.countDev_qlShare (s : State) (k n : Nat) : (s.countDev k n).qlShare = s.qlShare := by simp [State.countDev]
@[simp] theorem State.countDev_draws (s : State) (k n : Nat) : (s.countDev k n).draws = s.draws := by simp [State.countDev]
@[simp] theorem State.countDev_pending (s : State) (k n : Nat) : (s.countDev k n).pending = s.pending := by simp [State.countDev]
@[simp] theorem State.count_threads (s : State) (a k n : Nat) : (s.count a k n).threads = s.threads := by
  unfold State.count; split <;> simp; split <;> simp
@[simp] theorem State.count_cores (s : State) (a k n : Nat) : (s.count a k n).cores = s.cores := by
  unfold State.count; split <;> simp; split <;> simp
@[simp] theorem State.count_hbm (s : State) (a k n : Nat) : (s.count a k n).hbm = s.hbm := by
  unfold State.count; split <;> simp; split <;> simp
@[simp] theorem State.count_hbmTags (s : State) (a k n : Nat) : (s.count a k n).hbmTags = s.hbmTags := by
  unfold State.count; split <;> simp; split <;> simp
@[simp] theorem State.count_hbmPoison (s : State) (a k n : Nat) : (s.count a k n).hbmPoison = s.hbmPoison := by
  unfold State.count; split <;> simp; split <;> simp
@[simp] theorem State.count_hbmErrs (s : State) (a k n : Nat) : (s.count a k n).hbmErrs = s.hbmErrs := by
  unfold State.count; split <;> simp; split <;> simp
@[simp] theorem State.count_slc (s : State) (a k n : Nat) : (s.count a k n).slc = s.slc := by
  unfold State.count; split <;> simp; split <;> simp
@[simp] theorem State.count_slcErrs (s : State) (a k n : Nat) : (s.count a k n).slcErrs = s.slcErrs := by
  unfold State.count; split <;> simp; split <;> simp
@[simp] theorem State.count_overlay (s : State) (a k n : Nat) : (s.count a k n).overlay = s.overlay := by
  unfold State.count; split <;> simp; split <;> simp
@[simp] theorem State.count_victims (s : State) (a k n : Nat) : (s.count a k n).victims = s.victims := by
  unfold State.count; split <;> simp; split <;> simp
@[simp] theorem State.count_misses (s : State) (a k n : Nat) : (s.count a k n).misses = s.misses := by
  unfold State.count; split <;> simp; split <;> simp
@[simp] theorem State.count_spaces (s : State) (a k n : Nat) : (s.count a k n).spaces = s.spaces := by
  unfold State.count; split <;> simp; split <;> simp
@[simp] theorem State.count_freeFrames (s : State) (a k n : Nat) : (s.count a k n).freeFrames = s.freeFrames := by
  unfold State.count; split <;> simp; split <;> simp
@[simp] theorem State.count_shadows (s : State) (a k n : Nat) : (s.count a k n).shadows = s.shadows := by
  unfold State.count; split <;> simp; split <;> simp
@[simp] theorem State.count_fills (s : State) (a k n : Nat) : (s.count a k n).fills = s.fills := by
  unfold State.count; split <;> simp; split <;> simp
@[simp] theorem State.count_pairMap (s : State) (a k n : Nat) : (s.count a k n).pairMap = s.pairMap := by
  unfold State.count; split <;> simp; split <;> simp
@[simp] theorem State.count_tasks (s : State) (a k n : Nat) : (s.count a k n).tasks = s.tasks := by
  unfold State.count; split <;> simp; split <;> simp
@[simp] theorem State.count_taskGen (s : State) (a k n : Nat) : (s.count a k n).taskGen = s.taskGen := by
  unfold State.count; split <;> simp; split <;> simp
@[simp] theorem State.count_taskEnd (s : State) (a k n : Nat) : (s.count a k n).taskEnd = s.taskEnd := by
  unfold State.count; split <;> simp; split <;> simp
@[simp] theorem State.count_ready (s : State) (a k n : Nat) : (s.count a k n).ready = s.ready := by
  unfold State.count; split <;> simp; split <;> simp
@[simp] theorem State.count_groups (s : State) (a k n : Nat) : (s.count a k n).groups = s.groups := by
  unfold State.count; split <;> simp; split <;> simp
@[simp] theorem State.count_epochs (s : State) (a k n : Nat) : (s.count a k n).epochs = s.epochs := by
  unfold State.count; split <;> simp; split <;> simp
@[simp] theorem State.count_epochGen (s : State) (a k n : Nat) : (s.count a k n).epochGen = s.epochGen := by
  unfold State.count; split <;> simp; split <;> simp
@[simp] theorem State.count_chans (s : State) (a k n : Nat) : (s.count a k n).chans = s.chans := by
  unfold State.count; split <;> simp; split <;> simp
@[simp] theorem State.count_chanGen (s : State) (a k n : Nat) : (s.count a k n).chanGen = s.chanGen := by
  unfold State.count; split <;> simp; split <;> simp
@[simp] theorem State.count_cmds (s : State) (a k n : Nat) : (s.count a k n).cmds = s.cmds := by
  unfold State.count; split <;> simp; split <;> simp
@[simp] theorem State.count_cmdGen (s : State) (a k n : Nat) : (s.count a k n).cmdGen = s.cmdGen := by
  unfold State.count; split <;> simp; split <;> simp
@[simp] theorem State.count_cmdSeq (s : State) (a k n : Nat) : (s.count a k n).cmdSeq = s.cmdSeq := by
  unfold State.count; split <;> simp; split <;> simp
@[simp] theorem State.count_landing (s : State) (a k n : Nat) : (s.count a k n).landing = s.landing := by
  unfold State.count; split <;> simp; split <;> simp
@[simp] theorem State.count_events (s : State) (a k n : Nat) : (s.count a k n).events = s.events := by
  unfold State.count; split <;> simp; split <;> simp
@[simp] theorem State.count_eventsLost (s : State) (a k n : Nat) : (s.count a k n).eventsLost = s.eventsLost := by
  unfold State.count; split <;> simp; split <;> simp
@[simp] theorem State.count_droneMail (s : State) (a k n : Nat) : (s.count a k n).droneMail = s.droneMail := by
  unfold State.count; split <;> simp; split <;> simp
@[simp] theorem State.count_monitorMail (s : State) (a k n : Nat) : (s.count a k n).monitorMail = s.monitorMail := by
  unfold State.count; split <;> simp; split <;> simp
@[simp] theorem State.count_ports (s : State) (a k n : Nat) : (s.count a k n).ports = s.ports := by
  unfold State.count; split <;> simp; split <;> simp
@[simp] theorem State.count_outbox (s : State) (a k n : Nat) : (s.count a k n).outbox = s.outbox := by
  unfold State.count; split <;> simp; split <;> simp
@[simp] theorem State.count_fabricDiscards (s : State) (a k n : Nat) : (s.count a k n).fabricDiscards = s.fabricDiscards := by
  unfold State.count; split <;> simp; split <;> simp
@[simp] theorem State.count_streams (s : State) (a k n : Nat) : (s.count a k n).streams = s.streams := by
  unfold State.count; split <;> simp; split <;> simp
@[simp] theorem State.count_streamGen (s : State) (a k n : Nat) : (s.count a k n).streamGen = s.streamGen := by
  unfold State.count; split <;> simp; split <;> simp
@[simp] theorem State.count_redGroups (s : State) (a k n : Nat) : (s.count a k n).redGroups = s.redGroups := by
  unfold State.count; split <;> simp; split <;> simp
@[simp] theorem State.count_reds (s : State) (a k n : Nat) : (s.count a k n).reds = s.reds := by
  unfold State.count; split <;> simp; split <;> simp
@[simp] theorem State.count_checks (s : State) (a k n : Nat) : (s.count a k n).checks = s.checks := by
  unfold State.count; split <;> simp; split <;> simp
@[simp] theorem State.count_heldCtl (s : State) (a k n : Nat) : (s.count a k n).heldCtl = s.heldCtl := by
  unfold State.count; split <;> simp; split <;> simp
@[simp] theorem State.count_lateSeen (s : State) (a k n : Nat) : (s.count a k n).lateSeen = s.lateSeen := by
  unfold State.count; split <;> simp; split <;> simp
@[simp] theorem State.count_digests (s : State) (a k n : Nat) : (s.count a k n).digests = s.digests := by
  unfold State.count; split <;> simp; split <;> simp
@[simp] theorem State.count_tenants (s : State) (a k n : Nat) : (s.count a k n).tenants = s.tenants := by
  unfold State.count; split <;> simp; split <;> simp
@[simp] theorem State.count_keySlots (s : State) (a k n : Nat) : (s.count a k n).keySlots = s.keySlots := by
  unfold State.count; split <;> simp; split <;> simp
@[simp] theorem State.count_retired (s : State) (a k n : Nat) : (s.count a k n).retired = s.retired := by
  unfold State.count; split <;> simp; split <;> simp
@[simp] theorem State.count_funcs (s : State) (a k n : Nat) : (s.count a k n).funcs = s.funcs := by
  unfold State.count; split <;> simp; split <;> simp
@[simp] theorem State.count_hostOut (s : State) (a k n : Nat) : (s.count a k n).hostOut = s.hostOut := by
  unfold State.count; split <;> simp; split <;> simp
@[simp] theorem State.count_spdm (s : State) (a k n : Nat) : (s.count a k n).spdm = s.spdm := by
  unfold State.count; split <;> simp; split <;> simp
@[simp] theorem State.count_flash (s : State) (a k n : Nat) : (s.count a k n).flash = s.flash := by
  unfold State.count; split <;> simp; split <;> simp
@[simp] theorem State.count_sources (s : State) (a k n : Nat) : (s.count a k n).sources = s.sources := by
  unfold State.count; split <;> simp; split <;> simp
@[simp] theorem State.count_sapOut (s : State) (a k n : Nat) : (s.count a k n).sapOut = s.sapOut := by
  unfold State.count; split <;> simp; split <;> simp
@[simp] theorem State.count_discovers (s : State) (a k n : Nat) : (s.count a k n).discovers = s.discovers := by
  unfold State.count; split <;> simp; split <;> simp
@[simp] theorem State.count_sapIn (s : State) (a k n : Nat) : (s.count a k n).sapIn = s.sapIn := by
  unfold State.count; split <;> simp; split <;> simp
@[simp] theorem State.count_doe (s : State) (a k n : Nat) : (s.count a k n).doe = s.doe := by
  unfold State.count; split <;> simp; split <;> simp
@[simp] theorem State.count_power (s : State) (a k n : Nat) : (s.count a k n).power = s.power := by
  unfold State.count; split <;> simp; split <;> simp
@[simp] theorem State.count_detectors (s : State) (a k n : Nat) : (s.count a k n).detectors = s.detectors := by
  unfold State.count; split <;> simp; split <;> simp
@[simp] theorem State.count_qlShare (s : State) (a k n : Nat) : (s.count a k n).qlShare = s.qlShare := by
  unfold State.count; split <;> simp; split <;> simp
@[simp] theorem State.count_draws (s : State) (a k n : Nat) : (s.count a k n).draws = s.draws := by
  unfold State.count; split <;> simp; split <;> simp
@[simp] theorem State.count_pending (s : State) (a k n : Nat) : (s.count a k n).pending = s.pending := by
  unfold State.count; split <;> simp; split <;> simp
@[simp] theorem State.hold_threads (s : State) (n c d : Nat) : (s.hold n c d).threads = s.threads := by
  unfold State.hold; split <;> simp; split <;> simp
@[simp] theorem State.post_threads (s : State) (n c d : Nat) : (s.post n c d).threads = s.threads := by simp [State.post]
@[simp] theorem State.hold_cores (s : State) (n c d : Nat) : (s.hold n c d).cores = s.cores := by
  unfold State.hold; split <;> simp; split <;> simp
@[simp] theorem State.post_cores (s : State) (n c d : Nat) : (s.post n c d).cores = s.cores := by simp [State.post]
@[simp] theorem State.hold_hbm (s : State) (n c d : Nat) : (s.hold n c d).hbm = s.hbm := by
  unfold State.hold; split <;> simp; split <;> simp
@[simp] theorem State.post_hbm (s : State) (n c d : Nat) : (s.post n c d).hbm = s.hbm := by simp [State.post]
@[simp] theorem State.hold_hbmTags (s : State) (n c d : Nat) : (s.hold n c d).hbmTags = s.hbmTags := by
  unfold State.hold; split <;> simp; split <;> simp
@[simp] theorem State.post_hbmTags (s : State) (n c d : Nat) : (s.post n c d).hbmTags = s.hbmTags := by simp [State.post]
@[simp] theorem State.hold_hbmPoison (s : State) (n c d : Nat) : (s.hold n c d).hbmPoison = s.hbmPoison := by
  unfold State.hold; split <;> simp; split <;> simp
@[simp] theorem State.post_hbmPoison (s : State) (n c d : Nat) : (s.post n c d).hbmPoison = s.hbmPoison := by simp [State.post]
@[simp] theorem State.hold_hbmErrs (s : State) (n c d : Nat) : (s.hold n c d).hbmErrs = s.hbmErrs := by
  unfold State.hold; split <;> simp; split <;> simp
@[simp] theorem State.post_hbmErrs (s : State) (n c d : Nat) : (s.post n c d).hbmErrs = s.hbmErrs := by simp [State.post]
@[simp] theorem State.hold_slc (s : State) (n c d : Nat) : (s.hold n c d).slc = s.slc := by
  unfold State.hold; split <;> simp; split <;> simp
@[simp] theorem State.post_slc (s : State) (n c d : Nat) : (s.post n c d).slc = s.slc := by simp [State.post]
@[simp] theorem State.hold_slcErrs (s : State) (n c d : Nat) : (s.hold n c d).slcErrs = s.slcErrs := by
  unfold State.hold; split <;> simp; split <;> simp
@[simp] theorem State.post_slcErrs (s : State) (n c d : Nat) : (s.post n c d).slcErrs = s.slcErrs := by simp [State.post]
@[simp] theorem State.hold_overlay (s : State) (n c d : Nat) : (s.hold n c d).overlay = s.overlay := by
  unfold State.hold; split <;> simp; split <;> simp
@[simp] theorem State.post_overlay (s : State) (n c d : Nat) : (s.post n c d).overlay = s.overlay := by simp [State.post]
@[simp] theorem State.hold_victims (s : State) (n c d : Nat) : (s.hold n c d).victims = s.victims := by
  unfold State.hold; split <;> simp; split <;> simp
@[simp] theorem State.post_victims (s : State) (n c d : Nat) : (s.post n c d).victims = s.victims := by simp [State.post]
@[simp] theorem State.hold_misses (s : State) (n c d : Nat) : (s.hold n c d).misses = s.misses := by
  unfold State.hold; split <;> simp; split <;> simp
@[simp] theorem State.post_misses (s : State) (n c d : Nat) : (s.post n c d).misses = s.misses := by simp [State.post]
@[simp] theorem State.hold_spaces (s : State) (n c d : Nat) : (s.hold n c d).spaces = s.spaces := by
  unfold State.hold; split <;> simp; split <;> simp
@[simp] theorem State.post_spaces (s : State) (n c d : Nat) : (s.post n c d).spaces = s.spaces := by simp [State.post]
@[simp] theorem State.hold_freeFrames (s : State) (n c d : Nat) : (s.hold n c d).freeFrames = s.freeFrames := by
  unfold State.hold; split <;> simp; split <;> simp
@[simp] theorem State.post_freeFrames (s : State) (n c d : Nat) : (s.post n c d).freeFrames = s.freeFrames := by simp [State.post]
@[simp] theorem State.hold_shadows (s : State) (n c d : Nat) : (s.hold n c d).shadows = s.shadows := by
  unfold State.hold; split <;> simp; split <;> simp
@[simp] theorem State.post_shadows (s : State) (n c d : Nat) : (s.post n c d).shadows = s.shadows := by simp [State.post]
@[simp] theorem State.hold_fills (s : State) (n c d : Nat) : (s.hold n c d).fills = s.fills := by
  unfold State.hold; split <;> simp; split <;> simp
@[simp] theorem State.post_fills (s : State) (n c d : Nat) : (s.post n c d).fills = s.fills := by simp [State.post]
@[simp] theorem State.hold_pairMap (s : State) (n c d : Nat) : (s.hold n c d).pairMap = s.pairMap := by
  unfold State.hold; split <;> simp; split <;> simp
@[simp] theorem State.post_pairMap (s : State) (n c d : Nat) : (s.post n c d).pairMap = s.pairMap := by simp [State.post]
@[simp] theorem State.hold_tasks (s : State) (n c d : Nat) : (s.hold n c d).tasks = s.tasks := by
  unfold State.hold; split <;> simp; split <;> simp
@[simp] theorem State.post_tasks (s : State) (n c d : Nat) : (s.post n c d).tasks = s.tasks := by simp [State.post]
@[simp] theorem State.hold_taskGen (s : State) (n c d : Nat) : (s.hold n c d).taskGen = s.taskGen := by
  unfold State.hold; split <;> simp; split <;> simp
@[simp] theorem State.post_taskGen (s : State) (n c d : Nat) : (s.post n c d).taskGen = s.taskGen := by simp [State.post]
@[simp] theorem State.hold_taskEnd (s : State) (n c d : Nat) : (s.hold n c d).taskEnd = s.taskEnd := by
  unfold State.hold; split <;> simp; split <;> simp
@[simp] theorem State.post_taskEnd (s : State) (n c d : Nat) : (s.post n c d).taskEnd = s.taskEnd := by simp [State.post]
@[simp] theorem State.hold_ready (s : State) (n c d : Nat) : (s.hold n c d).ready = s.ready := by
  unfold State.hold; split <;> simp; split <;> simp
@[simp] theorem State.post_ready (s : State) (n c d : Nat) : (s.post n c d).ready = s.ready := by simp [State.post]
@[simp] theorem State.hold_groups (s : State) (n c d : Nat) : (s.hold n c d).groups = s.groups := by
  unfold State.hold; split <;> simp; split <;> simp
@[simp] theorem State.post_groups (s : State) (n c d : Nat) : (s.post n c d).groups = s.groups := by simp [State.post]
@[simp] theorem State.hold_epochs (s : State) (n c d : Nat) : (s.hold n c d).epochs = s.epochs := by
  unfold State.hold; split <;> simp; split <;> simp
@[simp] theorem State.post_epochs (s : State) (n c d : Nat) : (s.post n c d).epochs = s.epochs := by simp [State.post]
@[simp] theorem State.hold_epochGen (s : State) (n c d : Nat) : (s.hold n c d).epochGen = s.epochGen := by
  unfold State.hold; split <;> simp; split <;> simp
@[simp] theorem State.post_epochGen (s : State) (n c d : Nat) : (s.post n c d).epochGen = s.epochGen := by simp [State.post]
@[simp] theorem State.hold_chans (s : State) (n c d : Nat) : (s.hold n c d).chans = s.chans := by
  unfold State.hold; split <;> simp; split <;> simp
@[simp] theorem State.post_chans (s : State) (n c d : Nat) : (s.post n c d).chans = s.chans := by simp [State.post]
@[simp] theorem State.hold_chanGen (s : State) (n c d : Nat) : (s.hold n c d).chanGen = s.chanGen := by
  unfold State.hold; split <;> simp; split <;> simp
@[simp] theorem State.post_chanGen (s : State) (n c d : Nat) : (s.post n c d).chanGen = s.chanGen := by simp [State.post]
@[simp] theorem State.hold_cmds (s : State) (n c d : Nat) : (s.hold n c d).cmds = s.cmds := by
  unfold State.hold; split <;> simp; split <;> simp
@[simp] theorem State.post_cmds (s : State) (n c d : Nat) : (s.post n c d).cmds = s.cmds := by simp [State.post]
@[simp] theorem State.hold_cmdGen (s : State) (n c d : Nat) : (s.hold n c d).cmdGen = s.cmdGen := by
  unfold State.hold; split <;> simp; split <;> simp
@[simp] theorem State.post_cmdGen (s : State) (n c d : Nat) : (s.post n c d).cmdGen = s.cmdGen := by simp [State.post]
@[simp] theorem State.hold_cmdSeq (s : State) (n c d : Nat) : (s.hold n c d).cmdSeq = s.cmdSeq := by
  unfold State.hold; split <;> simp; split <;> simp
@[simp] theorem State.post_cmdSeq (s : State) (n c d : Nat) : (s.post n c d).cmdSeq = s.cmdSeq := by simp [State.post]
@[simp] theorem State.hold_landing (s : State) (n c d : Nat) : (s.hold n c d).landing = s.landing := by
  unfold State.hold; split <;> simp; split <;> simp
@[simp] theorem State.post_landing (s : State) (n c d : Nat) : (s.post n c d).landing = s.landing := by simp [State.post]
@[simp] theorem State.hold_droneMail (s : State) (n c d : Nat) : (s.hold n c d).droneMail = s.droneMail := by
  unfold State.hold; split <;> simp; split <;> simp
@[simp] theorem State.post_droneMail (s : State) (n c d : Nat) : (s.post n c d).droneMail = s.droneMail := by simp [State.post]
@[simp] theorem State.hold_monitorMail (s : State) (n c d : Nat) : (s.hold n c d).monitorMail = s.monitorMail := by
  unfold State.hold; split <;> simp; split <;> simp
@[simp] theorem State.post_monitorMail (s : State) (n c d : Nat) : (s.post n c d).monitorMail = s.monitorMail := by simp [State.post]
@[simp] theorem State.hold_ports (s : State) (n c d : Nat) : (s.hold n c d).ports = s.ports := by
  unfold State.hold; split <;> simp; split <;> simp
@[simp] theorem State.post_ports (s : State) (n c d : Nat) : (s.post n c d).ports = s.ports := by simp [State.post]
@[simp] theorem State.hold_outbox (s : State) (n c d : Nat) : (s.hold n c d).outbox = s.outbox := by
  unfold State.hold; split <;> simp; split <;> simp
@[simp] theorem State.post_outbox (s : State) (n c d : Nat) : (s.post n c d).outbox = s.outbox := by simp [State.post]
@[simp] theorem State.hold_fabricDiscards (s : State) (n c d : Nat) : (s.hold n c d).fabricDiscards = s.fabricDiscards := by
  unfold State.hold; split <;> simp; split <;> simp
@[simp] theorem State.post_fabricDiscards (s : State) (n c d : Nat) : (s.post n c d).fabricDiscards = s.fabricDiscards := by simp [State.post]
@[simp] theorem State.hold_streams (s : State) (n c d : Nat) : (s.hold n c d).streams = s.streams := by
  unfold State.hold; split <;> simp; split <;> simp
@[simp] theorem State.post_streams (s : State) (n c d : Nat) : (s.post n c d).streams = s.streams := by simp [State.post]
@[simp] theorem State.hold_streamGen (s : State) (n c d : Nat) : (s.hold n c d).streamGen = s.streamGen := by
  unfold State.hold; split <;> simp; split <;> simp
@[simp] theorem State.post_streamGen (s : State) (n c d : Nat) : (s.post n c d).streamGen = s.streamGen := by simp [State.post]
@[simp] theorem State.hold_redGroups (s : State) (n c d : Nat) : (s.hold n c d).redGroups = s.redGroups := by
  unfold State.hold; split <;> simp; split <;> simp
@[simp] theorem State.post_redGroups (s : State) (n c d : Nat) : (s.post n c d).redGroups = s.redGroups := by simp [State.post]
@[simp] theorem State.hold_reds (s : State) (n c d : Nat) : (s.hold n c d).reds = s.reds := by
  unfold State.hold; split <;> simp; split <;> simp
@[simp] theorem State.post_reds (s : State) (n c d : Nat) : (s.post n c d).reds = s.reds := by simp [State.post]
@[simp] theorem State.hold_checks (s : State) (n c d : Nat) : (s.hold n c d).checks = s.checks := by
  unfold State.hold; split <;> simp; split <;> simp
@[simp] theorem State.post_checks (s : State) (n c d : Nat) : (s.post n c d).checks = s.checks := by simp [State.post]
@[simp] theorem State.hold_heldCtl (s : State) (n c d : Nat) : (s.hold n c d).heldCtl = s.heldCtl := by
  unfold State.hold; split <;> simp; split <;> simp
@[simp] theorem State.post_heldCtl (s : State) (n c d : Nat) : (s.post n c d).heldCtl = s.heldCtl := by simp [State.post]
@[simp] theorem State.hold_lateSeen (s : State) (n c d : Nat) : (s.hold n c d).lateSeen = s.lateSeen := by
  unfold State.hold; split <;> simp; split <;> simp
@[simp] theorem State.post_lateSeen (s : State) (n c d : Nat) : (s.post n c d).lateSeen = s.lateSeen := by simp [State.post]
@[simp] theorem State.hold_digests (s : State) (n c d : Nat) : (s.hold n c d).digests = s.digests := by
  unfold State.hold; split <;> simp; split <;> simp
@[simp] theorem State.post_digests (s : State) (n c d : Nat) : (s.post n c d).digests = s.digests := by simp [State.post]
@[simp] theorem State.hold_tenants (s : State) (n c d : Nat) : (s.hold n c d).tenants = s.tenants := by
  unfold State.hold; split <;> simp; split <;> simp
@[simp] theorem State.post_tenants (s : State) (n c d : Nat) : (s.post n c d).tenants = s.tenants := by simp [State.post]
@[simp] theorem State.hold_keySlots (s : State) (n c d : Nat) : (s.hold n c d).keySlots = s.keySlots := by
  unfold State.hold; split <;> simp; split <;> simp
@[simp] theorem State.post_keySlots (s : State) (n c d : Nat) : (s.post n c d).keySlots = s.keySlots := by simp [State.post]
@[simp] theorem State.hold_retired (s : State) (n c d : Nat) : (s.hold n c d).retired = s.retired := by
  unfold State.hold; split <;> simp; split <;> simp
@[simp] theorem State.post_retired (s : State) (n c d : Nat) : (s.post n c d).retired = s.retired := by simp [State.post]
@[simp] theorem State.hold_funcs (s : State) (n c d : Nat) : (s.hold n c d).funcs = s.funcs := by
  unfold State.hold; split <;> simp; split <;> simp
@[simp] theorem State.post_funcs (s : State) (n c d : Nat) : (s.post n c d).funcs = s.funcs := by simp [State.post]
@[simp] theorem State.hold_hostOut (s : State) (n c d : Nat) : (s.hold n c d).hostOut = s.hostOut := by
  unfold State.hold; split <;> simp; split <;> simp
@[simp] theorem State.post_hostOut (s : State) (n c d : Nat) : (s.post n c d).hostOut = s.hostOut := by simp [State.post]
@[simp] theorem State.hold_spdm (s : State) (n c d : Nat) : (s.hold n c d).spdm = s.spdm := by
  unfold State.hold; split <;> simp; split <;> simp
@[simp] theorem State.post_spdm (s : State) (n c d : Nat) : (s.post n c d).spdm = s.spdm := by simp [State.post]
@[simp] theorem State.hold_flash (s : State) (n c d : Nat) : (s.hold n c d).flash = s.flash := by
  unfold State.hold; split <;> simp; split <;> simp
@[simp] theorem State.post_flash (s : State) (n c d : Nat) : (s.post n c d).flash = s.flash := by simp [State.post]
@[simp] theorem State.hold_sources (s : State) (n c d : Nat) : (s.hold n c d).sources = s.sources := by
  unfold State.hold; split <;> simp; split <;> simp
@[simp] theorem State.post_sources (s : State) (n c d : Nat) : (s.post n c d).sources = s.sources := by simp [State.post]
@[simp] theorem State.hold_sapOut (s : State) (n c d : Nat) : (s.hold n c d).sapOut = s.sapOut := by
  unfold State.hold; split <;> simp; split <;> simp
@[simp] theorem State.post_sapOut (s : State) (n c d : Nat) : (s.post n c d).sapOut = s.sapOut := by simp [State.post]
@[simp] theorem State.hold_discovers (s : State) (n c d : Nat) : (s.hold n c d).discovers = s.discovers := by
  unfold State.hold; split <;> simp; split <;> simp
@[simp] theorem State.post_discovers (s : State) (n c d : Nat) : (s.post n c d).discovers = s.discovers := by simp [State.post]
@[simp] theorem State.hold_sapIn (s : State) (n c d : Nat) : (s.hold n c d).sapIn = s.sapIn := by
  unfold State.hold; split <;> simp; split <;> simp
@[simp] theorem State.post_sapIn (s : State) (n c d : Nat) : (s.post n c d).sapIn = s.sapIn := by simp [State.post]
@[simp] theorem State.hold_doe (s : State) (n c d : Nat) : (s.hold n c d).doe = s.doe := by
  unfold State.hold; split <;> simp; split <;> simp
@[simp] theorem State.post_doe (s : State) (n c d : Nat) : (s.post n c d).doe = s.doe := by simp [State.post]
@[simp] theorem State.hold_power (s : State) (n c d : Nat) : (s.hold n c d).power = s.power := by
  unfold State.hold; split <;> simp; split <;> simp
@[simp] theorem State.post_power (s : State) (n c d : Nat) : (s.post n c d).power = s.power := by simp [State.post]
@[simp] theorem State.hold_detectors (s : State) (n c d : Nat) : (s.hold n c d).detectors = s.detectors := by
  unfold State.hold; split <;> simp; split <;> simp
@[simp] theorem State.post_detectors (s : State) (n c d : Nat) : (s.post n c d).detectors = s.detectors := by simp [State.post]
@[simp] theorem State.hold_qlShare (s : State) (n c d : Nat) : (s.hold n c d).qlShare = s.qlShare := by
  unfold State.hold; split <;> simp; split <;> simp
@[simp] theorem State.post_qlShare (s : State) (n c d : Nat) : (s.post n c d).qlShare = s.qlShare := by simp [State.post]
@[simp] theorem State.hold_draws (s : State) (n c d : Nat) : (s.hold n c d).draws = s.draws := by
  unfold State.hold; split <;> simp; split <;> simp
@[simp] theorem State.post_draws (s : State) (n c d : Nat) : (s.post n c d).draws = s.draws := by simp [State.post]
@[simp] theorem State.hold_pending (s : State) (n c d : Nat) : (s.hold n c d).pending = s.pending := by
  unfold State.hold; split <;> simp; split <;> simp
@[simp] theorem State.post_pending (s : State) (n c d : Nat) : (s.post n c d).pending = s.pending := by simp [State.post]

end Sys2Proof.Machine
end

