-- ==== Sys2Proof/Laws/Memory.lean ====
section
/-!
SUPPORT. Laws/Memory.lean: memory keeps its canonical form, a read after a write of the same byte gives what was written, and every
other byte is as it was. The same for the tables of the state.
-/

namespace Sys2Proof.Machine

/-! ### Tables -/

theorem Tab.get?_put {α : Type} (t : Tab α) (i : Nat) (v : α) : Tab.get? (Tab.put t i v) i = some v := by
  induction t with
  | nil => simp [Tab.put, Tab.get?]
  | cons e t ih =>
    obtain ⟨k, w⟩ := e
    simp only [Tab.put]
    split
    · simp [Tab.get?]
    · split
      · simp [Tab.get?]
      · rename_i h1 h2
        simp [Tab.get?, h2, ih]

theorem Tab.get?_put_ne {α : Type} (t : Tab α) (i j : Nat) (v : α) (h : j ≠ i) :
    Tab.get? (Tab.put t i v) j = Tab.get? t j := by
  induction t with
  | nil => simp [Tab.put, Tab.get?, h]
  | cons e t ih =>
    obtain ⟨k, w⟩ := e
    simp only [Tab.put]
    split
    · simp [Tab.get?, h]
    · split
      · rename_i h1 h2
        subst h2
        simp [Tab.get?, h]
      · simp only [Tab.get?, ih]

/-- Every key of a table lies above a bound. -/
def Tab.above {α : Type} (k : Nat) (t : Tab α) : Prop := ∀ e ∈ t, k < e.1

theorem Tab.wf_cons {α : Type} (k : Nat) (w : α) (t : Tab α) :
    Tab.wf ((k, w) :: t) = true ↔ Tab.above k t ∧ Tab.wf t = true := by
  induction t generalizing k w with
  | nil => simp [Tab.wf, Tab.above]
  | cons e t ih =>
    obtain ⟨b, x⟩ := e
    simp only [Tab.wf, Bool.and_eq_true, decide_eq_true_eq]
    rw [ih b x]
    constructor
    · rintro ⟨h1, h2, h3⟩
      refine ⟨?_, h2, h3⟩
      intro y hy
      rcases List.mem_cons.mp hy with rfl | hy
      · exact h1
      · exact Nat.lt_trans h1 (h2 y hy)
    · rintro ⟨h1, h2, h3⟩
      exact ⟨h1 (b, x) (by simp), h2, h3⟩

theorem Tab.mem_put {α : Type} {t : Tab α} {i : Nat} {v : α} {e : Nat × α} (h : e ∈ Tab.put t i v) :
    e = (i, v) ∨ e ∈ t := by
  induction t with
  | nil => simpa [Tab.put] using h
  | cons a t ih =>
    obtain ⟨k, w⟩ := a
    simp only [Tab.put] at h
    split at h
    · simpa using h
    · split at h
      · rcases List.mem_cons.mp h with h | h <;> simp [h]
      · rcases List.mem_cons.mp h with h | h
        · simp [h]
        · rcases ih h with h | h <;> simp [h]

/-- Writing an entry keeps a table canonical. -/
theorem Tab.wf_put {α : Type} (t : Tab α) (i : Nat) (v : α) (h : Tab.wf t = true) : Tab.wf (Tab.put t i v) = true := by
  induction t with
  | nil => simp [Tab.put, Tab.wf]
  | cons a t ih =>
    obtain ⟨k, w⟩ := a
    have h0 := (Tab.wf_cons k w t).mp h
    simp only [Tab.put]
    split
    · rename_i hlt
      refine (Tab.wf_cons i v _).mpr ⟨?_, h⟩
      intro e he
      rcases List.mem_cons.mp he with rfl | he
      · exact hlt
      · exact Nat.lt_trans hlt (h0.1 e he)
    · split
      · rename_i _ heq
        subst heq
        exact (Tab.wf_cons i v t).mpr h0
      · rename_i h1 h2
        refine (Tab.wf_cons k w _).mpr ⟨?_, ih h0.2⟩
        intro e he
        rcases Tab.mem_put he with rfl | he
        · show k < i; omega
        · exact h0.1 e he

/-- A part of a canonical table is canonical. -/
theorem Tab.wf_filter {α : Type} (t : Tab α) (p : Nat × α → Bool) (h : Tab.wf t = true) :
    Tab.wf (List.filter p t) = true := by
  induction t with
  | nil => simpa using h
  | cons a t ih =>
    obtain ⟨k, w⟩ := a
    have h0 := (Tab.wf_cons k w t).mp h
    simp only [List.filter_cons]
    split
    · exact (Tab.wf_cons k w _).mpr ⟨fun e he => h0.1 e (List.mem_filter.mp he).1, ih h0.2⟩
    · exact ih h0.2

theorem Tab.wf_keep {α : Type} (t : Tab α) (p : Nat → α → Bool) (h : Tab.wf t = true) : Tab.wf (Tab.keep t p) = true :=
  Tab.wf_filter t _ h

theorem Tab.mem_del {α : Type} {t : Tab α} {i : Nat} {e : Nat × α} (h : e ∈ Tab.del t i) : e ∈ t := by
  induction t with
  | nil => simpa [Tab.del] using h
  | cons a t ih =>
    obtain ⟨k, w⟩ := a
    simp only [Tab.del] at h
    split at h
    · exact List.mem_cons_of_mem _ (ih h)
    · rcases List.mem_cons.mp h with h | h
      · simp [h]
      · exact List.mem_cons_of_mem _ (ih h)

theorem Tab.wf_del {α : Type} (t : Tab α) (i : Nat) (h : Tab.wf t = true) : Tab.wf (Tab.del t i) = true := by
  induction t with
  | nil => simp [Tab.del, Tab.wf]
  | cons a t ih =>
    obtain ⟨k, w⟩ := a
    have h0 := (Tab.wf_cons k w t).mp h
    simp only [Tab.del]
    split
    · exact ih h0.2
    · exact (Tab.wf_cons k w _).mpr ⟨fun e he => h0.1 e (Tab.mem_del he), ih h0.2⟩

theorem Tab.wf_mapV {α : Type} (t : Tab α) (f : Nat → α → α) (h : Tab.wf t = true) : Tab.wf (Tab.mapV t f) = true := by
  induction t with
  | nil => simp [Tab.mapV, Tab.wf]
  | cons a t ih =>
    obtain ⟨k, w⟩ := a
    have h0 := (Tab.wf_cons k w t).mp h
    simp only [Tab.mapV, List.map_cons]
    refine (Tab.wf_cons k _ _).mpr ⟨?_, ih h0.2⟩
    intro e he
    obtain ⟨x, hx, rfl⟩ := List.mem_map.mp he
    exact h0.1 x hx

theorem mark_wf (t : Tab Unit) (k : Nat) (b : Bool) (h : Tab.wf t = true) : Tab.wf (mark t k b) = true := by
  unfold mark
  split
  · exact Tab.wf_put t k () h
  · exact Tab.wf_del t k h

/-! ### Cells -/

theorem cellsWf_iff (cs : List Host.Cell) :
    cellsWf cs = true ↔ Tab.wf cs = true ∧ ∀ e ∈ cs, e.2 ≠ hbmDefault := by
  induction cs with
  | nil => simp [cellsWf, Tab.wf]
  | cons a t ih =>
    obtain ⟨k, b⟩ := a
    cases t with
    | nil => simp [cellsWf, Tab.wf]
    | cons c t =>
      obtain ⟨k2, b2⟩ := c
      simp only [cellsWf, Tab.wf, Bool.and_eq_true, bne_iff_ne, ne_eq, decide_eq_true_eq, ih]
      constructor
      · rintro ⟨⟨h1, h2⟩, h3, h4⟩
        refine ⟨⟨h2, h3⟩, ?_⟩
        intro e he
        rcases List.mem_cons.mp he with rfl | he
        · exact h1
        · exact h4 e he
      · rintro ⟨⟨h2, h3⟩, h4⟩
        exact ⟨⟨h4 (k, b) (by simp), h2⟩, h3, fun e he => h4 e (List.mem_cons_of_mem _ he)⟩

/-- Writing one byte is an entry of the table of cells, or its removal for the unlisted value. -/
theorem cellsPut_eq (cs : List Host.Cell) (a : Nat) (v : Byte) (h : Tab.wf cs = true) :
    cellsPut cs a v = if v = hbmDefault then Tab.del cs a else Tab.put cs a v := by
  induction cs with
  | nil => simp only [cellsPut, Tab.del, Tab.put]
  | cons e t ih =>
    obtain ⟨k, b⟩ := e
    have h0 := (Tab.wf_cons k b t).mp h
    have hd : ∀ i, i ≤ k → Tab.del t i = t := by
      intro i hi
      have : ∀ e ∈ t, e.1 ≠ i := fun e he => by have := h0.1 e he; omega
      clear ih h h0
      induction t with
      | nil => rfl
      | cons x t iht =>
        obtain ⟨kx, bx⟩ := x
        have h1 := this (kx, bx) (by simp)
        simp only [Tab.del]
        rw [if_neg (fun e => h1 e.symm), iht (fun e he => this e (List.mem_cons_of_mem _ he))]
    simp only [cellsPut, Tab.del, Tab.put, ih h0.2]
    by_cases h1 : a < k
    · by_cases hv : v = hbmDefault
      · simp [h1, hv, Nat.ne_of_lt h1, hd a (Nat.le_of_lt h1)]
      · simp [h1, hv]
    · by_cases h2 : a = k
      · by_cases hv : v = hbmDefault <;> simp [h2, hv, hd k (Nat.le_refl k)]
      · by_cases hv : v = hbmDefault <;> simp [h1, h2, hv]

/-- A write of one byte keeps the canonical form. -/
theorem cellsPut_wf (cs : List Host.Cell) (a : Nat) (v : Byte) (h : cellsWf cs = true) : cellsWf (cellsPut cs a v) = true := by
  obtain ⟨h1, h2⟩ := (cellsWf_iff cs).mp h
  rw [cellsPut_eq cs a v h1]
  refine (cellsWf_iff _).mpr ?_
  split
  · exact ⟨Tab.wf_del cs a h1, fun e he => h2 e (Tab.mem_del he)⟩
  · rename_i hv
    refine ⟨Tab.wf_put cs a v h1, fun e he => ?_⟩
    rcases Tab.mem_put he with rfl | he
    · exact hv
    · exact h2 e he

/-- A part of canonical cells is canonical. -/
theorem cellsFilter_wf (cs : List Host.Cell) (p : Host.Cell → Bool) (h : cellsWf cs = true) :
    cellsWf (cs.filter p) = true := by
  obtain ⟨h1, h2⟩ := (cellsWf_iff cs).mp h
  exact (cellsWf_iff _).mpr ⟨Tab.wf_filter cs p h1, fun e he => h2 e (List.mem_filter.mp he).1⟩

theorem cellsGet_eq (cs : List Host.Cell) (a : Nat) : cellsGet cs a = (Tab.get? cs a).getD hbmDefault := by
  induction cs with
  | nil => simp [cellsGet, Tab.get?]
  | cons e t ih =>
    obtain ⟨k, b⟩ := e
    simp only [cellsGet, Tab.get?]
    split <;> simp [ih]

theorem Tab.get?_none_of_above {α : Type} (k : Nat) (t : Tab α) (h : Tab.above k t) (i : Nat) (hi : i ≤ k) :
    Tab.get? t i = none := by
  induction t with
  | nil => rfl
  | cons e t ih =>
    obtain ⟨kx, x⟩ := e
    have h1 := h (kx, x) (by simp)
    simp only at h1
    simp only [Tab.get?]
    rw [if_neg (by omega)]
    exact ih (fun e he => h e (List.mem_cons_of_mem _ he))

theorem Tab.get?_del {α : Type} (t : Tab α) (i : Nat) : Tab.get? (Tab.del t i) i = none := by
  induction t with
  | nil => rfl
  | cons e t ih =>
    obtain ⟨k, w⟩ := e
    simp only [Tab.del]
    split
    · exact ih
    · rename_i he
      simp [Tab.get?, he, ih]

theorem Tab.get?_del_ne {α : Type} (t : Tab α) (i j : Nat) (h : j ≠ i) : Tab.get? (Tab.del t i) j = Tab.get? t j := by
  induction t with
  | nil => rfl
  | cons e t ih =>
    obtain ⟨k, w⟩ := e
    simp only [Tab.del]
    split
    · rename_i he
      subst he
      simp [Tab.get?, h, ih]
    · simp only [Tab.get?, ih]

/-- A byte reads as it was written. -/
theorem cellsGet_cellsPut (cs : List Host.Cell) (a : Nat) (v : Byte) (h : cellsWf cs = true) :
    cellsGet (cellsPut cs a v) a = v := by
  have h1 := ((cellsWf_iff cs).mp h).1
  rw [cellsGet_eq, cellsPut_eq cs a v h1]
  split
  · rename_i hv
    simp [Tab.get?_del cs a, hv]
  · simp [Tab.get?_put]

/-- A write of one byte leaves every other byte as it was. -/
theorem cellsGet_cellsPut_ne (cs : List Host.Cell) (a b : Nat) (v : Byte) (h : cellsWf cs = true) (hb : b ≠ a) :
    cellsGet (cellsPut cs a v) b = cellsGet cs b := by
  have h1 := ((cellsWf_iff cs).mp h).1
  rw [cellsGet_eq, cellsPut_eq cs a v h1, cellsGet_eq]
  split
  · rw [Tab.get?_del_ne cs a b hb]
  · rw [Tab.get?_put_ne cs a b v hb]

theorem putBytes_wf (base data mask n : Nat) (cs : List Host.Cell) (h : cellsWf cs = true) :
    cellsWf (putBytes base data mask n cs) = true := by
  induction n with
  | zero => exact h
  | succ n ih =>
    simp only [putBytes]
    split
    · exact cellsPut_wf _ _ _ ih
    · exact ih

theorem foldPut_wf {α : Type} (l : List α) (k : α → Nat) (v : α → Byte) (cs : List Host.Cell) (h : cellsWf cs = true) :
    cellsWf (l.foldl (fun cs e => cellsPut cs (k e) (v e)) cs) = true := by
  induction l generalizing cs with
  | nil => exact h
  | cons e l ih => exact ih _ (cellsPut_wf _ _ _ h)

/-! ### The operations on HBM -/

/-- A write of the bytes of a line keeps the canonical form. -/
theorem hbmWrite_wf (s : State) (ln mask data tags poison : Nat) (h : Memory.wf s = true) :
    Memory.wf (hbmWrite s ln mask data tags poison) = true := by
  unfold hbmWrite
  split
  · exact h
  · exact putBytes_wf _ _ _ _ _ h

theorem hbmStore_wf (s : State) (space ln mask data tags poison : Nat) (h : Memory.wf s = true) :
    Memory.wf (hbmStore s space ln mask data tags poison) = true := by
  have := hbmWrite_wf s ln mask data tags poison h
  unfold Memory.wf at *
  simpa [hbmStore] using this

/-- A zero-fill keeps the canonical form. -/
theorem zeroPhys_wf (s : State) (pa n : Nat) (h : Memory.wf s = true) : Memory.wf (zeroPhys s pa n) = true :=
  cellsFilter_wf _ _ h

/-- Correction of HBM keeps the canonical form. -/
theorem countFold_hbm {α : Type} (l : List α) (sp : State → α → Nat) (k : Nat) (s : State) :
    (l.foldl (fun (st : State) e => st.count (sp st e) k 1) s).hbm = s.hbm := by
  induction l generalizing s with
  | nil => rfl
  | cons e l ih => simp [List.foldl_cons, ih]

theorem repairHbm_wf (s : State) (f : Bool) (hit : Nat → Bool) (h : Memory.wf s = true) :
    Memory.wf (repairHbm s f hit).1 = true := by
  unfold repairHbm
  split
  · exact h
  · unfold Memory.wf at *
    simp only [countFold_hbm]
    exact foldPut_wf _ _ _ _ h

/-- The memory of a module after reset has the canonical form. -/
theorem reset_memory_wf : Memory.wf State.reset = true := rfl

end Sys2Proof.Machine
end

