-- ==== Sys2Proof/Laws/Run.lean ====
section
/-!
SUPPORT. Laws/Run.lean: how an instruction runs around its meaning, and what the shared register operations do.
-/

namespace Sys2Proof.Machine

/-! ### The monad of a meaning -/

@[simp] theorem M.pure_run {α : Type} (a : α) (s : State) : (pure a : M α) s = .ok a s := rfl
@[simp] theorem M.bind_run {α β : Type} (m : M α) (f : α → M β) (s : State) :
    (m >>= f) s = match m s with
      | .ok a s1 => f a s1
      | .error e s1 => .error e s1 := by
  show EStateM.bind m f s = _
  unfold EStateM.bind
  cases m s <;> rfl
@[simp] theorem getS_run (s : State) : getS s = .ok s s := rfl
@[simp] theorem setS_run (v s : State) : setS v s = .ok () v := rfl
@[simp] theorem modS_run (f : State → State) (s : State) : modS f s = .ok () (f s) := rfl
@[simp] theorem runS_run {α : Type} (f : State → α × State) (s : State) : runS f s = .ok (f s).1 (f s).2 := rfl
@[simp] theorem raise_run {α : Type} (v d a : Nat) (s : State) : (raise v d a : M α) s = .error (.exc ⟨v, d, a⟩) s := rfl
@[simp] theorem waitFor_run {α : Type} (w : WaitOn) (s : State) : (waitFor w : M α) s = .error (.wait w) s := rfl
@[simp] theorem pauseM_run {α : Type} (s : State) : (pauseM : M α) s = .error .pause s := rfl
@[simp] theorem getT_run (t : Tid) (s : State) : getT t s = .ok (s.th t) s := rfl
@[simp] theorem modT_run (t : Tid) (f : Thread → Thread) (s : State) : modT t f s = .ok () (s.setTh t (f (s.th t))) := rfl
@[simp] theorem getC_run (c : CoreId) (s : State) : getC c s = .ok (s.core c) s := rfl
@[simp] theorem modC_run (c : CoreId) (f : Core → Core) (s : State) : modC c f s = .ok () (s.setCore c (f (s.core c))) := rfl
@[simp] theorem greg_run (t : Tid) (r : RIdx) (s : State) : greg t r s = .ok ((s.th t).g r) s := rfl
@[simp] theorem wr_run (t : Tid) (r : RIdx) (v : Reg) (s : State) :
    wr t r v s = .ok () (s.setTh t ((s.th t).write r v)) := rfl
@[simp] theorem wrPair_run (t : Tid) (r : RIdx) (p : Pair) (s : State) :
    wrPair t r p s = .ok () (s.setTh t ((s.th t).writePair r p)) := rfl
@[simp] theorem plain_run (body : M Unit) (s : State) :
    plain body s = match body s with
      | .ok _ s1 => .ok none s1
      | .error e s1 => .error e s1 := by
  show (body >>= fun _ => pure none) s = _
  rw [M.bind_run]; cases body s <;> rfl

/-! ### One instruction -/

/-- The state in which the meaning starts: the iteration counter is 0 unless the instruction resumes (R99). -/
def startState (t : Tid) (resumable : Bool) (s : State) : State :=
  if resumable then s else s.setTh t { s.th t with iter := 0 }

@[simp] theorem startState_false (t : Tid) (s : State) : startState t false s = s.setTh t { s.th t with iter := 0 } := rfl
@[simp] theorem startState_true (t : Tid) (s : State) : startState t true s = s := rfl

theorem runInstr_run {t : Tid} {i : InstrInfo} {body : M (Option Word)} {s s1 : State} (h : Fetches t i.len i.ext s s1) :
    runInstr t i body s = match body (startState t i.resumable s1) with
      | .ok target s2 => .next (advance t i.len target s2)
      | .error (.exc e) s2 => .next (takeTrap t ⟨e.vector, e.detail, e.faddr, i.pfx, i.ext, false, false⟩ s2)
      | .error (.wait w) s2 => .next (setWaiting (markStop s2 t i.pfx i.ext) t w i.self)
      | .error .pause s2 => .next (markStop s2 t i.pfx i.ext)
      | .error (.stop f) _ => .fault f := by
  obtain ⟨h1, h2, h3⟩ := h
  unfold runInstr
  rw [h1, h2]
  simp only [Bool.not_true, Bool.or_self, Bool.false_eq_true, if_false, M.bind_run, h3]
  cases hr : i.resumable <;> simp [startIter, startState] <;> rfl

/-- An instruction whose meaning ends well completes: PC advances or takes the target. -/
theorem runInstr_ok {t : Tid} {i : InstrInfo} {body : M (Option Word)} {s s1 s2 : State} {target : Option Word}
    (h : Fetches t i.len i.ext s s1) (hb : body (startState t i.resumable s1) = .ok target s2) :
    runInstr t i body s = .next (advance t i.len target s2) := by
  rw [runInstr_run h, hb]

/-- An instruction whose meaning raises an exception takes it. -/
theorem runInstr_exc {t : Tid} {i : InstrInfo} {body : M (Option Word)} {s s1 s2 : State} {e : Exc}
    (h : Fetches t i.len i.ext s s1) (hb : body (startState t i.resumable s1) = .error (.exc e) s2) :
    runInstr t i body s = .next (takeTrap t ⟨e.vector, e.detail, e.faddr, i.pfx, i.ext, false, false⟩ s2) := by
  rw [runInstr_run h, hb]

/-- A thread that may not issue is left as it is. -/
theorem runInstr_idle {t : Tid} {i : InstrInfo} {body : M (Option Word)} {s : State}
    (h : (s.th t).eligible = false ∨ coreStopped s (t.val / 16) = true) : runInstr t i body s = .next s := by
  unfold runInstr
  rcases h with h | h <;> simp [h]

/-- The advance after a write of the thread is `done`. -/
theorem advance_setTh (t : Tid) (len : Nat) (s : State) (th : Thread) :
    advance t len none (s.setTh t th) =
      s.setTh t { th with pc := th.pc + BitVec.ofNat 64 len, iter := 0, inRepn := false, stopPfx := false, stopExt := false } := by
  simp [advance]

/-! ### The operand checks -/

/-- The checks pass when no operand fails and none traps. -/
theorem checkOps_ok {os : List Opnd} {s : State} (h1 : ∀ o ∈ os, o.bad = false) (h2 : ∀ o ∈ os, o.traps = false) :
    checkOps os s = .ok () s := by
  have hl : ∀ (p : Opnd → Bool) (l : List Opnd), (∀ o ∈ l, p o = false) → lowestSlot p l = none := by
    intro p l
    induction l with
    | nil => intro _; rfl
    | cons o l ih =>
      intro h
      simp [lowestSlot, ih (fun x hx => h x (List.mem_cons_of_mem _ hx)), h o (by simp)]
  simp [checkOps, hl _ os h1, hl _ os h2]

/-- An operand of a class that takes its tag neither fails nor traps. -/
theorem opnd_ok {slot : Nat} {c : OpClass} {r : Reg} (h : c.accepts r.tag = true) (hp : r.tag ≠ .poison) :
    (opnd slot c r).bad = false ∧ (opnd slot c r).traps = false := by
  constructor
  · cases ht : r.tag <;> simp_all [opnd, Opnd.bad]
  · simp [opnd, Opnd.traps, hp]

/-! ### Register operations -/

theorem write_iter (th : Thread) (r : RIdx) (v : Reg) (n : BitVec 32) :
    ({ th with iter := n } : Thread).write r v = { th.write r v with iter := n } := rfl

theorem g_iter (th : Thread) (r : RIdx) (n : BitVec 32) : ({ th with iter := n } : Thread).g r = th.g r := rfl

/-- A meaning that only writes the thread leaves the state that `done` names. -/
theorem advance_done (t : Tid) (len : Nat) (s : State) (th : Thread) (h : th.pc = (s.th t).pc) :
    advance t len none ((s.setTh t { s.th t with iter := 0 }).setTh t { th with iter := 0 }) = done t len s th := by
  simp [advance_setTh, done, h]

/-- UNARY: a source of its class, POISON aside, gives the result in rd. -/
theorem unary_ok {t : Tid} {rd rs1 : RIdx} {c : OpClass} {f : Reg → Reg} {len : Nat} {ext : Bool} {s s1 : State}
    (h : Fetches t len ext s s1) (ha : c.accepts ((s1.th t).g rs1).tag = true) (hp : ((s1.th t).g rs1).tag ≠ .poison) :
    runInstr t { len := len, ext := ext } (plain (unary t rd rs1 c f)) s =
      .next (done t len s1 ((s1.th t).write rd (f ((s1.th t).g rs1)))) := by
  have h1 := opnd_ok (slot := 1) ha hp
  have hb : plain (unary t rd rs1 c f) (startState t false s1) = .ok none
      ((s1.setTh t { s1.th t with iter := 0 }).setTh t { (s1.th t).write rd (f ((s1.th t).g rs1)) with iter := 0 }) := by
    simp only [plain_run, unary, M.bind_run, greg_run, startState_false, State.th_setTh, g_iter, wr_run]
    rw [checkOps_ok (by simpa using h1.1) (by simpa using h1.2)]
    simp [hp, orPoison]
    rfl
  rw [runInstr_ok (i := { len := len, ext := ext }) h hb]
  exact congrArg _ (advance_done t len s1 _ rfl)

/-- BINARY: two sources of the class, POISON aside, give the result in rd. -/
theorem binary_ok {t : Tid} {rd rs1 rs2 : RIdx} {c : OpClass} {f : Reg → Reg → Reg} {len : Nat} {ext : Bool} {s s1 : State}
    (h : Fetches t len ext s s1)
    (ha : c.accepts ((s1.th t).g rs1).tag = true) (hp : ((s1.th t).g rs1).tag ≠ .poison)
    (hb : c.accepts ((s1.th t).g rs2).tag = true) (hq : ((s1.th t).g rs2).tag ≠ .poison) :
    runInstr t { len := len, ext := ext } (plain (binary t rd rs1 rs2 c f)) s =
      .next (done t len s1 ((s1.th t).write rd (f ((s1.th t).g rs1) ((s1.th t).g rs2)))) := by
  have h1 := opnd_ok (slot := 1) ha hp
  have h2 := opnd_ok (slot := 2) hb hq
  have hr : plain (binary t rd rs1 rs2 c f) (startState t false s1) = .ok none
      ((s1.setTh t { s1.th t with iter := 0 }).setTh t
        { (s1.th t).write rd (f ((s1.th t).g rs1) ((s1.th t).g rs2)) with iter := 0 }) := by
    simp only [plain_run, binary, M.bind_run, greg_run, startState_false, State.th_setTh, g_iter, wr_run]
    rw [checkOps_ok (by simpa using ⟨h1.1, h2.1⟩) (by simpa using ⟨h1.2, h2.2⟩)]
    simp [hp, hq, orPoison]
    rfl
  rw [runInstr_ok (i := { len := len, ext := ext }) h hr]
  exact congrArg _ (advance_done t len s1 _ rfl)

/-- TERNARY: three sources of the class, POISON aside, give the result in rd. -/
theorem ternary_ok {t : Tid} {rd rs1 rs2 rs3 : RIdx} {c : OpClass} {f : Reg → Reg → Reg → Reg} {len : Nat} {ext : Bool}
    {s s1 : State} (h : Fetches t len ext s s1)
    (ha : c.accepts ((s1.th t).g rs1).tag = true) (hp : ((s1.th t).g rs1).tag ≠ .poison)
    (hb : c.accepts ((s1.th t).g rs2).tag = true) (hq : ((s1.th t).g rs2).tag ≠ .poison)
    (hc : c.accepts ((s1.th t).g rs3).tag = true) (hz : ((s1.th t).g rs3).tag ≠ .poison) :
    runInstr t { len := len, ext := ext } (plain (ternary t rd rs1 rs2 rs3 c f)) s =
      .next (done t len s1 ((s1.th t).write rd (f ((s1.th t).g rs1) ((s1.th t).g rs2) ((s1.th t).g rs3)))) := by
  have h1 := opnd_ok (slot := 1) ha hp
  have h2 := opnd_ok (slot := 2) hb hq
  have h3 := opnd_ok (slot := 3) hc hz
  have hr : plain (ternary t rd rs1 rs2 rs3 c f) (startState t false s1) = .ok none
      ((s1.setTh t { s1.th t with iter := 0 }).setTh t
        { (s1.th t).write rd (f ((s1.th t).g rs1) ((s1.th t).g rs2) ((s1.th t).g rs3)) with iter := 0 }) := by
    simp only [plain_run, ternary, M.bind_run, greg_run, startState_false, State.th_setTh, g_iter, wr_run]
    rw [checkOps_ok (by simpa using ⟨h1.1, h2.1, h3.1⟩) (by simpa using ⟨h1.2, h2.2, h3.2⟩)]
    simp [hp, hq, hz, orPoison]
    rfl
  rw [runInstr_ok (i := { len := len, ext := ext }) h hr]
  exact congrArg _ (advance_done t len s1 _ rfl)

end Sys2Proof.Machine
end

