-- ==== Sys2Proof/Laws/Stops.lean ====
section
/-!
SUPPORT. Laws/Stops.lean: a Stop that is read after it is set gives the value set, and every other Stop is as it was; what counters,
the log, events and alerts do to Stops; and what the completion of a host command does.
-/

namespace Sys2Proof.Machine

/-! ### The table of Stops -/

/-- The value of a Stop by its key. -/
def State.stopAt (s : State) (key dflt : Nat) : Nat :=
  match Tab.get? s.stops key with
  | some c => c.val
  | none => dflt

theorem State.dev_eq (s : State) (i j : Nat) : s.dev i j = s.stopAt (devKey i j) (stopDefault i j) := rfl
theorem State.ten_eq (s : State) (n i j : Nat) : s.ten n i j = s.stopAt (tenKey n i j) (stopDefault i j) := rfl

theorem State.stopAt_putStop (s : State) (k d v : Nat) : (s.putStop k d v).stopAt k d = v := by
  unfold State.putStop
  split
  · rename_i c hc
    split
    · rename_i h; simp [State.stopAt, hc, h]
    · simp [State.stopAt, Tab.get?_put]
  · rename_i hc
    split
    · rename_i h; simp [State.stopAt, hc, h]
    · simp [State.stopAt, Tab.get?_put]

theorem State.stopAt_putStop_ne (s : State) (k d v k' d' : Nat) (h : k' ≠ k) :
    (s.putStop k d v).stopAt k' d' = s.stopAt k' d' := by
  unfold State.putStop
  split <;> split <;> simp [State.stopAt, Tab.get?_put_ne _ _ _ _ h]

@[simp] theorem State.dev_setDev (s : State) (i j v : Nat) : (s.setDev i j v).dev i j = v := State.stopAt_putStop s _ _ v
@[simp] theorem State.ten_setTen (s : State) (n i j v : Nat) : (s.setTen n i j v).ten n i j = v := State.stopAt_putStop s _ _ v

theorem State.dev_setDev_ne (s : State) (i j v i' j' : Nat) (h : devKey i' j' ≠ devKey i j) :
    (s.setDev i j v).dev i' j' = s.dev i' j' := State.stopAt_putStop_ne s _ _ v _ _ h
theorem State.ten_setTen_ne (s : State) (n i j v n' i' j' : Nat) (h : tenKey n' i' j' ≠ tenKey n i j) :
    (s.setTen n i j v).ten n' i' j' = s.ten n' i' j' := State.stopAt_putStop_ne s _ _ v _ _ h
theorem State.dev_setTen (s : State) (n i j v i' j' : Nat) (h : devKey i' j' ≠ tenKey n i j) :
    (s.setTen n i j v).dev i' j' = s.dev i' j' := State.stopAt_putStop_ne s _ _ v _ _ h
theorem State.ten_setDev (s : State) (i j v n' i' j' : Nat) (h : tenKey n' i' j' ≠ devKey i j) :
    (s.setDev i j v).ten n' i' j' = s.ten n' i' j' := State.stopAt_putStop_ne s _ _ v _ _ h

/-- A device-wide Stop of the index map is no Stop of a tenancy's window. -/
theorem devKey_ne_tenKey (i j n i' j' : Nat) (h : devKey i j < 2 ^ 24) : devKey i j ≠ tenKey n i' j' := by
  unfold devKey tenKey at *; omega
theorem tenKey_ne_devKey (n i j i' j' : Nat) (h : devKey i' j' < 2 ^ 24) : tenKey n i j ≠ devKey i' j' :=
  (devKey_ne_tenKey i' j' n i j h).symm
/-- Two Stops of the map have different keys. -/
theorem devKey_ne (i j i' j' : Nat) (hj : j < 256) (hj' : j' < 256) (h : i ≠ i' ∨ j ≠ j') : devKey i j ≠ devKey i' j' := by
  unfold devKey; omega
theorem tenKey_ne (n i j n' i' j' : Nat) (hi : i < 65536) (hi' : i' < 65536) (hj : j < 256) (hj' : j' < 256)
    (h : n ≠ n' ∨ i ≠ i' ∨ j ≠ j') : tenKey n i j ≠ tenKey n' i' j' := by
  unfold tenKey; omega

/-! ### Whatever leaves the table of Stops alone -/

theorem State.dev_congr {s s' : State} (h : s'.stops = s.stops) (i j : Nat) : s'.dev i j = s.dev i j := by simp [State.dev, h]
theorem State.ten_congr {s s' : State} (h : s'.stops = s.stops) (n i j : Nat) : s'.ten n i j = s.ten n i j := by simp [State.ten, h]

@[simp] theorem State.dev_setTh (s : State) (t : Tid) (th : Thread) (i j : Nat) : (s.setTh t th).dev i j = s.dev i j := rfl
@[simp] theorem State.ten_setTh (s : State) (t : Tid) (th : Thread) (n i j : Nat) : (s.setTh t th).ten n i j = s.ten n i j := rfl
@[simp] theorem State.dev_setCore (s : State) (c : CoreId) (k : Core) (i j : Nat) : (s.setCore c k).dev i j = s.dev i j := rfl
@[simp] theorem State.ten_setCore (s : State) (c : CoreId) (k : Core) (n i j : Nat) : (s.setCore c k).ten n i j = s.ten n i j := rfl
@[simp] theorem State.dev_setSp (s : State) (m : Fin 17) (v : Space) (i j : Nat) : (s.setSp m v).dev i j = s.dev i j := rfl
@[simp] theorem State.ten_setSp (s : State) (m : Fin 17) (v : Space) (n i j : Nat) : (s.setSp m v).ten n i j = s.ten n i j := rfl
@[simp] theorem State.dev_setFn (s : State) (f : Fin 16) (v : Func) (i j : Nat) : (s.setFn f v).dev i j = s.dev i j := rfl
@[simp] theorem State.ten_setFn (s : State) (f : Fin 16) (v : Func) (n i j : Nat) : (s.setFn f v).ten n i j = s.ten n i j := rfl
@[simp] theorem State.dev_setPort (s : State) (p : Fin 16) (v : Port) (i j : Nat) : (s.setPort p v).dev i j = s.dev i j := rfl
@[simp] theorem State.ten_setPort (s : State) (p : Fin 16) (v : Port) (n i j : Nat) : (s.setPort p v).ten n i j = s.ten n i j := rfl
@[simp] theorem State.dev_setTenant (s : State) (m : Nat) (v : Tenant) (i j : Nat) : (s.setTenant m v).dev i j = s.dev i j := rfl
@[simp] theorem State.ten_setTenant (s : State) (m : Nat) (v : Tenant) (n i j : Nat) : (s.setTenant m v).ten n i j = s.ten n i j := rfl
@[simp] theorem State.dev_hostWrite (s : State) (a : Nat) (b : Blob) (i j : Nat) : (s.hostWrite a b).dev i j = s.dev i j := rfl
@[simp] theorem State.ten_hostWrite (s : State) (a : Nat) (b : Blob) (n i j : Nat) : (s.hostWrite a b).ten n i j = s.ten n i j := rfl
@[simp] theorem State.dev_pow (s : State) (f : Power → Power) (i j : Nat) : (s.pow f).dev i j = s.dev i j := rfl
@[simp] theorem State.ten_pow (s : State) (f : Power → Power) (n i j : Nat) : (s.pow f).ten n i j = s.ten n i j := rfl

/-! ### Counters, the log and events -/

theorem State.dev_countDev (s : State) (sub n : Nat) : (s.countDev sub n).dev 0x9000 sub = s.dev 0x9000 sub + n := by simp [State.countDev]
theorem State.dev_countDev_ne (s : State) (sub n i j : Nat) (h : devKey i j ≠ devKey 0x9000 sub) :
    (s.countDev sub n).dev i j = s.dev i j := State.dev_setDev_ne s _ _ _ _ _ h
theorem State.ten_countDev (s : State) (sub n m i j : Nat) (h : sub < 256) : (s.countDev sub n).ten m i j = s.ten m i j :=
  State.ten_setDev s _ _ _ _ _ _ (tenKey_ne_devKey _ _ _ _ _ (by unfold devKey; omega))

/-- A counter of the device bank rises with that of the space. -/
theorem State.dev_count (s : State) (space sub n : Nat) (h : sub < 256) : (s.count space sub n).dev 0x9000 sub = s.dev 0x9000 sub + n := by
  unfold State.count
  split
  · simp [*]
  · split
    · rw [State.dev_setTen _ _ _ _ _ _ _ (devKey_ne_tenKey _ _ _ _ _ (by unfold devKey; omega))]; simp
    · simp
theorem State.dev_count_ne (s : State) (space sub n i j : Nat) (hk : devKey i j < 2 ^ 24) (h : devKey i j ≠ devKey 0x9000 sub) :
    (s.count space sub n).dev i j = s.dev i j := by
  unfold State.count
  split
  · rfl
  · split
    · rw [State.dev_setTen _ _ _ _ _ _ _ (devKey_ne_tenKey _ _ _ _ _ hk), State.dev_setDev_ne _ _ _ _ _ _ h]
    · rw [State.dev_setDev_ne _ _ _ _ _ _ h]
theorem State.ten_count (s : State) (space sub n : Nat) (h : sub < 256) (hs : space < 16) :
    (s.count space sub n).ten space 0xC090 sub = s.ten space 0xC090 sub + n := by
  unfold State.count
  split
  · simp [*]
  · rw [State.ten_setTen]
    rw [State.ten_setDev _ _ _ _ _ _ _ (tenKey_ne_devKey _ _ _ _ _ (by unfold devKey; omega))]
theorem State.ten_count_ne (s : State) (space sub n m i j : Nat) (h : sub < 256) (hk : tenKey m i j ≠ tenKey space 0xC090 sub) :
    (s.count space sub n).ten m i j = s.ten m i j := by
  have hd : tenKey m i j ≠ devKey 0x9000 sub := tenKey_ne_devKey _ _ _ _ _ (by unfold devKey; omega)
  unfold State.count
  split
  · rfl
  · split
    · rw [State.ten_setTen_ne _ _ _ _ _ _ _ _ hk, State.ten_setDev _ _ _ _ _ _ _ hd]
    · rw [State.ten_setDev _ _ _ _ _ _ _ hd]

/-- The log's own Stops are the only ones that an entry changes. -/
theorem State.dev_log (s : State) (code d i j : Nat) (h : ∀ k < 256, devKey i j ≠ devKey 0xF010 k) (h1 : devKey i j ≠ devKey 0xF011 0) :
    (s.log code d).dev i j = s.dev i j := by
  unfold State.log
  rw [State.dev_setDev_ne _ _ _ _ _ _ h1, State.dev_setDev_ne _ _ _ _ _ _ (h _ (Nat.mod_lt _ (by decide)))]
@[simp] theorem State.dev_log_count (s : State) (code d : Nat) : (s.log code d).dev 0xF011 0 = (s.dev 0xF011 0 + 1) % 2 ^ 32 := by
  simp [State.log]
@[simp] theorem State.ten_log (s : State) (code d n i j : Nat) : (s.log code d).ten n i j = s.ten n i j := by
  unfold State.log
  rw [State.ten_setDev _ _ _ _ _ _ _ (tenKey_ne_devKey _ _ _ _ _ (by decide)),
    State.ten_setDev _ _ _ _ _ _ _ (tenKey_ne_devKey _ _ _ _ _ (by unfold devKey; omega))]
@[simp] theorem State.ten_hold (s : State) (m code d n i j : Nat) : (s.hold m code d).ten n i j = s.ten n i j := by
  unfold State.hold
  split
  · dsimp only
    split
    · rfl
    · rw [State.ten_countDev _ _ _ _ _ _ (by decide)]; rfl
  · rfl
theorem State.dev_hold (s : State) (m code d i j : Nat) (h : devKey i j ≠ devKey 0x9000 0x43) : (s.hold m code d).dev i j = s.dev i j := by
  unfold State.hold
  split
  · dsimp only
    split
    · rfl
    · rw [State.dev_countDev_ne _ _ _ _ _ h]; rfl
  · rfl
@[simp] theorem State.ten_post (s : State) (m code d n i j : Nat) : (s.post m code d).ten n i j = s.ten n i j := by simp [State.post]
theorem State.dev_post (s : State) (m code d i j : Nat) (h : ∀ k < 256, devKey i j ≠ devKey 0xF010 k) (h1 : devKey i j ≠ devKey 0xF011 0)
    (h2 : devKey i j ≠ devKey 0x9000 0x43) : (s.post m code d).dev i j = s.dev i j := by
  rw [State.post, State.dev_hold _ _ _ _ _ _ h2, State.dev_log _ _ _ _ _ h h1]
/-- An event that finds room stands last for its tenancy. -/
theorem State.hold_events (s : State) (n : Fin 16) (code d : Nat) (h : s.events[n.val].length < 256) :
    (s.hold n.val code d).events = s.events.set n.val (s.events[n.val] ++ [⟨code, d⟩]) := by simp [State.hold, n.isLt, h]

/-! ### Free log entries and alerts -/

theorem drawBits_eq (n : Nat) (s : State) : (drawBits n s).2 = { s with draws := s.draws + n } := by
  induction n generalizing s with
  | zero => rfl
  | succ n ih => simp only [drawBits, drawFree, ih]; congr 1; omega
/-- A free log entry: five free words drawn, one entry in the log. -/
theorem logFree_eq (s : State) : logFree s =
    ({ s with draws := s.draws + 5 } : State).log ((Config.freeWord s.draws).toNat % 65536) (drawBits 4 { s with draws := s.draws + 1 }).1 := by
  unfold logFree
  simp only [drawFree, drawBits_eq]
@[simp] theorem logFree_threads (s : State) : (logFree s).threads = s.threads := by rw [logFree_eq]; simp
@[simp] theorem logFree_hbm (s : State) : (logFree s).hbm = s.hbm := by rw [logFree_eq]; simp
@[simp] theorem logFree_power (s : State) : (logFree s).power = s.power := by rw [logFree_eq]; simp
@[simp] theorem logFree_funcs (s : State) : (logFree s).funcs = s.funcs := by rw [logFree_eq]; simp
@[simp] theorem logFree_events (s : State) : (logFree s).events = s.events := by rw [logFree_eq]; simp
@[simp] theorem logFree_pending (s : State) : (logFree s).pending = s.pending := by rw [logFree_eq]; simp
@[simp] theorem logFree_ten (s : State) (n i j : Nat) : (logFree s).ten n i j = s.ten n i j := by rw [logFree_eq, State.ten_log]; rfl
theorem logFree_dev (s : State) (i j : Nat) (h : ∀ k < 256, devKey i j ≠ devKey 0xF010 k) (h1 : devKey i j ≠ devKey 0xF011 0) :
    (logFree s).dev i j = s.dev i j := by rw [logFree_eq, State.dev_log _ _ _ _ _ h h1]; rfl
theorem logFree_count (s : State) : (logFree s).dev 0xF011 0 = (s.dev 0xF011 0 + 1) % 2 ^ 32 := by rw [logFree_eq, State.dev_log_count]; rfl

/-- What a fold keeps, step by step. -/
theorem foldl_keep {α β γ : Type} (l : List α) (f : β → α → β) (g : β → γ) (h : ∀ b a, g (f b a) = g b) (b : β) : g (l.foldl f b) = g b := by
  induction l generalizing b with
  | nil => rfl
  | cons a l ih => rw [List.foldl_cons, ih, h]

/-- The state before the alerts are noted. -/
theorem syncAlerts_keep {γ : Type} (s : State) (g : State → γ) (h : ∀ u, g (logFree u) = g u) (hp : ∀ (u : State) p, g { u with power := p } = g u) :
    g (syncAlerts s) = g s := by
  unfold syncAlerts
  rw [hp]
  exact foldl_keep _ _ g (fun b a => by split <;> simp [h]) s
@[simp] theorem syncAlerts_threads (s : State) : (syncAlerts s).threads = s.threads := syncAlerts_keep s State.threads (by simp) (fun _ _ => rfl)
@[simp] theorem syncAlerts_hbm (s : State) : (syncAlerts s).hbm = s.hbm := syncAlerts_keep s State.hbm (by simp) (fun _ _ => rfl)
@[simp] theorem syncAlerts_funcs (s : State) : (syncAlerts s).funcs = s.funcs := syncAlerts_keep s State.funcs (by simp) (fun _ _ => rfl)
@[simp] theorem syncAlerts_events (s : State) : (syncAlerts s).events = s.events := syncAlerts_keep s State.events (by simp) (fun _ _ => rfl)
@[simp] theorem syncAlerts_pending (s : State) : (syncAlerts s).pending = s.pending := syncAlerts_keep s State.pending (by simp) (fun _ _ => rfl)
@[simp] theorem syncAlerts_ten (s : State) (n i j : Nat) : (syncAlerts s).ten n i j = s.ten n i j :=
  syncAlerts_keep s (fun u => u.ten n i j) (by simp) (fun _ _ => rfl)
theorem syncAlerts_dev (s : State) (i j : Nat) (h : ∀ k < 256, devKey i j ≠ devKey 0xF010 k) (h1 : devKey i j ≠ devKey 0xF011 0) :
    (syncAlerts s).dev i j = s.dev i j := syncAlerts_keep s (fun u => u.dev i j) (fun u => logFree_dev u i j h h1) (fun _ _ => rfl)
theorem syncAlerts_power (s : State) : (syncAlerts s).power = { s.power with alerts := alertMask s } := by
  have h : ((upto 8).foldl (fun (st : State) k => if bit (alertMask s) k && !bit s.power.alerts k then logFree st else st) s).power = s.power :=
    foldl_keep _ _ State.power (fun b a => by split <;> simp) s
  simp only [syncAlerts, h]

theorem dstate_setDstate (s : State) (v : Nat) : (s.setDstate v).dstate = v := by simp [State.setDstate, State.dstate]
theorem syncAlerts_dstate (s : State) : (syncAlerts s).dstate = s.dstate :=
  syncAlerts_dev s _ _ (fun k hk => devKey_ne _ _ _ _ (by decide) hk (.inl (by decide))) (by decide)

/-! ### Tenancies and functions -/

/-- The state of a tenancy after its change. -/
theorem tstate_setTstate (s : State) (n v c : Nat) : (setTstate s n v c).tstate n = v := by
  unfold setTstate
  dsimp only
  split
  · assumption
  · simp [State.tstate]
theorem setTstate_ten (s : State) (n v c m i j : Nat) (h : tenKey m i j ≠ tenKey n 0xC080 4) : (setTstate s n v c).ten m i j = s.ten m i j := by
  unfold setTstate
  dsimp only
  split
  · rfl
  · rw [State.ten_post, State.ten_setTen_ne _ _ _ _ _ _ _ _ h]

@[simp] theorem State.fn_setFn (s : State) (f : Fin 16) (x : Func) : (s.setFn f x).fn f = x := by simp [State.fn, State.setFn]
theorem State.fn_setFn_ne (s : State) (f g : Fin 16) (x : Func) (h : g ≠ f) : (s.setFn f x).fn g = s.fn g := by
  have : f.val ≠ g.val := fun e => h (Fin.ext e.symm)
  simp [State.fn, State.setFn, this]
@[simp] theorem State.fn_setTen (s : State) (n i j v : Nat) (f : Fin 16) : (s.setTen n i j v).fn f = s.fn f := by simp [State.fn]
@[simp] theorem State.fn_setDev (s : State) (i j v : Nat) (f : Fin 16) : (s.setDev i j v).fn f = s.fn f := by simp [State.fn]
@[simp] theorem State.fn_post (s : State) (n c d : Nat) (f : Fin 16) : (s.post n c d).fn f = s.fn f := by simp [State.fn]

/-- A table entry read after it is put. -/
@[simp] theorem Tab.getD_put {α : Type} (t : Tab α) (i : Nat) (v d : α) : Tab.getD (Tab.put t i v) i d = v := by simp [Tab.getD, Tab.get?_put]
theorem Tab.getD_put_ne {α : Type} (t : Tab α) (i j : Nat) (v d : α) (h : j ≠ i) : Tab.getD (Tab.put t i v) j d = Tab.getD t j d := by
  simp [Tab.getD, Tab.get?_put_ne _ _ _ _ h]

/-- A posting put in line (R516, R520). -/
theorem queuePosting_waiting (s : State) (f : Fin 16) (v : Posting) :
    let q := fld ((s.fn f).sq v.sq).ctl 9 4
    (((queuePosting s f v).fn f).cq q).waiting = ((s.fn f).cq q).waiting ++ [v] := by
  simp [queuePosting, Func.cq]
theorem queuePosting_cmds (s : State) (f : Fin 16) (v : Posting) : ((queuePosting s f v).fn f).cmds = (s.fn f).cmds := by simp [queuePosting]
@[simp] theorem queuePosting_stops (s : State) (f : Fin 16) (v : Posting) : (queuePosting s f v).stops = s.stops := rfl
@[simp] theorem queuePosting_hbm (s : State) (f : Fin 16) (v : Posting) : (queuePosting s f v).hbm = s.hbm := rfl
theorem syncExecuted_fn (s : State) (f g : Fin 16) (q : Nat) : (syncExecuted s f q).fn g = s.fn g := by
  unfold syncExecuted
  split <;> rw [State.fn_setTen]

/-- The accepted commands after one has finished. -/
theorem hostFinish_cmds (s : State) (f : Fin 16) (q h st r : Nat) :
    ((hostFinish s f q h st r).fn f).cmds = (s.fn f).cmds.filter (fun d => !(d.sq == q && d.hseq == h)) := by
  unfold hostFinish
  split
  · rename_i hn
    simp only [hostCmd, List.find?_eq_none] at hn
    refine (List.filter_eq_self.mpr (fun a ha => ?_)).symm
    have h1 := hn a ha
    cases hb : (a.sq == q && a.hseq == h) <;> simp_all
  · simp only [syncExecuted_fn, queuePosting_cmds, State.fn_setFn]

/-- While every accepted command is one of the fourteen, nothing is left to sweep (R525). -/
theorem settle_legal (s : State) (f : Fin 16) (h : ∀ c ∈ (s.fn f).cmds, 1 ≤ c.op ∧ c.op ≤ 14) : settle s f = s := by
  have hn : (s.fn f).cmds.find? (fun c => c.stage == 0 && (c.op == 0 || decide (0x0E < c.op)) && mayStart (s.fn f).cmds c) = none := by
    rw [List.find?_eq_none]
    intro c hc
    have := h c hc
    have h0 : (c.op == 0) = false := by simp; omega
    have h1 : decide (14 < c.op) = false := by simp; omega
    simp [h0, h1]
  unfold settle
  simp only [sweepIllegal, hn]

end Sys2Proof.Machine
end

