-- ==== Sys2Proof/Tests/Slice0.lean ====
section
/-!
SUPPORT. Tests/Slice0.lean: what WellFormed refuses, and for every statement with hypotheses a state and operands that meet them.
-/

set_option maxRecDepth 100000
-- one theorem after another: the threads of a parallel elaboration count against the memory limit
set_option Elab.async false

namespace Sys2Proof.Tests

open Sys2Proof.Machine

/-! ### WellFormed -/

theorem test_wf_node : Instr.wellFormed (.strOpen 65536 0 0) = false := by decide
theorem test_wf_job : Instr.wellFormed (.strOpen 0 65536 0) = false := by decide
theorem test_wf_stream : Instr.wellFormed (.strOpen 0 0 4096) = false := by decide
theorem test_wf_tspec : Instr.wellFormed (.drop 0 0 (2 ^ 32)) = false := by decide
theorem test_wf_flags : Instr.wellFormed (.mgmtReq 0 256 0 1 0) = false := by decide
theorem test_wf_payload_empty : Instr.wellFormed (.redData 0 0 0 0 0) = false := by decide
theorem test_wf_payload_long : Instr.wellFormed (.redData 0 0 0 4097 0) = false := by decide
theorem test_wf_payload_bytes : Instr.wellFormed (.redData 0 0 0 1 256) = false := by decide
theorem test_wf_frame : Instr.wellFormed (.readReq 0 0 (2 ^ 32) 0 1) = false := by decide
theorem test_wf_read_empty : Instr.wellFormed (.readReq 0 0 0 0 0) = false := by decide
theorem test_wf_poison : Instr.wellFormed (.readRsp 0 0 0 0 8 true 0 2) = false := by decide
theorem test_wf_count : Instr.wellFormed (.done 0 0 0 65536 []) = false := by decide
theorem test_wf_roots : Instr.wellFormed (.done 0 0 0 0 [65536]) = false := by decide
theorem test_wf_reason : Instr.wellFormed (.torn 0 0 0 256) = false := by decide
theorem test_wf_line : Instr.wellFormed (.sectorFill (2 ^ 41) 0) = false := by decide
theorem test_wf_bar2 : Instr.wellFormed (.bar2Write 0 0 1 256 false) = false := by decide
theorem test_wf_message_long : Instr.wellFormed (.sapGet 0 0 65528 0) = false := by decide
theorem test_wf_message_bytes : Instr.wellFormed (.discover 0 0 1 256 false) = false := by decide
theorem test_wf_stop_len : Instr.wellFormed (.registerWrite (.stop 0 0 0 65536 0)) = false := by decide
theorem test_wf_stop_bytes : Instr.wellFormed (.registerWrite (.stop 0 0 0 1 256)) = false := by decide
theorem test_wf_sv3_tag : Instr.wellFormed (.registerWrite (.sv3 0 0 0 0 10 0)) = false := by decide
theorem test_wf_doe : Instr.wellFormed (.spdmTdispRequest (.spdm true 1 256)) = false := by decide
theorem test_wf_reserved : Instr.wellFormed (.reservedMajor 0 0x02000000 0) = false := by decide
theorem test_wf_short : Instr.wellFormed (.managementPeriod 0 [(0, 0), (0, 0)]) = false := by decide
theorem test_wf_good : Instr.wellFormed (.redData 5 7 9 2 65535) = true := by decide

/-! ### A small module -/

/-- A capability of tenancy 0 to the first GiB, with the given permissions. -/
def capWords (perms : Nat) : Pair := (Cap.mk 0 0 perms 0 false 0 (2 ^ 30)).toPair

/-- Thirty-two registers: those of a list, then empty ones. -/
def regsOf (l : List Reg) : Vector Reg 32 := Vector.ofFn (fun i => l.getD i.val Reg.nil)

/-- A thread of tenancy 0 at level 0 that runs at 0x10000, with its registers. -/
def demoThread (regs : Vector Reg 32) : Thread :=
  { Thread.reset with regs := regs, pc := 0x10000, pcc := capWords 0x405, status := .active }

/-- A line that a slice holds whole. -/
def heldLine (data : Nat) : CLine := ⟨data, 15, 0, 0, 0, 0, 1, 16, none⟩

/-- A module in READY whose tenancy 0 has its first GiB mapped at physical 0x40000000 by two page-table entries, both held by their
slices; the instruction at 0x10000 is in the instruction cache of core 0, whose thread 0 runs. -/
def demo (th : Thread) : State :=
  { State.reset with
    threads := (Vector.replicate 768 Thread.reset).set 0 th
    cores := (Vector.replicate 48 Core.reset).set 0 { Core.reset with icache := [0x800200] }
    slc := [(0x2000, heldLine 0x200001), (0x4000, heldLine (0x40000002 + 0x7C * 2 ^ 48))]
    stops := [(0x102100, ⟨3, 1⟩), (0x1C03000, ⟨0x100000, 1⟩)] }

/-- The demo module with registers in its thread. -/
def demoR (l : List Reg) : State := demo (demoThread (regsOf l))

/-- A test of the state after a fetch. -/
def afterFetch (t : Tid) (len : Nat) (ext : Bool) (s : State) (p : State → Bool) : Bool :=
  (s.th t).eligible && !coreStopped s (t.val / 16) &&
  match fetchInstr t len ext (issue s t) with
  | .ok _ s1 => p s1
  | .error _ _ => false

/-- A fetch that passes a test gives a state that Fetches names. -/
theorem fetches_of {t : Tid} {len : Nat} {ext : Bool} {s : State} {p : State → Bool}
    (h : afterFetch t len ext s p = true) : ∃ s1, Fetches t len ext s s1 ∧ p s1 = true := by
  unfold afterFetch at h
  split at h
  · rename_i s1 he
    simp only [Bool.and_eq_true, Bool.not_eq_true'] at h
    exact ⟨s1, ⟨h.1.1, h.1.2, he⟩, h.2⟩
  · simp at h


/-- A meaning ends well. -/
def isOk {α : Type} (m : M α) (s : State) : Bool :=
  match m s with
  | .ok _ _ => true
  | .error _ _ => false

theorem isOk_iff {α : Type} {m : M α} {s : State} (h : isOk m s = true) : ∃ a s1, m s = .ok a s1 := by
  unfold isOk at h
  split at h
  · rename_i a s1 he; exact ⟨a, s1, he⟩
  · simp at h

/-- A run of a meaning ends well and passes a test. -/
def runTest {α : Type} (m : M α) (s : State) (p : α → State → Bool) : Bool :=
  match m s with
  | .ok a s1 => p a s1
  | .error _ _ => false

theorem runTest_iff {α : Type} {m : M α} {s : State} {p : α → State → Bool} (h : runTest m s p = true) :
    ∃ a s1, m s = .ok a s1 ∧ p a s1 = true := by
  unfold runTest at h
  split at h
  · rename_i a s1 he; exact ⟨a, s1, he, h⟩
  · simp at h

/-- The range can be stored to. -/
def canStore (t : Tid) (n : Fin 17) (a : Nat) (bs : List PByte) (s : State) : Bool :=
  runTest (xlateAll t n .write (pieces 8 a bs.length)) s (fun ps s2 => ps.all (fun _ => true) && (s2.th t).epoch.isNone)

theorem stores_of {t : Tid} {n : Fin 17} {a : Nat} {bs : List PByte} (tag : Bool) {s : State}
    (h : canStore t n a bs s = true) : ∃ s1, Stores t n a bs tag s s1 := by
  obtain ⟨ps, s2, h1, h2⟩ := runTest_iff h
  simp only [Bool.and_eq_true, Option.isNone_iff_eq_none] at h2
  exact ⟨_, ps, s2, h1, by simp [quotaWait, h2.2], rfl⟩

theorem test_wit_StepRunsFrontCommand :
    (∃ (s : State) (c : Instr) (rest : List Instr), s.pending = c :: rest) ∧ (∃ s : State, s.pending = []) :=
  ⟨⟨{ State.reset with pending := [.pwrReq] }, .pwrReq, [], rfl⟩, ⟨State.reset, rfl⟩⟩

theorem test_wit_IntegerRegisterResults :
    ∃ (t : Tid) (rs1 rs2 : RIdx) (s s1 : State) (a b : Word),
      Fetches t 4 false s s1 ∧ IsInt (s1.th t) rs1 a ∧ IsInt (s1.th t) rs2 b := by
  obtain ⟨s1, h, hp⟩ := fetches_of (t := 0) (len := 4) (ext := false) (s := demoR [.nil, .int 7, ⟨1, .bool⟩])
    (p := fun s1 => decide ((s1.th 0).g 1 = .int 7) && decide ((s1.th 0).g 2 = ⟨1, .bool⟩)) (by decide)
  simp only [Bool.and_eq_true, decide_eq_true_eq] at hp
  exact ⟨0, 1, 2, _, s1, 7, 1, h, by simp [IsInt, hp.1, Reg.int], by simp [IsInt, hp.2]⟩

theorem test_wit_SequenceArithmetic :
    ∃ (t : Tid) (rs1 rs2 rs3 : RIdx) (s s1 : State) (a b c : Word), Fetches t 4 false s s1 ∧
      Holds (s1.th t) rs1 a .seq ∧ Holds (s1.th t) rs2 b .int ∧ Holds (s1.th t) rs3 c .seq := by
  obtain ⟨s1, h, hp⟩ := fetches_of (t := 0) (len := 4) (ext := false) (s := demoR [.nil, ⟨0xFFFFFFFF, .seq⟩, .int 1, ⟨0, .seq⟩])
    (p := fun s1 => decide ((s1.th 0).g 1 = ⟨0xFFFFFFFF, .seq⟩) && decide ((s1.th 0).g 2 = .int 1) &&
      decide ((s1.th 0).g 3 = ⟨0, .seq⟩)) (by decide)
  simp only [Bool.and_eq_true, decide_eq_true_eq] at hp
  exact ⟨0, 1, 2, 3, _, s1, 0xFFFFFFFF, 1, 0, h, hp.1.1, hp.1.2, hp.2⟩

theorem test_wit_DivisionResults :
    ∃ (t : Tid) (r1 r2 r3 r4 : RIdx) (s s1 : State) (a b : Word), Fetches t 4 false s s1 ∧ IsInt (s1.th t) r1 a ∧
      IsInt (s1.th t) r2 b ∧ b ≠ 0 ∧ IsInt (s1.th t) r3 0 ∧ (s1.th t).g r4 = .poison := by
  obtain ⟨s1, h, hp⟩ := fetches_of (t := 0) (len := 4) (ext := false) (s := demoR [.poison, .int 7, .int 2, .int 0])
    (p := fun s1 => decide ((s1.th 0).g 1 = .int 7) && decide ((s1.th 0).g 2 = .int 2) && decide ((s1.th 0).g 3 = .int 0) &&
      decide ((s1.th 0).g 0 = .poison)) (by decide)
  simp only [Bool.and_eq_true, decide_eq_true_eq] at hp
  exact ⟨0, 1, 2, 3, 0, _, s1, 7, 2, h, by simp [IsInt, hp.1.1.1, Reg.int], by simp [IsInt, hp.1.1.2, Reg.int], by decide,
    by simp [IsInt, hp.1.2, Reg.int], hp.2⟩

theorem test_wit_ImmediateResults :
    (∃ (t : Tid) (rs1 : RIdx) (s s1 : State) (a : Word), Fetches t 4 false s s1 ∧ IsInt (s1.th t) rs1 a) ∧
    (∃ (t : Tid) (rs1 : RIdx) (s s1 : State) (a : Word), Fetches t 8 true s s1 ∧ IsInt (s1.th t) rs1 a) := by
  constructor
  · obtain ⟨s1, h, hp⟩ := fetches_of (t := 0) (len := 4) (ext := false) (s := demoR [.nil, .int 7])
      (p := fun s1 => decide ((s1.th 0).g 1 = .int 7)) (by decide)
    simp only [decide_eq_true_eq] at hp
    exact ⟨0, 1, _, s1, 7, h, by simp [IsInt, hp, Reg.int]⟩
  · obtain ⟨s1, h, hp⟩ := fetches_of (t := 0) (len := 8) (ext := true) (s := demoR [.nil, .int 7])
      (p := fun s1 => decide ((s1.th 0).g 1 = .int 7)) (by decide)
    simp only [decide_eq_true_eq] at hp
    exact ⟨0, 1, _, s1, 7, h, by simp [IsInt, hp, Reg.int]⟩

theorem test_wit_CompareResults :
    ∃ (t : Tid) (r1 r2 r3 r4 : RIdx) (s s1 : State) (a b c d : Word), Fetches t 4 false s s1 ∧ IsInt (s1.th t) r1 a ∧
      IsInt (s1.th t) r2 b ∧ Holds (s1.th t) r3 c .flt ∧ Holds (s1.th t) r4 d .flt ∧
      decodeF fp64 c.toNat = .nan ∧ decodeF fp64 d.toNat ≠ .nan := by
  obtain ⟨s1, h, hp⟩ := fetches_of (t := 0) (len := 4) (ext := false)
    (s := demoR [.int 1, .int 2, ⟨0x7FF8000000000000, .flt⟩, ⟨0, .flt⟩])
    (p := fun s1 => decide ((s1.th 0).g 0 = .int 1) && decide ((s1.th 0).g 1 = .int 2) &&
      decide ((s1.th 0).g 2 = ⟨0x7FF8000000000000, .flt⟩) && decide ((s1.th 0).g 3 = ⟨0, .flt⟩)) (by decide)
  simp only [Bool.and_eq_true, decide_eq_true_eq] at hp
  exact ⟨0, 0, 1, 2, 3, _, s1, 1, 2, 0x7FF8000000000000, 0, h, by simp [IsInt, hp.1.1.1, Reg.int],
    by simp [IsInt, hp.1.1.2, Reg.int], hp.1.2, hp.2, by decide, by decide⟩

theorem test_wit_Fp64Results :
    ∃ (t : Tid) (r1 r2 : RIdx) (s s1 : State) (a b : Word), Fetches t 4 false s s1 ∧ Holds (s1.th t) r1 a .flt ∧
      IsInt (s1.th t) r2 b := by
  obtain ⟨s1, h, hp⟩ := fetches_of (t := 0) (len := 4) (ext := false) (s := demoR [⟨0x3FF0000000000000, .flt⟩, .int 2])
    (p := fun s1 => decide ((s1.th 0).g 0 = ⟨0x3FF0000000000000, .flt⟩) && decide ((s1.th 0).g 1 = .int 2)) (by decide)
  simp only [Bool.and_eq_true, decide_eq_true_eq] at hp
  exact ⟨0, 0, 1, _, s1, 0x3FF0000000000000, 2, h, hp.1, by simp [IsInt, hp.2, Reg.int]⟩

theorem test_wit_TagInstructionResults :
    ∃ (t : Tid) (rs1 rs2 rc rx : RIdx) (s s1 : State) (c : Word), Fetches t 4 false s s1 ∧ IsInt (s1.th t) rc c ∧
      ((s1.th t).g rs1).tag = .nil ∧ ((s1.th t).g rs2).tag = .int ∧ fmtValid ((s1.th t).g rs2).val = true ∧
      ((s1.th t).g rx).tag = .int ∧ fmtValid ((s1.th t).g rx).val = false := by
  obtain ⟨s1, h, hp⟩ := fetches_of (t := 0) (len := 4) (ext := false) (s := demoR [.nil, .int 0x3F8000000, .int 1, .int 0xFFFFFFFFFFFFFFFF])
    (p := fun s1 => decide ((s1.th 0).g 0 = .nil) && decide ((s1.th 0).g 1 = .int 0x3F8000000) && decide ((s1.th 0).g 2 = .int 1) &&
      decide ((s1.th 0).g 3 = .int 0xFFFFFFFFFFFFFFFF)) (by decide)
  simp only [Bool.and_eq_true, decide_eq_true_eq] at hp
  refine ⟨0, 0, 1, 2, 3, _, s1, 1, h, ?_, ?_, ?_, ?_, ?_, ?_⟩
  · simp [IsInt, hp.1.2, Reg.int]
  · simp [hp.1.1.1, Reg.nil]
  · simp [hp.1.1.2, Reg.int]
  · rw [hp.1.1.2]; decide
  · simp [hp.2, Reg.int]
  · rw [hp.2]; decide

theorem test_wit_PoisonPropagates :
    ∃ (t : Tid) (r1 r2 r3 r4 : RIdx) (s s1 : State), Fetches t 4 false s s1 ∧ ((s1.th t).g r1).tag = .int ∧
      ((s1.th t).g r2).tag = .poison ∧ ((s1.th t).g r3).tag = .flt ∧ ((s1.th t).g r4).tag = .seq := by
  obtain ⟨s1, h, hp⟩ := fetches_of (t := 0) (len := 4) (ext := false) (s := demoR [.int 1, .poison, ⟨0, .flt⟩, ⟨0, .seq⟩])
    (p := fun s1 => decide (((s1.th 0).g 0).tag = .int) && decide (((s1.th 0).g 1).tag = .poison) &&
      decide (((s1.th 0).g 2).tag = .flt) && decide (((s1.th 0).g 3).tag = .seq)) (by decide)
  simp only [Bool.and_eq_true, decide_eq_true_eq] at hp
  exact ⟨0, 0, 1, 2, 3, _, s1, h, hp.1.1.1, hp.1.1.2, hp.1.2, hp.2⟩

theorem test_wit_TagMismatchNamesOperand :
    ∃ (t : Tid) (r1 r2 : RIdx) (s s1 : State), Fetches t 4 false s s1 ∧ ((s1.th t).g r1).tag = .int ∧
      ((s1.th t).g r2).tag = .flt := by
  obtain ⟨s1, h, hp⟩ := fetches_of (t := 0) (len := 4) (ext := false) (s := demoR [.int 1, ⟨0, .flt⟩])
    (p := fun s1 => decide (((s1.th 0).g 0).tag = .int) && decide (((s1.th 0).g 1).tag = .flt)) (by decide)
  simp only [Bool.and_eq_true, decide_eq_true_eq] at hp
  exact ⟨0, 0, 1, _, s1, h, hp.1, hp.2⟩

/-- A demo module whose thread holds an unsealed capability in c0, an offset in g2 and words from g4 on. -/
def demoM (l : List Reg) : State :=
  demoR ([(capWords 0x1B).a, (capWords 0x1B).b, .int 0x20000, .nil] ++ l)

theorem test_wit_LoadResults :
    ∃ (t : Tid) (cs : PIdx) (m : MForm) (s s1 : State), Fetches t (lenOf m.isExt) m.isExt s s1 ∧ AddrOk (s1.th t) cs m ∧
      (∀ n ∈ [1, 2, 4, 8, 16], Allowed (s1.th t) ((s1.th t).cap cs).toCap 1 (mAddr (s1.th t) cs m n 0) n n ∧
        ∃ bs s2, demandBytes t ((s1.th t).cap cs).toCap (mAddr (s1.th t) cs m n 0) n (begun t s1) = .ok bs s2) ∧
      ∃ g s2, demandGranule t ((s1.th t).cap cs).toCap (mAddr (s1.th t) cs m 16 0) (begun t s1) = .ok g s2 := by
  obtain ⟨s1, h, hp⟩ := fetches_of (t := 0) (len := 4) (ext := false) (s := demoM [])
    (p := fun s1 =>
      let th := s1.th 0
      let c := (th.cap 0).toCap
      let m : MForm := .short 2 0
      (th.cap 0).isUnsealed && decide ((th.g 2).tag = .int) &&
      ([1, 2, 4, 8, 16].all (fun n =>
        (capRefused th.level.val th.tenancy.val c).isNone && !c.has permRET && c.has 1 && decide (c.base ≤ mAddr th 0 m n 0) &&
        decide (mAddr th 0 m n 0 + n ≤ c.top) && decide (mAddr th 0 m n 0 % n = 0) &&
        isOk (demandBytes 0 c (mAddr th 0 m n 0) n) (begun 0 s1))) &&
      isOk (demandGranule 0 c (mAddr th 0 m 16 0)) (begun 0 s1)) (by decide)
  simp only [Bool.and_eq_true, decide_eq_true_eq, List.all_eq_true, Option.isNone_iff_eq_none, Bool.not_eq_true'] at hp
  refine ⟨0, 0, .short 2 0, _, s1, h, ⟨hp.1.1.1, hp.1.1.2⟩, ?_, isOk_iff hp.2⟩
  intro n hn
  obtain ⟨⟨⟨⟨⟨⟨h1, h2⟩, h3⟩, h4⟩, h5⟩, h6⟩, h7⟩ := hp.1.2 n hn
  exact ⟨⟨h1, h2, h3, h4, h5, h6⟩, isOk_iff h7⟩

theorem test_wit_LoadResults_detectors :
    ∃ w : State, Tab.getD w.detectors 0 [] = [⟨0, 0x1000, 32, 2, 0⟩] ∧ prefetchDepth w (windowAt w 0 0x1020) = 0 ∧
      (⟨0, 0x1000, 32, 2, 0⟩ : Detector).predicts 0 0x1020 = true ∧ (⟨0, 0x1000, 32, 2, 0⟩ : Detector).predicts 0 0x1040 = false :=
  ⟨{ (demoM []).setTen 0 0xC040 0 (2 ^ 84) with detectors := [(0, [⟨0, 0x1000, 32, 2, 0⟩])] }, by decide, by decide, by decide, by decide⟩

/-- The third miss along a stride trains its detector (R299). -/
theorem test_detector_trains : matchMiss [⟨0, 0x1020, 32, 2, 0⟩] 0 0x1040 4 = ([⟨0, 0x1040, 32, 3, 4⟩], some 32) := by decide

/-- The checks of R45 as a test. -/
def allowedB (th : Thread) (c : Cap) (mask a len align : Nat) : Bool :=
  (capRefused th.level.val th.tenancy.val c).isNone && !c.has permRET && c.has mask && decide (c.base ≤ a) &&
    decide (a + len ≤ c.top) && decide (a % align = 0)

theorem allowed_of {th : Thread} {c : Cap} {mask a len align : Nat} (h : allowedB th c mask a len align = true) :
    Allowed th c mask a len align := by
  simp only [allowedB, Bool.and_eq_true, decide_eq_true_eq, Option.isNone_iff_eq_none, Bool.not_eq_true'] at h
  obtain ⟨⟨⟨⟨⟨h1, h2⟩, h3⟩, h4⟩, h5⟩, h6⟩ := h
  exact ⟨h1, h2, h3, h4, h5, h6⟩

theorem test_wit_StoreResults :
    ∃ (t : Tid) (cs rc : PIdx) (m : MForm) (s s1 : State), Fetches t (lenOf m.isExt) m.isExt s s1 ∧ AddrOk (s1.th t) cs m ∧
      (s1.th t).g 4 = .int 0x1234 ∧ (s1.th t).g 5 = .poison ∧ ((s1.th t).pair 0).isCap = true ∧
      capRefused (s1.th t).level.val (s1.th t).tenancy.val ((s1.th t).pair 0).toCap = none ∧
      (∀ n ∈ [1, 2, 4, 8, 16], Allowed (s1.th t) ((s1.th t).cap cs).toCap 0x12 (mAddr (s1.th t) cs m n 0) n n ∧
        Allowed (s1.th t) ((s1.th t).cap cs).toCap 2 (mAddr (s1.th t) cs m n 0) n n ∧
        ∀ bs : List PByte, bs.length = n → ∀ tag : Bool,
          ∃ s2, Stores t ((s1.th t).cap cs).toCap.space (mAddr (s1.th t) cs m n 0) bs tag (begun t s1) s2) := by
  obtain ⟨s1, h, hp⟩ := fetches_of (t := 0) (len := 4) (ext := false) (s := demoM [.int 0x1234, .poison])
    (p := fun s1 =>
      let th := s1.th 0
      let c := (th.cap 0).toCap
      let m : MForm := .short 2 0
      (th.cap 0).isUnsealed && decide ((th.g 2).tag = .int) && decide (th.g 4 = .int 0x1234) && decide (th.g 5 = .poison) &&
      (th.pair 0).isCap && decide (capRefused th.level.val th.tenancy.val (th.pair 0).toCap = none) &&
      ([1, 2, 4, 8, 16].all (fun n => allowedB th c 0x12 (mAddr th 0 m n 0) n n && allowedB th c 2 (mAddr th 0 m n 0) n n &&
        canStore 0 c.space (mAddr th 0 m n 0) (List.replicate n (0, false)) (begun 0 s1)))) (by decide)
  simp only [Bool.and_eq_true, decide_eq_true_eq, List.all_eq_true] at hp
  obtain ⟨⟨⟨⟨⟨⟨h1, h2⟩, h3⟩, h4⟩, h5⟩, h6⟩, h7⟩ := hp
  refine ⟨0, 0, 0, .short 2 0, _, s1, h, ⟨h1, h2⟩, h3, h4, h5, h6, ?_⟩
  intro n hn
  obtain ⟨⟨g1, g2⟩, g3⟩ := h7 n hn
  refine ⟨allowed_of g1, allowed_of g2, fun bs hb tag => ?_⟩
  refine stores_of tag (h := ?_)
  simpa [canStore, hb] using g3

/-- A demo module whose data stack lies in the first GiB with its top at 0x20000. -/
def demoStack (l : List Reg) : State :=
  demoR ((l ++ List.replicate 29 Reg.nil).take 29 ++ [.int 0x20000, (capWords 0x1B).a, (capWords 0x1B).b])

theorem test_wit_DataStackResults :
    ∃ (t : Tid) (s s1 : State), Fetches t 4 false s s1 ∧ StackOk (s1.th t) ∧ (s1.th t).g 4 = .int 0x1234 ∧
      ((s1.th t).pair 0).isCap = true ∧
      capRefused (s1.th t).level.val (s1.th t).tenancy.val ((s1.th t).pair 0).toCap = none ∧
      (∀ n ∈ [8, 16], Allowed (s1.th t) ((s1.th t).cap 15).toCap 0x12 (0x20000 - n) n n ∧
        Allowed (s1.th t) ((s1.th t).cap 15).toCap 1 0x20000 n n ∧
        (∃ bs s2, demandBytes t ((s1.th t).cap 15).toCap 0x20000 n (begun t s1) = .ok bs s2) ∧
        ∀ bs : List PByte, bs.length = n → ∀ tag : Bool,
          ∃ s2, Stores t ((s1.th t).cap 15).toCap.space (0x20000 - n) bs tag (begun t s1) s2) ∧
      ∃ g s2, demandGranule t ((s1.th t).cap 15).toCap 0x20000 (begun t s1) = .ok g s2 := by
  obtain ⟨s1, h, hp⟩ := fetches_of (t := 0) (len := 4) (ext := false)
    (s := demoStack [(capWords 0x1B).a, (capWords 0x1B).b, .nil, .nil, .int 0x1234])
    (p := fun s1 =>
      let th := s1.th 0
      let c := (th.cap 15).toCap
      (th.cap 15).isUnsealed && decide ((th.g 29).tag = .int) && decide (th.g 4 = .int 0x1234) &&
      (th.pair 0).isCap && decide (capRefused th.level.val th.tenancy.val (th.pair 0).toCap = none) &&
      ([8, 16].all (fun n => allowedB th c 0x12 (0x20000 - n) n n && allowedB th c 1 0x20000 n n &&
        isOk (demandBytes 0 c 0x20000 n) (begun 0 s1) &&
        canStore 0 c.space (0x20000 - n) (List.replicate n (0, false)) (begun 0 s1))) &&
      isOk (demandGranule 0 c 0x20000) (begun 0 s1)) (by decide)
  simp only [Bool.and_eq_true, decide_eq_true_eq, List.all_eq_true] at hp
  obtain ⟨⟨⟨⟨⟨⟨h1, h2⟩, h3⟩, h5⟩, h6⟩, h7⟩, h8⟩ := hp
  refine ⟨0, _, s1, h, ⟨h1, h2⟩, h3, h5, h6, ?_, isOk_iff h8⟩
  intro n hn
  obtain ⟨⟨⟨g1, g2⟩, g3⟩, g4⟩ := h7 n hn
  refine ⟨allowed_of g1, allowed_of g2, isOk_iff g3, fun bs hb tag => ?_⟩
  refine stores_of tag (h := ?_)
  simpa [canStore, hb] using g4

theorem test_wit_AtomicResults :
    ∃ (t : Tid) (rd : RIdx) (cs : PIdx) (a : AForm) (pa : Nat) (s s1 s2 : State),
      Fetches t (lenOf a.isExt) a.isExt s s1 ∧ AddrOkA (s1.th t) cs a ∧ ((s1.th t).g 4).tag = .int ∧ ((s1.th t).g rd).tag = .int ∧
      Allowed (s1.th t) ((s1.th t).cap cs).toCap 3 (aAddr (s1.th t) cs a 0) 8 8 ∧ a = .short 2 4 ∧
      xlate t ((s1.th t).cap cs).toCap.space (aAddr (s1.th t) cs a 0) .amo (begun t s1) = .ok pa s2 ∧
      quotaWait t [(aAddr (s1.th t) cs a 0, 8, pa)] s2 = .ok () s2 := by
  obtain ⟨s1, h, hp⟩ := fetches_of (t := 0) (len := 4) (ext := false) (s := demoM [.int 5])
    (p := fun s1 =>
      let th := s1.th 0
      let c := (th.cap 0).toCap
      (th.cap 0).isUnsealed && decide ((th.g 2).tag = .int) && decide ((th.g 4).tag = .int) &&
      allowedB th c 3 (aAddr th 0 (.short 2 4) 0) 8 8 &&
      runTest (xlate 0 c.space (aAddr th 0 (.short 2 4) 0) .amo) (begun 0 s1) (fun _ s2 => (s2.th 0).epoch.isNone)) (by decide)
  simp only [Bool.and_eq_true, decide_eq_true_eq] at hp
  obtain ⟨⟨⟨⟨h1, h2⟩, h3⟩, h4⟩, h5⟩ := hp
  obtain ⟨pa, s2, h6, h7⟩ := runTest_iff h5
  rw [Option.isNone_iff_eq_none] at h7
  exact ⟨0, 4, 0, .short 2 4, pa, _, s1, s2, h, ⟨h1, h2⟩, h3, h3, allowed_of h4, rfl, h6, by simp [quotaWait, h7]⟩

theorem test_wit_ScanResults :
    ∃ (t : Tid) (cs : PIdx) (a : AForm) (s s1 : State), Fetches t (lenOf a.isExt) a.isExt s s1 ∧ AddrOkA (s1.th t) cs a ∧
      a = .short 2 4 ∧ ((s1.th t).g 4).tag = .int ∧
      ∀ n ∈ [4, 8], Allowed (s1.th t) ((s1.th t).cap cs).toCap 1 (aAddr (s1.th t) cs a 0) n n ∧
        ∃ bs s2, loadBytes t ((s1.th t).cap cs).toCap.space (aAddr (s1.th t) cs a 0) n (begun t s1) = .ok bs s2 := by
  obtain ⟨s1, h, hp⟩ := fetches_of (t := 0) (len := 4) (ext := false) (s := demoM [.int 5])
    (p := fun s1 =>
      let th := s1.th 0
      let c := (th.cap 0).toCap
      let v := aAddr th 0 (.short 2 4) 0
      (th.cap 0).isUnsealed && decide ((th.g 2).tag = .int) && decide ((th.g 4).tag = .int) &&
      [4, 8].all (fun n => allowedB th c 1 v n n && isOk (loadBytes 0 c.space v n) (begun 0 s1))) (by decide)
  simp only [Bool.and_eq_true, decide_eq_true_eq, List.all_eq_true] at hp
  obtain ⟨⟨⟨h1, h2⟩, h3⟩, h4⟩ := hp
  refine ⟨0, 0, .short 2 4, _, s1, h, ⟨h1, h2⟩, rfl, h3, ?_⟩
  intro n hn
  obtain ⟨g1, g2⟩ := h4 n hn
  exact ⟨allowed_of g1, isOk_iff g2⟩

theorem test_wit_BranchResults :
    (∃ (t : Tid) (s s1 : State), Fetches t 4 false s s1 ∧ IsInt (s1.th t) 0 0 ∧ IsInt (s1.th t) 1 7 ∧ Holds (s1.th t) 2 8 .int) ∧
    ∃ (t : Tid) (s s1 : State), Fetches t 8 true s s1 ∧ IsInt (s1.th t) 0 0 := by
  constructor
  · obtain ⟨s1, h, hp⟩ := fetches_of (t := 0) (len := 4) (ext := false) (s := demoR [.int 0, .int 7, .int 8])
      (p := fun s1 => decide ((s1.th 0).g 0 = .int 0) && decide ((s1.th 0).g 1 = .int 7) && decide ((s1.th 0).g 2 = .int 8))
      (by decide)
    simp only [Bool.and_eq_true, decide_eq_true_eq] at hp
    exact ⟨0, _, s1, h, by simp [IsInt, hp.1.1, Reg.int], by simp [IsInt, hp.1.2, Reg.int], hp.2⟩
  · obtain ⟨s1, h, hp⟩ := fetches_of (t := 0) (len := 8) (ext := true) (s := demoR [.int 0])
      (p := fun s1 => decide ((s1.th 0).g 0 = .int 0)) (by decide)
    simp only [decide_eq_true_eq] at hp
    exact ⟨0, _, s1, h, by simp [IsInt, hp, Reg.int]⟩

/-- The demo module with a return stack of 4 KiB at 0x30000 whose RSP is rsp, and with the words of a line at VA 0x30000. -/
def demoRet (rsp : Nat) (line : Nat) (tags : Nat) (l : List Reg) : State :=
  let s := demo { demoThread (regsOf l) with rscap := (Cap.mk 0 0x30000 0x80 0 false 0 4096).toPair, rsp := BitVec.ofNat 64 rsp }
  { s with slc := s.slc ++ [(0x800600, { heldLine line with tags := tags })] }

/-- The words of an executable capability to the first GiB, as a line holds them. -/
def codeBits : Nat := (capWords 0x4).a.val.toNat + (capWords 0x4).b.val.toNat * 2 ^ 64

/-- The return stack of the demo thread takes a record. -/
def canPush (s : State) : Bool :=
  let th := s.th 0
  let c := th.rscap.toCap
  let a := c.base + (th.rsp.toNat - 32)
  runTest (xlateAll 0 c.space .write (pieces 8 a 16)) s (fun _ q1 =>
    runTest (xlateAll 0 c.space .write (pieces 8 (a + 16) 16)) q1 (fun _ q2 => (q2.th 0).epoch.isNone))

theorem test_wit_CallReturnResults_call :
    ∃ (s s1 : State), Fetches 0 4 false s s1 ∧ (s1.th 0).rscap.isUnsealed = true ∧ (s1.th 0).rscap.toCap.has 0x80 = true ∧
      capRefused (s1.th 0).level.val (s1.th 0).tenancy.val (s1.th 0).rscap.toCap = none ∧ 32 ≤ (s1.th 0).rsp.toNat ∧
      Holds (s1.th 0) 2 0x20000 .int ∧ ((s1.th 0).cap 0).isUnsealed = true ∧ ((s1.th 0).cap 0).toCap.has 4 = true ∧
      capRefused (s1.th 0).level.val (s1.th 0).tenancy.val ((s1.th 0).cap 0).toCap = none ∧ canPush (begun 0 s1) = true := by
  obtain ⟨s1, h, hp⟩ := fetches_of (t := 0) (len := 4) (ext := false)
    (s := demoRet 64 0 0 [(capWords 4).a, (capWords 4).b, .int 0x20000])
    (p := fun s1 =>
      let th := s1.th 0
      th.rscap.isUnsealed && th.rscap.toCap.has 0x80 &&
      decide (capRefused th.level.val th.tenancy.val th.rscap.toCap = none) && decide (32 ≤ th.rsp.toNat) &&
      decide (th.g 2 = .int 0x20000) && (th.cap 0).isUnsealed && (th.cap 0).toCap.has 4 &&
      decide (capRefused th.level.val th.tenancy.val (th.cap 0).toCap = none) && canPush (begun 0 s1)) (by decide)
  simp only [Bool.and_eq_true, decide_eq_true_eq] at hp
  obtain ⟨⟨⟨⟨⟨⟨⟨⟨h1, h2⟩, h3⟩, h4⟩, h5⟩, h6⟩, h7⟩, h8⟩, h9⟩ := hp
  exact ⟨_, s1, h, h1, h2, h3, h4, h5, h6, h7, h8, h9⟩

theorem test_wit_CallReturnResults_gate :
    ∃ (s s1 : State), Fetches 0 4 false s s1 ∧ ((s1.th 0).cap 0).a.tag = .sealed ∧ ((s1.th 0).cap 0).toCap.otype = 0xF01 ∧
      runTest (xlateAll 0 ((s1.th 0).cap 0).toCap.space .read (pieces 8 0x30000 48)) (begun 0 s1) (fun _ q0 =>
        runTest (loadGranule 0 0 0x30000) q0 (fun g0 q1 => runTest (loadGranule 0 0 0x30010) q1 (fun g1 q2 =>
          runTest (loadGranule 0 0 0x30020) q2 (fun g2 q3 =>
            !g0.2.1 && !g0.2.2.2.1 && !g1.2.1 && !g1.2.2.2.1 && !g2.2.1 && !g2.2.2.2.1 && (granulePair true g0).isUnsealed &&
            (granulePair true g0).toCap.has 4 && !(granulePair true g1).isCap && decide (g2.1 = 0x40) && decide (g2.2.2.1 = 0) &&
            decide (capRefused 0 0 (granulePair true g0).toCap = none) && canPush q3)))) = true := by
  obtain ⟨s1, h, hp⟩ := fetches_of (t := 0) (len := 4) (ext := false)
    (s := demoRet 1024 (codeBits + 0x40 * 2 ^ 256) 1
      [(Cap.mk 0xF01 0x30000 0 0 false 0 64).toPair.a, (Cap.mk 0xF01 0x30000 0 0 false 0 64).toPair.b])
    (p := fun s1 =>
      let th := s1.th 0
      decide ((th.cap 0).a.tag = .sealed) && decide ((th.cap 0).toCap.otype = 0xF01) &&
      runTest (xlateAll 0 (th.cap 0).toCap.space .read (pieces 8 0x30000 48)) (begun 0 s1) (fun _ q0 =>
        runTest (loadGranule 0 0 0x30000) q0 (fun g0 q1 => runTest (loadGranule 0 0 0x30010) q1 (fun g1 q2 =>
          runTest (loadGranule 0 0 0x30020) q2 (fun g2 q3 =>
            !g0.2.1 && !g0.2.2.2.1 && !g1.2.1 && !g1.2.2.2.1 && !g2.2.1 && !g2.2.2.2.1 && (granulePair true g0).isUnsealed &&
            (granulePair true g0).toCap.has 4 && !(granulePair true g1).isCap && decide (g2.1 = 0x40) && decide (g2.2.2.1 = 0) &&
            decide (capRefused 0 0 (granulePair true g0).toCap = none) && canPush q3))))) (by decide)
  simp only [Bool.and_eq_true, decide_eq_true_eq] at hp
  exact ⟨_, s1, h, hp.1.1, hp.1.2, hp.2⟩

theorem test_wit_CallReturnResults_ret :
    ∃ (s s1 : State), Fetches 0 4 false s s1 ∧ (s1.th 0).rscap.isUnsealed = true ∧ (s1.th 0).rscap.toCap.has 0x80 = true ∧
      runTest (xlateAll 0 0 .read (pieces 8 0x30000 32)) (begun 0 s1) (fun _ q0 =>
        runTest (readRecord 0 0 0x30000) q0 (fun r _ => r.2 && decide (r.1.map (fun w => w.2) = [false, false, false, false]) &&
          decide ((r.1.map (fun w => w.1.toNat / 2 ^ 56)).getD 3 0 = 1))) = true := by
  obtain ⟨s1, h, hp⟩ := fetches_of (t := 0) (len := 4) (ext := false)
    (s := demoRet 0 (codeBits + 0x10040 * 2 ^ 128 + 2 ^ 56 * 2 ^ 192) 1 [])
    (p := fun s1 =>
      let th := s1.th 0
      th.rscap.isUnsealed && th.rscap.toCap.has 0x80 &&
      runTest (xlateAll 0 0 .read (pieces 8 0x30000 32)) (begun 0 s1) (fun _ q0 =>
        runTest (readRecord 0 0 0x30000) q0 (fun r _ => r.2 && decide (r.1.map (fun w => w.2) = [false, false, false, false]) &&
          decide ((r.1.map (fun w => w.1.toNat / 2 ^ 56)).getD 3 0 = 1)))) (by decide)
  simp only [Bool.and_eq_true] at hp
  exact ⟨_, s1, h, hp.1.1, hp.1.2, hp.2⟩

theorem test_wit_FenceResults : ∃ (t : Tid) (s s1 : State), Fetches t 4 false s s1 ∧ Tab.wf (s1.core t.core).l1 = true ∧
    l1Off s1 t.core = false := by
  obtain ⟨s1, h, hp⟩ := fetches_of (t := 0) (len := 4) (ext := false) (s := demoR [])
    (p := fun s1 => Tab.wf (s1.core 0).l1 && !l1Off s1 0) (by decide)
  simp only [Bool.and_eq_true, Bool.not_eq_true'] at hp
  exact ⟨0, _, s1, h, hp.1, hp.2⟩

theorem test_wit_ShortVectorResults :
    ∃ (t : Tid) (rd rs1 rs2 : RIdx) (s s1 : State), Fetches t 4 false s s1 ∧ rd.val % 2 = 0 ∧ rs1.val % 2 = 0 ∧ rs2.val % 2 = 0 ∧
      ∀ r ∈ [rd, rs1, rs2], ((s1.th t).pair r).a.tag ∈ [Tag.int, .flt] ∧ ((s1.th t).pair r).b.tag ∈ [Tag.int, .flt] := by
  obtain ⟨s1, h, hp⟩ := fetches_of (t := 0) (len := 4) (ext := false)
    (s := demoR [.int 1, .int 2, .int 3, ⟨4, .flt⟩, .int 5, .int 6])
    (p := fun s1 => [(0 : RIdx), 2, 4].all (fun r => decide (((s1.th 0).pair r).a.tag ∈ [Tag.int, .flt]) &&
      decide (((s1.th 0).pair r).b.tag ∈ [Tag.int, .flt]))) (by decide)
  simp only [Bool.and_eq_true, decide_eq_true_eq, List.all_eq_true] at hp
  exact ⟨0, 0, 2, 4, _, s1, h, rfl, rfl, rfl, hp⟩

theorem test_wit_ShortVectorPermutes :
    ∃ (t : Tid) (rd rs1 rs2 : RIdx) (s s1 : State), Fetches t 4 false s s1 ∧ rd.val % 2 = 0 ∧ rs1.val % 2 = 0 ∧ rs2.val % 2 = 0 ∧
      (s1.th t).pair rd = ⟨.int 1, .int 2⟩ ∧ (s1.th t).pair rs1 = ⟨.int 3, .int 4⟩ ∧
      (s1.th t).pair rs2 = ⟨.int 0x0706050403020100, .int 0x0F0E0D0C0B0A0908⟩ := by
  obtain ⟨s1, h, hp⟩ := fetches_of (t := 0) (len := 4) (ext := false)
    (s := demoR [.int 1, .int 2, .int 3, .int 4, .int 0x0706050403020100, .int 0x0F0E0D0C0B0A0908])
    (p := fun s1 => decide ((s1.th 0).pair 0 = ⟨.int 1, .int 2⟩) && decide ((s1.th 0).pair 2 = ⟨.int 3, .int 4⟩) &&
      decide ((s1.th 0).pair 4 = ⟨.int 0x0706050403020100, .int 0x0F0E0D0C0B0A0908⟩)) (by decide)
  simp only [Bool.and_eq_true, decide_eq_true_eq] at hp
  exact ⟨0, 0, 2, 4, _, s1, h, rfl, rfl, rfl, hp.1.1, hp.1.2, hp.2⟩

theorem test_wit_RepeatResults :
    ∃ (t : Tid) (rn : RIdx) (body : RepBody) (n : Nat) (s s1 : State), body = .stW 4 0 (.short 2 0) ∧
      Fetches t (4 + lenOf (repExt body)) (repExt body) s s1 ∧ (s1.th t).iter = 0 ∧ (s1.th t).g rn = ⟨BitVec.ofNat 64 n, .int⟩ ∧
      n = 1 ∧ ∃ u, repIter t 0 0 body (s1.setTh t { s1.th t with inRepn := false }) = .ok false u := by
  obtain ⟨s1, h, hp⟩ := fetches_of (t := 0) (len := 8) (ext := false) (s := demoM [.int 7, .int 1])
    (p := fun s1 => decide ((s1.th 0).iter = 0) && decide ((s1.th 0).g 5 = ⟨1, .int⟩) &&
      runTest (repIter 0 0 0 (.stW 4 0 (.short 2 0))) (s1.setTh 0 { s1.th 0 with inRepn := false }) (fun b _ => !b)) (by decide)
  simp only [Bool.and_eq_true, decide_eq_true_eq] at hp
  obtain ⟨b, u, h1, h2⟩ := runTest_iff hp.2
  simp only [Bool.not_eq_true'] at h2
  subst h2
  exact ⟨0, 5, _, 1, _, s1, rfl, h, hp.1.1, hp.1.2, rfl, u, h1⟩

theorem test_wit_CapabilityResults :
    ∃ (s s1 : State), Fetches 0 4 false s s1 ∧ (s1.th 0).pair 0 = capWords 0x1B ∧ (s1.th 0).pair 2 = (Cap.mk 0 0x10 0x60 0 false 0 4).toPair ∧
      (s1.th 0).pair 4 = (Cap.mk 0x11 0 1 0 false 0 8).toPair ∧ Holds (s1.th 0) 6 64 .int ∧
      ∀ r ∈ [(0 : RIdx), 2, 4], ((s1.th 0).pair r).isCap = true ∧
        capRefused (s1.th 0).level.val (s1.th 0).tenancy.val ((s1.th 0).pair r).toCap = none := by
  obtain ⟨s1, h, hp⟩ := fetches_of (t := 0) (len := 4) (ext := false)
    (s := demoR [(capWords 0x1B).a, (capWords 0x1B).b, (Cap.mk 0 0x10 0x60 0 false 0 4).toPair.a,
      (Cap.mk 0 0x10 0x60 0 false 0 4).toPair.b, (Cap.mk 0x11 0 1 0 false 0 8).toPair.a, (Cap.mk 0x11 0 1 0 false 0 8).toPair.b,
      .int 64])
    (p := fun s1 => decide ((s1.th 0).pair 0 = capWords 0x1B) &&
      decide ((s1.th 0).pair 2 = (Cap.mk 0 0x10 0x60 0 false 0 4).toPair) &&
      decide ((s1.th 0).pair 4 = (Cap.mk 0x11 0 1 0 false 0 8).toPair) && decide ((s1.th 0).g 6 = .int 64) &&
      [(0 : RIdx), 2, 4].all (fun r => ((s1.th 0).pair r).isCap &&
        decide (capRefused (s1.th 0).level.val (s1.th 0).tenancy.val ((s1.th 0).pair r).toCap = none))) (by decide)
  simp only [Bool.and_eq_true, decide_eq_true_eq, List.all_eq_true] at hp
  exact ⟨_, s1, h, hp.1.1.1.1, hp.1.1.1.2, hp.1.1.2, hp.1.2, hp.2⟩

theorem test_wit_SystemRegisterResults :
    ∃ (s s1 s' s1' : State), Fetches 0 4 false s s1 ∧ (s1.th 0).pcc.toCap.has 0x400 = true ∧ (s1.th 0).level = 2 ∧
      IsInt (s1.th 0) 2 7 ∧ (s1.th 0).pair 0 = capWords 0x88 ∧ capRefused 2 0 (capWords 0x88).toCap = none ∧
      Fetches 0 4 false s' s1' ∧ (s1'.th 0).pcc.toCap.has 0x400 = true ∧ (s1'.th 0).level = 0 := by
  obtain ⟨s1, h, hp⟩ := fetches_of (t := 0) (len := 4) (ext := false)
    (s := demo { demoThread (regsOf [(capWords 0x88).a, (capWords 0x88).b, .int 7]) with level := 2 })
    (p := fun s1 => (s1.th 0).pcc.toCap.has 0x400 && decide ((s1.th 0).level = 2) && decide ((s1.th 0).g 2 = .int 7) &&
      decide ((s1.th 0).pair 0 = capWords 0x88)) (by decide)
  obtain ⟨s1', h', hp'⟩ := fetches_of (t := 0) (len := 4) (ext := false) (s := demoR [])
    (p := fun s1 => (s1.th 0).pcc.toCap.has 0x400 && decide ((s1.th 0).level = 0)) (by decide)
  simp only [Bool.and_eq_true, decide_eq_true_eq] at hp hp'
  exact ⟨_, s1, _, s1', h, hp.1.1.1, hp.1.1.2, by simp [IsInt, hp.1.2, Reg.int], hp.2, by decide, h', hp'.1, hp'.2⟩

/-- The bits of an entry of a descriptor table: the first GiB as code, data and stack, offset 0x40, with a target level. -/
def descBits (target : Nat) : Nat :=
  let c (perms : Nat) : Nat := (capWords perms).a.val.toNat + (capWords perms).b.val.toNat * 2 ^ 64
  c 4 + c 3 * 2 ^ 128 + c 3 * 2 ^ 256 + 0x40 * 2 ^ 384 + (target + 0x100) * 2 ^ 448

/-- The demo module with a descriptor table of the level at 0x30000 that holds an entry for the vector. -/
def demoDesc (level vector : Nat) (th : Thread) : State :=
  let table := (Cap.mk 0 0x30000 9 0 false 0 4096).toPair
  let h := if level = 1 then { th with dt1 := table, lrs1 := capWords 0x80 } else { th with dt2 := table, lrs2 := capWords 0x80 }
  let s := demo h
  { s with slc := s.slc ++ [(0x800600 + vector / 2, { heldLine (descBits level * 2 ^ (512 * (vector % 2))) with tags := 0x77 })] }

theorem test_wit_ExceptionEntry :
    (let s := demoDesc 1 12 (demoThread (regsOf []))
     match (readEntry s 0 (s.th 0).dt1 12).2 with
     | .entry e => !e.poisoned && e.valid && e.target == 1 && (entryBad (s.th 0) 1 e false).isNone
     | _ => false) = true ∧
    tableOk 1 0 ((demoDesc 1 12 (demoThread (regsOf []))).th 0).dt1 = true := by decide

theorem test_wit_ExceptionReturn :
    ∃ (s s1 s' s1' : State), Fetches 0 4 false s s1 ∧ (s1.th 0).pcc.toCap.has 0x400 = true ∧ (s1.th 0).level = 1 ∧
      (s1.th 0).nmi ≠ .held ∧ ((s1.th 0).sv 1).live = true ∧ Fetches 0 4 false s' s1' ∧
      (s1'.th 0).pcc.toCap.has 0x400 = true ∧ (s1'.th 0).level = 1 ∧ ((s1'.th 0).sv 1).live = false ∧ (s1'.th 0).nmi ≠ .held := by
  obtain ⟨s1, h, hp⟩ := fetches_of (t := 0) (len := 4) (ext := false)
    (s := demo { demoThread (regsOf []) with level := 1, sv1 := { SaveSet.reset with live := true } })
    (p := fun s1 => (s1.th 0).pcc.toCap.has 0x400 && decide ((s1.th 0).level = 1) && decide ((s1.th 0).nmi ≠ .held) &&
      ((s1.th 0).sv 1).live) (by decide)
  obtain ⟨s1', h', hp'⟩ := fetches_of (t := 0) (len := 4) (ext := false) (s := demo { demoThread (regsOf []) with level := 1 })
    (p := fun s1 => (s1.th 0).pcc.toCap.has 0x400 && decide ((s1.th 0).level = 1) && decide ((s1.th 0).nmi ≠ .held) &&
      !((s1.th 0).sv 1).live) (by decide)
  simp only [Bool.and_eq_true, decide_eq_true_eq, Bool.not_eq_true'] at hp hp'
  exact ⟨_, s1, _, s1', h, hp.1.1.1, hp.1.1.2, hp.1.2, hp.2, h', hp'.1.1.1, hp'.1.1.2, hp'.2, hp'.1.2⟩

/-- A demo thread with a pending interrupt 40 that it accepts. -/
def demoPending : State := demo { demoThread (regsOf []) with ie := true, ipend := 1#64 <<< 40, imask1 := 1#64 <<< 40, timerCmp := 5 }

theorem test_wit_AsynchronousEntries :
    acceptedVector demoPending 0 = some 40 ∧ (demoPending.th 0).status = .active ∧ (demoPending.th 0).sv2.live = false ∧
    demoPending.clockOn = true ∧ acceptedVector (demoR []) 0 = none ∧
    (State.reset.th 0).status = .empty ∧
    (∃ s : State, (s.th 0).nmi = .held ∧ (s.th 0).sv2.live = true ∧ (s.th 0).status = .active ∧ s.dstate ≠ dsBringup) :=
  ⟨by decide, by decide, by decide, by decide, by decide, by decide,
    demo { demoThread (regsOf []) with nmi := .held, sv2 := { SaveSet.reset with live := true } }, by decide⟩

/-- A demo module with a task descriptor at 0x20000, a thread that may create tasks, and a task quota. -/
def demoTask : State :=
  let w (p : Pair) : Nat := p.a.val.toNat + p.b.val.toNat * 2 ^ 64
  let line := w (capWords 4) + w (capWords 0x80) * 2 ^ 128 + w (capWords 3) * 2 ^ 256 + 7 * 2 ^ 512 + 0x40 * 2 ^ 576
  let s := demoR [(capWords 0x1001).a, (capWords 0x1001).b, .int 0x20000, .int 1]
  { s with slc := s.slc ++ [(0x800400, { heldLine line with tags := 7 })], stops := Tab.put s.stops (tenKey 0 0xC010 1) ⟨8, 1⟩ }

theorem test_wit_TaskAndEpochCreation :
    ∃ (s s1 : State), Fetches 0 4 false s s1 ∧ ((s1.th 0).cap 0).isUnsealed = true ∧ ((s1.th 0).g 2).tag = .int ∧
      Allowed (s1.th 0) ((s1.th 0).cap 0).toCap 0x1001 0x20000 128 128 ∧ Auth (s1.th 0) 0 0x1000 ∧ (s1.th 0).g 3 = .int 1 ∧
      (s1.epochs.filter (fun e => e.1 / 64 == (s1.th 0).tenancy.val)).length < 64 ∧ (s1.th 0).epoch = none ∧
      runTest (loadGranules 0 0 8 0x20000) (begun 0 s1) (fun gs s2 =>
        gs.all (fun g => !g.2.1 && !g.2.2.2.1) && (descRefused (s1.th 0) (taskDescOf gs)).isNone && descGood (taskDescOf gs) &&
        !(taskDescOf gs).flags.testBit 1 && decide ((taskDescOf gs).pred = 0) && taskRoom s2 0 false) = true := by
  obtain ⟨s1, h, hp⟩ := fetches_of (t := 0) (len := 4) (ext := false) (s := demoTask)
    (p := fun s1 =>
      let th := s1.th 0
      (th.cap 0).isUnsealed && decide ((th.g 2).tag = .int) && allowedB th (th.cap 0).toCap 0x1001 0x20000 128 128 &&
      decide (capRefused th.level.val th.tenancy.val (th.cap 0).toCap = none) && (th.cap 0).toCap.has 0x1000 &&
      decide (th.g 3 = .int 1) && decide ((s1.epochs.filter (fun e => e.1 / 64 == th.tenancy.val)).length < 64) &&
      decide (th.epoch = none) &&
      runTest (loadGranules 0 0 8 0x20000) (begun 0 s1) (fun gs s2 =>
        gs.all (fun g => !g.2.1 && !g.2.2.2.1) && (descRefused th (taskDescOf gs)).isNone && descGood (taskDescOf gs) &&
        !(taskDescOf gs).flags.testBit 1 && decide ((taskDescOf gs).pred = 0) && taskRoom s2 0 false)) (by decide +kernel)
  simp only [Bool.and_eq_true, decide_eq_true_eq] at hp
  obtain ⟨⟨⟨⟨⟨⟨⟨⟨h1, h2⟩, h3⟩, h4⟩, h5⟩, h6⟩, h7⟩, h8⟩, h9⟩ := hp
  exact ⟨_, s1, h, h1, h2, allowed_of h3, ⟨h1, h4, h5⟩, h6, h7, h8, by simpa only [Bool.and_eq_true, decide_eq_true_eq] using h9⟩

/-- A thread that waits for an epoch slot. -/
theorem test_wit_EpochSlotWaitEnd :
    ∃ (w s1 : State), (w.th 0).status = .waiting .epochSlot ∧ (w.th 0).waitsWith = some (.taskEpoch 4 0 3) ∧
      (w.epochs.filter (fun e => e.1 / 64 == (w.th 0).tenancy.val)).length < 64 ∧
      Fetches 0 4 false (w.setTh 0 { w.th 0 with status := .active, waitsWith := none }) s1 ∧ Auth (s1.th 0) 0 0x1000 ∧
      (s1.th 0).g 3 = .int 1 ∧ s1.epochs = w.epochs ∧ (s1.th 0).tenancy = (w.th 0).tenancy := by
  let w : State := demoTask.setTh 0 { demoTask.th 0 with status := .waiting .epochSlot, waitsWith := some (.taskEpoch 4 0 3) }
  obtain ⟨s1, h, hp⟩ := fetches_of (t := 0) (len := 4) (ext := false)
    (s := w.setTh 0 { w.th 0 with status := .active, waitsWith := none })
    (p := fun s1 =>
      let th := s1.th 0
      (th.cap 0).isUnsealed && decide (capRefused th.level.val th.tenancy.val (th.cap 0).toCap = none) &&
      (th.cap 0).toCap.has 0x1000 && decide (th.g 3 = .int 1) && decide (s1.epochs = w.epochs) &&
      decide (th.tenancy = (w.th 0).tenancy)) (by decide)
  simp only [Bool.and_eq_true, decide_eq_true_eq] at hp
  obtain ⟨⟨⟨⟨⟨h1, h2⟩, h3⟩, h4⟩, h5⟩, h6⟩ := hp
  exact ⟨w, s1, by decide, by decide, by decide, h, ⟨h1, h2, h3⟩, h4, h5, h6⟩

/-- A task that waits for one cue. -/
def demoK (state : TaskState) (cue : Nat) : Task :=
  { gen := 1, tenancy := 0, dev := false, state := state, code := capWords 4, rstack := capWords 0x80, dstack := capWords 3, argC := .nil,
    argCap := false, w0 := 7, offset := 0x40, cue := cue, vec := false, ie := false, group := 0, succ := [0, 0, 0, 0], epoch := none,
    creator := none, creatorTask := none, thread := none, core := none, issued := false }

/-- The demo module with tasks in slots 0 and 1, the thread running the second, its c0 with TASK, g2 the handle of the first. -/
def demoTasks (th : Thread → Thread) : State :=
  let s := demo (th { demoThread (regsOf [(capWords 0x1001).a, (capWords 0x1001).b, ⟨handleWord 1 0 false 1 0, .handle⟩]) with task := some 1 })
  { s with tasks := [(0, demoK .waitCue 1), (1, { demoK .running 0 with thread := some 0 })], taskGen := [(0, 1), (1, 1)] }

theorem test_wit_TaskFlow :
    ∃ (s s1 : State) (k : Task), Fetches 0 4 false s s1 ∧ Tab.wf s1.tasks = true ∧ Auth (s1.th 0) 0 0x1000 ∧
      ((s1.th 0).g 2).tag = .handle ∧ (handleOf ((s1.th 0).g 2).val).kind = 1 ∧
      handleTenancyOk (s1.th 0) (handleOf ((s1.th 0).g 2).val) = true ∧
      liveTask s1 (handleOf ((s1.th 0).g 2).val) = some k ∧ k.state = .waitCue ∧ 0 < k.cue ∧ (s1.th 0).task = some 1 ∧
      (Tab.get? s1.tasks 1).map (fun q => q.epoch) = some none := by
  obtain ⟨s1, h, hp⟩ := fetches_of (t := 0) (len := 4) (ext := false) (s := demoTasks id)
    (p := fun s1 =>
      let th := s1.th 0
      let f := handleOf (th.g 2).val
      Tab.wf s1.tasks && (th.cap 0).isUnsealed && decide (capRefused th.level.val th.tenancy.val (th.cap 0).toCap = none) &&
      (th.cap 0).toCap.has 0x1000 && decide ((th.g 2).tag = .handle) && decide (f.kind = 1) && handleTenancyOk th f &&
      decide (liveTask s1 f = some (demoK .waitCue 1)) && decide (th.task = some 1) &&
      decide ((Tab.get? s1.tasks 1).map (fun q => q.epoch) = some none)) (by decide)
  simp only [Bool.and_eq_true, decide_eq_true_eq] at hp
  obtain ⟨⟨⟨⟨⟨⟨⟨⟨⟨h0, h1⟩, h2⟩, h3⟩, h4⟩, h5⟩, h6⟩, h7⟩, h8⟩, h9⟩ := hp
  exact ⟨_, s1, _, h, h0, ⟨h1, h2, h3⟩, h4, h5, h6, h7, rfl, by decide, h8, h9⟩

theorem test_wit_TaskFlow_dispatch :
    ∃ (s : State) (slot : Nat) (k : Task), (s.th 1).status = .empty ∧ nextFor s 0 = some (slot, k) :=
  let s0 := demoTasks id
  let s := { s0 with tasks := [(0, demoK .dispatchable 0)], ready := [0],
                     stops := Tab.put (Tab.put s0.stops (tenKey 0 0xC010 0) ⟨1, 1⟩) (tenKey 0 0xC080 4) ⟨4, 1⟩ }
  ⟨s, 0, demoK .dispatchable 0, by decide, by decide⟩

theorem test_wit_TaskControls :
    ∃ (s s1 : State) (k : Task), Fetches 0 4 false s s1 ∧ Tab.wf s1.tasks = true ∧ Auth (s1.th 0) 0 0x1000 ∧
      ((s1.th 0).g 2).tag = .handle ∧ (handleOf ((s1.th 0).g 2).val).kind = 1 ∧
      handleTenancyOk (s1.th 0) (handleOf ((s1.th 0).g 2).val) = true ∧
      liveTask s1 (handleOf ((s1.th 0).g 2).val) = some k ∧ k.thread = some 0 ∧ k.state ≠ .doneSpec ∧
      1 ≤ (s1.th 0).level.val ∧ (s1.th 0).g 3 = .int 1 ∧ 1 &&& s1.ten 0 0xC010 0 = 1 := by
  obtain ⟨s1, h, hp⟩ := fetches_of (t := 0) (len := 4) (ext := false)
    (s := let s0 := demoTasks (fun th => { th with level := 1, regs := regsOf [(capWords 0x1001).a, (capWords 0x1001).b,
            ⟨handleWord 1 0 false 1 1, .handle⟩, .int 1] })
          { s0 with stops := Tab.put s0.stops (tenKey 0 0xC010 0) ⟨1, 1⟩ })
    (p := fun s1 =>
      let th := s1.th 0
      let f := handleOf (th.g 2).val
      Tab.wf s1.tasks && (th.cap 0).isUnsealed && decide (capRefused th.level.val th.tenancy.val (th.cap 0).toCap = none) &&
      (th.cap 0).toCap.has 0x1000 && decide ((th.g 2).tag = .handle) && decide (f.kind = 1) && handleTenancyOk th f &&
      decide (liveTask s1 f = some { demoK .running 0 with thread := some 0 }) && decide (1 ≤ th.level.val) &&
      decide (th.g 3 = .int 1) && decide (1 &&& s1.ten 0 0xC010 0 = 1)) (by decide)
  simp only [Bool.and_eq_true, decide_eq_true_eq] at hp
  obtain ⟨⟨⟨⟨⟨⟨⟨⟨⟨⟨h0, h1⟩, h2⟩, h3⟩, h4⟩, h5⟩, h6⟩, h7⟩, h8⟩, h9⟩, h10⟩ := hp
  exact ⟨_, s1, _, h, h0, ⟨h1, h2, h3⟩, h4, h5, h6, h7, rfl, by decide, h8, h9, h10⟩

theorem test_wit_TaskControls_waits :
    (∃ s : State, (s.th 0).status = .waiting (.overlay 0 3) ∧ Tab.get? s.epochs 3 = none) ∧
    ∃ (s : State) (k : Task), Tab.wf s.tasks = true ∧ (s.th 0).status = .halted ∧ (s.th 0).task = some 1 ∧
      Tab.get? s.tasks 1 = some k ∧ k.state = .running ∧ k.thread = some 0 :=
  ⟨⟨demo { demoThread (regsOf []) with status := .waiting (.overlay 0 3) }, by decide, by decide⟩,
   demoTasks (fun th => { th with status := .halted }), { demoK .running 0 with thread := some 0 }, by decide, by decide, by decide,
   by decide, by decide, by decide⟩

theorem test_wit_EpochResolution :
    ∃ (s s1 : State) (e : Nat × Epoch), Fetches 0 4 false s s1 ∧ Tab.wf s1.tasks = true ∧ Tab.wf s1.epochs = true ∧
      Auth (s1.th 0) 0 0x1000 ∧ ((s1.th 0).g 2).tag = .handle ∧ (handleOf ((s1.th 0).g 2).val).kind = 2 ∧
      handleTenancyOk (s1.th 0) (handleOf ((s1.th 0).g 2).val) = true ∧
      liveEpoch s1 (handleOf ((s1.th 0).g 2).val) = some e ∧ e.2.state = .opened ∧ (s1.tenant 0).point = none := by
  let e : Epoch := ⟨1, .opened, true, none, none, 0, [], 0, false⟩
  obtain ⟨s1, h, hp⟩ := fetches_of (t := 0) (len := 4) (ext := false)
    (s := let s0 := demoTasks (fun th => { th with regs := regsOf [(capWords 0x1001).a, (capWords 0x1001).b,
            ⟨handleWord 2 0 false 1 0, .handle⟩] })
          { s0 with epochs := [(0, e)] })
    (p := fun s1 =>
      let th := s1.th 0
      let f := handleOf (th.g 2).val
      Tab.wf s1.tasks && Tab.wf s1.epochs && (th.cap 0).isUnsealed &&
      decide (capRefused th.level.val th.tenancy.val (th.cap 0).toCap = none) && (th.cap 0).toCap.has 0x1000 &&
      decide ((th.g 2).tag = .handle) && decide (f.kind = 2) && handleTenancyOk th f && decide (liveEpoch s1 f = some (0, e)) &&
      decide ((s1.tenant 0).point = none)) (by decide)
  simp only [Bool.and_eq_true, decide_eq_true_eq] at hp
  obtain ⟨⟨⟨⟨⟨⟨⟨⟨⟨h0, h1⟩, h2⟩, h3⟩, h4⟩, h5⟩, h6⟩, h7⟩, h8⟩, h9⟩ := hp
  exact ⟨_, s1, _, h, h0, h1, ⟨h2, h3, h4⟩, h5, h6, h7, h8, rfl, h9⟩

/-- A hand-off channel of core 0 to itself. -/
def demoChan (blocks : List Block) : Chan :=
  { gen := 1, tenancy := 0, dev := false, producer := 0, consumer := 0, depth := 2, slotBytes := 512, units := 1, blocks := blocks,
    task := none, halted := false, closing := false, creator := none, creatorTask := none }

/-- A demo module with a channel in slot 0, a tile group of one register of one valid row, and a thread that may use both. -/
def demoChans (blocks : List Block) : State :=
  let s := demo { demoThread (regsOf [(capWords 0x2001).a, (capWords 0x2001).b, ⟨handleWord 3 0 false 1 0, .handle⟩, .int 5,
    .int (BitVec.ofNat 64 (1 * 2 ^ 12 + 2 ^ 16))]) with group := some ⟨[5], none, 1⟩ }
  { s with chans := [(0, demoChan blocks)], chanGen := [(0, 1)], stops := Tab.put s.stops (tenKey 0 0xC010 0) ⟨1, 1⟩,
           cores := s.cores.set 0 { s.core 0 with tiles := [(5, ⟨1, 4, 1, [(0, ⟨7, 0⟩)]⟩)] } }

theorem test_wit_HandoffChannels :
    ∃ (s s1 : State) (c : Chan), Fetches 0 4 false s s1 ∧ Tab.wf s1.chans = true ∧ Auth (s1.th 0) 0 0x2000 ∧
      ((s1.th 0).g 2).tag = .handle ∧ (handleOf ((s1.th 0).g 2).val).kind = 3 ∧
      handleTenancyOk (s1.th 0) (handleOf ((s1.th 0).g 2).val) = true ∧
      liveChan s1 (handleOf ((s1.th 0).g 2).val) = some c ∧ c.halted = false ∧ c.blocks = [⟨1, 4, [(0, ⟨3, 0⟩)], true⟩] ∧
      (s1.th 0).g 3 = .int 5 ∧ (s1.th 0).group = some ⟨[5], none, 1⟩ ∧ (s1.core 0).tile 5 = ⟨1, 4, 1, [(0, ⟨7, 0⟩)]⟩ ∧
      (s1.th 0).g 4 = .int (BitVec.ofNat 64 (1 * 2 ^ 12 + 2 ^ 16)) ∧ (s1.ten 0 0xC010 0).testBit 0 = true ∧
      (s1.core 0).lentUnits = 0 ∧ tileBusy (s1.core 0) 5 = false := by
  obtain ⟨s1, h, hp⟩ := fetches_of (t := 0) (len := 4) (ext := false) (s := demoChans [⟨1, 4, [(0, ⟨3, 0⟩)], true⟩])
    (p := fun s1 =>
      let th := s1.th 0
      let f := handleOf (th.g 2).val
      Tab.wf s1.chans && (th.cap 0).isUnsealed && decide (capRefused th.level.val th.tenancy.val (th.cap 0).toCap = none) &&
      (th.cap 0).toCap.has 0x2000 && decide ((th.g 2).tag = .handle) && decide (f.kind = 3) && handleTenancyOk th f &&
      decide (liveChan s1 f = some (demoChan [⟨1, 4, [(0, ⟨3, 0⟩)], true⟩])) && decide (th.g 3 = .int 5) &&
      decide (th.group = some ⟨[5], none, 1⟩) && decide ((s1.core 0).tile 5 = ⟨1, 4, 1, [(0, ⟨7, 0⟩)]⟩) &&
      decide (th.g 4 = .int (BitVec.ofNat 64 (1 * 2 ^ 12 + 2 ^ 16))) && (s1.ten 0 0xC010 0).testBit 0 &&
      decide ((s1.core 0).lentUnits = 0) && !tileBusy (s1.core 0) 5) (by decide +kernel)
  simp only [Bool.and_eq_true, decide_eq_true_eq, Bool.not_eq_true'] at hp
  obtain ⟨⟨⟨⟨⟨⟨⟨⟨⟨⟨⟨⟨⟨⟨h0, h1⟩, h2⟩, h3⟩, h4⟩, h5⟩, h6⟩, h7⟩, h8⟩, h9⟩, h10⟩, h11⟩, h12⟩, h13⟩, h14⟩ := hp
  exact ⟨_, s1, _, h, h0, ⟨h1, h2, h3⟩, h4, h5, h6, h7, rfl, rfl, h8, h9, h10, h11, h12, h13, h14⟩

theorem test_wit_HandoffChannels_arrival :
    ∃ (s : State) (c : Chan) (b : Block), Tab.get? s.chans 0 = some c ∧ c.blocks = [] ++ b :: [] ∧ b.landed = false ∧ c.halted = false ∧
      (∀ x ∈ b.data, x.2.poison = 0) ∧ c.task = none :=
  ⟨demoChans [⟨1, 4, [(0, ⟨3, 0⟩)], false⟩], demoChan [⟨1, 4, [(0, ⟨3, 0⟩)], false⟩], ⟨1, 4, [(0, ⟨3, 0⟩)], false⟩, by decide +kernel,
    rfl, rfl, rfl, by decide, rfl⟩

/-- A stream channel end. -/
def demoStream (recv : Bool) (node : Option Nat) (ring : Tab RingSlot) : Stream :=
  { gen := 1, tenancy := 0, dev := false, number := 9, recv := recv, node := node, ring := capWords 3, slotBytes := 4096, slots := 2,
    answered := true, credit := 1, sent := 0, sending := [], granted := 2, ringSlots := ring, nextCue := 0, task := none,
    halted := false, closing := false, creator := none, creatorTask := none }

/-- A demo module with a stream channel in slot 0 and a thread whose range is 128 bytes at 0x20000. -/
def demoStreams (c : Stream) : State :=
  let range := (Cap.mk 0 0x20000 0x2301 0 false 0 128).toPair
  let node := (Cap.mk 0 0x17 0x2300 0 false 0 1).toPair
  let s := demoR [range.a, range.b, ⟨handleWord 4 0 false 1 0, .handle⟩, .int 128, node.a, node.b, .int 9]
  { s with streams := [(0, c)], streamGen := [(0, 1)] }

theorem test_wit_StreamChannels :
    ∃ (s s1 : State) (c : Stream), Fetches 0 4 false s s1 ∧ Auth (s1.th 0) 2 0x2300 ∧ (s1.th 0).g 6 = .int 9 ∧
      ((s1.th 0).cap 2).toCap.length = 1 ∧ ((s1.th 0).cap 2).toCap.base ≤ 0x3FFF ∧ ((s1.th 0).cap 0).isUnsealed = true ∧
      ((s1.th 0).g 3).tag = .int ∧ ((s1.th 0).g 2).tag = .handle ∧ Allowed (s1.th 0) ((s1.th 0).cap 0).toCap 0x2101 0x20000 128 1 ∧
      (handleOf ((s1.th 0).g 2).val).kind = 4 ∧ handleTenancyOk (s1.th 0) (handleOf ((s1.th 0).g 2).val) = true ∧
      liveStream s1 (handleOf ((s1.th 0).g 2).val) = some c ∧ c.halted = false ∧ c.recv = false ∧ c.answered = true ∧ 1 ≤ c.credit ∧
      (s1.th 0).iter = 0 ∧ runTest (sendPacket 0 c 0 0x20000 128 0 0 true) s1 (fun b _ => b) = true := by
  obtain ⟨s1, h, hp⟩ := fetches_of (t := 0) (len := 4) (ext := false) (s := demoStreams (demoStream false (some 0x17) []))
    (p := fun s1 =>
      let th := s1.th 0
      let f := handleOf (th.g 2).val
      (th.cap 2).isUnsealed && decide (capRefused th.level.val th.tenancy.val (th.cap 2).toCap = none) &&
      (th.cap 2).toCap.has 0x2300 && decide (th.g 6 = .int 9) && decide ((th.cap 2).toCap.length = 1) &&
      decide ((th.cap 2).toCap.base ≤ 0x3FFF) && (th.cap 0).isUnsealed && decide ((th.g 3).tag = .int) &&
      decide ((th.g 2).tag = .handle) && allowedB th (th.cap 0).toCap 0x2101 0x20000 128 1 && decide (f.kind = 4) &&
      handleTenancyOk th f && decide (liveStream s1 f = some (demoStream false (some 0x17) [])) && decide (th.iter = 0) &&
      runTest (sendPacket 0 (demoStream false (some 0x17) []) 0 0x20000 128 0 0 true) s1 (fun b _ => b)) (by decide +kernel)
  simp only [Bool.and_eq_true, decide_eq_true_eq] at hp
  obtain ⟨⟨⟨⟨⟨⟨⟨⟨⟨⟨⟨⟨⟨⟨h1, h2⟩, h3⟩, h4⟩, h5⟩, h6⟩, h7⟩, h8⟩, h9⟩, h10⟩, h11⟩, h12⟩, h13⟩, h14⟩, h15⟩ := hp
  exact ⟨_, s1, _, h, ⟨h1, h2, h3⟩, h4, h5, h6, h7, h8, h9, allowed_of h10, h11, h12, h13, rfl, rfl, rfl, by decide, h14, h15⟩

theorem test_wit_StreamChannels_events :
    (∃ (s : State) (c : Stream), Tab.get? s.streams 0 = some c ∧ c.recv = false ∧ c.answered = false ∧ c.halted = false ∧
      c.node = some 0x17) ∧
    (∃ (s : State) (c : Stream), s.streams.find? (fun e => e.2.recv && e.2.number == 9 && jobOf s e.2.space == 0xFFFF) = some (0, c) ∧
      c.node = none) ∧
    (∃ (s : State) (c : Stream), s.streams.find? (fun e => e.2.recv && e.2.number == fld (9 * 2 ^ 20) 31 20 && jobOf s e.2.space == 0xFFFF &&
        e.2.node == some 0x17) = some (0, c) ∧ blockNumber c (fld (9 * 2 ^ 20) 19 12) = some 0 ∧ c.slots ≠ 0 ∧ c.halted = false ∧
      c.task = none ∧ c.ringSlots = [] ∧
      (writeRing c.ring.toCap.space 66 (c.ring.toCap.base + 0x20000) (bytesWith 64 0 0) s).isSome = true) ∧
    (∃ (s : State) (c : Stream), Tab.get? s.streams 0 = some c ∧ c.halted = false ∧ ∃ a ∈ c.ringSlots, a.2.whole = false ∧ a.2.got ≠ []) :=
  ⟨⟨demoStreams { demoStream false (some 0x17) [] with answered := false }, _, rfl, rfl, rfl, rfl, rfl⟩,
   ⟨demoStreams (demoStream true none []), demoStream true none [], by decide +kernel, rfl⟩,
   ⟨demoStreams (demoStream true (some 0x17) []), demoStream true (some 0x17) [], by decide +kernel, by decide +kernel, by decide, rfl, rfl,
     rfl, by decide +kernel⟩,
   ⟨demoStreams (demoStream true (some 0x17) [(0, ⟨0, [1], none, false, none⟩)]), _, rfl, rfl, _, List.mem_singleton.mpr rfl,
     by decide +kernel, by decide⟩⟩

/-- A demo module whose thread can configure tiles: a block of one 2-row member and a 128-wide partition at 0x20000, or a group. -/
def demoTile (g : Option TileGroup) (parts : Vector Partition 4) : State :=
  let s := demo { demoThread (regsOf [(capWords 3).a, (capWords 3).b, .int 0x20000, .nil, .int 0, .int 0]) with group := g }
  { s with slc := s.slc ++ [(0x800400, heldLine (0x101 + (1 + 0x100) * 2 ^ 64))],
           cores := s.cores.set 0 { s.core 0 with parts := parts, tiles := if g.isSome then [(3, ⟨2, 4, 3, [(0, ⟨1, 0⟩), (1, ⟨2, 0⟩)]⟩)] else [] } }

theorem test_wit_TileGroups :
    (∃ (s s1 : State), Fetches 0 4 false s s1 ∧ (s1.th 0).group = none ∧ ((s1.th 0).cap 0).isUnsealed = true ∧ ((s1.th 0).g 2).tag = .int ∧
      Allowed (s1.th 0) ((s1.th 0).cap 0).toCap 1 0x20000 64 64 ∧
      runTest (loadBytes 0 0 0x20000 64) (begun 0 s1) (fun bs u => bs.all (fun b => !b.2) && decide ((u.core 0).tileWait = []) &&
        match tcfgBlock (bytesVal bs) with
        | some x => (tileFits (u.core 0) ⟨0, 4, x.1, x.2⟩).isSome && decide (x.2 = 1)
        | none => false) = true) ∧
    ∃ (s s1 : State), Fetches 0 4 false s s1 ∧ (s1.th 0).group = some ⟨[3], some 0, 1⟩ ∧ ((s1.th 0).g 4).tag = .int ∧
      ((s1.core 0).part 0).queue = [] ∧ tileBusy (s1.core 0) 3 = false ∧ (s1.th 0).pair 4 = ⟨.int 0, .int 0⟩ := by
  constructor
  · obtain ⟨s1, h, hp⟩ := fetches_of (t := 0) (len := 4) (ext := false) (s := demoTile none (Vector.replicate 4 Partition.reset))
      (p := fun s1 => decide ((s1.th 0).group = none) && ((s1.th 0).cap 0).isUnsealed && decide (((s1.th 0).g 2).tag = .int) &&
        allowedB (s1.th 0) ((s1.th 0).cap 0).toCap 1 0x20000 64 64 &&
        runTest (loadBytes 0 0 0x20000 64) (begun 0 s1) (fun bs u => bs.all (fun b => !b.2) && decide ((u.core 0).tileWait = []) &&
          match tcfgBlock (bytesVal bs) with
          | some x => (tileFits (u.core 0) ⟨0, 4, x.1, x.2⟩).isSome && decide (x.2 = 1)
          | none => false)) (by decide +kernel)
    rw [Bool.and_eq_true, Bool.and_eq_true, Bool.and_eq_true, Bool.and_eq_true, decide_eq_true_eq, decide_eq_true_eq] at hp
    exact ⟨_, s1, h, hp.1.1.1.1, hp.1.1.1.2, hp.1.1.2, allowed_of hp.1.2, hp.2⟩
  · obtain ⟨s1, h, hp⟩ := fetches_of (t := 0) (len := 4) (ext := false)
      (s := demoTile (some ⟨[3], some 0, 1⟩) (Vector.replicate 4 { Partition.reset with width := 128, holder := some 0 }))
      (p := fun s1 => decide ((s1.th 0).group = some ⟨[3], some 0, 1⟩) && decide (((s1.th 0).g 4).tag = .int) &&
        decide (((s1.core 0).part 0).queue = []) && !tileBusy (s1.core 0) 3 && decide ((s1.th 0).pair 4 = ⟨.int 0, .int 0⟩))
      (by decide +kernel)
    simp only [Bool.and_eq_true, decide_eq_true_eq, Bool.not_eq_true'] at hp
    exact ⟨_, s1, h, hp.1.1.1.1, hp.1.1.1.2, hp.1.1.2, hp.1.2, hp.2⟩

/-- A demo module in which thread 0 waits for a tile group. -/
def demoTileWait : State :=
  let s := demo { demoThread (regsOf []) with status := .waiting .tileGrant }
  { s with cores := s.cores.set 0 { s.core 0 with tileWait := [⟨0, 4, [(2, 4)], 0⟩] } }

theorem test_wit_TileGroups_waits :
    (∃ (s : State) (q : TileReq), (s.core 0).tileWait = [q] ∧ q.thread = 0 ∧ (s.th 0).status = .waiting .tileGrant ∧
      (tileFits (s.core 0) q).isSome = true) ∧
    ∃ s : State, ((s.core 0).part 0).draining = true :=
  ⟨⟨demoTileWait, ⟨0, 4, [(2, 4)], 0⟩, by decide +kernel, rfl, by decide +kernel, by decide +kernel⟩,
   demoTile none (Vector.replicate 4 { Partition.reset with draining := true }), by decide +kernel⟩

theorem test_wit_TileMoves :
    ∃ (s s1 : State), Fetches 0 4 false s s1 ∧ ((s1.th 0).cap 0).isUnsealed = true ∧ ((s1.th 0).g 2).tag = .int ∧ ((s1.th 0).g 4).tag = .int ∧
      (s1.th 0).group = some ⟨[3], some 0, 1⟩ ∧ (s1.core 0).tile 3 = ⟨2, 4, 3, [(0, ⟨1, 0⟩), (1, ⟨2, 0⟩)]⟩ ∧ (s1.th 0).iter = 0 ∧
      tileBusy (s1.core 0) 3 = false ∧ Allowed (s1.th 0) ((s1.th 0).cap 0).toCap 1 0x20000 4 4 ∧
      isOk (loadRow 0 3 ((s1.th 0).cap 0).toCap (rowAddr (s1.th 0) 0 (.short 2 4) 0) 0) s1 = true ∧
      isOk (storeRow 0 3 ((s1.th 0).cap 0).toCap (rowAddr (s1.th 0) 0 (.short 2 4) 0) 0) s1 = true := by
  obtain ⟨s1, h, hp⟩ := fetches_of (t := 0) (len := 4) (ext := false)
    (s := demoTile (some ⟨[3], some 0, 1⟩) (Vector.replicate 4 { Partition.reset with width := 128, holder := some 0 }))
    (p := fun s1 => ((s1.th 0).cap 0).isUnsealed && decide (((s1.th 0).g 2).tag = .int) && decide (((s1.th 0).g 4).tag = .int) &&
      decide ((s1.th 0).group = some ⟨[3], some 0, 1⟩) && decide ((s1.core 0).tile 3 = ⟨2, 4, 3, [(0, ⟨1, 0⟩), (1, ⟨2, 0⟩)]⟩) &&
      decide ((s1.th 0).iter = 0) && !tileBusy (s1.core 0) 3 && allowedB (s1.th 0) ((s1.th 0).cap 0).toCap 1 0x20000 4 4 &&
      isOk (loadRow 0 3 ((s1.th 0).cap 0).toCap (rowAddr (s1.th 0) 0 (.short 2 4) 0) 0) s1 &&
      isOk (storeRow 0 3 ((s1.th 0).cap 0).toCap (rowAddr (s1.th 0) 0 (.short 2 4) 0) 0) s1) (by decide +kernel)
  simp only [Bool.and_eq_true, decide_eq_true_eq, Bool.not_eq_true'] at hp
  obtain ⟨⟨⟨⟨⟨⟨⟨⟨⟨h1, h2⟩, h3⟩, h4⟩, h5⟩, h6⟩, h7⟩, h8⟩, h9⟩, h10⟩ := hp
  exact ⟨_, s1, h, h1, h2, h3, h4, h5, h6, h7, allowed_of h8, h9, h10⟩

/-- A demo module whose thread has a group of an A tile (1 × 4 bytes), a B tile (4 rows of 128 bytes) and a partition of 128. -/
def demoMma (queue : List Pass) : State :=
  let int8 : Word := 0x83F8000000 ||| 0x8000000000000000
  let s := demo { demoThread (regsOf [⟨int8, .fmt⟩, ⟨int8, .fmt⟩, .int 0]) with group := some ⟨[3, 4], some 0, 1⟩ }
  let row (n : Nat) : TRow := ⟨n, 0⟩
  { s with cores := s.cores.set 0 { s.core 0 with
      parts := (Vector.replicate 4 Partition.reset).set 0 { Partition.reset with width := 128, holder := some 0, queue := queue },
      tiles := [(3, ⟨1, 4, 1, [(0, row 0x01010101)]⟩), (4, ⟨4, 128, 15, [(0, row 1), (1, row 2), (2, row 3), (3, row 4)]⟩)] } }

/-- A pass of the demo module. -/
def demoPass (started : Bool) : Pass :=
  { isTz := false, bank := 0, a := 3, b := [4], aScale := none, bScale := none, fmtA := 0x80000003F8000000, fmtB := 0x80000003F8000000,
    k := 4, m := 1, mask := BitVec.ofNat 128 (2 ^ 128 - 2), started := started }

theorem test_wit_MatrixPasses :
    ∃ (s s1 : State) (wa wb : Word), Fetches 0 4 false s s1 ∧ Holds (s1.th 0) 0 wa .fmt ∧ Holds (s1.th 0) 1 wb .fmt ∧
      Holds (s1.th 0) 2 0 .int ∧ (s1.th 0).group = some ⟨[3, 4], some 0, 1⟩ ∧ ((s1.core 0).part 0).full = false ∧
      isOk (passPlan 0 0 1 0 wa wb none) (begun 0 s1) = true ∧ ((s1.core 0).tile 3).rows = 1 ∧ ((s1.core 0).part 0).queue = [] := by
  obtain ⟨s1, h, hp⟩ := fetches_of (t := 0) (len := 4) (ext := false) (s := demoMma [])
    (p := fun s1 => decide ((s1.th 0).g 0 = ⟨0x80000083F8000000, .fmt⟩) && decide ((s1.th 0).g 1 = ⟨0x80000083F8000000, .fmt⟩) &&
      decide ((s1.th 0).g 2 = ⟨0, .int⟩) && decide ((s1.th 0).group = some ⟨[3, 4], some 0, 1⟩) && !((s1.core 0).part 0).full &&
      isOk (passPlan 0 0 1 0 0x80000083F8000000 0x80000083F8000000 none) (begun 0 s1) && decide (((s1.core 0).tile 3).rows = 1) &&
      decide (((s1.core 0).part 0).queue = [])) (by decide +kernel)
  simp only [Bool.and_eq_true, decide_eq_true_eq, Bool.not_eq_true'] at hp
  obtain ⟨⟨⟨⟨⟨⟨⟨h1, h2⟩, h3⟩, h4⟩, h5⟩, h6⟩, h7⟩, h8⟩ := hp
  exact ⟨_, s1, _, _, h, h1, h2, h3, h4, h5, h6, h7, h8⟩

theorem test_wit_MatrixPasses_queue :
    (∃ (s : State) (q : Pass), ((s.core 0).part 0).queue = [] ++ q :: [] ∧ q.started = false ∧ q.isTz = false) ∧
    (∃ (s : State) (q : Pass), ((s.core 0).part 0).queue = [q] ∧ q.started = true ∧ ((s.core 0).part 0).draining = false) ∧
    (∃ (s : State) (q : Pass), ((s.core 0).part 0).queue = [q] ∧ q.isTz = true) ∧
    ∃ (k : Core) (q : Pass), q.integer = true ∧ 0 ∈ q.liveRows ∧ (Bank.reset.cells 128 0)[5]? = some (0, false) ∧
      (∀ a ∈ rowElems (fmtOf q.fmtA).format (fmtOf q.fmtA).mx q.k ((k.tile q.a).row 0), a.2 = false) ∧
      ∀ x ∈ bRows k q 128, x.length = 128 ∧ ∃ y, x[5]? = some (y, false) :=
  ⟨⟨demoMma [demoPass false], _, rfl, rfl, rfl⟩, ⟨demoMma [demoPass true], _, rfl, rfl, rfl⟩,
   ⟨demoMma [{ demoPass true with isTz := true }], _, rfl, rfl⟩,
   (demoMma []).core 0, demoPass true, by decide +kernel, by decide +kernel, by decide +kernel, by decide +kernel, by
     intro x hx
     have h : (bRows ((demoMma []).core 0) (demoPass true) 128).all (fun x => decide (x.length = 128) &&
       decide ((x[5]?).map (fun y => y.2) = some false)) = true := by decide +kernel
     rw [List.all_eq_true] at h
     have := h x hx
     simp only [Bool.and_eq_true, decide_eq_true_eq, Option.map_eq_some_iff] at this
     obtain ⟨h1, ⟨y, b⟩, h2, h3⟩ := this
     exact ⟨h1, y, by simpa [← h3] using h2⟩⟩

theorem test_wit_Conversions :
    ∃ (s s1 : State) (wd : Word), Fetches 0 4 false s s1 ∧ Holds (s1.th 0) 0 wd .fmt ∧ Holds (s1.th 0) 2 0 .int ∧
      (s1.th 0).group = some ⟨[3, 4, 5], some 0, 1⟩ ∧ (s1.core 0).lv = .powered ∧
      isOk (passPlan 0 0 1 0 wd wd (some (2, wd))) (begun 0 s1) = true ∧ ((s1.core 0).part 0).queue = [] ∧
      runTest (readTensor 0 (fmtOf wd)) (begun 0 s1) (fun rcd s2 => runTest (convertRows 0 (fmtOf wd) rcd numOne numOne
        [(0, [(Machine.numOne, false)])] 2 [0]) s2 (fun r _ => r.exhausted.isNone)) = true := by
  obtain ⟨s1, h, hp⟩ := fetches_of (t := 0) (len := 4) (ext := false)
    (s := let s0 := demoMma []
          (s0.setTh 0 { s0.th 0 with group := some ⟨[3, 4, 5], some 0, 1⟩ }).setCore 0 { s0.core 0 with
            lv := .powered, tiles := (s0.core 0).tiles ++ [(5, ⟨1, 128, 0, []⟩)] })
    (p := fun s1 => decide ((s1.th 0).g 0 = ⟨0x80000083F8000000, .fmt⟩) && decide ((s1.th 0).g 2 = ⟨0, .int⟩) &&
      decide ((s1.th 0).group = some ⟨[3, 4, 5], some 0, 1⟩) && decide ((s1.core 0).lv = .powered) &&
      isOk (passPlan 0 0 1 0 0x80000083F8000000 0x80000083F8000000 (some (2, 0x80000083F8000000))) (begun 0 s1) &&
      decide (((s1.core 0).part 0).queue = []) &&
      runTest (readTensor 0 (fmtOf 0x80000083F8000000)) (begun 0 s1) (fun rcd s2 =>
        runTest (convertRows 0 (fmtOf 0x80000083F8000000) rcd numOne numOne [(0, [(Machine.numOne, false)])] 2 [0]) s2
          (fun r _ => r.exhausted.isNone))) (by decide +kernel)
  simp only [Bool.and_eq_true, decide_eq_true_eq] at hp
  obtain ⟨⟨⟨⟨⟨⟨h1, h2⟩, h3⟩, h4⟩, h5⟩, h6⟩, h7⟩ := hp
  exact ⟨_, s1, _, h, h1, h2, h3, h4, h5, h6, h7⟩

/-- The demo module with the long-vector unit of core 0 POWERED. -/
def demoV (l : List Reg) : State :=
  let s := demoR l
  { s with cores := s.cores.set 0 { s.core 0 with lv := .powered } }

theorem test_wit_LongVectorLanes : ∃ (s s1 : State), Fetches 0 4 false s s1 ∧ (s1.core (Tid.core 0)).lv = .powered := by
  obtain ⟨s1, h, hp⟩ := fetches_of (t := 0) (len := 4) (ext := false) (s := demoV [])
    (p := fun s1 => decide ((s1.core (Tid.core 0)).lv = .powered)) (by decide)
  exact ⟨_, s1, h, of_decide_eq_true hp⟩

theorem test_wit_LongVectorMoves :
    ∃ (s s1 : State), Fetches 0 4 false s s1 ∧ (s1.core (Tid.core 0)).lv = .powered ∧ Holds (s1.th 0) 2 5 .int ∧
      Holds (s1.th 0) 3 200 .int ∧ ((s1.th 0).pair 0).a.tag = .int ∧ ((s1.th 0).pair 0).b.tag = .poison := by
  obtain ⟨s1, h, hp⟩ := fetches_of (t := 0) (len := 4) (ext := false) (s := demoV [.int 9, .poison, .int 5, .int 200])
    (p := fun s1 => decide ((s1.core (Tid.core 0)).lv = .powered) && decide ((s1.th 0).g 2 = .int 5) &&
      decide ((s1.th 0).g 3 = .int 200) && decide (((s1.th 0).pair 0).a.tag = .int) &&
      decide (((s1.th 0).pair 0).b.tag = .poison)) (by decide)
  simp only [Bool.and_eq_true, decide_eq_true_eq] at hp
  obtain ⟨⟨⟨⟨h1, h2⟩, h3⟩, h4⟩, h5⟩ := hp
  exact ⟨_, s1, h, h1, h2, h3, h4, h5⟩

theorem test_wit_LongVectorDown :
    ∃ (s s1 : State), Fetches 0 4 false s s1 ∧ (s1.core (Tid.core 0)).lv ≠ .powered := by
  obtain ⟨s1, h, hp⟩ := fetches_of (t := 0) (len := 4) (ext := false) (s := demoR [])
    (p := fun s1 => decide ((s1.core (Tid.core 0)).lv ≠ .powered)) (by decide)
  exact ⟨_, s1, h, of_decide_eq_true hp⟩

theorem test_wit_LongVectorPower :
    ∃ (s v : State), (s.core 0).lv = .waking ∧ (s.th 3).status = .waiting .lvWake ∧ (v.core 0).lv = .powered ∧
      vecAssigned v 0 = false ∧ ∀ t : Tid, t.core = 0 → (v.th t).status ≠ .waiting .lvWake := by
  refine ⟨((demoV []).setCore 0 { (demoV []).core 0 with lv := .waking }).setTh 3
    { Thread.reset with status := .waiting .lvWake }, demoV [], by decide, by decide, by decide, by decide, ?_⟩
  intro t _
  by_cases h : t = 0
  · subst h; decide
  · have e : (demoV []).th t = Thread.reset := by
      show ((Vector.replicate 768 Thread.reset).set 0 (demoThread (regsOf [])))[t.val] = Thread.reset
      rw [Vector.getElem_set_ne _ _ (by intro hh; exact h (Fin.ext hh.symm))]
      simp
    rw [e]; decide

/-- The demo module with a POWERED unit, a capability, an offset and words from g4 on. -/
def demoVM (l : List Reg) : State := demoV ([(capWords 0x1B).a, (capWords 0x1B).b, .int 0x20000, .nil] ++ l)

theorem test_wit_VectorLoadsAndStores :
    ∃ (cs : PIdx) (m : VMForm) (s s1 : State), Fetches 0 (lenOf m.isExt) m.isExt s s1 ∧ (s1.core (Tid.core 0)).lv = .powered ∧
      (s1.th 0).g (vmCount m) = .int 256 ∧ ((s1.th 0).cap cs).isUnsealed = true ∧ ((s1.th 0).g 2).tag = .int ∧
      Allowed (s1.th 0) ((s1.th 0).cap cs).toCap 1 (vmAddr (s1.th 0) cs m 0) 256 64 ∧
      Allowed (s1.th 0) ((s1.th 0).cap cs).toCap 2 (vmAddr (s1.th 0) cs m 0) 256 64 ∧
      (∃ bs s2, demandBytes 0 ((s1.th 0).cap cs).toCap (vmAddr (s1.th 0) cs m 0) 256 (begun 0 s1) = .ok bs s2) ∧
      ∀ bs : List PByte, bs.length = 256 →
        ∃ s2, Stores 0 ((s1.th 0).cap cs).toCap.space (vmAddr (s1.th 0) cs m 0) bs false (begun 0 s1) s2 := by
  obtain ⟨s1, h, hp⟩ := fetches_of (t := 0) (len := 4) (ext := false)
    (s := let s := demoVM [.int 256]
          { s with slc := s.slc ++ [(0x800400, heldLine 0x1234), (0x800401, heldLine 0x5678)] })
    (p := fun s1 =>
      let th := s1.th 0
      let c := (th.cap 0).toCap
      let m : VMForm := .short 2 4
      decide ((s1.core (Tid.core 0)).lv = .powered) && decide (th.g 4 = .int 256) && (th.cap 0).isUnsealed &&
      decide ((th.g 2).tag = .int) && allowedB th c 1 (vmAddr th 0 m 0) 256 64 && allowedB th c 2 (vmAddr th 0 m 0) 256 64 &&
      isOk (demandBytes 0 c (vmAddr th 0 m 0) 256) (begun 0 s1) &&
      canStore 0 c.space (vmAddr th 0 m 0) (List.replicate 256 (0, false)) (begun 0 s1)) (by decide +kernel)
  simp only [Bool.and_eq_true, decide_eq_true_eq] at hp
  obtain ⟨⟨⟨⟨⟨⟨⟨h1, h2⟩, h3⟩, h4⟩, h5⟩, h6⟩, h7⟩, h8⟩ := hp
  refine ⟨0, .short 2 4, _, s1, h, h1, h2, h3, h4, allowed_of h5, allowed_of h6, isOk_iff h7, fun bs hb => ?_⟩
  refine stores_of false (h := ?_)
  simpa [canStore, hb] using h8

theorem test_wit_VectorReductions :
    ∃ (m : VMForm) (s s1 : State), Fetches 0 (lenOf m.isExt) m.isExt s s1 ∧ (s1.core (Tid.core 0)).lv = .powered ∧
      (s1.th 0).g (vmCount m) = .int 3 ∧ ((s1.th 0).cap 0).isUnsealed = true ∧ ((s1.th 0).g 2).tag = .int ∧ (s1.th 0).iter = 0 ∧
      Allowed (s1.th 0) ((s1.th 0).cap 0).toCap 3 (vmAddr (s1.th 0) 0 m 0) 12 4 ∧
      isOk (xlateAll 0 0 .read (pieces 8 (vmAddr (s1.th 0) 0 m 0) 12)) s1 = true ∧
      runTest (loadBytes 0 0 (vmAddr (s1.th 0) 0 m 0) 12) s1 (fun _ s2 =>
        canStore 0 0 (vmAddr (s1.th 0) 0 m 0) (List.replicate 12 (0, false)) s2) = true := by
  obtain ⟨s1, h, hp⟩ := fetches_of (t := 0) (len := 4) (ext := false)
    (s := let s := demoVM [.int 3]
          { s with slc := s.slc ++ [(0x800400, heldLine 0x3F800000)] })
    (p := fun s1 =>
      let th := s1.th 0
      let m : VMForm := .short 2 4
      decide ((s1.core (Tid.core 0)).lv = .powered) && decide (th.g 4 = .int 3) && (th.cap 0).isUnsealed &&
      decide ((th.g 2).tag = .int) && decide (th.iter = 0) && allowedB th (th.cap 0).toCap 3 (vmAddr th 0 m 0) 12 4 &&
      isOk (xlateAll 0 0 .read (pieces 8 (vmAddr th 0 m 0) 12)) s1 &&
      runTest (loadBytes 0 0 (vmAddr th 0 m 0) 12) s1 (fun _ s2 =>
        canStore 0 0 (vmAddr th 0 m 0) (List.replicate 12 (0, false)) s2)) (by decide +kernel)
  simp only [Bool.and_eq_true, decide_eq_true_eq] at hp
  obtain ⟨⟨⟨⟨⟨⟨⟨h1, h2⟩, h3⟩, h4⟩, h5⟩, h6⟩, h7⟩, h8⟩ := hp
  exact ⟨.short 2 4, _, s1, h, h1, h2, h3, h4, h5, allowed_of h6, h7, h8⟩

theorem test_wit_SummationOrder :
    ∃ (blocks : List (List PLane)) (v : VReg), blocks.length = 3 ∧ (∀ b ∈ blocks, b.length ≤ 128) ∧ ∀ j, j < 16 → v.word j = (0, false) :=
  ⟨[[(0x3F800000, false)], [(0x40000000, false)], []], .zero, rfl, by simp, by decide⟩

/-- A demo module whose thread may command every engine, with a block at 0x20000. -/
def demoEng : State :=
  demoR [(capWords 0x0F0B).a, (capWords 0x0F0B).b, .int 0x20000, .int 2]

theorem test_wit_EngineIssue :
    ∃ (s s1 : State), Fetches 0 4 false s s1 ∧ ((s1.th 0).cap 0).isUnsealed = true ∧ (s1.th 0).g 2 = .int 0x20000 ∧
      (s1.th 0).g 3 = .int 2 ∧ Allowed (s1.th 0) ((s1.th 0).cap 0).toCap 0x0A09 0x20000 256 256 ∧
      Auth (s1.th 0) 0 0x0B02 ∧ Allowed (s1.th 0) ((s1.th 0).cap 0).toCap 0x0901 0 128 1 ∧ s1.cmds = [] := by
  obtain ⟨s1, h, hp⟩ := fetches_of (t := 0) (len := 4) (ext := false) (s := demoEng)
    (p := fun s1 =>
      let th := s1.th 0
      let c := (th.cap 0).toCap
      (th.cap 0).isUnsealed && decide (th.g 2 = .int 0x20000) && decide (th.g 3 = .int 2) && allowedB th c 0x0A09 0x20000 256 256 &&
      decide (capRefused th.level.val th.tenancy.val c = none) && c.has 0x0B02 && allowedB th c 0x0901 0 128 1 &&
      decide (s1.cmds = [])) (by decide)
  simp only [Bool.and_eq_true, decide_eq_true_eq] at hp
  obtain ⟨⟨⟨⟨⟨⟨⟨h1, h2⟩, h3⟩, h4⟩, h5⟩, h6⟩, h7⟩, h8⟩ := hp
  exact ⟨_, s1, h, h1, h2, h3, allowed_of h4, ⟨h1, h5, h6⟩, allowed_of h7, h8⟩

theorem test_wit_EngineIssue_full :
    ∃ (s : State), (s.th 0).status = .waiting .engineQueue ∧ (s.th 0).waitsWith = some (.engine (0 * 4096 + 5) 3 0 (.short 2)) :=
  ⟨(demoEng).setTh 0 { (demoEng).th 0 with status := .waiting .engineQueue, waitsWith := some (.engine 5 3 0 (.short 2)) },
    by decide, by decide⟩

/-- A live gather command of tenancy 0 over a range, with an argument and entries. -/
def demoGe (op base len arg : Nat) (es : List GEntry) : Cmd :=
  ⟨1, 2, op, 0, 0, false, 0, 0, none, none, 0, (Cap.mk 0 base 0x0B03 0 false 0 len).toPair, BitVec.ofNat 64 arg, [], 0, 0, .started,
    [], es, [], .zero⟩

/-- A demo module with a REMOTE page of 1 GiB at 0x40000000, frame quota and shadow quota, and one live gather command. -/
def demoGather (c : Cmd) : State :=
  let s := demo (demoThread (regsOf []))
  { s with
    slc := [(0x2000, heldLine 0x200001), (0x4000, heldLine (0x40000002 + 0x7C * 2 ^ 48 + (4 + 5 * 2 ^ 48 + 0x4000 * 2 ^ 16) * 2 ^ 64))]
    stops := Tab.put (Tab.put s.stops (tenKey 0 0xC030 1) ⟨65536, 1⟩) (tenKey 0 0xC030 3) ⟨65536, 1⟩
    freeFrames := s.freeFrames.set 0 [(0x4000 * 4, 0x4000)]
    cmds := [(cmdIndex 2 0 0, c)] }

theorem test_wit_GatherSchedules :
    ∃ (s : State) (i : Nat) (c : Cmd) (g : GEntry), Tab.get? s.cmds i = some c ∧ c.engine = 2 ∧ c.phase = .started ∧
      c.entries[0]? = some g ∧ g.state = 0 ∧
      (match walk s c.cs.toCap.space g.va with
        | (y, .leaf l _ _) => match remotePages c.cs.toCap.space l g.va [0] y with
          | (z, .ok ps) => match bindPages c.cs.toCap.space l 0 [.entry c.seq 0 none] none ps 0 z with
            | .ok _ => decide (l = 1) && shadowFits z c.cs.toCap.space 1 (levelUnits 1)
            | .error _ => false
          | _ => false
        | _ => false) = true := by
  refine ⟨demoGather (demoGe 1 0x40000000 (2 ^ 30) 0 [⟨0x40000000, 1, 0, 0, 0, 0, 0, 0, true⟩]), cmdIndex 2 0 0, _, _, rfl, rfl, rfl, rfl, rfl, ?_⟩
  decide +kernel

theorem test_wit_GatherFilled :
    ∃ (s : State) (i : Nat) (c : Cmd) (g : GEntry), Tab.get? s.cmds i = some c ∧ c.engine = 2 ∧ c.entries[0]? = some g ∧
      g.state = 1 ∧ s.shadows = [] :=
  ⟨demoGather (demoGe 1 0x40000000 (2 ^ 30) 0 [⟨0x40000000, 1, 0, 0, 0, 0, 1, 1, true⟩]), cmdIndex 2 0 0, _, _, rfl, rfl, rfl, rfl,
    by decide⟩

theorem test_wit_PgSetComplete :
    ∃ (s : State) (i : Nat) (c : Cmd) (y : State), Tab.get? s.cmds i = some c ∧ c.engine = 2 ∧ c.op = 16 ∧
      pgSet s c.cs.toCap.space c.cs.toCap.base c.cs.toCap.length (setArgOf c.arg.toNat) (c.level == 2) = .ok y := by
  let c := demoGe 16 0x80000000 (2 ^ 30) 0x7800000000000000 []
  let s : State := { State.reset with cmds := [(cmdIndex 2 0 0, c)] }
  have h : (match pgSet s c.cs.toCap.space c.cs.toCap.base c.cs.toCap.length (setArgOf c.arg.toNat) (c.level == 2) with
      | .ok _ => true
      | .error _ => false) = true := by decide +kernel
  split at h
  · rename_i y hy
    exact ⟨s, cmdIndex 2 0 0, c, y, rfl, rfl, rfl, hy⟩
  · cases h

/-- A demo module with a shadow frame that waits for its bytes and a thread that waits for it. -/
def demoShadow (got : List (Nat × Nat)) : State :=
  let s := demo (demoThread (regsOf []))
  { s with
    threads := s.threads.set 1 { Thread.reset with status := .waiting (.remote 0 0x4000 0x40000010) }
    shadows := [⟨0, 0x4000, 3, 5, 7, 0x9000, none, got, [], false, 0⟩]
    fills := [⟨0, 0x8000, 3, 0x9100⟩] }

theorem test_wit_RemotePages_shadow :
    ∃ (s : State) (x : Shadow), s.shadows.find? (fun y => y.space == (0 : Fin 17).val && y.page == 0x4000 && !y.filled) = some x ∧
      x.layout = none ∧ x.got = [(0, levelUnits x.level * 65536)] ∧ s.cmds = [] ∧
      (s.th 1).status = .waiting (.remote x.space x.page 0x40000010) ∧
      s.shadows.filter (fun y => y.node == 5 && y.rframe == 7 && jobOf s y.space == 0xFFFF && !y.filled) = [x] :=
  ⟨demoShadow [(0, 65536)], _, rfl, rfl, rfl, by decide, by decide, by decide +kernel⟩

theorem test_wit_RemotePages_fill :
    ∃ (s : State) (f : Fill), s.fills.find? (fun g => g.space == (0 : Fin 17).val && g.page == 0x100) = some f ∧
      (match walk s (spaceOf f.space) (f.page * 65536) with
        | (_, .leaf level _ e) => decide (level = 1 ∧ e % 8 = 3)
        | _ => false) = true := by
  refine ⟨{ demo (demoThread (regsOf [])) with
    slc := [(0x2000, heldLine 0x200001), (0x4000, heldLine (0x3 + 0x7C * 2 ^ 48))], fills := [⟨0, 0x100, 1, 0x10000⟩] }, _, rfl, ?_⟩
  decide +kernel

theorem test_wit_RemotePages_served :
    ∃ (s : State) (l : Leaf), s.ten 0 0xC080 3 = 9 ∧ s.tstate 0 = tsRunning ∧ leafOfFrame s 0 (0x4000 * 65536) = some l ∧
      l.entry.testBit 55 = true ∧ l.entry.testBit 50 = true := by
  let s : State := { demo (demoThread (regsOf [])) with
    slc := [(0x2000, heldLine 0x200001), (0x4000, heldLine (0x40000002 + 0xFC * 2 ^ 48))]
    stops := Tab.put (Tab.put (demo (demoThread (regsOf []))).stops (tenKey 0 0xC080 3) ⟨9, 1⟩) (tenKey 0 0xC080 4) ⟨tsRunning, 1⟩ }
  have h : (match leafOfFrame s 0 (0x4000 * 65536) with
    | some l => l.entry.testBit 55 && l.entry.testBit 50
    | none => false) = true := by decide +kernel
  split at h
  · rename_i l hl
    simp only [Bool.and_eq_true] at h
    exact ⟨s, l, by decide +kernel, by decide +kernel, hl, h.1, h.2⟩
  · cases h

theorem test_wit_CacheCommands_fill :
    ∃ (s : State) (m : Miss) (l : CLine), Tab.get? s.misses 0x2000 = some m ∧ m.sectors = 2 ^ (1 : Fin 4).val ∧
      m.sectors.testBit 1 = true ∧ sliceOff s (sliceOf (128 * 0x2000)) = false ∧ Tab.get? s.slc 0x2000 = some l ∧ l.valid = 15 ∧
      s.slcErrs = [] :=
  ⟨{ demo (demoThread (regsOf [])) with misses := [(0x2000, ⟨2, 0, 0, 1, 16⟩)] }, _, _, rfl, by decide, by decide, by decide +kernel, rfl,
    by decide, by decide⟩

theorem test_wit_CacheCommands_victim :
    ∃ (s : State) (v : Nat × CLine), s.victims.find? (fun v => sliceOf (128 * v.1) == (0 : Fin 192).val && v.2.dirty != 0) = some v := by
  refine ⟨{ demo (demoThread (regsOf [])) with victims := [(0, { heldLine 5 with dirty := 255 })] }, (0, { heldLine 5 with dirty := 255 }), ?_⟩
  decide +kernel

theorem test_wit_CacheCommands_ctl :
    ∃ (s s' : State), ¬ (∃ t, t < 16 ∧ s.tstate t = tsRunning) ∧ sliceOff s 3 = false ∧ l1Off s 2 = false ∧
      Tab.wf (s.core 2).l1 = true ∧ sliceOff s' 3 = true ∧ ¬ (∃ t, t < 16 ∧ s'.tstate t = tsRunning) ∧
      windowOk s 1 2 (0x10000 * 2 ^ 64) = true := by
  refine ⟨demo (demoThread (regsOf [])), { demo (demoThread (regsOf [])) with stops := [(devKey 0xF030 1, ⟨8, 1⟩)] }, ?_, ?_⟩
  · decide +kernel
  · decide +kernel

/-- A live Bellows command of tenancy 0 whose slots lie one after another from physical 0x40000000 + 0x100000 on. -/
def demoBel (op : Nat) (phase : CmdPhase) (block : List Nat) (lens : List Nat) (aux : List Nat) : Cmd :=
  let slot (k len : Nat) : SlotMap :=
    ⟨k, 0, 0x100000 + 0x10000 * k, len, false, true, [⟨0x100000 + 0x10000 * k, len, 0x40100000 + 0x10000 * k, 0x40100000 + 0x10000 * k, false⟩]⟩
  ⟨1, 0, op, 0, 0, false, 0, 0, none, none, 0, ⟨.nil, .nil⟩, 0, block, 0, 0, phase, (lens.zip (List.range lens.length)).map (fun x => slot x.2 x.1),
    [], aux, .zero⟩

/-- The demo module with that command live. -/
def demoBells (c : Cmd) : State := { demo (demoThread (regsOf [])) with cmds := [(0, c)] }

theorem test_wit_BellowsEffects :
    ∀ op ∈ [0, 1, 2, 3, 4, 5, 6, 16], ∃ (s : State) (c : Cmd), Tab.get? s.cmds 0 = some c ∧ c.engine = 0 ∧ c.op = op ∧
      c.phase = .started ∧ cmdBlocked s c = false ∧ drainHolds s c = false := by
  intro op h
  refine ⟨demoBells (demoBel op .started [] [] []), demoBel op .started [] [] [], rfl, rfl, rfl, rfl, ?_, ?_⟩
  · simp [cmdBlocked, demoBells, demoBel]
  · show drainHolds (demo (demoThread (regsOf []))) (demoBel op .started [] [] []) = false
    simp [drainHolds, demoBel]
    decide +kernel

theorem test_wit_BellowsGather :
    ∃ (c : Cmd), c.op = 3 ∧ (let r := readElems (demoBells c) (c.ep (demoBells c)) (c.slot 2) (c.slot 2).alt 4 0 2
      r.2 = [(0, false), (0, false)] ∧ 0 < (c.slot 1).len / 32) := by
  refine ⟨demoBel 3 .started ((List.replicate 17 0) ++ [32 + 0 * 2 ^ 32]) [64, 64, 8] [], rfl, ?_⟩
  decide +kernel

theorem test_wit_SweepHeldReserved_page :
    ∃ (s : State), (s.th 1).status = .waiting (.reencrypt (0 : Fin 17).val 0) ∧ (s.sp 0).sweeping = true ∧
      (match walk s 0 (0 * 65536) with
        | (w, .leaf 1 _ e) => decide (e % 8 = 2) && decide (e / 2 ^ 62 ≠ (w.sp 0).keyEpoch % 4) && !rangeHeld w 0 0 (2 ^ 30)
        | _ => false) = true := by
  refine ⟨(({ demo (demoThread (regsOf [])) with stops := [(0x1C03000, ⟨0x100000, 1⟩)] }).setSp 0 { (demo (demoThread (regsOf []))).sp 0 with
    sweeping := true, keyEpoch := 1 }).setTh 1 { Thread.reset with status := .waiting (.reencrypt 0 0) }, by decide, by decide, ?_⟩
  decide +kernel

theorem test_wit_SweepHeldReserved_shadow :
    ∃ (s : State) (x : Shadow), (s.sp 0).sweeping = true ∧ s.shadows.find? (fun y => y.space == (0 : Fin 17).val && y.page == 0x4000) = some x ∧
      x.filled = true ∧ x.keyEpoch ≠ (s.sp 0).keyEpoch % 4 ∧ rangeHeld s 0 (x.page * 65536) 65536 = false := by
  refine ⟨({ demo (demoThread (regsOf [])) with shadows := [⟨0, 0x4000, 3, 5, 7, 0x9000, none, [], [], true, 0⟩] }).setSp 0
    { (demo (demoThread (regsOf []))).sp 0 with sweeping := true, keyEpoch := 1 }, _, by decide, rfl, by decide, by decide, by decide⟩

theorem test_wit_SweepHeldReserved_held :
    ∃ (s : State) (c : Cmd), Tab.get? s.cmds 0 = some c ∧ c.phase = .held ∧ c.engine = 0 :=
  ⟨{ demo (demoThread (regsOf [])) with cmds := [(0, ⟨1, 0, 5, 0, 0, false, 0, 0, none, none, 0, ⟨.nil, .nil⟩, 0, [], 0, 0, .held, [], [],
    [], .zero⟩)] }, _, rfl, rfl, rfl⟩

theorem test_wit_SweepHeldReserved_word :
    ∃ (s s1 : State), Fetches 0 (lenOf ((0 : BitVec 32).toNat / 2 ^ 25 == 0x7E)) ((0 : BitVec 32).toNat / 2 ^ 25 == 0x7E) s s1 ∧
      ((0xEA000000 : BitVec 32).toNat / 2 ^ 25 = 0x75) ∧ (0 : BitVec 32).toNat / 2 ^ 25 = 0 := by
  obtain ⟨s1, h, _⟩ := fetches_of (t := 0) (len := 4) (ext := false) (s := demoR []) (p := fun _ => true) (by decide)
  exact ⟨_, s1, h, by decide, by decide⟩

/-- A demo module with port 3 in a state, changed as a function says. -/
def demoPort (st : Nat) (f : Port → Port) : State :=
  let s := demo (demoThread (regsOf []))
  { s with stops := Tab.put s.stops (devKey 0x4002 3) ⟨st, 1⟩, ports := s.ports.set 3 (f Port.reset) }

theorem test_wit_LinkPorts :
    (∃ s : State, s.dev 0x4002 (3 : Fin 16).val % 8 = 1) ∧
    (∃ s : State, s.dev 0x4002 (3 : Fin 16).val % 8 = 4 ∧ (s.port 3).rxLanes.testBit 5 = true ∧ (s.port 3).kex = none ∧
      2 ^ 39 ≤ (s.port 3).txCount ∧ (s.port 3).nextRx = some ⟨1, 2⟩ ∧ 1 = (s.port 3).keyEpoch) ∧
    (∃ (s : State) (body : BitVec 2016), s.dev 0x4002 (3 : Fin 16).val % 8 = 2 ∧ (body.toNat / 256 ^ 3 % 256).testBit 1 = false ∧
      body.toNat / 256 ^ 8 % 256 ^ 8 = s.dev 0x4000 1 ∧ body.toNat / 256 ^ 16 % 256 ^ 8 = s.dev 0x1010 0) ∧
    (∃ (s : State) (k : Kex), s.dev 0x4002 (3 : Fin 16).val % 8 = 3 ∧ (s.port 3).kex = some k ∧ k.part = some (1, 1, 46, ⟨0, 0⟩)) := by
  refine ⟨⟨demoPort 1 id, by decide⟩,
    ⟨demoPort 4 (fun x => { x with rxLanes := 0xFF, txCount := 2 ^ 39, nextRx := some ⟨1, 2⟩, keyEpoch := 1 }), by decide, by decide,
      by decide, by decide, by decide, by decide⟩,
    ⟨demoPort 2 id, BitVec.ofNat 2016 ((demoPort 2 id).dev 0x4000 1 * 256 ^ 8 + (demoPort 2 id).dev 0x1010 0 * 256 ^ 16), by decide,
      by decide +kernel, by decide +kernel, by decide +kernel⟩,
    ⟨demoPort 3 (fun x => { x with kex := some ⟨0, ⟨0, 0⟩, ⟨0, 0⟩, none, none, none, some (1, 1, 46, ⟨0, 0⟩)⟩ }), _, by decide, rfl, rfl⟩⟩

/-- A block header with SEQ, ACK and returned credit, and its HCRC. -/
def demoHdr (seq ack cred : Nat) : BitVec 40 :=
  let v := seq * 2 ^ 28 + ack * 2 ^ 16 + cred * 2 ^ 8
  BitVec.ofNat 40 (v + headerCrc v)

/-- A flit of a header byte and a body. -/
def demoFlit (hdr body : Nat) : BitVec 2048 := BitVec.ofNat 2048 (mkFlit hdr body)

theorem demoFlit_good (f : BitVec 2048) (h : (flitCrc (f.toNat % 256 ^ 253) == f.toNat / 256 ^ 253) = true) :
    flitCrc (f.toNat % 256 ^ 253) = f.toNat / 256 ^ 253 := by simpa using h

/-- A packet of TYPE 9 from node 5. -/
def demoPacket (dest flags hops : Nat) : Packet := ⟨dest, 5, 9, flags, hops, 0, 8, 0, 0⟩

/-- A module that routes: node 7, whose entry for node 9 names P3 and the escape port P3. -/
def demoRouter (out : List Packet) : State :=
  let s := demoPort 4 (fun x => { x with arrived := [⟨0, 0, none, ⟨252, 0⟩⟩], credits := [384, 384, 384, 384, 128, 128, 128, 128] })
  ({ s with outbox := out }.setDev 0x4000 2 1).setDev 0x4100 9 (2 ^ 28 + 3 * 2 ^ 8 + 3 * 2 ^ 4 + 8)

theorem test_wit_BlocksAndRoutes :
    (∃ (s : State) (p : Fin 16) (hdr : BitVec 40) (f0 f1 : BitVec 2048), s.dev 0x4002 p.val % 8 = 4 ∧
      headerCrc hdr.toNat = hdr.toNat % 256 ∧ hdr.toNat / 2 ^ 28 = (s.port p).rxSeq ∧ hdr.toNat.testBit 15 = false ∧
      flitCrc (f0.toNat % 256 ^ 253) = f0.toNat / 256 ^ 253 ∧ f0.toNat % 8 = 0 ∧ f0.toNat.testBit 4 = true ∧
      Tab.get? (s.port p).rxPart (f0.toNat / 2 ^ 5 % 8) = none ∧
      flitCrc (f1.toNat % 256 ^ 253) = f1.toNat / 256 ^ 253 ∧ f1.toNat % 8 = 1) ∧
    (∃ (s : State) (p : Fin 16) (hdr : BitVec 40), s.dev 0x4002 p.val % 8 = 4 ∧ headerCrc hdr.toNat ≠ hdr.toNat % 256 ∧ 7 ≤ (s.port p).rxFails) ∧
    (∃ (s : State) (q : Packet), s.outbox = [] ++ q :: [] ∧ routeOf s none q ≠ .waits ∧ routeOf s none q ≠ .escapes ∧
      routeOf s none q ≠ .discard ∧ routeOf s none q ≠ .here) ∧
    (∃ (s : State) (p : Fin 16) (y : RxPacket), (s.port p).arrived = [] ++ y :: [] ∧ y.vc = (0 : Fin 8).val ∧ openPacket y = none) ∧
    (∃ (s : State) (q : Packet), s.outbox = [] ++ q :: [] ∧ q.flags.testBit 2 = false ∧ routeOf s none q = .waits) := by
  refine ⟨⟨demoPort 4 id, 3, demoHdr 0 0 1, demoFlit 24 77, demoFlit 1 0, by decide, by decide +kernel, by decide +kernel, by decide +kernel,
      demoFlit_good _ (by decide +kernel), by decide +kernel, by decide +kernel, by decide +kernel, demoFlit_good _ (by decide +kernel),
      by decide +kernel⟩,
    ⟨demoPort 4 (fun x => { x with rxFails := 7 }), 3, 0x55, by decide, by decide +kernel, by decide⟩,
    ⟨demoRouter [demoPacket 9 0 0], demoPacket 9 0 0, rfl, by decide +kernel, by decide +kernel, by decide +kernel, by decide +kernel⟩,
    ⟨demoRouter [], 3, ⟨0, 0, none, ⟨252, 0⟩⟩, by decide +kernel, rfl, by decide +kernel⟩,
    ⟨(demoRouter [demoPacket 9 0 0]).setPort 3 { (demoPort 4 id).port 3 with credits := [0, 0, 0, 0, 0, 0, 0, 0] }, demoPacket 9 0 0, rfl,
      by decide, by decide +kernel⟩⟩

/-- A drain of tenancy 0 on stream slot 0. -/
def demoDrain (blocks : List (Blob × Bool)) (sent returned : Nat) : Drain := ⟨0, none, 12, 0, blocks, sent, returned, 0, []⟩

/-- The demo module whose tenancy 0 drains. -/
def demoDraining (d : Drain) : State :=
  let s := demoStreams { demoStream false (some 0x17) [] with credit := 0 }
  s.setTenant 0 { s.tenant 0 with drain := some d, stepTimes := [425000000] }

theorem test_wit_DrainsAndPatrol :
    (∃ (s : State) (i : Nat) (c : Stream) (d : Drain) (b : Blob) (more : List (Blob × Bool)), s.streams = [] ++ (i, c) :: [] ∧
      c.number = 9 ∧ jobOf s c.space = 0xFFFF ∧ c.node = some 0x17 ∧ c.recv = false ∧ (1 : Nat).testBit 31 = false ∧
      (1 : Nat).testBit 30 = false ∧ (s.tenant 0).drain = some d ∧ d.stream = i ∧ d.blocks = (b, false) :: more ∧ c.credit + 1 % 256 = 1 ∧
      c.halted = false ∧ Tab.get? s.streams i = some c) ∧
    (∃ (s : State) (d : Drain), (s.tenant (0 : Fin 16).val).drain = some d ∧ d.blocks = [] ∧ d.sent ≤ d.returned ∧
      (∀ e ∈ s.cmds, e.2.engine = 4 → e.2.op = 2 → e.2.phase ≠ .held) ∧ (∀ m < 0, (s.tenant m).stepTimes = []) ∧
      (s.tenant 0).stepTimes ≠ []) ∧
    (∃ s : State, s.dev 0x1021 0 = 3 ∧ s.tstate 0 = tsRunning) ∧
    (∃ (s : State) (a : Nat) (e : ByteErr), s.slcErrs = [(a, e)] ∧ sliceOf a = (0 : Fin 192).val) := by
  refine ⟨⟨demoDraining (demoDrain [(⟨1, 7⟩, false)] 0 0), 0, { demoStream false (some 0x17) [] with credit := 0 },
      demoDrain [(⟨1, 7⟩, false)] 0 0, ⟨1, 7⟩, [], by decide, rfl, by decide, rfl, rfl, by decide, by decide, by decide, rfl, rfl, rfl, rfl,
      by decide⟩,
    ⟨demoDraining (demoDrain [] 3 3), demoDrain [] 3 3, by decide, rfl, by decide, by simp [demoDraining, demoStreams, demoR, demo,
      State.setTenant, State.reset], fun m h => absurd h (Nat.not_lt_zero m), by decide⟩,
    ⟨(demoR []).setTen 0 0xC080 4 tsRunning, by decide, by decide⟩,
    ⟨{ demoR [] with slcErrs := [(0, ⟨1, false⟩)] }, 0, ⟨1, false⟩, rfl, by decide⟩⟩

/-- A request: OP, REQSEQ, FLAGS, SESSION, INDEX, SUB, TENANCY, and a value of a length. -/
def demoMsg (op seq flags session idx sub ten len v : Nat) : Nat :=
  0x015A4F + op * 256 ^ 3 + seq * 256 ^ 4 + flags * 256 ^ 7 + session * 256 ^ 8 + idx * 256 ^ 12 + sub * 256 ^ 14 + ten * 256 ^ 15 +
    len * 256 ^ 16 + v * 256 ^ 32

/-- The request of the example of R557 with its TAG under a key. -/
def demoTagged (key : Nat) : Blob :=
  let v := demoMsg 2 0x31 1 7 0x4001 5 0xFF 4 3
  ⟨68, v + shake256 68 (key + v * 256 ^ 32) 32 * 256 ^ 36⟩

/-- The physical function with a mailbox that holds a request. -/
def demoBoxes (op idx len data : Nat) : State :=
  let s := demoR []
  let s1 := s.setFn 0 { s.fn 0 with enabled := true }
  (({ s1 with power := { s1.power with perstLow := false } }).setDev 0x8010 0 77).putBox 0 3 ⟨idx + op * 2 ^ 24, len, 0, data⟩

theorem test_wit_StopAccess :
    (∃ s : State, barOk s 0 true = true ∧ ((s.fn 0).box (3 : Fin 16).val).status.testBit 8 = false ∧
      ((s.fn 0).box (3 : Fin 16).val).req / 2 ^ 24 % 16 = 1 ∧ stopRead s .pf 0x1010 0 0 = .ok ⟨4, 3, 0x4F5A0001, 0⟩) ∧
    (∃ (s : State) (u : State) (x : StopInfo), barOk s 0 true = true ∧ ((s.fn 0).box (3 : Fin 16).val).status.testBit 8 = false ∧
      ((s.fn 0).box (3 : Fin 16).val).req / 2 ^ 24 % 16 = 2 ∧ stopWrite s .pf 0x6001 0 0 4 9 = .ok (u, x) ∧ x.stored = true) ∧
    (∃ (s : State) (f : FlashWrite), s.flash = f :: [] ∧ s.dev 0x1021 0 ≠ 0 ∧ f.asker = .none) ∧
    (∃ s : State, (∀ m < 16, s.tstate m ≠ tsRunning) ∧ s.dev 0x1021 0 ≠ 0) ∧
    (∃ (s : State) (m : Blob), m.len = 32 ∧ m.field 0 3 = 0x015A4F ∧ m.field 3 1 = 1 ∧ m.field 7 1 = 0 ∧ m.field 18 2 = 0 ∧
      m.field 29 3 = 0 ∧ s.dev 0x1021 0 = 3 ∧ m.field 12 2 = 0x1010) ∧
    (∃ (s : State) (m : Blob), m.len = 68 ∧ m.field 0 3 = 0x015A4F ∧ m.field 3 1 = 2 ∧ m.field 7 1 = 1 ∧ m.field 18 2 = 0 ∧
      m.field 29 3 = 0 ∧ m.field 16 2 = 4 ∧ s.dev 0x8010 0 ≠ 0 ∧ s.dev 0x1022 0 < m.field 8 4 ∧ s.sources = [] ∧
      m.field 36 32 = shake256 68 (s.dev 0x8010 0 + m.val % 256 ^ 36 * 256 ^ 32) 32) ∧
    (∃ m : Blob, m.len = 96 ∧ m.field 3 1 = 3 ∧ m.field 16 2 = 64 ∧ m.field 32 64 / 256 ^ 32 = 0xFF) ∧
    (∃ (s : State) (src : SapFrom) (m : Blob), s.discovers = (src, m) :: [] ∧ src.addr < 2 ^ 128 ∧ m.field 3 1 = 4) ∧
    (∃ f : SvField, 0x300 / 256 = 3 ∧ svFieldOf (0x300 % 256) = some f) := by
  refine ⟨⟨demoBoxes 1 0x1010 0 0, by decide, by decide +kernel, by decide +kernel, by decide +kernel⟩,
    ⟨demoBoxes 2 0x6001 4 9, _, _, by decide, by decide +kernel, by decide +kernel, rfl, by decide +kernel⟩,
    ⟨{ demoR [] with flash := [⟨5, 0, .none⟩] }, ⟨5, 0, .none⟩, rfl, by decide, rfl⟩,
    ⟨demoR [], by decide +kernel, by decide⟩,
    ⟨demoR [], ⟨32, demoMsg 1 0 0 0 0x1010 0 0xFF 0 0⟩, rfl, by decide, by decide, by decide, by decide, by decide, by decide, by decide⟩,
    ⟨demoBoxes 1 0 0 0, demoTagged 77, rfl, by decide +kernel, by decide +kernel, by decide +kernel, by decide +kernel, by decide +kernel,
      by decide +kernel, by decide +kernel, by decide +kernel, rfl, by decide +kernel⟩,
    ⟨⟨96, demoMsg 3 0 0 0 0 0 0xFF 64 (0xFF * 256 ^ 32)⟩, rfl, by decide, by decide, by decide⟩,
    ⟨{ demoR [] with discovers := [(⟨1, 1, none⟩, ⟨32, demoMsg 4 0 0 0 0 0 0xFF 0 0⟩)] }, _, _, rfl, by decide, by decide⟩,
    ⟨.pc, by decide, by decide⟩⟩

/-- A child of rank k with chunks received. -/
def demoKid (k : Nat) (seen : Bool) (buf : List (Nat × Nat)) : RChild := ⟨k, seen, false, buf, 2, false, none, false⟩

/-- A reduction of three ranks over two chunks of FP32, of the device space. -/
def demoRed (pos : Nat) (opened : Bool) (left right : Option RChild) : Red :=
  { tenancy := 16, job := 0xFFFF, gid := 0, rid := 5, step := 1, owner := 0, n := 3, pos := pos, elems := 2048, pfmt := 0, cfmt := 0,
    port := 0, opened := opened, left := left, right := right, next := 0, granted := 0, unacked := [], doneSent := false, sums := [],
    late := false, sent := .zero, recv := .zero }

/-- The demo module with a reduction in slot 0, in a group of nodes 7, 8 and 9. -/
def demoReds (r : Red) : State :=
  { demoBells { demoBel 1 .started [] [8192, 8192] [] with engine := 1, space := 16 } with
    reds := [(0, r)], redGroups := [(128, ⟨[7, 8, 9], 0, 1, 4⟩)] }

theorem test_wit_Reductions :
    (∃ (s : State) (r : Red) (g : RGroup) (a b : RChild), (0, r) ∈ s.reds ∧ Tab.get? s.reds 0 = some r ∧ r.port = (0 : Fin 16).val ∧
      r.opened = false ∧ r.next = 0 ∧ r.doneSent = false ∧ groupOf s r.tenancy r.gid = some g ∧ (s.reds.filter (fun x => x.2.opened)).length < g.ctxq ∧
      r.left = some a ∧ r.right = some b ∧ a.missing = false ∧ b.missing = false ∧ a.buf = [] ∧ 0 < r.elems) ∧
    (∃ (s : State) (r : Red) (g : RGroup) (c : RChild) (m : Cmd), s.reds = [] ++ (0, r) :: [] ∧ r.job = 0xFFFF ∧ r.gid = (5 * 2 ^ 10 + 2 ^ 30) / 2 ^ 27 % 8 ∧
      r.rid = (5 * 2 ^ 10 + 2 ^ 30) / 2 ^ 10 % 2 ^ 17 ∧ r.step % 4 = (5 * 2 ^ 10 + 2 ^ 30) / 2 ^ 30 % 4 ∧ r.opened = true ∧
      groupOf s r.tenancy r.gid = some g ∧ g.nodes = [7] ++ 8 :: [9] ∧ 8 ∉ [7] ∧ [7].length = c.rank ∧ r.left = some c ∧ c.missing = false ∧
      Tab.get? s.cmds 0 = some m ∧ (∃ d ∈ r.right, ∃ x ∈ d.buf, x.1 = 0) ∧ r.pos = 0 ∧ r.next + 1 < (r.elems + 1023) / 1024 ∧
      (r.elems + 1023) / 1024 ≤ r.next + 8 ∧ ∀ e ∈ (readElems s (m.ep s) (m.slot 0) false 4 0 1).2, e.2 = false) ∧
    (∃ (s : State) (r : Red) (g : RGroup), s.reds = [] ++ (0, r) :: [] ∧ Tab.get? s.reds 0 = some r ∧ r.pos ≠ 0 ∧ groupOf s r.tenancy r.gid = some g ∧
      g.nodes.getD (((r.pos - 1) / 2 + r.owner) % r.n) 0xFFFF = 7 ∧ r.doneSent = false ∧ r.next < (r.elems + 1023) / 1024 ∧ r.left.isSome = true) ∧
    (∃ (s : State) (r : Red) (c : RChild), Tab.get? s.reds 0 = some r ∧ r.left = some c ∧ r.opened = true ∧ c.missing = false ∧ c.seen = true ∧
      c.fin = none ∧ r.next < c.grant ∧ (∀ x ∈ c.buf, x.1 ≠ r.next) ∧ ¬ (r.tenancy < 16 ∧ s.ten r.tenancy 0xC060 1 = 1)) ∧
    (∃ (s : State) (r : Red) (m : Cmd), Tab.get? s.reds 0 = some r ∧ Tab.get? s.cmds 0 = some m ∧ r.sums = (0, 5) :: [] ∧ r.pos = 0 ∧
      r.doneSent = true ∧ r.opened = true) := by
  refine ⟨⟨demoReds (demoRed 0 false (some (demoKid 1 false [])) (some (demoKid 2 false []))), _, _, _, _, by simp [demoReds], rfl, rfl, rfl, rfl, rfl,
      rfl, by decide, rfl, rfl, rfl, rfl, rfl, by decide⟩,
    ⟨demoReds (demoRed 0 true (some (demoKid 1 false [])) (some (demoKid 2 true [(0, 7)]))), _, _, _, _, rfl, rfl, rfl, by decide, by decide, rfl, rfl,
      rfl, by decide, rfl, rfl, rfl, rfl, ⟨demoKid 2 true [(0, 7)], rfl, (0, 7), by simp [demoKid], rfl⟩, rfl, by decide, by decide, by decide +kernel⟩,
    ⟨demoReds (demoRed 1 true (some (demoKid 2 false [])) none), _, _, rfl, rfl, by decide, rfl, rfl, rfl, by decide, rfl⟩,
    ⟨demoReds (demoRed 0 true (some (demoKid 1 true [])) none), _, _, rfl, rfl, rfl, rfl, rfl, rfl, by decide, by simp [demoKid], by decide⟩,
    ⟨demoReds { demoRed 0 true none none with sums := [(0, 5)], doneSent := true }, _, _, rfl, rfl, rfl, rfl, rfl, rfl⟩⟩

/-- The demo module with a check of the device space in a group of nodes 7, 8 and 9, at a rank. -/
def demoCheck (rank : Nat) (own : Option Nat) (left : Option VChild) : State :=
  { demo (demoThread (regsOf [])) with
    checks := [(0, ⟨16, 0, 1, 0, own, left, none, false⟩)], redGroups := [(128, ⟨[7, 8, 9], rank, 1, 4⟩)] }

/-- The demo module with a broadcast command of tenancy 0: one destination, rank 1 of nodes 7, 8 and 9. -/
def demoCast (op rank : Nat) (lens : List Nat) : State :=
  { demoBells { demoBel op .started ((List.range 17).map (fun _ => 0) ++ [5 + 2 ^ 32, 1 + rank * 2 ^ 16]) lens [] with engine := 1 } with
    redGroups := [(0, ⟨[7, 8, 9], 0, 1, 4⟩)] }

theorem test_wit_VotesAndBroadcasts :
    (∃ (s : State) (k : Check) (g : RGroup), s.checks = [] ++ (0, k) :: [] ∧ Tab.get? s.checks 0 = some k ∧ jobOf s k.tenancy = 0xFFFF ∧
      k.gid = 2 ^ 30 / 2 ^ 27 % 8 ∧ k.step % 4 = 2 ^ 30 / 2 ^ 30 % 4 ∧ k.own = some 0 ∧ groupOf s k.tenancy k.gid = some g ∧
      g.nodes = [7] ++ 8 :: [9] ∧ 8 ∉ [7] ∧ k.left = some ⟨[7].length, none, false⟩ ∧ g.rank = 0) ∧
    (∃ (s : State) (k : Check) (g : RGroup), s.checks = [] ++ (0, k) :: [] ∧ Tab.get? s.checks 0 = some k ∧ groupOf s k.tenancy k.gid = some g ∧
      g.rank ≠ 0 ∧ g.nodes.getD ((g.rank - 1) / 2) 0xFFFF = 7) ∧
    (∃ (s : State) (k : Check) (g : RGroup), Tab.get? s.checks 0 = some k ∧ k.own = none ∧ groupOf s k.tenancy k.gid = some g ∧ s.cmds = [] ∧
      s.heldCtl = []) ∧
    (∃ (s : State) (k : Check) (v : VChild) (g : RGroup), Tab.get? s.checks 0 = some k ∧ k.left = some v ∧ k.own = some 3 ∧
      ¬ (v.missing = true ∨ v.vote ≠ none) ∧ ¬ (k.tenancy < 16 ∧ s.ten k.tenancy 0xC060 1 = 1) ∧ groupOf s k.tenancy k.gid = some g) ∧
    (∀ op ∈ [2, 3], ∃ (s : State) (c : Cmd), s.cmds = [] ++ (0, c) :: [] ∧ Tab.get? s.cmds 0 = some c ∧ c.engine = 1 ∧ c.op = op ∧ c.phase = .started ∧
      jobOf s c.space = 0xFFFF ∧ c.par 136 4 = (5 * 2 ^ 10 + 2 ^ 30) / 2 ^ 10 % 2 ^ 18 ∧ c.par 140 4 % 4 = (5 * 2 ^ 10 + 2 ^ 30) / 2 ^ 30 % 4 ∧
      c.par 144 1 = 1 ∧ groupOf s c.space (c.par 145 1) = some ⟨[7, 8, 9], 0, 1, 4⟩ ∧ c.par 146 2 = 1 ∧ c.aux = [] ∧
      ∃ m, c.slots.find? (fun m => m.index == 0) = some m ∧ m.len = 8192) ∧
    (∃ (s : State) (c : Cmd), Tab.get? s.cmds 0 = some c ∧ c.op = 2 ∧ (castRead s c).2.length = 1 ∧ ∀ d ∈ (castRead s c).2, firstPoison d.1 0 d.2 = none) := by
  refine ⟨⟨demoCheck 0 (some 0) (some ⟨1, none, false⟩), _, _, rfl, rfl, by decide, by decide, by decide, rfl, rfl, rfl, by decide, rfl, rfl⟩,
    ⟨demoCheck 1 none none, _, _, rfl, rfl, rfl, by decide, by decide⟩,
    ⟨demoCheck 0 none none, _, _, rfl, rfl, rfl, rfl, rfl⟩,
    ⟨demoCheck 0 (some 3) (some ⟨1, none, false⟩), _, _, _, rfl, rfl, rfl, by decide, by decide, rfl⟩, ?_,
    ⟨demoCast 2 1 [8], _, rfl, rfl, by decide +kernel, by decide +kernel⟩⟩
  intro op h
  simp only [List.mem_cons, List.not_mem_nil, or_false] at h
  rcases h with rfl | rfl
  · exact ⟨demoCast 2 1 [8192], _, rfl, rfl, rfl, rfl, rfl, by decide, by decide, by decide, by decide, by decide, by decide, rfl, _, rfl, rfl⟩
  · exact ⟨demoCast 3 1 [8192], _, rfl, rfl, rfl, rfl, rfl, by decide, by decide, by decide, by decide, by decide, by decide, rfl, _, rfl, rfl⟩

theorem test_wit_TenancyLife :
    (∃ s : State, s.ten (0 : Fin 16).val 0xC050 1 = 0 ∧ s.tstate (0 : Fin 16).val = 4 ∧ (1 : BitVec 8) = 1) ∧
    (∃ s : State, s.dev 0x1021 0 = 3 ∧ s.power.perstLow = false ∧ s.tstate (5 : Fin 16).val = 0) ∧
    (∃ s : State, s.tstate (0 : Fin 16).val ≠ 0) ∧
    (∃ s : State, s.tstate (0 : Fin 16).val = 6 ∧ s.tasks = [] ∧ s.cmds = [] ∧ (s.tenant 0).drain = none ∧ (s.fn 0).cqs = []) := by
  refine ⟨⟨(demoR []).setTen 0 0xC080 4 4, by decide, by decide, rfl⟩,
    ⟨let s := demoR []; { s with power := { s.power with perstLow := false } }, by decide, by decide, by decide⟩,
    ⟨(demoR []).setTen 0 0xC080 4 4, by decide⟩, ⟨(demoR []).setTen 0 0xC080 4 6, by decide, by decide, by decide, by decide, by decide⟩⟩

/-- The demo module whose function 0 is enabled and changed as a function says. -/
def demoFunc (f : Func → Func) : State :=
  let s := demoR []
  let s1 := s.setFn 0 (f { s.fn 0 with enabled := true })
  { s1 with power := { s1.power with perstLow := false } }

theorem test_wit_RingsAndEvents :
    (∃ s : State, (s.fn 0).enabled = true ∧ s.power.perstLow = false) ∧
    (∃ (s : State) (entry : BitVec 512), s.dev 0x1021 0 = 3 ∧ ((s.fn 0).sq (0 : Fin 64).val).ctl.testBit 0 = true ∧ ((s.fn 0).sq (0 : Fin 64).val).stalled = false ∧
      ((s.fn 0).cq 0).waiting = [] ∧ (((s.fn 0).sq (0 : Fin 64).val).door + 2 ^ 32 - (s.ten 0 0xC0A0 0 + 1) % 2 ^ 32) % 2 ^ 32 < 16 ∧
      entry.toNat / 256 ^ 4 % 2 ^ 32 = (s.ten 0 0xC0A0 0 + 1) % 2 ^ 32 ∧ (s.fn 0).cmds = [] ∧ entry.toNat % 256 = 12) ∧
    (∃ (s : State) (w : Posting), s.dev 0x1021 0 = 3 ∧ ((s.fn 0).cq (0 : Fin 64).val).waiting = w :: [] ∧ ((s.fn 0).cq (0 : Fin 64).val).ctl.testBit 0 = true ∧
      ((s.ten 0 0xC0A2 0 + 1) % 2 ^ 32 + 2 ^ 32 - ((s.fn 0).cq (0 : Fin 64).val).head) % 2 ^ 32 < 16 ∧ (s.fn 0).cmds = []) ∧
    (∃ (s : State) (e : PEvent), s.dev 0x1021 0 = 3 ∧ s.events[(0 : Fin 16).val] = e :: [] ∧ (s.fn 0).ev.ctl.testBit 0 = true ∧ (s.fn 0).resume = none ∧
      ((s.ten 0 0xC0A2 64 + 1) % 2 ^ 32 + 2 ^ 32 - (s.fn 0).ev.head) % 2 ^ 32 < 16) ∧
    (∃ s : State, (s.fn 0).resume = some 2 ∧ (s.fn 0).ev.ctl.testBit 0 = true) ∧
    (∃ s : State, (s.fn 0).resume = none ∧ ((s.fn 0).cq (0 : Fin 64).val).ctl.testBit 0 = true ∧ (s.fn 0).abandoned.filter (fun a => a.1 == (0 : Fin 64).val) ≠ []) ∧
    (∃ s : State, s.spdm = true ∧ (s.fn 3).tdi = 0) := by
  refine ⟨⟨demoFunc id, by decide, by decide⟩,
    ⟨demoFunc (fun x => { x with sqs := [(0, ⟨0, 1, 0, 0, false⟩)] }), 12, by decide, by decide, by decide, by decide, by decide, by decide, by decide, by decide⟩,
    ⟨demoFunc (fun x => { x with cqs := [(0, { CompRing.reset with ctl := 1, waiting := [⟨0, 4, 0, false, 0, 0, 0⟩] })] }), _, by decide, rfl, by decide, by decide, by decide⟩,
    ⟨let s := demoFunc (fun x => { x with ev := { x.ev with ctl := 1 } }); { s with events := s.events.set 0 [⟨7, 0⟩] }, _, by decide, rfl, by decide, by decide, by decide⟩,
    ⟨demoFunc (fun x => { x with resume := some 2, ev := { x.ev with ctl := 1 } }), by decide, by decide⟩,
    ⟨demoFunc (fun x => { x with cqs := [(0, { CompRing.reset with ctl := 1 })], abandoned := [(0, ⟨0, 0, 12, false, 0, 0, 0, none⟩)] }), by decide, by decide, by decide⟩,
    ⟨{ demoFunc id with spdm := true }, rfl, by decide⟩⟩

/-- The demo module with one accepted command of ring 0 that may start. -/
def demoCmd (op ten params : Nat) : State :=
  (demoFunc (fun x => { x with cmds := [⟨0, 7, op, false, 9, params, 0, none⟩] })).setTen 0 0xC080 4 ten

/-- The command stands accepted in its turn, in a state, with a served ring. -/
def startsAs (op ten params : Nat) : Bool :=
  let s := demoCmd op ten params
  decide (hostCmd s 0 0 7 = some ⟨0, 7, op, false, 9, params, 0, none⟩) && s.tstate 0 == ten && s.dev 0x1021 0 == 3

theorem test_wit_HostCommands :
    startsAs 1 2 0 = true ∧ startsAs 2 3 0 = true ∧ startsAs 3 5 0 = true ∧ startsAs 4 2 0 = true ∧ startsAs 5 3 0 = true ∧ startsAs 6 4 0 = true ∧
    startsAs 7 4 0 = true ∧ startsAs 8 5 0 = true ∧ startsAs 9 4 0 = true ∧ startsAs 10 5 0 = true ∧ startsAs 11 2 0 = true ∧ startsAs 12 0 0 = true ∧
    startsAs 13 6 0 = true ∧ startsAs 14 1 0 = true ∧ startsAs 9 2 0 = true ∧ startsAs 12 0 1 = true := by
  refine ⟨?_, ?_, ?_, ?_, ?_, ?_, ?_, ?_, ?_, ?_, ?_, ?_, ?_, ?_, ?_, ?_⟩ <;> decide +kernel

theorem test_wit_HostCommands_more :
    (∃ (s : State), (∀ c ∈ (s.fn (0 : Fin 16)).cmds, 1 ≤ c.op ∧ c.op ≤ 14) ∧ (s.fn 0).cmds ≠ []) ∧
    (∃ (s : State), ∃ c, hostCmd s 0 0 7 = some c ∧ c.op = 11 ∧ c.stage = 1 ∧ s.tstate 0 = 1) ∧
    (∃ (s : State) (off : BitVec 36) (len : BitVec 13), (s.fn 0).enabled = true ∧ s.power.perstLow = false ∧ s.tstate 0 ≠ 1 ∧ 0 < len.toNat ∧
      ((s.fn 0).bar2 + off.toNat) % 65536 + len.toNat ≤ 65536) := by
  refine ⟨⟨demoCmd 12 4 0, by decide, by decide⟩,
    ⟨(demoFunc (fun x => { x with cmds := [⟨0, 7, 11, false, 9, 0, 1, none⟩] })).setTen 0 0xC080 4 1, _, rfl, by decide, by decide, by decide⟩,
    ⟨demoFunc id, 0, 8, by decide, by decide, by decide, by decide, by decide⟩⟩

/-- The demo module in a device state, with its standby island changed as a function says. -/
def demoPower (ds : Nat) (f : Power → Power) : State :=
  let s := (demoR []).setDev 0x1021 0 ds
  { s with power := f s.power }

theorem test_wit_PowerAndResets :
    (∃ s : State, s.dev 0x1021 0 = 0) ∧
    (∃ s : State, s.dev 0x1021 0 = 1 ∧ s.power.risen.testBit 3 = false ∧ (s.dev 0x2005 0).testBit 1 = false) ∧
    (∃ s : State, s.dev 0x1021 0 = 3) ∧
    (∃ s : State, s.power.pwrReq = true ∧ s.dev 0x1021 0 = 1 ∧ s.power.mrstLow = false) ∧
    (∃ s : State, s.dev 0x1021 0 = 1 ∧ (s.dev 0x2005 0).testBit 3 = true ∧ s.power.locked = false) ∧
    (∃ s : State, s.power.locked = true) ∧
    (∃ s : State, s.dev 0x1021 0 = 2 ∧ s.power.kind = some 2) ∧
    (∃ s : State, s.dev 0x1021 0 = 2 ∧ s.power.kind = none) ∧
    (∃ s : State, s.dev 0x1021 0 = 5 ∧ s.power.pwrEn = true ∧ s.power.perstLow = false) := by
  refine ⟨⟨demoPower 0 id, by decide⟩, ⟨demoPower 1 id, by decide, by decide, by decide⟩, ⟨demoPower 3 id, by decide⟩,
    ⟨demoPower 1 (fun p => { p with pwrReq := true }), by decide, by decide, by decide⟩,
    ⟨(demoPower 1 id).setDev 0x2005 0 8, by decide, by decide, by decide⟩, ⟨demoPower 3 (fun p => { p with locked := true }), by decide⟩,
    ⟨demoPower 2 (fun p => { p with kind := some 2 }), by decide, by decide⟩, ⟨demoPower 2 (fun p => { p with kind := none }), by decide, by decide⟩,
    ⟨demoPower 5 (fun p => { p with pwrEn := true }), by decide, by decide, by decide⟩⟩

theorem test_wit_ThermalAndLeak :
    (∃ s : State, s.dev 0x1021 0 = 3 ∧ s.power.hot.testBit 0 = true) ∧
    (∃ s : State, s.dev 0x1021 0 = 3 ∧ s.power.hot = 0) ∧
    (∃ s : State, s.power.changes = [] ++ (2, 13) :: []) ∧
    (∃ s : State, s.tstate (0 : Fin 16).val = 4 ∧ s.events[(0 : Fin 16)].length < 256) ∧
    (∃ s : State, s.power.pwrReq = true) ∧
    (∃ s : State, s.power.pwrReq = false) ∧
    (∃ s : State, s.power.trip = true ∧ ∀ q < 4, s.dev 0x2002 q ≤ 1280) ∧
    (∃ s : State, s.power.leak = true ∧ s.power.leakWet = false ∧ s.power.leakDry = true) ∧
    (∃ s : State, s.power.nmiLow = false ∧ (s.dev 0x2005 0).testBit 4 = true ∧ s.dev 0x1021 0 = 3) ∧
    (∃ (s : State) (t : Tid), (s.th t).sv3.live = true ∧ (s.th t).status = .halted ∧ (s.th t).nmi ≠ .held) ∧
    (∃ (s : State) (t : Tid), (s.th t).sv3.live = false) := by
  refine ⟨⟨demoPower 3 (fun p => { p with hot := 1 }), by decide, by decide⟩, ⟨demoPower 3 id, by decide, by decide⟩,
    ⟨demoPower 3 (fun p => { p with changes := [(2, 13)] }), rfl⟩, ⟨(demoR []).setTen 0 0xC080 4 4, by decide, by decide⟩,
    ⟨demoPower 3 (fun p => { p with pwrReq := true }), rfl⟩, ⟨demoPower 3 (fun p => { p with pwrReq := false }), rfl⟩, ⟨demoPower 3 (fun p => { p with trip := true }), rfl, by decide⟩,
    ⟨demoPower 3 (fun p => { p with leak := true, leakDry := true }), rfl, by decide, rfl⟩, ⟨(demoPower 3 id).setDev 0x2005 0 16, by decide, by decide, by decide⟩,
    ⟨demo { demoThread (regsOf []) with status := .halted, sv3 := { (demoThread (regsOf [])).sv3 with live := true } }, 0, by decide, by decide, by decide⟩,
    ⟨demoR [], 0, by decide⟩⟩

theorem test_wit_MemoryCanonical : Memory.wf State.reset = true ∧ ∃ s s' : State, Memory.wf s = true ∧ s.hbm ≠ [] ∧ step s = .next s' :=
  ⟨by decide, ⟨{ State.reset with hbm := [(5, 7)], pending := [.pwrReq] }, _, by decide, by simp, rfl⟩⟩

end Sys2Proof.Tests
end

/-!
PROOFS, 1. How an instruction completes, traps or waits in the terms of the statements (`done`, `jumped`, `trapped`), and the operand checks.
-/

section
namespace Sys2Proof.Machine

/-! ### Bits of numbers -/

theorem bit_eq (x i : Nat) : bit x i = decide (x / 2 ^ i % 2 = 1) := Bool.beq_eq_decide_eq _ _

theorem bit_eq_testBit (x i : Nat) : bit x i = x.testBit i := by rw [bit_eq, Nat.testBit_eq_decide_div_mod_eq]

/-! ### The state in which a meaning starts -/

theorem startState_begun (t : Tid) (s : State) : startState t false s = begun t s := rfl

@[simp] theorem begun_th (t : Tid) (s : State) : (begun t s).th t = { s.th t with iter := 0 } := by simp [begun]

@[simp] theorem begun_setTh (t : Tid) (s : State) (th : Thread) : (begun t s).setTh t th = s.setTh t th := by simp [begun]

/-- The iteration counter is overwritten by `done`. -/
theorem done_iter (t : Tid) (len : Nat) (s : State) (th : Thread) (n : BitVec 32) :
    done t len s { th with iter := n } = done t len s th := rfl

/-- `done` names the state by the thread's PC and by what lies outside the thread. -/
theorem done_setTh (t : Tid) (len : Nat) (s : State) (h th : Thread) (hp : h.pc = (s.th t).pc) :
    done t len (s.setTh t h) th = done t len s th := by simp [done, hp]

theorem done_begun (t : Tid) (len : Nat) (s : State) (th : Thread) : done t len (begun t s) th = done t len s th :=
  done_setTh t len s _ th rfl

theorem jumped_setTh (t : Tid) (a : Word) (s : State) (h th : Thread) : jumped t a (s.setTh t h) th = jumped t a s th := by
  simp [jumped]

theorem advance_none (t : Tid) (len : Nat) (s : State) : advance t len none s = done t len s (s.th t) := rfl

theorem advance_some (t : Tid) (len : Nat) (s : State) (a : Word) : advance t len (some a) s = jumped t a s (s.th t) := rfl

/-! ### How an instruction ends -/

/-- A meaning without a jump that ends well leaves `done`. -/
theorem simpleX_ok {t : Tid} {ext : Bool} {body : M Unit} {s s1 s2 : State} (h : Fetches t (lenOf ext) ext s s1)
    (hb : body (begun t s1) = .ok () s2) : simpleX t ext body s = .next (done t (lenOf ext) s2 (s2.th t)) := by
  have hp : plain body (startState t false s1) = .ok none s2 := by rw [plain_run, startState_begun, hb]
  unfold simpleX
  rw [runInstr_ok (i := { len := lenOf ext, ext := ext }) h hp, advance_none]

/-- A meaning without a jump that ends with a write of its thread. -/
theorem simpleX_done {t : Tid} {ext : Bool} {body : M Unit} {s s1 s2 : State} {th : Thread} (h : Fetches t (lenOf ext) ext s s1)
    (hb : body (begun t s1) = .ok () (s2.setTh t th)) (hp : th.pc = (s2.th t).pc) :
    simpleX t ext body s = .next (done t (lenOf ext) s2 th) := by
  rw [simpleX_ok h hb, State.th_setTh, done_setTh t _ s2 th th hp]

/-- A meaning that raises an exception before it has changed anything leaves `trapped`. -/
theorem simpleX_trapped {t : Tid} {ext : Bool} {body : M Unit} {s s1 : State} {v d a : Nat} (h : Fetches t (lenOf ext) ext s s1)
    (hb : body (begun t s1) = .error (.exc ⟨v, d, a⟩) (begun t s1)) :
    simpleX t ext body s = .next (trapped t v d a ext s1) := by
  have hp : plain body (startState t false s1) = .error (.exc ⟨v, d, a⟩) (begun t s1) := by rw [plain_run, startState_begun, hb]
  unfold simpleX
  rw [runInstr_exc (i := { len := lenOf ext, ext := ext }) h hp]
  rfl

theorem simple_done {t : Tid} {body : M Unit} {s s1 s2 : State} {th : Thread} (h : Fetches t 4 false s s1)
    (hb : body (begun t s1) = .ok () (s2.setTh t th)) (hp : th.pc = (s2.th t).pc) : simple t body s = .next (done t 4 s2 th) :=
  simpleX_done (ext := false) h hb hp

theorem simple_trapped {t : Tid} {body : M Unit} {s s1 : State} {v d a : Nat} (h : Fetches t 4 false s s1)
    (hb : body (begun t s1) = .error (.exc ⟨v, d, a⟩) (begun t s1)) : simple t body s = .next (trapped t v d a false s1) :=
  simpleX_trapped (ext := false) h hb

/-- A meaning that writes one register and nothing else. -/
theorem simpleX_write {t : Tid} {ext : Bool} {body : M Unit} {rd : RIdx} {v : Reg} {s s1 : State}
    (h : Fetches t (lenOf ext) ext s s1) (hb : body (begun t s1) = wr t rd v (begun t s1)) :
    simpleX t ext body s = .next (done t (lenOf ext) s1 ((s1.th t).write rd v)) := by
  rw [wr_run, begun_setTh, begun_th] at hb
  rw [simpleX_done h hb rfl, write_iter, done_iter]

theorem simple_write {t : Tid} {body : M Unit} {rd : RIdx} {v : Reg} {s s1 : State} (h : Fetches t 4 false s s1)
    (hb : body (begun t s1) = wr t rd v (begun t s1)) : simple t body s = .next (done t 4 s1 ((s1.th t).write rd v)) :=
  simpleX_write (ext := false) h hb

/-- A meaning that writes one register pair and nothing else. -/
theorem simple_writePair {t : Tid} {body : M Unit} {rd : RIdx} {p : Pair} {s s1 : State} (h : Fetches t 4 false s s1)
    (hb : body (begun t s1) = wrPair t rd p (begun t s1)) : simple t body s = .next (done t 4 s1 ((s1.th t).writePair rd p)) := by
  rw [wrPair_run, begun_setTh, begun_th] at hb
  rw [simple_done h hb rfl]
  rfl

/-! ### Registers of the state in which a meaning starts -/

@[simp] theorem g_withIter (th : Thread) (r : RIdx) (n : BitVec 32) : ({ th with iter := n } : Thread).g r = th.g r := by
  simp only [Thread.g]
@[simp] theorem pair_withIter (th : Thread) (r : RIdx) (n : BitVec 32) : ({ th with iter := n } : Thread).pair r = th.pair r := by
  simp only [Thread.pair, g_withIter]
@[simp] theorem cap_withIter (th : Thread) (c : PIdx) (n : BitVec 32) : ({ th with iter := n } : Thread).cap c = th.cap c := by
  simp only [Thread.cap, pair_withIter]

/-! ### Operand checks -/

/-- An operand that neither fails its class nor carries a POISON that traps (R30, R31, R450). -/
def Opnd.Fine (o : Opnd) : Prop := o.bad = false ∧ o.traps = false

theorem checkOps_fine {os : List Opnd} {s : State} (h : ∀ o ∈ os, o.Fine) : checkOps os s = .ok () s :=
  checkOps_ok (fun o ho => (h o ho).1) (fun o ho => (h o ho).2)

theorem checkOps_bad {os : List Opnd} {o : Opnd} {s : State} (h : lowestSlot Opnd.bad os = some o) :
    checkOps os s = .error (.exc ⟨4, o.slot * 2 ^ 16 + o.reg.tag.code * 2 ^ 12 + o.cls.num * 2 ^ 8 + o.subOf, 0⟩) s := by
  unfold checkOps
  rw [h]
  rfl

/-- The check of one operand goes by its tag alone. -/
theorem opnd_fine {slot : Nat} {c : OpClass} {r : Reg} (h : c.accepts r.tag = true) (hp : r.tag ≠ .poison) : (opnd slot c r).Fine :=
  opnd_ok h hp

/-- POISON passes the check of a class that does not trap on it (R31, R32). -/
theorem opnd_fine_poison {slot : Nat} {c : OpClass} {r : Reg} (hp : r.tag = .poison) (hc : c ≠ .retag) (hu : c.use = none) :
    (opnd slot c r).Fine := by
  constructor
  · simp [opnd, Opnd.bad, hp, hc]
  · simp [opnd, Opnd.traps, hp, hu]

/-- The classes of the sources of arithmetic: a tag of the class or POISON passes (R31, R32). -/
theorem opnd_fine_or {slot : Nat} {c : OpClass} {r : Reg} (hc : c ≠ .retag) (hu : c.use = none)
    (h : c.accepts r.tag = true ∨ r.tag = .poison) : (opnd slot c r).Fine := by
  by_cases hp : r.tag = .poison
  · exact opnd_fine_poison hp hc hu
  · exact opnd_fine (h.resolve_right hp) hp

theorem opnd_bad {slot : Nat} {c : OpClass} {r : Reg} (h : c.accepts r.tag = false) (hp : r.tag ≠ .poison) :
    (opnd slot c r).bad = true := by
  cases ht : r.tag <;> simp_all [opnd, Opnd.bad]

end Sys2Proof.Machine
end

/-!
PROOFS, 2. The scalar register instructions: integers, sequences, division, compares, FP64, tags, branches (R30 to R43).
-/

section
namespace Sys2Proof.Machine

/-! ### The operations on one, two and three registers of a class -/

theorem unary_run {t : Tid} {rd rs1 : RIdx} {c : OpClass} {f : Reg → Reg} {s : State} (ha : (opnd 1 c ((s.th t).g rs1)).Fine) :
    unary t rd rs1 c f s = wr t rd (orPoison (((s.th t).g rs1).tag == .poison) (f ((s.th t).g rs1))) s := by
  simp only [unary, M.bind_run, greg_run]
  rw [checkOps_fine (by simpa using ha)]

theorem binary_run {t : Tid} {rd rs1 rs2 : RIdx} {c : OpClass} {f : Reg → Reg → Reg} {s : State}
    (ha : (opnd 1 c ((s.th t).g rs1)).Fine) (hb : (opnd 2 c ((s.th t).g rs2)).Fine) :
    binary t rd rs1 rs2 c f s = wr t rd (orPoison (((s.th t).g rs1).tag == .poison || ((s.th t).g rs2).tag == .poison)
      (f ((s.th t).g rs1) ((s.th t).g rs2))) s := by
  simp only [binary, M.bind_run, greg_run]
  rw [checkOps_fine (by simpa using ⟨ha, hb⟩)]

theorem ternary_run {t : Tid} {rd rs1 rs2 rs3 : RIdx} {c : OpClass} {f : Reg → Reg → Reg → Reg} {s : State}
    (ha : (opnd 1 c ((s.th t).g rs1)).Fine) (hb : (opnd 2 c ((s.th t).g rs2)).Fine) (hc : (opnd 3 c ((s.th t).g rs3)).Fine) :
    ternary t rd rs1 rs2 rs3 c f s =
      wr t rd (orPoison (((s.th t).g rs1).tag == .poison || ((s.th t).g rs2).tag == .poison || ((s.th t).g rs3).tag == .poison)
        (f ((s.th t).g rs1) ((s.th t).g rs2) ((s.th t).g rs3))) s := by
  simp only [ternary, M.bind_run, greg_run]
  rw [checkOps_fine (by simpa using ⟨ha, hb, hc⟩)]

section Good
variable {t : Tid} {rd rs1 rs2 rs3 : RIdx} {s s1 : State} {a b c : Word}

/-- A register of the integer class (R31, class 0x1) passes it, and is no POISON. -/
theorem IsInt.accepts {th : Thread} {r : RIdx} {v : Word} (h : IsInt th r v) :
    OpClass.int.accepts (th.g r).tag = true ∧ (th.g r).tag ≠ .poison := by
  obtain ⟨-, h | h⟩ := h <;> simp [h, OpClass.accepts]

theorem unary_int {f : Reg → Reg} {ext : Bool} (h : Fetches t (lenOf ext) ext s s1) (ha : IsInt (s1.th t) rs1 a) :
    simpleX t ext (unary t rd rs1 .int f) s = .next (done t (lenOf ext) s1 ((s1.th t).write rd (f ((s1.th t).g rs1)))) :=
  unary_ok h ha.accepts.1 ha.accepts.2

theorem binary_int {f : Reg → Reg → Reg} (h : Fetches t 4 false s s1) (ha : IsInt (s1.th t) rs1 a) (hb : IsInt (s1.th t) rs2 b) :
    simple t (binary t rd rs1 rs2 .int f) s =
      .next (done t 4 s1 ((s1.th t).write rd (f ((s1.th t).g rs1) ((s1.th t).g rs2)))) :=
  binary_ok h ha.accepts.1 ha.accepts.2 hb.accepts.1 hb.accepts.2

theorem unary_flt {f : Reg → Reg} (h : Fetches t 4 false s s1) (ha : Holds (s1.th t) rs1 a .flt) :
    simple t (unary t rd rs1 .fp f) s = .next (done t 4 s1 ((s1.th t).write rd (f ⟨a, .flt⟩))) := by
  rw [← ha]
  exact unary_ok h (by rw [ha]; rfl) (by rw [ha]; nofun)

theorem binary_flt {f : Reg → Reg → Reg} (h : Fetches t 4 false s s1) (ha : Holds (s1.th t) rs1 a .flt)
    (hb : Holds (s1.th t) rs2 b .flt) :
    simple t (binary t rd rs1 rs2 .fp f) s = .next (done t 4 s1 ((s1.th t).write rd (f ⟨a, .flt⟩ ⟨b, .flt⟩))) := by
  rw [← ha, ← hb]
  exact binary_ok h (by rw [ha]; rfl) (by rw [ha]; nofun) (by rw [hb]; rfl) (by rw [hb]; nofun)

theorem ternary_flt {f : Reg → Reg → Reg → Reg} (h : Fetches t 4 false s s1) (ha : Holds (s1.th t) rs1 a .flt)
    (hb : Holds (s1.th t) rs2 b .flt) (hc : Holds (s1.th t) rs3 c .flt) :
    simple t (ternary t rd rs1 rs2 rs3 .fp f) s =
      .next (done t 4 s1 ((s1.th t).write rd (f ⟨a, .flt⟩ ⟨b, .flt⟩ ⟨c, .flt⟩))) := by
  rw [← ha, ← hb, ← hc]
  exact ternary_ok h (by rw [ha]; rfl) (by rw [ha]; nofun) (by rw [hb]; rfl) (by rw [hb]; nofun) (by rw [hc]; rfl)
    (by rw [hc]; nofun)

end Good

/-! ### POISON in a source (R32) -/

/-- The registers of a list carry tags of a class or POISON, and one of them POISON. -/
def PoisonIn (th : Thread) (c : OpClass) (rs : List RIdx) : Prop :=
  (∀ r ∈ rs, c.accepts (th.g r).tag = true ∨ (th.g r).tag = .poison) ∧ ∃ r ∈ rs, (th.g r).tag = .poison

/-- The state after an instruction whose result is POISON. -/
def poisoned (t : Tid) (len : Nat) (s : State) (rd : RIdx) : State := done t len s ((s.th t).write rd .poison)

section Poison
variable {t : Tid} {rd rs1 rs2 rs3 : RIdx} {c : OpClass} {s s1 : State}

theorem unary_poison {f : Reg → Reg} (hc : c ≠ .retag) (hu : c.use = none) (h : Fetches t 4 false s s1)
    (hp : PoisonIn (s1.th t) c [rs1]) : simple t (unary t rd rs1 c f) s = .next (poisoned t 4 s1 rd) := by
  obtain ⟨hok, hany⟩ := hp
  refine simple_write h ?_
  rw [unary_run (by simpa using opnd_fine_or hc hu (hok rs1 (by simp)))]
  have : ((s1.th t).g rs1).tag = .poison := by simpa using hany
  simp [orPoison, this]

theorem binary_poison {f : Reg → Reg → Reg} (hc : c ≠ .retag) (hu : c.use = none) (h : Fetches t 4 false s s1)
    (hp : PoisonIn (s1.th t) c [rs1, rs2]) : simple t (binary t rd rs1 rs2 c f) s = .next (poisoned t 4 s1 rd) := by
  obtain ⟨hok, hany⟩ := hp
  refine simple_write h ?_
  rw [binary_run (by simpa using opnd_fine_or hc hu (hok rs1 (by simp))) (by simpa using opnd_fine_or hc hu (hok rs2 (by simp)))]
  have : ((s1.th t).g rs1).tag = .poison ∨ ((s1.th t).g rs2).tag = .poison := by simpa using hany
  simp [orPoison, this]

theorem ternary_poison {f : Reg → Reg → Reg → Reg} (hc : c ≠ .retag) (hu : c.use = none) (h : Fetches t 4 false s s1)
    (hp : PoisonIn (s1.th t) c [rs1, rs2, rs3]) : simple t (ternary t rd rs1 rs2 rs3 c f) s = .next (poisoned t 4 s1 rd) := by
  obtain ⟨hok, hany⟩ := hp
  refine simple_write h ?_
  rw [ternary_run (by simpa using opnd_fine_or hc hu (hok rs1 (by simp))) (by simpa using opnd_fine_or hc hu (hok rs2 (by simp)))
    (by simpa using opnd_fine_or hc hu (hok rs3 (by simp)))]
  have : ((s1.th t).g rs1).tag = .poison ∨ ((s1.th t).g rs2).tag = .poison ∨ ((s1.th t).g rs3).tag = .poison := by simpa using hany
  simp [orPoison, this, or_assoc]

/-- Division tests for POISON before it tests the divisor (R40). -/
theorem divOp_poison {f : Word → Word → Word} (h : Fetches t 4 false s s1) (hp : PoisonIn (s1.th t) .int [rs1, rs2]) :
    simple t (divOp t rd rs1 rs2 f) s = .next (poisoned t 4 s1 rd) := by
  obtain ⟨hok, hany⟩ := hp
  have h1 := opnd_fine_or (slot := 1) (c := .int) (by decide) rfl (hok rs1 (by simp))
  have h2 := opnd_fine_or (slot := 2) (c := .int) (by decide) rfl (hok rs2 (by simp))
  have : ((s1.th t).g rs1).tag = .poison ∨ ((s1.th t).g rs2).tag = .poison := by simpa using hany
  refine simple_write h ?_
  simp only [divOp, M.bind_run, greg_run, begun_th, g_withIter]
  rw [checkOps_fine (by simpa using ⟨h1, h2⟩)]
  simp [this]

/-- ADD and SUB of two integers of which one is POISON. -/
theorem addSub_poison {sub : Bool} (h : Fetches t 4 false s s1) (hp : PoisonIn (s1.th t) .int [rs1, rs2]) :
    simple t (addSub t rd rs1 rs2 sub) s = .next (poisoned t 4 s1 rd) := by
  obtain ⟨hok, hany⟩ := hp
  have hseq : ∀ r ∈ [rs1, rs2], ((s1.th t).g r).tag ≠ .seq := fun r hr he => by
    have := hok r hr
    simp [he, OpClass.accepts] at this
  have hs1 := hseq rs1 (by simp)
  have hs2 := hseq rs2 (by simp)
  have h1 := opnd_fine_or (slot := 1) (c := .int) (by decide) rfl (hok rs1 (by simp))
  have h2 := opnd_fine_or (slot := 2) (c := .int) (by decide) rfl (hok rs2 (by simp))
  have : ((s1.th t).g rs1).tag = .poison ∨ ((s1.th t).g rs2).tag = .poison := by simpa using hany
  refine simple_write h ?_
  simp only [addSub, M.bind_run, greg_run, begun_th, g_withIter, firstClass, seqClass]
  rw [checkOps_fine (by simpa [hs1, hs2] using ⟨h1, h2⟩)]
  simp [this, orPoison]

end Poison

/-! ### A tag that a class refuses (R30, R36) -/

/-- An instruction that reads two registers of a class and checks them before anything else. -/
def pairThen (t : Tid) (rs1 rs2 : RIdx) (c : OpClass) (k : Reg → Reg → M Unit) : M Unit := do
  let a ← greg t rs1
  let b ← greg t rs2
  checkOps [opnd 1 c a, opnd 2 c b]
  k a b

section Mismatch
variable {t : Tid} {rs1 rs2 : RIdx} {c : OpClass} {k : Reg → Reg → M Unit} {s s1 : State}

theorem opnd_slot {slot : Nat} {r : Reg} : (opnd slot c r).slot = slot := rfl

theorem opnd_subOf {slot : Nat} {r : Reg} (hm : c ≠ .move) : (opnd slot c r).subOf = 0 := by simp [opnd, Opnd.subOf, hm]

/-- TAG_MISMATCH of rs1, whatever rs2 holds: the lowest slot is named. -/
theorem pairThen_bad1 (hm : c ≠ .move) (h : Fetches t 4 false s s1) (ha : c.accepts ((s1.th t).g rs1).tag = false)
    (hp : ((s1.th t).g rs1).tag ≠ .poison) :
    simple t (pairThen t rs1 rs2 c k) s =
      .next (trapped t 4 (1 * 2 ^ 16 + ((s1.th t).g rs1).tag.code * 2 ^ 12 + c.num * 2 ^ 8) 0 false s1) := by
  have hl : lowestSlot Opnd.bad [opnd 1 c ((s1.th t).g rs1), opnd 2 c ((s1.th t).g rs2)] = some (opnd 1 c ((s1.th t).g rs1)) := by
    have h1 := opnd_bad (slot := 1) ha hp
    cases h2 : (opnd 2 c ((s1.th t).g rs2)).bad <;> simp [lowestSlot, h1, h2, opnd_slot]
  refine simple_trapped h ?_
  simp only [pairThen, M.bind_run, greg_run, begun_th, g_withIter]
  rw [checkOps_bad hl, opnd_subOf hm, Nat.add_zero]
  rfl

/-- TAG_MISMATCH of rs2 when rs1 passes. -/
theorem pairThen_bad2 (hm : c ≠ .move) (h : Fetches t 4 false s s1) (ha : (opnd 1 c ((s1.th t).g rs1)).Fine)
    (hb : c.accepts ((s1.th t).g rs2).tag = false) (hp : ((s1.th t).g rs2).tag ≠ .poison) :
    simple t (pairThen t rs1 rs2 c k) s =
      .next (trapped t 4 (2 * 2 ^ 16 + ((s1.th t).g rs2).tag.code * 2 ^ 12 + c.num * 2 ^ 8) 0 false s1) := by
  have hl : lowestSlot Opnd.bad [opnd 1 c ((s1.th t).g rs1), opnd 2 c ((s1.th t).g rs2)] = some (opnd 2 c ((s1.th t).g rs2)) := by
    simp [lowestSlot, ha.1, opnd_bad (slot := 2) hb hp]
  refine simple_trapped h ?_
  simp only [pairThen, M.bind_run, greg_run, begun_th, g_withIter]
  rw [checkOps_bad hl, opnd_subOf hm, Nat.add_zero]
  rfl

end Mismatch

end Sys2Proof.Machine
end

section
namespace Sys2Proof.Machine

/-! ### Sequences (R33) -/

section Seq
variable {t : Tid} {rd rs1 rs2 : RIdx} {s s1 : State} {a b : Word} {g : Tag}

/-- ADD and SUB with a SEQ in rs1 (R33). -/
theorem addSub_seq {sub : Bool} (h : Fetches t 4 false s s1) (ha : Holds (s1.th t) rs1 a .seq) (hb : Holds (s1.th t) rs2 b g)
    (hg : g = .int ∨ (sub = true ∧ g = .seq)) :
    simple t (addSub t rd rs1 rs2 sub) s = .next (done t 4 s1 ((s1.th t).write rd
      (let lo : BitVec 32 := (if sub then a - b else a + b).truncate 32
       if g = .seq then .int (lo.signExtend 64) else ⟨lo.zeroExtend 64, .seq⟩))) := by
  unfold Holds at ha hb
  have h1 : (opnd 1 .seq ⟨a, .seq⟩).Fine := opnd_fine rfl nofun
  have h2 : (opnd 2 (if sub = true then OpClass.seqOrInt else .seqInt) ⟨b, g⟩).Fine := by
    obtain rfl | ⟨rfl, rfl⟩ := hg
    · cases sub <;> exact opnd_fine rfl nofun
    · exact opnd_fine rfl nofun
  have hp : g ≠ .poison := by obtain rfl | ⟨-, rfl⟩ := hg <;> nofun
  refine simple_write h ?_
  simp only [addSub, M.bind_run, greg_run, begun_th, g_withIter, ha, hb, firstClass, seqClass, beq_self_eq_true, if_true]
  rw [checkOps_fine (by simpa using ⟨h1, h2⟩)]
  simp [orPoison, hp]

/-- CMP.SLT is the order of R33 on the low words. -/
theorem serialLt_eq (a b : Word) : serialLt a b =
    decide (1 ≤ (b.truncate 32 - a.truncate 32 : BitVec 32).toNat ∧ (b.truncate 32 - a.truncate 32 : BitVec 32).toNat ≤ 2 ^ 31 - 1) := by
  have hd : (b.truncate 32 - a.truncate 32 : BitVec 32).toNat = (b.toNat + 2 ^ 32 - a.toNat % 2 ^ 32) % 2 ^ 32 := by
    simp only [BitVec.truncate_eq_setWidth, BitVec.toNat_sub, BitVec.toNat_setWidth]
    omega
  rw [hd, Bool.decide_and]
  rfl

theorem cmpSlt_ok (h : Fetches t 4 false s s1) (ha : Holds (s1.th t) rs1 a .seq) (hb : Holds (s1.th t) rs2 b .seq) :
    exec (.cmpSlt t rd rs1 rs2) s = .next (done t 4 s1 ((s1.th t).write rd (.bool (serialLt a b)))) := by
  have hr := binary_ok (rd := rd) (c := .seq) (f := fun a b => .bool (serialLt a.val b.val)) h (by rw [ha]; rfl) (by rw [ha]; nofun)
    (by rw [hb]; rfl) (by rw [hb]; nofun)
  rw [ha, hb] at hr
  exact hr

end Seq

/-- The low word of a sum and of a difference is that of the low words. -/
theorem truncate_add_sub (a b : Word) :
    (a + b).truncate 32 = (a.truncate 32 + b.truncate 32 : BitVec 32) ∧ (a - b).truncate 32 = (a.truncate 32 - b.truncate 32 : BitVec 32) := by
  constructor <;> apply BitVec.eq_of_toNat_eq
  · simp [BitVec.toNat_add]
  · simp only [BitVec.truncate_eq_setWidth, BitVec.toNat_sub, BitVec.toNat_setWidth]
    omega

/-- Settles O3. -/
theorem sequenceArithmetic : Obligations.SequenceArithmetic := by
  intro t rd rs1 rs2 s s1 a b h ha
  obtain ⟨hadd, hsub⟩ := truncate_add_sub a b
  refine ⟨fun hb => ⟨?_, ?_⟩, fun hb => ⟨?_, ?_⟩⟩
  · have := addSub_seq (rd := rd) (sub := false) h ha hb (.inl rfl)
    rw [exec_add, execAdd, this]
    simp [← hadd]
  · have := addSub_seq (rd := rd) (sub := true) h ha hb (.inl rfl)
    rw [exec_sub, execSub, this]
    simp [← hsub]
  · have := addSub_seq (rd := rd) (sub := true) h ha hb (.inr ⟨rfl, rfl⟩)
    rw [exec_sub, execSub, this]
    simp [← hsub, Reg.int]
  · rw [cmpSlt_ok h ha hb, serialLt_eq]
    simp [Reg.bool]

/-! ### Division (R40) -/

section Div
variable {t : Tid} {rd rs1 rs2 : RIdx} {s s1 : State} {a b : Word} {f : Word → Word → Word}

theorem divOp_checked (ha : IsInt (s.th t) rs1 a) (hb : IsInt (s.th t) rs2 b) :
    divOp t rd rs1 rs2 f s = (if b = 0 then raise vecArith 1 0 else wr t rd (.int (f a b)) : M Unit) s := by
  have h1 := opnd_fine (slot := 1) ha.accepts.1 ha.accepts.2
  have h2 := opnd_fine (slot := 2) hb.accepts.1 hb.accepts.2
  simp only [divOp, M.bind_run, greg_run]
  rw [checkOps_fine (by simpa using ⟨h1, h2⟩)]
  simp [ha.accepts.2, hb.accepts.2, ha.1, hb.1]

theorem divOp_ok (h : Fetches t 4 false s s1) (ha : IsInt (s1.th t) rs1 a) (hb : IsInt (s1.th t) rs2 b) (h0 : b ≠ 0) :
    simple t (divOp t rd rs1 rs2 f) s = .next (done t 4 s1 ((s1.th t).write rd (.int (f a b)))) :=
  simple_write h (by rw [divOp_checked (a := a) (b := b) (by simpa [IsInt] using ha) (by simpa [IsInt] using hb), if_neg h0])

/-- A zero divisor raises ARITH before anything is written (R40). -/
theorem divOp_zero (h : Fetches t 4 false s s1) (ha : IsInt (s1.th t) rs1 a) (hb : IsInt (s1.th t) rs2 0) :
    simple t (divOp t rd rs1 rs2 f) s = .next (trapped t 14 1 0 false s1) :=
  simple_trapped h (by rw [divOp_checked (a := a) (b := 0) (by simpa [IsInt] using ha) (by simpa [IsInt] using hb), if_pos rfl]; rfl)

end Div

theorem sdiv_eq_ofInt (a b : Word) : a.sdiv b = BitVec.ofInt 64 (a.toInt.tdiv b.toInt) :=
  BitVec.eq_of_toInt_eq (by simp [BitVec.toInt_sdiv, BitVec.toInt_ofInt])

theorem remS_eq_ofInt (a b : Word) : remS a b = BitVec.ofInt 64 (a.toInt.tmod b.toInt) := by
  rw [← BitVec.toInt_srem, BitVec.ofInt_toInt]
  rfl

/-- The tags that a list names all pass a class, POISON aside. -/
theorem poisonIn_of_tags {th : Thread} {c : OpClass} {l : List Tag} {rs : List RIdx} (hl : ∀ g ∈ l, c.accepts g = true ∨ g = .poison)
    (h : (∀ r ∈ rs, (th.g r).tag ∈ l) ∧ ∃ r ∈ rs, (th.g r).tag = .poison) : PoisonIn th c rs :=
  ⟨fun r hr => hl _ (h.1 r hr), h.2⟩

/-- Settles O4. -/
theorem divisionResults : Obligations.DivisionResults := by
  intro t rd rs1 rs2 s s1 h th put
  refine ⟨fun a b ha hb h0 => ⟨?_, ?_, ?_, ?_⟩, fun a ha hb => ?_, fun htags => ?_⟩
  · rw [← sdiv_eq_ofInt]
    exact divOp_ok h ha hb h0
  · rw [show BitVec.ofNat 64 (a.toNat / b.toNat) = a.udiv b from BitVec.eq_of_toNat_eq (by simp [Nat.mod_eq_of_lt (Nat.lt_of_le_of_lt (Nat.div_le_self _ _) a.isLt)])]
    exact divOp_ok h ha hb h0
  · rw [← remS_eq_ofInt]
    exact divOp_ok h ha hb h0
  · rw [show BitVec.ofNat 64 (a.toNat % b.toNat) = a.umod b from BitVec.eq_of_toNat_eq (by simp [Nat.mod_eq_of_lt (Nat.lt_of_le_of_lt (Nat.mod_le _ _) a.isLt)])]
    exact divOp_ok h ha hb h0
  · simp only [List.forall_mem_cons, List.not_mem_nil, IsEmpty.forall_iff, implies_true, and_true]
    and_intros <;> exact divOp_zero h ha hb
  · have hp : PoisonIn th .int [rs1, rs2] := poisonIn_of_tags (l := [.int, .bool, .poison]) (by decide) <| by
      simp only [List.forall_mem_cons]
      rcases htags with ⟨h1, h2⟩ | ⟨h1, h2⟩ <;> simp_all
    simp only [List.forall_mem_cons, List.not_mem_nil, IsEmpty.forall_iff, implies_true, and_true]
    and_intros <;> exact divOp_poison h hp

/-! ### Immediates (R597) -/

/-- LUI's imm20 shifted left by 12, sign-extended before or after the shift. -/
theorem signExtend_append_zero (imm : BitVec 20) : (imm ++ (0 : BitVec 12)).signExtend 64 = imm.signExtend 64 <<< 12 := by
  ext i hi
  simp only [BitVec.getElem_signExtend, BitVec.getElem_shiftLeft, BitVec.getElem_append, BitVec.msb_append]
  by_cases h12 : i < 12
  · simp [h12, show i < 32 by omega]
  · by_cases h32 : i < 32
    · simp [h12, h32, show i - 12 < 20 by omega]
    · simp [h12, h32, show ¬ i - 12 < 20 by omega]

theorem lui_ok {t : Tid} {rd : RIdx} {imm : UForm} {s s1 : State} (h : Fetches t (lenOf imm.isExt) imm.isExt s s1) :
    exec (.lui t rd imm) s = .next (done t (lenOf imm.isExt) s1 ((s1.th t).write rd (.int imm.value))) :=
  simpleX_write h rfl

/-- Settles O5. -/
theorem immediateResults : Obligations.ImmediateResults := by
  intro t rd rs1 s s1 a put
  refine ⟨?_, fun n ext h ha => ?_, fun imm h => ?_, fun imm h => ?_, ?_⟩
  · intro imm h ha v
    have hv : imm.value = v := by cases imm <;> rfl
    rw [← hv, ← ha.1]
    exact ⟨unary_int h ha, unary_int h ha, unary_int h ha, unary_int h ha⟩
  · rw [← ha.1]
    exact ⟨unary_int h ha, unary_int h ha, unary_int h ha⟩
  · rw [← signExtend_append_zero]
    exact lui_ok (imm := .short imm) h
  · exact lui_ok (imm := .ext imm) h
  · intro imm h ha v b
    have hv : imm.value = v := by cases imm <;> rfl
    have hk (k : CmpKind) : exec (.cmpi t rd rs1 k imm) s = .next (put (lenOf imm.isExt) (.bool (cmpInt k a v))) := by
      rw [← hv, ← ha.1]
      exact unary_int h ha
    refine ⟨?_, ?_, ?_, ?_, ?_, ?_⟩ <;> rw [hk] <;> simp [b, Reg.bool, cmpInt]

/-! ### Compares (R42) -/

/-- The relations of two values of which one is no number. -/
theorem fRel_nan {a b : Nat} (h : decodeF fp64 a = .nan ∨ decodeF fp64 b = .nan) :
    fEq fp64 a b = false ∧ fLt fp64 a b = false ∧ fUn fp64 a b = true := by
  rcases h with h | h <;> simp [fEq, fLt, fUn, h, Num.isNan]

theorem Num.isNan_false {x : Num} (h : x ≠ .nan) : x.isNan = false := by
  cases x with
  | nan => exact absurd rfl h
  | inf => rfl
  | fin => rfl

/-- The relations of two numbers are those of their order. -/
theorem fRel_number {a b : Nat} (ha : decodeF fp64 a ≠ .nan) (hb : decodeF fp64 b ≠ .nan) :
    fEq fp64 a b = decide ((decodeF fp64 a).cmp (decodeF fp64 b) = 0) ∧
    fLt fp64 a b = decide ((decodeF fp64 a).cmp (decodeF fp64 b) < 0) ∧ fUn fp64 a b = false := by
  have h1 := Num.isNan_false ha
  have h2 := Num.isNan_false hb
  refine ⟨?_, ?_, ?_⟩ <;> simp [fEq, fLt, fUn, h1, h2, Bool.beq_eq_decide_eq]

/-- Settles O6. -/
theorem compareResults : Obligations.CompareResults := by
  intro t rd rs1 rs2 s s1 a b h put
  refine ⟨fun ha hb => ?_, ?_⟩
  · have hr (i : Instr) (k : CmpKind) (hi : exec i s = simple t (binary t rd rs1 rs2 .int (cmpOp k)) s) :
        exec i s = .next (put (cmpInt k a b)) := by
      rw [hi, binary_int h ha hb, cmpOp, ha.1, hb.1]
      rfl
    refine ⟨?_, ?_, ?_, ?_, ?_, ?_⟩
    · rw [hr _ .eq rfl, cmpInt, Bool.beq_eq_decide_eq]
    · rw [hr _ .ne rfl, cmpInt]; simp [bne, Bool.beq_eq_decide_eq]
    · exact hr _ .lt rfl
    · exact hr _ .ltu rfl
    · exact hr _ .ge rfl
    · exact hr _ .geu rfl
  · intro ha hb x y
    have hr (i : Instr) (p : Nat → Nat → Bool)
        (hi : exec i s = simple t (binary t rd rs1 rs2 .fp (fun a b => .bool (p a.val.toNat b.val.toNat))) s) :
        exec i s = .next (put (p a.toNat b.toNat)) := by
      rw [hi, binary_flt h ha hb]
      rfl
    have hfeq := hr (.cmpFeq t rd rs1 rs2) (fEq fp64) rfl
    have hflt := hr (.cmpFlt t rd rs1 rs2) (fLt fp64) rfl
    have hfle := hr (.cmpFle t rd rs1 rs2) (fun a b => fLt fp64 a b || fEq fp64 a b) rfl
    have hfun := hr (.cmpFun t rd rs1 rs2) (fUn fp64) rfl
    refine ⟨fun hn => ?_, fun hx hy => ?_⟩
    · obtain ⟨heq, hlt, hun⟩ := fRel_nan hn
      simp [hfeq, hflt, hfle, hfun, heq, hlt, hun]
    · obtain ⟨heq, hlt, hun⟩ := fRel_number hx hy
      simp only [hfeq, hflt, hfle, hfun, heq, hlt, hun, ← Bool.decide_or, Int.le_iff_lt_or_eq]
      exact ⟨rfl, rfl, rfl, trivial⟩

end Sys2Proof.Machine
end

/-!
PROOFS, 3. A code decoded and encoded again: the sign operations of FP64 are exact (R41).
-/

section
namespace Sys2Proof.Machine

/-- The value of a finite magnitude code under a sign (R208). -/
def finNum (f : FFmt) (neg : Bool) (mag : Nat) : Num :=
  let q : Int := 1 - (f.bias : Int) - (f.fbits : Int)
  if mag / 2 ^ f.fbits = 0 then .fin neg (mag % 2 ^ f.fbits) q
  else .fin neg (mag % 2 ^ f.fbits + 2 ^ f.fbits) (q + (mag / 2 ^ f.fbits : Nat) - 1)

/-- A code is its sign, and the value of its magnitude. -/
theorem decodeF_eq (f : FFmt) (code : Nat) : decodeF f code =
    (let mag := code % 2 ^ f.width % 2 ^ (f.ebits + f.fbits)
     let neg := bit (code % 2 ^ f.width) (f.ebits + f.fbits)
     if mag ≤ f.maxMag then finNum f neg mag else if f.infMag = some mag then .inf neg else .nan) := rfl

/-- A whole number of units is rounded to itself, in every mode. -/
theorem quantize_exact (mode : RMode) (neg : Bool) (m : Nat) (e : Int) : quantize mode neg m e false e = m := by
  have h1 : m <<< 2 >>> 2 = m := Nat.shiftLeft_shiftRight m 2
  have h2 : m <<< 2 % 4 = 0 := by rw [Nat.shiftLeft_eq]; exact Nat.mul_mod_left _ _
  have hr : roundsUp mode neg m 0 2 false = false := by cases mode <;> simp [roundsUp]
  simp [quantize, h1, h2, hr]

/-- A finite magnitude code is that of its value. -/
theorem encodeF_finNum (f : FFmt) (mode : RMode) (neg : Bool) (mag : Nat) (h : mag ≤ f.maxMag) :
    encodeF f mode (finNum f neg mag) = withSign f neg mag := by
  have hpos : 0 < 2 ^ f.fbits := Nat.two_pow_pos _
  have hsplit := Nat.div_add_mod mag (2 ^ f.fbits)
  have hlt := Nat.mod_lt mag hpos
  unfold finNum
  by_cases hex : mag / 2 ^ f.fbits = 0
  · have hm : mag % 2 ^ f.fbits = mag := by rw [hex] at hsplit; omega
    by_cases h0 : mag = 0
    · simp [h0, encodeF]
    · have hlog : (log2 mag : Int) < f.fbits := by
        exact_mod_cast (Nat.log2_lt h0).mpr (hm ▸ hlt)
      have hu : unitOf f mag (1 - (f.bias : Int) - f.fbits) = 1 - (f.bias : Int) - f.fbits := by
        unfold unitOf; dsimp only; omega
      have hr : roundMag f mode neg mag (1 - (f.bias : Int) - f.fbits) false = mag := by
        unfold roundMag; dsimp only; rw [hu, quantize_exact]; simp
      simp [hex, hm, encodeF, h0, hr, h]
  · obtain ⟨ex, hx⟩ : ∃ ex : Nat, mag / 2 ^ f.fbits = ex + 1 := Nat.exists_eq_succ_of_ne_zero hex
    have hlog : log2 (mag % 2 ^ f.fbits + 2 ^ f.fbits) = f.fbits := by
      refine (Nat.log2_eq_iff (by omega)).mpr ⟨by omega, by rw [Nat.pow_succ]; omega⟩
    have he : (1 - (f.bias : Int) - f.fbits + ((ex + 1 : Nat) : Int) - 1) = 1 - (f.bias : Int) - f.fbits + ex := by push_cast; omega
    have hu : unitOf f (mag % 2 ^ f.fbits + 2 ^ f.fbits) (1 - (f.bias : Int) - f.fbits + ex) = 1 - (f.bias : Int) - f.fbits + ex := by
      unfold unitOf; rw [hlog]; dsimp only; omega
    have hr : roundMag f mode neg (mag % 2 ^ f.fbits + 2 ^ f.fbits) (1 - (f.bias : Int) - f.fbits + ex) false = mag := by
      unfold roundMag
      dsimp only
      rw [hu, quantize_exact]
      rw [hx, Nat.mul_add, Nat.mul_comm] at hsplit
      simp only [add_sub_cancel_left, Int.toNat_natCast]
      omega
    have hne : mag % 2 ^ f.fbits + 2 ^ f.fbits ≠ 0 := by omega
    simp only [hx, he, encodeF, Nat.succ_ne_zero, if_false, hr, h, if_true, hne, decide_false, Bool.false_and, Bool.false_eq_true]

/-! ### FABS and FNEG -/

/-- A value with a sign put in place of its own. -/
def Num.withNeg (neg : Bool) : Num → Num
  | .nan => .nan
  | .inf _ => .inf neg
  | .fin _ m e => .fin neg m e

theorem Num.abs_eq (x : Num) : x.abs = x.withNeg false := by cases x <;> rfl

theorem finNum_withNeg (f : FFmt) (a b : Bool) (mag : Nat) : (finNum f b mag).withNeg a = finNum f a mag := by
  unfold finNum
  dsimp only
  split <;> rfl

/-- An FP64 code whose sign is replaced: exact, but for a NaN. -/
theorem encodeF_withNeg (neg : Bool) (a : Word) : encodeF fp64 .rne ((decodeF fp64 a.toNat).withNeg neg) =
    if (decodeF fp64 a.toNat).isNan then 0x7FF8000000000000 else b2n neg * 2 ^ 63 + a.toNat % 2 ^ 63 := by
  have hm : a.toNat % 2 ^ fp64.width % 2 ^ (fp64.ebits + fp64.fbits) = a.toNat % 2 ^ 63 := by
    have := a.isLt
    simp only [FFmt.width, fp64]
    omega
  rw [decodeF_eq]
  simp only [hm]
  split
  · rename_i h
    have hn (b : Bool) : (finNum fp64 b (a.toNat % 2 ^ 63)).isNan = false := by unfold finNum; dsimp only; split <;> rfl
    rw [finNum_withNeg, encodeF_finNum _ _ _ _ h, hn]
    rfl
  · split
    · rename_i h
      have hi : a.toNat % 2 ^ 63 = 0x7FF0000000000000 := by simpa [fp64, eq_comm] using h
      rw [hi]
      cases neg <;> rfl
    · rfl

end Sys2Proof.Machine
end

section
namespace Sys2Proof.Machine

/-! ### FP64 (R41) -/

theorem neg_decodeF (a : Word) : (decodeF fp64 a.toNat).neg = (decodeF fp64 a.toNat).withNeg (!bit a.toNat 63) := by
  have hs : bit (a.toNat % 2 ^ fp64.width) (fp64.ebits + fp64.fbits) = bit a.toNat 63 := by
    rw [show 2 ^ fp64.width = 2 ^ 64 from rfl, Nat.mod_eq_of_lt a.isLt]
    rfl
  rw [decodeF_eq]
  simp only [hs]
  split
  · unfold finNum
    dsimp only
    split <;> rfl
  · split <;> rfl

/-- The sign bit flipped above the magnitude. -/
theorem flipped_sign (a : Word) : b2n (!bit a.toNat 63) * 2 ^ 63 + a.toNat % 2 ^ 63 = (a.toNat + 2 ^ 63) % 2 ^ 64 := by
  have := a.isLt
  rw [bit_eq]
  by_cases h : a.toNat / 2 ^ 63 % 2 = 1
  · simp only [h, decide_true, Bool.not_true, b2n, Bool.false_eq_true, if_false]
    omega
  · simp only [h, decide_false, Bool.not_false, b2n, if_true]
    omega

theorem fMin_fp64 (a b : Word) : fMin fp64 a.toNat b.toNat =
    if (decodeF fp64 a.toNat).isNan || (decodeF fp64 b.toNat).isNan then 0x7FF8000000000000
    else if (decodeF fp64 a.toNat).ord (decodeF fp64 b.toNat) ≤ 0 then a.toNat else b.toNat := by
  unfold fMin
  rw [show 2 ^ fp64.width = 2 ^ 64 from rfl, Nat.mod_eq_of_lt a.isLt, Nat.mod_eq_of_lt b.isLt]
  rfl

theorem fMax_fp64 (a b : Word) : fMax fp64 a.toNat b.toNat =
    if (decodeF fp64 a.toNat).isNan || (decodeF fp64 b.toNat).isNan then 0x7FF8000000000000
    else if (decodeF fp64 a.toNat).ord (decodeF fp64 b.toNat) ≤ 0 then b.toNat else a.toNat := by
  unfold fMax
  rw [show 2 ^ fp64.width = 2 ^ 64 from rfl, Nat.mod_eq_of_lt a.isLt, Nat.mod_eq_of_lt b.isLt]
  rfl

/-- Settles O7. -/
theorem fp64Results : Obligations.Fp64Results := by
  intro t rd rs1 rs2 rs3 mode s s1 a b c h put x y z
  refine ⟨fun ha => ⟨?_, ?_, ?_, ?_, ?_, ?_⟩, fun ha => ⟨?_, ?_, ?_⟩, fun ha hb => ⟨?_, ?_, ?_, ?_, ?_, ?_, fun hc => ?_⟩⟩
  · exact unary_flt h ha
  · have hr : exec (.fabs t rd rs1) s = .next (put .flt (encodeF fp64 .rne x.abs)) := unary_flt h ha
    rw [hr, Num.abs_eq, encodeF_withNeg]
    simp [x, b2n]
  · have hr : exec (.fneg t rd rs1) s = .next (put .flt (encodeF fp64 .rne x.neg)) := unary_flt h ha
    rw [hr, neg_decodeF, encodeF_withNeg, flipped_sign]
  · exact unary_flt h ha
  · exact unary_flt h ha
  · exact unary_flt h ha
  · rw [← ha.1]
    exact unary_int (ext := false) h ha
  · have hr : exec (.u2f t rd rs1 mode) s = .next (put .flt (encodeF fp64 mode (intNum a.toNat))) := by
      rw [← ha.1]
      exact unary_int (ext := false) h ha
    rw [hr, intNum, decide_eq_false (by omega), Int.natAbs_natCast]
  · rw [← ha.1]
    exact unary_int (ext := false) h ha
  · exact binary_flt h ha hb
  · exact binary_flt h ha hb
  · exact binary_flt h ha hb
  · exact binary_flt h ha hb
  · rw [← fMin_fp64]
    exact binary_flt h ha hb
  · rw [← fMax_fp64]
    exact binary_flt h ha hb
  · exact ⟨ternary_flt h ha hb hc, ternary_flt h ha hb hc, ternary_flt h ha hb hc, ternary_flt h ha hb hc⟩

/-! ### Tags (R34, R35) -/

section Tags
variable {t : Tid} {rd rs1 rs2 rc : RIdx} {s s1 : State}

/-- The move class (R31, class 0xC) takes the tags that the statements list. -/
theorem move_accepts {g : Tag} (h : g ∈ [Tag.nil, .int, .flt, .bool, .handle, .fmt, .seq]) :
    OpClass.move.accepts g = true ∧ g ≠ .poison := by
  revert h
  cases g <;> decide

/-- The class of RETAG (R31, class 0xE). -/
theorem retag_accepts {g : Tag} (h : g ∈ [Tag.nil, .int, .flt, .bool, .seq]) : OpClass.retag.accepts g = true ∧ g ≠ .poison := by
  revert h
  cases g <;> decide

theorem sel_run (h : Fetches t 4 false s s1) (h1 : (opnd 1 .move ((s1.th t).g rs1)).Fine)
    (h2 : (opnd 2 .move ((s1.th t).g rs2)).Fine) (h3 : (opnd 3 .int ((s1.th t).g rc)).Fine) :
    exec (.sel t rd rs1 rs2 rc) s = .next (done t 4 s1 ((s1.th t).write rd
      (orPoison (((s1.th t).g rs1).tag == .poison || ((s1.th t).g rs2).tag == .poison || ((s1.th t).g rc).tag == .poison)
        (if ((s1.th t).g rc).val ≠ 0 then (s1.th t).g rs1 else (s1.th t).g rs2)))) := by
  refine simple_write h ?_
  simp only [M.bind_run, greg_run, begun_th, g_withIter]
  rw [checkOps_fine (by simpa using ⟨h1, h2, h3⟩)]

/-- RETAG of a source that its class takes writes what R35 gives for the target. -/
theorem retag_ok {g : BitVec 4} {r : Reg} (h : Fetches t 4 false s s1) (ha : OpClass.retag.accepts ((s1.th t).g rs1).tag = true)
    (hp : ((s1.th t).g rs1).tag ≠ .poison) (hr : retagged ((s1.th t).g rs1).val g.toNat = some r) :
    exec (.retag t rd rs1 g) s = .next (done t 4 s1 ((s1.th t).write rd r)) := by
  have h1 := opnd_fine (slot := 1) ha hp
  refine simple_write h ?_
  simp only [M.bind_run, greg_run, begun_th, g_withIter]
  rw [checkOps_fine (by simpa using h1)]
  simp only [hr]

theorem fmtchk_checked {b : Bool} (ha : ((s.th t).g rs1).tag = .int) (hv : fmtValid ((s.th t).g rs1).val = b) :
    (do
      let a ← greg t rs1
      checkOps [opnd 1 .count a]
      if fmtValid a.val then wr t rd ⟨a.val, .fmt⟩
      else raise vecTagMismatch (1 * 2 ^ 16 + a.tag.code * 2 ^ 12 + 0xD * 2 ^ 8 + 2) 0 : M Unit) s =
    (if b then wr t rd ⟨((s.th t).g rs1).val, .fmt⟩ else raise 4 (0x10000 + 0x1000 + 0xD00 + 2) 0 : M Unit) s := by
  have h1 : (opnd 1 .count ((s.th t).g rs1)).Fine := opnd_fine (by rw [ha]; rfl) (by rw [ha]; nofun)
  simp only [M.bind_run, greg_run]
  rw [checkOps_fine (by simpa using h1), ha, hv]
  rfl

end Tags

/-- Settles O8. -/
theorem tagInstructionResults : Obligations.TagInstructionResults := by
  intro t rd rs1 rs2 rc s s1 h th put movable
  refine ⟨fun c h1 h2 hc => ?_, fun h1 => ?_, ?_, fun g => ?_, fun h1 => ⟨?_, ?_, ?_, ?_⟩, fun h1 hv => ?_, fun h1 hv => ?_⟩
  · obtain ⟨ha, hpa⟩ := move_accepts h1
    obtain ⟨hb, hpb⟩ := move_accepts h2
    obtain ⟨hi, hpi⟩ := hc.accepts
    rw [sel_run h (opnd_fine ha hpa) (opnd_fine hb hpb) (opnd_fine hi hpi), hc.1]
    simp [orPoison, hpa, hpb, hpi, put, th]
  · obtain ⟨ha, hpa⟩ := move_accepts h1
    exact unary_ok h ha hpa
  · exact simple_write h (by simp [th])
  · have hr : exec (.teq t rd rs1 g) s = .next (put (.bool ((th.g rs1).tag.code == g.toNat))) :=
      simple_write h (by simp [th])
    rw [hr]
    simp [Reg.bool]
  · exact retag_ok h (retag_accepts h1).1 (retag_accepts h1).2 rfl
  · exact retag_ok h (retag_accepts h1).1 (retag_accepts h1).2 rfl
  · rw [retag_ok h (retag_accepts h1).1 (retag_accepts h1).2 rfl]
    simp [Reg.bool, put, th]
  · exact retag_ok h (retag_accepts h1).1 (retag_accepts h1).2 rfl
  · exact simple_write h (by rw [fmtchk_checked (b := true) (by simpa using h1) (by simpa using hv)]; simp [th])
  · exact simple_trapped h (by rw [fmtchk_checked (b := false) (by simpa using h1) (by simpa using hv)]; rfl)

end Sys2Proof.Machine
end

section
namespace Sys2Proof.Machine

/-- Settles O9. -/
theorem poisonPropagates : Obligations.PoisonPropagates := by
  intro t rd rs1 rs2 rs3 mode s s1 h th out tags
  refine ⟨fun ht => ?_, fun ht => ⟨?_, fun imm k c n => ?_⟩, fun ht => ?_, fun ht => ?_, fun ht => ?_, fun ht => ?_, fun h12 h3 hany => ?_⟩
  · have hp := poisonIn_of_tags (c := .int) (by decide) ht
    simp only [List.forall_mem_cons, List.not_mem_nil, IsEmpty.forall_iff, implies_true, and_true]
    refine ⟨addSub_poison h hp, addSub_poison h hp, ?_⟩
    and_intros <;> exact binary_poison (by decide) rfl h hp
  · have hp := poisonIn_of_tags (c := .int) (by decide) ht
    simp only [List.forall_mem_cons, List.not_mem_nil, IsEmpty.forall_iff, implies_true, and_true]
    and_intros <;> exact unary_poison (by decide) rfl h hp
  · have hp := poisonIn_of_tags (c := .int) (by decide) ht
    simp only [List.forall_mem_cons, List.not_mem_nil, IsEmpty.forall_iff, implies_true, and_true]
    and_intros <;> exact unary_poison (by decide) rfl h hp
  · have hp := poisonIn_of_tags (c := .fp) (by decide) ht
    simp only [List.forall_mem_cons, List.not_mem_nil, IsEmpty.forall_iff, implies_true, and_true]
    and_intros <;> exact binary_poison (by decide) rfl h hp
  · have hp := poisonIn_of_tags (c := .fp) (by decide) ht
    simp only [List.forall_mem_cons, List.not_mem_nil, IsEmpty.forall_iff, implies_true, and_true]
    and_intros <;> exact unary_poison (by decide) rfl h hp
  · have hp := poisonIn_of_tags (c := .fp) (by decide) ht
    simp only [List.forall_mem_cons, List.not_mem_nil, IsEmpty.forall_iff, implies_true, and_true]
    and_intros <;> exact ternary_poison (by decide) rfl h hp
  · exact binary_poison (by decide) rfl h (poisonIn_of_tags (c := .seq) (by decide) ht)
  · have hmove {slot : Nat} {r : RIdx} (hr : r ∈ [rs1, rs2]) : (opnd slot .move (th.g r)).Fine := by
      have hl : ∀ g ∈ [Tag.nil, .int, .flt, .bool, .handle, .fmt, .seq, .poison], OpClass.move.accepts g = true ∨ g = .poison := by decide
      exact opnd_fine_or (by decide) rfl (hl _ (h12 r hr))
    have hint : (opnd 3 .int (th.g rs3)).Fine := by
      have hl : ∀ g ∈ [Tag.int, .bool, .poison], OpClass.int.accepts g = true ∨ g = .poison := by decide
      exact opnd_fine_or (by decide) rfl (hl _ h3)
    have hany' : (th.g rs1).tag = .poison ∨ (th.g rs2).tag = .poison ∨ (th.g rs3).tag = .poison := by simpa using hany
    rw [sel_run h (hmove (by simp)) (hmove (by simp)) hint]
    simp [orPoison, hany', or_assoc, out, th, Reg.poison]

/-- Settles O10: every instruction of the two families checks its two sources before anything else. -/
theorem tagMismatchNamesOperand : Obligations.TagMismatchNamesOperand := by
  intro t rd rs1 rs2 mode s s1 h th traps ints flts
  have hi : ∀ i ∈ ints, ∃ k, exec i s = simple t (pairThen t rs1 rs2 .int k) s := by
    simp only [ints, List.forall_mem_cons, List.not_mem_nil, IsEmpty.forall_iff, implies_true, and_true]
    and_intros <;> exact ⟨_, rfl⟩
  have hf : ∀ i ∈ flts, ∃ k, exec i s = simple t (pairThen t rs1 rs2 .fp k) s := by
    simp only [flts, List.forall_mem_cons, List.not_mem_nil, IsEmpty.forall_iff, implies_true, and_true]
    and_intros <;> exact ⟨_, rfl⟩
  have badI {g : Tag} (hg : g ∉ [Tag.int, .bool, .poison]) : OpClass.int.accepts g = false ∧ g ≠ .poison := by
    revert hg
    cases g <;> decide
  have okI : ∀ g ∈ [Tag.int, .bool, .poison], OpClass.int.accepts g = true ∨ g = .poison := by decide
  have badF {g : Tag} (hg : g ∉ [Tag.flt, .poison]) : OpClass.fp.accepts g = false ∧ g ≠ .poison := by
    revert hg
    cases g <;> decide
  have okF : ∀ g ∈ [Tag.flt, .poison], OpClass.fp.accepts g = true ∨ g = .poison := by decide
  refine ⟨fun h1 i hm => ?_, fun h1 h2 i hm => ?_, fun h1 i hm => ?_, fun h1 h2 i hm => ?_⟩
  · obtain ⟨k, hk⟩ := hi i hm
    exact hk.trans (pairThen_bad1 (by decide) h (badI h1).1 (badI h1).2)
  · obtain ⟨k, hk⟩ := hi i hm
    exact hk.trans (pairThen_bad2 (by decide) h (opnd_fine_or (by decide) rfl (okI _ h1)) (badI h2).1 (badI h2).2)
  · obtain ⟨k, hk⟩ := hf i hm
    exact hk.trans (pairThen_bad1 (by decide) h (badF h1).1 (badF h1).2)
  · obtain ⟨k, hk⟩ := hf i hm
    exact hk.trans (pairThen_bad2 (by decide) h (opnd_fine_or (by decide) rfl (okF _ h1)) (badF h2).1 (badF h2).2)

/-! ### Branches (R42, R43) -/

section Branches
variable {t : Tid} {r : RIdx} {s s1 : State}

/-- A meaning that ends with a target. -/
theorem runInstr_jumped {i : InstrInfo} {body : M (Option Word)} {a : Word} {s2 : State} (h : Fetches t i.len i.ext s s1)
    (hr : i.resumable = false) (hb : body (begun t s1) = .ok (some a) s2) :
    runInstr t i body s = .next (jumped t a s2 (s2.th t)) := by
  rw [runInstr_ok h (by rw [hr]; exact hb), advance_some]

/-- A meaning that raises an exception before it has changed anything. -/
theorem runInstr_trapped {i : InstrInfo} {body : M (Option Word)} {v d a : Nat} (h : Fetches t i.len i.ext s s1)
    (hr : i.resumable = false) (hp : i.pfx = false) (hb : body (begun t s1) = .error (.exc ⟨v, d, a⟩) (begun t s1)) :
    runInstr t i body s = .next (trapped t v d a i.ext s1) := by
  rw [runInstr_exc h (by rw [hr]; exact hb), hp]
  rfl

theorem branchTarget_eq (pc : Word) (d : Int) : branchTarget pc d = pc + 4 * BitVec.ofInt 64 d := by
  rw [branchTarget, BitVec.ofInt_mul]
  rfl

theorem condBranch_ok {off : BForm} {v : Word} {onZero : Bool} (h : Fetches t (lenOf off.isExt) off.isExt s s1)
    (hr : IsInt (s1.th t) r v) : condBranch t r off onZero s = .next (if (v == 0) == onZero
      then jumped t (branchTarget (s1.th t).pc off.value) s1 (s1.th t) else done t (lenOf off.isExt) s1 (s1.th t)) := by
  have hc : (opnd 0 .cond ((s1.th t).g r)).Fine := by
    obtain ⟨-, hg | hg⟩ := hr <;> exact opnd_fine (by rw [hg]; rfl) (by rw [hg]; nofun)
  have hb : (do
      let th ← getT t
      checkOps [opnd 0 .cond (th.g r)]
      pure (if ((th.g r).val == 0) == onZero then some (branchTarget th.pc off.value) else none) : M (Option Word)) (begun t s1) =
      .ok (if (v == 0) == onZero then some (branchTarget (s1.th t).pc off.value) else none) (begun t s1) := by
    simp only [M.bind_run, getT_run, begun_th, g_withIter]
    rw [checkOps_fine (by simpa using hc), hr.1]
    rfl
  unfold condBranch
  rw [runInstr_ok (i := { len := lenOf off.isExt, ext := off.isExt }) h hb]
  split
  · rw [advance_some, begun_th]
    exact congrArg _ (jumped_setTh t _ s1 _ _)
  · rw [advance_none, begun_th]
    exact congrArg _ (done_begun t _ s1 _)

/-- JR and CALLR read their target before anything else (R43). -/
theorem jumpTarget_run {v : Word} (hr : (s.th t).g r = ⟨v, .int⟩) :
    jumpTarget t r s = (if v.toNat % 4 ≠ 0 then raise vecAlign 0 v.toNat else pure v : M Word) s := by
  have hc : (opnd 1 .index ⟨v, .int⟩).Fine := opnd_fine rfl nofun
  simp only [jumpTarget, M.bind_run, greg_run, hr]
  rw [checkOps_fine (by simpa using hc)]
  by_cases h4 : v.toNat % 4 = 0 <;> simp [h4]

end Branches

/-- Settles O16. -/
theorem branchResults : Obligations.BranchResults := by
  intro t r s s1 th
  refine ⟨?_, ?_, fun v h hr => ⟨fun h4 => ?_, fun h4 => ?_⟩⟩
  · intro off v h hr d target past
    have hd : off.value = d := by cases off <;> rfl
    have ht : branchTarget (s1.th t).pc off.value = target := by rw [hd, branchTarget_eq]
    refine ⟨?_, ?_⟩
    · rw [exec_bz, execBz, condBranch_ok h hr, ht]
      simp [past, th]
    · rw [exec_bnz, execBnz, condBranch_ok h hr, ht]
      by_cases hv : v = 0 <;> simp [hv, past, th]
  · intro off h d
    have hd : off.value = d := by cases off <;> rfl
    have hr := runInstr_jumped (i := { len := lenOf off.isExt, ext := off.isExt })
      (body := do let th ← getT t; pure (some (branchTarget th.pc off.value))) h rfl
      (a := branchTarget th.pc off.value) (s2 := begun t s1) (by simp [th])
    rw [exec_j, execJ, hr, hd, branchTarget_eq, begun_th]
    exact congrArg _ (jumped_setTh t _ s1 _ _)
  · have hb : jumpTarget t r (begun t s1) = .ok v (begun t s1) := by
      rw [jumpTarget_run (v := v) (by simpa [Holds] using hr)]
      simp [h4]
    have hj := runInstr_jumped (i := {}) (body := do let a ← jumpTarget t r; pure (some a)) h rfl (a := v) (s2 := begun t s1)
      (by simp [hb])
    rw [exec_jr, execJr, hj, begun_th]
    exact congrArg _ (jumped_setTh t _ s1 _ _)
  · have hb : jumpTarget t r (begun t s1) = .error (.exc ⟨13, 0, v.toNat⟩) (begun t s1) := by
      rw [jumpTarget_run (v := v) (by simpa [Holds] using hr)]
      simp [h4, vecAlign]
    exact runInstr_trapped (i := {}) (body := do let a ← jumpTarget t r; pure (some a)) h rfl rfl (by simp [hb])

end Sys2Proof.Machine
end

/-!
PROOFS, 4. The lanes of a word, and the short-vector instructions (R55 to R57).
-/

section
namespace Sys2Proof.Machine

/-! ### Packing and unpacking -/

theorem packBits_lt (w : Nat) (l : List Nat) : packBits w l < 2 ^ (w * l.length) := by
  induction l with
  | nil => simp [packBits]
  | cons c cs ih =>
    have hc : c % 2 ^ w + 1 ≤ 2 ^ w := Nat.mod_lt _ (Nat.two_pow_pos w)
    have he : packBits w (c :: cs) = c % 2 ^ w + 2 ^ w * packBits w cs := rfl
    calc packBits w (c :: cs) < 2 ^ w + 2 ^ w * packBits w cs := by omega
      _ = 2 ^ w * (packBits w cs + 1) := by ring
      _ ≤ 2 ^ w * 2 ^ (w * cs.length) := Nat.mul_le_mul_left _ ih
      _ = 2 ^ (w * (c :: cs).length) := by rw [← Nat.pow_add, List.length_cons, Nat.mul_succ, Nat.add_comm]

/-- Code k of a packed list. -/
theorem packBits_code (w : Nat) (l : List Nat) (k : Nat) (hk : k < l.length) : packBits w l / 2 ^ (w * k) % 2 ^ w = l[k] % 2 ^ w := by
  induction l generalizing k with
  | nil => simp at hk
  | cons c cs ih =>
    cases k with
    | zero => simp [packBits]
    | succ k =>
      have hd : packBits w (c :: cs) / 2 ^ w = packBits w cs := by
        rw [packBits, Nat.add_mul_div_left _ _ (Nat.two_pow_pos w), Nat.div_eq_of_lt (Nat.mod_lt _ (Nat.two_pow_pos w)), Nat.zero_add]
      rw [Nat.mul_succ, Nat.add_comm, Nat.pow_add, ← Nat.div_div_eq_div_mul, hd]
      exact ih k (by simpa using hk)

theorem unpackBits_length (w n v : Nat) : (unpackBits w n v).length = n := by
  induction n generalizing v with
  | zero => rfl
  | succ n ih => simp [unpackBits, ih]

/-- Code k taken from a number. -/
theorem unpackBits_code (w n v k : Nat) (hk : k < (unpackBits w n v).length) : (unpackBits w n v)[k] = v / 2 ^ (w * k) % 2 ^ w := by
  induction n generalizing v k with
  | zero => simp [unpackBits] at hk
  | succ n ih =>
    cases k with
    | zero => simp [unpackBits]
    | succ k =>
      simp only [unpackBits, List.getElem_cons_succ]
      rw [ih, Nat.mul_succ, Nat.add_comm (w * k), Nat.pow_add, Nat.div_div_eq_div_mul]

/-! ### Lanes of a word -/

/-- Lane k of width w of a 64-bit word. -/
def laneOf (w : Nat) (x : Word) (k : Nat) : BitVec w := BitVec.ofNat w (x.toNat / 2 ^ (w * k))

theorem laneOf_toNat (w : Nat) (x : Word) (k : Nat) : (laneOf w x k).toNat = x.toNat / 2 ^ (w * k) % 2 ^ w := BitVec.toNat_ofNat _ _

/-- Lane k of a word packed from 64/w codes. -/
theorem laneOf_packed {w : Nat} (hw : w ∣ 64) {l : List Nat} (hl : l.length = 64 / w) {k : Nat} (hk : k < l.length) :
    laneOf w (BitVec.ofNat 64 (packBits w l)) k = BitVec.ofNat w l[k] := by
  have hlt : packBits w l < 2 ^ 64 := by
    have := packBits_lt w l
    rwa [hl, Nat.mul_div_cancel' hw] at this
  apply BitVec.eq_of_toNat_eq
  rw [laneOf_toNat, BitVec.toNat_ofNat, BitVec.toNat_ofNat, Nat.mod_eq_of_lt hlt, packBits_code w l k hk]

theorem lane_lt {w k : Nat} (hw : w ∣ 64) (hk : w * k < 64) : k < 64 / w := by
  obtain ⟨d, hd⟩ := hw
  have hpos : 0 < w := Nat.pos_of_ne_zero (fun h => by simp [h] at hd)
  rw [hd] at hk ⊢
  rw [Nat.mul_div_cancel_left _ hpos]
  exact Nat.lt_of_mul_lt_mul_left hk

theorem laneOf_wordLanes {w : Nat} (hw : w ∣ 64) (f : Lane2) (a b : Word) {k : Nat} (hk : w * k < 64) :
    laneOf w (BitVec.ofNat 64 (wordLanes w f a.toNat b.toNat)) k = BitVec.ofNat w (f (laneOf w a k).toNat (laneOf w b k).toNat) := by
  have hk' := lane_lt hw hk
  rw [wordLanes, laneOf_packed hw (by simp [unpackBits_length]) (by simpa [unpackBits_length] using hk')]
  simp only [List.getElem_zipWith, unpackBits_code, laneOf_toNat]

theorem laneOf_wordLanes3 {w : Nat} (hw : w ∣ 64) (f : Nat → Nat → Nat → Nat) (a b c : Word) {k : Nat} (hk : w * k < 64) :
    laneOf w (BitVec.ofNat 64 (wordLanes3 w f a.toNat b.toNat c.toNat)) k =
      BitVec.ofNat w (f (laneOf w a k).toNat (laneOf w b k).toNat (laneOf w c k).toNat) := by
  have hk' := lane_lt hw hk
  rw [wordLanes3, laneOf_packed hw (by simp [unpackBits_length]) (by simpa [unpackBits_length] using hk')]
  simp only [List.getElem_zipWith, List.getElem_zip, unpackBits_code, laneOf_toNat]

/-! ### The lane operations on bit patterns -/

theorem sext_toNat {w : Nat} (x : BitVec w) : sext w x.toNat = x.toInt := by
  have := x.isLt
  unfold sext
  rw [BitVec.toInt_eq_toNat_cond, Nat.mod_eq_of_lt this]
  by_cases h : 2 * x.toNat < 2 ^ w
  · simp [h, Nat.not_le.mpr h]
  · simp [h, Nat.le_of_not_lt h]

theorem ofNat_intBits (w : Nat) (i : Int) : BitVec.ofNat w (intBits w i) = BitVec.ofInt w i := by
  apply BitVec.eq_of_toNat_eq
  have h0 : 0 ≤ i % 2 ^ w := Int.emod_nonneg _ (by positivity)
  have hlt : i % 2 ^ w < 2 ^ w := Int.emod_lt_of_pos _ (by positivity)
  rw [BitVec.toNat_ofNat, BitVec.toNat_ofInt, intBits, Nat.mod_eq_of_lt]
  · push_cast; rfl
  · zify
    rwa [Int.toNat_of_nonneg h0]

section Lanes
variable {w : Nat} (x y : BitVec w)

theorem ofNat_laneAdd : BitVec.ofNat w (laneAdd w x.toNat y.toNat) = x + y :=
  BitVec.eq_of_toNat_eq (by simp [laneAdd, BitVec.toNat_add])

theorem ofNat_laneSub : BitVec.ofNat w (laneSub w x.toNat y.toNat) = x - y :=
  BitVec.eq_of_toNat_eq (by simp [laneSub, BitVec.toNat_sub, Nat.add_comm])

theorem ofNat_laneMul : BitVec.ofNat w (laneMul w x.toNat y.toNat) = x * y :=
  BitVec.eq_of_toNat_eq (by simp [laneMul, BitVec.toNat_mul])

theorem ofNat_laneMin : BitVec.ofNat w (laneMin w x.toNat y.toNat) = if x.toInt ≤ y.toInt then x else y := by
  unfold laneMin
  rw [sext_toNat, sext_toNat]
  split <;> simp

theorem ofNat_laneMax : BitVec.ofNat w (laneMax w x.toNat y.toNat) = if x.toInt ≤ y.toInt then y else x := by
  unfold laneMax
  rw [sext_toNat, sext_toNat]
  split <;> simp

theorem ofNat_laneMinu : BitVec.ofNat w (laneMinu w x.toNat y.toNat) = if x.toNat ≤ y.toNat then x else y := by
  unfold laneMinu
  split <;> simp

theorem ofNat_laneMaxu : BitVec.ofNat w (laneMaxu w x.toNat y.toNat) = if x.toNat ≤ y.toNat then y else x := by
  unfold laneMaxu
  split <;> simp

theorem ofNat_laneAnd : BitVec.ofNat w (laneAnd w x.toNat y.toNat) = x &&& y := by
  rw [show laneAnd w x.toNat y.toNat = (x &&& y).toNat from (BitVec.toNat_and x y).symm, BitVec.ofNat_toNat, BitVec.setWidth_eq]

theorem ofNat_laneOr : BitVec.ofNat w (laneOr w x.toNat y.toNat) = x ||| y := by
  rw [show laneOr w x.toNat y.toNat = (x ||| y).toNat from (BitVec.toNat_or x y).symm, BitVec.ofNat_toNat, BitVec.setWidth_eq]

theorem ofNat_laneXor : BitVec.ofNat w (laneXor w x.toNat y.toNat) = x ^^^ y := by
  rw [show laneXor w x.toNat y.toNat = (x ^^^ y).toNat from (BitVec.toNat_xor x y).symm, BitVec.ofNat_toNat, BitVec.setWidth_eq]

theorem ofNat_laneSll : BitVec.ofNat w (laneSll w x.toNat y.toNat) = x <<< (y.toNat % w) :=
  BitVec.eq_of_toNat_eq (by simp [laneSll, BitVec.toNat_shiftLeft, Nat.shiftLeft_eq])

theorem ofNat_laneSrl : BitVec.ofNat w (laneSrl w x.toNat y.toNat) = x >>> (y.toNat % w) := by
  apply BitVec.eq_of_toNat_eq
  rw [laneSrl, BitVec.toNat_ofNat, BitVec.toNat_ushiftRight, Nat.shiftRight_eq_div_pow]
  exact Nat.mod_eq_of_lt (Nat.lt_of_le_of_lt (Nat.div_le_self _ _) x.isLt)

theorem ofNat_laneSra : BitVec.ofNat w (laneSra w x.toNat y.toNat) = x.sshiftRight (y.toNat % w) := by
  rw [laneSra, ofNat_intBits, sext_toNat, BitVec.sshiftRight, Int.shiftRight_eq_div_pow]
  push_cast
  rfl

theorem ofNat_laneMask (p : Bool) : BitVec.ofNat w (laneMask w p) = if p then BitVec.allOnes w else 0 := by
  cases p
  · simp [laneMask]
  · exact BitVec.eq_of_toNat_eq (by simp [laneMask])

theorem ofNat_laneCmpEq : BitVec.ofNat w (laneCmpEq w x.toNat y.toNat) = if x == y then BitVec.allOnes w else 0 := by
  rw [laneCmpEq, ofNat_laneMask]
  simp [BitVec.toNat_eq]

theorem ofNat_laneCmpLt : BitVec.ofNat w (laneCmpLt w x.toNat y.toNat) = if decide (x.toInt < y.toInt) then BitVec.allOnes w else 0 := by
  rw [laneCmpLt, ofNat_laneMask, sext_toNat, sext_toNat]

theorem ofNat_laneSadd : BitVec.ofNat w (laneSadd w x.toNat y.toNat) =
    BitVec.ofInt w (max (-2 ^ (w - 1)) (min (x.toInt + y.toInt) (2 ^ (w - 1) - 1))) := by
  rw [laneSadd, ofNat_intBits, sext_toNat, sext_toNat, satS, min_comm]

end Lanes

/-- A signed byte of a 32-bit lane. -/
theorem sext_byte (v : BitVec 32) (j : Nat) :
    BitVec.ofInt 32 (sext 8 (v.toNat / 2 ^ (8 * j) % 2 ^ 8)) = (BitVec.ofNat 8 (v.toNat / 2 ^ (8 * j))).signExtend 32 := by
  rw [← BitVec.toNat_ofNat, sext_toNat]
  rfl

/-- VDOT4 on one 32-bit lane: four signed byte products added to the lane of rd. -/
theorem ofNat_dot4Lane (a b c : BitVec 32) : BitVec.ofNat 32 (dot4Lane a.toNat b.toNat c.toNat) =
    (let x (v : BitVec 32) (j : Nat) : BitVec 32 := (BitVec.ofNat 8 (v.toNat / 2 ^ (8 * j))).signExtend 32
     c + x a 0 * x b 0 + x a 1 * x b 1 + x a 2 * x b 2 + x a 3 * x b 3) := by
  have hu (v : Nat) : unpackBits 8 4 v = [v / 2 ^ (8 * 0) % 2 ^ 8, v / 2 ^ (8 * 1) % 2 ^ 8, v / 2 ^ (8 * 2) % 2 ^ 8, v / 2 ^ (8 * 3) % 2 ^ 8] := by
    simp [unpackBits, Nat.div_div_eq_div_mul]
  have hc : BitVec.ofInt 32 (c.toNat : Int) = c := by simp
  simp only [dot4Lane, ofNat_intBits, hu, List.zipWith_cons_cons, List.zipWith_nil_left, List.foldl_cons, List.foldl_nil,
    BitVec.ofInt_add, BitVec.ofInt_mul, sext_byte, hc, zero_add, BitVec.add_assoc]

/-! ### Short-vector sources (R31, R55) -/

/-- The class of short-vector words (R31, class 0x5): INT or FLT, in an even register. -/
def SvWords (th : Thread) (r : RIdx) : Prop :=
  r.val % 2 = 0 ∧ (th.pair r).a.tag ∈ [Tag.int, .flt] ∧ (th.pair r).b.tag ∈ [Tag.int, .flt]

theorem sv_accepts {g : Tag} (h : g ∈ [Tag.int, .flt]) : OpClass.sv.accepts g = true ∧ g ≠ .poison := by
  have : g = .int ∨ g = .flt := by simpa using h
  obtain rfl | rfl := this <;> exact ⟨rfl, nofun⟩

theorem SvWords.fine {th : Thread} {r : RIdx} (h : SvWords th r) (slot : Nat) : ∀ o ∈ svOps slot (th.pair r), o.Fine := by
  obtain ⟨-, ha, hb⟩ := h
  simpa [svOps] using And.intro (opnd_fine (slot := slot) (sv_accepts ha).1 (sv_accepts ha).2) (opnd_fine (slot := slot) (sv_accepts hb).1 (sv_accepts hb).2)

theorem SvWords.notPoison {th : Thread} {r : RIdx} (h : SvWords th r) : pairPoison (th.pair r) = false := by
  obtain ⟨-, ha, hb⟩ := h
  simp [pairPoison, (sv_accepts ha).2, (sv_accepts hb).2]

theorem needEven_run {rs : List RIdx} {s : State} (h : ∀ r ∈ rs, r.val % 2 = 0) : needEven rs s = .ok () s := by
  have : rs.all (fun r => r.val % 2 == 0) = true := by simpa [List.all_eq_true] using h
  rw [needEven, if_pos this]
  rfl

theorem svResult_clear (flt : Bool) (lo hi : Nat) : svResult false flt lo hi =
    (let g : Tag := if flt then .flt else .int
     ⟨⟨BitVec.ofNat 64 lo, g⟩, ⟨BitVec.ofNat 64 hi, g⟩⟩) := by
  cases flt <;> rfl

/-! ### The lanes of a result -/

/-- The outcome writes to rd a pair with tag g whose lanes of width w are f of the lanes of three pairs. -/
def Lanewise (t : Tid) (s1 : State) (rd : RIdx) (p1 p2 p3 : Pair) (o : Host.Outcome State Fault Refusal) (w : Nat) (g : Tag)
    (f : BitVec w → BitVec w → BitVec w → BitVec w) : Prop :=
  ∃ lo hi : Word, o = .next (done t 4 s1 ((s1.th t).writePair rd ⟨⟨lo, g⟩, ⟨hi, g⟩⟩)) ∧
    ∀ k, w * k < 64 →
      laneOf w lo k = f (laneOf w p1.a.val k) (laneOf w p2.a.val k) (laneOf w p3.a.val k) ∧
      laneOf w hi k = f (laneOf w p1.b.val k) (laneOf w p2.b.val k) (laneOf w p3.b.val k)

section Results
variable {t : Tid} {rd rs1 rs2 rs3 : RIdx} {s s1 : State}

theorem svBinary_lanes {w : Nat} {flt : Bool} {F : Lane2} {f : BitVec w → BitVec w → BitVec w} (h : Fetches t 4 false s s1)
    (hd : rd.val % 2 = 0) (h1 : SvWords (s1.th t) rs1) (h2 : SvWords (s1.th t) rs2) (hw : w ∣ 64)
    (hF : ∀ x y : BitVec w, BitVec.ofNat w (F x.toNat y.toNat) = f x y) (p3 : Pair) :
    Lanewise t s1 rd ((s1.th t).pair rs1) ((s1.th t).pair rs2) p3 (simple t (svBinary t rd rs1 rs2 flt (wordLanes w F)) s) w
      (if flt then .flt else .int) (fun a b _ => f a b) := by
  refine ⟨BitVec.ofNat 64 (wordLanes w F _ _), BitVec.ofNat 64 (wordLanes w F _ _), simple_writePair h ?_,
    fun k hk => ⟨(laneOf_wordLanes hw F _ _ hk).trans (hF _ _), (laneOf_wordLanes hw F _ _ hk).trans (hF _ _)⟩⟩
  simp only [svBinary, M.bind_run, needEven_run (rs := [rd, rs1, rs2]) (by simp [hd, h1.1, h2.1]), getT_run, begun_th, pair_withIter]
  rw [checkOps_fine (fun o ho => (List.mem_append.mp ho).elim (h1.fine 1 o) (h2.fine 2 o))]
  simp only [h1.notPoison, h2.notPoison, Bool.or_self, svResult_clear]

theorem svTernary_lanes {w slot3 : Nat} {flt : Bool} {F : Nat → Nat → Nat → Nat} {f : BitVec w → BitVec w → BitVec w → BitVec w}
    (h : Fetches t 4 false s s1) (hd : rd.val % 2 = 0) (h1 : SvWords (s1.th t) rs1) (h2 : SvWords (s1.th t) rs2)
    (h3 : SvWords (s1.th t) rs3) (hw : w ∣ 64)
    (hF : ∀ x y z : BitVec w, BitVec.ofNat w (F x.toNat y.toNat z.toNat) = f x y z) :
    Lanewise t s1 rd ((s1.th t).pair rs1) ((s1.th t).pair rs2) ((s1.th t).pair rs3)
      (simple t (svTernary t rd rs1 rs2 rs3 slot3 flt (wordLanes3 w F)) s) w (if flt then .flt else .int) f := by
  refine ⟨BitVec.ofNat 64 (wordLanes3 w F _ _ _), BitVec.ofNat 64 (wordLanes3 w F _ _ _), simple_writePair h ?_,
    fun k hk => ⟨(laneOf_wordLanes3 hw F _ _ _ hk).trans (hF _ _ _), (laneOf_wordLanes3 hw F _ _ _ hk).trans (hF _ _ _)⟩⟩
  have hops : ∀ o ∈ svOps 1 ((s1.th t).pair rs1) ++ svOps 2 ((s1.th t).pair rs2) ++ svOps slot3 ((s1.th t).pair rs3), o.Fine := by
    intro o ho
    obtain (ho | ho) | ho := by simpa only [List.mem_append] using ho
    · exact h1.fine 1 o ho
    · exact h2.fine 2 o ho
    · exact h3.fine slot3 o ho
  simp only [svTernary, M.bind_run, needEven_run (rs := [rd, rs1, rs2, rs3]) (by simp [hd, h1.1, h2.1, h3.1]), getT_run, begun_th, pair_withIter]
  rw [checkOps_fine hops]
  simp only [h1.notPoison, h2.notPoison, h3.notPoison, Bool.or_self, svResult_clear]

theorem intLane_dvd : ∀ lanes : Fin 4, intLane lanes ∣ 64 := by decide

theorem svLane_dvd : ∀ lanes : SvLanes, (svLane lanes).width ∣ 64
  | .fp32 => by decide
  | .bf16 => by decide
  | .fp64 => by decide

/-- SV.INT: every lane operation of R56 on integer lanes. -/
theorem svInt_lanes {lanes : Fin 4} {F : Nat → Lane2} {f : BitVec (intLane lanes) → BitVec (intLane lanes) → BitVec (intLane lanes)}
    (h : Fetches t 4 false s s1) (hd : rd.val % 2 = 0) (h1 : SvWords (s1.th t) rs1) (h2 : SvWords (s1.th t) rs2) (p3 : Pair)
    (hF : ∀ x y : BitVec (intLane lanes), BitVec.ofNat _ (F (intLane lanes) x.toNat y.toNat) = f x y) :
    Lanewise t s1 rd ((s1.th t).pair rs1) ((s1.th t).pair rs2) p3 (svInt t rd rs1 rs2 lanes F s) (intLane lanes) .int (fun a b _ => f a b) :=
  svBinary_lanes (flt := false) h hd h1 h2 (intLane_dvd lanes) hF p3

theorem fp64_tag (lanes : SvLanes) : (if (lanes == .fp64) = true then Tag.flt else .int) = if lanes = .fp64 then .flt else .int := by
  cases lanes <;> rfl

/-- SV.FP: every lane operation of R56 on floating lanes, rounded to nearest even. -/
theorem svFp_lanes {lanes : SvLanes} {F : FFmt → Lane2} (h : Fetches t 4 false s s1) (hd : rd.val % 2 = 0)
    (h1 : SvWords (s1.th t) rs1) (h2 : SvWords (s1.th t) rs2) (p3 : Pair) :
    Lanewise t s1 rd ((s1.th t).pair rs1) ((s1.th t).pair rs2) p3 (svFp t rd rs1 rs2 lanes F s) (svLane lanes).width
      (if lanes = .fp64 then .flt else .int) (fun a b _ => BitVec.ofNat _ (F (svLane lanes) a.toNat b.toNat)) := by
  rw [← fp64_tag]
  exact svBinary_lanes h hd h1 h2 (svLane_dvd lanes) (fun _ _ => rfl) p3

theorem svFma_lanes {lanes : SvLanes} {op : Fin 4} (h : Fetches t 4 false s s1) (hd : rd.val % 2 = 0)
    (h1 : SvWords (s1.th t) rs1) (h2 : SvWords (s1.th t) rs2) (h3 : SvWords (s1.th t) rs3) :
    Lanewise t s1 rd ((s1.th t).pair rs1) ((s1.th t).pair rs2) ((s1.th t).pair rs3) (execSvFma t rd rs1 rs2 rs3 op lanes s)
      (svLane lanes).width (if lanes = .fp64 then .flt else .int)
      (fun a b c => BitVec.ofNat _ (laneFma (svLane lanes) op.val a.toNat b.toNat c.toNat)) := by
  rw [← fp64_tag]
  exact svTernary_lanes h hd h1 h2 h3 (svLane_dvd lanes) (fun _ _ _ => rfl)

end Results

/-- Settles O19: lane k of each result word is the operation on lane k of the source words, since packing and unpacking codes
of a width that divides 64 are inverse (`laneOf_wordLanes`). -/
theorem shortVectorResults : Obligations.ShortVectorResults := by
  intro t rd rs1 rs2 rs3 s s1 h th words h1 h2 hd lane res ones sat
  have h1 : SvWords (s1.th t) rs1 := h1
  have h2 : SvWords (s1.th t) rs2 := h2
  let p3 := (s1.th t).pair rs3
  refine ⟨fun lanes => ?_, ?_, fun lanes => ?_⟩
  · exact ⟨svInt_lanes h hd h1 h2 p3 ofNat_laneAdd, svInt_lanes h hd h1 h2 p3 ofNat_laneSub, svInt_lanes h hd h1 h2 p3 ofNat_laneMul,
      svInt_lanes h hd h1 h2 p3 ofNat_laneMin, svInt_lanes h hd h1 h2 p3 ofNat_laneMax, svInt_lanes h hd h1 h2 p3 ofNat_laneMinu,
      svInt_lanes h hd h1 h2 p3 ofNat_laneMaxu, svInt_lanes h hd h1 h2 p3 ofNat_laneAnd, svInt_lanes h hd h1 h2 p3 ofNat_laneOr,
      svInt_lanes h hd h1 h2 p3 ofNat_laneXor, svInt_lanes h hd h1 h2 p3 ofNat_laneSll, svInt_lanes h hd h1 h2 p3 ofNat_laneSrl,
      svInt_lanes h hd h1 h2 p3 ofNat_laneSra, svInt_lanes h hd h1 h2 p3 ofNat_laneCmpEq, svInt_lanes h hd h1 h2 p3 ofNat_laneCmpLt,
      svInt_lanes h hd h1 h2 p3 ofNat_laneSadd⟩
  · rintro rfl h3
    exact svTernary_lanes (flt := false) h hd h1 h2 h3 (by decide) ofNat_dot4Lane
  · exact ⟨svFp_lanes h hd h1 h2 p3, svFp_lanes h hd h1 h2 p3, svFp_lanes h hd h1 h2 p3, svFp_lanes h hd h1 h2 p3,
      svFp_lanes h hd h1 h2 p3, fun h3 => ⟨svFma_lanes h hd h1 h2 h3, svFma_lanes h hd h1 h2 h3, svFma_lanes h hd h1 h2 h3,
      svFma_lanes h hd h1 h2 h3⟩⟩

/-! ### The permutes (R57) -/

/-- The bytes of a pair of words, least significant first. -/
def pairByte (p : Pair) (k : Nat) : Nat := (p.a.val.toNat + 2 ^ 64 * p.b.val.toNat) / 256 ^ k % 256

theorem moveNotNil_accepts {g : Tag} (h : g ∈ [Tag.int, .flt, .bool, .handle, .fmt, .seq]) :
    OpClass.moveNotNil.accepts g = true ∧ g ≠ .poison := by
  revert h
  cases g <;> decide

/-- With every index below 16 no byte of VSHUF is free. -/
theorem shufBytes_run {src : Nat} {is : List Nat} {s : State} (h : ∀ i ∈ is, i < 16) :
    shufBytes src is s = .ok (is.map (fun i => src / 256 ^ i % 256)) s := by
  induction is with
  | nil => rfl
  | cons i is ih =>
    obtain ⟨hi, his⟩ := List.forall_mem_cons.mp h
    simp only [shufBytes, if_pos hi, M.bind_run, ih his, M.pure_run, List.map_cons]

/-- Byte k of two packed words is code k of the list they were packed from. -/
theorem pairByte_packed {g1 g2 : Tag} {l : List Nat} (hl : l.length = 16) (hb : ∀ x ∈ l, x < 256) {k : Nat} (hk : k < 16) :
    pairByte ⟨⟨BitVec.ofNat 64 (packBits 8 (l.take 8)), g1⟩, ⟨BitVec.ofNat 64 (packBits 8 (l.drop 8)), g2⟩⟩ k = l[k] := by
  have happ (a b : List Nat) : packBits 8 (a ++ b) = packBits 8 a + 2 ^ (8 * a.length) * packBits 8 b := by
    induction a with
    | nil => simp [packBits]
    | cons c cs ih =>
      rw [List.cons_append, packBits, packBits, ih, List.length_cons, Nat.mul_succ, Nat.pow_add]
      ring
  have hlo : packBits 8 (l.take 8) < 2 ^ 64 := by simpa [hl] using packBits_lt 8 (l.take 8)
  have hhi : packBits 8 (l.drop 8) < 2 ^ 64 := by simpa [hl] using packBits_lt 8 (l.drop 8)
  have hall : packBits 8 (l.take 8) + 2 ^ 64 * packBits 8 (l.drop 8) = packBits 8 l := by
    simpa [hl] using (happ (l.take 8) (l.drop 8)).symm
  have h256 : (256 : Nat) ^ k = 2 ^ (8 * k) := by rw [Nat.pow_mul]
  have hcode := packBits_code 8 l k (by omega)
  simp only [pairByte, BitVec.toNat_ofNat, Nat.mod_eq_of_lt hlo, Nat.mod_eq_of_lt hhi, hall, h256]
  rw [show (256 : Nat) = 2 ^ 8 from rfl, hcode]
  exact Nat.mod_eq_of_lt (hb _ (List.getElem_mem _))

section Permutes
variable {t : Tid} {rd rs1 rs2 : RIdx} {s s1 : State}

theorem svVbcast_ok (h : Fetches t 4 false s s1) (hd : rd.val % 2 = 0)
    (h1 : ((s1.th t).g rs1).tag ∈ [Tag.int, .flt, .bool, .handle, .fmt, .seq]) :
    execSvVbcast t rd rs1 s = .next (done t 4 s1 ((s1.th t).writePair rd
      ⟨⟨((s1.th t).g rs1).val, .int⟩, ⟨((s1.th t).g rs1).val, .int⟩⟩)) := by
  obtain ⟨hacc, hp⟩ := moveNotNil_accepts h1
  refine simple_writePair h ?_
  simp only [M.bind_run, needEven_run (rs := [rd]) (by simp [hd]), greg_run, begun_th, g_withIter]
  rw [checkOps_fine (by simpa using opnd_fine hacc hp)]
  simp only [beq_eq_false_iff_ne.mpr hp, svResult_clear, Bool.false_eq_true, if_false, BitVec.ofNat_toNat, BitVec.setWidth_eq]

theorem svVshuf_ok (h : Fetches t 4 false s s1) (hd : rd.val % 2 = 0) (h1 : SvWords (s1.th t) rs1) (h2 : SvWords (s1.th t) rs2)
    (hi : ∀ k < 16, pairByte ((s1.th t).pair rs2) k < 16) :
    ∃ lo hi : Word, execSvVshuf t rd rs1 rs2 s = .next (done t 4 s1 ((s1.th t).writePair rd ⟨⟨lo, .int⟩, ⟨hi, .int⟩⟩)) ∧
      ∀ k < 16, pairByte ⟨⟨lo, .int⟩, ⟨hi, .int⟩⟩ k = pairByte ((s1.th t).pair rs1) (pairByte ((s1.th t).pair rs2) k) := by
  let p1 := (s1.th t).pair rs1
  let p2 := (s1.th t).pair rs2
  let idx := unpackBits 8 16 (p2.a.val.toNat + 2 ^ 64 * p2.b.val.toNat)
  let bs := idx.map (fun i => (p1.a.val.toNat + 2 ^ 64 * p1.b.val.toNat) / 256 ^ i % 256)
  have hlen : idx.length = 16 := unpackBits_length ..
  have hidx (k : Nat) (hk : k < idx.length) : idx[k] = pairByte p2 k := by
    rw [pairByte, show (256 : Nat) ^ k = 2 ^ (8 * k) from by rw [Nat.pow_mul]]
    exact unpackBits_code 8 16 _ k hk
  refine ⟨BitVec.ofNat 64 (packBits 8 (bs.take 8)), BitVec.ofNat 64 (packBits 8 (bs.drop 8)), simple_writePair h ?_, fun k hk => ?_⟩
  · have hmem : ∀ i ∈ idx, i < 16 := by
      intro i hm
      obtain ⟨k, hk, rfl⟩ := List.getElem_of_mem hm
      rw [hidx k hk]
      exact hi k (hlen ▸ hk)
    simp only [M.bind_run, needEven_run (rs := [rd, rs1, rs2]) (by simp [hd, h1.1, h2.1]), getT_run, begun_th, pair_withIter]
    rw [checkOps_fine (fun o ho => (List.mem_append.mp ho).elim (h1.fine 1 o) (h2.fine 2 o))]
    simp only [h1.notPoison, h2.notPoison, Bool.or_self, Bool.false_eq_true, if_false, M.bind_run]
    rw [shufBytes_run hmem]
    rfl
  · have hb : ∀ x ∈ bs, x < 256 := by
      intro x hx
      obtain ⟨i, -, rfl⟩ := List.mem_map.mp hx
      exact Nat.mod_lt _ (by decide)
    have hk' : k < idx.length := hlen ▸ hk
    rw [pairByte_packed (by simp [bs, hlen]) hb hk, List.getElem_map, hidx k hk']
    rfl

theorem svVext_ok (h : Fetches t 4 false s s1) (h1 : SvWords (s1.th t) rs1) (h2 : ((s1.th t).g rs2).tag = .int) :
    execSvVext t rd rs1 rs2 s = .next (done t 4 s1 ((s1.th t).write rd
      ⟨if ((s1.th t).g rs2).val.getLsbD 0 then ((s1.th t).pair rs1).b.val else ((s1.th t).pair rs1).a.val, .int⟩)) := by
  have hindex : (opnd 2 .index ((s1.th t).g rs2)).Fine := opnd_fine (by rw [h2]; rfl) (by rw [h2]; nofun)
  have hbit : ((s1.th t).g rs2).val.getLsbD 0 = decide (((s1.th t).g rs2).val.toNat % 2 = 1) := by
    rw [BitVec.getLsbD, Nat.testBit_zero]
  refine simple_write h ?_
  simp only [M.bind_run, needEven_run (rs := [rs1]) (by simp [h1.1]), getT_run, begun_th, pair_withIter, g_withIter]
  rw [checkOps_fine (fun o ho => (List.mem_append.mp ho).elim (h1.fine 1 o) (fun ho => by simpa [List.mem_singleton.mp ho] using hindex))]
  rcases Nat.mod_two_eq_zero_or_one ((s1.th t).g rs2).val.toNat with hm | hm <;>
    simp only [h1.notPoison, hbit, hm, orPoison, Reg.int, Bool.false_eq_true, if_false, if_true, decide_true, decide_false, zero_ne_one, one_ne_zero]

/-- VINS: the word of rd that is kept must carry a tag of the class. -/
theorem svVins_ok {lane : Fin 2} {other : Reg} (h : Fetches t 4 false s s1) (hd : rd.val % 2 = 0)
    (h2 : ((s1.th t).g rs2).tag ∈ [Tag.int, .flt, .bool, .handle, .fmt, .seq])
    (ho : other = if lane.val = 0 then ((s1.th t).pair rd).b else ((s1.th t).pair rd).a) (hg : other.tag ∈ [Tag.int, .flt]) :
    execSvVins t rd rs2 lane s = .next (done t 4 s1 ((s1.th t).writePair rd
      ⟨⟨if lane.val = 0 then ((s1.th t).g rs2).val else ((s1.th t).pair rd).a.val, .int⟩,
       ⟨if lane.val = 0 then ((s1.th t).pair rd).b.val else ((s1.th t).g rs2).val, .int⟩⟩)) := by
  obtain ⟨hacc, hp⟩ := moveNotNil_accepts h2
  obtain ⟨hsv, hq⟩ := sv_accepts hg
  refine simple_writePair h ?_
  simp only [M.bind_run, needEven_run (rs := [rd]) (by simp [hd]), getT_run, begun_th, pair_withIter, g_withIter, ← ho]
  rw [checkOps_fine (by simpa using And.intro (opnd_fine hsv hq) (opnd_fine hacc hp))]
  simp only [beq_eq_false_iff_ne.mpr hp, beq_eq_false_iff_ne.mpr hq, svResult_clear, Bool.or_self, Bool.false_eq_true, if_false,
    BitVec.ofNat_toNat, BitVec.setWidth_eq]

end Permutes

/-- Settles O20: VSHUF rests on the bytes of packed words (`pairByte_packed`), the others move whole words. -/
theorem shortVectorPermutes : Obligations.ShortVectorPermutes := by
  intro t rd rs1 rs2 s s1 h th words scalar put
  exact ⟨fun hd h1 => svVbcast_ok h hd h1, fun hd h1 h2 hi => svVshuf_ok h hd h1 h2 hi, fun h1 h2 => svVext_ok h h1 h2,
    fun hd h2 hb => svVins_ok (lane := 0) h hd h2 rfl hb, fun hd h2 ha => svVins_ok (lane := 1) h hd h2 rfl ha⟩

end Sys2Proof.Machine
end

/-!
PROOFS, 5. What the memory operations leave alone: the slices and the overlay touch no thread, no core and no channel; the L1 touches
its own core; a translation that succeeds changes no thread (R250, R276, R289).
-/

section
namespace Sys2Proof.Machine

/-! ### The slices: no thread, core or channel changes, and no L1 is disabled or enabled -/

/-- Threads, cores, channels and the disabled L1s are the same in two states. -/
structure SliceKeep (s s' : State) : Prop where
  threads : s'.threads = s.threads
  cores : s'.cores = s.cores
  chans : s'.chans = s.chans
  off : s'.dev 0xF030 4 = s.dev 0xF030 4

namespace SliceKeep

theorem refl (s : State) : SliceKeep s s := ⟨rfl, rfl, rfl, rfl⟩

theorem trans {a b c : State} (h1 : SliceKeep a b) (h2 : SliceKeep b c) : SliceKeep a c :=
  ⟨h2.threads.trans h1.threads, h2.cores.trans h1.cores, h2.chans.trans h1.chans, h2.off.trans h1.off⟩

/-- The last step first: its own lemma names the state before it. -/
theorem after {a b c : State} (h2 : SliceKeep b c) (h1 : SliceKeep a b) : SliceKeep a c := h1.trans h2

/-- Whatever else differs, the four stay. -/
theorem congr {a b c : State} (h : SliceKeep a b) (ht : c.threads = b.threads) (hc : c.cores = b.cores) (hh : c.chans = b.chans)
    (hs : c.stops = b.stops) : SliceKeep a c :=
  ⟨ht.trans h.threads, hc.trans h.cores, hh.trans h.chans, (State.dev_congr hs _ _).trans h.off⟩

theorem ite {p : Prop} [Decidable p] {s a b : State} (ha : SliceKeep s a) (hb : SliceKeep s b) : SliceKeep s (if p then a else b) := by
  split <;> assumption

theorem foldl {α : Type} {f : State → α → State} (h : ∀ s a, SliceKeep s (f s a)) (l : List α) (s : State) : SliceKeep s (l.foldl f s) := by
  induction l generalizing s with
  | nil => exact refl s
  | cons a l ih => exact (h s a).trans (ih _)

theorem l1Off {s s' : State} (h : SliceKeep s s') (c : CoreId) : Machine.l1Off s' c = Machine.l1Off s c := by
  unfold Machine.l1Off
  rw [h.off]

end SliceKeep

theorem count_sliceKeep (s : State) (a k n : Nat) (hk : k < 256) : SliceKeep s (s.count a k n) :=
  ⟨by simp, by simp, by simp, State.dev_count_ne s a k n _ _ (by decide) (devKey_ne _ _ _ _ (by decide) hk (.inl (by decide)))⟩

theorem setTen_sliceKeep (s : State) (n i j v : Nat) : SliceKeep s (s.setTen n i j v) :=
  ⟨by simp, by simp, by simp, State.dev_setTen s _ _ _ _ _ _ (devKey_ne_tenKey _ _ _ _ _ (by decide))⟩

theorem hbmWrite_sliceKeep (s : State) (ln mask data tags poison : Nat) : SliceKeep s (hbmWrite s ln mask data tags poison) := by
  unfold hbmWrite
  split
  · exact .refl s
  · exact (SliceKeep.refl s).congr rfl rfl rfl rfl

theorem hbmStore_sliceKeep (s : State) (space ln mask data tags poison : Nat) : SliceKeep s (hbmStore s space ln mask data tags poison) :=
  (hbmWrite_sliceKeep s ln mask data tags poison).trans (count_sliceKeep _ _ _ _ (by decide))

theorem pushVictim_sliceKeep (s : State) (ln : Nat) (l : CLine) : SliceKeep s (pushVictim s ln l) := by
  unfold pushVictim
  simp only
  split
  · exact (SliceKeep.refl s).congr rfl rfl rfl rfl
  split
  · exact (SliceKeep.refl s).congr rfl rfl rfl rfl
  next o _ =>
    have hs := hbmStore_sliceKeep s o.2.space o.1 o.2.dirty o.2.data o.2.tags o.2.poison
    generalize hbmStore s o.2.space o.1 o.2.dirty o.2.data o.2.tags o.2.poison = u at hs ⊢
    exact hs.congr rfl rfl rfl rfl

theorem flushVictim_sliceKeep (s : State) (ln : Nat) : SliceKeep s (flushVictim s ln) := by
  unfold flushVictim
  simp only
  split
  · exact .refl s
  · have hf := SliceKeep.foldl (fun st (v : Nat × CLine) => hbmStore_sliceKeep st v.2.space ln v.2.dirty v.2.data v.2.tags v.2.poison)
      (s.victims.filter (fun v => v.1 == ln)) s
    exact hf.congr rfl rfl rfl rfl

theorem makeRoom_sliceKeep (s : State) (ln : Nat) : SliceKeep s (makeRoom s ln).1 := by
  unfold makeRoom
  split
  · exact .refl s
  split
  · exact .refl s
  simp only
  split
  · exact .refl s
  split
  · exact .refl s
  split
  · exact (SliceKeep.refl s).congr rfl rfl rfl rfl
  · exact (pushVictim_sliceKeep ..).after ((SliceKeep.refl s).congr rfl rfl rfl rfl)

theorem touchLine_sliceKeep (s : State) (ln : Nat) (ac : Acc) : SliceKeep s (touchLine s ln ac) := by
  unfold touchLine
  split
  · exact .refl s
  split
  · exact .refl s
  simp only
  split
  · exact (count_sliceKeep _ _ _ _ (by decide)).after ((SliceKeep.refl s).congr rfl rfl rfl rfl)
  · exact (SliceKeep.refl s).congr rfl rfl rfl rfl

theorem reinstall_sliceKeep (s : State) (ln : Nat) (ac : Acc) : SliceKeep s (reinstall s ln ac) := by
  unfold reinstall
  split
  · exact .refl s
  split
  · exact .refl s
  simp only
  split
  · exact (makeRoom_sliceKeep s ln).congr rfl rfl rfl rfl
  · exact makeRoom_sliceKeep s ln

theorem sliceWrite_sliceKeep (s : State) (ln mask data tags poison : Nat) (ac : Acc) : SliceKeep s (sliceWrite s ln mask data tags poison ac) := by
  have hre := reinstall_sliceKeep s ln ac
  have hroom := hre.trans (makeRoom_sliceKeep (reinstall s ln ac) ln)
  unfold sliceWrite
  split
  · exact .refl s
  simp only
  split
  · exact hbmStore_sliceKeep ..
  split
  · exact (touchLine_sliceKeep ..).after (hre.congr rfl rfl rfl rfl)
  split
  · split
    · exact (count_sliceKeep _ _ _ _ (by decide)).after (hroom.congr rfl rfl rfl rfl)
    · exact hroom.congr rfl rfl rfl rfl
  · exact (hbmStore_sliceKeep ..).after ((flushVictim_sliceKeep ..).after hroom)

theorem repairSlice_sliceKeep (s : State) (flaggedOnly : Bool) (hit : Nat → Bool) : SliceKeep s (repairSlice s flaggedOnly hit) := by
  unfold repairSlice
  split
  · exact .refl s
  refine (SliceKeep.foldl (fun st e => count_sliceKeep st _ 0x26 1 (by decide)) _ _).after ?_
  split
  · exact (SliceKeep.refl s).congr rfl rfl rfl rfl
  · exact (count_sliceKeep _ _ _ _ (by decide)).after ((SliceKeep.refl s).congr rfl rfl rfl rfl)

theorem repairHbm_sliceKeep (s : State) (flaggedOnly : Bool) (hit : Nat → Bool) : SliceKeep s (repairHbm s flaggedOnly hit).1 := by
  unfold repairHbm
  split
  · exact .refl s
  refine (SliceKeep.foldl (fun st w => count_sliceKeep st _ 0x26 1 (by decide)) _ _).after ?_
  refine (SliceKeep.foldl (fun st p => count_sliceKeep st _ 0x25 1 (by decide)) _ _).after ?_
  exact (SliceKeep.refl s).congr rfl rfl rfl rfl

theorem sliceRead_sliceKeep (s : State) (ln sectors : Nat) (ac : Acc) : SliceKeep s (sliceRead s ln sectors ac) := by
  have hrep := repairSlice_sliceKeep s true (fun a => a / 128 == ln && bit sectors (a % 128 / 32))
  have hread := hrep.trans (repairHbm_sliceKeep _ true (fun a => a / 128 == ln && bit sectors (a % 128 / 32)))
  unfold sliceRead
  simp only
  split
  · exact (touchLine_sliceKeep ..).after ((reinstall_sliceKeep ..).after hrep)
  refine .ite ?_ ?_
  · exact (count_sliceKeep _ _ 0x12 _ (by decide)).after hread
  · refine (touchLine_sliceKeep ..).after ?_
    exact (hread.trans (count_sliceKeep _ ac.space 0x12 _ (by decide))).congr rfl rfl rfl rfl

theorem syncEpochs_sliceKeep (s : State) (n : Nat) : SliceKeep s (syncEpochs s n) :=
  (setTen_sliceKeep s n 0xC010 5 _).trans (setTen_sliceKeep _ _ _ _ _)

theorem chargeOverlay_sliceKeep (s : State) (ep ln : Nat) (ac : Acc) : SliceKeep s (chargeOverlay s ep ln ac) := by
  have hroom := makeRoom_sliceKeep s ln
  unfold chargeOverlay
  split
  · exact .refl s
  simp only
  split
  · exact hroom.congr rfl rfl rfl rfl
  · exact (syncEpochs_sliceKeep ..).after (hroom.congr rfl rfl rfl rfl)

theorem overlayWrite_sliceKeep (s : State) (ep ln mask data tags poison : Nat) (ac : Acc) :
    SliceKeep s (overlayWrite s ep ln mask data tags poison ac) :=
  (chargeOverlay_sliceKeep s ep ln ac).congr rfl rfl rfl rfl

theorem writeBack_sliceKeep (s : State) (ln : Nat) (l : CLine) : SliceKeep s (writeBack s ln l) := by
  unfold writeBack
  split
  · exact .refl s
  split
  · exact overlayWrite_sliceKeep ..
  · exact sliceWrite_sliceKeep ..

/-! ### The L1: no thread changes -/

/-- What both branches keep, the choice keeps. -/
theorem ite_keep {α β : Type} {p : Prop} [Decidable p] {f : α → β} {a b : α} {x : β} (ha : f a = x) (hb : f b = x) :
    f (if p then a else b) = x := by
  split <;> assumption

theorem setL1_threads (s : State) (c : CoreId) (t : Tab CLine) : (setL1 s c t).threads = s.threads := rfl

theorem l1Room_threads (s : State) (c : CoreId) (ln : Nat) : (l1Room s c ln).threads = s.threads := by
  unfold l1Room
  simp only
  split
  · rfl
  split
  · rfl
  · exact (writeBack_sliceKeep ..).threads

theorem l1Match_threads (s : State) (c : CoreId) (ep : Option Nat) (ln : Nat) : (l1Match s c ep ln).threads = s.threads := by
  unfold l1Match
  split
  · rfl
  split
  · rfl
  · exact (writeBack_sliceKeep ..).threads

theorem l1Read_threads (s : State) (c : CoreId) (ep : Option Nat) (ln sectors n : Nat) (ac : Acc) :
    (l1Read s c ep ln sectors n ac).1.threads = s.threads := by
  have hm := l1Match_threads s c ep ln
  have hr := fun want => (sliceRead_sliceKeep (l1Match s c ep ln) ln want ac).threads
  unfold l1Read
  simp only
  refine ite_keep (f := fun r : State × Full => r.1.threads) ?_ (ite_keep (f := fun r : State × Full => r.1.threads) ?_ ?_)
  · simp [(sliceRead_sliceKeep s ln sectors ac).threads]
  · split <;> simp [hm]
  · simp only [setL1_threads]
    refine ite_keep (f := State.threads) ?_ ?_ <;> simp [hr, hm, l1Room_threads]

theorem l1Write_threads (s : State) (c : CoreId) (ep : Option Nat) (ln mask data tags poison : Nat) (ac : Acc) :
    (l1Write s c ep ln mask data tags poison ac).threads = s.threads := by
  unfold l1Write
  cases ep with
  | none =>
    simp only
    split
    · exact (sliceWrite_sliceKeep ..).threads
    · simp only [setL1_threads]
      split <;> simp [l1Room_threads, l1Match_threads]
  | some e =>
    simp only
    split
    · exact ((chargeOverlay_sliceKeep ..).trans (overlayWrite_sliceKeep ..)).threads
    · simp only [setL1_threads]
      split <;> simp [l1Room_threads, l1Match_threads, (chargeOverlay_sliceKeep s e ln ac).threads]

theorem l1Flush_threads (s : State) (c : CoreId) (ln : Nat) : (l1Flush s c ln).threads = s.threads := by
  unfold l1Flush
  split
  · rfl
  split
  · rfl
  · exact (writeBack_sliceKeep ..).threads

/-! ### Walks and translations -/

theorem readWord_sliceKeep (s : State) (space pa : Nat) : SliceKeep s (readWord s space pa).1 := sliceRead_sliceKeep ..

theorem writeWord_sliceKeep (s : State) (space pa v : Nat) : SliceKeep s (writeWord s space pa v) := sliceWrite_sliceKeep ..

theorem ptMachineCheck_threads (s : State) (epa : Nat) : (ptMachineCheck s epa).threads = s.threads := by
  simp only [ptMachineCheck, State.log_threads]

theorem walkFrom_threads (s : State) (n : Fin 17) (va f level node : Nat) : (walkFrom s n va f level node).1.threads = s.threads := by
  induction f generalizing s level node with
  | zero => rfl
  | succ f ih =>
    have hr (pa : Nat) : (readWord s n.val pa).1.threads = s.threads := (readWord_sliceKeep ..).threads
    unfold walkFrom
    simp only
    split
    · rfl
    split
    · rw [ptMachineCheck_threads, hr]
    split
    · exact hr _
    · split
      · exact hr _
      · rw [ih, hr]
    · split
      · exact hr _
      · exact hr _
    · split
      · exact hr _
      · exact hr _
    · split
      · exact hr _
      · exact hr _
    · exact hr _

theorem walk_threads (s : State) (n : Fin 17) (va : Nat) : (walk s n va).1.threads = s.threads := by
  unfold walk
  split
  · rfl
  · exact walkFrom_threads ..

theorem setAccDirty_threads (s : State) (n : Fin 17) (epa e : Nat) (write : Bool) : (setAccDirty s n epa e write).threads = s.threads := by
  unfold setAccDirty
  exact ite_keep rfl (writeWord_sliceKeep ..).threads

/-- A translation for a thread that gives an address changes no thread: what a fill or a fetch starts makes the thread wait. -/
theorem translate_threads {s : State} {n : Fin 17} {va pa : Nat} {k : AccKind} {t : Tid} {alt : Bool}
    (h : (translate s n va k (.thread t) alt).2 = .ok pa) : (translate s n va k (.thread t) alt).1.threads = s.threads := by
  have hw := walk_threads s n va
  revert h
  unfold translate
  simp only
  split
  · nofun
  · nofun
  split
  · split
    · nofun
    · nofun
    · nofun
    split
    · split
      · exact fun _ => by rw [setAccDirty_threads, hw]
      · nofun
    · split
      · nofun
      · split <;> nofun
  split
  · nofun
  split
  · split
    · nofun
    · split <;> nofun
  split
  · nofun
  · exact fun _ => by rw [setAccDirty_threads, hw]

/-! ### The accesses of a thread -/

theorem M.bind_ok {α β : Type} {m : M α} {f : α → M β} {b : β} {s s' : State} (h : (m >>= f) s = .ok b s') :
    ∃ a s1, m s = .ok a s1 ∧ f a s1 = .ok b s' := by
  rw [M.bind_run] at h
  split at h
  · exact ⟨_, _, ‹_›, h⟩
  · nomatch h

theorem xlate_threads {t : Tid} {n : Fin 17} {va : Nat} {k : AccKind} {pa : Nat} {s s' : State} (h : xlate t n va k s = .ok pa s') :
    s'.threads = s.threads := by
  unfold xlate at h
  simp only at h
  split at h
  · rename_i he
    obtain ⟨-, rfl⟩ := EStateM.Result.ok.inj h
    exact translate_threads he
  all_goals nomatch h

theorem xlateAll_threads {t : Tid} {n : Fin 17} {k : AccKind} {l : List (Nat × Nat)} {ps : List (Nat × Nat × Nat)} {s s' : State}
    (h : xlateAll t n k l s = .ok ps s') : s'.threads = s.threads := by
  induction l generalizing ps s with
  | nil =>
    obtain ⟨-, rfl⟩ := EStateM.Result.ok.inj h
    rfl
  | cons p l ih =>
    obtain ⟨pa, s1, h1, h⟩ := M.bind_ok h
    obtain ⟨r, s2, h2, h⟩ := M.bind_ok h
    obtain ⟨-, rfl⟩ := EStateM.Result.ok.inj h
    exact (ih h2).trans (xlate_threads h1)

theorem readPieces_threads {t : Tid} {n : Fin 17} {ps : List (Nat × Nat × Nat)} {bs : List PByte} {s s' : State}
    (h : readPieces t n ps s = .ok bs s') : s'.threads = s.threads := by
  induction ps generalizing bs s with
  | nil =>
    obtain ⟨-, rfl⟩ := EStateM.Result.ok.inj h
    rfl
  | cons p ps ih =>
    unfold readPieces at h
    simp only at h
    split at h
    · rename_i h1
      obtain ⟨-, rfl⟩ := EStateM.Result.ok.inj h
      rw [ih h1, l1Read_threads]
    · nomatch h

theorem loadBytes_threads {t : Tid} {n : Fin 17} {va len : Nat} {bs : List PByte} {s s' : State}
    (h : loadBytes t n va len s = .ok bs s') : s'.threads = s.threads := by
  obtain ⟨ps, s1, h1, h2⟩ := M.bind_ok h
  exact (readPieces_threads h2).trans (xlateAll_threads h1)

theorem readGranule_threads {t : Tid} {n : Fin 17} {va pa : Nat} {g : Word × Bool × Word × Bool × Bool} {s s' : State}
    (h : readGranule t n va pa s = .ok g s') : s'.threads = s.threads := by
  obtain ⟨-, rfl⟩ := EStateM.Result.ok.inj h
  exact l1Read_threads ..

theorem loadGranule_threads {t : Tid} {n : Fin 17} {va : Nat} {g : Word × Bool × Word × Bool × Bool} {s s' : State}
    (h : loadGranule t n va s = .ok g s') : s'.threads = s.threads := by
  obtain ⟨pa, s1, h1, h2⟩ := M.bind_ok h
  exact (readGranule_threads h2).trans (xlate_threads h1)

theorem prefetchSector_threads (s : State) (t : Tid) (ep : Option Nat) (n : Fin 17) (a pa : Nat) :
    (prefetchSector s t ep n a pa).threads = s.threads := by
  unfold prefetchSector
  exact ite_keep rfl (l1Read_threads ..)

theorem prefetchRun_threads (t : Tid) (ep : Option Nat) (c : Cap) (st : Int) (f a page : Nat) (s : State) :
    (prefetchRun t ep c st f a page s).threads = s.threads := by
  induction f generalizing a page s with
  | zero => rfl
  | succ f ih =>
    unfold prefetchRun
    simp only
    split
    · rfl
    split
    · rfl
    next p _ =>
      have hgo : (if p.1 = page then (true, s) else if !p.2.1 then (false, s) else
          (bit (drawFree s).1.toNat 0, (drawFree s).2)).2.threads = s.threads :=
        ite_keep (f := fun r : Bool × State => r.2.threads) rfl (ite_keep (f := fun r : Bool × State => r.2.threads) rfl rfl)
      exact ite_keep (by rw [ih, prefetchSector_threads, hgo]) hgo

theorem prefetchAfter_threads (s : State) (t : Tid) (ep : Option Nat) (c : Cap) (va : Nat) :
    (prefetchAfter s t ep c va).threads = s.threads := by
  unfold prefetchAfter
  simp only
  split
  · rfl
  split
  · rfl
  · exact prefetchRun_threads ..

/-- A meaning that ends with a change of the state made only when a condition holds. -/
theorem modS_when_ok {α : Type} {p : Prop} [Decidable p] {f : State → State} {a b : α} {s s' : State}
    (h : (if p then (modS f >>= fun _ => pure a) else pure a : M α) s = .ok b s') : b = a ∧ s' = if p then f s else s := by
  split at h <;> cases h <;> simp [*]

/-- A demand read is a read, after which the stride detectors of the thread may run (R299). -/
theorem demandBytes_loadBytes {t : Tid} {c : Cap} {va len : Nat} {bs : List PByte} {s s' : State}
    (h : demandBytes t c va len s = .ok bs s') :
    ∃ v, loadBytes t c.space va len s = .ok bs v ∧ (s' = v ∨ s' = prefetchAfter v t (v.th t).ep c va) := by
  obtain ⟨ps, s1, h1, h⟩ := M.bind_ok h
  obtain ⟨x, _, hg, h⟩ := M.bind_ok h
  obtain ⟨rfl, rfl⟩ := EStateM.Result.ok.inj hg
  obtain ⟨bs', s2, h2, h⟩ := M.bind_ok h
  obtain ⟨rfl, rfl⟩ := modS_when_ok h
  refine ⟨s2, ?_, ?_⟩
  · rw [loadBytes, M.bind_run, h1]
    exact h2
  · split
    · exact .inr rfl
    · exact .inl rfl

theorem demandGranule_threads {t : Tid} {c : Cap} {va : Nat} {g : Word × Bool × Word × Bool × Bool} {s s' : State}
    (h : demandGranule t c va s = .ok g s') : s'.threads = s.threads := by
  obtain ⟨pa, s1, h1, h⟩ := M.bind_ok h
  obtain ⟨x, _, hg, h⟩ := M.bind_ok h
  obtain ⟨rfl, rfl⟩ := EStateM.Result.ok.inj hg
  obtain ⟨g', s2, h2, h⟩ := M.bind_ok h
  obtain ⟨rfl, rfl⟩ := modS_when_ok h
  rw [← xlate_threads h1, ← readGranule_threads h2]
  split
  · exact prefetchAfter_threads ..
  · rfl

theorem demandBytes_threads {t : Tid} {c : Cap} {va len : Nat} {bs : List PByte} {s s' : State}
    (h : demandBytes t c va len s = .ok bs s') : s'.threads = s.threads := by
  obtain ⟨v, hv, rfl | rfl⟩ := demandBytes_loadBytes h
  · exact loadBytes_threads hv
  · rw [prefetchAfter_threads, loadBytes_threads hv]

theorem writePieces_threads (t : Tid) (n : Fin 17) (tag : Bool) (ps : List (Nat × Nat × Nat)) (bs : List PByte) (s : State) :
    (writePieces t n tag ps bs s).threads = s.threads := by
  induction ps generalizing bs s with
  | nil => rfl
  | cons p ps ih =>
    unfold writePieces
    rw [ih, l1Write_threads]

/-- The threads are the same, so each thread is. -/
theorem th_of_threads {s s' : State} (h : s'.threads = s.threads) (t : Tid) : s'.th t = s.th t := by
  unfold State.th
  rw [h]

end Sys2Proof.Machine
end

/-!
PROOFS, 6. Loads, stores, SCAN, the AMO instructions and the data stack (R45 to R49, R54, R299).
-/

section
namespace Sys2Proof.Machine

/-! ### Instructions that reach memory and then write their thread -/

/-- A meaning that changes memory and then its own thread ends as `done` names it, the threads being unchanged before. -/
theorem simpleX_mod {t : Tid} {ext : Bool} {body : M Unit} {f : Thread → Thread} {s s1 s2 : State} (h : Fetches t (lenOf ext) ext s s1)
    (hb : body (begun t s1) = modT t f s2) (ht : s2.threads = (begun t s1).threads) (hf : ∀ th, (f th).pc = th.pc) :
    simpleX t ext body s = .next (done t (lenOf ext) s2 (f ((begun t s1).th t))) := by
  rw [← th_of_threads ht t]
  exact simpleX_done h hb (hf _)

/-- The same without a change of the thread. -/
theorem simpleX_same {t : Tid} {ext : Bool} {body : M Unit} {s s1 s2 : State} (h : Fetches t (lenOf ext) ext s s1)
    (hb : body (begun t s1) = .ok () s2) (ht : s2.threads = (begun t s1).threads) :
    simpleX t ext body s = .next (done t (lenOf ext) s2 ((begun t s1).th t)) := by
  rw [← th_of_threads ht t]
  exact simpleX_ok h hb

/-! ### The checks of R45 -/

/-- The operands of an unsealed capability pass (R31, classes 0x6 and 0x7). -/
theorem capPair_fine {p : Pair} (h : p.isUnsealed = true) (k j n m : Nat) :
    (⟨k, .cap, p.a, false, none, n⟩ : Opnd).Fine ∧ (⟨j, .cap, p.b, true, none, m⟩ : Opnd).Fine := by
  obtain ⟨ha, hb⟩ : p.a.tag = .capA ∧ p.b.tag = .capB := by simpa [Pair.isUnsealed] using h
  simp [Opnd.Fine, Opnd.bad, Opnd.traps, ha, hb, OpClass.accepts]

/-- An index operand that holds an INT passes. -/
theorem index_fine {r : Reg} (h : r.tag = .int) (k : Nat) : (⟨k, .index, r, false, none, 0⟩ : Opnd).Fine := by
  simp [Opnd.Fine, Opnd.bad, Opnd.traps, h, OpClass.accepts]

theorem csOps_fine {p : Pair} (h : p.isUnsealed = true) : ∀ o ∈ csOps p, o.Fine := by
  obtain ⟨ha, hb⟩ := capPair_fine h 4 5 (pairSub .cap p) (pairSub .cap p)
  simpa [csOps] using ⟨ha, hb⟩

theorem mOps_fine {th : Thread} {cs : PIdx} {m : MForm} (h : AddrOk th cs m) : ∀ o ∈ mOps th cs m, o.Fine := by
  obtain ⟨hc, hx⟩ := h
  intro o ho
  obtain ho | ho := List.mem_append.mp ho
  · exact csOps_fine hc o ho
  · cases m with
    | short rx imm =>
      rw [List.mem_singleton.mp ho]
      exact index_fine hx 6
    | ext imm => nomatch ho

theorem aOps_fine {th : Thread} {cs : PIdx} {a : AForm} (h : AddrOkA th cs a) : ∀ o ∈ aOps th cs a, o.Fine := by
  obtain ⟨hc, hx⟩ := h
  intro o ho
  obtain ho | ho := List.mem_append.mp ho
  · exact csOps_fine hc o ho
  · cases a with
    | short rx rs =>
      rw [List.mem_singleton.mp ho]
      exact index_fine hx 6
    | ext imm => nomatch ho

theorem stackOps_fine {th : Thread} (h : StackOk th) : ∀ o ∈ stackOps th, o.Fine := by
  obtain ⟨hc, hx⟩ := h
  obtain ⟨ha, hb⟩ := capPair_fine hc 0xB 0xC (pairSub .cap (th.cap 15)) (pairSub .cap (th.cap 15))
  simpa [stackOps] using ⟨ha, hb, index_fine hx 0xD⟩

theorem capUse_run {t : Tid} {c : Cap} {a : Nat} {s : State} (h : capRefused (s.th t).level.val (s.th t).tenancy.val c = none) :
    capUse t c a s = .ok () s := by
  simp only [capUse, M.bind_run, getT_run, h, M.pure_run]

/-- An allowed access passes checks 2 to 4 of R45. -/
theorem dataChecks_run {t : Tid} {c : Cap} {mask a len align : Nat} {s : State} (h : Allowed (s.th t) c mask a len align) :
    dataChecks t c mask a len align s = .ok () s := by
  obtain ⟨href, hret, hperm, hlo, hhi, halign⟩ := h
  have hret' : c.has permRET = false := hret
  simp [dataChecks, capPerms, capUse_run href, hret', hperm, Nat.not_lt.mpr hlo, Nat.not_lt.mpr hhi, halign]

/-! ### Bytes of a value -/

theorem mkBytes_eq (n v : Nat) (p : Bool) : mkBytes n v p = (List.range n).map (fun i => (v / 256 ^ i % 256, p)) := by
  induction n generalizing v with
  | zero => rfl
  | succ n ih =>
    rw [mkBytes, ih, List.range_succ_eq_map, List.map_cons, List.map_map, pow_zero, Nat.div_one]
    congr 1
    refine List.map_congr_left fun i _ => ?_
    simp [Nat.pow_succ', Nat.div_div_eq_div_mul]

/-- The bytes that a store takes from a register, with its mark. -/
theorem mkBytes_reg (n : Nat) (r : Reg) :
    mkBytes n r.val.toNat (r.tag == .poison) = (List.range n).map (fun i => (r.val.toNat / 256 ^ i % 256, decide (r.tag = .poison))) := by
  rw [mkBytes_eq, Bool.beq_eq_decide_eq]

theorem regS_eq (n v : Nat) : regS n v = .int ((BitVec.ofNat n v).signExtend 64) := by
  have : sext n v = (BitVec.ofNat n v).toInt := by
    rw [← sext_toNat, BitVec.toNat_ofNat]
    simp [sext]
  rw [regS, this]
  rfl

/-! ### Loads -/

section Loads
variable {t : Tid} {rd : RIdx} {cs : PIdx} {m : MForm} {s s1 s2 u : State}

/-- Where the address registers carry their tags, they do at the start of the meaning. -/
theorem AddrOk.begun (h : AddrOk (s1.th t) cs m) : AddrOk ((begun t s1).th t) cs m := by
  obtain ⟨hc, hx⟩ := h
  refine ⟨by simpa using hc, ?_⟩
  cases m with
  | short rx imm => simpa using hx
  | ext imm => trivial

theorem AddrOkA.begun {a : AForm} (h : AddrOkA (s1.th t) cs a) : AddrOkA ((begun t s1).th t) cs a := by
  obtain ⟨hc, hx⟩ := h
  refine ⟨by simpa using hc, ?_⟩
  cases a with
  | short rx rs => simpa using hx
  | ext imm => trivial

theorem StackOk.begun (h : StackOk (s1.th t)) : StackOk ((begun t s1).th t) := by
  obtain ⟨hc, hx⟩ := h
  exact ⟨by simpa using hc, by simpa using hx⟩

theorem Allowed.begun {c : Cap} {mask a len align : Nat} (h : Allowed (s1.th t) c mask a len align) :
    Allowed ((begun t s1).th t) c mask a len align := by
  rw [begun_th]
  exact h

@[simp] theorem mAddr_withIter (th : Thread) (n : BitVec 32) (size : Nat) (off : Int) :
    mAddr { th with iter := n } cs m size off = mAddr th cs m size off := by
  simp only [mAddr, cap_withIter, g_withIter]

@[simp] theorem aAddr_withIter (th : Thread) (n : BitVec 32) (a : AForm) (off : Int) :
    aAddr { th with iter := n } cs a off = aAddr th cs a off := by
  simp only [aAddr, cap_withIter, g_withIter]

theorem loadScalar_run {c : Cap} {a n : Nat} {f : Nat → Reg} {bs : List PByte} (ha : Allowed (u.th t) c 0x0001 a n n)
    (hd : demandBytes t c a n u = .ok bs s2) :
    loadScalar t rd c a n f u = wr t rd (if bs.any (fun b => b.2) then .poison else f (bytesVal bs)) s2 := by
  have ha' : Allowed (u.th t) c permLD a n n := ha
  simp only [loadScalar, M.bind_run, dataChecks_run ha', hd]
  rfl

theorem loadOp_ok {n : Nat} {f : Nat → Reg} {r : Reg} {bs : List PByte} (h : Fetches t (lenOf m.isExt) m.isExt s s1)
    (hok : AddrOk (s1.th t) cs m)
    (ha : Allowed (s1.th t) ((s1.th t).cap cs).toCap 0x0001 (mAddr (s1.th t) cs m n 0) n n)
    (hd : demandBytes t ((s1.th t).cap cs).toCap (mAddr (s1.th t) cs m n 0) n (begun t s1) = .ok bs s2) (hr : f (bytesVal bs) = r) :
    simpleX t m.isExt (loadOp t rd cs m n f) s = .next (done t (lenOf m.isExt) s2
      (((begun t s1).th t).write rd (if bs.any (fun b => b.2) then ⟨0, .poison⟩ else r))) := by
  refine simpleX_mod (f := fun th => th.write rd (if bs.any (fun b => b.2) then ⟨0, .poison⟩ else r)) h ?_ (demandBytes_threads hd)
    (fun _ => rfl)
  simp only [loadOp, M.bind_run, getT_run, checkOps_fine (mOps_fine hok.begun)]
  rw [begun_th, cap_withIter, mAddr_withIter, loadScalar_run ha.begun hd, hr]
  rfl

/-- The two words of a short-vector load. -/
theorem svLd_ok {bs : List PByte} (h : Fetches t (lenOf m.isExt) m.isExt s s1) (hok : AddrOk (s1.th t) cs m) (hev : rd.val % 2 = 0)
    (ha : Allowed (s1.th t) ((s1.th t).cap cs).toCap 0x0001 (mAddr (s1.th t) cs m 16 0) 16 16)
    (hd : demandBytes t ((s1.th t).cap cs).toCap (mAddr (s1.th t) cs m 16 0) 16 (begun t s1) = .ok bs s2) :
    execSvLd t rd cs m s = .next (done t (lenOf m.isExt) s2 (((begun t s1).th t).writePair rd
      (let half (k : Nat) : Reg := let h := slice bs (8 * k) 8
        if h.any (fun b => b.2) then ⟨0, .poison⟩ else ⟨BitVec.ofNat 64 (bytesVal h), .int⟩
       ⟨half 0, half 1⟩))) := by
  refine simpleX_mod (f := fun th => th.writePair rd _) h ?_ (demandBytes_threads hd) (fun _ => rfl)
  have ha' : Allowed ((begun t s1).th t) ((s1.th t).cap cs).toCap permLD (mAddr (s1.th t) cs m 16 0) 16 16 := ha.begun
  simp only [M.bind_run, needEven_run (rs := [rd]) (by simpa using hev), getT_run, checkOps_fine (mOps_fine hok.begun)]
  rw [begun_th, cap_withIter, mAddr_withIter]
  simp only [dataChecks_run ha', hd]
  rfl

/-- The pair that a granule gives (R46, R47). -/
theorem granulePair_eq (ldcap : Bool) (a b : Word) (pa pb tag : Bool) :
    granulePair ldcap (a, pa, b, pb, tag) =
      (let word (v : Word) (p : Bool) : Reg := if p then ⟨0, .poison⟩ else ⟨v, .int⟩
       if pa = false ∧ pb = false ∧ tag = true ∧ ldcap = true ∧ canonicalCap a b = true then (capOfWords a b).toPair
       else ⟨word a pa, word b pb⟩) := by
  have hc : (!pa && !pb && tag && ldcap && canonicalCap a b) =
      decide (pa = false ∧ pb = false ∧ tag = true ∧ ldcap = true ∧ canonicalCap a b = true) := by
    cases pa <;> cases pb <;> cases tag <;> cases ldcap <;> simp
  simp only [granulePair, hc, decide_eq_true_eq]
  rfl

theorem loadCap_run {c : Cap} {a : Nat} {g : Word × Bool × Word × Bool × Bool} (ha : Allowed (u.th t) c 0x0001 a 16 16)
    (hd : demandGranule t c a u = .ok g s2) : loadCap t rd c a u = wrPair t rd (granulePair (c.has 0x0008) g) s2 := by
  have ha' : Allowed (u.th t) c permLD a 16 16 := ha
  simp only [loadCap, M.bind_run, dataChecks_run ha', hd]
  rfl

theorem ldc_ok {g : Word × Bool × Word × Bool × Bool} (h : Fetches t (lenOf m.isExt) m.isExt s s1) (hok : AddrOk (s1.th t) cs m)
    (hev : rd.val % 2 = 0) (ha : Allowed (s1.th t) ((s1.th t).cap cs).toCap 0x0001 (mAddr (s1.th t) cs m 16 0) 16 16)
    (hd : demandGranule t ((s1.th t).cap cs).toCap (mAddr (s1.th t) cs m 16 0) (begun t s1) = .ok g s2) :
    execLdc t rd cs m s = .next (done t (lenOf m.isExt) s2 (((begun t s1).th t).writePair rd
      (granulePair (((s1.th t).cap cs).toCap.has 0x0008) g))) := by
  refine simpleX_mod (f := fun th => th.writePair rd _) h ?_ (demandGranule_threads hd) (fun _ => rfl)
  simp only [M.bind_run, needEven_run (rs := [rd]) (by simpa using hev), getT_run, checkOps_fine (mOps_fine hok.begun)]
  rw [begun_th, cap_withIter, mAddr_withIter]
  exact loadCap_run ha.begun hd

end Loads

/-! ### The stride detectors (R299) -/

section Detectors
variable {ds rest : List Detector} {n va last depth ahead : Nat} {st : Int}

/-- A miss that no detector predicts. -/
theorem matchMiss_none (h : ∀ d ∈ ds, d.predicts n va = false) : matchMiss ds n va depth = (⟨n, va, 0, 1, 0⟩ :: ds.take 7, none) := by
  have h1 : ds.find? (fun d => d.stride != 0 && d.predicts n va) = none := List.find?_eq_none.mpr fun d hd => by simp [h d hd]
  have h2 : ds.find? (fun d => d.predicts n va) = none := List.find?_eq_none.mpr fun d hd => by simp [h d hd]
  simp only [matchMiss, h1, h2]

/-- A second miss gives the stride. -/
theorem matchMiss_second (h0 : st ≠ 0) (h32 : st % 32 = 0) (hb : st.natAbs ≤ 65536) (hva : (va : Int) = last + st)
    (h : ∀ d ∈ rest, d.predicts n va = false) :
    matchMiss (⟨n, last, 0, 1, 0⟩ :: rest) n va depth = (⟨n, va, st, 2, 0⟩ :: rest, none) := by
  have hk : (va : Int) - last = st := by omega
  have hp : (⟨n, last, 0, 1, 0⟩ : Detector).predicts n va = true := by simp [Detector.predicts, hk, h0, h32, hb]
  have h1 : rest.find? (fun d => d.stride != 0 && d.predicts n va) = none := List.find?_eq_none.mpr fun d hd => by simp [h d hd]
  simp [matchMiss, h1, hp, hk]

/-- A further miss along the stride trains the detector. -/
theorem matchMiss_trained (h0 : st ≠ 0) (hva : (va : Int) = last + st) :
    matchMiss (⟨n, last, st, 2, 0⟩ :: rest) n va depth = (⟨n, va, st, 3, depth⟩ :: rest, some st) := by
  have hk : (va : Int) - last = st := by omega
  have hp : (⟨n, last, st, 2, 0⟩ : Detector).predicts n va = true := by simp [Detector.predicts, hk, h0]
  simp [matchMiss, h0, hp]

variable {w : State} {t : Tid} {ep : Option Nat} {c : Cap}

/-- A miss that requests nothing changes the detectors alone. -/
theorem prefetchAfter_untrained {l : List Detector}
    (h : matchMiss (Tab.getD w.detectors t.val []) c.space.val va (prefetchDepth w (windowAt w c.space.val va)) = (l, none)) :
    prefetchAfter w t ep c va = { w with detectors := Tab.put w.detectors t.val l } := by
  simp only [prefetchAfter, h]

/-- With depth 0 a trained detector requests nothing. -/
theorem prefetchAfter_depth0 {l : List Detector} (hd : prefetchDepth w (windowAt w c.space.val va) = 0)
    (h : matchMiss (Tab.getD w.detectors t.val []) c.space.val va 0 = (l, some st)) :
    prefetchAfter w t ep c va = { w with detectors := Tab.put w.detectors t.val l } := by
  simp only [prefetchAfter, hd, h]
  split <;> rfl

end Detectors

/-- Settles O11: the operands and checks pass, the read changes no thread (`demandBytes_threads`), and the value goes to rd. -/
theorem loadResults : Obligations.LoadResults := by
  intro t rd cs m s s1 s2 h hok th c put val
  refine ⟨fun bs ha hd => ⟨loadOp_ok h hok ha hd (regS_eq 8 _), loadOp_ok h hok ha hd rfl⟩,
    fun bs ha hd => ⟨loadOp_ok h hok ha hd (regS_eq 16 _), loadOp_ok h hok ha hd rfl⟩,
    fun bs ha hd => ⟨loadOp_ok h hok ha hd (regS_eq 32 _), loadOp_ok h hok ha hd rfl⟩,
    fun bs ha hd => ⟨loadOp_ok h hok ha hd rfl, loadOp_ok h hok ha hd rfl⟩,
    fun bs hev ha hd => svLd_ok h hok hev ha hd,
    fun a b pa pb tag hev ha hd => ?_,
    fun a n bs w u hd => demandBytes_loadBytes hd,
    fun ep va w rest => ⟨fun hnone => ?_, fun st last ahead h0 h32 hb hva => ⟨fun hds hrest => ?_, fun hds hdepth => ?_⟩⟩⟩
  · rw [exec_ldc, ldc_ok h hok hev ha hd, granulePair_eq]
  · exact prefetchAfter_untrained (matchMiss_none hnone)
  · refine prefetchAfter_untrained ?_
    rw [show Tab.getD w.detectors t.val [] = _ from hds]
    exact matchMiss_second h0 h32 hb hva hrest
  · refine prefetchAfter_depth0 (st := st) hdepth ?_
    rw [show Tab.getD w.detectors t.val [] = _ from hds]
    exact matchMiss_trained h0 hva

/-! ### Stores -/

section StoresOk
variable {t : Tid} {rs : RIdx} {cs : PIdx} {m : MForm} {s s1 s2 u u' : State} {c : Cap} {a n : Nat} {tag : Bool} {bs : List PByte}

/-- Where the bytes of a range can be stored, they are. -/
theorem Stores.run (h : Stores t c.space a bs tag u u') : storeBytes t c.space a bs tag u = .ok () u' := by
  obtain ⟨ps, v, hx, hq, rfl⟩ := h
  simp only [storeBytes, M.bind_run, hx, hq, modS_run]

theorem Stores.threads (h : Stores t c.space a bs tag u u') : u'.threads = u.threads := by
  obtain ⟨ps, v, hx, -, rfl⟩ := h
  rw [writePieces_threads, xlateAll_threads hx]

/-- The bytes of a register with the mark of a POISON, least significant first. -/
def regBytes (n : Nat) (r : Reg) : List PByte := (List.range n).map (fun i => (r.val.toNat / 256 ^ i % 256, decide (r.tag = .poison)))

theorem regBytes_mk (n : Nat) (r : Reg) : mkBytes n r.val.toNat (r.tag == .poison) = regBytes n r := mkBytes_reg n r

theorem pairBytes_eq (p : Pair) : pairBytes p = regBytes 8 p.a ++ regBytes 8 p.b := by simp only [pairBytes, regBytes_mk]

theorem storeScalar_run {v : Reg} (ha : Allowed (u.th t) c 0x0002 a n n) (hs : Stores t c.space a (regBytes n v) false u u') :
    storeScalar t v c a n u = .ok () u' := by
  have ha' : Allowed (u.th t) c permST a n n := ha
  simp only [storeScalar, M.bind_run, dataChecks_run ha', regBytes_mk, hs.run]

/-- The class of store data takes a word of a scalar tag or POISON. -/
theorem store_fine {r : Reg} (h : r.tag ∈ [Tag.int, .flt, .bool, .seq, .poison]) (slot : Nat) : (opnd slot .store r).Fine := by
  refine opnd_fine_or (by decide) rfl ?_
  revert h
  cases r.tag <;> decide

theorem svStore_fine {r : Reg} (h : r.tag ∈ [Tag.int, .flt, .poison]) (slot : Nat) : (opnd slot .sv r).Fine := by
  refine opnd_fine_or (by decide) rfl ?_
  revert h
  cases r.tag <;> decide

theorem storeOp_run {off : Int} (hw : ((u.th t).g rs).tag ∈ [Tag.int, .flt, .bool, .seq, .poison]) (hok : AddrOk (u.th t) cs m)
    (ha : Allowed (u.th t) ((u.th t).cap cs).toCap 0x0002 (mAddr (u.th t) cs m n off) n n)
    (hs : Stores t ((u.th t).cap cs).toCap.space (mAddr (u.th t) cs m n off) (regBytes n ((u.th t).g rs)) false u u') :
    storeOp t rs cs m n off u = .ok () u' := by
  simp only [storeOp, M.bind_run, getT_run]
  rw [checkOps_fine (List.forall_mem_cons.mpr ⟨store_fine hw 0, mOps_fine hok⟩)]
  exact storeScalar_run ha hs

theorem storeOp_ok (h : Fetches t (lenOf m.isExt) m.isExt s s1) (hok : AddrOk (s1.th t) cs m)
    (hw : ((s1.th t).g rs).tag ∈ [Tag.int, .flt, .bool, .seq, .poison])
    (ha : Allowed (s1.th t) ((s1.th t).cap cs).toCap 0x0002 (mAddr (s1.th t) cs m n 0) n n)
    (hs : Stores t ((s1.th t).cap cs).toCap.space (mAddr (s1.th t) cs m n 0) (regBytes n ((s1.th t).g rs)) false (begun t s1) s2) :
    simpleX t m.isExt (storeOp t rs cs m n 0) s = .next (done t (lenOf m.isExt) s2 ((begun t s1).th t)) := by
  refine simpleX_same h (storeOp_run (by simpa using hw) hok.begun ?_ ?_) hs.threads
  · simpa using ha.begun
  · simpa using hs

/-- The operands of two words of store data. -/
theorem stcOps_words {p : Pair} (ha : p.a.tag ∈ [Tag.int, .flt, .bool, .seq, .poison]) (hb : p.b.tag ∈ [Tag.int, .flt, .bool, .seq, .poison])
    (slot : Nat) : p.isCap = false ∧ ∀ o ∈ stcOps slot p, o.Fine := by
  have hcap {g : Tag} (h : g ∈ [Tag.int, .flt, .bool, .seq, .poison]) : g.isCap = false ∧ g ≠ .capA ∧ g ≠ .sealed := by
    revert h
    cases g <;> decide
  obtain ⟨ha1, ha2, ha3⟩ := hcap ha
  constructor
  · simp [Pair.isCap, ha2, ha3]
  · simpa [stcOps, ha1, (hcap hb).1] using And.intro (store_fine ha slot) (store_fine hb slot)

/-- The operands of a capability that is stored. -/
theorem stcOps_cap {p : Pair} (h : p.isCap = true) (slot : Nat) : ∀ o ∈ stcOps slot p, o.Fine := by
  obtain ⟨ha, hb⟩ : (p.a.tag = .capA ∨ p.a.tag = .sealed) ∧ p.b.tag = .capB := by simpa [Pair.isCap] using h
  obtain ha | ha := ha <;>
    simp [stcOps, pairOps, Opnd.Fine, Opnd.bad, Opnd.traps, ha, hb, OpClass.accepts, Tag.isCap]

theorem storeCap_cap {p : Pair} (hp : p.isCap = true) (hr : capRefused (u.th t).level.val (u.th t).tenancy.val p.toCap = none)
    (ha : Allowed (u.th t) c 0x0012 a 16 16) (hs : Stores t c.space a (regBytes 8 p.a ++ regBytes 8 p.b) true u u') :
    storeCap t p c a u = .ok () u' := by
  have ha' : Allowed (u.th t) c (permST + permSTCAP) a 16 16 := ha
  simp only [storeCap, stcMask, hp, if_true, M.bind_run, capUse_run hr, dataChecks_run ha', pairBytes_eq, hs.run]

theorem storeCap_words {p : Pair} (hp : p.isCap = false) (ha : Allowed (u.th t) c 0x0002 a 16 16)
    (hs : Stores t c.space a (regBytes 8 p.a ++ regBytes 8 p.b) false u u') : storeCap t p c a u = .ok () u' := by
  have ha' : Allowed (u.th t) c permST a 16 16 := ha
  simp only [storeCap, stcMask, hp, Bool.false_eq_true, if_false, M.bind_run, dataChecks_run ha', pairBytes_eq, hs.run]

/-- STC: the operands pass and the pair is stored. -/
theorem stc_ok (h : Fetches t (lenOf m.isExt) m.isExt s s1) (hok : AddrOk (s1.th t) cs m) (hev : rs.val % 2 = 0)
    (hops : ∀ o ∈ stcOps 0 ((s1.th t).pair rs), o.Fine) (ht : s2.threads = (begun t s1).threads)
    (hs : storeCap t ((s1.th t).pair rs) ((s1.th t).cap cs).toCap (mAddr (s1.th t) cs m 16 0) (begun t s1) = .ok () s2) :
    execStc t rs cs m s = .next (done t (lenOf m.isExt) s2 ((begun t s1).th t)) := by
  refine simpleX_same h ?_ ht
  simp only [M.bind_run, needEven_run (rs := [rs]) (by simpa using hev), getT_run]
  have hops' : ∀ o ∈ stcOps 0 (((begun t s1).th t).pair rs) ++ mOps ((begun t s1).th t) cs m, o.Fine := fun o ho =>
    (List.mem_append.mp ho).elim (fun ho => hops o (by simpa using ho)) (mOps_fine hok.begun o)
  rw [checkOps_fine hops', begun_th, pair_withIter, cap_withIter, mAddr_withIter]
  exact hs

theorem svSt_ok (h : Fetches t (lenOf m.isExt) m.isExt s s1) (hok : AddrOk (s1.th t) cs m) (hev : rs.val % 2 = 0)
    (h1 : ((s1.th t).pair rs).a.tag ∈ [Tag.int, .flt, .poison]) (h2 : ((s1.th t).pair rs).b.tag ∈ [Tag.int, .flt, .poison])
    (ha : Allowed (s1.th t) ((s1.th t).cap cs).toCap 0x0002 (mAddr (s1.th t) cs m 16 0) 16 16)
    (hs : Stores t ((s1.th t).cap cs).toCap.space (mAddr (s1.th t) cs m 16 0)
      (regBytes 8 ((s1.th t).pair rs).a ++ regBytes 8 ((s1.th t).pair rs).b) false (begun t s1) s2) :
    execSvSt t rs cs m s = .next (done t (lenOf m.isExt) s2 ((begun t s1).th t)) := by
  refine simpleX_same h ?_ hs.threads
  have ha' : Allowed ((begun t s1).th t) ((s1.th t).cap cs).toCap permST (mAddr (s1.th t) cs m 16 0) 16 16 := ha.begun
  simp only [svStoreOp, M.bind_run, needEven_run (rs := [rs]) (by simpa using hev), getT_run]
  have hops : ∀ o ∈ [opnd 0 .sv (((begun t s1).th t).pair rs).a, opnd 0 .sv (((begun t s1).th t).pair rs).b] ++
      mOps ((begun t s1).th t) cs m, o.Fine := by
    intro o ho
    obtain ho | ho := List.mem_append.mp ho
    · obtain rfl | rfl : o = _ ∨ o = _ := by simpa using ho
      · exact svStore_fine (by simpa using h1) 0
      · exact svStore_fine (by simpa using h2) 0
    · exact mOps_fine hok.begun o ho
  rw [checkOps_fine hops, begun_th, pair_withIter, cap_withIter, mAddr_withIter]
  simp only [dataChecks_run ha', pairBytes_eq, hs.run]

end StoresOk

/-- Settles O12: the operands and checks pass, and the bytes go where `Stores` says, which changes no thread. -/
theorem storeResults : Obligations.StoreResults := by
  intro t rs cs m s s1 s2 h hok th c out low word p pb
  exact ⟨fun hw => ⟨storeOp_ok h hok hw, storeOp_ok h hok hw, storeOp_ok h hok hw, storeOp_ok h hok hw⟩,
    fun hev hp hr ha hs => stc_ok h hok hev (stcOps_cap hp 0) hs.threads (storeCap_cap hp (by simpa using hr) ha.begun hs),
    fun hev h1 h2 ha hs => stc_ok h hok hev (stcOps_words h1 h2 0).2 hs.threads (storeCap_words (stcOps_words h1 h2 0).1 ha.begun hs),
    fun hev h1 h2 ha hs => svSt_ok h hok hev h1 h2 ha hs⟩

/-! ### The data stack (R54) -/

section Stack
variable {t : Tid} {r : RIdx} {s s1 s2 u : State}

@[simp] theorem stackAddr_withIter (th : Thread) (n : BitVec 32) (off : Int) : stackAddr { th with iter := n } off = stackAddr th off := by
  simp only [stackAddr, cap_withIter, g_withIter]

theorem sub_word {top : Word} (n : Nat) : top - BitVec.ofNat 64 n = top + BitVec.ofInt 64 (-n) := by
  rw [BitVec.ofInt_neg, BitVec.ofInt_natCast, BitVec.sub_eq_add_neg]

/-- PUSH and PUSHC end with the top of the stack lowered. -/
theorem moveTop_done {body : M Unit} {off : Int} {top : Word} (h : Fetches t 4 false s s1) (ht : s2.threads = (begun t s1).threads)
    (hb : body (begun t s1) = moveTop t ((begun t s1).th t) off s2) (hv : ((s1.th t).g 29).val + BitVec.ofInt 64 off = top) :
    simple t body s = .next (done t 4 s2 (((begun t s1).th t).write 29 ⟨top, .int⟩)) := by
  refine simpleX_mod (ext := false) (f := fun th => th.write 29 ⟨top, .int⟩) h (hb.trans ?_) ht (fun _ => rfl)
  rw [moveTop, begun_th, g_withIter, hv]
  rfl

theorem push_ok (h : Fetches t 4 false s s1) (hok : StackOk (s1.th t)) (hw : ((s1.th t).g r).tag ∈ [Tag.int, .flt, .bool, .seq, .poison])
    (ha : Allowed (s1.th t) ((s1.th t).cap 15).toCap 0x0002 (stackAddr (s1.th t) (-8)) 8 8)
    (hs : Stores t ((s1.th t).cap 15).toCap.space (stackAddr (s1.th t) (-8)) (regBytes 8 ((s1.th t).g r)) false (begun t s1) s2) :
    execPush t r s = .next (done t 4 s2 (((begun t s1).th t).write 29 ⟨((s1.th t).g 29).val - 8, .int⟩)) := by
  refine moveTop_done (off := -8) h hs.threads ?_ (sub_word 8).symm
  simp only [M.bind_run, getT_run]
  rw [checkOps_fine (List.forall_mem_cons.mpr ⟨store_fine (by simpa using hw) 1, stackOps_fine hok.begun⟩)]
  have hsc := storeScalar_run ha.begun hs
  simp only [begun_th, g_withIter, cap_withIter, stackAddr_withIter, hsc]

/-- PUSHC: the pair is stored below the top. -/
theorem pushc_ok (h : Fetches t 4 false s s1) (hok : StackOk (s1.th t)) (hev : r.val % 2 = 0)
    (hops : ∀ o ∈ stcOps 1 ((s1.th t).pair r), o.Fine) (ht : s2.threads = (begun t s1).threads)
    (hs : storeCap t ((s1.th t).pair r) ((s1.th t).cap 15).toCap (stackAddr (s1.th t) (-16)) (begun t s1) = .ok () s2) :
    execPushc t r s = .next (done t 4 s2 (((begun t s1).th t).write 29 ⟨((s1.th t).g 29).val - 16, .int⟩)) := by
  refine moveTop_done (off := -16) h ht ?_ (sub_word 16).symm
  simp only [M.bind_run, needEven_run (rs := [r]) (by simpa using hev), getT_run]
  have hops' : ∀ o ∈ stcOps 1 (((begun t s1).th t).pair r) ++ stackOps ((begun t s1).th t), o.Fine := fun o ho =>
    (List.mem_append.mp ho).elim (fun ho => hops o (by simpa using ho)) (stackOps_fine hok.begun o)
  rw [checkOps_fine hops']
  simp only [begun_th, pair_withIter, cap_withIter, stackAddr_withIter, hs]

/-- POP and POPC: the loaded register first, then g29 (R54). -/
theorem popTop_done {body : M Unit} {f : Thread → Thread} {off : Int} {top : Word} (h : Fetches t 4 false s s1)
    (ht : s2.threads = (begun t s1).threads) (hf : ∀ th, (f th).pc = th.pc)
    (hb : body (begun t s1) = moveTop t ((begun t s1).th t) off (s2.setTh t (f (s2.th t))))
    (hv : ((s1.th t).g 29).val + BitVec.ofInt 64 off = top) :
    simple t body s = .next (done t 4 s2 ((f ((begun t s1).th t)).write 29 ⟨top, .int⟩)) := by
  refine simpleX_mod (ext := false) (f := fun th => (f th).write 29 ⟨top, .int⟩) h (hb.trans ?_) ht hf
  simp only [moveTop, begun_th, g_withIter, hv, wr_run, State.th_setTh, modT_run, State.setTh_setTh]
  rfl

theorem pop_ok {bs : List PByte} (h : Fetches t 4 false s s1) (hok : StackOk (s1.th t))
    (ha : Allowed (s1.th t) ((s1.th t).cap 15).toCap 0x0001 (stackAddr (s1.th t) 0) 8 8)
    (hd : demandBytes t ((s1.th t).cap 15).toCap (stackAddr (s1.th t) 0) 8 (begun t s1) = .ok bs s2) :
    execPop t r s = .next (done t 4 s2
      ((((begun t s1).th t).write r (if bs.any (fun b => b.2) then ⟨0, .poison⟩ else ⟨BitVec.ofNat 64 (bytesVal bs), .int⟩)).write 29
        ⟨((s1.th t).g 29).val + 8, .int⟩)) := by
  refine popTop_done (off := 8) (f := fun th => th.write r _) h (demandBytes_threads hd) (fun _ => rfl) ?_ rfl
  simp only [M.bind_run, getT_run, checkOps_fine (stackOps_fine hok.begun)]
  have hl := loadScalar_run (rd := r) (f := regU) ha.begun hd
  simp only [begun_th, cap_withIter, stackAddr_withIter, hl, wr_run]
  rfl

theorem stackPopc_ok {g : Word × Bool × Word × Bool × Bool} (h : Fetches t 4 false s s1) (hok : StackOk (s1.th t)) (hev : r.val % 2 = 0)
    (ha : Allowed (s1.th t) ((s1.th t).cap 15).toCap 0x0001 (stackAddr (s1.th t) 0) 16 16)
    (hd : demandGranule t ((s1.th t).cap 15).toCap (stackAddr (s1.th t) 0) (begun t s1) = .ok g s2) :
    execStackPopc t r s = .next (done t 4 s2
      ((((begun t s1).th t).writePair r (granulePair (((s1.th t).cap 15).toCap.has 0x0008) g)).write 29
        ⟨((s1.th t).g 29).val + 16, .int⟩)) := by
  refine popTop_done (off := 16) (f := fun th => th.writePair r _) h (demandGranule_threads hd) (fun _ => rfl) ?_ rfl
  simp only [M.bind_run, needEven_run (rs := [r]) (by simpa using hev), getT_run, checkOps_fine (stackOps_fine hok.begun)]
  have hl := loadCap_run (rd := r) ha.begun hd
  simp only [begun_th, cap_withIter, stackAddr_withIter, hl, wrPair_run]

end Stack

/-- Settles O13: the access is that of a store or a load at the top of the stack, and g29 is written last. -/
theorem dataStackResults : Obligations.DataStackResults := by
  intro t r s s1 s2 h hok th c top at_ put low p
  exact ⟨fun hw ha hs => push_ok h hok hw ha hs,
    fun bs ha hd => pop_ok h hok ha hd,
    fun hev hp hr ha hs => pushc_ok h hok hev (stcOps_cap hp 1) hs.threads (storeCap_cap hp (by simpa using hr) ha.begun hs),
    fun hev h1 h2 ha hs => pushc_ok h hok hev (stcOps_words h1 h2 1).2 hs.threads (storeCap_words (stcOps_words h1 h2 1).1 ha.begun hs),
    fun a b pa pb tag hev ha hd => by
      rw [exec_stackPopc, stackPopc_ok h hok hev ha hd, granulePair_eq]⟩

/-! ### SCAN (R49) -/

section Scan
variable {t : Tid} {rd : RIdx} {cs : PIdx} {a : AForm} {kind : ScanKind} {bs : List PByte} {s s1 s2 u : State}

theorem int_fine {r : Reg} (h : r.tag ∈ [Tag.int, .bool, .poison]) (slot : Nat) : (opnd slot .int r).Fine := by
  refine opnd_fine_or (by decide) rfl ?_
  revert h
  cases r.tag <;> decide

theorem scanAt_run {off : Int} (hok : AddrOkA (u.th t) cs a) (hr : ((u.th t).g (aRs rd a).1).tag ∈ [Tag.int, .bool, .poison])
    (ha : Allowed (u.th t) ((u.th t).cap cs).toCap 0x0001 (aAddr (u.th t) cs a off) (scanSize kind) (scanSize kind))
    (hd : loadBytes t ((u.th t).cap cs).toCap.space (aAddr (u.th t) cs a off) (scanSize kind) u = .ok bs s2) :
    scanAt t kind rd cs a off u = .ok (if ((u.th t).g (aRs rd a).1).tag = .poison ∨ ∃ b ∈ bs, b.2 = true then none
      else some (scanHolds kind (bytesVal bs) ((u.th t).g (aRs rd a).1).val)) s2 := by
  have ha' : Allowed (u.th t) ((u.th t).cap cs).toCap permLD (aAddr (u.th t) cs a off) (scanSize kind) (scanSize kind) := ha
  have hops : ∀ o ∈ aOps (u.th t) cs a ++ [opnd (aRs rd a).2 .int ((u.th t).g (aRs rd a).1)], o.Fine := fun o ho =>
    (List.mem_append.mp ho).elim (aOps_fine hok o) (fun ho => by rw [List.mem_singleton.mp ho]; exact int_fine hr _)
  have hp : (((u.th t).g (aRs rd a).1).tag == .poison || bytesPoison bs) =
      decide (((u.th t).g (aRs rd a).1).tag = .poison ∨ ∃ b ∈ bs, b.2 = true) := by
    rw [Bool.beq_eq_decide_eq, bytesPoison, List.any_eq, Bool.decide_or]
  simp only [scanAt, M.bind_run, getT_run, checkOps_fine hops, dataChecks_run ha', hd, hp, decide_eq_true_eq]
  split <;> rfl

theorem bne_decide (x y : Nat) : (x != y) = decide (x ≠ y) := by rw [decide_not, bne, Bool.beq_eq_decide_eq]

theorem scan_ok {p : Prop} [Decidable p] (h : Fetches t (lenOf a.isExt) a.isExt s s1) (hok : AddrOkA (s1.th t) cs a)
    (hr : ((s1.th t).g (aRs rd a).1).tag ∈ [Tag.int, .bool, .poison])
    (ha : Allowed (s1.th t) ((s1.th t).cap cs).toCap 0x0001 (aAddr (s1.th t) cs a 0) (scanSize kind) (scanSize kind))
    (hd : loadBytes t ((s1.th t).cap cs).toCap.space (aAddr (s1.th t) cs a 0) (scanSize kind) (begun t s1) = .ok bs s2)
    (hp : scanHolds kind (bytesVal bs) ((s1.th t).g (aRs rd a).1).val = decide p) :
    simpleX t a.isExt (scanOp t kind rd cs a) s = .next (done t (lenOf a.isExt) s2 (((begun t s1).th t).write rd
      (if ((s1.th t).g (aRs rd a).1).tag = .poison ∨ ∃ b ∈ bs, b.2 = true then ⟨0, .poison⟩ else ⟨if p then 0 else 1, .int⟩))) := by
  refine simpleX_mod (f := fun th => th.write rd _) h ?_ (loadBytes_threads hd) (fun _ => rfl)
  have hrun := scanAt_run (rd := rd) (off := 0) (kind := kind) (bs := bs) (s2 := s2) hok.begun
    (by simpa using hr) (by simpa using ha.begun) (by simpa using hd)
  simp only [begun_th, g_withIter, hp] at hrun
  rw [scanOp, M.bind_run, hrun]
  by_cases hpo : ((s1.th t).g (aRs rd a).1).tag = .poison ∨ ∃ b ∈ bs, b.2 = true
  · simp only [if_pos hpo]
    rfl
  · by_cases hq : p <;> simp only [if_neg hpo, hq, decide_true, decide_false, if_true, if_false] <;> rfl

end Scan

/-- Settles O15: one comparison, whose read changes no thread. -/
theorem scanResults : Obligations.ScanResults := by
  intro t rd cs a bs s s1 s2 h hok th c va r hr fin
  have hreg : r = (s1.th t).g (aRs rd a).1 := by cases a <;> rfl
  rw [hreg] at hr
  have hfin : @fin = fun (p : Prop) [Decidable p] => .next (done t (lenOf a.isExt) s2 (((begun t s1).th t).write rd
      (if ((s1.th t).g (aRs rd a).1).tag = .poison ∨ ∃ b ∈ bs, b.2 = true then ⟨0, .poison⟩ else ⟨if p then 0 else 1, .int⟩))) := by
    simp only [fin, hreg]
  simp only [hfin, hreg]
  exact ⟨fun ha hd => ⟨scan_ok (kind := .eqD) h hok hr ha hd (Bool.beq_eq_decide_eq _ _), scan_ok (kind := .neD) h hok hr ha hd (bne_decide _ _)⟩,
    fun ha hd => ⟨scan_ok (kind := .eqW) h hok hr ha hd (Bool.beq_eq_decide_eq _ _), scan_ok (kind := .neW) h hok hr ha hd (bne_decide _ _)⟩⟩

/-! ### The AMO instructions (R48, R297, R448) -/

section Amo
variable {t : Tid} {rd : RIdx} {cs : PIdx} {a : AForm} {s s1 s2 u : State} {n : Fin 17} {va pa : Nat} {f : Word → Option Word}

/-- The state after the slice has read the word of an AMO: the core's own bytes of the line have been written back (R297). -/
def amoRead (t : Tid) (n : Fin 17) (va pa : Nat) (s : State) : State :=
  sliceRead (l1Flush s t.core (pa / 128)) (pa / 128) (runSectors (pa % 128) 8) (windowAt s n.val va)

/-- The state after the new word has been written at the slice, or in the overlay of an epoch. -/
def amoWrite (ep : Option Nat) (pa : Nat) (w : Word) (ac : Acc) (s : State) : State :=
  match ep with
  | some e => overlayWrite s e (pa / 128) (255 * 2 ^ (pa % 128)) (w.toNat * 256 ^ (pa % 128)) 0 0 ac
  | none => sliceWrite s (pa / 128) (255 * 2 ^ (pa % 128)) (w.toNat * 256 ^ (pa % 128)) 0 0 ac

theorem amoRead_threads : (amoRead t n va pa u).threads = u.threads := by
  rw [amoRead, (sliceRead_sliceKeep ..).threads, l1Flush_threads]

theorem amoWrite_threads (ep : Option Nat) (w : Word) (ac : Acc) : (amoWrite ep pa w ac u).threads = u.threads := by
  cases ep with
  | some e => exact (overlayWrite_sliceKeep ..).threads
  | none => exact (sliceWrite_sliceKeep ..).threads

/-- What one AMO does, once its word has been translated. -/
theorem amoAt_run (hx : xlate t n va .amo u = .ok pa s2) (hq : quotaWait t [(va, 8, pa)] s2 = .ok () s2) :
    amoAt t n va f u =
      (let s3 := amoRead t n va pa s2
       let v := viewFull s3 (s2.th t).ep (pa / 128)
       let old : Word := BitVec.ofNat 64 (v.data / 256 ^ (pa % 128))
       if v.poison.testBit (pa % 128 / 8) then .ok none s3
       else .ok (some old) ((f old).elim s3 (fun w => amoWrite (s2.th t).ep pa w (windowAt s2 n.val va) s3))) := by
  simp only [amoAt, M.bind_run, hx]
  refine (M.bind_run (quotaWait t [(va, 8, pa)]) _ s2).trans ?_
  simp only [hq, amoRead, amoWrite, bit_eq_testBit]
  refine ite_congr rfl (fun _ => rfl) (fun _ => ?_)
  split <;> rename_i hf <;> simp only [hf, Option.elim] <;> cases (s2.th t).ep <;> rfl

/-- The operand classes of an AMO take INT alone. -/
theorem count_fine {r : Reg} (h : r.tag = .int) (slot : Nat) : (opnd slot .count r).Fine :=
  opnd_fine (by rw [h]; rfl) (by rw [h]; nofun)

/-- What an AMO leaves and answers, by what its function gives for the old word: R448 for a poisoned word. -/
theorem amo_ok {cas : Bool} {g : Word → Word → Word → Option Word} {q : State} {x : Reg} (h : Fetches t (lenOf a.isExt) a.isExt s s1)
    (hok : AddrOkA (s1.th t) cs a) (hr : ((s1.th t).g (aRs rd a).1).tag = .int) (hcas : cas = true → ((s1.th t).g rd).tag = .int)
    (ha : Allowed (s1.th t) ((s1.th t).cap cs).toCap 0x0003 (aAddr (s1.th t) cs a 0) 8 8)
    (hx : xlate t ((s1.th t).cap cs).toCap.space (aAddr (s1.th t) cs a 0) .amo (begun t s1) = .ok pa s2)
    (hq : quotaWait t [(aAddr (s1.th t) cs a 0, 8, pa)] s2 = .ok () s2)
    (hres :
      let s3 := amoRead t ((s1.th t).cap cs).toCap.space (aAddr (s1.th t) cs a 0) pa s2
      let v := viewFull s3 (s1.th t).ep (pa / 128)
      let old : Word := BitVec.ofNat 64 (v.data / 256 ^ (pa % 128))
      let ac := windowAt s2 ((s1.th t).cap cs).toCap.space.val (aAddr (s1.th t) cs a 0)
      (v.poison.testBit (pa % 128 / 8) = true ∧ q = s3 ∧ x = .poison) ∨
      (v.poison.testBit (pa % 128 / 8) = false ∧ x = .int old ∧
        q = (g old ((s1.th t).g (aRs rd a).1).val ((s1.th t).g rd).val).elim s3 (fun w => amoWrite (s1.th t).ep pa w ac s3))) :
    simpleX t a.isExt (amoOp t rd cs a cas g) s = .next (done t (lenOf a.isExt) q (((begun t s1).th t).write rd x)) := by
  have hep : (s2.th t).ep = (s1.th t).ep := by
    rw [th_of_threads (xlate_threads hx), begun_th]
    rfl
  have ht3 : (amoRead t ((s1.th t).cap cs).toCap.space (aAddr (s1.th t) cs a 0) pa s2).threads = (begun t s1).threads := by
    rw [amoRead_threads, xlate_threads hx]
  have hops : ∀ o ∈ aOps ((begun t s1).th t) cs a ++ [opnd (aRs rd a).2 .count (((begun t s1).th t).g (aRs rd a).1)] ++
      (if cas = true then [opnd 0 .count (((begun t s1).th t).g rd)] else []), o.Fine := by
    intro o ho
    obtain (ho | ho) | ho := by simpa only [List.mem_append] using ho
    · exact aOps_fine hok.begun o ho
    · rw [List.mem_singleton.mp ho]
      exact count_fine (by simpa using hr) _
    · cases cas with
      | false => nomatch ho
      | true =>
        rw [List.mem_singleton.mp ho]
        exact count_fine (by simpa using hcas rfl) 0
  have hchk : dataChecks t ((s1.th t).cap cs).toCap (permLD + permST) (aAddr (s1.th t) cs a 0) 8 8 (begun t s1) = .ok () (begun t s1) :=
    dataChecks_run (mask := 0x0003) ha.begun
  have hbody : amoOp t rd cs a cas g (begun t s1) = wr t rd x q := by
    simp only [amoOp, M.bind_run, getT_run, checkOps_fine hops]
    simp only [begun_th, g_withIter, cap_withIter, aAddr_withIter, hchk, amoAt_run hx hq, hep]
    obtain ⟨hp, rfl, rfl⟩ | ⟨hp, rfl, rfl⟩ := hres
    · simp only [hp, if_true]
    · simp only [hp, Bool.false_eq_true, if_false]
  refine simpleX_mod (f := fun th => th.write rd x) h hbody ?_ (fun _ => rfl)
  obtain ⟨-, rfl, -⟩ | ⟨-, -, rfl⟩ := hres
  · exact ht3
  · cases g _ _ _ with
    | none => exact ht3
    | some w => exact (amoWrite_threads ..).trans ht3

end Amo

/-- Settles O14: the word is translated, read and written at its slice; what is written follows from the operation's function. -/
theorem atomicResults : Obligations.AtomicResults := by
  intro t rd cs a pa s s1 s2 h hok th c va r hr ha hx hq ln ac s3 v old put fin
  have hreg : r = (s1.th t).g (aRs rd a).1 := by cases a <;> rfl
  have hr' : ((s1.th t).g (aRs rd a).1).tag = .int := hreg ▸ hr
  have hput : put = fun w => amoWrite (s1.th t).ep pa w ac s3 := by
    funext w
    simp only [put, amoWrite]
    rfl
  have hgood {g : Word → Word → Word → Option Word} {q : State} {cas : Bool} (hp : v.poison.testBit (pa % 128 / 8) = false)
      (hcas : cas = true → ((s1.th t).g rd).tag = .int)
      (hg : q = (g old r.val ((s1.th t).g rd).val).elim s3 put) :
      simpleX t a.isExt (amoOp t rd cs a cas g) s = fin q ⟨old, .int⟩ := by
    refine amo_ok h hok hr' hcas ha hx hq (.inr ⟨hp, rfl, ?_⟩)
    rw [hg, hreg, hput]
    rfl
  have hbad {g : Word → Word → Word → Option Word} {cas : Bool} (hp : v.poison.testBit (pa % 128 / 8) = true)
      (hcas : cas = true → ((s1.th t).g rd).tag = .int) : simpleX t a.isExt (amoOp t rd cs a cas g) s = fin s3 ⟨0, .poison⟩ :=
    amo_ok h hok hr' hcas ha hx hq (.inl ⟨hp, rfl, rfl⟩)
  have hmax : maxS old r.val = if r.val.toInt ≤ old.toInt then old else r.val := by
    by_cases he : old.toInt = r.val.toInt
    · simp [maxS, BitVec.eq_of_toInt_eq he]
    · obtain hlt | hlt := lt_or_gt_of_ne he
      · simp only [maxS, if_pos hlt.le, if_neg (not_le.mpr hlt)]
      · simp only [maxS, if_pos hlt.le, if_neg (not_le.mpr hlt)]
  refine ⟨fun hp => ⟨hgood hp nofun rfl, hgood hp nofun rfl, hgood hp nofun rfl, hgood hp nofun rfl, hgood hp nofun rfl,
    hgood hp nofun rfl, hgood hp nofun (congrArg put hmax.symm), fun hd => hgood hp (fun _ => hd) ?_⟩,
    fun hp => ⟨?_, fun hd => hbad hp (fun _ => hd)⟩⟩
  · by_cases hc : old = (th.g rd).val
    · rw [if_pos hc, if_pos hc]
      rfl
    · rw [if_neg hc, if_neg hc]
      rfl
  · simp only [List.forall_mem_cons, List.not_mem_nil, false_implies, implies_true, and_true]
    exact ⟨hbad hp nofun, hbad hp nofun, hbad hp nofun, hbad hp nofun, hbad hp nofun, hbad hp nofun, hbad hp nofun⟩

end Sys2Proof.Machine
end

/-!
PROOFS, 7. Calls, gates and RET (R51 to R53, R78 to R80).
-/

section
namespace Sys2Proof.Machine

section Calls
variable {t : Tid} {s s1 s2 u v q0 q1 : State} {kind : Nat} {ret : Word}

/-- A meaning that changes memory and its own thread and then jumps. -/
theorem runInstr_jumped_mod {i : InstrInfo} {body : M (Option Word)} {a : Word} {f : Thread → Thread} (h : Fetches t i.len i.ext s s1)
    (hr : i.resumable = false) (hb : body (begun t s1) = .ok (some a) (s2.setTh t (f (s2.th t))))
    (ht : s2.threads = (begun t s1).threads) : runInstr t i body s = .next (jumped t a s2 (f ((begun t s1).th t))) := by
  rw [← th_of_threads ht t, runInstr_jumped h hr hb, State.th_setTh, jumped_setTh]

theorem intBits_natCast {n : Nat} (h : n < 2 ^ 64) : intBits 64 (n : Int) = n := by
  unfold intBits
  omega

/-- RSCAP is an accepted capability with RET (R51). -/
def RscapOk (th : Thread) : Prop :=
  th.rscap.isUnsealed = true ∧ th.rscap.toCap.has 0x0080 = true ∧ capRefused th.level.val th.tenancy.val th.rscap.toCap = none

/-- Step 1 of R52 for a call: the record lies below RSP. -/
theorem rstackCheck_call (h : RscapOk (u.th t)) (h32 : 32 ≤ (u.th t).rsp.toNat) :
    rstackCheck t true u = .ok ((u.th t).rscap.toCap.base + ((u.th t).rsp.toNat - 32)) u := by
  obtain ⟨hu, hp, hr⟩ := h
  have hp' : (u.th t).rscap.toCap.has permRET = true := hp
  have hoff : intBits 64 ((u.th t).rsp.toNat - 32 : Int) = (u.th t).rsp.toNat - 32 := by
    have := (u.th t).rsp.isLt
    rw [← intBits_natCast (n := (u.th t).rsp.toNat - 32) (by omega)]
    congr 1
    omega
  simp [rstackCheck, hu, hp', capUse_run hr, hoff, Nat.not_lt.mpr h32]

/-- Step 1 of R52 for a return: the record lies at RSP. -/
theorem rstackCheck_ret (h : RscapOk (u.th t)) (hlen : (u.th t).rsp.toNat + 32 ≤ (u.th t).rscap.toCap.length) :
    rstackCheck t false u = .ok ((u.th t).rscap.toCap.base + (u.th t).rsp.toNat) u := by
  obtain ⟨hu, hp, hr⟩ := h
  have hp' : (u.th t).rscap.toCap.has permRET = true := hp
  simp [rstackCheck, hu, hp', capUse_run hr, Nat.not_lt.mpr hlen]

/-! ### The push of a return record (R51, R52) -/

/-- The bytes of a word without a mark. -/
def wordBytes (n w : Nat) : List PByte := (List.range n).map (fun i => (w / 256 ^ i % 256, false))

theorem mkBytes_append (a b v : Nat) (p : Bool) : mkBytes (a + b) v p = mkBytes a v p ++ mkBytes b (v / 256 ^ a) p := by
  induction a generalizing v with
  | zero => simp [mkBytes]
  | succ a ih => rw [Nat.succ_add, mkBytes, ih, mkBytes, Nat.pow_succ', Nat.div_div_eq_div_mul, List.cons_append]

/-- The low bytes do not see what lies above them. -/
theorem mkBytes_add_mul (n v k : Nat) (p : Bool) : mkBytes n (v + 256 ^ n * k) p = mkBytes n v p := by
  induction n generalizing v with
  | zero => rfl
  | succ n ih =>
    have h1 : (v + 256 ^ (n + 1) * k) % 256 = v % 256 := by rw [Nat.pow_succ', Nat.mul_assoc, Nat.add_mul_mod_self_left]
    have h2 : (v + 256 ^ (n + 1) * k) / 256 = v / 256 + 256 ^ n * k := by
      rw [Nat.pow_succ', Nat.mul_assoc, Nat.add_mul_div_left _ _ (by decide)]
    rw [mkBytes, mkBytes, h1, h2, ih]

/-- The second granule of a record: the return PC, and the kind in the top byte of the last word (R51). -/
theorem recordBytes (ret : Word) (kind : Nat) :
    mkBytes 16 (ret.toNat + kind * 2 ^ 120) false = wordBytes 8 ret.toNat ++ wordBytes 8 (kind * 2 ^ 56) := by
  have hlt := ret.isLt
  have hsplit : ret.toNat + kind * 2 ^ 120 = ret.toNat + 256 ^ 8 * (kind * 2 ^ 56) := by ring
  have hdiv : (ret.toNat + 256 ^ 8 * (kind * 2 ^ 56)) / 256 ^ 8 = kind * 2 ^ 56 := by
    rw [Nat.add_mul_div_left _ _ (by positivity), Nat.div_eq_of_lt (by omega), Nat.zero_add]
  rw [hsplit, mkBytes_append 8 8, hdiv, mkBytes_add_mul, mkBytes_eq, mkBytes_eq]
  rfl

/-- The record of a call of a kind can be pushed, and is: two granules are translated, and both written. -/
def Pushes (t : Tid) (th : Thread) (kind : Nat) (ret : Word) (u v : State) : Prop :=
  32 ≤ th.rsp.toNat ∧
    let n := th.rscap.toCap.space
    let a := th.rscap.toCap.base + (th.rsp.toNat - 32)
    ∃ p1 p2 q1 q2, xlateAll t n .write (pieces 8 a 16) u = .ok p1 q1 ∧
      xlateAll t n .write (pieces 8 (a + 16) 16) q1 = .ok p2 q2 ∧ quotaWait t (p1 ++ p2) q2 = .ok () q2 ∧
      v = writePieces t n false p2 (wordBytes 8 ret.toNat ++ wordBytes 8 (kind * 2 ^ 56))
        (writePieces t n (a % 16 == 0 && th.pcc.isUnsealed) p1 (pairBytes th.pcc) q2)

theorem Pushes.threads {th : Thread} (h : Pushes t th kind ret u v) : v.threads = u.threads := by
  obtain ⟨-, p1, p2, q1, q2, h1, h2, -, rfl⟩ := h
  rw [writePieces_threads, writePieces_threads, xlateAll_threads h2, xlateAll_threads h1]

theorem withFaddr_ok {α : Type} {a : Nat} {m : M α} {x : α} (h : m u = .ok x v) : withFaddr a m u = .ok x v := by
  unfold withFaddr
  rw [h]

/-- A push that nothing refuses writes the record and lowers RSP. -/
theorem pushRecord_run (hg : RscapOk (u.th t)) (h : Pushes t (u.th t) kind ret u v) :
    pushRecord t kind ret u = .ok () (v.setTh t { v.th t with rsp := (v.th t).rsp - 32 }) := by
  obtain ⟨h32, p1, p2, q1, q2, h1, h2, hq, rfl⟩ := h
  simp only [pushRecord, M.bind_run, rstackCheck_call hg h32, getT_run, withFaddr_ok h1, withFaddr_ok h2, hq, modS_run, modT_run,
    recordBytes]

/-! ### CALL, CALLR and CALLC of an unsealed capability -/

theorem RscapOk.begun (h : RscapOk (s1.th t)) : RscapOk ((begun t s1).th t) := by
  rw [begun_th]
  exact h

theorem Pushes.begun (h : Pushes t (s1.th t) kind ret (begun t s1) v) : Pushes t ((begun t s1).th t) kind ret (begun t s1) v := by
  rw [begun_th]
  exact h

theorem call_ok {off : JForm} (h : Fetches t (lenOf off.isExt) off.isExt s s1) (hg : RscapOk (s1.th t))
    (hp : Pushes t (s1.th t) 1 ((s1.th t).pc + BitVec.ofNat 64 (lenOf off.isExt)) (begun t s1) s2) :
    execCall t off s = .next (jumped t (branchTarget (s1.th t).pc off.value) s2
      { (begun t s1).th t with rsp := (s1.th t).rsp - 32 }) := by
  have hb := pushRecord_run hg.begun hp.begun
  refine (runInstr_jumped_mod (i := { len := lenOf off.isExt, ext := off.isExt }) (f := fun th => { th with rsp := th.rsp - 32 })
    (a := branchTarget (s1.th t).pc off.value) h rfl ?_ hp.threads).trans ?_
  · simp only [M.bind_run, getT_run, begun_th, hb, M.pure_run]
  · rw [begun_th]

theorem callr_ok {r : RIdx} {a : Word} (h : Fetches t 4 false s s1) (hg : RscapOk (s1.th t)) (hr : Holds (s1.th t) r a .int)
    (h4 : a.toNat % 4 = 0) (hp : Pushes t (s1.th t) 1 ((s1.th t).pc + 4) (begun t s1) s2) :
    execCallr t r s = .next (jumped t a s2 { (begun t s1).th t with rsp := (s1.th t).rsp - 32 }) := by
  have hb := pushRecord_run hg.begun hp.begun
  have hj : jumpTarget t r (begun t s1) = .ok a (begun t s1) := by
    rw [jumpTarget_run (v := a) (by simpa [Holds] using hr)]
    simp [h4]
  refine (runInstr_jumped_mod (i := {}) (f := fun th => { th with rsp := th.rsp - 32 }) (a := a) h rfl ?_ hp.threads).trans ?_
  · simp only [M.bind_run, hj, getT_run, begun_th, hb, M.pure_run]
  · rw [begun_th]

/-- The operands of a capability of the code class, sealed or not. -/
theorem codeOps_fine {p : Pair} (ha : p.a.tag = .capA ∨ p.a.tag = .sealed) (hb : p.b.tag = .capB) : ∀ o ∈ csOps p .code, o.Fine := by
  obtain ha | ha := ha <;> simp [csOps, Opnd.Fine, Opnd.bad, Opnd.traps, ha, hb, OpClass.accepts]

theorem callc_ok {cs : PIdx} {m : CallForm} (h : Fetches t (lenOf m.isExt) m.isExt s s1) (hg : RscapOk (s1.th t))
    (hu : ((s1.th t).cap cs).isUnsealed = true)
    (href : capRefused (s1.th t).level.val (s1.th t).tenancy.val ((s1.th t).cap cs).toCap = none)
    (hex : ((s1.th t).cap cs).toCap.has 0x0004 = true) (h4 : intBits 64 (((s1.th t).cap cs).toCap.base + callOff m) % 4 = 0)
    (hp : Pushes t (s1.th t) 2 ((s1.th t).pc + BitVec.ofNat 64 (lenOf m.isExt)) (begun t s1) s2) :
    execCallc t cs m s = .next (jumped t (BitVec.ofNat 64 (intBits 64 (((s1.th t).cap cs).toCap.base + callOff m))) s2
      { (begun t s1).th t with rsp := (s1.th t).rsp - 32, pcc := (s1.th t).cap cs }) := by
  obtain ⟨ha, hcb⟩ : ((s1.th t).cap cs).a.tag = .capA ∧ ((s1.th t).cap cs).b.tag = .capB := by simpa [Pair.isUnsealed] using hu
  have hb := pushRecord_run hg.begun hp.begun
  have hex' : ((s1.th t).cap cs).toCap.has permEX = true := hex
  have hcu (a : Nat) : capUse t ((s1.th t).cap cs).toCap a (begun t s1) = .ok () (begun t s1) := capUse_run (by rw [begun_th]; exact href)
  refine (runInstr_jumped_mod (i := { len := lenOf m.isExt, ext := m.isExt })
    (f := fun th => { th with rsp := th.rsp - 32, pcc := (s1.th t).cap cs })
    (a := BitVec.ofNat 64 (intBits 64 (((s1.th t).cap cs).toCap.base + callOff m))) h rfl ?_ hp.threads).trans ?_
  · simp only [M.bind_run, getT_run, begun_th, cap_withIter, checkOps_fine (codeOps_fine (.inl ha) hcb), hcu, ha, capPerms, hex', h4]
    simp only [beq_iff_eq, reduceCtorEq, if_false, if_true, M.bind_run, M.pure_run, ne_eq, not_true_eq_false, hb, modT_run,
      State.th_setTh, State.setTh_setTh]
  · rw [begun_th]

/-! ### Gates (R79, R80) -/

/-- What the entry of a gate meets when nothing refuses it: its block is translated and read, and the record pushed. -/
structure GateOk (t : Tid) (g : Cap) (ret : Word) (g0 g1 : Word × Bool × Word × Bool × Bool) (off : Word) (u v : State) : Prop where
  accepted : RscapOk (u.th t)
  clean0 : g0.2.1 = false ∧ g0.2.2.2.1 = false
  clean1 : g1.2.1 = false ∧ g1.2.2.2.1 = false
  codeUnsealed : (granulePair true g0).isUnsealed = true
  codeEx : (granulePair true g0).toCap.has 0x0004 = true
  codeAccepted : capRefused (u.th t).level.val (u.th t).tenancy.val (granulePair true g0).toCap = none
  dataAccepted : (granulePair true g1).isCap = true → capRefused (u.th t).level.val (u.th t).tenancy.val (granulePair true g1).toCap = none
  aligned : off.toNat % 4 = 0
  inside : off.toNat < (granulePair true g0).toCap.length
  reads : ∃ ps q0 q1 q2 q3 tag, xlateAll t g.space .read (pieces 8 g.base 48) u = .ok ps q0 ∧ loadGranule t g.space g.base q0 = .ok g0 q1 ∧
    loadGranule t g.space (g.base + 16) q1 = .ok g1 q2 ∧ loadGranule t g.space (g.base + 32) q2 = .ok (off, false, 0, false, tag) q3 ∧
    Pushes t (u.th t) 3 ret q3 v

/-- The thread after a gate has been entered: CODE as PCC, DATA in c13 or NIL there. -/
def gateThread (code data : Pair) (th : Thread) : Thread :=
  ({ th with rsp := th.rsp - 32, pcc := code } : Thread).writePair 26 (if data.isCap then data else .nil)

theorem enterGate_run {g : Cap} {g0 g1 : Word × Bool × Word × Bool × Bool} {off : Word} (h : GateOk t g ret g0 g1 off u v) :
    v.threads = u.threads ∧ enterGate t g ret u = .ok (BitVec.ofNat 64 ((granulePair true g0).toCap.base + off.toNat))
      (v.setTh t (gateThread (granulePair true g0) (granulePair true g1) (v.th t))) := by
  obtain ⟨hg, ⟨hc0, hc0'⟩, ⟨hc1, hc1'⟩, hu, hex, hca, hda, h4, hlen, ps, q0, q1, q2, q3, tag, hx, h0, h1, h2, hp⟩ := h
  have ht3 : q3.threads = u.threads := by
    rw [loadGranule_threads h2, loadGranule_threads h1, loadGranule_threads h0, xlateAll_threads hx]
  have hth : q3.th t = u.th t := th_of_threads ht3 t
  refine ⟨hp.threads.trans ht3, ?_⟩
  have hex' : (granulePair true g0).toCap.has permEX = true := hex
  have hok : ((granulePair true g1).isCap && !(capRefused (u.th t).level.val (u.th t).tenancy.val (granulePair true g1).toCap).isNone) = false := by
    cases hd : (granulePair true g1).isCap with
    | false => rfl
    | true => rw [hda hd]; rfl
  have hb := pushRecord_run (u := q3) (by rw [hth]; exact hg) (by rw [hth]; exact hp)
  simp only [enterGate, M.bind_run, hx, h0, h1, h2, hc0, hc0', hc1, hc1', findIdx?, id, Bool.false_eq_true, if_false, getT_run, hth,
    hu, hex', hca, hok, h4, Nat.not_le.mpr hlen]
  simp only [Option.isNone_none, Bool.not_true, Bool.and_false, Bool.or_false, Bool.false_eq_true, if_false, bne_self_eq_false, decide_false]
  rw [gateThread]
  split <;> simp only [M.bind_run, hb, modT_run, M.pure_run, State.th_setTh, State.setTh_setTh, clearC13]

theorem callc_gate {cs : PIdx} {m : CallForm} {g0 g1 : Word × Bool × Word × Bool × Bool} {off : Word}
    (h : Fetches t (lenOf m.isExt) m.isExt s s1) (hm : callOff m = 0) (ha : ((s1.th t).cap cs).a.tag = .sealed)
    (hcb : ((s1.th t).cap cs).b.tag = .capB) (hot : ((s1.th t).cap cs).toCap.otype = 0xF01)
    (href : capRefused (s1.th t).level.val (s1.th t).tenancy.val ((s1.th t).cap cs).toCap = none)
    (hgate : GateOk t ((s1.th t).cap cs).toCap ((s1.th t).pc + BitVec.ofNat 64 (lenOf m.isExt)) g0 g1 off (begun t s1) s2) :
    execCallc t cs m s = .next (jumped t (BitVec.ofNat 64 ((granulePair true g0).toCap.base + off.toNat)) s2
      (gateThread (granulePair true g0) (granulePair true g1) ((begun t s1).th t))) := by
  obtain ⟨ht, hb⟩ := enterGate_run hgate
  have hcu (a : Nat) : capUse t ((s1.th t).cap cs).toCap a (begun t s1) = .ok () (begun t s1) := capUse_run (by rw [begun_th]; exact href)
  refine runInstr_jumped_mod (i := { len := lenOf m.isExt, ext := m.isExt }) h rfl ?_ ht
  simp only [M.bind_run, getT_run, begun_th, cap_withIter, checkOps_fine (codeOps_fine (.inr ha) hcb), hcu, ha, hot, hm]
  simp [hb]

/-! ### RET (R52, R79) -/

theorem readRecord_threads {n : Fin 17} {a : Nat} {r : List (Word × Bool) × Bool} (h : readRecord t n a u = .ok r v) : v.threads = u.threads := by
  unfold readRecord at h
  split at h
  · obtain ⟨g, q1, h1, h⟩ := M.bind_ok h
    obtain ⟨g', q2, h2, h⟩ := M.bind_ok h
    obtain ⟨-, rfl⟩ := EStateM.Result.ok.inj h
    rw [loadGranule_threads h2, loadGranule_threads h1]
  · obtain ⟨bs, q1, h1, h⟩ := M.bind_ok h
    obtain ⟨-, rfl⟩ := EStateM.Result.ok.inj h
    exact loadBytes_threads h1

/-- The thread after RET: PCC from the record, RSP raised, c13 cleared after a gate. -/
def retThread (kind : Nat) (w0 w1 : Word) (th : Thread) : Thread :=
  let h1 : Thread := { th with pcc := granulePair true (w0, false, w1, false, true), rsp := th.rsp + 32 }
  if kind = 3 then clearC13 h1 else h1

theorem ret_ok {ps : List (Nat × Nat × Nat)} {w0 w1 pc w3 : Word} (h : Fetches t 4 false s s1) (hg : RscapOk (s1.th t))
    (hlen : (s1.th t).rsp.toNat + 32 ≤ (s1.th t).rscap.toCap.length)
    (hx : xlateAll t (s1.th t).rscap.toCap.space .read (pieces 8 ((s1.th t).rscap.toCap.base + (s1.th t).rsp.toNat) 32) (begun t s1) = .ok ps q0)
    (hr : readRecord t (s1.th t).rscap.toCap.space ((s1.th t).rscap.toCap.base + (s1.th t).rsp.toNat) q0 =
      .ok ([(w0, false), (w1, false), (pc, false), (w3, false)], true) s2) (h1 : 1 ≤ w3.toNat / 2 ^ 56) (h3 : w3.toNat / 2 ^ 56 ≤ 3) :
    execRet t s = .next (jumped t pc s2 (retThread (w3.toNat / 2 ^ 56) w0 w1 ((begun t s1).th t))) := by
  have hk : fld w3.toNat 63 56 = w3.toNat / 2 ^ 56 := Nat.mod_eq_of_lt (by omega)
  have hchk := rstackCheck_ret (u := begun t s1) hg.begun (by rw [begun_th]; exact hlen)
  have ht : s2.threads = (begun t s1).threads := (readRecord_threads hr).trans (xlateAll_threads hx)
  refine runInstr_jumped_mod (i := {}) h rfl ?_ ht
  simp only [M.bind_run, hchk, getT_run, begun_th, withFaddr_ok hx, hr, findIdx?, Bool.false_eq_true, if_false, M.pure_run, Bool.not_true,
    List.getElem?_cons_zero, List.getElem?_cons_succ, Option.getD_some, hk, h1, h3, decide_true, Bool.and_self, modT_run]
  rfl

end Calls

/-- Settles O17. -/
theorem callReturnResults : Obligations.CallReturnResults := by
  intro t s s1 s2 th h0 rc n good pushes hgood
  have hg : RscapOk (s1.th t) := hgood
  have hrsp : h0.rsp = th.rsp := by simp only [h0, begun_th, th]
  refine ⟨?_, fun r v h hr h4 hp => callr_ok h hg hr h4 hp, ?_, ?_, ?_⟩
  · intro off h hp d
    have hd : off.value = d := by cases off <;> rfl
    rw [exec_call, call_ok h hg hp, branchTarget_eq, hd]
  · intro cs m h hu c off target href hex h4 hp
    have hoff : callOff m = off := by cases m <;> rfl
    have htgt : intBits 64 (((s1.th t).cap cs).toCap.base + callOff m) = target := by
      rw [hoff]
      rfl
    rw [exec_callc, callc_ok h hg hu href hex (by rw [htgt]; exact h4) hp, htgt]
  · intro cs m q0 q1 q2 q3 ps code data off g0 g1 tag h hm ha hb c hot href hx hl0 hl1 hl2 hc0 hc0' hc1 hc1' hcode hdata hu hex hca hda h4
      hlen hp
    have hm0 : callOff m = 0 := by obtain rfl | rfl := hm <;> rfl
    subst hcode hdata
    have hgate : GateOk t ((s1.th t).cap cs).toCap ((s1.th t).pc + BitVec.ofNat 64 (lenOf m.isExt)) g0 g1 off (begun t s1) s2 :=
      { accepted := hg.begun, clean0 := ⟨hc0, hc0'⟩, clean1 := ⟨hc1, hc1'⟩, codeUnsealed := hu, codeEx := hex
        codeAccepted := by rw [begun_th]; exact hca
        dataAccepted := by rw [begun_th]; exact hda
        aligned := h4, inside := hlen
        reads := ⟨ps, q0, q1, q2, q3, tag, hx, hl0, hl1, hl2, by rw [begun_th]; exact hp⟩ }
    rw [exec_callc, callc_gate h hm0 ha hb hot href hgate, gateThread, ← hrsp]
    rfl
  · intro q0 ps w0 w1 pc w3 h hlen hx hr kind h1 h3 pcc hth
    have hpcc : granulePair true (w0, false, w1, false, true) = pcc := by
      rw [granulePair_eq]
      simp [pcc]
    rw [exec_ret, ret_ok h hg hlen hx hr h1 h3, retThread, hpcc]
    simp only [hth, ← hrsp]
    rfl

end Sys2Proof.Machine
end

/-!
PROOFS, 8. The fences (R50, R294).
-/

section
namespace Sys2Proof.Machine

/-! ### Entries of canonical tables -/

theorem Tab.mem_of_get? {α : Type} {t : Tab α} {i : Nat} {v : α} (h : Tab.get? t i = some v) : (i, v) ∈ t := by
  induction t with
  | nil => nomatch h
  | cons a t ih =>
    obtain ⟨k, w⟩ := a
    simp only [Tab.get?] at h
    split at h
    · next he =>
      cases h
      simp [he]
    · exact List.mem_cons_of_mem _ (ih h)

theorem Tab.get?_of_mem {α : Type} {t : Tab α} (hw : Tab.wf t = true) {e : Nat × α} (h : e ∈ t) : Tab.get? t e.1 = some e.2 := by
  induction t with
  | nil => nomatch h
  | cons a t ih =>
    obtain ⟨k, w⟩ := a
    obtain ⟨habove, hwf⟩ := (Tab.wf_cons k w t).mp hw
    simp only [Tab.get?]
    obtain rfl | h := List.mem_cons.mp h
    · simp
    · rw [if_neg (by have := habove e h; omega), ih hwf h]

/-! ### FENCE.REL -/

/-- Every line of a table that is dirty is listed. -/
def DirtyIn (t rest : Tab CLine) : Prop := ∀ ln l, Tab.get? t ln = some l → l.dirty ≠ 0 → (ln, l) ∈ rest

section Release
variable {c : CoreId} {ln : Nat} {l : CLine} {t rest : Tab CLine} {s : State}

/-- The L1 after one line has been written back: the line leaves, or stays as clean. -/
def releasedL1 (t : Tab CLine) (ln : Nat) (l : CLine) : Tab CLine :=
  if l.valid = 0 then Tab.del t ln else Tab.put t ln { l with dirty := 0 }

theorem releasedL1_wf (h : Tab.wf t = true) : Tab.wf (releasedL1 t ln l) = true := by
  unfold releasedL1
  split
  · exact Tab.wf_del _ _ h
  · exact Tab.wf_put _ _ _ h

/-- What has been written back is clean. -/
theorem releasedL1_dirty (h : DirtyIn t ((ln, l) :: rest)) : DirtyIn (releasedL1 t ln l) rest := by
  intro ln' l' hget hd
  have hold (hne : ln' ≠ ln) (hget : Tab.get? t ln' = some l') : (ln', l') ∈ rest := by
    obtain he | hr := List.mem_cons.mp (h ln' l' hget hd)
    · exact absurd (congrArg Prod.fst he) hne
    · exact hr
  unfold releasedL1 at hget
  by_cases hne : ln' = ln
  · subst hne
    split at hget
    · rw [Tab.get?_del] at hget
      nomatch hget
    · rw [Tab.get?_put] at hget
      cases hget
      exact absurd rfl hd
  · split at hget
    · exact hold hne (by rwa [Tab.get?_del_ne _ _ _ hne] at hget)
    · exact hold hne (by rwa [Tab.get?_put_ne _ _ _ _ hne] at hget)

theorem writeBack_core : (writeBack s ln l).core c = s.core c := by
  simp only [State.core, (writeBack_sliceKeep s ln l).cores]

theorem releaseLines_cons : releaseLines c ((ln, l) :: rest) s =
    releaseLines c rest (setL1 (writeBack s ln l) c (releasedL1 (s.core c).l1 ln l)) := by
  rw [releaseLines, writeBack_core, releasedL1]

/-- FENCE.REL leaves no dirty byte: what is still dirty is still to be written back. -/
theorem releaseLines_clean (hw : Tab.wf (s.core c).l1 = true) (hd : DirtyIn (s.core c).l1 t) :
    Tab.wf ((releaseLines c t s).core c).l1 = true ∧ DirtyIn ((releaseLines c t s).core c).l1 [] := by
  induction t generalizing s with
  | nil => exact ⟨hw, hd⟩
  | cons e t ih =>
    obtain ⟨ln, l⟩ := e
    rw [releaseLines_cons]
    refine ih ?_ ?_
    · simpa [setL1] using releasedL1_wf hw
    · simpa [setL1] using releasedL1_dirty hd

theorem releaseLines_keep : (releaseLines c t s).threads = s.threads ∧ l1Off (releaseLines c t s) c = l1Off s c := by
  induction t generalizing s with
  | nil => exact ⟨rfl, rfl⟩
  | cons e t ih =>
    obtain ⟨ln, l⟩ := e
    have hk := writeBack_sliceKeep s ln l
    rw [releaseLines_cons]
    exact ⟨ih.1.trans hk.threads, ih.2.trans (hk.l1Off c)⟩

theorem fenceRel_clean (hon : l1Off s c = false) (hw : Tab.wf (s.core c).l1 = true) : ∀ e ∈ ((fenceRel s c).core c).l1, e.2.dirty = 0 := by
  obtain ⟨hwf, hd⟩ := releaseLines_clean (t := (s.core c).l1) hw (fun ln l h _ => Tab.mem_of_get? h)
  rw [fenceRel, hon, if_neg (by decide)]
  intro e he
  by_contra hne
  nomatch hd e.1 e.2 (Tab.get?_of_mem hwf he) hne

theorem fenceRel_keep : (fenceRel s c).threads = s.threads ∧ l1Off (fenceRel s c) c = l1Off s c := by
  unfold fenceRel
  split
  · exact ⟨rfl, rfl⟩
  · exact releaseLines_keep

/-! ### FENCE.ACQ -/

/-- The L1 of a core after FENCE.ACQ: the lines with dirty bytes, and of those the dirty sectors (R294). -/
theorem fenceAcq_mem (hon : l1Off s c = false) {e : Nat × CLine} (h : e ∈ ((fenceAcq s c).core c).l1) :
    ∃ l, (e.1, l) ∈ (s.core c).l1 ∧ l.dirty ≠ 0 ∧ e.2 = { l with valid := dirtySectors l.dirty } := by
  rw [fenceAcq, hon, if_neg (by decide), setL1, State.core_setCore] at h
  obtain ⟨x, hx, rfl⟩ := List.mem_map.mp h
  obtain ⟨hm, hd⟩ := List.mem_filter.mp hx
  exact ⟨x.2, hm, by simpa using hd, rfl⟩

theorem fenceAcq_dirty (hon : l1Off s c = false) : ∀ e ∈ ((fenceAcq s c).core c).l1, e.2.dirty ≠ 0 ∧ e.2.valid = dirtySectors e.2.dirty := by
  intro e he
  obtain ⟨l, -, hd, hl⟩ := fenceAcq_mem hon he
  rw [hl]
  exact ⟨hd, rfl⟩

/-- After a release nothing is left to keep. -/
theorem fenceAcq_empty (hon : l1Off s c = false) (hd : ∀ e ∈ (s.core c).l1, e.2.dirty = 0) : ((fenceAcq s c).core c).l1 = [] := by
  refine List.eq_nil_iff_forall_not_mem.mpr fun e he => ?_
  obtain ⟨l, hm, hne, -⟩ := fenceAcq_mem hon he
  exact hne (hd _ hm)

theorem fenceAcq_threads : (fenceAcq s c).threads = s.threads := by
  unfold fenceAcq
  exact ite_keep rfl rfl

end Release

/-- A fence completes when its change of the caches leaves the threads alone. -/
theorem fence_ok {t : Tid} {s s1 : State} {f : State → State} (h : Fetches t 4 false s s1)
    (ht : (f (begun t s1)).threads = (begun t s1).threads) :
    simple t (modS f) s = .next (done t 4 (f (begun t s1)) ((begun t s1).th t)) :=
  simpleX_same (ext := false) h rfl ht

/-- Settles O18: FENCE.REL by induction over the lines still to be written back (`releaseLines_clean`). -/
theorem fenceResults : Obligations.FenceResults := by
  intro t s s1 h hw h0 ran on
  have hon' (ho : on) : l1Off (begun t s1) t.core = false := ho
  refine ⟨⟨_, fence_ok h fenceRel_keep.1, fenceRel_keep.1, fun ho => fenceRel_clean (hon' ho) hw⟩,
    ⟨_, fence_ok h fenceAcq_threads, fenceAcq_threads, fun ho => fenceAcq_dirty (hon' ho)⟩,
    ⟨_, fence_ok (f := fun s => fenceAcq (fenceRel s t.core) t.core) h (fenceAcq_threads.trans fenceRel_keep.1),
      fenceAcq_threads.trans fenceRel_keep.1,
      fun ho => fenceAcq_empty (fenceRel_keep.2.trans (hon' ho)) (fenceRel_clean (hon' ho) hw)⟩,
    ⟨_, fence_ok (f := fun s => s.setCore t.core { s.core t.core with icache := [] }) h rfl, rfl, ?_, ?_⟩⟩
  · simp
  · simp [begun]

end Sys2Proof.Machine
end

/-!
PROOFS, 9. REP and REPN (R58 to R62).
-/

section
namespace Sys2Proof.Machine

section Repeat
variable {t : Tid} {n : Nat} {count : Word} {stride : Int} {body : RepBody} {w u : State} {q : Nat → State}

/-- The state after an iteration: the iteration counter holds the iterations completed (R60). -/
def afterIter (t : Tid) (u : State) (i : Nat) : State := u.setTh t { u.th t with iter := BitVec.ofNat 32 i }

/-- The states before each of the first m iterations, of which each completes and does not end the repeat. -/
def Chain (t : Tid) (stride : Int) (body : RepBody) (q : Nat → State) (m : Nat) : Prop :=
  ∀ i < m, ∃ u, repIter t i (i * stride) body (q i) = .ok false u ∧ q (i + 1) = afterIter t u (i + 1)

/-- The counter of the state before iteration m. -/
theorem Chain.iter {m : Nat} (h : Chain t stride body q m) (h0 : ((q 0).th t).iter = 0) (hm : m < 2 ^ 32) : ((q m).th t).iter.toNat = m := by
  cases m with
  | zero => simp [h0]
  | succ m =>
    obtain ⟨u, -, hq⟩ := h m (Nat.lt_succ_self m)
    rw [hq, afterIter, State.th_setTh]
    exact Nat.mod_eq_of_lt hm

/-- One iteration. -/
theorem repLoop_step {i f : Nat} {lim : Option Nat} {b : Bool} (hi : (w.th t).iter.toNat = i) (hn : i < n) (hlim : lim ≠ some 0)
    (h : repIter t i (i * stride) body w = .ok b u) :
    repLoop t n count stride body (f + 1) lim w =
      if b then .ok () (afterIter t u (i + 1)) else repLoop t n count stride body f (lim.map (fun l => l - 1)) (afterIter t u (i + 1)) := by
  simp only [repLoop, M.bind_run, getT_run, hi, Nat.not_le.mpr hn, hlim, if_false, h, modT_run]
  cases b <;> rfl

/-- The iterations of a chain, one after another. -/
theorem repLoop_chain {m f : Nat} {lim : Option Nat} (h : Chain t stride body q m) (h0 : ((q 0).th t).iter = 0) (hm : m ≤ n)
    (hn : n < 2 ^ 32) (hlim : ∀ l, lim = some l → m ≤ l) :
    repLoop t n count stride body (m + f) lim (q 0) = repLoop t n count stride body f (lim.map (fun l => l - m)) (q m) := by
  induction m generalizing f with
  | zero => simp
  | succ m ih =>
    have hc : Chain t stride body q m := fun i hi => h i (Nat.lt_succ_of_lt hi)
    obtain ⟨u, hu, hq⟩ := h m (Nat.lt_succ_self m)
    have hne : lim.map (fun l => l - m) ≠ some 0 := by
      intro he
      obtain ⟨l, hl, hz⟩ := Option.map_eq_some_iff.mp he
      have := hlim l hl
      omega
    have hsub : (lim.map (fun l => l - m)).map (fun l => l - 1) = lim.map (fun l => l - (m + 1)) := by
      rw [Option.map_map]
      rfl
    rw [show m + 1 + f = m + (f + 1) by omega, ih hc (by omega) (fun l hl => by have := hlim l hl; omega),
      repLoop_step (hc.iter h0 (by omega)) (by omega) hne hu, if_neg (by decide), hsub, hq]

/-- The count is reached (R61). -/
theorem repLoop_end {f : Nat} {lim : Option Nat} (hi : (w.th t).iter.toNat = n) :
    repLoop t n count stride body (f + 1) lim w = repEnd t count body w := by
  simp only [repLoop, M.bind_run, getT_run, hi, Nat.le_refl, if_true]

/-- The limit of this issue is reached (R60). -/
theorem repLoop_pause {f : Nat} (hi : (w.th t).iter.toNat < n) : repLoop t n count stride body (f + 1) (some 0) w = .error .pause w := by
  simp only [repLoop, M.bind_run, getT_run, Nat.not_le.mpr hi, if_false, if_true, pauseM_run]

end Repeat

/-! ### The instruction -/

section Instruction
variable {t : Tid} {rn : RIdx} {stride : BitVec 20} {body : RepBody} {n limit : Nat} {nmi : Bool} {lim : Option Nat} {s s1 : State}

/-- A body that may be repeated: one of the instructions of R58, its registers in order. -/
def RepFits (body : RepBody) : Prop := (∀ ext, body ≠ .bad ext) ∧ ∀ rs cs m, body = .svSt rs cs m → rs.val % 2 = 0

/-- The states in which a repeat starts: the counter 0, the count an INT. -/
structure RepStart (t : Tid) (rn : RIdx) (n : Nat) (s1 : State) : Prop where
  iter : (s1.th t).iter = 0
  count : (s1.th t).g rn = ⟨BitVec.ofNat 64 n, .int⟩
  word : n < 2 ^ 64

/-- REP and REPN after the check of their body: the count, PROG, and the iterations. -/
def repCounted (t : Tid) (rn : RIdx) (stride : BitVec 20) (body : RepBody) (limit : Nat) (nmi : Bool) (lim : Option Nat) : M Unit := do
  let r ← greg t rn
  checkOps [opnd 8 .count r]
  if limit < r.val.toNat then illegal 0x10
  let th ← getT t
  if r.val.toNat < th.iter.toNat then illegal 0x61
  modT t (fun h => { h with inRepn := nmi })
  repLoop t r.val.toNat r.val stride.toInt body ((match lim with
    | some l => min l (r.val.toNat - th.iter.toNat)
    | none => r.val.toNat - th.iter.toNat) + 1) lim

/-- The body of a repeat that fits raises nothing by itself. -/
theorem repOp_fits (hb : RepFits body) : repOp t rn stride body limit nmi lim s1 = repCounted t rn stride body limit nmi lim s1 := by
  obtain ⟨hbad, heven⟩ := hb
  cases body with
  | bad ext => exact absurd rfl (hbad ext)
  | svSt rs cs m =>
    have he : needEven [rs] s1 = .ok () s1 := needEven_run (by simpa using heven rs cs m rfl)
    have hop : repOp t rn stride (.svSt rs cs m) limit nmi lim = needEven [rs] >>= fun _ => repCounted t rn stride (.svSt rs cs m) limit nmi lim := rfl
    rw [hop, M.bind_run, he]
  | stB | stH | stW | stD | scan | vst => rfl

/-- A count past the limit is refused; any other starts the iterations (R59, R61). -/
theorem repOp_run (hb : RepFits body) (hs : RepStart t rn n s1) :
    repOp t rn stride body limit nmi lim s1 =
      if limit < n then .error (.exc ⟨12, 0x10, 0⟩) s1
      else repLoop t n (BitVec.ofNat 64 n) stride.toInt body (lim.elim n (fun l => min l n) + 1) lim
        (s1.setTh t { s1.th t with inRepn := nmi }) := by
  obtain ⟨hiter, hcount, hword⟩ := hs
  have hv : (BitVec.ofNat 64 n).toNat = n := Nat.mod_eq_of_lt hword
  have hi : (s1.th t).iter.toNat = 0 := by rw [hiter]; rfl
  have hc : (opnd 8 .count ⟨BitVec.ofNat 64 n, .int⟩).Fine := opnd_fine rfl nofun
  rw [repOp_fits hb]
  simp only [repCounted, M.bind_run, greg_run, hcount, checkOps_fine (os := [opnd 8 .count ⟨BitVec.ofNat 64 n, .int⟩]) (by simpa using hc), hv]
  split
  · rfl
  · simp only [M.bind_run, getT_run, hi, Nat.not_lt_zero, if_false, modT_run, Nat.sub_zero]
    cases lim <;> rfl

/-- REP with its limit, or REPN with its own. -/
def repRun (nmi : Bool) (t : Tid) (rn : RIdx) (stride : BitVec 20) (body : RepBody) (lim : Option Nat) (s : State) :
    Host.Outcome State Fault Refusal := repInstr t rn stride body (if nmi then 64 else 2 ^ 32 - 1) nmi lim s

theorem exec_repRun (nmi : Bool) :
    exec (if nmi then .repn t rn stride body lim else .rep t rn stride body lim) s = repRun nmi t rn stride body lim s := by
  cases nmi <;> rfl

variable {q : Nat → State}

section InLimit
variable (h : Fetches t (4 + lenOf (repExt body)) (repExt body) s s1) (hb : RepFits body) (hs : RepStart t rn n s1)
  (hn : n ≤ if nmi then 64 else 2 ^ 32 - 1) (hq : q 0 = s1.setTh t { s1.th t with inRepn := nmi })
include h hb hs hn hq

omit h in
/-- A repeat within its limit, after the iterations of a chain. -/
theorem repOp_chain {m : Nat} (hc : Chain t stride.toInt body q m) (hm : m ≤ n) (hlim : ∀ l, lim = some l → m ≤ l) :
    ∃ f, repOp t rn stride body (if nmi then 64 else 2 ^ 32 - 1) nmi lim s1 =
      repLoop t n (BitVec.ofNat 64 n) stride.toInt body (f + 1) (lim.map (fun l => l - m)) (q m) := by
  have hn32 : n < 2 ^ 32 := by split at hn <;> omega
  have h0 : ((q 0).th t).iter = 0 := by rw [hq, State.th_setTh, hs.iter]
  have hfuel : ∃ f, lim.elim n (fun l => min l n) = m + f := by
    refine Nat.exists_eq_add_of_le ?_
    cases lim with
    | none => exact hm
    | some l => exact le_min (hlim l rfl) hm
  obtain ⟨f, hf⟩ := hfuel
  refine ⟨f, ?_⟩
  rw [repOp_run hb hs, if_neg (Nat.not_lt.mpr hn), ← hq, hf, Nat.add_assoc, repLoop_chain hc h0 hm hn32 hlim]

/-- Every iteration has completed: the repeat ends past both words (R61). -/
theorem repRun_all (hc : Chain t stride.toInt body q n) (hlim : ∀ l, lim = some l → n ≤ l) :
    repRun nmi t rn stride body lim s = .next (done t (4 + lenOf (repExt body)) (q n) (match body with
      | .scan _ rd _ _ => ((q n).th t).write rd ⟨BitVec.ofNat 64 n, .int⟩
      | _ => (q n).th t)) := by
  have hn32 : n < 2 ^ 32 := by split at hn <;> omega
  have h0 : ((q 0).th t).iter = 0 := by rw [hq, State.th_setTh, hs.iter]
  obtain ⟨f, hf⟩ := repOp_chain hb hs hn hq hc (Nat.le_refl n) hlim
  rw [repLoop_end (hc.iter h0 hn32)] at hf
  have hrun (s2 : State) (he : repEnd t (BitVec.ofNat 64 n) body (q n) = .ok () s2) :
      repRun nmi t rn stride body lim s = .next (done t (4 + lenOf (repExt body)) s2 (s2.th t)) := by
    have hp : plain (repOp t rn stride body (if nmi then 64 else 2 ^ 32 - 1) nmi lim) (startState t true s1) = .ok none s2 := by
      rw [plain_run, startState_true, hf, he]
    rw [repRun, repInstr, runInstr_ok (i := { len := 4 + lenOf (repExt body), ext := repExt body, pfx := true, resumable := true }) h hp,
      advance_none]
  cases body with
  | scan kind rd cs a =>
    rw [hrun _ rfl, State.th_setTh]
    exact congrArg _ (done_setTh t _ (q n) _ _ rfl)
  | stB | stH | stW | stD | svSt | vst | bad => exact hrun _ rfl

/-- A stop after m iterations leaves PC on the repeat word and the counter at m (R60). -/
theorem repRun_stop {m : Nat} (hc : Chain t stride.toInt body q m) (hm : m < n) :
    repRun nmi t rn stride body (some m) s = .next (markStop (q m) t true (repExt body)) := by
  have hn32 : n < 2 ^ 32 := by split at hn <;> omega
  have h0 : ((q 0).th t).iter = 0 := by rw [hq, State.th_setTh, hs.iter]
  obtain ⟨f, hf⟩ := repOp_chain (lim := some m) hb hs hn hq hc hm.le (fun l hl => (Option.some.inj hl).le)
  have hlim : (some m).map (fun l => l - m) = some 0 := by simp
  rw [hlim, repLoop_pause (by rw [hc.iter h0 (by omega)]; exact hm)] at hf
  have hp : plain (repOp t rn stride body (if nmi then 64 else 2 ^ 32 - 1) nmi (some m)) (startState t true s1) = .error .pause (q m) := by
    rw [plain_run, startState_true, hf]
  rw [repRun, repInstr, runInstr_run (i := { len := 4 + lenOf (repExt body), ext := repExt body, pfx := true, resumable := true }) h, hp]

/-- An iteration that ends the repeat: a SCAN whose condition holds (R49). -/
theorem repRun_found {m : Nat} {u : State} (hc : Chain t stride.toInt body q m) (hm : m < n)
    (hu : repIter t m (m * stride.toInt) body (q m) = .ok true u) :
    repRun nmi t rn stride body none s = .next (done t (4 + lenOf (repExt body)) u (u.th t)) := by
  have hn32 : n < 2 ^ 32 := by split at hn <;> omega
  have h0 : ((q 0).th t).iter = 0 := by rw [hq, State.th_setTh, hs.iter]
  obtain ⟨f, hf⟩ := repOp_chain (lim := none) hb hs hn hq hc hm.le nofun
  rw [Option.map_none, repLoop_step (lim := none) (hc.iter h0 (by omega)) hm nofun hu, if_pos rfl] at hf
  have hp : plain (repOp t rn stride body (if nmi then 64 else 2 ^ 32 - 1) nmi none) (startState t true s1) =
      .ok none (afterIter t u (m + 1)) := by
    rw [plain_run, startState_true, hf]
  rw [repRun, repInstr, runInstr_ok (i := { len := 4 + lenOf (repExt body), ext := repExt body, pfx := true, resumable := true }) h hp,
    advance_none, afterIter, State.th_setTh]
  exact congrArg _ (done_setTh t (4 + lenOf (repExt body)) u _ { u.th t with iter := BitVec.ofNat 32 (m + 1) } rfl)

end InLimit

/-- A count over the limit is refused (R59). -/
theorem repRun_over (h : Fetches t (4 + lenOf (repExt body)) (repExt body) s s1) (hb : RepFits body) (hs : RepStart t rn n s1)
    (hn : (if nmi then 64 else 2 ^ 32 - 1) < n) :
    repRun nmi t rn stride body lim s = .next (takeTrap t ⟨12, 0x10, 0, true, repExt body, false, false⟩ s1) := by
  have hp : plain (repOp t rn stride body (if nmi then 64 else 2 ^ 32 - 1) nmi lim) (startState t true s1) = .error (.exc ⟨12, 0x10, 0⟩) s1 := by
    rw [plain_run, startState_true, repOp_run hb hs, if_pos hn]
  rw [repRun, repInstr, runInstr_exc (i := { len := 4 + lenOf (repExt body), ext := repExt body, pfx := true, resumable := true }) h hp]

end Instruction

/-- Settles O21, by induction over the iterations of the chain (`repLoop_chain`). -/
theorem repeatResults : Obligations.RepeatResults := by
  intro t rn stride body n s s1 q len th next run h hiter hcount hword hbad heven nmi
  have hb : RepFits body := ⟨hbad, heven⟩
  have hs : RepStart t rn n s1 := ⟨hiter, hcount, hword⟩
  have hrun (lim : Option Nat) : run nmi lim = repRun nmi t rn stride body lim s := exec_repRun nmi
  refine ⟨fun hn hq m hm hc => ⟨?_, ?_, ?_⟩, fun hn => ?_, ?_⟩
  · rintro rfl lim hlim
    rw [hrun, repRun_all h hb hs hn hq hc hlim]
    cases body <;> rfl
  · intro hlt
    rw [hrun, repRun_stop h hb hs hn hq hc hlt]
  · intro u hlt hu
    rw [hrun, repRun_found h hb hs hn hq hc hlt hu]
  · rw [hrun, repRun_over h hb hs hn]
  · intro rs cs m i u v hok h c a hw hal hst
    have hp : ((u.th t).g rs).tag ≠ .poison := fun he => by simp [h, he] at hw
    have hbytes : regBytes 4 ((u.th t).g rs) = (List.range 4).map (fun k => (((u.th t).g rs).val.toNat / 256 ^ k % 256, false)) := by
      simp only [regBytes, hp, decide_false]
    have hmem : ((u.th t).g rs).tag ∈ [Tag.int, .flt, .bool, .seq, .poison] :=
      List.mem_append_left [Tag.poison] hw
    have hst' := storeOp_run (off := i * stride.toInt) hmem hok hal (hbytes ▸ hst)
    simp only [repIter, M.bind_run, hst', M.pure_run]

end Sys2Proof.Machine
end

/-!
PROOFS, 10. The key-epoch sweep, held commands and reserved words (R39, R64, R133, R258, R346, R347).
-/

section
namespace Sys2Proof.Machine

/-! ### Re-encryption of a page (R258, R346) -/

/-- The top two bits of an entry set to a key epoch. -/
theorem setFld_keyEpoch {e : Nat} (he : e < 2 ^ 64) (k : Nat) : setFld e 63 62 (k % 4) = e % 2 ^ 62 + k % 4 * 2 ^ 62 := by
  unfold setFld fld
  omega

theorem fld_keyEpoch {e : Nat} (he : e < 2 ^ 64) : fld e 63 62 = e / 2 ^ 62 := by
  unfold fld
  omega

theorem staleKey_eq {e : Nat} (he : e < 2 ^ 64) (s : State) (n : Fin 17) : staleKey s n e = decide (e / 2 ^ 62 ≠ (s.sp n).keyEpoch % 4) := by
  rw [staleKey, fld_keyEpoch he, bne_decide]

/-- A page's first byte by its first 64 KiB page number. -/
theorem pageBase_mul (level va : Nat) : pageBase level va * 65536 = va / 2 ^ levelShift level * 2 ^ levelShift level := by
  have hdvd : 65536 ∣ 2 ^ levelShift level := by
    rw [show (65536 : Nat) = 2 ^ 16 from rfl]
    refine Nat.pow_dvd_pow 2 ?_
    unfold levelShift
    split <;> decide
  exact Nat.div_mul_cancel (hdvd.mul_left _)

section Sweep
variable {s w : State} {n : Fin 17} {page level epa e : Nat}

/-- The page of a leaf after its re-encryption: its lines in HBM, its entry under the current key epoch, the sweep one page on. -/
def sweptPage (w : State) (n : Fin 17) (level epa e : Nat) : State :=
  let bytes := 2 ^ levelShift level * (if e.testBit 61 then 2 else 1)
  sweepOne (writeWord (cleanRange w (e / 2 ^ 16 % 2 ^ 32 * 65536) bytes) n.val epa
    (e % 2 ^ 62 + ((cleanRange w (e / 2 ^ 16 % 2 ^ 32 * 65536) bytes).sp n).keyEpoch % 4 * 2 ^ 62)) n

theorem reencrypt_eq (he : e < 2 ^ 64) : reencrypt w n level epa e = sweptPage w n level epa e := by
  simp only [reencrypt, sweptPage, setFld_keyEpoch he, bit_eq_testBit]
  rfl

theorem reencryptPage_leaf (hw : walk s n (page * 65536) = (w, .leaf level epa e)) (he : e < 2 ^ 64) :
    reencryptPage s n page =
      if decide (e % 8 = 2) && decide (e / 2 ^ 62 ≠ (w.sp n).keyEpoch % 4) &&
        !rangeHeld w n.val (page * 65536 / 2 ^ levelShift level * 2 ^ levelShift level) (2 ^ levelShift level) then
        wakeOn (sweptPage w n level epa e) (.reencrypt n.val (page * 65536 / 2 ^ levelShift level * 2 ^ levelShift level / 65536))
      else s := by
  simp only [reencryptPage, hw, staleKey_eq he, pageBase_mul, reencrypt_eq he]
  rfl

/-- Some thread waits for the re-encryption of a page. -/
theorem waits_iff (x : TStatus) : s.threads.toList.any (fun th => th.status == x) = true ↔ ∃ t : Tid, (s.th t).status = x := by
  rw [List.any_eq_true]
  constructor
  · rintro ⟨th, hm, hx⟩
    obtain ⟨i, hi, rfl⟩ := Vector.mem_iff_getElem.mp (Vector.mem_toList_iff.mp hm)
    exact ⟨⟨i, hi⟩, beq_iff_eq.mp hx⟩
  · rintro ⟨t, ht⟩
    exact ⟨s.th t, Vector.mem_toList_iff.mpr (Vector.getElem_mem t.isLt), by simpa using ht⟩

theorem pageReencrypt_waits (h : ∃ t : Tid, (s.th t).status = .waiting (.reencrypt n.val page)) :
    execPageReencrypt n page s = .next (reencryptPage s n page) := by
  rw [execPageReencrypt, if_pos ((waits_iff _).mpr h)]

theorem pageReencrypt_idle (h : ¬ ∃ t : Tid, (s.th t).status = .waiting (.reencrypt n.val page)) : execPageReencrypt n page s = .next s := by
  rw [execPageReencrypt, if_neg (fun hw => h ((waits_iff _).mp hw))]

theorem keySweepPage_idle (h : (s.sp n).sweeping = false) : execKeySweepPage n page s = .next s := by
  simp only [execKeySweepPage, h, Bool.not_false, if_true]

theorem keySweepPage_local (h : (s.sp n).sweeping = true) (hx : ∀ x ∈ s.shadows, ¬ (x.space = n.val ∧ x.page = page)) :
    execKeySweepPage n page s = .next (reencryptPage s n page) := by
  have hf : s.shadows.find? (fun x => x.space == n.val && x.page == page) = none :=
    List.find?_eq_none.mpr fun x hm => by simpa using hx x hm
  simp only [execKeySweepPage, h, hf, Bool.not_true, Bool.false_eq_true, if_false]

/-- The sweep at a shadow frame. -/
theorem keySweepPage_shadow {x : Shadow} (h : (s.sp n).sweeping = true)
    (hx : s.shadows.find? (fun y => y.space == n.val && y.page == page) = some x) :
    execKeySweepPage n page s =
      (let size := levelUnits x.level * 65536
       let s1 := cleanRange s (x.frame * 65536) size
       if x.filled = true ∧ x.keyEpoch ≠ (s.sp n).keyEpoch % 4 ∧ rangeHeld s n.val (x.page * 65536) size = false then
         .next (sweepOne { s1 with shadows := s1.shadows.map (fun y => if y = x then { y with keyEpoch := (s.sp n).keyEpoch % 4 } else y) } n)
       else .next s) := by
  simp only [execKeySweepPage, h, hx, Bool.not_true, Bool.false_eq_true, if_false, Bool.and_eq_true, bne_iff_ne, Bool.not_eq_true',
    and_assoc, beq_iff_eq]

/-- The count of pages still to sweep falls by one, and the sweep ends at zero (R347). -/
theorem sweepOne_left (hn : n.val < 16) (hs : (s.sp n).sweeping = true) :
    (sweepOne s n).ten n.val 0xC050 1 = s.ten n.val 0xC050 1 - 1 ∧ ((sweepOne s n).sp n).sweeping = decide (1 < s.ten n.val 0xC050 1) := by
  have hne : n.val ≠ 16 := by omega
  have hsp (m v : Nat) : ((s.setTen n.val 0xC050 m v).sp n) = s.sp n := by simp only [State.sp, State.setTen_spaces]
  unfold sweepOne
  simp only [hne, hs, decide_false, Bool.not_true, Bool.or_self, Bool.false_eq_true, if_false]
  split
  · next h0 =>
    constructor
    · rw [State.ten_post, State.ten_setSp, State.ten_setTen]
    · have : ¬ 1 < s.ten n.val 0xC050 1 := by omega
      simp [State.sp, State.setSp, this]
  · next h0 =>
    constructor
    · rw [State.ten_setTen]
    · rw [hsp, hs]
      exact (decide_eq_true (by omega)).symm

end Sweep

/-! ### Held commands (R133) -/

section Held
variable {s : State} {i : Nat} {c : Cmd}

/-- The state of the epoch that a command is held for; one that holds it for none is as a committed one. -/
def epochOutcome (s : State) (c : Cmd) : EpochState :=
  (c.epoch.bind (fun e => Tab.get? s.epochs (64 * c.tenancy.val + e))).elim .committed (fun x => x.state)

theorem heldOutcome_eq (s : State) (c : Cmd) :
    heldOutcome s c = if epochOutcome s c = .opened then none else some (epochOutcome s c == .committed) := by
  unfold heldOutcome epochOutcome
  cases c.epoch with
  | none => rfl
  | some e =>
    simp only [Option.bind_some]
    cases Tab.get? s.epochs (64 * c.tenancy.val + e) <;> rfl

theorem heldRelease_other (h : Tab.get? s.cmds i = some c) (hp : c.phase ≠ .held) : execHeldCommandRelease i s = .next s := by
  simp [execHeldCommandRelease, h, hp]

theorem heldRelease_open (h : Tab.get? s.cmds i = some c) (hp : c.phase = .held) (ho : epochOutcome s c = .opened) :
    execHeldCommandRelease i s = .next s := by
  simp [execHeldCommandRelease, h, hp, heldOutcome_eq, ho]

theorem heldRelease_commit (h : Tab.get? s.cmds i = some c) (hp : c.phase = .held) (ho : epochOutcome s c = .committed) :
    execHeldCommandRelease i s =
      .next (startReleased { s with cmds := Tab.put s.cmds i { c with phase := .started, epoch := none } } i) := by
  simp [execHeldCommandRelease, h, hp, heldOutcome_eq, ho, releaseHeld, State.putCmd]

/-- A Bellows command of a discarded epoch ends ABORTED. -/
theorem heldRelease_abort (h : Tab.get? s.cmds i = some c) (hp : c.phase = .held) (ho : epochOutcome s c ≠ .opened)
    (hc : epochOutcome s c ≠ .committed) (he : c.engine = 0) :
    execHeldCommandRelease i s = .next { s with cmds := Tab.put s.cmds i { c with phase := .ended, result := ⟨10, 0, 0xFF, 0, 0⟩ } } := by
  simp [execHeldCommandRelease, h, hp, heldOutcome_eq, ho, hc, releaseHeld, he, endCmd, State.putCmd, startReleased, Tab.get?_put]
  rfl

/-- Only a CU.RED, a CU.BRECV and an SN.RESTORE act when they are released. -/
theorem startReleased_other (h : Tab.get? s.cmds i = some c) (h1 : c.engine ≠ 1) (h4 : c.engine ≠ 4) : startReleased s i = s := by
  simp only [startReleased, h]
  split
  · rfl
  · split
    · exact absurd ‹_› h1
    · exact absurd ‹_› h1
    · exact absurd ‹_› h4
    · rfl

end Held

/-! ### Reserved words (R39, R64) -/

section Reserved
variable {w0 w1 : BitVec 32}

theorem fld_major : fld w0.toNat 31 25 = w0.toNat / 2 ^ 25 := by
  have := w0.isLt
  unfold fld
  omega

/-- The engine number that a word names: its major, or the inner major of an extended form. -/
def innerMajor (w : Nat) : Nat := if w / 2 ^ 25 = 0x7E then w / 2 ^ 18 % 2 ^ 7 else w / 2 ^ 25

theorem reserved_absent (h : 0x75 ≤ innerMajor w0.toNat) : Decode.reserved w0.toNat w1.toNat = some (.absent (innerMajor w0.toNat)) := by
  unfold innerMajor at h ⊢
  unfold Decode.reserved
  simp only [fld_major]
  split at h
  · next he =>
    simp only [he, if_true]
    exact if_pos h
  · next hne => simp only [hne, if_false, if_pos h]

/-- The majors that R39 reserves. -/
theorem majorReserved_iff (m : Nat) : Decode.majorReserved m = true ↔
    m = 0 ∨ (0x08 ≤ m ∧ m ≤ 0x0F) ∨ (0x13 ≤ m ∧ m ≤ 0x17) ∨ (0x1C ≤ m ∧ m ≤ 0x1F) ∨ (0x3C ≤ m ∧ m ≤ 0x3F) ∨ m = 0x46 ∨ m = 0x47 ∨
      (0x53 ≤ m ∧ m ≤ 0x57) ∨ m = 0x5F ∨ m = 0x63 ∨ (0x65 ≤ m ∧ m ≤ 0x6D) := by
  simp [Decode.majorReserved, or_assoc]

/-- The words of a reserved major, of a reserved command or func, and of the extended form of the R-format major 0x01. -/
def ReservedWord (w : Nat) : Prop :=
  let major := w / 2 ^ 25
  major = 0 ∨ (0x08 ≤ major ∧ major ≤ 0x0F) ∨ (0x13 ≤ major ∧ major ≤ 0x17) ∨ (0x1C ≤ major ∧ major ≤ 0x1F) ∨
    (0x3C ≤ major ∧ major ≤ 0x3F) ∨ major = 0x46 ∨ major = 0x47 ∨ (0x53 ≤ major ∧ major ≤ 0x57) ∨ major = 0x5F ∨ major = 0x63 ∨
    (0x65 ≤ major ∧ major ≤ 0x6D) ∨ (0x70 ≤ major ∧ major ≤ 0x74 ∧ 0x10 < w % 2048) ∨ (major = 0x01 ∧ 0x15 < w % 1024) ∨
    (major = 0x7E ∧ w / 2 ^ 18 % 2 ^ 7 = 0x01)

/-- No engine assigns a command code above 0x10. -/
theorem cmdAssigned_high {m k : Nat} (h : 0x10 < k) : Decode.cmdAssigned m k = false := by
  unfold Decode.cmdAssigned
  split <;> simp <;> omega

theorem reserved_of_major (h : Decode.majorReserved (w0.toNat / 2 ^ 25) = true) : Decode.reserved w0.toNat w1.toNat = some .illegal := by
  have hm := (majorReserved_iff _).mp h
  have h7E : w0.toNat / 2 ^ 25 ≠ 0x7E := by omega
  have h75 : ¬ 0x75 ≤ w0.toNat / 2 ^ 25 := by omega
  simp only [Decode.reserved, fld_major, h7E, h75, h, if_false, if_true]

theorem reserved_of_command (hlo : 0x70 ≤ w0.toNat / 2 ^ 25) (hhi : w0.toNat / 2 ^ 25 ≤ 0x74) (hk : 0x10 < w0.toNat % 2048) :
    Decode.reserved w0.toNat w1.toNat = some .illegal := by
  have h7E : w0.toNat / 2 ^ 25 ≠ 0x7E := by omega
  have h75 : ¬ 0x75 ≤ w0.toNat / 2 ^ 25 := by omega
  have hr : ¬ Decode.majorReserved (w0.toNat / 2 ^ 25) = true := fun h => by
    have := (majorReserved_iff _).mp h
    omega
  simp only [Decode.reserved, fld_major, h7E, h75, hr, hlo, cmdAssigned_high hk, if_false, if_true, Bool.false_eq_true]

theorem reserved_of_func (hm : w0.toNat / 2 ^ 25 = 0x01) (hf : 0x15 < w0.toNat % 1024) :
    Decode.reserved w0.toNat w1.toNat = some .illegal := by
  have hfunc : Decode.funcAssigned 1 (w0.toNat % 1024) = false := decide_eq_false (by omega)
  simp only [Decode.reserved, fld_major, hm, hfunc]
  rfl

theorem reserved_of_extended (hm : w0.toNat / 2 ^ 25 = 0x7E) (hi : w0.toNat / 2 ^ 18 % 2 ^ 7 = 0x01) :
    Decode.reserved w0.toNat w1.toNat = some .illegal := by
  have hfld : fld w0.toNat 24 18 = 1 := hi
  simp only [Decode.reserved, fld_major, hm, hfld, Decode.extAssigned]
  rfl

theorem reserved_illegal (h : ReservedWord w0.toNat) : Decode.reserved w0.toNat w1.toNat = some .illegal := by
  have hcases : Decode.majorReserved (w0.toNat / 2 ^ 25) = true ∨
      (0x70 ≤ w0.toNat / 2 ^ 25 ∧ w0.toNat / 2 ^ 25 ≤ 0x74 ∧ 0x10 < w0.toNat % 2048) ∨
      (w0.toNat / 2 ^ 25 = 0x01 ∧ 0x15 < w0.toNat % 1024) ∨ (w0.toNat / 2 ^ 25 = 0x7E ∧ w0.toNat / 2 ^ 18 % 2 ^ 7 = 0x01) := by
    simp only [majorReserved_iff, or_assoc]
    exact h
  obtain hm | ⟨hlo, hhi, hk⟩ | ⟨hm, hf⟩ | ⟨hm, hi⟩ := hcases
  · exact reserved_of_major hm
  · exact reserved_of_command hlo hhi hk
  · exact reserved_of_func hm hf
  · exact reserved_of_extended hm hi

theorem reservedMajor_run {t : Tid} {s s1 : State} {r : Decode.Reserved} {v d : Nat}
    (h : Fetches t (lenOf (w0.toNat / 2 ^ 25 == 0x7E)) (w0.toNat / 2 ^ 25 == 0x7E) s s1) (hr : Decode.reserved w0.toNat w1.toNat = some r)
    (hv : raiseReserved r = raise v d 0) : execReservedMajor t w0 w1 s = .next (trapped t v d 0 (w0.toNat / 2 ^ 25 == 0x7E) s1) := by
  simp only [execReservedMajor, hr, fld_major]
  exact runInstr_trapped (i := { len := lenOf (w0.toNat / 2 ^ 25 == 0x7E), ext := w0.toNat / 2 ^ 25 == 0x7E }) h rfl rfl (by simp [hv])

end Reserved

/-- Settles O47. -/
theorem sweepHeldReserved : Obligations.SweepHeldReserved := by
  refine ⟨?_, ?_, ?_⟩
  · intro n page s ep waits swept stale
    refine ⟨fun hw => pageReencrypt_idle hw, fun hs => keySweepPage_idle hs, ?_, ?_, fun hn hs => sweepOne_left hn hs⟩
    · intro w level epa e hw he first u
      have hu : reencryptPage s n page = u := reencryptPage_leaf hw he
      exact ⟨fun h => (pageReencrypt_waits h).trans (by rw [hu]), fun hs hx => (keySweepPage_local hs hx).trans (by rw [hu])⟩
    · intro hs x hx size s1
      have hrun := keySweepPage_shadow (page := page) hs hx
      refine ⟨fun h1 h2 h3 => hrun.trans (if_pos ⟨h1, h2, h3⟩), fun h => hrun.trans (if_neg ?_)⟩
      rintro ⟨h1, h2, h3⟩
      obtain h | h | h := h
      · exact absurd h1 (by simp [h])
      · exact h2 h
      · exact Bool.false_ne_true (h3.symm.trans h)
  · intro i s c h outcome
    refine ⟨fun hp => heldRelease_other h hp, fun hp ho => heldRelease_open h hp ho, fun hp ho h1 h4 => ?_,
      fun hp ho => heldRelease_commit h hp ho, fun hp ho hc he => heldRelease_abort h hp ho hc he⟩
    rw [exec_heldCommandRelease, heldRelease_commit h hp ho]
    exact congrArg _ (startReleased_other (Tab.get?_put ..) h1 h4)
  · intro t w0 w1 s s1 major inner n h
    exact ⟨fun hn => reservedMajor_run h (reserved_absent hn) rfl, fun hr => reservedMajor_run h (reserved_illegal hr) rfl⟩

end Sys2Proof.Machine
end

/-!
PROOFS, 11. The issue of an engine command: the checks, the lowest free number, the record and the handle, and the full queue.
-/

section
namespace Sys2Proof.Machine

/-! ### Lowest numbers -/

theorem mem_upto {n k : Nat} : k ∈ upto n ↔ k < n := by
  induction n with
  | zero => simp [upto]
  | succ n ih => simp only [upto, List.mem_append, ih, List.mem_singleton]; omega

/-- The first number below a bound that meets a condition. -/
theorem find?_upto {p : Nat → Bool} {n r : Nat} (hr : r < n) (hp : p r = true) (hlow : ∀ q, q < r → p q = false) :
    (upto n).find? p = some r := by
  induction n with
  | zero => exact absurd hr (Nat.not_lt_zero r)
  | succ n ih =>
    rw [upto, List.find?_append]
    by_cases h : r < n
    · rw [ih h, Option.some_or]
    · obtain rfl : r = n := by omega
      have hnone : (upto r).find? p = none :=
        List.find?_eq_none.mpr fun q hq => by rw [hlow q (mem_upto.mp hq)]; exact Bool.false_ne_true
      rw [hnone, Option.none_or, List.find?_cons_of_pos hp]

/-! ### The parts of an issue -/

section Issue
variable {t : Tid} {rd : RIdx} {cs : PIdx} {a : CForm} {o : EngineOp} {s s1 u : State}

theorem cmdSpace_eq (engine : Nat) (th : Thread) :
    cmdSpace engine th = if engine = 3 ∨ th.dev = true then 16 else th.tenancy.val := by
  by_cases he : engine = 3 <;> simp [cmdSpace, Thread.space, he]

@[simp] theorem cmdSpace_withIter (engine : Nat) (th : Thread) (n : BitVec 32) :
    cmdSpace engine { th with iter := n } = cmdSpace engine th := rfl

@[simp] theorem argReg_withIter (th : Thread) (a : CForm) (n : BitVec 32) : argReg { th with iter := n } a = argReg th a := by
  cases a <;> simp [argReg]

theorem creatorKey_begun : creatorKey (begun t s1) t = creatorKey s1 t := by
  simp only [creatorKey, begun_th]
  rfl

theorem Auth.begun {mask : Nat} (h : Auth (s1.th t) cs mask) : Auth ((begun t s1).th t) cs mask := by
  obtain ⟨hu, hr, hm⟩ := h
  exact ⟨by simpa using hu, by simpa using hr, by simpa using hm⟩

/-- Pair cs with the permissions passes the authority of a command. -/
theorem authority_run {mask : Nat} (h : Auth (u.th t) cs mask) : authority t ((u.th t).cap cs).toCap mask u = .ok () u := by
  obtain ⟨-, hr, hm⟩ := h
  simp [authority, capUse_run hr, capPerms, hm]

@[simp] theorem syncLive_cmds (s : State) (space : Nat) : (syncLive s space).cmds = s.cmds := by
  unfold syncLive
  split
  · exact State.setTen_cmds ..
  · rfl

/-- The operands of an engine instruction carry their tags. -/
structure EngineTags (th : Thread) (o : EngineOp) (cs : PIdx) (a : CForm) : Prop where
  cap : (th.cap cs).isUnsealed = true
  arg : ∀ x ∈ argOps o th a, x.Fine

theorem EngineTags.fine {th : Thread} (h : EngineTags th o cs a) : ∀ x ∈ csOps (th.cap cs) ++ argOps o th a, x.Fine := fun x hx =>
  (List.mem_append.mp hx).elim (csOps_fine h.cap x) (h.arg x)

/-- An INT argument passes the classes that engine instructions use. -/
theorem EngineTags.of_int {th : Thread} (hc : (th.cap cs).isUnsealed = true) (hk : o.cls = .index ∨ o.cls = .count)
    (ha : match a with | .short ra => (th.g ra).tag = .int | .ext _ => True) : EngineTags th o cs a := by
  refine ⟨hc, ?_⟩
  cases a with
  | short ra =>
    intro x hx
    obtain rfl : x = argOp 7 o.cls (th.g ra) := by simpa [argOps] using hx
    have ht : (th.g ra).tag = .int := ha
    rcases hk with hk | hk <;> simp [argOp, Opnd.Fine, Opnd.bad, Opnd.traps, OpClass.accepts, hk, ht]
  | ext imm => simp [argOps]

@[simp] theorem argOps_withIter (th : Thread) (n : BitVec 32) : argOps o { th with iter := n } a = argOps o th a := by
  cases a <;> simp [argOps]

/-- Once the tags have been checked, what remains is the access or the authority through cs. -/
theorem engineChecks_run (ht : EngineTags (s1.th t) o cs a) :
    engineChecks t o cs a (begun t s1) =
      (if o.block then dataChecks t ((s1.th t).cap cs).toCap o.perms
          (intBits 64 (((s1.th t).cap cs).toCap.base + (argReg (s1.th t) a).val.toNat)) 256 256
        else if o.span (argReg (s1.th t) a).val.toNat ≠ 0 then
          dataChecks t ((s1.th t).cap cs).toCap o.perms ((s1.th t).cap cs).toCap.base (o.span (argReg (s1.th t) a).val.toNat) 1
        else authority t ((s1.th t).cap cs).toCap (Nat.lor o.perms (o.more (argReg (s1.th t) a).val.toNat))) (begun t s1) := by
  simp only [engineChecks, M.bind_run, getT_run, begun_th, cap_withIter, argOps_withIter, argReg_withIter, checkOps_fine ht.fine]

/-- A command with a block: cs covers the 256 bytes at its argument. -/
theorem engineChecks_block (ht : EngineTags (s1.th t) o cs a) (hb : o.block = true)
    (ha : Allowed (s1.th t) ((s1.th t).cap cs).toCap o.perms
      ((((s1.th t).cap cs).toCap.base + (argReg (s1.th t) a).val.toNat) % 2 ^ 64) 256 256) :
    engineChecks t o cs a (begun t s1) = .ok () (begun t s1) := by
  have hadd : ∀ x y : Nat, intBits 64 ((x : Int) + y) = (x + y) % 2 ^ 64 := fun x y => by rw [intBits]; omega
  rw [engineChecks_run ht, if_pos hb, hadd, dataChecks_run ha.begun]

/-- A command whose argument counts what cs covers from its base. -/
theorem engineChecks_span (ht : EngineTags (s1.th t) o cs a) (hb : o.block = false)
    (hx : o.span (argReg (s1.th t) a).val.toNat ≠ 0)
    (ha : Allowed (s1.th t) ((s1.th t).cap cs).toCap o.perms ((s1.th t).cap cs).toCap.base (o.span (argReg (s1.th t) a).val.toNat) 1) :
    engineChecks t o cs a (begun t s1) = .ok () (begun t s1) := by
  rw [engineChecks_run ht, if_neg (by simp [hb]), if_pos hx, dataChecks_run ha.begun]

/-- A command that touches no memory through cs. -/
theorem engineChecks_plain {mask : Nat} (ht : EngineTags (s1.th t) o cs a) (hb : o.block = false)
    (hx : o.span (argReg (s1.th t) a).val.toNat = 0) (hm : Nat.lor o.perms (o.more (argReg (s1.th t) a).val.toNat) = mask)
    (ha : Auth (s1.th t) cs mask) : engineChecks t o cs a (begun t s1) = .ok () (begun t s1) := by
  rw [engineChecks_run ht, if_neg (by simp [hb]), if_neg (not_not.mpr hx), hm]
  simpa using authority_run ha.begun

/-! ### The record -/

/-- The record of a command that a thread issues: its issuer and operands, nothing of its block yet. -/
def issuedCmd (t : Tid) (o : EngineOp) (cs : Pair) (arg : Word) (n : Nat) (s : State) : Cmd :=
  let th := s.th t
  { gen := Tab.getD s.cmdGen n 0 + 1, engine := o.engine, op := o.op, space := cmdSpace o.engine th,
    tenancy := if th.dev then 0 else th.tenancy, dev := th.dev, level := th.level.val, thread := t.val, task := creatorKey s t,
    epoch := th.epoch, seq := s.cmdSeq, cs := cs, arg := arg, block := [], blockTags := 0, blockPoison := 0, phase := .accepting,
    slots := [], entries := [], aux := [], result := .zero }

/-- The state with a new command listed. -/
def enqueued (n : Nat) (k : Cmd) (s : State) : State :=
  syncLive { s with cmds := Tab.put s.cmds n k, cmdGen := Tab.put s.cmdGen n k.gen, cmdSeq := s.cmdSeq + 1 } k.space

/-- A command takes the lowest number of its area that no live command has. -/
theorem newCmd_lowest {p : Pair} {arg : Word} {r : Nat} (hr : r < 1024)
    (hfree : Tab.get? u.cmds (cmdIndex o.engine (cmdSpace o.engine (u.th t)) r) = none)
    (hlow : ∀ q, q < r → (Tab.get? u.cmds (cmdIndex o.engine (cmdSpace o.engine (u.th t)) q)).isSome = true) :
    newCmd t o p arg u = (cmdIndex o.engine (cmdSpace o.engine (u.th t)) r,
      enqueued (cmdIndex o.engine (cmdSpace o.engine (u.th t)) r)
        (issuedCmd t o p arg (cmdIndex o.engine (cmdSpace o.engine (u.th t)) r) u) u) := by
  have hfind := find?_upto (p := fun q => (Tab.get? u.cmds (cmdIndex o.engine (cmdSpace o.engine (u.th t)) q)).isNone) hr
    (by simp [hfree]) (fun q hq => by simp [← Option.not_isSome, hlow q hq])
  rw [newCmd]
  simp only [hfind, Option.getD_some]
  rfl

theorem enqueued_get? (n : Nat) (k : Cmd) : Tab.get? (enqueued n k s).cmds n = some k := by
  rw [enqueued, syncLive_cmds]
  exact Tab.get?_put ..

theorem issuedCmd_begun (p : Pair) (arg : Word) (n : Nat) : issuedCmd t o p arg n (begun t s1) = issuedCmd t o p arg n s1 := by
  simp only [issuedCmd, creatorKey_begun, begun_th]
  rfl

/-! ### The instruction -/

/-- The state in which a thread waits with nothing done: it keeps its instruction, and its PC stays on it. -/
def waitingState (t : Tid) (w : WaitOn) (i : InstrInfo) (s : State) : State :=
  setWaiting (markStop (begun t s) t i.pfx i.ext) t w i.self

theorem waitingState_facts (w : WaitOn) (i : InstrInfo) : let u := waitingState t w i s1
    (u.th t).status = .waiting w ∧ (u.th t).waitsWith = i.self ∧ (u.th t).pc = (s1.th t).pc ∧ (u.th t).regs = (s1.th t).regs := by
  simp [waitingState, setWaiting, markStop]

theorem runInstr_waits {i : InstrInfo} {body : M Unit} {w : WaitOn} (h : Fetches t i.len i.ext s s1) (hr : i.resumable = false)
    (hb : body (begun t s1) = .error (.wait w) (begun t s1)) : runInstr t i (plain body) s = .next (waitingState t w i s1) := by
  rw [runInstr_run h, hr, startState_begun, plain_run, hb]
  rfl

/-- The meaning of an engine instruction, apart from its form. -/
def engineMeaning (t : Tid) (o : EngineOp) (rd : RIdx) (cs : PIdx) (a : CForm) (acc : Nat → State → State) : M Unit := do
  engineChecks t o cs a
  let s1 ← getS
  let th ← getT t
  if queueFull s1 o.engine (cmdSpace o.engine th) t.val then waitFor .engineQueue
  let i ← runS (newCmd t o (th.cap cs) (argReg th a).val)
  let s2 ← getS
  (Tab.get? s2.cmds i).elim (pure ()) (fun c => do
    wr t rd ⟨cmdHandle c i, .handle⟩
    modS (acc i))

theorem engineInstr_eq (acc : Nat → State → State) : engineInstr t o rd cs a acc s =
    runInstr t { len := lenOf a.isExt, ext := a.isExt, self := some (.engine (o.engine * 4096 + o.op) rd cs a) }
      (plain (engineMeaning t o rd cs a acc)) s := by
  have helim : ∀ (x : Option Cmd) (f : Cmd → M Unit), (match x with | some c => f c | none => pure ()) = x.elim (pure ()) f :=
    fun x f => by cases x <;> rfl
  cases a <;> simp only [engineInstr, engineMeaning, ← helim] <;> rfl

/-- With room the command is enqueued, its handle written, and the engine takes it up. -/
theorem engineInstr_enqueued {acc : Nat → State → State} {n : Nat} {k : Cmd} (h : Fetches t (lenOf a.isExt) a.isExt s s1)
    (hc : engineChecks t o cs a (begun t s1) = .ok () (begun t s1))
    (hq : queueFull (begun t s1) o.engine (cmdSpace o.engine (s1.th t)) t.val = false)
    (hn : newCmd t o ((s1.th t).cap cs) (argReg (s1.th t) a).val (begun t s1) = (n, enqueued n k (begun t s1))) :
    let s2 := enqueued n k (begun t s1)
    let s3 := acc n (s2.setTh t ((s2.th t).write rd ⟨cmdHandle k n, .handle⟩))
    engineInstr t o rd cs a acc s = .next (done t (lenOf a.isExt) s3 (s3.th t)) := by
  intro s2 s3
  have hbody : plain (engineMeaning t o rd cs a acc) (startState t false s1) = .ok none s3 := by
    rw [startState_begun, plain_run]
    simp only [engineMeaning, M.bind_run, hc, getS_run, getT_run, begun_th, cmdSpace_withIter, hq, Bool.false_eq_true, if_false,
      runS_run, cap_withIter, argReg_withIter, hn, enqueued_get?]
    rfl
  rw [engineInstr_eq, runInstr_ok (i := { len := lenOf a.isExt, ext := a.isExt, self := _ }) h hbody, advance_none]

/-- On a full queue the thread waits on the instruction, with nothing enqueued. -/
theorem engineInstr_full {acc : Nat → State → State} (h : Fetches t (lenOf a.isExt) a.isExt s s1)
    (hc : engineChecks t o cs a (begun t s1) = .ok () (begun t s1))
    (hq : queueFull (begun t s1) o.engine (cmdSpace o.engine (s1.th t)) t.val = true) :
    ∃ u, engineInstr t o rd cs a acc s = .next u ∧ (u.th t).status = .waiting .engineQueue ∧
      (u.th t).waitsWith = some (.engine (o.engine * 4096 + o.op) rd cs a) ∧ (u.th t).pc = (s1.th t).pc ∧
      (u.th t).regs = (s1.th t).regs ∧ u.cmds = s1.cmds := by
  have hwait : engineMeaning t o rd cs a acc (begun t s1) = .error (.wait .engineQueue) (begun t s1) := by
    simp only [engineMeaning, M.bind_run, hc, getS_run, getT_run, begun_th, cmdSpace_withIter, hq, if_true, waitFor_run]
  obtain ⟨hstatus, hself, hpc, hregs⟩ := waitingState_facts (t := t) (s1 := s1) .engineQueue
    { len := lenOf a.isExt, ext := a.isExt, self := some (.engine (o.engine * 4096 + o.op) rd cs a) }
  exact ⟨_, (engineInstr_eq acc).trans (runInstr_waits h rfl hwait), hstatus, hself, hpc, hregs, rfl⟩

/-- A row of the statement's tables: an instruction is the issue of o, and is issued again as such (R66). -/
structure IssuedAs (t : Tid) (rd : RIdx) (cs : PIdx) (a : CForm) (o : EngineOp) (row : Instr × Nat × Nat × Nat × (Nat → State → State)) :
    Prop where
  engine : row.2.1 = o.engine
  op : row.2.2.1 = o.op
  small : o.op < 4096
  exec : ∀ s, exec row.1 s = engineInstr t o rd cs a row.2.2.2.2 s
  again : ∀ s, engineAgain t o.engine o.op rd cs a s = engineInstr t o rd cs a row.2.2.2.2 s

/-- A thread that waits on a full queue issues its instruction again. -/
theorem engineQueueEnqueue_again {row : Instr × Nat × Nat × Nat × (Nat → State → State)} (hrow : IssuedAs t rd cs a o row)
    (hs : (s.th t).status = .waiting .engineQueue) (hw : (s.th t).waitsWith = some (.engine (row.2.1 * 4096 + row.2.2.1) rd cs a)) :
    execEngineQueueEnqueue t s = Machine.exec row.1 (s.setTh t { s.th t with status := .active, waitsWith := none }) := by
  have hdiv : (o.engine * 4096 + o.op) / 4096 = o.engine := by have := hrow.small; omega
  have hmod : (o.engine * 4096 + o.op) % 4096 = o.op := by have := hrow.small; omega
  rw [hrow.engine, hrow.op] at hw
  rw [hrow.exec, ← hrow.again, execEngineQueueEnqueue]
  simp only [hs, hw, hdiv, hmod, ne_eq, not_true_eq_false, if_false]

/-- PG.SET asks REMOTE too where the place of its argument is remote. -/
theorem pgSet_perms {x : Nat} (hx : x < 2 ^ 64) : Nat.lor (geOp 16 permST).perms (if fld x 63 61 = 2 then permREMOTE else 0) =
    if x / 2 ^ 61 = 2 then 0x0B02 else 0x0902 := by
  have hfld : fld x 63 61 = x / 2 ^ 61 := by rw [fld]; omega
  rw [hfld]
  split <;> rfl

/-- PG.SET is taken up as soon as it is issued. -/
theorem execPgSet_eq (s : State) : execPgSet t rd cs a s =
    engineInstr t { geOp 16 permST with more := fun x => if fld x 63 61 = 2 then permREMOTE else 0 } rd cs a
      (fun n x => (Tab.get? x.cmds n).elim x (fun c => x.putCmd n { c with phase := .started })) s := by
  have helim : ∀ (y : Option Cmd) (z : State) (f : Cmd → State), (match y with | some c => f c | none => z) = y.elim z f :=
    fun y z f => by cases y <;> rfl
  simp only [execPgSet, ← helim] <;> rfl

end Issue

/-- Settles O42: every row of the tables is the issue of one `EngineOp`; its checks pass, and the queue has room or not. -/
theorem engineIssue : Obligations.EngineIssue := by
  unfold Obligations.EngineIssue
  intro t rd cs a ext started blockRows plainRows sched set
  have hblock : ∀ row ∈ blockRows, ∃ o : EngineOp, IssuedAs t rd cs a o row ∧ o.block = true ∧ o.cls = .index ∧ o.perms = row.2.2.2.1 := by
    simp only [blockRows, List.forall_mem_cons, List.not_mem_nil, false_imp_iff, implies_true, and_true]
    refine ⟨⟨bellowsOp 0, ?_⟩, ⟨bellowsOp 1, ?_⟩, ⟨bellowsOp 2, ?_⟩, ⟨bellowsOp 3, ?_⟩, ⟨bellowsOp 4, ?_⟩, ⟨bellowsOp 5, ?_⟩,
      ⟨bellowsOp 6, ?_⟩, ⟨bellowsOp 16, ?_⟩, ⟨cuOp 0 permREMOTE, ?_⟩, ⟨cuOp 1 0, ?_⟩, ⟨cuOp 2 0, ?_⟩, ⟨cuOp 3 0, ?_⟩, ⟨cuOp 4 0, ?_⟩,
      ⟨sfOp 0, ?_⟩, ⟨sfOp 1, ?_⟩, ⟨sfOp 2, ?_⟩, ⟨sfOp 3, ?_⟩, ⟨sfOp 4, ?_⟩, ⟨sfOp 5, ?_⟩, ⟨snOp 0, ?_⟩, ⟨snOp 1, ?_⟩, ⟨snOp 2, ?_⟩⟩ <;>
    exact ⟨⟨rfl, rfl, by decide, fun _ => rfl, fun _ => rfl⟩, rfl, rfl, rfl⟩
  have hplain : ∀ row ∈ plainRows, ∃ o : EngineOp, IssuedAs t rd cs a o row ∧ o.block = false ∧ o.cls = .index ∧
      (∀ x, o.span x = 0) ∧ (∀ x, o.more x = 0) ∧ o.perms = row.2.2.2.1 := by
    simp only [plainRows, List.forall_mem_cons, List.not_mem_nil, false_imp_iff, implies_true, and_true]
    refine ⟨⟨geOp 1 (permLD + permREMOTE), ?_⟩, ⟨geOp 2 permLD, ?_⟩⟩ <;>
    exact ⟨⟨rfl, rfl, by decide, fun _ => rfl, fun _ => rfl⟩, rfl, rfl, fun _ => rfl, fun _ => rfl, rfl⟩
  have hsched : IssuedAs t rd cs a { geOp 0 permLD with cls := .count, span := fun x => 64 * x } sched :=
    ⟨rfl, rfl, by decide, fun _ => rfl, fun _ => rfl⟩
  have hset : IssuedAs t rd cs a { geOp 16 permST with more := fun x => if fld x 63 61 = 2 then permREMOTE else 0 } set :=
    ⟨rfl, rfl, by decide, execPgSet_eq, execPgSet_eq⟩
  refine ⟨?_, ?_⟩
  · intro s s1 h th b c arg x tags issues htags
    obtain ⟨hcap, harg⟩ := htags
    have hargv : arg = (argReg (s1.th t) a).val := by cases a <;> rfl
    have htags : ∀ o : EngineOp, o.cls = .index ∨ o.cls = .count → EngineTags (s1.th t) o cs a := fun o ho =>
      .of_int hcap ho (by cases a with | short ra => exact harg | ext imm => trivial)
    have hissue : ∀ (o : EngineOp) (row : Instr × Nat × Nat × Nat × (Nat → State → State)), IssuedAs t rd cs a o row →
        engineChecks t o cs a b = .ok () b → issues row := by
      rintro o ⟨i, engine, op, perms, acc⟩ ⟨rfl, rfl, -, hex, -⟩ hc
      simp only [issues, ← cmdSpace_eq]
      refine ⟨fun hfull r hr hfree hlow => ?_, fun hfull => hex s ▸ engineInstr_full h hc hfull⟩
      have hn := newCmd_lowest (t := t) (u := b) (o := o) (p := (s1.th t).cap cs) (arg := arg) hr
        (by rw [begun_th]; exact hfree) (by rw [begun_th]; exact hlow)
      simp only [b, begun_th, cmdSpace_withIter, issuedCmd_begun, hargv] at hn
      exact ⟨issuedCmd t o ((s1.th t).cap cs) arg _ s1, rfl, rfl, rfl, rfl, rfl, rfl, rfl, rfl, rfl, rfl, rfl, rfl, rfl, rfl, rfl, rfl, rfl,
        (hex s).trans (hargv ▸ engineInstr_enqueued h hc hfull hn)⟩
    refine ⟨?_, ?_, ?_, ?_, ?_⟩
    · intro row hrow hall
      obtain ⟨o, ho, hb, hk, hp⟩ := hblock row hrow
      exact hissue o row ho (engineChecks_block (htags o (.inl hk)) hb (by rw [hp, ← hargv]; exact hall))
    · intro row hrow hauth
      obtain ⟨o, ho, hb, hk, hspan, hmore, hp⟩ := hplain row hrow
      exact hissue o row ho (engineChecks_plain (htags o (.inl hk)) hb (hspan _) (by rw [hmore, hp]; exact Nat.or_zero _) hauth)
    · intro hx hall
      have hspan : 64 * arg.toNat ≠ 0 := by have hx' : 0 < arg.toNat := hx; omega
      rw [hargv] at hspan
      exact hissue _ sched hsched (engineChecks_span (htags _ (.inr rfl)) rfl hspan (hargv ▸ hall))
    · intro hx hauth
      have hspan : 64 * arg.toNat = 0 := by have hx' : arg.toNat = 0 := hx; omega
      rw [hargv] at hspan
      exact hissue _ sched hsched (engineChecks_plain (htags _ (.inr rfl)) rfl hspan (Nat.or_zero 0x0901) hauth)
    · intro hauth
      have hperms := pgSet_perms arg.isLt
      rw [hargv] at hperms
      exact hissue _ set hset (engineChecks_plain (htags _ (.inl rfl)) rfl rfl hperms (hargv ▸ hauth))
  · intro s engine op hs hw row hrow he hop
    subst he hop
    have hall : ∃ o : EngineOp, IssuedAs t rd cs a o row := by
      rcases List.mem_append.mp hrow with hrow | hrow
      · rcases List.mem_append.mp hrow with hrow | hrow
        · exact (hblock row hrow).imp fun _ ho => ho.1
        · exact (hplain row hrow).imp fun _ ho => ho.1
      · rcases List.mem_pair.mp hrow with rfl | rfl
        · exact ⟨_, hsched⟩
        · exact ⟨_, hset⟩
    obtain ⟨o, ho⟩ := hall
    exact engineQueueEnqueue_again ho hs hw

end Sys2Proof.Machine
end

/-!
PROOFS, 12. Hand-off channels: the operands and handles of the CH instructions, what a channel holds after each, and the arrival of a block.
-/

section
namespace Sys2Proof.Machine

/-! ### The lowest free key -/

/-- The search for a free key ends at one, unless every key it looked at is taken. -/
theorem Tab.free_spec {α : Type} (t : Tab α) (f i : Nat) :
    Tab.get? t (Tab.free t f i) = none ∨ ∀ j, i ≤ j → j < i + f → ∃ v, Tab.get? t j = some v := by
  induction f generalizing i with
  | zero => exact .inr fun j h1 h2 => by omega
  | succ f ih =>
    cases hi : Tab.get? t i with
    | none => exact .inl (by simp only [Tab.free, hi])
    | some v =>
      refine (ih (i + 1)).imp (fun h => by simpa only [Tab.free, hi] using h) (fun h j h1 h2 => ?_)
      by_cases hj : j = i
      · exact ⟨v, hj ▸ hi⟩
      · exact h j (by omega) (by omega)

/-- A table of n entries has a free key among the first n + 1. -/
theorem Tab.get?_lowestFree {α : Type} (t : Tab α) : Tab.get? t (Tab.lowestFree t) = none := by
  refine (Tab.free_spec t (t.length + 1) 0).resolve_right fun h => ?_
  have hsub : Finset.range (t.length + 1) ⊆ (t.map Prod.fst).toFinset := fun j hj => by
    obtain ⟨v, hv⟩ := h j (Nat.zero_le j) (by simpa using hj)
    exact List.mem_toFinset.mpr (List.mem_map.mpr ⟨(j, v), Tab.mem_of_get? hv, rfl⟩)
  have hcard := (Finset.card_le_card hsub).trans (List.toFinset_card_le _)
  simp at hcard

/-! ### Operands and handles -/

section Channels
variable {t : Tid} {rd rx r : RIdx} {cs : PIdx} {s s1 u : State} {c : Chan}

theorem int_arg_fine {x : Reg} (h : x.tag = .int) (slot : Nat) : (argOp slot .index x).Fine := by
  simp [argOp, Opnd.Fine, Opnd.bad, Opnd.traps, OpClass.accepts, h]

theorem handle_arg_fine {x : Reg} (h : x.tag = .handle) (slot : Nat) : (argOp slot .handle x).Fine := by
  simp [argOp, Opnd.Fine, Opnd.bad, Opnd.traps, OpClass.accepts, h]

/-- With authority and operands that carry their tags an instruction starts. -/
theorem taskStart_run {os : List Opnd} {mask : Nat} (ha : Auth (s1.th t) cs mask) (ho : ∀ o ∈ os, o.Fine) :
    taskStart t cs os mask (begun t s1) = .ok () (begun t s1) := by
  have hops : ∀ o ∈ csOps ((s1.th t).cap cs) ++ os, o.Fine := fun o h => (List.mem_append.mp h).elim (csOps_fine ha.1 o) (ho o)
  have hauth := authority_run ha.begun
  simp only [begun_th, cap_withIter] at hauth
  simp only [taskStart, M.bind_run, getT_run, begun_th, cap_withIter, checkOps_fine hops, hauth]

/-- A handle of a kind that the instruction takes, of the thread's tenancy (R110). -/
theorem handleKind_run {w : Word} {kinds : List Nat} (hk : kinds.contains (handleOf w).kind = true)
    (ht : handleTenancyOk (s1.th t) (handleOf w) = true) : handleKind t w kinds (begun t s1) = .ok (handleOf w) (begun t s1) := by
  have ht' : handleTenancyOk ((begun t s1).th t) (handleOf w) = true := by rw [begun_th]; exact ht
  simp only [handleKind, M.bind_run, getT_run, hk, ht', Bool.not_true, Bool.or_self, Bool.false_eq_true, if_false, M.pure_run]

/-- Register r names the live hand-off channel c of the thread's tenancy, and cs gives CHAN. -/
structure NamesChan (t : Tid) (cs : PIdx) (r : RIdx) (s1 : State) (c : Chan) : Prop where
  auth : Auth (s1.th t) cs 0x2000
  tag : ((s1.th t).g r).tag = .handle
  kind : (handleOf ((s1.th t).g r).val).kind = 3
  tenancy : handleTenancyOk (s1.th t) (handleOf ((s1.th t).g r).val) = true
  live : liveChan s1 (handleOf ((s1.th t).g r).val) = some c

theorem NamesChan.get? (h : NamesChan t cs r s1 c) : Tab.get? s1.chans (handleOf ((s1.th t).g r).val).index = some c := by
  have hl := h.live
  unfold liveChan at hl
  split at hl
  · split at hl
    · next hg => split at hl <;> simp_all
    · simp at hl
  · simp at hl

theorem NamesChan.kindRun (h : NamesChan t cs r s1 c) {kinds : List Nat} (hk : kinds.contains 3 = true) :
    handleKind t ((s1.th t).g r).val kinds (begun t s1) = .ok (handleOf ((s1.th t).g r).val) (begun t s1) :=
  handleKind_run (h.kind ▸ hk) h.tenancy

theorem NamesChan.liveBegun (h : NamesChan t cs r s1 c) : liveChan (begun t s1) (handleOf ((s1.th t).g r).val) = some c := h.live

/-- CH.SEND and CH.RECV find the channel. -/
theorem NamesChan.start (h : NamesChan t cs r s1 c) (hx : ((s1.th t).g rx).tag = .int) :
    chStart t cs ((s1.th t).g rx) ((s1.th t).g r) (begun t s1) = .ok ((handleOf ((s1.th t).g r).val).index, c) (begun t s1) := by
  have ho : ∀ o ∈ [argOp 6 .index ((s1.th t).g rx), argOp 9 .handle ((s1.th t).g r)], o.Fine :=
    List.forall_mem_cons.mpr ⟨int_arg_fine hx 6, List.forall_mem_singleton.mpr (handle_arg_fine h.tag 9)⟩
  have hmask : permCHAN = 0x2000 := rfl
  simp only [chStart, theChan, M.bind_run, hmask, taskStart_run h.auth ho, h.kindRun (kinds := [3]) rfl, getS_run, h.liveBegun, M.pure_run]

/-- An instruction that starts anew and ends without a jump. -/
theorem runInstr_done {i : InstrInfo} {body : M Unit} {s2 : State} (h : Fetches t i.len i.ext s s1) (hr : i.resumable = false)
    (hb : body (begun t s1) = .ok () s2) : runInstr t i (plain body) s = .next (done t i.len s2 (s2.th t)) := by
  rw [runInstr_ok h (target := none) (s2 := s2), advance_none]
  rw [hr, startState_begun, plain_run, hb]

/-- One that only writes a register beside what it does outside the thread. -/
theorem runInstr_wrote {i : InstrInfo} {body : M Unit} {x : State} {v : Reg} (h : Fetches t i.len i.ext s s1) (hr : i.resumable = false)
    (hb : body (begun t s1) = wr t rd v (begun t x)) : runInstr t i (plain body) s = .next (done t i.len x ((x.th t).write rd v)) := by
  rw [wr_run, begun_setTh, begun_th, write_iter] at hb
  rw [runInstr_done h hr hb, State.th_setTh, done_setTh t i.len x { (x.th t).write rd v with iter := 0 } _ rfl, done_iter]

/-! ### HCHK -/

theorem g_begun : ((begun t s1).th t).g r = (s1.th t).g r := by rw [begun_th, g_withIter]

/-- The iteration counter is no part of what makes a handle live. -/
theorem handleLive_begun (w : Word) : handleLive (begun t s1) ((begun t s1).th t) w = handleLive s1 (s1.th t) w := by
  have hu : ∀ u : Tid, ((begun t s1).th u).group = (s1.th u).group ∧ ((begun t s1).th u).dev = (s1.th u).dev ∧
      ((begun t s1).th u).tenancy = (s1.th u).tenancy := fun u => by
    by_cases htu : t = u
    · subst htu
      simp
    · simp [begun, State.th_setTh_ne _ _ _ _ htu]
  obtain ⟨hgroup, hdev, hten⟩ := hu (tidOf (handleOf w).index)
  simp only [handleLive, hgroup, hdev, hten, begun_th]
  rfl

theorem hchk_live (h : Fetches t 4 false s s1) (ht : ((s1.th t).g r).tag = .int)
    (hl : handleLive s1 (s1.th t) ((s1.th t).g r).val = true) :
    exec (.hchk t rd r) s = .next (done t 4 s1 ((s1.th t).write rd ⟨((s1.th t).g r).val, .handle⟩)) := by
  have hfine : ∀ o ∈ [(⟨8, .count, (s1.th t).g r, false, none, 0⟩ : Opnd)], o.Fine := List.forall_mem_singleton.mpr (count_fine ht 8)
  refine simple_write h ?_
  simp only [M.bind_run, greg_run, g_begun, checkOps_fine hfine, getS_run, getT_run, ht, handleLive_begun, hl, if_true]
  rfl

theorem hchk_dead (h : Fetches t 4 false s s1) (ht : ((s1.th t).g r).tag = .int)
    (hl : handleLive s1 (s1.th t) ((s1.th t).g r).val = false) : exec (.hchk t rd r) s = .next (trapped t 5 0xB 0 false s1) := by
  have hfine : ∀ o ∈ [(⟨8, .count, (s1.th t).g r, false, none, 0⟩ : Opnd)], o.Fine := List.forall_mem_singleton.mpr (count_fine ht 8)
  refine simple_trapped h ?_
  simp only [M.bind_run, greg_run, g_begun, checkOps_fine hfine, getS_run, getT_run, ht, handleLive_begun, hl]
  rfl

/-! ### CH.SEND and CH.RECV -/

theorem Tab.get?_append {α : Type} (a b : Tab α) (i : Nat) : Tab.get? (a ++ b) i = (Tab.get? a i).or (Tab.get? b i) := by
  induction a with
  | nil => simp [Tab.get?]
  | cons e a ih => by_cases he : i = e.1 <;> simp [Tab.get?, he, ih]

theorem Tab.get?_upto {α : Type} (f : Nat → α) {n k : Nat} (hk : k < n) : Tab.get? ((upto n).map (fun i => (i, f i))) k = some (f k) := by
  induction n with
  | zero => exact absurd hk (Nat.not_lt_zero k)
  | succ n ih =>
    rw [upto, List.map_append, Tab.get?_append]
    by_cases h : k < n
    · rw [ih h, Option.some_or]
    · obtain rfl : k = n := by omega
      have hnone : Tab.get? ((upto k).map (fun i => (i, f i))) k = none := by
        cases hv : Tab.get? ((upto k).map (fun i => (i, f i))) k with
        | none => rfl
        | some v =>
          obtain ⟨i, hi, he⟩ := List.mem_map.mp (Tab.mem_of_get? hv)
          have := mem_upto.mp hi
          simp_all
      simp [hnone, Tab.get?]

/-- The block that CH.SEND takes from a tile. -/
def sentBlock (v : Tile) : Block := ⟨v.rows, v.rowBytes, (upto v.rows).map (fun k => (k, v.row k)), false⟩

theorem sentBlock_row (v : Tile) {k : Nat} (hk : k < v.rows) : Tab.getD (sentBlock v).data k ⟨0, 0⟩ = v.row k := by
  rw [Tab.getD, sentBlock, Tab.get?_upto v.row hk, Option.getD_some]

/-- The number in rx is that of a member of the thread's group. -/
theorem chTile_run {p : Nat} (hg : ∃ g, (s1.th t).group = some g ∧ p ∈ g.members) : chTile t p (begun t s1) = .ok p (begun t s1) := by
  obtain ⟨g, hg, hp⟩ := hg
  have hmem : g.members.contains p = true := List.contains_iff_mem.mpr hp
  simp only [chTile, theGroup, M.bind_run, getT_run, begun_th, hg, M.pure_run, hmem, if_true]

theorem getTile_begun (p : Nat) : getTile t p (begun t s1) = .ok ((s1.core t.core).tile p) (begun t s1) := rfl

/-- A halted channel answers ABORTED (R125). -/
theorem chSend_halted (h : Fetches t 4 false s s1) (hn : NamesChan t cs r s1 c) (hx : ((s1.th t).g rx).tag = .int) (hc : c.halted = true) :
    exec (.chSend t rd cs rx r) s = .next (done t 4 s1 ((s1.th t).write rd ⟨BitVec.ofNat 64 10, .int⟩)) := by
  refine runInstr_wrote (i := { self := _ }) h rfl ?_
  simp only [M.bind_run, greg_run, begun_th, g_withIter, hn.start hx, hc, if_true]
  rfl

theorem chRecv_halted (h : Fetches t 4 false s s1) (hn : NamesChan t cs r s1 c) (hx : ((s1.th t).g rx).tag = .int) (hc : c.halted = true) :
    exec (.chRecv t rd cs rx r) s = .next (done t 4 s1 ((s1.th t).write rd ⟨BitVec.ofNat 64 10, .int⟩)) := by
  refine runInstr_wrote (i := { self := _ }) h rfl ?_
  simp only [M.bind_run, greg_run, begun_th, g_withIter, hn.start hx, hc, if_true]
  rfl

/-- What CH.SEND asks of the thread, its tile and the channel before it looks for a slot (R124). -/
structure MaySend (t : Tid) (rx : RIdx) (s1 : State) (c : Chan) (p : Nat) : Prop where
  tag : ((s1.th t).g rx).tag = .int
  number : ((s1.th t).g rx).val.toNat = p
  member : ∃ g, (s1.th t).group = some g ∧ p ∈ g.members
  going : c.halted = false
  opened : c.closing = false
  producer : t.core.val = c.producer
  fits : ((s1.core t.core).tile p).rows * ((s1.core t.core).tile p).rowBytes ≤ c.slotBytes
  valid : ∀ k < ((s1.core t.core).tile p).rows, ((s1.core t.core).tile p).rowValid k = true

theorem MaySend.noInvalid {p : Nat} (h : MaySend t rx s1 c p) :
    (upto ((s1.core t.core).tile p).rows).find? (fun k => !((s1.core t.core).tile p).rowValid k) = none :=
  List.find?_eq_none.mpr fun k hk => by simp [h.valid k (mem_upto.mp hk)]

/-- With a free slot the rows of the tile become the newest block (R123). -/
theorem chSend_room {p : Nat} (h : Fetches t 4 false s s1) (hn : NamesChan t cs r s1 c) (hm : MaySend t rx s1 c p)
    (hroom : c.blocks.length < c.depth) :
    exec (.chSend t rd cs rx r) s = .next (done t 4 (s1.putChan (handleOf ((s1.th t).g r).val).index
      { c with blocks := c.blocks ++ [sentBlock ((s1.core t.core).tile p)] }) ((s1.th t).write rd ⟨1, .bool⟩)) := by
  refine runInstr_wrote (i := { self := _ }) (x := s1.putChan _ _) h rfl ?_
  simp only [M.bind_run, greg_run, g_begun, hn.start hm.tag, hm.going, hm.producer, hm.number, chTile_run hm.member, getTile_begun, getT_run,
    Nat.not_lt.mpr hm.fits, hm.noInvalid, hm.opened, Nat.not_le.mpr hroom, Bool.false_eq_true, if_false, ne_eq, not_true_eq_false,
    modS_run]
  rfl

/-- Without one the thread waits (R124). -/
theorem chSend_full {p : Nat} (h : Fetches t 4 false s s1) (hn : NamesChan t cs r s1 c) (hm : MaySend t rx s1 c p)
    (hfull : c.depth ≤ c.blocks.length) :
    ∃ u, exec (.chSend t rd cs rx r) s = .next u ∧ (u.th t).status = .waiting (.channel (handleOf ((s1.th t).g r).val).index) ∧
      (u.th t).waitsWith = some (.chSend rd cs rx r) ∧ (u.th t).pc = (s1.th t).pc ∧ u.chans = s1.chans := by
  obtain ⟨hstatus, hself, hpc, -⟩ := waitingState_facts (t := t) (s1 := s1) (.channel (handleOf ((s1.th t).g r).val).index)
    { self := some (.chSend rd cs rx r) }
  refine ⟨_, runInstr_waits (i := { self := some (.chSend rd cs rx r) }) h rfl ?_, hstatus, hself, hpc, rfl⟩
  simp only [M.bind_run, greg_run, g_begun, hn.start hm.tag, hm.going, hm.producer, hm.number, chTile_run hm.member, getTile_begun,
    getT_run, Nat.not_lt.mpr hm.fits, hm.noInvalid, hm.opened, hfull, Bool.false_eq_true, if_false, if_true, ne_eq, not_true_eq_false,
    waitFor_run]

/-- What CH.RECV asks of the thread, its tile and the channel (R124, R180). -/
structure MayReceive (t : Tid) (rx : RIdx) (s1 : State) (c : Chan) (p : Nat) (b : Block) : Prop where
  tag : ((s1.th t).g rx).tag = .int
  number : ((s1.th t).g rx).val.toNat = p
  member : ∃ g, (s1.th t).group = some g ∧ p ∈ g.members
  going : c.halted = false
  opened : c.closing = false
  consumer : t.core.val = c.consumer
  landed : b.landed = true
  rows : b.rows = ((s1.core t.core).tile p).rows
  rowBytes : b.rowBytes = ((s1.core t.core).tile p).rowBytes
  free : tileBusy (s1.core t.core) p = false

/-- The tile that CH.RECV writes. -/
def receivedTile (v : Tile) (b : Block) : Tile := { v with data := b.data, valid := BitVec.ofNat 128 (2 ^ b.rows - 1) }

theorem receivedTile_valid (v : Tile) (b : Block) {k : Nat} (hk : k < 128) : (receivedTile v b).rowValid k = decide (k < b.rows) := by
  rw [receivedTile, Tile.rowValid, BitVec.toNat_ofNat, Nat.testBit_mod_two_pow, Nat.testBit_two_pow_sub_one, decide_eq_true hk, Bool.true_and]

theorem putTile_tile (s : State) (k : CoreId) (p : Nat) (v : Tile) :
    Core.tile ((s.setCore k { s.core k with tiles := Tab.put (s.core k).tiles p v }).core k) p = v := by
  rw [State.core_setCore]
  exact Tab.getD_put ..

/-- The oldest block that has landed moves into the tile, and its slot is free (R123). -/
theorem chRecv_landed {p : Nat} {b : Block} {bs : List Block} (h : Fetches t 4 false s s1) (hn : NamesChan t cs r s1 c)
    (hb : c.blocks = b :: bs) (hm : MayReceive t rx s1 c p b) :
    exec (.chRecv t rd cs rx r) s = .next (done t 4
      ((s1.setCore t.core { s1.core t.core with
        tiles := Tab.put (s1.core t.core).tiles p (receivedTile ((s1.core t.core).tile p) b) }).putChan
          (handleOf ((s1.th t).g r).val).index { c with blocks := bs }) ((s1.th t).write rd ⟨1, .bool⟩)) := by
  have hwait : waitTile t p (begun t s1) = .ok () (begun t s1) := by
    have hf : tileBusy ((begun t s1).core t.core) p = false := hm.free
    simp only [waitTile, M.bind_run, getC_run, hf, Bool.false_eq_true, if_false, M.pure_run]
  refine runInstr_wrote (i := { self := _ }) (x := State.putChan _ _ _) h rfl ?_
  simp only [M.bind_run, greg_run, g_begun, hn.start hm.tag, hm.going, hm.consumer, hm.number, chTile_run hm.member, getTile_begun, getT_run,
    hb, hm.landed, eq_true hm.rows, eq_true hm.rowBytes, hm.opened, hwait, Bool.not_true, Bool.false_and, Bool.false_eq_true, if_false, ne_eq,
    not_true_eq_false, modS_run]
  rfl

/-! ### CH.CUE and CH.CLOSE -/

/-- As `runInstr_wrote`, for an instruction without a kept form. -/
theorem simple_wrote {body : M Unit} {x : State} {v : Reg} (h : Fetches t 4 false s s1) (hb : body (begun t s1) = wr t rd v (begun t x)) :
    simple t body s = .next (done t 4 x ((x.th t).write rd v)) :=
  runInstr_wrote (i := { len := lenOf false, ext := false }) h rfl hb

/-- CH.CUE binds the task (R123). -/
theorem chCue_bound {k : Task} (h : Fetches t 4 false s s1) (hn : NamesChan t cs r s1 c) (hx : ((s1.th t).g rx).tag = .handle)
    (hk : (handleOf ((s1.th t).g rx).val).kind = 1) (ht : handleTenancyOk (s1.th t) (handleOf ((s1.th t).g rx).val) = true)
    (hl : liveTask s1 (handleOf ((s1.th t).g rx).val) = some k) (hc : c.halted = false) :
    exec (.chCue t rd cs rx r) s = .next (done t 4 (s1.putChan (handleOf ((s1.th t).g r).val).index
      { c with task := some ((s1.th t).g rx).val }) ((s1.th t).write rd ⟨1, .bool⟩)) := by
  have ho : ∀ o ∈ [argOp 6 .handle ((s1.th t).g rx), argOp 9 .handle ((s1.th t).g r)], o.Fine :=
    List.forall_mem_cons.mpr ⟨handle_arg_fine hx 6, List.forall_mem_singleton.mpr (handle_arg_fine hn.tag 9)⟩
  have hmask : permCHAN = 0x2000 := rfl
  have hkind := handleKind_run (kinds := [1]) (by rw [hk]; rfl) ht
  have hlive : liveTask (begun t s1) (handleOf ((s1.th t).g rx).val) = some k := hl
  refine simple_wrote (x := s1.putChan _ _) h ?_
  simp only [theTask, M.bind_run, greg_run, g_begun, hmask, taskStart_run hn.auth ho, hkind, hn.kindRun (kinds := [3, 4]) rfl, getS_run, hlive,
    hn.liveBegun, M.pure_run, hc, Bool.false_eq_true, if_false, modS_run]
  rfl

/-- A channel that has been asked to close: gone when it is empty (R123). -/
def closedChan (s : State) (i : Nat) (c : Chan) : State :=
  if c.blocks.isEmpty then freeChan s i c else s.putChan i { c with closing := true }

theorem closedChan_begun (i : Nat) : closedChan (begun t s1) i c = begun t (closedChan s1 i c) := by
  by_cases he : c.blocks.isEmpty = true <;> simp only [closedChan, he] <;> rfl

theorem closedChan_th (i : Nat) : (closedChan s1 i c).th t = s1.th t := by
  by_cases he : c.blocks.isEmpty = true <;> simp only [closedChan, he] <;> rfl

theorem closedChan_get? (i : Nat) :
    Tab.get? (closedChan s1 i c).chans i = if c.blocks = [] then none else some { c with closing := true } := by
  by_cases he : c.blocks = []
  · rw [if_pos he, closedChan, he]
    exact Tab.get?_del ..
  · rw [if_neg he, closedChan, if_neg (by simpa using he)]
    exact Tab.get?_put ..

theorem chClose_closed (h : Fetches t 4 false s s1) (hn : NamesChan t cs r s1 c) (hc : c.halted = false) :
    exec (.chClose t rd cs r) s =
      .next (done t 4 (closedChan s1 (handleOf ((s1.th t).g r).val).index c) ((s1.th t).write rd ⟨1, .bool⟩)) := by
  have ho : ∀ o ∈ [argOp 9 .handle ((s1.th t).g r)], o.Fine := List.forall_mem_singleton.mpr (handle_arg_fine hn.tag 9)
  have hmask : permCHAN = 0x2000 := rfl
  have hempty : (c.blocks.isEmpty || c.halted) = c.blocks.isEmpty := by rw [hc, Bool.or_false]
  have hgoing : (c.halted = true) = False := by rw [hc]; exact eq_false Bool.false_ne_true
  refine (simple_wrote (x := closedChan s1 (handleOf ((s1.th t).g r).val).index c) h ?_).trans (by rw [closedChan_th])
  rw [← closedChan_begun]
  simp only [M.bind_run, greg_run, g_begun, hmask, taskStart_run hn.auth ho, hn.kindRun (kinds := [3, 4]) rfl, getS_run,
    hn.liveBegun, hempty, hgoing, if_false, modS_run]
  rfl

/-! ### CH.OPEN -/

/-- What lines that leave an L1 keep: the channels, and what the cores have lent. -/
structure KeepsLent (s s' : State) : Prop where
  chans : s'.chans = s.chans
  lent : ∀ d, (s'.core d).lentUnits = (s.core d).lentUnits

theorem KeepsLent.trans {a b d : State} (h1 : KeepsLent a b) (h2 : KeepsLent b d) : KeepsLent a d :=
  ⟨h2.chans.trans h1.chans, fun k => (h2.lent k).trans (h1.lent k)⟩

theorem KeepsLent.setL1 (s : State) (k : CoreId) (l : Tab CLine) : KeepsLent s (setL1 s k l) := by
  refine ⟨rfl, fun d => ?_⟩
  by_cases h : k = d
  · subst h
    simp [Machine.setL1]
  · simp [Machine.setL1, State.core_setCore_ne _ _ _ _ h]

theorem KeepsLent.writeBack (s : State) (ln : Nat) (l : CLine) : KeepsLent s (writeBack s ln l) := by
  have hk := writeBack_sliceKeep s ln l
  exact ⟨hk.chans, fun d => by simp only [State.core, hk.cores]⟩

theorem shrinkL1_keepsLent (s : State) (k : CoreId) : KeepsLent s (shrinkL1 s k) := by
  unfold shrinkL1
  generalize (s.core k).l1 = l
  induction l generalizing s with
  | nil => exact ⟨rfl, fun _ => rfl⟩
  | cons e l ih =>
    refine KeepsLent.trans ?_ (ih _)
    dsimp only
    split
    · exact (KeepsLent.setL1 s k _).trans (KeepsLent.writeBack _ e.1 e.2)
    · exact ⟨rfl, fun _ => rfl⟩

/-- What the argument of CH.OPEN asks (R122). -/
structure OpenArg (s1 : State) (th : Thread) (x producer consumer depth bytes units : Nat) : Prop where
  small : x < 2 ^ 23
  producer_eq : fld x 5 0 = producer
  consumer_eq : fld x 11 6 = consumer
  depth_eq : fld x 15 12 + 1 = depth
  bytes_eq : 512 * fld x 22 16 = bytes
  units_eq : ceilDiv (depth * bytes) 32768 = units
  producerCore : producer < 48
  consumerCore : consumer < 48
  producerMask : bit (threadMask s1 th) producer = true
  consumerMask : bit (threadMask s1 th) consumer = true
  deep : 2 ≤ depth
  slots : 1 ≤ bytes
  fits : bytes ≤ 32768
  room : (s1.core (coreOf consumer)).lentUnits + units ≤ 32

/-- The channel that CH.OPEN makes (R122, R123). -/
def openedChan (s : State) (t : Tid) (producer consumer depth bytes units : Nat) : Chan :=
  { gen := Tab.getD s.chanGen (Tab.lowestFree s.chans) 0 + 1, tenancy := (s.th t).tenancy, dev := (s.th t).dev, producer := producer,
    consumer := consumer, depth := depth, slotBytes := bytes, units := units, blocks := [], task := none, halted := false,
    closing := false, creator := some t.val, creatorTask := creatorKey s t }

/-- The state with a channel listed and its ways lent. -/
def openedState (s : State) (c : Chan) : State :=
  let k := s.core (coreOf c.consumer)
  let i := Tab.lowestFree s.chans
  shrinkL1 ({ s.setCore (coreOf c.consumer) { k with lentUnits := k.lentUnits + c.units } with
    chanGen := Tab.put s.chanGen i c.gen }.putChan i c) (coreOf c.consumer)

theorem openedState_chans : (openedState s c).chans = Tab.put s.chans (Tab.lowestFree s.chans) c :=
  (shrinkL1_keepsLent _ _).chans

theorem openedState_lent : ((openedState s c).core (coreOf c.consumer)).lentUnits = (s.core (coreOf c.consumer)).lentUnits + c.units := by
  refine ((shrinkL1_keepsLent _ _).lent _).trans ?_
  show ((s.setCore (coreOf c.consumer) _).core (coreOf c.consumer)).lentUnits = _
  rw [State.core_setCore]

theorem openedChan_begun (producer consumer depth bytes units : Nat) :
    openedChan (begun t s1) t producer consumer depth bytes units = openedChan s1 t producer consumer depth bytes units := by
  simp only [openedChan, creatorKey_begun, begun_th]
  rfl

theorem chOpen_run {producer consumer depth bytes units : Nat} (h : Fetches t 4 false s s1) (ha : Auth (s1.th t) cs 0x2000)
    (hr : ((s1.th t).g r).tag = .int) (hx : OpenArg s1 (s1.th t) ((s1.th t).g r).val.toNat producer consumer depth bytes units) :
    let c := openedChan s1 t producer consumer depth bytes units
    let u := openedState (begun t s1) c
    exec (.chOpen t rd cs r) s = .next (done t 4 u ((u.th t).write rd ⟨c.handle (Tab.lowestFree s1.chans), .handle⟩)) := by
  intro c u
  have ho : ∀ o ∈ [argOp 9 .index ((s1.th t).g r)], o.Fine := List.forall_mem_singleton.mpr (int_arg_fine hr 9)
  have hmask : permCHAN = 0x2000 := rfl
  have hhigh : fld ((s1.th t).g r).val.toNat 63 23 = 0 := by
    have := hx.small
    simp only [fld]
    omega
  have hroom : ¬ 32 < ((begun t s1).core (coreOf consumer)).lentUnits + units := Nat.not_lt.mpr hx.room
  have hbytes : bytes ≠ 0 := Nat.one_le_iff_ne_zero.mp hx.slots
  have hcond : (decide (fld ((s1.th t).g r).val.toNat 63 23 ≠ 0) || !bit (threadMask (begun t s1) ((begun t s1).th t)) producer ||
      !bit (threadMask (begun t s1) ((begun t s1).th t)) consumer || decide (48 ≤ producer) || decide (48 ≤ consumer) ||
      decide (depth < 2) || decide (bytes = 0) || decide (32768 < bytes)) = false := by
    have hm : threadMask (begun t s1) ((begun t s1).th t) = threadMask s1 (s1.th t) := by rw [begun_th]; rfl
    rw [hm, hx.producerMask, hx.consumerMask]
    simp [hhigh, hx.producerCore, hx.consumerCore, Nat.not_lt.mpr hx.deep, hx.fits, hbytes]
  rw [exec_chOpen, execChOpen]
  refine simple_done (s2 := u) h ?_ rfl
  simp only [M.bind_run, greg_run, g_begun, hmask, taskStart_run ha ho, getS_run, getT_run, hx.producer_eq, hx.consumer_eq, hx.depth_eq,
    hx.bytes_eq, hx.units_eq, hcond, hroom, Bool.false_eq_true, if_false, modS_run]
  have hbegun : openedChan (begun t s1) t producer consumer depth bytes units = c := openedChan_begun ..
  dsimp only [u]
  rw [← hbegun]
  rfl

end Channels

/-! ### The arrival of a block -/

section Arrival
variable {s : State} {i : Nat} {c : Chan} {bs cs : List Block} {b : Block}

theorem findIdx?_append {α : Type} {p : α → Bool} {l l' : List α} (h : ∀ x ∈ l, p x = false) (k : Nat) :
    findIdx? p (l ++ l') k = findIdx? p l' (k + l.length) := by
  induction l generalizing k with
  | nil => rfl
  | cons x l ih =>
    have hx : p x = false := h x List.mem_cons_self
    rw [List.cons_append, findIdx?, hx, if_neg Bool.false_ne_true, ih (fun y hy => h y (List.mem_cons_of_mem _ hy)), List.length_cons]
    congr 1
    omega

theorem modify_append_cons {α : Type} (l l' : List α) (x : α) (f : α → α) : (l ++ x :: l').modify l.length f = l ++ f x :: l' := by
  induction l with
  | nil => rfl
  | cons y l ih => rw [List.cons_append, List.length_cons, List.modify_succ_cons, ih, List.cons_append]

@[simp] theorem signalCreator_chans (s : State) (creator creatorTask : Option Nat) (vec ten : Nat) (h : Word) :
    (signalCreator s creator creatorTask vec ten h).chans = s.chans := by
  unfold signalCreator
  split
  · rfl
  · exact State.post_chans ..

/-- The channel with its oldest block that has not arrived landed. -/
def landedChan (c : Chan) (bs cs : List Block) (b : Block) : Chan := { c with blocks := bs ++ { b with landed := true } :: cs }

/-- What the arrival of a block does beyond landing it: a halt on poison, else the cue (R125). -/
theorem handoffBlockArrival_run (hc : Tab.get? s.chans i = some c) (hb : c.blocks = bs ++ b :: cs) (hbs : ∀ x ∈ bs, x.landed = true)
    (hl : b.landed = false) :
    exec (.handoffBlockArrival i) s = .next
      (if b.data.any (fun x => x.2.poison != 0) then haltChan (s.putChan i (landedChan c bs cs b)) i
       else (boundTask (s.putChan i (landedChan c bs cs b)) c.task).elim (s.putChan i (landedChan c bs cs b))
        (decCue (s.putChan i (landedChan c bs cs b)))) := by
  have hfind : findIdx? (fun x : Block => !x.landed) c.blocks 0 = some bs.length := by
    rw [hb, findIdx?_append (fun x hx => by simp [hbs x hx]), Nat.zero_add]
    simp [findIdx?, hl]
  have hget : c.blocks[bs.length]? = some b := by simp [hb]
  have hmod : c.blocks.modify bs.length (fun x => { x with landed := true }) = bs ++ { b with landed := true } :: cs := by
    rw [hb, modify_append_cons]
  rw [exec_handoffBlockArrival, execHandoffBlockArrival]
  simp only [hc, hfind, hget, hmod, landedChan]
  split
  · rfl
  · generalize boundTask _ c.task = task
    cases task <;> rfl

theorem haltChan_get? (hc : Tab.get? s.chans i = some c) (hh : c.halted = false) :
    Tab.get? (haltChan s i).chans i = some { c with halted := true } := by
  simp only [haltChan, hc, hh, Bool.false_eq_true, if_false, signalCreator_chans]
  exact Tab.get?_put ..

theorem liveTask_get? {h : HandleF} {k : Task} (hl : liveTask s h = some k) : Tab.get? s.tasks h.index = some k := by
  unfold liveTask at hl
  split at hl
  · split at hl
    · next hg => split at hl <;> simp_all
    · simp at hl
  · simp at hl

@[simp] theorem wakeLv_chans (s : State) (k : CoreId) : (wakeLv s k).chans = s.chans := by
  unfold wakeLv
  dsimp only
  split <;> rfl

@[simp] theorem wakeLv_tasks (s : State) (k : CoreId) : (wakeLv s k).tasks = s.tasks := by
  unfold wakeLv
  dsimp only
  split <;> rfl

/-- The early wake of a unit touches no channel and no cue (R120). -/
theorem preWake_facts {slot : Nat} {k : Task} (hk : Tab.get? s.tasks slot = some k) :
    (preWake s slot).chans = s.chans ∧ ∃ q, Tab.get? (preWake s slot).tasks slot = some q ∧ q.cue = k.cue := by
  have hsame : s.chans = s.chans ∧ ∃ q, Tab.get? s.tasks slot = some q ∧ q.cue = k.cue := ⟨rfl, k, hk, rfl⟩
  simp only [preWake, hk]
  split
  · cases chooseCore s (taskMask s k) false with
    | none => exact hsame
    | some n => exact ⟨wakeLv_chans .., { k with core := some n }, by rw [wakeLv_tasks]; exact Tab.get?_put .., rfl⟩
  · exact hsame

/-- A cue counter falls by one (R113). -/
theorem decCue_facts {slot : Nat} {k : Task} (hk : Tab.get? s.tasks slot = some k) (hw : k.state = .waitCue) (hpos : 0 < k.cue) :
    (decCue s slot).chans = s.chans ∧ ∃ q, Tab.get? (decCue s slot).tasks slot = some q ∧ q.cue = k.cue - 1 := by
  have hgo : (decide (k.cue = 0) || k.state != .waitCue) = false := by simp [hw, Nat.ne_of_gt hpos]
  simp only [decCue, hk, hgo, Bool.false_eq_true, if_false]
  have hput (x : State) (q : Task) (hx : x.tasks = Tab.put s.tasks slot q) (hch : x.chans = s.chans) (hq : q.cue = k.cue - 1) :
      (preWake x slot).chans = s.chans ∧ ∃ q, Tab.get? (preWake x slot).tasks slot = some q ∧ q.cue = k.cue - 1 :=
    hch ▸ hq ▸ preWake_facts (hx ▸ Tab.get?_put ..)
  split <;> exact hput _ _ rfl rfl rfl

end Arrival

theorem done_write_g (t : Tid) (len : Nat) (s : State) (th : Thread) (rd : RIdx) (v : Reg) :
    ((done t len s (th.write rd v)).th t).g rd = v := by
  rw [done, State.th_setTh]
  exact Thread.g_write ..

/-- Settles O31: each CH instruction by what it asks and what it leaves; the arrival of a block by its poison and its cue. -/
theorem handoffChannels : Obligations.HandoffChannels := by
  unfold Obligations.HandoffChannels
  intro t rd rx r cs s
  refine ⟨?_, ?_⟩
  · intro s1 h _ th w hd put
    refine ⟨fun hr => ⟨hchk_live h hr, hchk_dead h hr⟩, ?_, ?_⟩
    · intro ha hr x producer consumer depth bytes units mask hx hp hc hmp hmc hdeep hb1 hb2 hroom
      have harg : OpenArg s1 (s1.th t) ((s1.th t).g r).val.toNat producer consumer depth bytes units :=
        { small := hx, producer_eq := congrArg (· % 64) (Nat.div_one _), consumer_eq := rfl, depth_eq := rfl, bytes_eq := rfl, units_eq := rfl,
          producerCore := hp, consumerCore := hc, producerMask := (bit_eq_testBit ..).trans hmp,
          consumerMask := (bit_eq_testBit ..).trans hmc, deep := hdeep, slots := hb1, fits := hb2, room := hroom }
      refine ⟨Tab.lowestFree s1.chans, openedChan s1 t producer consumer depth bytes units, _, chOpen_run h ha hr harg,
        Tab.get?_lowestFree _, ?_, rfl, rfl, rfl, rfl, rfl, rfl, rfl, done_write_g .., openedState_lent, fun y hy => ?_⟩
      · exact (congrArg (Tab.get? · _) openedState_chans).trans (Tab.get?_put ..)
      · exact (congrArg (Tab.get? · y) openedState_chans).trans (Tab.get?_put_ne _ _ _ _ hy)
    · intro c ha hr hk hten hl p tile mine whole
      have hn : NamesChan t cs r s1 c := ⟨ha, hr, hk, hten, hl⟩
      refine ⟨fun hc hx => ⟨chSend_halted h hn hx hc, chRecv_halted h hn hx hc⟩, ?_, ?_, ?_, ?_⟩
      · intro hc hcl hprod ⟨hx, _, hg⟩ ⟨hfit, hvalid⟩
        have hm : MaySend t rx s1 c p := ⟨hx, rfl, hg, hc, hcl, hprod, hfit, hvalid⟩
        refine ⟨fun hroom => ?_, chSend_full h hn hm⟩
        refine ⟨_, _, sentBlock tile, chSend_room h hn hm hroom, done_write_g .., Tab.get?_put .., rfl, rfl, rfl, rfl,
          fun k hk => sentBlock_row tile hk, rfl, fun q hstatus hwith hq => ?_⟩
        rw [exec_channelSlotReady, execChannelSlotReady]
        simp only [hstatus, hwith]
        rw [← hq]
        exact chSend_room h hn hm hroom
      · intro b bs hc hcl hcons ⟨hx, _, hg⟩ hb hland hrows hbytes hfree
        have hm : MayReceive t rx s1 c p b := ⟨hx, rfl, hg, hc, hcl, hcons, hland, hrows, hbytes, hfree⟩
        refine ⟨_, receivedTile tile b, chRecv_landed h hn hb hm, done_write_g .., Tab.get?_put .., ?_, rfl, rfl, rfl,
          fun k => receivedTile_valid tile b⟩
        exact (putTile_tile ..).symm
      · intro k hx hk1 ht1 hl1 _ hc
        exact ⟨_, chCue_bound h hn hx hk1 ht1 hl1 hc, done_write_g .., Tab.get?_put ..⟩
      · intro _ hc
        exact ⟨_, chClose_closed h hn hc, done_write_g .., closedChan_get? _⟩
  · intro i c bs cs1 b hc hb hbs hl hh c1
    have hrun := handoffBlockArrival_run hc hb hbs hl
    refine ⟨fun hbad => ?_, fun hgood => ⟨fun hnone => ?_, fun v k hv hk hw hpos => ?_⟩⟩
    · have hpoison : b.data.any (fun x => x.2.poison != 0) = true := by
        obtain ⟨x, hx, hne⟩ := hbad
        exact List.any_eq_true.mpr ⟨x, hx, bne_iff_ne.mpr hne⟩
      rw [if_pos hpoison] at hrun
      exact ⟨_, hrun, haltChan_get? (Tab.get?_put ..) hh⟩
    all_goals
      have hclean : ¬ b.data.any (fun x => x.2.poison != 0) = true := by
        simpa using fun x y hxy => hgood (x, y) hxy
      rw [if_neg hclean] at hrun
    · rw [hrun, hnone]
      rfl
    · have hbound : boundTask (s.putChan i (landedChan c bs cs1 b)) c.task = some (handleOf v).index := by
        have hlive : liveTask (s.putChan i (landedChan c bs cs1 b)) (handleOf v) = some k := hk
        rw [hv, boundTask, hlive, Option.map_some]
      rw [hbound, Option.elim_some] at hrun
      obtain ⟨hchans, q, hq, hcue⟩ := decCue_facts (s := s.putChan i (landedChan c bs cs1 b)) (liveTask_get? hk) hw hpos
      exact ⟨_, q, hrun, by rw [hchans]; exact Tab.get?_put .., hq, hcue⟩

end Sys2Proof.Machine
end

/-!
PROOFS, 13. The capability instructions: their operands, the narrowed and sealed capabilities, and the two tests (R69 to R78).
-/

section
namespace Sys2Proof.Machine

/-! ### Operands (R73, R76) -/

theorem pairOps_fine {p : Pair} (h : p.isUnsealed = true) (slot : Nat) : ∀ o ∈ pairOps slot p .cap, o.Fine := by
  obtain ⟨ha, hb⟩ := capPair_fine h slot slot (pairSub .cap p) (pairSub .cap p)
  simpa [pairOps] using ⟨ha, hb⟩

/-- A sealed capability passes too where R76 says so. -/
theorem pairOps_fine_sealed {p : Pair} (h : p.isCap = true) (slot : Nat) : ∀ o ∈ pairOps slot p .capOrSealed, o.Fine := by
  obtain ⟨ha, hb⟩ : (p.a.tag = .capA ∨ p.a.tag = .sealed) ∧ p.b.tag = .capB := by simpa [Pair.isCap] using h
  rcases ha with ha | ha <;> simp [pairOps, Opnd.Fine, Opnd.bad, Opnd.traps, OpClass.accepts, ha, hb]

theorem forall_mem_pair {α : Type} {P : α → Prop} {a b : α} (ha : P a) (hb : P b) : ∀ x ∈ [a, b], P x := by simp [ha, hb]

/-- R73 accepts a pair on a thread. -/
def Accepts (th : Thread) (p : Pair) : Prop := capRefused th.level.val th.tenancy.val p.toCap = none

section Caps
variable {t : Tid} {rd rs1 rs2 : RIdx} {x : Word} {s s1 : State}

theorem pair_begun (r : RIdx) : ((begun t s1).th t).pair r = (s1.th t).pair r := by rw [begun_th, pair_withIter]

theorem level_begun : ((begun t s1).th t).level = (s1.th t).level := by rw [begun_th]

theorem capSources_run {ops : List Opnd} {caps : List Pair} (ho : ∀ o ∈ ops, o.Fine) (hc : ∀ p ∈ caps, Accepts (s1.th t) p) :
    capSources t ops caps (begun t s1) = .ok () (begun t s1) := by
  have hcaps : (forM caps fun p => capUse t p.toCap 0 : M PUnit) (begun t s1) = .ok ⟨⟩ (begun t s1) := by
    induction caps with
    | nil => rfl
    | cons p caps ih =>
      have hp : capRefused ((begun t s1).th t).level.val ((begun t s1).th t).tenancy.val p.toCap = none := by
        rw [begun_th]
        exact hc p (List.mem_cons_self ..)
      rw [List.forM_cons, M.bind_run, capUse_run hp]
      exact ih fun q hq => hc q (List.mem_cons_of_mem _ hq)
  rw [capSources, M.bind_run, checkOps_fine ho]
  exact hcaps

theorem capSources_one {ops : List Opnd} {p : Pair} (ho : ∀ o ∈ ops, o.Fine) (hp : Accepts (s1.th t) p) :
    capSources t ops [p] (begun t s1) = .ok () (begun t s1) := capSources_run ho (List.forall_mem_singleton.mpr hp)

theorem needEven_two {r q : RIdx} (hr : r.val % 2 = 0) (hq : q.val % 2 = 0) (u : State) : needEven [r, q] u = .ok () u :=
  needEven_run (forall_mem_pair hr hq)

theorem needEven_three {r q p : RIdx} (hr : r.val % 2 = 0) (hq : q.val % 2 = 0) (hp : p.val % 2 = 0) (u : State) :
    needEven [r, q, p] u = .ok () u :=
  needEven_run (List.forall_mem_cons.mpr ⟨hr, forall_mem_pair hq hp⟩)

/-! ### The fields of a capability (R75) -/

theorem cgetOp_ok {f : Cap → Nat} (h : Fetches t 4 false s s1) (h1 : rs1.val % 2 = 0) (hp : ((s1.th t).pair rs1).isCap = true)
    (ha : Accepts (s1.th t) ((s1.th t).pair rs1)) : simple t (cgetOp t rd rs1 f) s =
      .next (done t 4 s1 ((s1.th t).write rd ⟨BitVec.ofNat 64 (f ((s1.th t).pair rs1).toCap), .int⟩)) := by
  refine simple_write h ?_
  simp only [cgetOp, M.bind_run, needEven_run (List.forall_mem_singleton.mpr h1), getT_run, pair_begun,
    capSources_one (pairOps_fine_sealed hp 1) ha]
  rfl

theorem b2n_bit (v i : Nat) : b2n (bit v i) = v / 2 ^ i % 2 := by
  rw [bit_eq, b2n]
  split <;> simp_all

theorem cmove_ok (h : Fetches t 4 false s s1) (hd : rd.val % 2 = 0) (h1 : rs1.val % 2 = 0)
    (hp : ((s1.th t).pair rs1).isCap = true) (ha : Accepts (s1.th t) ((s1.th t).pair rs1)) :
    execCmove t rd rs1 s = .next (done t 4 s1 ((s1.th t).writePair rd ((s1.th t).pair rs1))) := by
  refine simple_writePair h ?_
  simp only [M.bind_run, needEven_two hd h1, getT_run, pair_begun, capSources_one (pairOps_fine_sealed hp 1) ha]

/-- The quantum of R71: 2^E of the canonical encoding. -/
theorem lenQuantum_eq (n : Nat) :
    lenQuantum n = if n < 2 ^ 32 then 1 else if n ≤ 2 ^ 52 then 2 ^ (Nat.log2 n - 31) else 0 := by
  rw [lenQuantum, log2, show Nat.log2 n + 1 - 32 = Nat.log2 n - 31 by omega]

/-! ### Derivations by an index (R71, R75, R77) -/

/-- The canonical encoding of a length (R71). -/
def Canonical (e m : Nat) : Prop := m < 2 ^ 32 ∧ (e = 0 ∨ (e ≤ 21 ∧ 2 ^ 31 ≤ m))

theorem encLen_canonical {e m : Nat} (h : Canonical e m) : encLen (m * 2 ^ e) = some (e, m) := by
  obtain ⟨hm, h⟩ := h
  obtain rfl | hpos := Nat.eq_zero_or_pos e
  · rw [pow_zero, mul_one, encLen, if_pos hm]
  obtain ⟨he, hlow⟩ := h.resolve_left hpos.ne'
  have h2 : 2 ≤ 2 ^ e := le_self_pow₀ (a := 2) (by decide) (by omega)
  have hbig : ¬ m * 2 ^ e < 2 ^ 32 := by nlinarith
  have hlog : Nat.log2 (m * 2 ^ e) = 31 + e := by
    rw [Nat.log2_eq_iff (by positivity), pow_add, show 31 + e + 1 = 32 + e by omega, pow_add]
    exact ⟨Nat.mul_le_mul_right _ hlow, Nat.mul_lt_mul_of_pos_right hm (by positivity)⟩
  have hexp : log2 (m * 2 ^ e) + 1 - 32 = e := by rw [log2, hlog]; omega
  simp only [encLen, hbig, if_false, hexp]
  simp [he]

theorem rebased_canonical {c : Cap} {base e m : Nat} (h : Canonical e m) (hb : base < 2 ^ 52) :
    rebased c base (m * 2 ^ e) = .ok { c with base := base, lenE := e, lenM := m } := by
  simp only [rebased, encLen_canonical h, Nat.not_le.mpr hb, if_false]

/-- The base of a capability has 52 bits. -/
theorem toCap_base_lt (p : Pair) : p.toCap.base < 2 ^ 52 := Nat.mod_lt _ (by positivity)

/-- The sources of a derivation: an unsealed pair that the thread accepts, and an INT. -/
structure Derives (th : Thread) (rd rs1 rs2 : RIdx) (x : Word) : Prop where
  rdEven : rd.val % 2 = 0
  rs1Even : rs1.val % 2 = 0
  unsealed : (th.pair rs1).isUnsealed = true
  accepted : Accepts th (th.pair rs1)
  index : Holds th rs2 x .int

theorem Derives.fine {th : Thread} (hs : Derives th rd rs1 rs2 x) :
    ∀ o ∈ pairOps 1 (th.pair rs1) .cap ++ [opnd 2 .index (th.g rs2)], o.Fine := fun o ho =>
  (List.mem_append.mp ho).elim (pairOps_fine hs.unsealed 1 o) fun ho => by
    rw [List.mem_singleton.mp ho]
    exact index_fine (congrArg Reg.tag hs.index) 2

theorem csetOp_run {f : Fin 3 → Cap → Nat → Except Nat Cap} (hs : Derives (s1.th t) rd rs1 rs2 x) :
    csetOp t rd rs1 rs2 f (begun t s1) = match f (s1.th t).level ((s1.th t).pair rs1).toCap x.toNat with
      | .error sub => capViol 0 sub 0 (begun t s1)
      | .ok c => wrPair t rd c.toPair (begun t s1) := by
  have hx : ((s1.th t).g rs2).val = x := congrArg Reg.val hs.index
  simp only [csetOp, M.bind_run, needEven_two hs.rdEven hs.rs1Even, getT_run, pair_begun, g_begun,
    capSources_one hs.fine hs.accepted, hx, level_begun]
  cases f (s1.th t).level ((s1.th t).pair rs1).toCap x.toNat <;> rfl

theorem csetOp_ok {f : Fin 3 → Cap → Nat → Except Nat Cap} {c : Cap} (h : Fetches t 4 false s s1)
    (hs : Derives (s1.th t) rd rs1 rs2 x) (hf : f (s1.th t).level ((s1.th t).pair rs1).toCap x.toNat = .ok c) :
    simple t (csetOp t rd rs1 rs2 f) s = .next (done t 4 s1 ((s1.th t).writePair rd c.toPair)) :=
  simple_writePair h (by rw [csetOp_run hs, hf])

theorem csetOp_trapped {f : Fin 3 → Cap → Nat → Except Nat Cap} {sub : Nat} (h : Fetches t 4 false s s1)
    (hs : Derives (s1.th t) rd rs1 rs2 x) (hf : f (s1.th t).level ((s1.th t).pair rs1).toCap x.toNat = .error sub) :
    simple t (csetOp t rd rs1 rs2 f) s = .next (trapped t 5 sub 0 false s1) := by
  refine simple_trapped h ?_
  rw [csetOp_run hs, hf]
  simp [capViol, vecCapViolation]

/-! ### Sealing (R75, R77, R78) -/

/-- The sources of CSEAL and CUNSEAL: even registers, and an unsealed pair rs2 as the authority. -/
structure SealSources (th : Thread) (rd rs1 rs2 : RIdx) : Prop where
  rdEven : rd.val % 2 = 0
  rs1Even : rs1.val % 2 = 0
  rs2Even : rs2.val % 2 = 0
  unsealed : (th.pair rs2).isUnsealed = true
  accepted : ∀ p ∈ [th.pair rs1, th.pair rs2], Accepts th p

theorem cseal_ok (h : Fetches t 4 false s s1) (hs : SealSources (s1.th t) rd rs1 rs2) (hp : ((s1.th t).pair rs1).isUnsealed = true)
    (hperm : ((s1.th t).pair rs2).toCap.has permSEAL = true) (hl : 1 ≤ ((s1.th t).pair rs2).toCap.length)
    (hlo : 1 ≤ ((s1.th t).pair rs2).toCap.base) (hhi : ((s1.th t).pair rs2).toCap.base ≤ 0xEFF) :
    execCseal t rd rs1 rs2 s = .next (done t 4 s1 ((s1.th t).writePair rd
      { ((s1.th t).pair rs1).toCap with otype := ((s1.th t).pair rs2).toCap.base }.toPair)) := by
  have ho : ∀ o ∈ pairOps 1 ((s1.th t).pair rs1) .cap ++ pairOps 2 ((s1.th t).pair rs2) .cap, o.Fine := fun o ho =>
    (List.mem_append.mp ho).elim (pairOps_fine hp 1 o) (pairOps_fine hs.unsealed 2 o)
  refine simple_writePair h ?_
  simp only [M.bind_run, needEven_three hs.rdEven hs.rs1Even hs.rs2Even, getT_run, pair_begun, capSources_run ho hs.accepted]
  simp [hperm, Nat.not_lt.mpr hl, Nat.ne_of_gt hlo, Nat.not_lt.mpr hhi]

theorem cunseal_ok (h : Fetches t 4 false s s1) (hs : SealSources (s1.th t) rd rs1 rs2) (hp : ((s1.th t).pair rs1).isCap = true)
    (hperm : ((s1.th t).pair rs2).toCap.has permUNSEAL = true)
    (hlo : ((s1.th t).pair rs2).toCap.base ≤ ((s1.th t).pair rs1).toCap.otype)
    (hhi : ((s1.th t).pair rs1).toCap.otype < ((s1.th t).pair rs2).toCap.top) :
    execCunseal t rd rs1 rs2 s = .next (done t 4 s1 ((s1.th t).writePair rd { ((s1.th t).pair rs1).toCap with otype := 0 }.toPair)) := by
  have ho : ∀ o ∈ pairOps 1 ((s1.th t).pair rs1) .capOrSealed ++ pairOps 2 ((s1.th t).pair rs2) .cap, o.Fine := fun o ho =>
    (List.mem_append.mp ho).elim (pairOps_fine_sealed hp 1 o) (pairOps_fine hs.unsealed 2 o)
  refine simple_writePair h ?_
  simp only [M.bind_run, needEven_three hs.rdEven hs.rs1Even hs.rs2Even, getT_run, pair_begun, capSources_run ho hs.accepted]
  simp [hperm, Nat.not_lt.mpr hlo, Nat.not_le.mpr hhi]

theorem cgate_ok (h : Fetches t 4 false s s1) (hd : rd.val % 2 = 0) (h1 : rs1.val % 2 = 0)
    (hp : ((s1.th t).pair rs1).isUnsealed = true) (hap : Accepts (s1.th t) ((s1.th t).pair rs1))
    (hm : ((s1.th t).pair rs1).toCap.has (permLD + permLDCAP) = true) (hb : ((s1.th t).pair rs1).toCap.base % 16 = 0)
    (hl : 48 ≤ ((s1.th t).pair rs1).toCap.length) :
    execCgate t rd rs1 s = .next (done t 4 s1 ((s1.th t).writePair rd
      { ((s1.th t).pair rs1).toCap with lenE := 0, lenM := 48, otype := 0xF01 }.toPair)) := by
  refine simple_writePair h ?_
  simp only [M.bind_run, needEven_two hd h1, getT_run, pair_begun, capSources_one (pairOps_fine hp 1) hap]
  simp [hm, hb, Nat.not_lt.mpr hl]

/-! ### The tests (R75) -/

theorem ctest_ok (h : Fetches t 4 false s s1) (h1 : rs1.val % 2 = 0) :
    execCtest t rd rs1 s = .next (done t 4 s1 ((s1.th t).write rd (.bool ((s1.th t).pair rs1).isCap))) := by
  refine simple_write h ?_
  simp only [M.bind_run, needEven_run (List.forall_mem_singleton.mpr h1), getT_run, pair_begun]

theorem ctestSub_ok (h : Fetches t 4 false s s1) (h1 : rs1.val % 2 = 0) (h2 : rs2.val % 2 = 0) :
    execCtestSub t rd rs1 rs2 s = .next (done t 4 s1 ((s1.th t).write rd (.bool (((s1.th t).pair rs1).isUnsealed &&
      ((s1.th t).pair rs2).isUnsealed && derivable ((s1.th t).pair rs1).toCap ((s1.th t).pair rs2).toCap)))) := by
  refine simple_write h ?_
  simp only [M.bind_run, needEven_two h1 h2, getT_run, pair_begun]

theorem derivable_iff (a b : Cap) : derivable a b = true ↔ a.base ≤ b.base ∧ b.base + b.length ≤ a.base + a.length ∧
    a.perms &&& b.perms = b.perms ∧ ((a.dev = b.dev ∧ a.tenancy = b.tenancy) ∨ (a.dev = true ∧ b.dev = false)) := by
  simp only [derivable, Cap.has, Bool.and_eq_true, Bool.or_eq_true, decide_eq_true_eq, beq_iff_eq, Bool.not_eq_true', and_assoc]
  rfl

theorem bool_reg {b : Bool} {p : Prop} [Decidable p] (h : b = true ↔ p) : Reg.bool b = ⟨if p then 1 else 0, .bool⟩ := by
  simp only [Reg.bool, h]

end Caps

/-- Settles O22: each instruction is its operand checks, which pass, and one write; a length beyond the old one is refused. -/
theorem capabilityResults : Obligations.CapabilityResults := by
  unfold Obligations.CapabilityResults
  intro t rd rs1 rs2 s s1 h th p q c k ok put putc num flag canon even
  refine ⟨fun h1 hp ha => ?_, fun n hn => ?_, fun x hd h1 hp ha hx => ?_, fun hd h1 h2 hq ha hk => ?_, ?_, ?_, ?_⟩
  · have hget (f : Cap → Nat) : simple t (cgetOp t rd rs1 f) s = put (num (f c)) := cgetOp_ok h h1 hp ha
    have hten : (fun y : Cap => b2n y.dev * 16 + y.tenancy) c = p.b.val.toNat / 2 ^ 43 % 2 * 16 + p.b.val.toNat / 2 ^ 44 % 16 := by
      simp only [c, Pair.toCap, capOfWords, b2n_bit]
      rfl
    have hbase : c.base = p.a.val.toNat % 2 ^ 52 := congrArg (· % 2 ^ 52) (Nat.div_one _)
    have hlen : c.length = p.b.val.toNat % 2 ^ 32 * 2 ^ (p.b.val.toNat / 2 ^ 32 % 64) :=
      congrArg (· % 2 ^ 32 * 2 ^ (p.b.val.toNat / 2 ^ 32 % 64)) (Nat.div_one _)
    have hperm : c.perms = p.b.val.toNat / 2 ^ 48 := Nat.mod_eq_of_lt (by omega)
    have htype : c.otype = p.a.val.toNat / 2 ^ 52 := Nat.mod_eq_of_lt (by omega)
    exact ⟨hbase ▸ hget Cap.base, hlen ▸ hget Cap.length, hperm ▸ hget Cap.perms, hten ▸ hget _, htype ▸ hget Cap.otype,
      fun hd => cmove_ok h hd h1 hp ha⟩
  · have hq := unary_int (rd := rd) (f := fun a => .int (BitVec.ofNat 64 (lenQuantum a.val.toNat))) (ext := false) h hn
    rw [hn.1, lenQuantum_eq] at hq
    exact hq
  · have hs : Derives th rd rs1 rs2 x := ⟨hd, h1, hp, ha, hx⟩
    refine ⟨fun e m hc hle hlen hb => csetOp_ok h hs ?_, fun e m hc hle hlen => csetOp_ok h hs ?_,
      fun hlt => ⟨csetOp_trapped h hs (if_pos hlt), csetOp_trapped h hs (if_pos hlt)⟩, csetOp_ok h hs rfl,
      fun hl hdev => csetOp_ok h hs ?_⟩
    · rw [if_neg (Nat.not_lt.mpr hle), hlen]
      exact rebased_canonical hc hb
    · rw [if_neg (Nat.not_lt.mpr hle), hlen]
      exact rebased_canonical hc (toCap_base_lt p)
    · rw [if_neg (by rw [hl]; decide), if_neg (by simpa using hdev)]
  · have hs : SealSources th rd rs1 rs2 := ⟨hd, h1, h2, hq, forall_mem_pair ha hk⟩
    exact ⟨fun hp hperm hl hlo hhi => cseal_ok h hs hp hperm hl hlo hhi, fun hp hperm hlo hhi => cunseal_ok h hs hp hperm hlo hhi⟩
  · exact fun hd h1 hp ha hm hb hl => cgate_ok h hd h1 hp ha hm hb hl
  · intro h1
    rw [exec_ctest, ctest_ok h h1, bool_reg Iff.rfl]
  · intro h1 h2
    have hiff : (p.isUnsealed && q.isUnsealed && derivable c k) = true ↔ p.isUnsealed = true ∧ q.isUnsealed = true ∧
        c.base ≤ k.base ∧ k.base + k.length ≤ c.base + c.length ∧ c.perms &&& k.perms = k.perms ∧
        ((c.dev = k.dev ∧ c.tenancy = k.tenancy) ∨ (c.dev = true ∧ k.dev = false)) := by
      rw [Bool.and_eq_true, Bool.and_eq_true, derivable_iff, and_assoc]
    rw [exec_ctestSub, ctestSub_ok h h1 h2, bool_reg hiff]

end Sys2Proof.Machine
end

/-!
PROOFS, 14. The system registers: which one a number names, who may reach it, what it reads as and what a write replaces (R85, R86, R92).
-/

section
namespace Sys2Proof.Machine

/-! ### The iteration counter is in no system register -/

theorem sv_withIter (th : Thread) (n : Nat) (k : BitVec 32) : ({ th with iter := k } : Thread).sv n = th.sv n := rfl

theorem setSv_withIter (th : Thread) (n : Nat) (v : SaveSet) (k : BitVec 32) :
    ({ th with iter := k } : Thread).setSv n v = { th.setSv n v with iter := k } := by
  unfold Thread.setSv
  split
  · rfl
  split <;> rfl

theorem setSv_pc (th : Thread) (n : Nat) (v : SaveSet) : (th.setSv n v).pc = th.pc := by
  unfold Thread.setSv
  split
  · rfl
  split <;> rfl

theorem sysWrite_withIter (th : Thread) (r : SysReg) (v : Reg) (k : BitVec 32) :
    sysWrite { th with iter := k } r v = { sysWrite th r v with iter := k } := by
  cases r with
  | sv n f => cases f <;> simp only [sysWrite, sv_withIter, setSv_withIter]
  | lrsp n => simp only [sysWrite]; split <;> rfl
  | imask n => simp only [sysWrite]; split <;> rfl
  | _ => rfl

theorem sysWrite_pc (th : Thread) (r : SysReg) (v : Reg) : (sysWrite th r v).pc = th.pc := by
  cases r with
  | sv n f => cases f <;> simp only [sysWrite, setSv_pc]
  | lrsp n => simp only [sysWrite]; split <;> rfl
  | imask n => simp only [sysWrite]; split <;> rfl
  | _ => rfl

theorem sysWritePair_withIter (th : Thread) (r : SysReg) (p : Pair) (k : BitVec 32) :
    sysWritePair { th with iter := k } r p = { sysWritePair th r p with iter := k } := by
  cases r with
  | sv n f => cases f <;> simp only [sysWritePair, sv_withIter, setSv_withIter]
  | dt n => simp only [sysWritePair]; split <;> rfl
  | lrs n => simp only [sysWritePair]; split <;> rfl
  | _ => rfl

theorem sysWritePair_pc (th : Thread) (r : SysReg) (p : Pair) : (sysWritePair th r p).pc = th.pc := by
  cases r with
  | sv n f => cases f <;> simp only [sysWritePair, setSv_pc]
  | dt n => simp only [sysWritePair]; split <;> rfl
  | lrs n => simp only [sysWritePair]; split <;> rfl
  | _ => rfl

/-! ### Who may reach a register (R86) -/

/-- The number names the register, and the thread has SYS and the level for it. -/
structure Reaches (th : Thread) (n : BitVec 12) (r : SysReg) : Prop where
  named : sysRegOf n.toNat = some r
  sys : th.pcc.toCap.has permSYS = true
  level : r.minLevel ≤ th.level.val

section System
variable {t : Tid} {rd rs1 : RIdx} {n : BitVec 12} {r : SysReg} {v : Word} {s s1 : State}

theorem sysLookup_run {pair : Bool} (hn : sysRegOf n.toNat = some r) (hp : r.isPair = pair) (u : State) :
    sysLookup n pair u = .ok r u := by
  simp only [sysLookup, hn, hp, beq_self_eq_true, if_true]
  rfl

theorem needSys_run (hr : Reaches (s1.th t) n r) : needSys t r.minLevel (begun t s1) = .ok () (begun t s1) := by
  simp [needSys, hr.sys, Nat.not_lt.mpr hr.level]

/-- Below its level a register raises CAP_VIOLATION with sub-code 0x0C; no permission is missing. -/
theorem needSys_low {level : Nat} (hs : (s1.th t).pcc.toCap.has permSYS = true) (hl : (s1.th t).level.val < level) :
    needSys t level (begun t s1) = .error (.exc ⟨5, 0xC, 0⟩) (begun t s1) := by
  have hmiss : (s1.th t).pcc.toCap.missing permSYS = 0 := by
    rw [Cap.missing, beq_iff_eq.mp hs, Nat.sub_self]
  simp [needSys, hl, capViol, hmiss, vecCapViolation]

/-! ### Reads -/

theorem sysValue_begun : sysValue (begun t s1) t r = sysValue s1 t r := by
  simp only [sysValue, pendingOf, begun_th]
  rfl

theorem sysPair_withIter (th : Thread) (k : BitVec 32) : sysPair { th with iter := k } r = sysPair th r := rfl

theorem sysrd_ok (h : Fetches t 4 false s s1) (hr : Reaches (s1.th t) n r) (hp : r.isPair = false) :
    execSysrd t rd n s = .next (done t 4 s1 ((s1.th t).write rd (sysValue s1 t r))) := by
  refine simple_write h ?_
  simp only [M.bind_run, sysLookup_run hr.named hp, needSys_run hr, getS_run, sysValue_begun]

theorem sysrd_low (h : Fetches t 4 false s s1) (hn : sysRegOf n.toNat = some r) (hp : r.isPair = false)
    (hs : (s1.th t).pcc.toCap.has permSYS = true) (hl : (s1.th t).level.val < r.minLevel) :
    execSysrd t rd n s = .next (trapped t 5 0xC 0 false s1) := by
  refine simple_trapped h ?_
  simp only [M.bind_run, sysLookup_run hn hp, needSys_low hs hl]

theorem sysrdc_ok (h : Fetches t 4 false s s1) (hr : Reaches (s1.th t) n r) (hp : r.isPair = true) (hd : rd.val % 2 = 0) :
    execSysrdc t rd n s = .next (done t 4 s1 ((s1.th t).writePair rd (sysPair (s1.th t) r))) := by
  refine simple_writePair h ?_
  simp only [M.bind_run, sysLookup_run hr.named hp, needEven_run (List.forall_mem_singleton.mpr hd), needSys_run hr, getT_run, begun_th,
    sysPair_withIter]

/-! ### Writes -/

theorem Pair.isCap_of_isUnsealed {p : Pair} (h : p.isUnsealed = true) : p.isCap = true := by
  simp only [Pair.isUnsealed, Bool.and_eq_true] at h
  simp [Pair.isCap, h.1, h.2]

/-- A meaning that changes its thread by f, which neither reads nor writes the iteration counter or PC. -/
theorem simple_modT {body : M Unit} {f : Thread → Thread} (h : Fetches t 4 false s s1)
    (hb : body (begun t s1) = modT t f (begun t s1)) (hpc : ∀ th, (f th).pc = th.pc)
    (hit : ∀ th k, f { th with iter := k } = { f th with iter := k }) : simple t body s = .next (done t 4 s1 (f (s1.th t))) := by
  have hdone := simpleX_mod (ext := false) h hb rfl hpc
  rw [begun_th, hit, done_iter, done_begun] at hdone
  exact hdone

/-- An integer passes the condition class with any USE (R31). -/
theorem cond_fine {a : Reg} (h : a.tag = .int ∨ a.tag = .bool) (slot : Nat) (use : Option Nat) :
    (⟨slot, .cond, a, false, use, 0⟩ : Opnd).Fine := by
  rcases h with h | h <;> simp [Opnd.Fine, Opnd.bad, Opnd.traps, OpClass.accepts, h]

theorem syswr_ok (h : Fetches t 4 false s s1) (hr : Reaches (s1.th t) n r) (hp : r.isPair = false) (hg : r.isG = false)
    (hv : IsInt (s1.th t) rs1 v) : execSyswr t rs1 n s = .next (done t 4 s1 (sysWrite (s1.th t) r ((s1.th t).g rs1))) := by
  refine simple_modT (f := fun th => sysWrite th r ((s1.th t).g rs1)) h ?_ (fun th => sysWrite_pc ..) (fun th k => sysWrite_withIter ..)
  simp only [M.bind_run, sysLookup_run hr.named hp, greg_run, g_begun, hg, Bool.false_eq_true, if_false,
    checkOps_fine (List.forall_mem_singleton.mpr (cond_fine hv.2 1 (some 6))), needSys_run hr]

theorem syswrc_ok (h : Fetches t 4 false s s1) (hr : Reaches (s1.th t) n r) (hp : r.isPair = true) (hg : r.isG = false)
    (he : rs1.val % 2 = 0) (hu : ((s1.th t).pair rs1).isUnsealed = true) (ha : Accepts (s1.th t) ((s1.th t).pair rs1)) :
    execSyswrc t rs1 n s = .next (done t 4 s1 (sysWritePair (s1.th t) r ((s1.th t).pair rs1))) := by
  refine simple_modT (f := fun th => sysWritePair th r ((s1.th t).pair rs1)) h ?_ (fun th => sysWritePair_pc ..)
    (fun th k => sysWritePair_withIter ..)
  have hops : ∀ o ∈ syswrcOps r ((s1.th t).pair rs1), o.Fine := by
    rw [syswrcOps, hg]
    exact pairOps_fine hu 1
  have huse : capUse t ((s1.th t).pair rs1).toCap 0 (begun t s1) = .ok () (begun t s1) := capUse_run (by rw [begun_th]; exact ha)
  have hcap : ((s1.th t).pair rs1).isCap = true := Pair.isCap_of_isUnsealed hu
  simp only [M.bind_run, sysLookup_run hr.named hp, needEven_run (List.forall_mem_singleton.mpr he), getT_run, pair_begun,
    checkOps_fine hops, needSys_run hr, hcap, if_true, huse]

end System

theorem int_toNat (x : Word) : Reg.int x = ⟨BitVec.ofNat 64 x.toNat, .int⟩ := by rw [BitVec.ofNat_toNat, BitVec.setWidth_eq]; rfl

theorem int_zeroExtend (x : BitVec 32) : Reg.int (x.zeroExtend 64) = ⟨BitVec.ofNat 64 x.toNat, .int⟩ := by
  rw [BitVec.ofNat_toNat]; rfl

/-- Settles O23: every row of the map by its register; the value read or the field replaced is that of `sysValue`, `sysPair`, `sysWrite`
or `sysWritePair`. -/
theorem systemRegisterResults : Obligations.SystemRegisterResults := by
  unfold Obligations.SystemRegisterResults
  intro t r s s1 h hs th lvl rd rdc wr wrc
  have reaches {n : Nat} {reg : SysReg} (hn : sysRegOf (BitVec.ofNat 12 n).toNat = some reg) (hl : lvl reg.minLevel) :
      Reaches th (BitVec.ofNat 12 n) reg := ⟨hn, hs, hl⟩
  have reads {n : Nat} (reg : SysReg) {v : Nat} (hl : lvl reg.minLevel) (hv : sysValue s1 t reg = ⟨BitVec.ofNat 64 v, .int⟩)
      (hn : sysRegOf (BitVec.ofNat 12 n).toNat = some reg := by rfl) (hp : reg.isPair = false := by rfl) : rd n v := by
    simp only [rd, exec_sysrd, sysrd_ok h (reaches hn hl) hp, hv, th]
  have readsPair {n : Nat} (reg : SysReg) {p : Pair} (hl : lvl reg.minLevel) (he : r.val % 2 = 0) (hv : sysPair th reg = capAsRead p := by rfl)
      (hn : sysRegOf (BitVec.ofNat 12 n).toNat = some reg := by rfl) (hp : reg.isPair = true := by rfl) : rdc n p := by
    simp only [rdc, exec_sysrdc, sysrdc_ok h (reaches hn hl) hp he]
    rw [hv]
    rfl
  have writes {n : Nat} (reg : SysReg) {x : Thread} (hv : (th.g r).tag = .int ∨ (th.g r).tag = .bool) (hl : lvl reg.minLevel)
      (hx : sysWrite th reg (th.g r) = x := by rfl) (hn : sysRegOf (BitVec.ofNat 12 n).toNat = some reg := by rfl)
      (hp : reg.isPair = false := by rfl) (hg : reg.isG = false := by rfl) : wr n x := by
    simp only [wr, exec_syswr, syswr_ok h (reaches hn hl) hp hg ⟨rfl, hv⟩, ← hx, th]
  refine ⟨?_, ?_, fun l1 => ?_, fun l2 => ?_, fun v hv l1 => ?_, fun p hp he hu ha => ?_, fun hl => ?_, fun hl => ?_⟩
  · exact reads .level (Nat.zero_le _) rfl
  · exact reads .tenancy (Nat.zero_le _) rfl
  · refine ⟨reads .ie l1 rfl, reads .timerNow l1 (int_toNat _), reads .timerCmp l1 (int_toNat _), reads (.lrsp 1) l1 (int_toNat _),
      reads (.imask 1) l1 (int_toNat _), reads (.sv 1 .pc) l1 (int_toNat _), reads (.sv 1 .rsp) l1 (int_toNat _),
      reads (.sv 1 .prog) l1 (int_zeroExtend _), reads (.sv 1 .cause) l1 (int_toNat _), reads (.sv 1 .faddr) l1 (int_toNat _), fun he => ?_⟩
    exact ⟨readsPair (.dt 1) l1 he, readsPair (.lrs 1) l1 he, readsPair (.sv 1 .pcc) l1 he, readsPair (.sv 1 .rscap) l1 he⟩
  · refine ⟨reads (.lrsp 2) l2 (int_toNat _), reads (.imask 2) l2 (int_toNat _), reads (.sv 2 .pc) l2 (int_toNat _),
      reads (.sv 2 .rsp) l2 (int_toNat _), reads (.sv 2 .prog) l2 (int_zeroExtend _), reads (.sv 2 .cause) l2 (int_toNat _),
      reads (.sv 2 .faddr) l2 (int_toNat _), fun he => ?_⟩
    exact ⟨readsPair (.dt 2) l2 he, readsPair (.lrs 2) l2 he, readsPair (.sv 2 .pcc) l2 he, readsPair (.sv 2 .rscap) l2 he⟩
  · obtain ⟨rfl, hv⟩ := hv
    have hbit (i : Nat) : bit (th.g r).val.toNat i = (th.g r).val.getLsbD i := bit_eq_testBit ..
    refine ⟨writes .ie hv l1 (hbit 0 ▸ rfl), writes .ipend hv l1, writes .timerNow hv l1, writes .timerCmp hv l1, writes (.lrsp 1) hv l1,
      writes (.imask 1) hv l1, writes (.sv 1 .pc) hv l1, writes (.sv 1 .rsp) hv l1, writes (.sv 1 .state) hv l1 (hbit 9 ▸ rfl),
      writes (.sv 1 .prog) hv l1, writes (.sv 1 .cause) hv l1, writes (.sv 1 .faddr) hv l1, writes (.sv 1 .tags) hv l1, fun l2 => ?_⟩
    exact ⟨writes (.lrsp 2) hv l2, writes (.imask 2) hv l2, writes (.sv 2 .pc) hv l2⟩
  · subst hp
    have writesPair {n : Nat} (reg : SysReg) (hl : lvl reg.minLevel) (hn : sysRegOf (BitVec.ofNat 12 n).toNat = some reg := by rfl)
        (hp : reg.isPair = true := by rfl) (hg : reg.isG = false := by rfl) : wrc n (sysWritePair th reg (th.pair r)) := by
      simp only [wrc, exec_syswrc, syswrc_ok h (reaches hn hl) hp hg he hu ha, th]
    exact ⟨fun l1 => ⟨writesPair (.dt 1) l1, writesPair (.lrs 1) l1, writesPair (.sv 1 .pcc) l1, writesPair (.sv 1 .rscap) l1⟩,
      fun l2 => ⟨writesPair (.dt 2) l2, writesPair (.lrs 2) l2⟩⟩
  · exact sysrd_low (r := .lrsp 2) h rfl rfl hs hl
  · exact sysrd_low (r := .ie) h rfl rfl hs hl

end Sys2Proof.Machine
end

/-!
PROOFS, 15. The queue of commands belongs to the step alone: no memory access, no translation, no entry of a handler and no end of a task
changes it.
-/

section
namespace Sys2Proof.Machine

/-! ### The slices and the L1 -/

section Memory
variable (s : State)

@[simp] theorem hbmWrite_pending (ln mask data tags poison : Nat) : (hbmWrite s ln mask data tags poison).pending = s.pending := by
  unfold hbmWrite
  split <;> rfl

@[simp] theorem hbmStore_pending (space ln mask data tags poison : Nat) :
    (hbmStore s space ln mask data tags poison).pending = s.pending := by
  rw [hbmStore, State.count_pending, hbmWrite_pending]

@[simp] theorem pushVictim_pending (ln : Nat) (l : CLine) : (pushVictim s ln l).pending = s.pending := by
  unfold pushVictim
  dsimp only
  repeat' split
  all_goals simp

@[simp] theorem flushVictim_pending (ln : Nat) : (flushVictim s ln).pending = s.pending := by
  unfold flushVictim
  dsimp only
  split
  · rfl
  · dsimp only
    rw [foldl_keep _ _ State.pending (fun st v => hbmStore_pending ..)]

@[simp] theorem makeRoom_pending (ln : Nat) : (makeRoom s ln).1.pending = s.pending := by
  unfold makeRoom
  dsimp only
  repeat' split
  all_goals simp [drawChoice]

@[simp] theorem touchLine_pending (ln : Nat) (ac : Acc) : (touchLine s ln ac).pending = s.pending := by
  unfold touchLine
  dsimp only
  repeat' split
  all_goals simp

@[simp] theorem reinstall_pending (ln : Nat) (ac : Acc) : (reinstall s ln ac).pending = s.pending := by
  unfold reinstall
  dsimp only
  repeat' split
  all_goals simp

@[simp] theorem sliceWrite_pending (ln mask data tags poison : Nat) (ac : Acc) :
    (sliceWrite s ln mask data tags poison ac).pending = s.pending := by
  unfold sliceWrite
  dsimp only
  repeat' split
  all_goals simp

@[simp] theorem repairSlice_pending (flaggedOnly : Bool) (hit : Nat → Bool) : (repairSlice s flaggedOnly hit).pending = s.pending := by
  unfold repairSlice
  split
  · rfl
  · dsimp only
    rw [foldl_keep _ _ State.pending (fun st e => State.count_pending ..)]
    split
    · rfl
    · exact State.count_pending ..

@[simp] theorem repairHbm_pending (flaggedOnly : Bool) (hit : Nat → Bool) : (repairHbm s flaggedOnly hit).1.pending = s.pending := by
  unfold repairHbm
  split
  · rfl
  · dsimp only
    rw [foldl_keep _ _ State.pending (fun st e => State.count_pending ..), foldl_keep _ _ State.pending (fun st e => State.count_pending ..)]

@[simp] theorem sliceRead_pending (ln sectors : Nat) (ac : Acc) : (sliceRead s ln sectors ac).pending = s.pending := by
  unfold sliceRead
  dsimp only
  repeat' split
  all_goals simp [hbmTouch]

@[simp] theorem syncEpochs_pending (n : Nat) : (syncEpochs s n).pending = s.pending := by
  simp only [syncEpochs, State.setTen_pending]

@[simp] theorem chargeOverlay_pending (ep ln : Nat) (ac : Acc) : (chargeOverlay s ep ln ac).pending = s.pending := by
  unfold chargeOverlay
  dsimp only
  repeat' split
  all_goals simp

@[simp] theorem overlayWrite_pending (ep ln mask data tags poison : Nat) (ac : Acc) :
    (overlayWrite s ep ln mask data tags poison ac).pending = s.pending := chargeOverlay_pending ..

@[simp] theorem writeBack_pending (ln : Nat) (l : CLine) : (writeBack s ln l).pending = s.pending := by
  unfold writeBack
  repeat' split
  all_goals simp

@[simp] theorem setL1_pending (c : CoreId) (t : Tab CLine) : (setL1 s c t).pending = s.pending := rfl

@[simp] theorem l1Room_pending (c : CoreId) (ln : Nat) : (l1Room s c ln).pending = s.pending := by
  unfold l1Room
  dsimp only
  repeat' split
  all_goals simp [drawChoice]

@[simp] theorem l1Match_pending (c : CoreId) (ep : Option Nat) (ln : Nat) : (l1Match s c ep ln).pending = s.pending := by
  unfold l1Match
  repeat' split
  all_goals simp

@[simp] theorem l1Read_pending (c : CoreId) (ep : Option Nat) (ln sectors n : Nat) (ac : Acc) :
    (l1Read s c ep ln sectors n ac).1.pending = s.pending := by
  unfold l1Read
  dsimp only
  repeat' split
  all_goals simp

@[simp] theorem releaseLines_pending (c : CoreId) (t : Tab CLine) : (releaseLines c t s).pending = s.pending := by
  induction t generalizing s with
  | nil => rfl
  | cons e t ih => simp only [releaseLines, ih, setL1_pending, writeBack_pending]

@[simp] theorem fenceRel_pending (c : CoreId) : (fenceRel s c).pending = s.pending := by
  unfold fenceRel
  split <;> simp

/-! ### Translations -/

@[simp] theorem readWord_pending (space pa : Nat) : (readWord s space pa).1.pending = s.pending := sliceRead_pending ..

@[simp] theorem writeWord_pending (space pa v : Nat) : (writeWord s space pa v).pending = s.pending := sliceWrite_pending ..

@[simp] theorem ptMachineCheck_pending (epa : Nat) : (ptMachineCheck s epa).pending = s.pending := by
  simp only [ptMachineCheck, State.log_pending]

@[simp] theorem walkFrom_pending (n : Fin 17) (va f level node : Nat) : (walkFrom s n va f level node).1.pending = s.pending := by
  induction f generalizing s level node with
  | zero => rfl
  | succ f ih =>
    unfold walkFrom
    dsimp only
    repeat' split
    all_goals simp [ih]

@[simp] theorem walk_pending (n : Fin 17) (va : Nat) : (walk s n va).1.pending = s.pending := by
  unfold walk
  split <;> simp

@[simp] theorem setAccDirty_pending (n : Fin 17) (epa e : Nat) (write : Bool) : (setAccDirty s n epa e write).pending = s.pending :=
  ite_keep rfl (writeWord_pending ..)

@[simp] theorem cleanRange_pending (pa count : Nat) : (cleanRange s pa count).pending = s.pending := by
  rw [cleanRange, foldl_keep _ _ State.pending (fun st e => by simp)]

@[simp] theorem sweepOne_pending (n : Fin 17) : (sweepOne s n).pending = s.pending := by
  unfold sweepOne
  dsimp only
  repeat' split
  all_goals simp

@[simp] theorem reencrypt_pending (n : Fin 17) (level epa e : Nat) : (reencrypt s n level epa e).pending = s.pending := by
  simp [reencrypt]

@[simp] theorem fillDone_pending (f : Fill) : (fillDone s f).pending = s.pending := by
  unfold fillDone
  dsimp only
  repeat' split
  all_goals simp [wakeOn, zeroPhys]

@[simp] theorem syncHeld_pending (n : Fin 17) : (syncHeld s n).pending = s.pending := by
  unfold syncHeld
  split <;> simp

@[simp] theorem syncHeld_threads (n : Fin 17) : (syncHeld s n).threads = s.threads := by
  unfold syncHeld
  split <;> simp

end Memory

/-! ### The pager's frames -/

/-- Taking frames changes no thread and not the queue. -/
structure PagerKeep (s s' : State) : Prop where
  threads : s'.threads = s.threads
  pending : s'.pending = s.pending

theorem PagerKeep.trans {a b c : State} (h1 : PagerKeep a b) (h2 : PagerKeep b c) : PagerKeep a c :=
  ⟨h2.threads.trans h1.threads, h2.pending.trans h1.pending⟩

section Pager
variable {s : State} {n : Fin 17}

theorem takeFrames_keep {region align count f : Nat} {r : Nat × State} (h : takeFrames s n region align count f = some r) :
    PagerKeep s r.2 := by
  induction f generalizing s with
  | zero => exact nomatch h
  | succ f ih =>
    unfold takeFrames at h
    dsimp only at h
    split at h
    · cases h
      exact ⟨rfl, rfl⟩
    split at h
    · split at h
      · exact nomatch h
      · exact .trans ⟨by simp [syncFree], by simp [syncFree]⟩ (ih h)
    · exact nomatch h

theorem allocFrames_keep {region align count : Nat} {r : Nat × State} (h : allocFrames s n region align count = .ok r) : PagerKeep s r.2 := by
  unfold allocFrames at h
  split at h
  · exact nomatch h
  split at h
  · exact nomatch h
  next q hq =>
    cases h
    exact (takeFrames_keep hq).trans ⟨by simp, by simp⟩

theorem startFill_keep {level e va : Nat} {r : State × Fill} (h : startFill s n level e va = .ok r) : PagerKeep s r.1 := by
  unfold startFill at h
  dsimp only at h
  split at h
  · exact nomatch h
  next q hq =>
    cases h
    exact (allocFrames_keep hq).trans ⟨rfl, rfl⟩

theorem bindShadow_pending {level e va region : Nat} {hs : List ShadowHolder} {layout : Option (Nat × Nat × Nat × Nat)} {u : State}
    (h : bindShadow s n level e va region hs layout = .ok u) : u.pending = s.pending := by
  unfold bindShadow at h
  dsimp only at h
  split at h
  · exact nomatch h
  next q hq =>
    cases h
    rw [syncHeld_pending]
    exact (allocFrames_keep hq).pending

end Pager

/-- A translation for an agent other than a thread: a fill is made at once (R254). -/
@[simp] theorem translate_other_pending (s : State) (n : Fin 17) (va : Nat) (k : AccKind) (alt : Bool) :
    (translate s n va k .other alt).1.pending = s.pending := by
  unfold translate
  dsimp only
  split
  · simp
  · simp
  split
  · split
    · simp
    · simp
    · simp
    split
    · split
      · simp
      · simp [addHolders]
    · split
      · simp
      split
      · simp
      next u hu => simp [bindShadow_pending hu]
  split
  · simp
  split
  · split
    · simp
    next r hr =>
      have hkeep : r.1.pending = s.pending := by
        split at hr
        · cases hr
          simp
        · simp [(startFill_keep hr).pending]
      repeat' split
      all_goals simp [hkeep]
  split <;> simp

@[simp] theorem readEntry_pending (s : State) (t : Tid) (p : Pair) (v : Nat) : (readEntry s t p v).1.pending = s.pending := by
  unfold readEntry
  dsimp only
  split <;> simp

@[simp] theorem lookupFrom_pending (t : Tid) (v : Nat) (nmi : Bool) (f level : Nat) (s : State) :
    (lookupFrom t v nmi f level s).1.pending = s.pending := by
  induction f generalizing level s with
  | zero => rfl
  | succ f ih =>
    unfold lookupFrom
    dsimp only
    repeat' split
    all_goals simp [ih]

/-! ### The ends of tasks -/

section Tasks
variable (s : State)

@[simp] theorem pend_pending (t : Tid) (v : Nat) : (s.pend t v).pending = s.pending := rfl

@[simp] theorem signalCreator_pending (creator creatorTask : Option Nat) (vec ten : Nat) (h : Word) :
    (signalCreator s creator creatorTask vec ten h).pending = s.pending := by
  unfold signalCreator
  split <;> simp

@[simp] theorem releaseGroup_pending (t : Tid) : (releaseGroup s t).pending = s.pending := by
  unfold releaseGroup
  dsimp only
  repeat' split
  all_goals simp

@[simp] theorem freeFramesOf_pending (n : Fin 17) (frame count : Nat) : (freeFramesOf s n frame count).pending = s.pending := by
  simp [freeFramesOf]

@[simp] theorem dropShadows_pending : (dropShadows s).pending = s.pending := by
  unfold dropShadows
  dsimp only
  split
  · rfl
  · rw [retryRemote, foldl_keep _ _ State.pending (fun st x => by simp)]

@[simp] theorem releaseTaskHolds_pending (slot : Nat) : (releaseTaskHolds s slot).pending = s.pending := dropShadows_pending _

@[simp] theorem freeRingSlot_pending (i slot : Nat) : (freeRingSlot s i slot).pending = s.pending := by
  unfold freeRingSlot
  dsimp only
  repeat' split
  all_goals rfl

@[simp] theorem releaseRingSlots_pending (task : Nat) : (releaseRingSlots s task).pending = s.pending := by
  rw [releaseRingSlots, foldl_keep _ _ State.pending]
  intro st e
  rw [foldl_keep _ _ State.pending]
  intro st1 r
  split <;> simp

@[simp] theorem freeTask_pending (slot : Nat) (st : TaskState) : (freeTask s slot st).pending = s.pending := by
  unfold freeTask
  split <;> simp [syncTasks]

@[simp] theorem stopThread_pending (t : Tid) : (stopThread s t).pending = s.pending := by
  simp [stopThread, emptyThread, dropTileWait]

@[simp] theorem abortTask_pending (slot : Nat) : (abortTask s slot).pending = s.pending := by
  unfold abortTask
  dsimp only
  repeat' split
  all_goals simp

/-! ### Entries and halts -/

@[simp] theorem enterFaulted_pending : (enterFaulted s).pending = s.pending := by
  simp [enterFaulted]

/-- The state in which a lookup that ends at L3 leaves the thread and the Drone's mailbox (R97). -/
def halted (s : State) (t : Tid) (i : EntryInfo) : State :=
  let th := s.th t
  let s1 := dropTileWait (s.setTh t { th with
    sv3 := saveSetOf th i, status := .halted, waitsWith := none, iter := 0, inRepn := false, stopPfx := false, stopExt := false,
    nmi := if i.vector = 1 then .none else th.nmi }) t
  { s1 with droneMail := s1.droneMail ++ [⟨t.val / 16, t.val % 16, i.vector⟩] }

theorem haltThread_eq (t : Tid) (i : EntryInfo) :
    haltThread s t i = if s.dstate = dsBringup then enterFaulted (halted s t i) else halted s t i := rfl

@[simp] theorem haltThread_pending (t : Tid) (i : EntryInfo) : (haltThread s t i).pending = s.pending := by
  have hh : (halted s t i).pending = s.pending := rfl
  rw [haltThread_eq]
  split <;> simp [hh]

@[simp] theorem haltAndAbort_pending (t : Tid) (i : EntryInfo) : (haltAndAbort s t i).pending = s.pending := by
  unfold haltAndAbort
  dsimp only
  repeat' split
  all_goals simp

@[simp] theorem setWaiting_pending (t : Tid) (w : WaitOn) (self : Option HeldInstr) : (setWaiting s t w self).pending = s.pending := rfl

@[simp] theorem escalate_pending (t : Tid) (i : EntryInfo) (f orig level sub : Nat) : (escalate t i f orig level sub s).pending = s.pending := by
  induction f generalizing orig level sub s with
  | zero => rfl
  | succ f ih =>
    unfold escalate
    dsimp only
    repeat' split
    all_goals simp [ih]

@[simp] theorem takeTrap_pending (t : Tid) (i : EntryInfo) : (takeTrap t i s).pending = s.pending := by
  unfold takeTrap
  dsimp only
  split <;> simp

@[simp] theorem issue_pending (t : Tid) : (issue s t).pending = s.pending := by
  unfold issue
  dsimp only
  repeat' split
  all_goals rfl

end Tasks

end Sys2Proof.Machine
end

/-!
PROOFS, 16. The entry of a handler: the lookup ends in the table where it starts, and a thread's registers move to the save set (R89 to R96).
-/

section
namespace Sys2Proof.Machine

/-! ### Register pairs -/

theorem pair_writePair (th : Thread) (r : RIdx) (p : Pair) : (th.writePair r p).pair r = p := by
  have he : (evenOf r).val ≠ (oddOf r).val := by simp only [evenOf, oddOf]; omega
  simp [Thread.pair, Thread.g, Thread.writePair, he.symm]

theorem g_writePair_ne (th : Thread) (r q : RIdx) (p : Pair) (h : q.val / 2 ≠ r.val / 2) : (th.writePair r p).g q = th.g q := by
  have h0 : (evenOf r).val ≠ q.val := by simp only [evenOf]; omega
  have h1 : (oddOf r).val ≠ q.val := by simp only [oddOf]; omega
  simp [Thread.g, Thread.writePair, h0, h1]

/-! ### What reading an entry may change of a thread (R91, R254) -/

/-- A thread that has waited for the fill of a page may go on; nothing else of it changes. -/
def Rewoken (a b : Thread) : Prop := ∃ st w, b = { a with status := st, waitsWith := w }

theorem Rewoken.refl (a : Thread) : Rewoken a a := ⟨_, _, rfl⟩

theorem Rewoken.trans {a b c : Thread} (h1 : Rewoken a b) (h2 : Rewoken b c) : Rewoken a c := by
  obtain ⟨st, w, rfl⟩ := h1
  obtain ⟨st', w', rfl⟩ := h2
  exact ⟨st', w', rfl⟩

theorem Rewoken.of_threads {s s' : State} (h : s'.threads = s.threads) (t : Tid) : Rewoken (s.th t) (s'.th t) := by
  rw [th_of_threads h]
  exact .refl _

theorem wakeOn_rewoken (s : State) (w : WaitOn) (t : Tid) : Rewoken (s.th t) ((wakeOn s w).th t) := by
  simp only [wakeOn, State.th, Vector.getElem_map]
  split
  · exact ⟨_, _, rfl⟩
  · exact .refl _

theorem fillDone_rewoken (s : State) (f : Fill) (t : Tid) : Rewoken (s.th t) ((fillDone s f).th t) := by
  have hw := walk_threads s (spaceOf f.space) (f.page * 65536)
  unfold fillDone
  dsimp only
  split
  · split
    · refine .trans (.of_threads ?_ t) (wakeOn_rewoken _ _ t)
      exact ((sliceWrite_sliceKeep ..).threads).trans hw
    · exact .trans (.of_threads hw t) (wakeOn_rewoken _ _ t)
  · exact .trans (.of_threads hw t) (wakeOn_rewoken _ _ t)

/-- A read translated for the module itself (R250, R254). -/
theorem translate_other_rewoken {s : State} {n : Fin 17} {va pa : Nat} {alt : Bool}
    (h : (translate s n va .read .other alt).2 = .ok pa) (t : Tid) : Rewoken (s.th t) ((translate s n va .read .other alt).1.th t) := by
  have hw := walk_threads s n va
  have hset (epa e : Nat) (write : Bool) : (setAccDirty (walk s n va).1 n epa e write).threads = s.threads :=
    (setAccDirty_threads ..).trans hw
  revert h
  unfold translate
  dsimp only
  split
  · nofun
  · nofun
  split
  · split
    · split
      · exact fun _ => .of_threads (hset ..) t
      · nofun
    · split
      · nofun
      split <;> nofun
  split
  · nofun
  split
  · split
    · nofun
    next r hr =>
      have hstart : Rewoken (s.th t) (r.1.th t) := by
        split at hr
        · cases hr
          exact .of_threads hw t
        · exact .of_threads ((startFill_keep hr).threads.trans hw) t
      split
      · refine fun _ => (hstart.trans (fillDone_rewoken r.1 r.2 t)).trans (.of_threads ?_ t)
        exact (setAccDirty_threads ..).trans (walk_threads ..)
      · nofun
      · nofun
  · rw [if_neg (by simp [AccKind.writes])]
    exact fun _ => .of_threads (hset ..) t

theorem readEntry_rewoken {s s1 : State} {t : Tid} {p : Pair} {v : Nat} {e : DescEntry} (h : readEntry s t p v = (s1, .entry e)) (u : Tid) :
    Rewoken (s.th u) (s1.th u) := by
  unfold readEntry at h
  dsimp only at h
  split at h
  · exact nomatch congrArg Prod.snd h
  next pa hpa =>
    obtain rfl := congrArg Prod.fst h
    exact (translate_other_rewoken hpa u).trans (.of_threads (l1Read_threads ..) u)
  · exact nomatch congrArg Prod.snd h

/-! ### The lookup (R90, R91) -/

theorem tableOk_iff {level ten : Nat} {p : Pair} : tableOk level ten p = true ↔
    p.isUnsealed = true ∧ p.toCap.has 0x0009 = true ∧ 4096 ≤ p.toCap.length ∧ p.toCap.base % 64 = 0 ∧
    capRefused level ten p.toCap = none := by
  simp only [tableOk, Bool.and_eq_true, decide_eq_true_eq, beq_iff_eq, Option.isNone_iff_eq_none, and_assoc]
  rfl

/-- The conditions of R91 on an entry, on LRSn and on SVn. -/
structure EntryGood (th : Thread) (level : Nat) (e : DescEntry) : Prop where
  codeUnsealed : e.code.isUnsealed = true
  codeEx : e.code.toCap.has permEX = true
  offsetAligned : e.offset % 4 = 0
  offsetInside : e.offset < e.code.toCap.length
  data : e.data.isCap = true
  stackUnsealed : e.stack.isUnsealed = true
  stackPerms : e.stack.toCap.has (permLD + permST) = true
  stackLength : 64 ≤ e.stack.toCap.length
  codeAccepted : capRefused level th.tenancy.val e.code.toCap = none
  dataAccepted : capRefused level th.tenancy.val e.data.toCap = none
  stackAccepted : capRefused level th.tenancy.val e.stack.toCap = none
  lrsUnsealed : (th.lrs level).isUnsealed = true
  lrsRet : (th.lrs level).toCap.has permRET = true
  notLive : (th.sv level).live = false

theorem entryBad_none {th : Thread} {level : Nat} {e : DescEntry} {nmi : Bool} (h : EntryGood th level e) : entryBad th level e nmi = none := by
  simp [entryBad, h.codeUnsealed, h.codeEx, h.offsetAligned, Nat.not_le.mpr h.offsetInside, h.data, h.stackUnsealed, h.stackPerms,
    Nat.not_lt.mpr h.stackLength, h.codeAccepted, h.dataAccepted, h.stackAccepted, h.lrsUnsealed, h.lrsRet, h.notLive]

/-- The lookup of a vector enters a handler from the table of the level where it starts. -/
theorem lookupFrom_enter {t : Tid} {v f level : Nat} {nmi : Bool} {e : DescEntry} {s s1 : State} (hl : level ≤ 2) (h0 : 1 ≤ level)
    (ht : tableOk level (s.th t).tenancy.val ((s.th t).dt level) = true) (hr : readEntry s t ((s.th t).dt level) v = (s1, .entry e))
    (hp : e.poisoned = false) (hv : e.valid = true) (htarget : e.target = level) (hb : entryBad (s.th t) level e nmi = none) :
    lookupFrom t v nmi (f + 1) level s = (s1, .enter level e) := by
  have h3 : ¬ 3 ≤ level := by omega
  have hbad : (decide (e.target = 0) || decide (e.target < level)) = false := by simp [htarget]; omega
  have hdeep : ¬ level < e.target := by omega
  simp only [lookupFrom, h3, ht, hr, hp, hv, hbad, hdeep, hb, if_false, Bool.not_true, Bool.false_eq_true]

/-! ### The entry (R96) -/

theorem causeWord_eq (vector from_ : Nat) (pfx ext esc async : Bool) (detail : Nat) : causeWord vector from_ pfx ext esc async detail =
    BitVec.ofNat 64 (vector * 2 ^ 42 + from_ * 2 ^ 40 + pfx.toNat * 2 ^ 39 + ext.toNat * 2 ^ 38 + esc.toNat * 2 ^ 37 +
      async.toNat * 2 ^ 36 + detail % 2 ^ 32) := by
  have hb (b : Bool) : b2n b = b.toNat := by cases b <;> rfl
  simp only [causeWord, hb]

section Enter
variable {th : Thread} {n : Nat} {e : DescEntry} {i : EntryInfo}

/-- The entry overwrites what a fill may have changed. -/
theorem enterHandler_rewoken {h : Thread} (hr : Rewoken th h) : enterHandler h n e i = enterHandler th n e i := by
  obtain ⟨st, w, rfl⟩ := hr
  unfold enterHandler Thread.setSv
  split
  · rfl
  split <;> rfl

theorem enterHandler_sv (hn : n = 1 ∨ n = 2) : (enterHandler th n e i).sv n = saveSetOf th i := by
  obtain rfl | rfl := hn <;> rfl

/-- What an entry leaves of the thread: all but the save set of its level and what R96 lists. -/
structure EntryKeep (th h : Thread) (n : Nat) : Prop where
  tenancy : h.tenancy = th.tenancy
  dt1 : h.dt1 = th.dt1
  dt2 : h.dt2 = th.dt2
  lrs1 : h.lrs1 = th.lrs1
  lrs2 : h.lrs2 = th.lrs2
  imask1 : h.imask1 = th.imask1
  imask2 : h.imask2 = th.imask2
  timerCmp : h.timerCmp = th.timerCmp
  ipend : h.ipend = th.ipend
  vregs : h.vregs = th.vregs
  sv3 : h.sv3 = th.sv3
  sv2 : n = 1 → h.sv2 = th.sv2
  sv1 : n = 2 → h.sv1 = th.sv1

theorem enterHandler_keep (hn : n = 1 ∨ n = 2) : EntryKeep th (enterHandler th n e i) n := by
  obtain rfl | rfl := hn
  · exact ⟨rfl, rfl, rfl, rfl, rfl, rfl, rfl, rfl, rfl, rfl, rfl, fun _ => rfl, nofun⟩
  · exact ⟨rfl, rfl, rfl, rfl, rfl, rfl, rfl, rfl, rfl, rfl, rfl, nofun, fun _ => rfl⟩

/-- The general registers after an entry are those of three pair writes. -/
theorem enterHandler_g (hn : n = 1 ∨ n = 2) (r : RIdx) : (enterHandler th n e i).g r =
    (((th.writePair 26 e.data).writePair 30 e.stack).writePair 28
      ⟨Reg.int (saveSetOf th i).cause, Reg.int (BitVec.ofNat 64 e.stack.toCap.length)⟩).g r := by
  obtain rfl | rfl := hn <;> rfl

theorem enterHandler_pairs (hn : n = 1 ∨ n = 2) :
    (enterHandler th n e i).pair 26 = e.data ∧ (enterHandler th n e i).pair 30 = e.stack ∧
    (enterHandler th n e i).pair 28 = ⟨Reg.int (saveSetOf th i).cause, Reg.int (BitVec.ofNat 64 e.stack.toCap.length)⟩ := by
  have hpair (r : RIdx) (x : Thread) (h0 : (enterHandler th n e i).g (evenOf r) = x.g (evenOf r))
      (h1 : (enterHandler th n e i).g (oddOf r) = x.g (oddOf r)) : (enterHandler th n e i).pair r = x.pair r := by
    rw [Thread.pair, h0, h1, Thread.pair]
  refine ⟨?_, ?_, ?_⟩
  · rw [hpair 26 (th.writePair 26 e.data), pair_writePair]
    · rw [enterHandler_g hn, g_writePair_ne _ _ _ _ (by decide), g_writePair_ne _ _ _ _ (by decide)]
    · rw [enterHandler_g hn, g_writePair_ne _ _ _ _ (by decide), g_writePair_ne _ _ _ _ (by decide)]
  · rw [hpair 30 ((th.writePair 26 e.data).writePair 30 e.stack), pair_writePair]
    · rw [enterHandler_g hn, g_writePair_ne _ _ _ _ (by decide)]
    · rw [enterHandler_g hn, g_writePair_ne _ _ _ _ (by decide)]
  · rw [hpair 28 _ (enterHandler_g hn _) (enterHandler_g hn _), pair_writePair]

theorem enterHandler_low (hn : n = 1 ∨ n = 2) {r : RIdx} (hr : r.val < 26) : (enterHandler th n e i).g r = th.g r := by
  have hne (k : RIdx) (hk : 26 ≤ k.val) : r.val / 2 ≠ k.val / 2 := by omega
  rw [enterHandler_g hn, g_writePair_ne _ _ _ _ (hne 28 (by decide)), g_writePair_ne _ _ _ _ (hne 30 (by decide)),
    g_writePair_ne _ _ _ _ (hne 26 (by decide))]

end Enter

/-- An entry where the lookup starts (R87, R96). -/
theorem takeTrap_enter {t : Tid} {i : EntryInfo} {n : Nat} {e : DescEntry} {s s1 : State}
    (hn : startLevel i.vector (s.th t).level.val = n)
    (hl : lookupFrom t i.vector (i.vector == 1) 3 n s = (s1, .enter n e)) :
    takeTrap t i s = s1.setTh t (enterHandler (s1.th t) n e i) := by
  rw [takeTrap, hn, hl]

/-- Settles O24: the lookup ends at its first entry, whose reading leaves the thread but for its waiting; the rest is `enterHandler`. -/
theorem exceptionEntry : Obligations.ExceptionEntry := by
  unfold Obligations.ExceptionEntry
  intro t i n e s s1 th hn hn2 table hu hhas hlen hbase href hread hpois hvalid htarget code stack ok
    hcu hex hoff hlt hdata hsu hst hslen hokc hokd hoks hlu hlr hlive
  have hstart : startLevel i.vector (s.th t).level.val = n := by
    rw [hn]
    simp [startLevel, th]
  have h1 : 1 ≤ n := by
    rw [hn]
    split <;> omega
  have h12 : n = 1 ∨ n = 2 := by omega
  have htable : tableOk n (s.th t).tenancy.val ((s.th t).dt n) = true :=
    tableOk_iff.mpr ⟨hu, hhas, hlen, hbase, href⟩
  have hbad : entryBad (s.th t) n e (i.vector == 1) = none :=
    entryBad_none ⟨hcu, hex, hoff, hlt, hdata, hsu, hst, hslen, hokc, hokd, hoks, hlu, hlr, hlive⟩
  have hrun : takeTrap t i s = s1.setTh t (enterHandler th n e i) := by
    rw [takeTrap_enter hstart (lookupFrom_enter hn2 h1 htable hread hpois hvalid htarget hbad), enterHandler_rewoken (readEntry_rewoken hread t)]
  obtain ⟨hp26, hp30, hp28⟩ := enterHandler_pairs (th := th) (e := e) (i := i) h12
  have hk := enterHandler_keep (th := th) (e := e) (i := i) h12
  refine ⟨enterHandler th n e i, hrun, ?_, ⟨hp26, ?_, ?_, hp30⟩, ?_, fun r hr => enterHandler_low h12 hr, hk.tenancy, hk.dt1, hk.dt2, hk.lrs1,
    hk.lrs2, hk.imask1, hk.imask2, hk.timerCmp, hk.ipend, hk.vregs, hk.sv3, hk.sv2, hk.sv1⟩
  · rw [enterHandler_sv h12]
    exact ⟨rfl, rfl, rfl, rfl, rfl, rfl, rfl, rfl, rfl, rfl, rfl, causeWord_eq .., rfl, rfl, rfl, rfl, rfl, rfl⟩
  · rw [enterHandler_sv h12]
    exact congrArg Pair.a hp28
  · exact congrArg Pair.b hp28
  · refine ⟨rfl, rfl, rfl, rfl, ?_, rfl, rfl, rfl⟩
    obtain rfl | rfl := h12 <;> rfl

end Sys2Proof.Machine
end

/-!
PROOFS, 17. Interrupts, NMI and the local timer: which vector is accepted, what enters or is held, and what a halt leaves (R97, R101, R102, R599).
-/

section
namespace Sys2Proof.Machine

/-! ### One bit replaced -/

theorem setFld_bit (x i v : Nat) : setFld x i i v = 2 ^ i * (2 * (x / 2 ^ (i + 1)) + v % 2) + x % 2 ^ i := by
  have h1 := Nat.div_add_mod x (2 ^ i)
  have h2 := Nat.div_add_mod (x / 2 ^ i) 2
  have h3 : x / 2 ^ i / 2 = x / 2 ^ (i + 1) := by rw [Nat.div_div_eq_div_mul, pow_succ]
  have hle : x / 2 ^ i % 2 * 2 ^ i ≤ x := (Nat.mul_le_mul_right _ (Nat.mod_le ..)).trans (Nat.div_mul_le_self ..)
  rw [setFld, fld, show i + 1 - i = 1 by omega, pow_one]
  rw [← h3]
  generalize x / 2 ^ i = q at *
  generalize x % 2 ^ i = m at *
  generalize 2 ^ i = p at *
  zify [hle] at *
  linear_combination -h1 - p * h2

theorem testBit_setFld (x i v j : Nat) : (setFld x i i v).testBit j = if j = i then v.testBit 0 else x.testBit j := by
  rw [setFld_bit, Nat.testBit_two_pow_mul_add _ (Nat.mod_lt _ (by positivity))]
  obtain hlt | rfl | hgt := lt_trichotomy j i
  · simp [hlt, hlt.ne, Nat.testBit_mod_two_pow]
  · simp [Nat.testBit_zero]
  · obtain ⟨k, rfl⟩ := Nat.exists_eq_add_of_lt hgt
    have hhalf : (2 * (x / 2 ^ (i + 1)) + v % 2) / 2 = x / 2 ^ (i + 1) := by omega
    rw [if_neg (by omega), if_neg (by omega), show i + k + 1 - i = k + 1 by omega, Nat.testBit_succ, hhalf, Nat.testBit_div_two_pow]
    congr 1
    omega

/-- Bit v of a word cleared (R101). -/
theorem setFld_clear (w : Word) (v : Nat) : BitVec.ofNat 64 (setFld w.toNat v v 0) = w &&& ~~~ (1#64 <<< v) := by
  apply BitVec.eq_of_getLsbD_eq
  intro j hj
  have hone : ((1#64 <<< v).getLsbD j) = decide (j = v) := by
    rw [BitVec.getLsbD_shiftLeft, BitVec.getLsbD_one, ← Bool.decide_and, ← decide_not, ← Bool.decide_and, ← Bool.decide_and]
    exact decide_eq_decide.mpr (by omega)
  rw [BitVec.getLsbD_ofNat, testBit_setFld, BitVec.getLsbD_and, BitVec.getLsbD_not, hone, BitVec.testBit_toNat]
  by_cases h : j = v <;> simp [h, hj]

/-! ### The accepted vector (R101, R599) -/

/-- Vector v is pending on a thread. -/
def Pends (s : State) (t : Tid) (v : Nat) : Prop :=
  if v = 56 then (s.th t).timerCmp.toNat ≤ (s.core t.core).timerNow.toNat else 32 ≤ v ∧ v < 64 ∧ (s.th t).ipend.toNat.testBit v = true

/-- Vector v is pending and IMASK of the thread's level enables it. -/
def Takes (s : State) (t : Tid) (v : Nat) : Prop :=
  Pends s t v ∧ (if (s.th t).level.val = 2 then (s.th t).imask2 else (s.th t).imask1).toNat.testBit v = true

/-- A thread is at a boundary where a vector can enter (R107). -/
def AtBoundary (th : Thread) : Prop := th.status = .active ∨ th.status = .loaded ∨ ∃ w, th.status = .waiting w

theorem atBoundary_iff (th : Thread) : th.atBoundary = true ↔ AtBoundary th := by
  unfold Thread.atBoundary AtBoundary
  cases th.status <;> simp

section Vectors
variable {s : State} {t : Tid} {v : Nat}

theorem Pends.range (h : Pends s t v) : 32 ≤ v ∧ v < 64 := by
  unfold Pends at h
  split at h
  · omega
  · exact ⟨h.1, h.2.1⟩

theorem pendingOf_testBit (h32 : 32 ≤ v) (h64 : v < 64) : (pendingOf s t).testBit v = true ↔ Pends s t v := by
  rw [pendingOf, testBit_setFld, Pends]
  split
  · rw [b2n]
    split <;> simp_all
  · rw [Nat.testBit_mul_two_pow, Nat.testBit_div_two_pow, Nat.sub_add_cancel h32]
    simp [h32, h64]

/-- The mask of a level. -/
theorem mask_toNat (th : Thread) : (if th.level.val = 2 then th.imask2.toNat else th.imask1.toNat) =
    (if th.level.val = 2 then th.imask2 else th.imask1).toNat := by
  split <;> rfl

theorem accepts_iff : (v < 64 ∧ (decide (32 ≤ v) && bit (Nat.land (pendingOf s t)
    (if (s.th t).level.val = 2 then (s.th t).imask2.toNat else (s.th t).imask1.toNat)) v) = true) ↔ Takes s t v := by
  have hland (a b : Nat) : bit (Nat.land a b) v = (a.testBit v && b.testBit v) := by
    rw [bit_eq_testBit]
    exact Nat.testBit_and ..
  rw [mask_toNat, hland, Takes, Bool.and_eq_true, Bool.and_eq_true, decide_eq_true_eq]
  constructor
  · exact fun ⟨h64, h32, hp, hm⟩ => ⟨(pendingOf_testBit h32 h64).mp hp, hm⟩
  · exact fun ⟨hp, hm⟩ => ⟨hp.range.2, hp.range.1, (pendingOf_testBit hp.range.1 hp.range.2).mpr hp, hm⟩

theorem acceptedVector_eq (hie : (s.th t).ie = true) (hr : (s.th t).inRepn = false) (hb : AtBoundary (s.th t)) :
    acceptedVector s t = (upto 64).find? (fun v => decide (32 ≤ v) && bit (Nat.land (pendingOf s t)
      (if (s.th t).level.val = 2 then (s.th t).imask2.toNat else (s.th t).imask1.toNat)) v) := by
  simp [acceptedVector, hie, hr, (atBoundary_iff _).mpr hb]

/-- The lowest vector that the thread takes is the accepted one. -/
theorem acceptedVector_some (hie : (s.th t).ie = true) (hr : (s.th t).inRepn = false) (hb : AtBoundary (s.th t)) (hv : Takes s t v)
    (hlow : ∀ w < v, ¬ Takes s t w) : acceptedVector s t = some v := by
  obtain ⟨h64, hacc⟩ := accepts_iff.mpr hv
  rw [acceptedVector_eq hie hr hb]
  exact find?_upto h64 hacc fun w hw => Bool.not_eq_true _ ▸ fun h => hlow w hw (accepts_iff.mp ⟨hw.trans h64, h⟩)

theorem acceptedVector_none (h : (s.th t).ie = false ∨ (s.th t).inRepn = true ∨ ¬ AtBoundary (s.th t) ∨ ∀ v, ¬ Takes s t v) :
    acceptedVector s t = none := by
  by_cases hgo : (s.th t).ie = true ∧ (s.th t).inRepn = false ∧ AtBoundary (s.th t)
  · obtain ⟨hie, hr, hb⟩ := hgo
    have hno : ∀ v, ¬ Takes s t v := by simpa [hie, hr, hb] using h
    rw [acceptedVector_eq hie hr hb, List.find?_eq_none]
    exact fun v hv hacc => hno v (accepts_iff.mp ⟨mem_upto.mp hv, hacc⟩)
  · have hstop : (!(s.th t).ie || (s.th t).inRepn || !(s.th t).atBoundary) = true := by
      by_contra hc
      simp only [Bool.not_eq_true, Bool.or_eq_false_iff, Bool.not_eq_false', atBoundary_iff] at hc
      exact hgo ⟨hc.1.1, hc.1.2, hc.2⟩
    simp only [acceptedVector, hstop, if_true]

theorem interruptEntry_takes (hv : acceptedVector s t = some v) : execInterruptEntry t s =
    .next (takeAsync (s.setTh t { s.th t with ipend := (s.th t).ipend &&& ~~~ (1#64 <<< v) }) t v) := by
  simp only [execInterruptEntry, hv, setFld_clear]

theorem interruptEntry_idle (h : acceptedVector s t = none) : execInterruptEntry t s = .next s := by
  simp only [execInterruptEntry, h]

end Vectors

/-! ### NMI (R102) -/

section Nmi
variable {s : State} {t : Tid}

theorem execNmi_thread : execNmi (.thread t) s = .next (deliverNmi s t) := rfl

theorem deliverNmi_empty (h : (s.th t).status = .empty) : deliverNmi s t = s := by
  simp [deliverNmi, h]

theorem AtBoundary.not_empty {th : Thread} (h : AtBoundary th) : th.status ≠ .empty := by
  obtain h | h | ⟨w, h⟩ := h <;> simp [h]

theorem deliverNmi_enters (hb : AtBoundary (s.th t)) (hl : (s.th t).sv2.live = false) : deliverNmi s t = takeAsync s t 1 := by
  simp [deliverNmi, hb.not_empty, (atBoundary_iff _).mpr hb, hl]

theorem deliverNmi_held (he : (s.th t).status ≠ .empty) (h : (s.th t).sv2.live = true ∨ ¬ AtBoundary (s.th t)) :
    deliverNmi s t = s.setTh t { s.th t with nmi := .held } := by
  have hno : ((s.th t).atBoundary && !(s.th t).sv2.live) = false := by
    rw [Bool.and_eq_false_iff, Bool.not_eq_false', ← Bool.not_eq_true, atBoundary_iff]
    exact h.symm
  simp [deliverNmi, he, hno]

@[simp] theorem takeAsync_pending (s : State) (t : Tid) (v : Nat) : (takeAsync s t v).pending = s.pending := by
  simp [takeAsync, dropTileWait]

theorem deliverNmi_pending (s : State) (t : Tid) : (deliverNmi s t).pending = s.pending := by
  unfold deliverNmi
  dsimp only
  repeat' split
  all_goals simp

theorem execNmi_pending (target : NmiTarget) : ∃ u, execNmi target s = .next u ∧ u.pending = s.pending :=
  ⟨_, rfl, foldl_keep _ _ State.pending deliverNmi_pending s⟩

theorem nmiHoldExpiry_halts (hn : (s.th t).nmi = .held) (hb : AtBoundary (s.th t)) (hl : (s.th t).sv2.live = true)
    (hd : s.dstate ≠ dsBringup) :
    execNmiHoldExpiry t s = .next (halted s t ⟨1, 0, 0, (s.th t).stopPfx, (s.th t).stopExt, true, true⟩) := by
  have hgo : (decide ((s.th t).nmi = .held) && (s.th t).atBoundary && (s.th t).sv2.live) = true := by
    simp [hn, (atBoundary_iff _).mpr hb, hl]
  simp only [execNmiHoldExpiry, hgo, if_true]
  rw [haltThread_eq, if_neg hd]

/-- A halted thread: SV3 holds the interrupted point (R97). -/
theorem halted_th (i : EntryInfo) : (halted s t i).th t = { s.th t with
    sv3 := saveSetOf (s.th t) i, status := .halted, waitsWith := none, iter := 0, inRepn := false, stopPfx := false, stopExt := false,
    nmi := if i.vector = 1 then .none else (s.th t).nmi } := State.th_setTh ..

theorem halted_mail (i : EntryInfo) : (halted s t i).droneMail = s.droneMail ++ [⟨t.val / 16, t.val % 16, i.vector⟩] := rfl

end Nmi

/-! ### The local timer (R599) -/

section Timer
variable {s : State}

theorem addStepTime_keep {γ : Type} (g : State → γ) (hg : ∀ (u : State) n i j v, g (u.setTen n i j v) = g u) (n k : Nat) (u : State) :
    g (addStepTime n u k) = g u := by
  unfold addStepTime
  split
  · exact hg ..
  · rfl

theorem passCycles_on (h : s.clockOn = true) (n : Nat) :
    (passCycles s n).threads = s.threads ∧ (passCycles s n).hbm = s.hbm ∧
    (passCycles s n).cores = s.cores.map (fun k => { k with timerNow := k.timerNow + BitVec.ofNat 64 n }) := by
  have hoff : (!s.clockOn) = false := by rw [h]; rfl
  simp only [passCycles, hoff, Bool.false_eq_true, if_false]
  refine ⟨?_, ?_, ?_⟩
  · rw [foldl_keep _ _ State.threads (fun u k => addStepTime_keep State.threads (by simp) n k u)]
  · rw [foldl_keep _ _ State.hbm (fun u k => addStepTime_keep State.hbm (by simp) n k u)]
  · rw [foldl_keep _ _ State.cores (fun u k => addStepTime_keep State.cores (by simp) n k u)]

theorem passCycles_timerNow (h : s.clockOn = true) (n : Nat) (c : CoreId) :
    ((passCycles s n).core c).timerNow = (s.core c).timerNow + BitVec.ofNat 64 n := by
  simp [State.core, (passCycles_on h n).2.2]

/-- The cycles missing to the compare value bring the timer to it. -/
theorem timer_reaches (cmp now : Word) : cmp.toNat ≤ (now + BitVec.ofNat 64 (cmp.toNat - now.toNat)).toNat := by
  bv_omega

end Timer

/-- Settles O26: the lowest vector of the pending ones that IMASK enables; an NMI by the boundary and by LIVE of SV2; the timer by the
cycles that are missing. -/
theorem asynchronousEntries : Obligations.AsynchronousEntries := by
  unfold Obligations.AsynchronousEntries
  intro t s th boundary pends takes enters
  refine ⟨fun v hie hr hb hv hlow => ?_, fun h => interruptEntry_idle (acceptedVector_none h), fun he => ?_, fun hb hl => ?_, fun he h => ?_,
    fun hn hb hl hd => ⟨_, nmiHoldExpiry_halts hn hb hl hd, ?_⟩, fun hc => ?_, fun target => execNmi_pending target⟩
  · rw [exec_interruptEntry, interruptEntry_takes (acceptedVector_some hie hr hb hv hlow), takeAsync, State.th_setTh]
  · rw [exec_nmi, execNmi_thread, deliverNmi_empty he]
  · rw [exec_nmi, execNmi_thread, deliverNmi_enters hb hl]
    rfl
  · rw [exec_nmi, execNmi_thread, deliverNmi_held he h]
  · rw [halted_th, halted_mail]
    exact ⟨rfl, rfl, rfl, rfl, rfl, List.mem_append_right _ (List.mem_singleton_self _)⟩
  · obtain ⟨hth, hhbm, -⟩ := passCycles_on hc (th.timerCmp.toNat - (s.core t.core).timerNow.toNat)
    refine ⟨_, rfl, hth, ?_, hhbm⟩
    rw [passCycles_timerNow hc]
    exact timer_reaches ..



end Sys2Proof.Machine
end

/-!
PROOFS, 18. The state after reset: every thread, core and function is that of reset, and every Stop reads its default (R107, R545).
-/

section
namespace Sys2Proof.Machine

theorem reset_th (t : Tid) : State.reset.th t = .reset := by simp [State.th, State.reset]

theorem reset_fn (f : Fin 16) : State.reset.fn f = .reset := by simp [State.fn, State.reset]

/-- The Stops of a ring of a function's window read all ones (R529). -/
theorem stopDefault_sequence {q : Nat} (hq : q < 64) :
    stopDefault 0xC0A0 q = 0xFFFFFFFF ∧ stopDefault 0xC0A1 q = 0xFFFFFFFF ∧ stopDefault 0xC0A2 q = 0xFFFFFFFF := by
  have h63 : q ≤ 0x3F := by omega
  have h64 : q ≤ 0x40 := by omega
  simp [stopDefault, stopInfo, inWindow, stopInfoT, subTo, h63, h64, stopU]

/-- The dividers of the quarters (R571). -/
theorem stopDefault_divider {q : Nat} (hq : q < 4) : stopDefault 0x2001 q = 12 := by
  have h3 : q ≤ 3 := by omega
  simp [stopDefault, stopInfo, inWindow, stopInfoA, subTo, h3, stopU]

/-- The link ports (R385). -/
theorem stopDefault_port {p : Nat} (hp : p < 16) : stopDefault 0x4001 p = 1 := by
  have h15 : p ≤ 15 := by omega
  simp [stopDefault, stopInfo, inWindow, stopInfoA, stopInfoB, subTo, h15, stopU]

/-- Settles O59: by the records of reset and the defaults of the index map. -/
theorem resetValues : Obligations.ResetValues := by
  unfold Obligations.ResetValues
  intro s
  have hthread : ∀ t : Tid, (s.th t).status = .empty ∧ (s.th t).timerCmp = 0xFFFFFFFFFFFFFFFF ∧ (s.th t).sv1.live = false ∧
      (s.th t).sv2.live = false ∧ (s.th t).sv3.live = false ∧ (s.th t).task = none ∧ (s.th t).epoch = none := fun t => by
    rw [reset_th]
    exact ⟨rfl, rfl, rfl, rfl, rfl, rfl, rfl⟩
  have hfn : ∀ f : Fin 16, (s.fn f).enabled = false ∧ (s.fn f).cmds = [] ∧ (s.fn f).ev.ctl = 0 ∧
      ∀ q, ((s.fn f).sq q).ctl = 0 ∧ ((s.fn f).cq q).ctl = 0 := fun f => by
    rw [reset_fn]
    exact ⟨rfl, rfl, rfl, fun q => ⟨rfl, rfl⟩⟩
  have hten : ∀ n, s.tstate n = 0 ∧ s.ten n 0xC010 1 = 16384 ∧ s.ten n 0xC010 2 = 64 ∧ s.ten n 0xC020 4 = 0xFFFFFFFF ∧
      s.ten n 0xC080 3 = 0xFFFF ∧ ∀ q < 64, s.ten n 0xC0A0 q = 0xFFFFFFFF ∧ s.ten n 0xC0A1 q = 0xFFFFFFFF ∧ s.ten n 0xC0A2 q = 0xFFFFFFFF :=
    fun n => ⟨rfl, rfl, rfl, rfl, rfl, fun q hq => stopDefault_sequence hq⟩
  exact ⟨reset_memory_wf, rfl, hthread, rfl, rfl, rfl, rfl, rfl, rfl, rfl, rfl, rfl, rfl, rfl, rfl, rfl, rfl, rfl, hfn, hten,
    fun q hq => stopDefault_divider hq, rfl, rfl, rfl, rfl, rfl, rfl, rfl, rfl, rfl, fun p hp => stopDefault_port hp, rfl, rfl, rfl⟩

end Sys2Proof.Machine
end

/-!
PROOFS, 19. Creating tasks and epochs: what TASK.NEW makes of a descriptor, and the epoch slots of a tenancy (R111, R115, R116, R132).
-/

section
namespace Sys2Proof.Machine

/-! ### The early wake of a unit (R120) -/

theorem wakeLv_eq (s : State) (c : CoreId) : wakeLv s c = { s with cores := (wakeLv s c).cores } := by
  unfold wakeLv
  dsimp only
  split <;> rfl

/-- Two tables of tasks that differ at most in the core chosen for one slot. -/
structure SameButCore (slot : Nat) (a b : Tab Task) : Prop where
  others : ∀ x, x ≠ slot → Tab.get? b x = Tab.get? a x
  there : ∀ k, Tab.get? a slot = some k → ∃ c, Tab.get? b slot = some { k with core := c }

theorem SameButCore.refl (slot : Nat) (a : Tab Task) : SameButCore slot a a := ⟨fun _ _ => rfl, fun k hk => ⟨k.core, hk⟩⟩

theorem SameButCore.put {slot : Nat} {a : Tab Task} {k : Task} (hk : Tab.get? a slot = some k) (c : Option Nat) :
    SameButCore slot a (Tab.put a slot { k with core := c }) := by
  refine ⟨fun x hx => Tab.get?_put_ne _ _ _ _ hx, fun q hq => ?_⟩
  obtain rfl : k = q := Option.some.inj (hk.symm.trans hq)
  exact ⟨c, Tab.get?_put ..⟩

/-- It wakes a unit and notes a core; nothing else changes. -/
theorem preWake_eq (s : State) (slot : Nat) : ∃ cores tasks, preWake s slot = { s with cores := cores, tasks := tasks } ∧
    SameButCore slot s.tasks tasks := by
  have hsame : ∃ cores tasks, s = { s with cores := cores, tasks := tasks } ∧ SameButCore slot s.tasks tasks :=
    ⟨s.cores, s.tasks, rfl, .refl ..⟩
  unfold preWake
  split
  · exact hsame
  next k hk =>
    split
    · split
      · exact hsame
      next c _ => exact ⟨_, Tab.put s.tasks slot { k with core := some c }, wakeLv_eq .., .put hk _⟩
    · exact hsame

/-! ### TASK.NEW (R111, R115) -/

section TaskNew
variable {t : Tid} {rd r : RIdx} {cs : PIdx} {s s1 s2 u : State} {gs : List Granule} {d : TaskDesc}

/-- What the descriptor of a new task leaves in its record. -/
structure MadeFrom (d : TaskDesc) (ten : Fin 16) (dev : Bool) (epoch : Option Nat) (q : Task) : Prop where
  state : q.state = if d.cue = 0 then .dispatchable else .waitCue
  cue : q.cue = d.cue
  code : q.code = d.code
  rstack : q.rstack = d.rstack
  dstack : q.dstack = d.dstack
  argC : q.argC = d.argC
  w0 : q.w0 = d.w0
  succ : q.succ = d.succ
  group : q.group = d.group
  tenancy : q.tenancy = ten
  dev_eq : q.dev = dev
  epoch_eq : q.epoch = epoch
  thread : q.thread = none

/-- The new task stands in the lowest free slot and, without cues to wait for, last in the queue (R113). -/
theorem newTask_facts (s : State) (d : TaskDesc) (ten : Fin 16) (dev : Bool) (epoch creator creatorTask : Option Nat) :
    let slot := Tab.lowestFree s.tasks
    let u := (newTask s d ten dev epoch creator creatorTask).2
    (∃ q, Tab.get? u.tasks slot = some q ∧ MadeFrom d ten dev epoch q) ∧ (∀ x, x ≠ slot → Tab.get? u.tasks x = Tab.get? s.tasks x) ∧
      u.ready = (if d.cue = 0 then s.ready ++ [slot] else s.ready) ∧ u.threads = s.threads := by
  intro slot u
  obtain ⟨cores, tasks, hu, hothers, hthere⟩ := preWake_eq (syncTasks _ ten.val) slot
  change u = _ at hu
  simp only [syncTasks, State.setTen_tasks] at hothers hthere
  obtain ⟨c, hc⟩ := hthere _ (Tab.get?_put ..)
  rw [hu]
  refine ⟨⟨_, hc, rfl, rfl, rfl, rfl, rfl, rfl, rfl, rfl, rfl, rfl, rfl, rfl, rfl⟩, fun x hx => ?_, ?_, ?_⟩
  · exact (hothers x hx).trans (Tab.get?_put_ne _ _ _ _ hx)
  · exact State.setTen_ready ..
  · exact State.setTen_threads ..

/-- The tenancy of a task by its CODE (R111): none for a monitor task. -/
def taskTenancy (d : TaskDesc) : Fin 16 := if d.code.toCap.dev then 0 else ⟨d.code.toCap.tenancy % 16, Nat.mod_lt _ (by decide)⟩

theorem taskTenancy_val (d : TaskDesc) : (taskTenancy d).val = if d.code.toCap.dev then 0 else d.code.toCap.tenancy % 16 := by
  unfold taskTenancy
  split <;> rfl

/-- What TASK.NEW does once it has read a descriptor whose capabilities pass R73. -/
def taskNewTail (t : Tid) (rd : RIdx) (th : Thread) (d : TaskDesc) : M Unit := do
  let dev := d.code.toCap.dev
  let s1 ← getS
  match descGood d, descEpoch s1 th (taskTenancy d).val d with
  | true, some ep =>
    if taskRoom s1 (taskTenancy d).val dev then do
      let slot ← runS (fun s2 => newTask s2 d (taskTenancy d) dev ep (some t.val) (creatorKey s2 t))
      let s3 ← getS
      match Tab.get? s3.tasks slot with
      | some q => wr t rd ⟨taskHandle q slot, .handle⟩
      | none => pure ()
    else putStatus t rd stExhausted
  | _, _ => putStatus t rd stRange

/-- TASK.NEW is given a readable descriptor without poison, whose capabilities R73 accepts. -/
structure ReadsDesc (t : Tid) (cs : PIdx) (r : RIdx) (s1 s2 : State) (gs : List Granule) : Prop where
  unsealed : ((s1.th t).cap cs).isUnsealed = true
  tag : ((s1.th t).g r).tag = .int
  allowed : Allowed (s1.th t) ((s1.th t).cap cs).toCap 0x1001 ((((s1.th t).cap cs).toCap.base + ((s1.th t).g r).val.toNat) % 2 ^ 64) 128 128
  load : loadGranules t ((s1.th t).cap cs).toCap.space 8 ((((s1.th t).cap cs).toCap.base + ((s1.th t).g r).val.toNat) % 2 ^ 64)
    (begun t s1) = .ok gs s2
  clean : ∀ g ∈ gs, g.2.1 = false ∧ g.2.2.2.1 = false
  accepted : descRefused (s1.th t) (taskDescOf gs) = none

theorem findIdx?_none {α : Type} {p : α → Bool} {l : List α} (h : ∀ x ∈ l, p x = false) (k : Nat) : findIdx? p l k = none := by
  rw [← List.append_nil l, findIdx?_append h, findIdx?]

theorem granuleWords_clean (h : ∀ g ∈ gs, g.2.1 = false ∧ g.2.2.2.1 = false) : ∀ w ∈ granuleWords gs, w.2 = false := by
  intro w hw
  obtain ⟨l, hl, hwl⟩ := List.mem_flatten.mp hw
  obtain ⟨g, hg, rfl⟩ := List.mem_map.mp hl
  obtain ⟨ha, hb⟩ := h g hg
  rcases List.mem_pair.mp hwl with rfl | rfl
  · exact ha
  · exact hb

theorem intBits_add (x y : Nat) : intBits 64 ((x : Int) + y) = (x + y) % 2 ^ 64 := by
  rw [intBits]
  omega

theorem loadGranules_threads {n : Fin 17} {k va : Nat} (h : loadGranules t n k va s = .ok gs s1) : s1.threads = s.threads := by
  induction k generalizing va s gs with
  | zero =>
    obtain ⟨-, rfl⟩ := EStateM.Result.ok.inj h
    rfl
  | succ k ih =>
    obtain ⟨g, v, h1, h⟩ := M.bind_ok h
    obtain ⟨l, w, h2, h⟩ := M.bind_ok h
    obtain ⟨-, rfl⟩ := EStateM.Result.ok.inj h
    exact (ih h2).trans (loadGranule_threads h1)

/-- After its reads TASK.NEW goes on in the state they leave, where its thread is as it was. -/
theorem taskNew_run {th : Thread} (h : Fetches t 4 false s s1) (hd : ReadsDesc t cs r s1 s2 gs)
    (ht : taskNewTail t rd { s1.th t with iter := 0 } (taskDescOf gs) s2 = .ok () (u.setTh t th)) (hp : th.pc = (u.th t).pc) :
    exec (.taskNew t rd cs r) s = .next (done t 4 u th) := by
  have hops : ∀ o ∈ csOps ((s1.th t).cap cs) ++ [argOp 6 .index ((s1.th t).g r)], o.Fine := fun o ho =>
    (List.mem_append.mp ho).elim (csOps_fine hd.unsealed o) (fun ho => List.mem_singleton.mp ho ▸ int_arg_fine hd.tag 6)
  have hchecks := dataChecks_run hd.allowed.begun
  have hpoison := findIdx?_none (granuleWords_clean hd.clean) 0
  have hmask : permTASK + permLD = 0x1001 := rfl
  have hrefused : descRefused { s1.th t with iter := 0 } (taskDescOf gs) = none := hd.accepted
  rw [exec_taskNew, execTaskNew]
  refine simple_done h ?_ hp
  rw [← ht]
  simp only [M.bind_run, getT_run, begun_th, cap_withIter, g_withIter, checkOps_fine hops, hmask, intBits_add, hchecks, hd.load, hpoison,
    hrefused]
  rfl

/-- A thread outside an epoch makes tasks outside one when PRED is 0 (R132). -/
theorem descEpoch_none {th : Thread} {ten : Nat} (he : th.epoch = none) (hf : d.flags.testBit 1 = false) (hp : d.pred = 0) (s : State) :
    descEpoch s th ten d = some none := by
  simp only [descEpoch, he, bit_eq_testBit, hf, hp, Bool.false_eq_true, if_false, if_true]

section Ends
variable {th : Thread} (he : th.epoch = none) (hf : d.flags.testBit 1 = false) (hp : d.pred = 0)
include he hf hp

theorem taskNewTail_bad (hgood : descGood d = false) : taskNewTail t rd th d u = putStatus t rd 5 u := by
  simp only [taskNewTail, M.bind_run, getS_run, descEpoch_none he hf hp, hgood]
  rfl

theorem taskNewTail_full (hgood : descGood d = true) (hroom : taskRoom u (taskTenancy d).val d.code.toCap.dev = false) :
    taskNewTail t rd th d u = putStatus t rd 9 u := by
  simp only [taskNewTail, M.bind_run, getS_run, descEpoch_none he hf hp, hgood, hroom, Bool.false_eq_true, if_false]
  rfl

theorem taskNewTail_room (hgood : descGood d = true) (hroom : taskRoom u (taskTenancy d).val d.code.toCap.dev = true) :
    let slot := Tab.lowestFree u.tasks
    let v := (newTask u d (taskTenancy d) d.code.toCap.dev none (some t.val) (creatorKey u t)).2
    ∃ q, Tab.get? v.tasks slot = some q ∧ MadeFrom d (taskTenancy d) d.code.toCap.dev none q ∧
      taskNewTail t rd th d u = .ok () (v.setTh t ((v.th t).write rd ⟨taskHandle q slot, .handle⟩)) := by
  intro slot v
  obtain ⟨⟨q, hq, hmade⟩, -⟩ := newTask_facts u d (taskTenancy d) d.code.toCap.dev none (some t.val) (creatorKey u t)
  refine ⟨q, hq, hmade, ?_⟩
  have hslot : (newTask u d (taskTenancy d) d.code.toCap.dev none (some t.val) (creatorKey u t)).1 = Tab.lowestFree u.tasks := rfl
  simp only [taskNewTail, M.bind_run, getS_run, descEpoch_none he hf hp, hgood, hroom, if_true, runS_run, hslot, hq]
  rfl

end Ends

end TaskNew

/-! ### The epoch slots of a tenancy (R115, R116) -/

section Epochs
variable {t : Tid} {rd r : RIdx} {cs : PIdx} {s s1 u : State} {n : Nat}

/-- A tenancy that holds fewer than 64 slots has a free one. -/
theorem exists_free_epoch (h : (epochsOf s n).length < 64) : ∃ i < 64, Tab.get? s.epochs (64 * n + i) = none := by
  by_contra hall
  have hsub : (Finset.range 64).image (64 * n + ·) ⊆ ((epochsOf s n).map Prod.fst).toFinset := fun key hkey => by
    obtain ⟨i, hi, rfl⟩ := Finset.mem_image.mp hkey
    have hi := Finset.mem_range.mp hi
    obtain ⟨e, he⟩ := Option.ne_none_iff_exists'.mp fun hn => hall ⟨i, hi, hn⟩
    refine List.mem_toFinset.mpr (List.mem_map.mpr ⟨_, List.mem_filter.mpr ⟨Tab.mem_of_get? he, ?_⟩, rfl⟩)
    simp only [beq_iff_eq]
    omega
  have hcard := (Finset.card_le_card hsub).trans (List.toFinset_card_le _)
  rw [Finset.card_image_of_injective _ (fun a b hab => by simpa using hab), Finset.card_range, List.length_map] at hcard
  omega

/-- The lowest free epoch slot of a tenancy. -/
def freeEpoch (s : State) (n : Nat) : Nat := ((upto 64).find? (fun i => (Tab.get? s.epochs (64 * n + i)).isNone)).getD 0

theorem freeEpoch_free (h : (epochsOf s n).length < 64) : freeEpoch s n < 64 ∧ Tab.get? s.epochs (64 * n + freeEpoch s n) = none := by
  obtain ⟨i, hi, hfree⟩ := exists_free_epoch h
  have hfound : ((upto 64).find? (fun i => (Tab.get? s.epochs (64 * n + i)).isNone)).isSome = true :=
    List.find?_isSome.mpr ⟨i, mem_upto.mpr hi, by rw [hfree]; rfl⟩
  obtain ⟨j, hj⟩ := Option.isSome_iff_exists.mp hfound
  rw [freeEpoch, hj, Option.getD_some]
  exact ⟨mem_upto.mp (List.mem_of_find?_eq_some hj), Option.isNone_iff_eq_none.mp (List.find?_some (p := fun i => (Tab.get? s.epochs (64 * n + i)).isNone) hj)⟩

/-- The epoch that TASK.EPOCH opens. -/
def openedEpoch (s : State) (t : Tid) (step : Bool) : Epoch :=
  { gen := Tab.getD s.epochGen (64 * (s.th t).tenancy.val + freeEpoch s (s.th t).tenancy.val) 0 + 1, state := .opened, step := step,
    creator := some t.val, creatorTask := creatorKey s t, lines := 0, flips := [], vote := 0, torn := false }

theorem newEpoch_epochs (step : Bool) : (newEpoch t step s).2.epochs =
    Tab.put s.epochs (64 * (s.th t).tenancy.val + freeEpoch s (s.th t).tenancy.val) (openedEpoch s t step) := by
  simp only [newEpoch, syncEpochs, State.setTen_epochs]
  rfl

theorem newEpoch_threads (step : Bool) : (newEpoch t step s).2.threads = s.threads := by
  simp only [newEpoch, syncEpochs, State.setTen_threads]

theorem newEpoch_handle (step : Bool) : (newEpoch t step s).1 =
    handleWord 2 (s.th t).tenancy.val false (openedEpoch s t step).gen (freeEpoch s (s.th t).tenancy.val) := rfl

theorem epochHandle_eq {n gen slot : Nat} (h : slot < 64) :
    handleWord 2 n false gen slot = BitVec.ofNat 64 (2 * 2 ^ 60 + n * 2 ^ 56 + gen % 2 ^ 23 * 2 ^ 32 + slot) := by
  have hslot : slot % 2 ^ 32 = slot := Nat.mod_eq_of_lt (by omega)
  have hdev : b2n false = 0 := rfl
  rw [handleWord, hslot, hdev, Nat.zero_mul, Nat.add_zero]
  rfl

/-- An instruction that starts anew and ends with a write of its thread. -/
theorem runInstr_wroteThread {i : InstrInfo} {body : M Unit} {th : Thread} (h : Fetches t i.len i.ext s s1) (hr : i.resumable = false)
    (hb : body (begun t s1) = .ok () (u.setTh t th)) (hp : th.pc = (u.th t).pc) : runInstr t i (plain body) s = .next (done t i.len u th) := by
  rw [runInstr_done h hr hb, State.th_setTh, done_setTh t _ u th th hp]

/-- TASK.EPOCH has authority and an INT argument. -/
structure AsksEpoch (t : Tid) (cs : PIdx) (r : RIdx) (s1 : State) : Prop where
  auth : Auth (s1.th t) cs 0x1000
  tag : ((s1.th t).g r).tag = .int

theorem AsksEpoch.start (h : AsksEpoch t cs r s1) :
    taskStart t cs [argOp 9 .index ((s1.th t).g r)] permTASK (begun t s1) = .ok () (begun t s1) :=
  taskStart_run h.auth (List.forall_mem_singleton.mpr (int_arg_fine h.tag 9))

theorem not_above_one {v : Word} (h : v = 0 ∨ v = 1) : ¬ 1 < v.toNat := by
  rcases h with rfl | rfl <;> decide

/-- With a free slot TASK.EPOCH opens an epoch and gives its handle. -/
theorem taskEpoch_opens (h : Fetches t 4 false s s1) (ha : AsksEpoch t cs r s1) (hv : ((s1.th t).g r).val = 0 ∨ ((s1.th t).g r).val = 1)
    (hroom : (epochsOf s1 (s1.th t).tenancy.val).length < 64) :
    let slot := freeEpoch s1 (s1.th t).tenancy.val
    let e := openedEpoch s1 t (((s1.th t).g r).val == 1)
    ∃ u, exec (.taskEpoch t rd cs r) s = .next u ∧ u.epochs = Tab.put s1.epochs (64 * (s1.th t).tenancy.val + slot) e ∧
      (u.th t).g rd = ⟨handleWord 2 (s1.th t).tenancy.val false e.gen slot, .handle⟩ ∧ (u.th t).pc = (s1.th t).pc + 4 := by
  intro slot e
  let p := newEpoch t (((s1.th t).g r).val == 1) (begun t s1)
  have hth : p.2.th t = (begun t s1).th t := th_of_threads (newEpoch_threads _) t
  have hopened : openedEpoch (begun t s1) t (((s1.th t).g r).val == 1) = e := by
    simp only [openedEpoch, creatorKey_begun, begun_th]
    rfl
  have hslot : ((begun t s1).th t).tenancy = (s1.th t).tenancy ∧ freeEpoch (begun t s1) (s1.th t).tenancy.val = slot :=
    ⟨by rw [begun_th], rfl⟩
  have hlen : (epochsOf (begun t s1) (s1.th t).tenancy.val).length < 64 := hroom
  refine ⟨_, runInstr_wroteThread (i := { self := some (.taskEpoch rd cs r) }) h rfl (u := p.2)
    (th := (p.2.th t).write rd ⟨p.1, .handle⟩) ?_ rfl, ?_, ?_, ?_⟩
  · simp only [M.bind_run, greg_run, g_begun, ha.start, getS_run, getT_run, not_above_one hv, hslot.1, hlen, if_false, if_true, runS_run]
    rfl
  · rw [← hopened, ← hslot.2, ← hslot.1]
    exact newEpoch_epochs ..
  · rw [done_write_g, show p.1 = _ from newEpoch_handle _, hopened, hslot.1, hslot.2]
  · rw [done, State.th_setTh, hth, begun_th]
    rfl

/-- A request outside 0 and 1 gives RANGE. -/
theorem taskEpoch_range (h : Fetches t 4 false s s1) (ha : AsksEpoch t cs r s1) (hv : 1 < ((s1.th t).g r).val.toNat) :
    exec (.taskEpoch t rd cs r) s = .next (done t 4 s1 ((s1.th t).write rd ⟨BitVec.ofNat 64 5, .int⟩)) := by
  refine runInstr_wrote (i := { self := some (.taskEpoch rd cs r) }) h rfl ?_
  simp only [M.bind_run, greg_run, g_begun, ha.start, getS_run, getT_run, hv, if_true]
  rfl

section Full
variable (hfull : 64 ≤ (epochsOf s1 (s1.th t).tenancy.val).length)
include hfull

theorem epochs_full : ¬ (epochsOf (begun t s1) ((begun t s1).th t).tenancy.val).length < 64 := by
  rw [begun_th]
  exact Nat.not_lt.mpr hfull

/-- With 64 open epochs TASK.EPOCH gives EXHAUSTED. -/
theorem taskEpoch_exhausted (h : Fetches t 4 false s s1) (ha : AsksEpoch t cs r s1)
    (hv : ((s1.th t).g r).val = 0 ∨ ((s1.th t).g r).val = 1)
    (hopen : ∀ e ∈ epochsOf s1 (s1.th t).tenancy.val, e.2.state = .opened) :
    exec (.taskEpoch t rd cs r) s = .next (done t 4 s1 ((s1.th t).write rd ⟨BitVec.ofNat 64 9, .int⟩)) := by
  have hall : (epochsOf (begun t s1) ((begun t s1).th t).tenancy.val).all (fun e => e.2.state == .opened) = true := by
    rw [begun_th]
    exact List.all_eq_true.mpr fun e he => beq_iff_eq.mpr (hopen e he)
  refine runInstr_wrote (i := { self := some (.taskEpoch rd cs r) }) h rfl ?_
  simp only [M.bind_run, greg_run, g_begun, ha.start, getS_run, getT_run, not_above_one hv, epochs_full hfull, hall, if_false, if_true]
  rfl

/-- With one of the 64 resolved it waits for its slot. -/
theorem taskEpoch_waits (h : Fetches t 4 false s s1) (ha : AsksEpoch t cs r s1)
    (hv : ((s1.th t).g r).val = 0 ∨ ((s1.th t).g r).val = 1)
    (hres : ∃ e ∈ epochsOf s1 (s1.th t).tenancy.val, e.2.state ≠ .opened) :
    ∃ u, exec (.taskEpoch t rd cs r) s = .next u ∧ (u.th t).status = .waiting .epochSlot ∧
      (u.th t).waitsWith = some (.taskEpoch rd cs r) ∧ (u.th t).pc = (s1.th t).pc ∧ u.epochs = s1.epochs := by
  have hall : (epochsOf (begun t s1) ((begun t s1).th t).tenancy.val).all (fun e => e.2.state == .opened) = false := by
    rw [begun_th]
    obtain ⟨e, he, hne⟩ := hres
    exact List.all_eq_false.mpr ⟨e, he, by simpa using hne⟩
  obtain ⟨hstatus, hself, hpc, -⟩ := waitingState_facts (t := t) (s1 := s1) .epochSlot { self := some (.taskEpoch rd cs r) }
  refine ⟨_, runInstr_waits (i := { self := some (.taskEpoch rd cs r) }) h rfl ?_, hstatus, hself, hpc, rfl⟩
  simp only [M.bind_run, greg_run, g_begun, ha.start, getS_run, getT_run, not_above_one hv, epochs_full hfull, hall, if_false,
    Bool.false_eq_true, waitFor_run]

end Full

/-- The waiting TASK.EPOCH is issued again once its tenancy has a free slot. -/
theorem epochSlotWaitEnd_again {w : State} (hs : (w.th t).status = .waiting .epochSlot)
    (hw : (w.th t).waitsWith = some (.taskEpoch rd cs r)) (hroom : (epochsOf w (w.th t).tenancy.val).length < 64) :
    exec (.epochSlotWaitEnd t) w = exec (.taskEpoch t rd cs r) (w.setTh t { w.th t with status := .active, waitsWith := none }) := by
  rw [exec_epochSlotWaitEnd, execEpochSlotWaitEnd]
  simp [hs, hw, hroom, exec_taskEpoch]

end Epochs

/-- Settles O27: TASK.NEW by its descriptor and the room for it; TASK.EPOCH by the slots of the tenancy, at once or after a wait. -/
theorem taskAndEpochCreation : Obligations.TaskAndEpochCreation := by
  unfold Obligations.TaskAndEpochCreation
  intro t rd r cs s s1 h th c n status
  refine ⟨?_, ?_, ?_⟩
  · intro gs s2 a d k ten hun htag hallow hload hclean hrefused he hf hpred
    have hd : ReadsDesc t cs r s1 s2 gs := ⟨hun, htag, hallow, hload, hclean, hrefused⟩
    have hth := th_of_threads (loadGranules_threads hload) t
    have hten := taskTenancy_val d
    have hstatus (v : Nat) (ht : taskNewTail t rd { s1.th t with iter := 0 } d s2 = putStatus t rd v s2) :
        exec (.taskNew t rd cs r) s = .next (status s2 v) := by
      refine taskNew_run h hd (th := ((begun t s1).th t).write rd ⟨BitVec.ofNat 64 v, .int⟩) (ht.trans ?_) (by rw [hth]; rfl)
      rw [putStatus, wr_run, hth]
      rfl
    refine ⟨fun hgood hroom => ?_, fun hgood hroom => hstatus 9 ?_, fun hgood => hstatus 5 (taskNewTail_bad he hf hpred hgood)⟩
    · replace hroom : taskRoom s2 (taskTenancy d).val d.code.toCap.dev = true := hten ▸ hroom
      obtain ⟨q, hq, hmade, htail⟩ := taskNewTail_room (t := t) (rd := rd) (th := { s1.th t with iter := 0 }) he hf hpred hgood hroom
      obtain ⟨-, hothers, hready, hthreads⟩ := newTask_facts s2 d (taskTenancy d) k.dev none (some t.val) (creatorKey s2 t)
      refine ⟨_, q, _, taskNew_run h hd htail rfl, Tab.get?_lowestFree _, hq, hothers, hready, hmade.state, hmade.cue, hmade.code,
        hmade.rstack, hmade.dstack, hmade.argC, hmade.w0, hmade.succ, hmade.group, hmade.tenancy ▸ hten, hmade.dev_eq, hmade.epoch_eq,
        hmade.thread, done_write_g .., ?_⟩
      rw [done, State.th_setTh, th_of_threads hthreads, hth, begun_th]
      rfl
    · exact taskNewTail_full he hf hpred hgood (hten ▸ hroom)
  · intro hauth htag held
    have ha : AsksEpoch t cs r s1 := ⟨hauth, htag⟩
    refine ⟨fun hv hroom => ?_, fun hv hfull hopen => ?_, fun hv hfull => taskEpoch_waits hfull h ha hv, fun hv => ?_⟩
    · obtain ⟨u, hu, hepochs, hg, -⟩ := taskEpoch_opens (rd := rd) h ha hv hroom
      obtain ⟨hlt, hfree⟩ := freeEpoch_free hroom
      refine ⟨_, _, u, hu, hlt, hfree, ?_, rfl, rfl, rfl, fun x hx => ?_, hg.trans (by rw [epochHandle_eq hlt])⟩
      · rw [hepochs]
        exact Tab.get?_put ..
      · rw [hepochs]
        exact Tab.get?_put_ne _ _ _ _ hx
    · simpa only [status, begun_th, done_begun, write_iter, done_iter] using taskEpoch_exhausted (rd := rd) hfull h ha hv hopen
    · simpa only [status, begun_th, done_begun, write_iter, done_iter] using taskEpoch_range (rd := rd) h ha hv
  · intro w hs hw hroom hsw hauth htag hv hepochs hn
    have hroom1 : (epochsOf s1 (s1.th t).tenancy.val).length < 64 := by
      rw [epochsOf, hepochs, show (s1.th t).tenancy.val = (w.th t).tenancy.val from hn]
      exact hroom
    obtain ⟨u, hu, hput, -, hpc⟩ := taskEpoch_opens (rd := rd) h ⟨hauth, htag⟩ hv hroom1
    refine ⟨_, u, (epochSlotWaitEnd_again hs hw hroom).trans (hsw ▸ hu), hepochs ▸ (freeEpoch_free hroom1).2, ?_, hpc⟩
    rw [hput, Tab.get?_put]
    rfl

end Sys2Proof.Machine
end

/-!
PROOFS, 20. What memory accesses, translations, events and the completion of commands leave alone: every view of the state that reads
neither what they write nor whether a thread waits. Tasks, streams, the states of epochs and the registers of threads are such views.
-/

section
namespace Sys2Proof.Machine

/-! ### Views -/

/-- Interrupts may have become pending on a thread, and a thread that has waited may go on; nothing else of it has changed. -/
def Nudged (a b : Thread) : Prop :=
  ∃ i st w, b = { a with ipend := i, status := st, waitsWith := w } ∧ (st = a.status ∨ (∃ x, a.status = .waiting x) ∧ st = .active)

theorem Nudged.refl (a : Thread) : Nudged a a := ⟨_, _, _, rfl, .inl rfl⟩

theorem Nudged.woken {a : Thread} {x : WaitOn} (h : a.status = .waiting x) : Nudged a { a with status := .active, waitsWith := none } :=
  ⟨_, _, _, rfl, .inr ⟨⟨x, h⟩, rfl⟩⟩

/-- A view that reads no memory, no Stop, no table of the pager, of commands or of functions, and of an epoch only its state and
generation. -/
structure Blind {γ : Type} (g : State → γ) : Prop where
  fields : ∀ (s : State) cores hbm hbmTags hbmPoison hbmErrs slc slcErrs overlay victims misses spaces freeFrames shadows fills pairMap
    cmds stops events eventsLost monitorMail outbox reds checks tenants funcs draws,
    g { s with cores, hbm, hbmTags, hbmPoison, hbmErrs, slc, slcErrs, overlay, victims, misses, spaces, freeFrames, shadows, fills, pairMap,
               cmds, stops, events, eventsLost, monitorMail, outbox, reds, checks, tenants, funcs, draws } = g s
  threads : ∀ (s : State) v, (∀ t : Tid, Nudged (s.th t) v[t.val]) → g { s with threads := v } = g s
  epochs : ∀ (s : State) key e e', Tab.get? s.epochs key = some e → e'.state = e.state → e'.gen = e.gen →
    g { s with epochs := Tab.put s.epochs key e' } = g s

theorem tasks_blind : Blind State.tasks := ⟨fun _ => by intros; rfl, fun _ _ _ => rfl, fun _ _ _ _ _ _ _ => rfl⟩

theorem taskEnd_blind : Blind State.taskEnd := ⟨fun _ => by intros; rfl, fun _ _ _ => rfl, fun _ _ _ _ _ _ _ => rfl⟩

theorem streams_blind : Blind State.streams := ⟨fun _ => by intros; rfl, fun _ _ _ => rfl, fun _ _ _ _ _ _ _ => rfl⟩

/-- The state and the generation of an epoch slot. -/
def epochSummary (key : Nat) (s : State) : Option (EpochState × Nat) := (Tab.get? s.epochs key).map (fun e => (e.state, e.gen))

theorem epochSummary_blind (key : Nat) : Blind (epochSummary key) := by
  refine ⟨fun _ => by intros; rfl, fun _ _ _ => rfl, fun s k e e' hk hst hgen => ?_⟩
  unfold epochSummary
  by_cases h : key = k
  · subst h
    rw [Tab.get?_put, hk, Option.map_some, Option.map_some, hst, hgen]
  · rw [Tab.get?_put_ne _ _ _ _ h]

/-- What no blind view can tell apart. -/
def Unseen (s s' : State) : Prop := ∀ (γ : Type) (g : State → γ), Blind g → g s' = g s

/-- A view of one thread that does not depend on its pending interrupts or on a wait. -/
theorem thread_blind {γ : Type} (t : Tid) (p : Thread → γ) (hp : ∀ a b, Nudged a b → p b = p a) : Blind (fun s => p (s.th t)) :=
  ⟨fun _ => by intros; rfl, fun _ _ h => hp _ _ (h t), fun _ _ _ _ _ _ _ => rfl⟩

/-- A field of a thread other than its pending interrupts, its status and the instruction it waits with. -/
theorem field_blind {γ : Type} (t : Tid) (p : Thread → γ) (hp : ∀ a i st w, p { a with ipend := i, status := st, waitsWith := w } = p a) :
    Blind (fun s => p (s.th t)) :=
  thread_blind t p fun a _ ⟨_, _, _, hb, _⟩ => hb ▸ hp a ..

/-- An EMPTY thread stays EMPTY. -/
theorem empty_blind (t : Tid) : Blind (fun s => (s.th t).status = .empty) := by
  refine thread_blind t (fun th => th.status = .empty) fun a b ⟨i, st, w, hb, h⟩ => ?_
  subst hb
  rcases h with rfl | ⟨⟨x, hx⟩, rfl⟩
  · rfl
  · simp [hx]

section Views
variable {γ : Type} {g : State → γ} (hg : Blind g)
include hg

/-! ### Stops, events and the slices -/

theorem putStop_blind (s : State) (k d v : Nat) : g (s.putStop k d v) = g s := by
  unfold State.putStop
  repeat' split
  all_goals simp only [hg.fields]

theorem setDev_blind (s : State) (i j v : Nat) : g (s.setDev i j v) = g s := putStop_blind hg ..

theorem setTen_blind (s : State) (n i j v : Nat) : g (s.setTen n i j v) = g s := putStop_blind hg ..

theorem count_blind (s : State) (space k n : Nat) : g (s.count space k n) = g s := by
  unfold State.count
  dsimp only
  repeat' split
  all_goals simp only [setDev_blind hg, setTen_blind hg]

theorem log_blind (s : State) (code d : Nat) : g (s.log code d) = g s := by
  simp only [State.log, setDev_blind hg]

theorem hold_blind (s : State) (n code d : Nat) : g (s.hold n code d) = g s := by
  unfold State.hold
  dsimp only
  repeat' split
  all_goals simp only [State.countDev, setDev_blind hg, hg.fields]

theorem post_blind (s : State) (n code d : Nat) : g (s.post n code d) = g s := by
  rw [State.post, hold_blind hg, log_blind hg]

theorem hbmWrite_blind (s : State) (ln mask data tags poison : Nat) : g (hbmWrite s ln mask data tags poison) = g s := by
  unfold hbmWrite
  split
  · rfl
  · exact hg.fields ..

theorem hbmStore_blind (s : State) (space ln mask data tags poison : Nat) : g (hbmStore s space ln mask data tags poison) = g s := by
  rw [hbmStore, count_blind hg, hbmWrite_blind hg]

theorem pushVictim_blind (s : State) (ln : Nat) (l : CLine) : g (pushVictim s ln l) = g s := by
  unfold pushVictim
  dsimp only
  repeat' split
  all_goals simp only [hg.fields, hbmStore_blind hg]

theorem flushVictim_blind (s : State) (ln : Nat) : g (flushVictim s ln) = g s := by
  unfold flushVictim
  dsimp only
  split
  · rfl
  · rw [hg.fields, foldl_keep _ _ g (fun st v => hbmStore_blind hg ..)]

theorem makeRoom_blind (s : State) (ln : Nat) : g (makeRoom s ln).1 = g s := by
  unfold makeRoom
  dsimp only
  repeat' split
  all_goals simp only [drawChoice, hg.fields, pushVictim_blind hg]

theorem touchLine_blind (s : State) (ln : Nat) (ac : Acc) : g (touchLine s ln ac) = g s := by
  unfold touchLine
  dsimp only
  repeat' split
  all_goals simp only [hg.fields, count_blind hg]

theorem reinstall_blind (s : State) (ln : Nat) (ac : Acc) : g (reinstall s ln ac) = g s := by
  unfold reinstall
  dsimp only
  repeat' split
  all_goals simp only [hg.fields, makeRoom_blind hg]

theorem sliceWrite_blind (s : State) (ln mask data tags poison : Nat) (ac : Acc) : g (sliceWrite s ln mask data tags poison ac) = g s := by
  unfold sliceWrite
  dsimp only
  repeat' split
  all_goals simp only [hg.fields, hbmStore_blind hg, touchLine_blind hg, reinstall_blind hg, makeRoom_blind hg, count_blind hg, flushVictim_blind hg]

theorem repairSlice_blind (s : State) (flaggedOnly : Bool) (hit : Nat → Bool) : g (repairSlice s flaggedOnly hit) = g s := by
  unfold repairSlice
  split
  · rfl
  · dsimp only
    rw [foldl_keep _ _ g (fun st e => count_blind hg ..)]
    split
    · exact hg.fields ..
    · rw [count_blind hg, hg.fields]

theorem repairHbm_blind (s : State) (flaggedOnly : Bool) (hit : Nat → Bool) : g (repairHbm s flaggedOnly hit).1 = g s := by
  unfold repairHbm
  split
  · rfl
  · dsimp only
    rw [foldl_keep _ _ g (fun st e => count_blind hg ..), foldl_keep _ _ g (fun st e => count_blind hg ..), hg.fields]

theorem sliceRead_blind (s : State) (ln sectors : Nat) (ac : Acc) : g (sliceRead s ln sectors ac) = g s := by
  unfold sliceRead
  dsimp only
  repeat' split
  all_goals simp only [hbmTouch, hg.fields, touchLine_blind hg, reinstall_blind hg, repairSlice_blind hg, repairHbm_blind hg, count_blind hg]

theorem syncEpochs_blind (s : State) (n : Nat) : g (syncEpochs s n) = g s := by
  rw [syncEpochs, setTen_blind hg, setTen_blind hg]

/-- A new overlay line is charged to its epoch, whose state stays (R132). -/
theorem chargeOverlay_blind (s : State) (ep ln : Nat) (ac : Acc) : g (chargeOverlay s ep ln ac) = g s := by
  unfold chargeOverlay
  dsimp only
  split
  · rfl
  split
  · rw [hg.fields, makeRoom_blind hg]
  next e he =>
    have hput := hg.epochs { (makeRoom s ln).1 with overlay := Tab.put (makeRoom s ln).1.overlay (overlayKey ep ln) (CLine.fresh ac ac.cls) }
      ep e { e with lines := e.lines + 1 } he rfl rfl
    rw [hg.fields, makeRoom_blind hg] at hput
    rw [syncEpochs_blind hg]
    exact hput

theorem overlayWrite_blind (s : State) (ep ln mask data tags poison : Nat) (ac : Acc) :
    g (overlayWrite s ep ln mask data tags poison ac) = g s := by
  rw [overlayWrite, hg.fields, chargeOverlay_blind hg]

theorem writeBack_blind (s : State) (ln : Nat) (l : CLine) : g (writeBack s ln l) = g s := by
  unfold writeBack
  repeat' split
  all_goals simp only [overlayWrite_blind hg, sliceWrite_blind hg]

theorem setCore_blind (s : State) (c : CoreId) (k : Core) : g (s.setCore c k) = g s := hg.fields ..

theorem releaseLines_blind (c : CoreId) (l : Tab CLine) (s : State) : g (releaseLines c l s) = g s := by
  induction l generalizing s with
  | nil => rfl
  | cons e l ih => simp only [releaseLines, ih, setL1, setCore_blind hg, writeBack_blind hg]

theorem fenceRel_blind (s : State) (c : CoreId) : g (fenceRel s c) = g s := by
  unfold fenceRel
  split
  · rfl
  · exact releaseLines_blind hg ..

end Views

end Sys2Proof.Machine
end

/-!
PROOFS, 21. The same for translation and paging, for runs of bytes, for packets, and for the completion of commands.
-/

section
namespace Sys2Proof.Machine

section Views
variable {γ : Type} {g : State → γ} (hg : Blind g)
include hg

/-! ### Translation and paging -/

theorem readWord_blind (s : State) (space pa : Nat) : g (readWord s space pa).1 = g s := sliceRead_blind hg ..

theorem writeWord_blind (s : State) (space pa v : Nat) : g (writeWord s space pa v) = g s := sliceWrite_blind hg ..

theorem ptMachineCheck_blind (s : State) (epa : Nat) : g (ptMachineCheck s epa) = g s := by
  rw [ptMachineCheck, hg.fields, log_blind hg]

theorem walkFrom_blind (n : Fin 17) (va : Nat) : ∀ (f level node : Nat) (s : State), g (walkFrom s n va f level node).1 = g s
  | 0, _, _, _ => rfl
  | f + 1, level, node, s => by
    have hw := fun level node (s : State) => walkFrom_blind n va f level node s
    rw [walkFrom]
    dsimp only
    repeat' split
    all_goals simp only [hw, ptMachineCheck_blind hg, readWord_blind hg]

theorem walk_blind (s : State) (n : Fin 17) (va : Nat) : g (walk s n va).1 = g s := by
  unfold walk
  split
  · rfl
  · exact walkFrom_blind hg ..

theorem setAccDirty_blind (s : State) (n : Fin 17) (epa e : Nat) (write : Bool) : g (setAccDirty s n epa e write) = g s := by
  unfold setAccDirty
  dsimp only
  repeat' split
  all_goals simp only [writeWord_blind hg]

theorem setSp_blind (s : State) (n : Fin 17) (v : Space) : g (s.setSp n v) = g s := hg.fields ..

theorem syncFree_blind (s : State) : g (syncFree s) = g s := setDev_blind hg ..

theorem syncHeld_blind (s : State) (n : Fin 17) : g (syncHeld s n) = g s := by
  unfold syncHeld
  split
  · rfl
  · simp only [setTen_blind hg]

theorem takeFrames_blind (n : Fin 17) (region align count : Nat) :
    ∀ (f : Nat) (s : State) (r : Nat × State), takeFrames s n region align count f = some r → g r.2 = g s
  | 0, _, _, h => by cases h
  | f + 1, s, r, h => by
    rw [takeFrames] at h
    dsimp only at h
    split at h
    · cases h
      exact setSp_blind hg ..
    split at h
    · split at h
      · cases h
      · rw [takeFrames_blind n region align count f _ _ h, syncFree_blind hg, setSp_blind hg, hg.fields]
    · cases h

theorem allocFrames_blind {s : State} {n : Fin 17} {region align count : Nat} {r : Nat × State}
    (h : allocFrames s n region align count = .ok r) : g r.2 = g s := by
  unfold allocFrames at h
  split at h
  · cases h
  split at h
  · cases h
  next hr =>
    cases h
    rw [syncHeld_blind hg, setSp_blind hg, takeFrames_blind hg _ _ _ _ _ _ _ hr]

theorem startFill_blind {s : State} {n : Fin 17} {level e va : Nat} {r : State × Fill} (h : startFill s n level e va = .ok r) :
    g r.1 = g s := by
  unfold startFill at h
  dsimp only at h
  split at h
  · cases h
  next hr =>
    cases h
    rw [hg.fields, allocFrames_blind hg hr]

theorem zeroPhys_blind (s : State) (pa count : Nat) : g (zeroPhys s pa count) = g s := hg.fields ..

theorem send_blind (s : State) (dest type flags job len tspec data : Nat) : g (s.send dest type flags job len tspec data) = g s :=
  hg.fields ..

theorem bindShadow_blind {s u : State} {n : Fin 17} {level e va region : Nat} {hs : List ShadowHolder}
    {layout : Option (Nat × Nat × Nat × Nat)} (h : bindShadow s n level e va region hs layout = .ok u) : g u = g s := by
  unfold bindShadow at h
  dsimp only at h
  split at h
  · cases h
  next hr =>
    cases h
    rw [syncHeld_blind hg, send_blind hg, hg.fields, zeroPhys_blind hg, allocFrames_blind hg hr]

theorem addHolders_blind (s : State) (x : Shadow) (hs : List ShadowHolder) : g (addHolders s x hs) = g s := hg.fields ..

theorem cleanRange_blind (s : State) (pa count : Nat) : g (cleanRange s pa count) = g s :=
  foldl_keep _ _ g (fun st e => by rw [hg.fields, hbmStore_blind hg]) _

theorem sweepOne_blind (s : State) (n : Fin 17) : g (sweepOne s n) = g s := by
  unfold sweepOne
  dsimp only
  repeat' split
  all_goals simp only [post_blind hg, setSp_blind hg, setTen_blind hg]

theorem reencrypt_blind (s : State) (n : Fin 17) (level epa e : Nat) : g (reencrypt s n level epa e) = g s := by
  unfold reencrypt
  dsimp only
  rw [sweepOne_blind hg, writeWord_blind hg, cleanRange_blind hg]

/-- The threads that waited go on. -/
theorem wakeOn_blind (s : State) (w : WaitOn) : g (wakeOn s w) = g s := by
  refine hg.threads s _ fun t => ?_
  simp only [Vector.getElem_map]
  split
  · exact .woken (by assumption)
  · exact .refl _

theorem fillDone_blind (s : State) (f : Fill) : g (fillDone s f) = g s := by
  unfold fillDone
  dsimp only
  repeat' split
  all_goals simp only [wakeOn_blind hg, writeWord_blind hg, zeroPhys_blind hg, hg.fields, walk_blind hg]

theorem translate_blind (s : State) (n : Fin 17) (va : Nat) (k : AccKind) (ag : Agent) (alt : Bool) :
    g (translate s n va k ag alt).1 = g s := by
  unfold translate
  dsimp only
  split
  · exact walk_blind hg ..
  · exact walk_blind hg ..
  split
  · split
    · exact walk_blind hg ..
    · exact walk_blind hg ..
    · exact walk_blind hg ..
    repeat' split
    · simp only [setAccDirty_blind hg, walk_blind hg]
    · simp only [addHolders_blind hg, setAccDirty_blind hg, walk_blind hg]
    · simp only [setAccDirty_blind hg, walk_blind hg]
    · simp only [setAccDirty_blind hg, walk_blind hg]
    next u hu => simp only [bindShadow_blind hg hu, setAccDirty_blind hg, walk_blind hg]
  split
  · exact walk_blind hg ..
  split
  · split
    · repeat' split
      · exact walk_blind hg ..
      · exact walk_blind hg ..
      next r hr => simp only [startFill_blind hg hr, walk_blind hg]
    split
    · exact walk_blind hg ..
    next r hr =>
      have hkeep : g r.1 = g s := by
        split at hr
        · cases hr
          exact walk_blind hg ..
        · rw [startFill_blind hg hr, walk_blind hg]
      repeat' split
      all_goals simp only [setAccDirty_blind hg, walk_blind hg, fillDone_blind hg, hkeep]
  repeat' split
  all_goals simp only [setAccDirty_blind hg, reencrypt_blind hg, walk_blind hg]

/-! ### Runs of bytes -/

theorem writeRun_blind (s : State) (pa : Nat) (bs : List PByte) (ac : Acc) : g (writeRun s pa bs ac) = g s := sliceWrite_blind hg ..

theorem writeArea_blind {s u : State} {n : Fin 17} {va v : Nat} (h : writeArea s n va v = some u) : g u = g s := by
  unfold writeArea at h
  dsimp only at h
  split at h
  · split at h
    · split at h
      · cases h
        rw [writeRun_blind hg, translate_blind hg, walk_blind hg]
      · cases h
    · cases h
  · cases h

theorem readRuns_blind (ep : Option Nat) (ac : Acc) (rs : List (Nat × Nat)) (s : State) : g (readRuns ep ac rs s).1 = g s := by
  induction rs generalizing s with
  | nil => rfl
  | cons r rs ih => rw [readRuns, ih, readRun, sliceRead_blind hg]

theorem engTranslate_blind (s : State) (n : Fin 17) (va : Nat) (k : AccKind) (i : Nat) (alt : Bool) :
    g (engTranslate s n va k i alt).1 = g s := by
  unfold engTranslate
  dsimp only
  repeat' split
  all_goals simp only [translate_blind hg]

theorem translatePiece_blind (s : State) (n : Fin 17) (va len i : Nat) (reads writes alt : Bool) :
    g (translatePiece s n va len i reads writes alt).1 = g s := by
  have hread : g (if reads then engTranslate s n va .read i alt else (s, .ok 0)).1 = g s := by
    split
    · exact engTranslate_blind hg ..
    · rfl
  have hboth (ra : Nat) : g (if writes then engTranslate (if reads then engTranslate s n va .read i alt else (s, .ok 0)).1 n va .write i alt
      else ((if reads then engTranslate s n va .read i alt else (s, .ok 0)).1, .ok ra)).1 = g s := by
    split
    · rw [engTranslate_blind hg, hread]
    · exact hread
  unfold translatePiece
  dsimp only
  generalize (if reads then engTranslate s n va .read i alt else (s, .ok 0)) = a at hread hboth ⊢
  split
  · exact hread
  · exact hread
  next ra _ =>
    have hb := hboth ra
    generalize (if writes then engTranslate a.1 n va .write i alt else (a.1, .ok ra)) = b at hb ⊢
    repeat' split
    all_goals simp only [walk_blind hg, hb]

theorem translateRange_blind (n : Fin 17) (i : Nat) (reads writes alt : Bool) (f : Nat) :
    ∀ (va len : Nat) (s : State), g (translateRange n i reads writes alt f va len s).1 = g s := by
  induction f with
  | zero => intros; rfl
  | succ f ih =>
    intro va len s
    rw [translateRange]
    dsimp only
    repeat' split
    all_goals simp only [ih, translatePiece_blind hg]

theorem readCurrent_blind {s : State} {n i va len : Nat} {r : State × List PByte × List (Nat × Nat)}
    (h : readCurrent s n i va len = some r) : g r.1 = g s := by
  unfold readCurrent at h
  dsimp only at h
  split at h
  · cases h
    rw [readRuns_blind hg, translateRange_blind hg]
  · cases h

theorem groupBlocks_blind (n i step : Nat) (gs : List (Nat × Nat × Nat × Nat)) :
    ∀ (k : Nat) (s : State) (r : State × List GroupBlock × List (Nat × Nat)), groupBlocks n i step gs k s = some r → g r.1 = g s := by
  induction gs with
  | nil =>
    intro k s r h
    cases h
    rfl
  | cons a gs ih =>
    intro k s r h
    unfold groupBlocks at h
    split at h
    · cases h
    next hr =>
      dsimp only at h
      split at h
      · cases h
      next hrest =>
        cases h
        exact (ih _ _ _ hrest).trans (readCurrent_blind hg hr)

theorem drawBits_blind (n : Nat) (s : State) : g (drawBits n s).2 = g s := by
  induction n generalizing s with
  | zero => rfl
  | succ n ih => rw [drawBits, ih, drawFree, hg.fields]

theorem signId_blind (ctx : String) (m : Blob) (s : State) : g (signId ctx m s).2 = g s := drawBits_blind hg ..

/-! ### Packets, posts and interrupts -/

theorem postError_blind (s : State) (space source action unit major index va : Nat) :
    g (s.postError space source action unit major index va) = g s := by
  unfold State.postError
  dsimp only
  split
  · exact post_blind hg ..
  · exact log_blind hg ..

theorem sendCredit_blind (s : State) (node space number tspec : Nat) : g (sendCredit s node space number tspec) = g s := send_blind hg ..

theorem sendBlockOn_blind (s : State) (c : Stream) (b : Blob) : g (sendBlockOn s c b) = g s :=
  foldl_keep _ _ g (fun _ _ => send_blind hg ..) _

theorem pend_blind (s : State) (t : Tid) (v : Nat) : g (s.pend t v) = g s := by
  refine hg.threads s _ fun n => ?_
  by_cases h : t.val = n.val
  · simp only [h, Vector.getElem_set_self]
    obtain rfl := Fin.ext h
    exact ⟨_, _, _, rfl, .inl rfl⟩
  · simp only [Vector.getElem_set_ne _ _ h]
    exact .refl _

theorem signalCreator_blind (s : State) (creator creatorTask : Option Nat) (vec ten : Nat) (h : Word) :
    g (signalCreator s creator creatorTask vec ten h) = g s := by
  unfold signalCreator
  split
  · exact pend_blind hg ..
  · exact post_blind hg ..

/-! ### Shadows -/

theorem freeFramesOf_blind (s : State) (n : Fin 17) (frame count : Nat) : g (freeFramesOf s n frame count) = g s := by
  rw [freeFramesOf, syncHeld_blind hg, setSp_blind hg]

theorem retryRemote_blind (s : State) : g (retryRemote s) = g s := by
  refine hg.threads s _ fun t => ?_
  simp only [Vector.getElem_map]
  repeat' split
  · exact .refl _
  next h _ => exact .woken h
  · exact .refl _

theorem dropShadows_blind (s : State) : g (dropShadows s) = g s := by
  unfold dropShadows
  dsimp only
  split
  · rfl
  · rw [retryRemote_blind hg, foldl_keep _ _ g (fun st x => by rw [syncHeld_blind hg, freeFramesOf_blind hg, hg.fields])]

theorem releaseTaskHolds_blind (s : State) (slot : Nat) : g (releaseTaskHolds s slot) = g s := by
  rw [releaseTaskHolds, dropShadows_blind hg, hg.fields]

theorem dropEngineHolds_blind (s : State) (i : Nat) (c : Cmd) : g (dropEngineHolds s i c) = g s := by
  rw [dropEngineHolds, dropShadows_blind hg, hg.fields]

/-! ### Commands -/

/-- A vote counts in its epoch, whose state stays (R116). -/
theorem addVote_blind (s : State) (c : Cmd) : g (addVote s c) = g s := by
  unfold addVote
  dsimp only
  split
  · rfl
  split
  next e he => exact ite_keep (f := g) rfl (hg.epochs s _ e _ he rfl rfl)
  · rfl

theorem syncLive_blind (s : State) (space : Nat) : g (syncLive s space) = g s := by
  unfold syncLive
  split
  · exact setTen_blind hg ..
  · rfl

theorem endCmd_blind (s : State) (i : Nat) (r : CmdResult) : g (endCmd s i r) = g s := by
  unfold endCmd
  split
  · exact hg.fields ..
  · rfl

theorem finishCmd_blind (s : State) (i : Nat) : g (finishCmd s i) = g s := by
  unfold finishCmd
  dsimp only
  split
  · rfl
  rw [syncLive_blind hg, dropEngineHolds_blind hg, hg.fields, addVote_blind hg]
  split
  next hs =>
    split at hs
    · cases hs
    · exact writeArea_blind hg hs
  · exact postError_blind hg ..

theorem finishWith_blind (s : State) (i : Nat) (r : CmdResult) : g (finishWith s i r) = g s := by
  rw [finishWith, finishCmd_blind hg, endCmd_blind hg]

theorem setTenant_blind (s : State) (n : Nat) (x : Tenant) : g (s.setTenant n x) = g s := hg.fields ..

theorem setFn_blind (s : State) (f : Fin 16) (x : Func) : g (s.setFn f x) = g s := hg.fields ..

theorem hostFinish_blind (s : State) (f : Fin 16) (sq hseq status result : Nat) : g (hostFinish s f sq hseq status result) = g s := by
  unfold hostFinish
  split
  · rfl
  dsimp only
  unfold syncExecuted
  split <;> rw [setTen_blind hg, queuePosting, setFn_blind hg, setFn_blind hg]

theorem endPoint_blind (s : State) (n cmd : Nat) (host : Option (Nat × Nat)) (status result : Nat) :
    g (endPoint s n cmd host status result) = g s := by
  unfold endPoint
  split
  · exact hostFinish_blind hg ..
  · exact finishWith_blind hg ..

theorem syncSnap_blind (s : State) (n : Nat) : g (syncSnap s n) = g s := setTen_blind hg ..

theorem breach_blind (s : State) (n rung cause gid at_ step obj : Nat) : g (breach s n rung cause gid at_ step obj) = g s := by
  unfold breach
  dsimp only
  repeat' split
  all_goals simp only [State.countDev, setDev_blind hg, count_blind hg, post_blind hg]

theorem setTstate_blind (s : State) (n new cause : Nat) : g (setTstate s n new cause) = g s := by
  unfold setTstate
  dsimp only
  split
  · rfl
  · rw [post_blind hg, setTen_blind hg]

theorem closeSteps_blind (s : State) (n ended : Nat) : g (closeSteps s n ended) = g s := by
  refine foldl_keep _ _ g (fun st c => ?_) _
  split
  · exact hostFinish_blind hg ..
  · rfl

theorem stepBoundary_blind (s : State) (n : Nat) : g (stepBoundary s n) = g s := by
  unfold stepBoundary
  dsimp only
  rw [closeSteps_blind hg]
  have hfold (k : List Nat) : g (k.foldl (fun (st : State) k => (st.setTen n 0xC091 k (st.ten n 0xC090 k)).setTen n 0xC090 k 0) s) = g s :=
    foldl_keep _ _ g (fun st k => by rw [setTen_blind hg, setTen_blind hg]) _
  repeat' split
  all_goals simp only [setTstate_blind hg, post_blind hg, setTenant_blind hg, setTen_blind hg, hfold]

theorem haltDrain_blind (s : State) (n source : Nat) (poison : Bool) : g (haltDrain s n source poison) = g s := by
  unfold haltDrain
  dsimp only
  repeat' split
  all_goals simp only [hostFinish_blind hg, finishWith_blind hg, postError_blind hg, setTen_blind hg, setTenant_blind hg]

theorem haltDrainsOf_blind (s : State) (i : Nat) : g (haltDrainsOf s i) = g s := by
  refine foldl_keep _ _ g (fun st n => ?_) _
  dsimp only
  repeat' split
  all_goals simp only [haltDrain_blind hg, drawFree, hg.fields]

/-! ### Tasks and epochs -/

theorem syncTasks_blind (s : State) (n : Nat) : g (syncTasks s n) = g s := setTen_blind hg ..

theorem flipPage_blind (s : State) (n : Fin 17) (page : Nat) : g (flipPage s n page) = g s := by
  unfold flipPage
  dsimp only
  repeat' split
  all_goals simp only [hg.fields, writeWord_blind hg, walk_blind hg]

theorem mergeOverlay_blind (s : State) (key : Nat) : g (mergeOverlay s key) = g s := by
  rw [mergeOverlay, foldl_keep _ _ g (fun st e => sliceWrite_blind hg ..), hg.fields]

end Views

end Sys2Proof.Machine
end

/-!
PROOFS, 22. Tasks and threads: what cues, the end of a task and the start of one change, and the views that read neither (R111 to R114).
-/

section
namespace Sys2Proof.Machine

/-! ### Views that read no task and no stream -/

/-- A blind view that reads no table of tasks and no stream: such as the registers of threads and the states of epochs. -/
structure Apart {γ : Type} (g : State → γ) : Prop extends Blind g where
  tables : ∀ (s : State) tasks ready taskEnd streams, g { s with tasks, ready, taskEnd, streams } = g s

theorem epochSummary_apart (key : Nat) : Apart (epochSummary key) := ⟨epochSummary_blind key, fun _ _ _ _ _ => rfl⟩

theorem field_apart {γ : Type} (t : Tid) (p : Thread → γ) (hp : ∀ a i st w, p { a with ipend := i, status := st, waitsWith := w } = p a) :
    Apart (fun s => p (s.th t)) :=
  ⟨field_blind t p hp, fun _ _ _ _ _ => rfl⟩

theorem empty_apart (t : Tid) : Apart (fun s => (s.th t).status = .empty) := ⟨empty_blind t, fun _ _ _ _ _ => rfl⟩

section Views
variable {γ : Type} {g : State → γ} (hg : Apart g)
include hg

theorem Apart.coresAndTables (s : State) (cores : Vector Core 48) (tasks : Tab Task) (ready : List Nat) :
    g { s with cores := cores, tasks := tasks, ready := ready } = g s := by
  have h := hg.tables { s with cores := cores } tasks ready s.taskEnd s.streams
  exact h.trans (hg.fields s cores ..)

theorem preWake_apart (s : State) (slot : Nat) : g (preWake s slot) = g s := by
  obtain ⟨cores, tasks, heq, -⟩ := preWake_eq s slot
  rw [heq]
  exact hg.coresAndTables s cores tasks s.ready

theorem decCue_apart (s : State) (slot : Nat) : g (decCue s slot) = g s := by
  unfold decCue
  dsimp only
  repeat' split
  · rfl
  · rfl
  all_goals
    rw [preWake_apart hg]
    exact hg.coresAndTables s s.cores ..

theorem signalSuccs_apart (s : State) (k : Task) : g (signalSuccs s k) = g s := by
  refine foldl_keep _ _ g (fun st w => ?_) _
  dsimp only
  repeat' split
  all_goals simp only [decCue_apart hg]

theorem putStreams_apart (s : State) (streams : Tab Stream) : g { s with streams := streams } = g s :=
  hg.tables s s.tasks s.ready s.taskEnd streams

theorem freeRingSlot_apart (s : State) (i slot : Nat) : g (freeRingSlot s i slot) = g s := by
  unfold freeRingSlot
  dsimp only
  repeat' split
  all_goals simp only [send_blind hg.toBlind, putStreams_apart hg]

theorem releaseRingSlots_apart (s : State) (task : Nat) : g (releaseRingSlots s task) = g s := by
  refine foldl_keep _ _ g (fun st e => foldl_keep _ _ g (fun st1 r => ?_) _) _
  split
  · exact freeRingSlot_apart hg ..
  · rfl

theorem freeTask_apart (s : State) (slot : Nat) (st : TaskState) : g (freeTask s slot st) = g s := by
  unfold freeTask
  dsimp only
  split
  · rfl
  · rw [syncTasks_blind hg.toBlind, releaseRingSlots_apart hg, releaseTaskHolds_blind hg.toBlind]
    exact hg.tables s _ _ _ s.streams

end Views

/-! ### Tables of tasks -/

section Tasks
variable (s : State)

/-- Slots of streams are no tasks. -/
theorem freeRingSlot_tables (i slot : Nat) :
    (freeRingSlot s i slot).tasks = s.tasks ∧ (freeRingSlot s i slot).taskEnd = s.taskEnd := by
  unfold freeRingSlot
  dsimp only
  repeat' split
  all_goals exact ⟨rfl, rfl⟩

theorem releaseRingSlots_tables (task : Nat) :
    (releaseRingSlots s task).tasks = s.tasks ∧ (releaseRingSlots s task).taskEnd = s.taskEnd := by
  have hfold {γ : Type} (g : State → γ) (h : ∀ u i slot, g (freeRingSlot u i slot) = g u) : g (releaseRingSlots s task) = g s :=
    foldl_keep _ _ g (fun st e => foldl_keep _ _ g (fun st1 r => ite_keep (f := g) (h ..) rfl) _) _
  exact ⟨hfold _ fun u i slot => (freeRingSlot_tables u i slot).1, hfold _ fun u i slot => (freeRingSlot_tables u i slot).2⟩

/-- A task that ends leaves its slot, and how it ended is recorded (R114). -/
theorem freeTask_tables {slot : Nat} {k : Task} (hk : Tab.get? s.tasks slot = some k) (st : TaskState) :
    (freeTask s slot st).tasks = Tab.del s.tasks slot ∧ (freeTask s slot st).taskEnd = Tab.put s.taskEnd slot st := by
  simp only [freeTask, hk]
  rw [syncTasks_blind tasks_blind, syncTasks_blind taskEnd_blind, (releaseRingSlots_tables ..).1, (releaseRingSlots_tables ..).2,
    releaseTaskHolds_blind tasks_blind, releaseTaskHolds_blind taskEnd_blind]
  exact ⟨rfl, rfl⟩

theorem freeTask_get? (slot : Nat) (st : TaskState) (x : Nat) :
    Tab.get? (freeTask s slot st).tasks x = if x = slot then none else Tab.get? s.tasks x := by
  cases hk : Tab.get? s.tasks slot with
  | none =>
    have hsame : freeTask s slot st = s := by simp only [freeTask, hk]
    rw [hsame]
    split
    next h => exact h ▸ hk
    · rfl
  | some k =>
    rw [(freeTask_tables s hk st).1]
    split
    next h => exact h ▸ Tab.get?_del ..
    next h => exact Tab.get?_del_ne _ _ _ h

/-- Where a cue is counted, the slots in use stay the same. -/
theorem SameButCore.isSome {slot : Nat} {a b : Tab Task} (h : SameButCore slot a b) (ha : (Tab.get? a slot).isSome = true) (x : Nat) :
    (Tab.get? b x).isSome = (Tab.get? a x).isSome := by
  by_cases hx : x = slot
  · subst hx
    obtain ⟨k, hk⟩ := Option.isSome_iff_exists.mp ha
    obtain ⟨c, hc⟩ := h.there k hk
    rw [hc, hk]
    rfl
  · rw [h.others x hx]

/-- A task that waits with a counter above 0: one cue less, dispatchable and in the queue at zero (R118). -/
theorem decCue_counts {slot : Nat} {k : Task} (hk : Tab.get? s.tasks slot = some k) (hw : k.state = .waitCue) (hpos : 0 < k.cue) :
    let u := decCue s slot
    ∃ q, Tab.get? u.tasks slot = some q ∧ q.cue = k.cue - 1 ∧ q.state = (if k.cue = 1 then .dispatchable else .waitCue) ∧
      u.ready = (if k.cue = 1 then s.ready ++ [slot] else s.ready) ∧ (∀ x, x ≠ slot → Tab.get? u.tasks x = Tab.get? s.tasks x) := by
  have hgo : (decide (k.cue = 0) || k.state != .waitCue) = false := by simp [hw, Nat.ne_of_gt hpos]
  let k1 : Task := { k with cue := k.cue - 1, state := if k.cue = 1 then .dispatchable else .waitCue }
  let s1 : State := { s with tasks := Tab.put s.tasks slot k1, ready := if k.cue = 1 then s.ready ++ [slot] else s.ready }
  have heq : decCue s slot = preWake s1 slot := by
    simp only [decCue, hk, hgo, Bool.false_eq_true, if_false]
    by_cases h1 : k.cue = 1 <;> simp only [h1, if_false, if_true, s1, k1]
  obtain ⟨cores, tasks, hpre, hsame⟩ := preWake_eq s1 slot
  obtain ⟨c, hq⟩ := hsame.there k1 (Tab.get?_put ..)
  rw [heq, hpre]
  exact ⟨_, hq, rfl, rfl, rfl, fun x hx => (hsame.others x hx).trans (Tab.get?_put_ne _ _ _ _ hx)⟩

theorem decCue_idle {slot : Nat} {k : Task} (hk : Tab.get? s.tasks slot = some k) (h : k.state ≠ .waitCue ∨ k.cue = 0) :
    decCue s slot = s := by
  have hstop : (decide (k.cue = 0) || k.state != .waitCue) = true := by
    rcases h with h | h <;> simp [h]
  simp only [decCue, hk, hstop, if_true]

theorem decCue_isSome (slot x : Nat) : (Tab.get? (decCue s slot).tasks x).isSome = (Tab.get? s.tasks x).isSome := by
  cases hk : Tab.get? s.tasks slot with
  | none => simp only [decCue, hk]
  | some k =>
    by_cases hgo : k.state ≠ .waitCue ∨ k.cue = 0
    · rw [decCue_idle s hk hgo]
    · obtain ⟨hw, hpos⟩ := not_or.mp hgo
      obtain ⟨q, hq, -, -, -, hothers⟩ := decCue_counts s hk (not_not.mp hw) (Nat.pos_of_ne_zero hpos)
      by_cases hx : x = slot
      · rw [hx, hq, hk]
        rfl
      · rw [hothers x hx]

theorem signalSuccs_isSome (k : Task) (x : Nat) : (Tab.get? (signalSuccs s k).tasks x).isSome = (Tab.get? s.tasks x).isSome := by
  refine foldl_keep _ _ (fun st : State => (Tab.get? st.tasks x).isSome) (fun st w => ?_) _
  dsimp only
  repeat' split
  all_goals simp only [decCue_isSome]

end Tasks

/-! ### Threads -/

/-- A thread that has left its task and its tile group (R113). -/
def Thread.emptied (th : Thread) : Thread :=
  { th with status := .empty, task := none, epoch := none, waitsWith := none, inRepn := false, stopPfx := false, stopExt := false, iter := 0,
            nmi := .none, group := none }

theorem setTh_th (s : State) (t : Tid) : s.setTh t (s.th t) = s := by
  simp [State.setTh, State.th]

theorem releaseGroup_eq (s : State) (t : Tid) :
    ∃ cores, releaseGroup s t = { s.setTh t { s.th t with group := none } with cores := cores } := by
  unfold releaseGroup
  dsimp only
  split
  next h =>
    have hsame : ({ s.th t with group := none } : Thread) = s.th t := by rw [← h]
    rw [hsame, setTh_th]
    exact ⟨s.cores, rfl⟩
  · repeat' split
    all_goals exact ⟨_, rfl⟩

theorem emptyThread_ungrouped (s : State) (t : Tid) (cores : Vector Core 48) :
    emptyThread { s.setTh t { s.th t with group := none } with cores := cores } t =
      { s.setTh t (s.th t).emptied with cores := cores } := by
  simp [emptyThread, State.setTh, State.th, Thread.emptied]

/-- A thread gives back its tiles and becomes EMPTY; of the rest only cores change. -/
theorem vacated (s : State) (t : Tid) :
    ∃ cores, emptyThread (dropTileWait (releaseGroup s t) t) t = { s.setTh t (s.th t).emptied with cores := cores } := by
  obtain ⟨cores, hcores⟩ := releaseGroup_eq s t
  exact ⟨(dropTileWait (releaseGroup s t) t).cores, hcores ▸ emptyThread_ungrouped s t _⟩

/-- A thread stops: its memory accesses are released, and it is EMPTY (R113, R294). -/
theorem stopThread_th (s : State) (t : Tid) : (stopThread s t).th t = (s.th t).emptied := by
  obtain ⟨cores, h⟩ := vacated (fenceRel s t.core) t
  rw [stopThread, h]
  exact (State.th_setTh ..).trans (congrArg _ (th_of_threads fenceRel_keep.1 t))

theorem stopThread_th_ne (s : State) {t n : Tid} (hn : n ≠ t) : (stopThread s t).th n = s.th n := by
  obtain ⟨cores, h⟩ := vacated (fenceRel s t.core) t
  rw [stopThread, h]
  exact (State.th_setTh_ne _ _ _ _ hn.symm).trans (th_of_threads fenceRel_keep.1 n)

theorem stopThread_tables (s : State) (t : Tid) :
    (stopThread s t).tasks = s.tasks ∧ (stopThread s t).taskEnd = s.taskEnd ∧ ∀ key, epochSummary key (stopThread s t) = epochSummary key s := by
  obtain ⟨cores, h⟩ := vacated (fenceRel s t.core) t
  rw [stopThread, h]
  exact ⟨fenceRel_blind tasks_blind .., fenceRel_blind taskEnd_blind .., fun key => fenceRel_blind (epochSummary_blind key) ..⟩

end Sys2Proof.Machine
end

/-!
PROOFS, 23. Cues, the end of a task and dispatch (R107, R111 to R114, R118).
-/

section
namespace Sys2Proof.Machine

section Flow
variable {t : Tid} {rd r : RIdx} {cs : PIdx} {s s1 : State}

/-! ### TASK.CUE -/

/-- Register r holds a handle of the thread's tenancy and of the given kind, and cs gives TASK. -/
structure NamesSlot (t : Tid) (cs : PIdx) (r : RIdx) (kind : Nat) (s1 : State) : Prop where
  auth : Auth (s1.th t) cs 0x1000
  tag : ((s1.th t).g r).tag = .handle
  kind_eq : (handleOf ((s1.th t).g r).val).kind = kind
  ten : handleTenancyOk (s1.th t) (handleOf ((s1.th t).g r).val) = true

section Start
variable {kind : Nat} (hn : NamesSlot t cs r kind s1)
include hn

theorem NamesSlot.start (dom : Nat) :
    taskStart t cs [argOp dom .handle ((s1.th t).g r)] permTASK (begun t s1) = .ok () (begun t s1) :=
  taskStart_run hn.auth (List.forall_mem_singleton.mpr (handle_arg_fine hn.tag dom))

theorem NamesSlot.handle {kinds : List Nat} (hk : kind ∈ kinds) :
    handleKind t ((s1.th t).g r).val kinds (begun t s1) = .ok (handleOf ((s1.th t).g r).val) (begun t s1) :=
  handleKind_run (by rw [hn.kind_eq]; exact List.contains_iff_mem.mpr hk) hn.ten

end Start

theorem taskCue_counts {k : Task} (h : Fetches t 4 false s s1) (hn : NamesSlot t cs r 1 s1)
    (hl : liveTask s1 (handleOf ((s1.th t).g r).val) = some k) (hw : k.state = .waitCue) (hpos : 0 < k.cue) :
    let u := decCue (begun t s1) (handleOf ((s1.th t).g r).val).index
    exec (.taskCue t rd cs r) s = .next (done t 4 u ((u.th t).write rd ⟨1, .bool⟩)) := by
  intro u
  rw [exec_taskCue, execTaskCue]
  refine simple_done h (s2 := u) (th := (u.th t).write rd ⟨1, .bool⟩) ?_ rfl
  have hl' : liveTask (begun t s1) (handleOf ((s1.th t).g r).val) = some k := hl
  have hbit : (k.cue != 0 && k.state == .waitCue) = true := by simp [hw, Nat.ne_of_gt hpos]
  simp only [M.bind_run, greg_run, g_begun, hn.start, hn.handle (List.mem_singleton.mpr rfl), getS_run, hl', modS_run, hbit]
  rfl

theorem taskCue_idle (h : Fetches t 4 false s s1) (hn : NamesSlot t cs r 1 s1)
    (hidle : liveTask s1 (handleOf ((s1.th t).g r).val) = none ∨
      ∃ k, liveTask s1 (handleOf ((s1.th t).g r).val) = some k ∧ (k.state ≠ .waitCue ∨ k.cue = 0)) :
    exec (.taskCue t rd cs r) s = .next (done t 4 s1 ((s1.th t).write rd ⟨0, .bool⟩)) := by
  rw [exec_taskCue, execTaskCue]
  refine simple_write h ?_
  simp only [M.bind_run, greg_run, g_begun, hn.start, hn.handle (List.mem_singleton.mpr rfl), getS_run]
  rcases hidle with hl | ⟨k, hl, hk⟩
  · have hl' : liveTask (begun t s1) (handleOf ((s1.th t).g r).val) = none := hl
    rw [hl']
    rfl
  · have hl' : liveTask (begun t s1) (handleOf ((s1.th t).g r).val) = some k := hl
    have hsame := decCue_idle (begun t s1) (liveTask_get? hl') hk
    have hbit : (k.cue != 0 && k.state == .waitCue) = false := by
      rcases hk with hk | hk <;> simp [hk]
    rw [hl']
    simp only [modS_run, M.bind_run, hsame, hbit]
    rfl

/-! ### TASK.DONE -/

/-- A thread that runs no task, belongs to no tile group and is EMPTY. -/
structure Vacant (th : Thread) : Prop where
  status : th.status = .empty
  task : th.task = none
  group : th.group = none

theorem emptied_vacant (th : Thread) : Vacant th.emptied := ⟨rfl, rfl, rfl⟩

theorem Vacant.iff {a b : Thread} (hs : (b.status = .empty) = (a.status = .empty)) (ht : b.task = a.task) (hg : b.group = a.group) :
    Vacant b ↔ Vacant a := by
  constructor
  · rintro ⟨h1, h2, h3⟩
    exact ⟨hs.mp h1, ht ▸ h2, hg ▸ h3⟩
  · rintro ⟨h1, h2, h3⟩
    exact ⟨hs.mpr h1, ht.trans h2, hg.trans h3⟩

/-- Whether a thread is vacant depends on no table. -/
theorem vacant_apart (t : Tid) : Apart (fun s => Vacant (s.th t)) := by
  have hst := empty_apart t
  have htask := field_apart t (fun th => th.task) fun _ _ _ _ => rfl
  have hgroup := field_apart t (fun th => th.group) fun _ _ _ _ => rfl
  refine ⟨⟨fun s => by intros; rfl, fun s v h => ?_, fun _ _ _ _ _ _ _ => rfl⟩, fun _ _ _ _ _ => rfl⟩
  exact propext (Vacant.iff (hst.threads s v h) (htask.threads s v h) (hgroup.threads s v h))

theorem taskDone_run (h : Fetches t 4 false s s1) :
    exec (.taskDone t) s = .next (done t 4 (endTask (begun t s1) t) ((endTask (begun t s1) t).th t)) := by
  rw [exec_taskDone, execTaskDone]
  exact runInstr_done (i := {}) h rfl (modS_run ..)

theorem done_vacant {u : State} (h : Vacant (u.th t)) (len : Nat) : Vacant ((done t len u (u.th t)).th t) := by
  rw [done, State.th_setTh]
  exact ⟨h.status, h.task, h.group⟩

theorem specEpoch_eq (u : State) (k : Task) : specEpoch u k =
    k.epoch.bind (fun e => if (epochSummary (64 * k.tenancy.val + e) u).map Prod.fst = some .opened then some e else none) := by
  unfold specEpoch epochSummary
  cases k.epoch with
  | none => rfl
  | some e => cases h : Tab.get? u.epochs (64 * k.tenancy.val + e) <;> simp [h]

theorem specEpoch_congr {u : State} (h : ∀ key, epochSummary key u = epochSummary key s) (k : Task) : specEpoch u k = specEpoch s k := by
  simp only [specEpoch_eq, h]

section Ends
variable {slot : Nat} {k : Task} (htask : (s.th t).task = some slot) (hk : Tab.get? s.tasks slot = some k)
include htask hk

/-- A task outside every open epoch frees its slot as DONE. -/
theorem endTask_frees (hep : k.epoch = none) :
    Vacant ((endTask s t).th t) ∧ Tab.get? (endTask s t).tasks slot = none ∧ Tab.get? (endTask s t).taskEnd slot = some .done := by
  obtain ⟨htasks, -, -⟩ := stopThread_tables s t
  have hk1 : Tab.get? (stopThread s t).tasks slot = some k := htasks ▸ hk
  have hspec : specEpoch (stopThread s t) k = none := by simp only [specEpoch, hep]
  have heq : endTask s t = freeTask (signalSuccs (stopThread s t) k) slot .done := by simp only [endTask, htask, hk1, hspec]
  rw [heq]
  have hvac : Vacant ((stopThread s t).th t) := by
    rw [stopThread_th]
    exact emptied_vacant _
  have hsome : (Tab.get? (signalSuccs (stopThread s t) k).tasks slot).isSome = true := by rw [signalSuccs_isSome, hk1]; rfl
  obtain ⟨q, hq⟩ := Option.isSome_iff_exists.mp hsome
  refine ⟨?_, ?_, ?_⟩
  · exact ((freeTask_apart (vacant_apart t) ..).trans (signalSuccs_apart (vacant_apart t) ..)).mpr hvac
  · rw [freeTask_get?, if_pos rfl]
  · rw [(freeTask_tables _ hq _).2]
    exact Tab.get?_put ..

/-- A task of an open epoch keeps its slot until the epoch resolves (R114). -/
theorem endTask_keeps {e : Nat} (hep : specEpoch s k = some e) :
    Vacant ((endTask s t).th t) ∧ Tab.get? (endTask s t).tasks slot = some { k with state := .doneSpec, thread := none } := by
  obtain ⟨htasks, -, hepochs⟩ := stopThread_tables s t
  have hk1 : Tab.get? (stopThread s t).tasks slot = some k := htasks ▸ hk
  have hspec : specEpoch (stopThread s t) k = some e := (specEpoch_congr hepochs k).trans hep
  simp only [endTask, htask, hk1, hspec]
  refine ⟨?_, Tab.get?_put ..⟩
  exact stopThread_th s t ▸ emptied_vacant _

end Ends

/-! ### TASK_DISPATCH -/

theorem g_write_ne (th : Thread) {q p : RIdx} (v : Reg) (hq : q ≠ p) (hp : (th.g (partner p)).tag.isCap = false) :
    (th.write p v).g q = th.g q := by
  have hne : p.val ≠ q.val := fun h => hq (Fin.ext h.symm)
  simp [Thread.write, Thread.g, hp, hne] at hp ⊢

/-- The registers a task starts with: those that carry its arguments, and NIL elsewhere (R112). -/
structure StartRegs (k : Task) (slot : Nat) (th : Thread) : Prop where
  handle : th.g 1 = ⟨taskHandle k slot, .handle⟩
  word : th.g 8 = ⟨k.w0, .int⟩
  stackLen : th.g 29 = ⟨BitVec.ofNat 64 k.dstack.toCap.length, .int⟩
  stack : th.pair 30 = k.dstack
  arg : th.pair 2 = (if k.argCap then k.argC else ⟨⟨0, .nil⟩, ⟨0, .nil⟩⟩)
  others : ∀ x : RIdx, x ∉ [(1 : RIdx), 2, 3, 8, 29, 30, 31] → th.g x = ⟨0, .nil⟩

/-- Three writes whose partners hold no capability change three registers. -/
theorem g_three_writes (th : Thread) (a b c : Reg) (h28 : (th.g 28).tag.isCap = false) (h9 : (th.g 9).tag.isCap = false)
    (h0 : (th.g 0).tag.isCap = false) :
    let u := ((th.write 29 a).write 8 b).write 1 c
    u.g 29 = a ∧ u.g 8 = b ∧ u.g 1 = c ∧ ∀ q : RIdx, q ∉ [(1 : RIdx), 8, 29] → u.g q = th.g q := by
  have g1 (q : RIdx) (hq : q ≠ 29) : (th.write 29 a).g q = th.g q := g_write_ne th a hq h28
  have g2 (q : RIdx) (hq : q ≠ 8) : ((th.write 29 a).write 8 b).g q = (th.write 29 a).g q :=
    g_write_ne _ b hq (by rw [show partner 8 = 9 from rfl, g1 9 (by decide)]; exact h9)
  have g3 (q : RIdx) (hq : q ≠ 1) : (((th.write 29 a).write 8 b).write 1 c).g q = ((th.write 29 a).write 8 b).g q :=
    g_write_ne _ c hq (by rw [show partner 1 = 0 from rfl, g2 0 (by decide), g1 0 (by decide)]; exact h0)
  refine ⟨?_, ?_, Thread.g_write .., fun q hq => ?_⟩
  · rw [g3 29 (by decide), g2 29 (by decide), Thread.g_write]
  · rw [g3 8 (by decide), Thread.g_write]
  · simp only [List.mem_cons, List.not_mem_nil, or_false, not_or] at hq
    obtain ⟨h1, h8, h29⟩ := hq
    rw [g3 q h1, g2 q h8, g1 q h29]

/-- A thread of NIL registers after its argument and its stack have been written. -/
theorem startRegs_of (th : Thread) (k : Task) (slot : Nat) (hnil : ∀ x, th.g x = Reg.nil) :
    let th3 := (if k.argCap then th.writePair 2 k.argC else th).writePair 30 k.dstack
    StartRegs k slot (((th3.write 29 (.int (BitVec.ofNat 64 k.dstack.toCap.length))).write 8 (.int k.w0)).write 1
      ⟨taskHandle k slot, .handle⟩) := by
  intro th3
  have harg (q : RIdx) (h1 : q.val / 2 ≠ 1) (h15 : q.val / 2 ≠ 15) : th3.g q = Reg.nil := by
    rw [g_writePair_ne _ _ _ _ h15]
    split
    · rw [g_writePair_ne _ _ _ _ h1, hnil]
    · exact hnil q
  have hnocap (q : RIdx) (h1 : q.val / 2 ≠ 1) (h15 : q.val / 2 ≠ 15) : (th3.g q).tag.isCap = false := by
    rw [harg q h1 h15]
    rfl
  obtain ⟨h29, h8, h1, hrest⟩ := g_three_writes th3 (.int (BitVec.ofNat 64 k.dstack.toCap.length)) (.int k.w0) ⟨taskHandle k slot, .handle⟩
    (hnocap 28 (by decide) (by decide)) (hnocap 9 (by decide) (by decide)) (hnocap 0 (by decide) (by decide))
  have hpair (p : RIdx) (he : evenOf p ∉ [(1 : RIdx), 8, 29]) (ho : oddOf p ∉ [(1 : RIdx), 8, 29]) :
      Thread.pair (((th3.write 29 (.int (BitVec.ofNat 64 k.dstack.toCap.length))).write 8 (.int k.w0)).write 1
        ⟨taskHandle k slot, .handle⟩) p = th3.pair p := by
    rw [Thread.pair, hrest _ he, hrest _ ho]
    rfl
  refine ⟨h1, h8, h29, ?_, ?_, fun x hx => ?_⟩
  · rw [hpair 30 (by decide) (by decide)]
    exact pair_writePair ..
  · rw [hpair 2 (by decide) (by decide), Thread.pair, g_writePair_ne _ _ _ _ (by decide), g_writePair_ne _ _ _ _ (by decide)]
    split
    · exact pair_writePair ..
    · rw [hnil, hnil]
      rfl
  · have hfar : ∀ x : RIdx, x ∉ [(1 : RIdx), 2, 3, 8, 29, 30, 31] → x ∉ [(1 : RIdx), 8, 29] ∧ x.val / 2 ≠ 1 ∧ x.val / 2 ≠ 15 := by decide
    obtain ⟨hwrites, harg1, hstack⟩ := hfar x hx
    rw [hrest x hwrites, harg x harg1 hstack]
    rfl

theorem start_regs (th : Thread) (k : Task) (slot : Nat) (e : Option Nat) : StartRegs k slot (th.start k slot e) :=
  startRegs_of _ k slot fun x => by simp [Thread.g]

/-- Where a started task executes, and with what stack and authority. -/
structure StartPlace (k : Task) (slot : Nat) (th : Thread) : Prop where
  status : th.status = .loaded
  task : th.task = some slot
  pc : th.pc = BitVec.ofNat 64 k.code.toCap.base + k.offset
  pcc : th.pcc = k.code
  rscap : th.rscap = k.rstack
  rsp : th.rsp = BitVec.ofNat 64 k.rstack.toCap.length
  level : th.level.val = (if k.dev then 2 else 0)
  ie : th.ie = k.ie
  tenancy : th.tenancy = k.tenancy

theorem start_place (th : Thread) (k : Task) (slot : Nat) (e : Option Nat) : StartPlace k slot (th.start k slot e) := by
  unfold Thread.start
  dsimp only
  constructor <;> repeat' split
  all_goals rfl

/-- Starting a task changes one thread and one slot. -/
theorem startTask_facts (s : State) (slot : Nat) (k : Task) (t : Tid) :
    (startTask s slot k t).th t = (s.th t).start k slot (specEpoch s k) ∧
      Tab.get? (startTask s slot k t).tasks slot = some { k with state := .running, thread := some t.val, core := some (t.val / 16) } := by
  have htasks (x : State) (c : CoreId) : (fenceAcq x c).tasks = x.tasks := by
    unfold fenceAcq
    split <;> rfl
  constructor
  · rw [startTask, th_of_threads fenceAcq_threads]
    exact State.th_setTh ..
  · rw [startTask, htasks]
    exact Tab.get?_put ..

theorem taskDispatch_starts {quarter : Fin 4} {slot : Nat} {k : Task} (hq : t.val / 16 / 12 = quarter.val)
    (he : (s.th t).status = .empty) (hnext : nextFor s (t.val / 16) = some (slot, k)) :
    exec (.taskDispatch quarter t.core t) s = .next (startTask s slot k t) := by
  rw [exec_taskDispatch, execTaskDispatch]
  have hcore : t.core.val = t.val / 16 := rfl
  simp [hcore, hq, he, hnext]

theorem taskDispatch_none {quarter : Fin 4} {core : CoreId} (h : core.val / 12 ≠ quarter.val ∨ t.core ≠ core ∨ (s.th t).status ≠ .empty ∨
    nextFor s core.val = none) : exec (.taskDispatch quarter core t) s = .next s := by
  rw [exec_taskDispatch, execTaskDispatch]
  by_cases hgo : core.val / 12 ≠ quarter.val ∨ t.core ≠ core ∨ (s.th t).status ≠ .empty
  · rw [if_pos (by simpa [or_assoc] using hgo)]
  · have hnext : nextFor s core.val = none := by tauto
    rw [hnext]
    split <;> rfl

end Flow

/-- Settles O28: a cue is counted by `decCue`; a thread that ends its task is vacated, and the slot is freed unless an epoch still holds it;
dispatch starts the thread with the registers of R112. -/
theorem taskFlow : Obligations.TaskFlow := by
  unfold Obligations.TaskFlow
  intro t rd r cs s
  refine ⟨?_, fun quarter slot k hq he hnext => ?_, fun quarter core hgo => taskDispatch_none hgo⟩
  · intro s1 hf _ th h
    have htask {slot : Nat} (htask : th.task = some slot) : ((begun t s1).th t).task = some slot := by rw [begun_th]; exact htask
    refine ⟨fun hauth htag hkind hten => ?_, fun slot k hslot hk hep => ?_, fun slot k e hslot hk hep => ?_⟩
    · have hn : NamesSlot t cs r 1 s1 := ⟨hauth, htag, hkind, hten⟩
      refine ⟨fun k hl hw hpos => ?_, taskCue_idle hf hn⟩
      obtain ⟨q, hq, hcue, hstate, hready, hothers⟩ := decCue_counts (begun t s1) (liveTask_get? (s := begun t s1) hl) hw hpos
      have hpc : ((decCue (begun t s1) h.index).th t).pc = th.pc :=
        (decCue_apart (field_apart t (fun a => a.pc) fun _ _ _ _ => rfl) ..).trans (by rw [begun_th])
      refine ⟨q, _, taskCue_counts hf hn hl hw hpos, done_write_g .., ?_, hq, hcue, hstate, hready, hothers⟩
      rw [done, State.th_setTh]
      exact congrArg (· + 4) hpc
    · obtain ⟨hvac, hnone, hend⟩ := endTask_frees (s := begun t s1) (htask hslot) hk hep
      have hd := done_vacant hvac 4
      exact ⟨_, taskDone_run hf, hd.status, hd.task, hd.group, hnone, hend⟩
    · obtain ⟨hvac, hkept⟩ := endTask_keeps (s := begun t s1) (htask hslot) hk hep
      exact ⟨_, _, taskDone_run hf, (done_vacant hvac 4).status, hkept, rfl, rfl⟩
  · obtain ⟨hth, hslot⟩ := startTask_facts s slot k t
    have hregs := start_regs (s.th t) k slot (specEpoch s k)
    refine ⟨_, _, { k with state := .running, thread := some t.val, core := some (t.val / 16) }, taskDispatch_starts hq he hnext, rfl, ?_⟩
    rw [hth]
    have hplace := start_place (s.th t) k slot (specEpoch s k)
    have hpc : BitVec.ofNat 64 (k.code.toCap.base + k.offset.toNat) = BitVec.ofNat 64 k.code.toCap.base + k.offset := by
      rw [BitVec.ofNat_add, BitVec.ofNat_toNat, BitVec.setWidth_eq]
    exact ⟨hplace.status, hplace.task, hplace.pc.trans hpc.symm, hplace.pcc, hplace.rscap, hplace.rsp, hregs.handle, hregs.word,
      hregs.stackLen, hregs.stack, hregs.arg, hregs.others, hplace.level, hplace.ie, hplace.tenancy, hslot, rfl, rfl⟩

end Sys2Proof.Machine
end

/-!
PROOFS, 24. The other task commands: bind, state, signal and abort (R115 to R117, R131, R135).
-/

section
namespace Sys2Proof.Machine

section Abort
variable (s : State)

theorem stopThread_regs (t n : Tid) : ((stopThread s t).th n).regs = (s.th n).regs := by
  by_cases h : n = t
  · rw [h, stopThread_th]
    rfl
  · rw [stopThread_th_ne s h]

/-- The thread of a task stops before the task ends. -/
def stopRunner (k : Task) : State := match k.thread with
  | some n => stopThread s (tidOf n)
  | none => s

theorem tidOf_val (n : Tid) : tidOf n.val = n := Fin.ext (Nat.mod_eq_of_lt n.isLt)

theorem stopRunner_tables (k : Task) :
    (stopRunner s k).tasks = s.tasks ∧ (stopRunner s k).taskEnd = s.taskEnd ∧
      ∀ key, epochSummary key (stopRunner s k) = epochSummary key s := by
  unfold stopRunner
  split
  · exact stopThread_tables s _
  · exact ⟨rfl, rfl, fun _ => rfl⟩

theorem stopRunner_regs (k : Task) (n : Tid) : ((stopRunner s k).th n).regs = (s.th n).regs := by
  unfold stopRunner
  split
  · exact stopThread_regs s _ n
  · rfl

theorem stopRunner_vacant {k : Task} {n : Tid} (h : k.thread = some n.val) : Vacant ((stopRunner s k).th n) := by
  simp only [stopRunner, h, tidOf_val, stopThread_th]
  exact emptied_vacant _

variable {s} {slot : Nat} {k : Task}

theorem abortTask_eq (hk : Tab.get? s.tasks slot = some k) (hst : k.state ≠ .doneSpec) :
    abortTask s slot = signalCreator (freeTask (stopRunner s k) slot .aborted) k.creator k.creatorTask 54 k.tenancy.val (taskHandle k slot) := by
  simp only [abortTask, hk, if_neg hst]
  rfl

/-- An abort frees the slot, records how the task ended and empties its thread; no register changes (R117). -/
structure AbortedFrom (s u : State) (slot : Nat) (k : Task) : Prop where
  gone : Tab.get? u.tasks slot = none
  ended : Tab.get? u.taskEnd slot = some .aborted
  vacant : ∀ n : Tid, k.thread = some n.val → Vacant (u.th n)
  regs : ∀ n : Tid, (u.th n).regs = (s.th n).regs

theorem regs_apart (n : Tid) : Apart (fun s => (s.th n).regs) := field_apart n (fun th => th.regs) fun _ _ _ _ => rfl

theorem abortTask_facts (hk : Tab.get? s.tasks slot = some k) (hst : k.state ≠ .doneSpec) : AbortedFrom s (abortTask s slot) slot k := by
  obtain ⟨htasks, -, -⟩ := stopRunner_tables s k
  have hk1 : Tab.get? (stopRunner s k).tasks slot = some k := htasks ▸ hk
  have hkeep {γ : Type} {g : State → γ} (hg : Apart g) : g (abortTask s slot) = g (stopRunner s k) := by
    rw [abortTask_eq hk hst, signalCreator_blind hg.toBlind, freeTask_apart hg]
  refine ⟨?_, ?_, fun n hn => (hkeep (vacant_apart n)).mpr (stopRunner_vacant s hn), fun n => (hkeep (regs_apart n)).trans (stopRunner_regs s k n)⟩
  · rw [abortTask_eq hk hst, signalCreator_blind tasks_blind, freeTask_get?, if_pos rfl]
  · rw [abortTask_eq hk hst, signalCreator_blind taskEnd_blind, (freeTask_tables _ hk1 _).2]
    exact Tab.get?_put ..

end Abort

section Controls
variable {t : Tid} {rd rx r : RIdx} {cs : PIdx} {s s1 : State}

/-! ### TASK.BIND -/

/-- TASK.BIND and TASK.SIG take a number and authority. -/
structure AsksBind (t : Tid) (cs : PIdx) (rx r : RIdx) (s1 : State) : Prop where
  auth : Auth (s1.th t) cs 0x1000
  group : ((s1.th t).g rx).tag = .int
  mask : ((s1.th t).g r).tag = .int

theorem AsksBind.start (h : AsksBind t cs rx r s1) :
    taskStart t cs [argOp 6 .index ((s1.th t).g rx), argOp 9 .index ((s1.th t).g r)] permTASK (begun t s1) = .ok () (begun t s1) :=
  taskStart_run h.auth (List.forall_mem_cons.mpr ⟨int_arg_fine h.group 6, List.forall_mem_singleton.mpr (int_arg_fine h.mask 9)⟩)

/-- What R131 rejects: a group outside 1 to 63, and a mask that is empty or leaves the tenancy's. -/
theorem bind_refused_iff (x m mask : Nat) :
    (decide (x = 0) || decide (63 < x) || decide (m = 0) || Nat.land m mask != m) = true ↔ x = 0 ∨ 63 < x ∨ m = 0 ∨ m &&& mask ≠ m := by
  rw [show Nat.land m mask = m &&& mask from rfl]
  simp [or_assoc]

theorem threadMask_begun : threadMask (begun t s1) ((begun t s1).th t) = threadMask s1 (s1.th t) := by
  rw [begun_th]
  rfl

theorem taskBind_binds (h : Fetches t 4 false s s1) (ha : AsksBind t cs rx r s1)
    (hgood : ¬ (((s1.th t).g rx).val.toNat = 0 ∨ 63 < ((s1.th t).g rx).val.toNat ∨ ((s1.th t).g r).val.toNat = 0 ∨
      ((s1.th t).g r).val.toNat &&& threadMask s1 (s1.th t) ≠ ((s1.th t).g r).val.toNat)) :
    exec (.taskBind t rd cs rx r) s = .next (done t 4
      { s1 with groups := Tab.put s1.groups (64 * (s1.th t).tenancy.val + ((s1.th t).g rx).val.toNat) ((s1.th t).g r).val.toNat }
      ((s1.th t).write rd ⟨1, .bool⟩)) := by
  have hgo := Bool.not_eq_true _ ▸ mt (bind_refused_iff ..).mp hgood
  have hten : ((begun t s1).th t).tenancy = (s1.th t).tenancy := by rw [begun_th]
  rw [exec_taskBind, execTaskBind]
  refine simple_wrote h ?_
  simp only [M.bind_run, greg_run, g_begun, ha.start, getS_run, getT_run, threadMask_begun, hgo, Bool.false_eq_true, if_false, modS_run, hten]
  rfl

theorem taskBind_range (h : Fetches t 4 false s s1) (ha : AsksBind t cs rx r s1)
    (hbad : ((s1.th t).g rx).val.toNat = 0 ∨ 63 < ((s1.th t).g rx).val.toNat ∨ ((s1.th t).g r).val.toNat = 0 ∨
      ((s1.th t).g r).val.toNat &&& threadMask s1 (s1.th t) ≠ ((s1.th t).g r).val.toNat) :
    exec (.taskBind t rd cs rx r) s = .next (done t 4 s1 ((s1.th t).write rd ⟨5, .int⟩)) := by
  have hgo := (bind_refused_iff ..).mpr hbad
  rw [exec_taskBind, execTaskBind]
  refine simple_write h ?_
  simp only [M.bind_run, greg_run, g_begun, ha.start, getS_run, getT_run, threadMask_begun, hgo, if_true]
  rfl

/-! ### TASK.STATE -/

theorem taskState_code (h : Fetches t 4 false s s1) (htag : ((s1.th t).g r).tag = .handle)
    (hten : handleTenancyOk (s1.th t) (handleOf ((s1.th t).g r).val) = true)
    (hkind : (handleOf ((s1.th t).g r).val).kind = 1 ∨ (handleOf ((s1.th t).g r).val).kind = 2) :
    exec (.taskState t rd r) s =
      .next (done t 4 s1 ((s1.th t).write rd (.int (BitVec.ofNat 64 (stateCode s1 (handleOf ((s1.th t).g r).val)))))) := by
  rw [exec_taskState, execTaskState]
  refine simple_write h ?_
  have hfine : ∀ o ∈ [argOp 9 .handle ((s1.th t).g r)], o.Fine := List.forall_mem_singleton.mpr (handle_arg_fine htag 9)
  have hhandle : handleKind t ((s1.th t).g r).val [1, 2] (begun t s1) = .ok (handleOf ((s1.th t).g r).val) (begun t s1) :=
    handleKind_run (by rcases hkind with h | h <;> simp [h]) hten
  simp only [M.bind_run, greg_run, g_begun, checkOps_fine hfine, hhandle, getS_run]
  rfl

/-! ### TASK.SIG -/

section Signals
variable {k : Task} (hn : NamesSlot t cs r 1 s1) (hx : ((s1.th t).g rx).tag = .int)
  (hl : liveTask s1 (handleOf ((s1.th t).g r).val) = some k)
include hn hx hl

theorem sig_start : taskStart t cs [argOp 6 .index ((s1.th t).g rx), argOp 9 .handle ((s1.th t).g r)] permTASK (begun t s1) =
      .ok () (begun t s1) ∧
    theTask t ((s1.th t).g r).val (begun t s1) = .ok ((handleOf ((s1.th t).g r).val).index, k) (begun t s1) := by
  have hl' : liveTask (begun t s1) (handleOf ((s1.th t).g r).val) = some k := hl
  refine ⟨taskStart_run hn.auth (List.forall_mem_cons.mpr ⟨int_arg_fine hx 6, List.forall_mem_singleton.mpr (handle_arg_fine hn.tag 9)⟩), ?_⟩
  simp only [theTask, M.bind_run, hn.handle (List.mem_singleton.mpr rfl), getS_run, hl', M.pure_run]

theorem taskSig_range (h : Fetches t 4 false s s1) (hbig : 3 < ((s1.th t).g rx).val.toNat) :
    exec (.taskSig t rd cs rx r) s = .next (done t 4 s1 ((s1.th t).write rd ⟨5, .int⟩)) := by
  obtain ⟨hstart, htask⟩ := sig_start hn hx hl
  rw [exec_taskSig, execTaskSig]
  refine simple_write h ?_
  simp only [M.bind_run, greg_run, g_begun, hstart, htask, hbig, if_true]
  rfl

theorem taskSig_nowhere (h : Fetches t 4 false s s1) (hsmall : ((s1.th t).g rx).val.toNat ≤ 3) (hk : k.thread = none) :
    exec (.taskSig t rd cs rx r) s = .next (done t 4 s1 ((s1.th t).write rd ⟨0, .bool⟩)) := by
  obtain ⟨hstart, htask⟩ := sig_start hn hx hl
  rw [exec_taskSig, execTaskSig]
  refine simple_write h ?_
  simp only [M.bind_run, greg_run, g_begun, hstart, htask, Nat.not_lt.mpr hsmall, if_false, hk]
  rfl

theorem taskSig_pends (h : Fetches t 4 false s s1) (hsmall : ((s1.th t).g rx).val.toNat ≤ 3) {n : Tid} (hk : k.thread = some n.val) :
    let u := (begun t s1).pend n (48 + ((s1.th t).g rx).val.toNat)
    exec (.taskSig t rd cs rx r) s = .next (done t 4 u ((u.th t).write rd ⟨1, .bool⟩)) := by
  intro u
  obtain ⟨hstart, htask⟩ := sig_start hn hx hl
  rw [exec_taskSig, execTaskSig]
  refine simple_done h (s2 := u) (th := (u.th t).write rd ⟨1, .bool⟩) ?_ rfl
  simp only [M.bind_run, greg_run, g_begun, hstart, htask, Nat.not_lt.mpr hsmall, if_false, hk, tidOf_val, modS_run]
  rfl

end Signals

/-- The signalled thread after the instruction, itself or another. -/
theorem signalled_th (s1 : State) (t n : Tid) (v : Nat) (p : Reg) :
    let u := (begun t s1).pend n v
    ((done t 4 u ((u.th t).write rd p)).th n).ipend = (s1.th n).ipend ||| (1#64 <<< v) := by
  intro u
  by_cases h : t = n
  · subst h
    rw [done, State.th_setTh]
    have hu : u.th t = { (begun t s1).th t with ipend := ((begun t s1).th t).ipend ||| (1#64 <<< v) } := State.th_setTh ..
    simp only [Thread.write, hu, begun_th]
  · rw [done, State.th_setTh_ne _ _ _ _ h]
    have hu : u.th n = { (begun t s1).th n with ipend := ((begun t s1).th n).ipend ||| (1#64 <<< v) } := State.th_setTh ..
    rw [hu, begun, State.th_setTh_ne _ _ _ _ h]

theorem signalled_th_ne (s1 : State) (v : Nat) (p : Reg) {t n y : Tid} (hn : y ≠ n) (ht : y ≠ t) :
    let u := (begun t s1).pend n v
    (done t 4 u ((u.th t).write rd p)).th y = s1.th y := by
  intro u
  have hu : u.th y = (begun t s1).th y := State.th_setTh_ne _ _ _ _ hn.symm
  rw [done, State.th_setTh_ne _ _ _ _ ht.symm, hu, begun, State.th_setTh_ne _ _ _ _ ht.symm]

/-! ### TASK.ABORT and the threads that go on -/

section Aborts
variable {k : Task} (h : Fetches t 4 false s s1) (hn : NamesSlot t cs r 1 s1) (hlevel : 1 ≤ (s1.th t).level.val)
  (hl : liveTask s1 (handleOf ((s1.th t).g r).val) = some k)
include h hn hlevel hl

theorem taskAbort_spec (hst : k.state = .doneSpec) :
    exec (.taskAbort t rd cs r) s = .next (done t 4 s1 ((s1.th t).write rd ⟨0, .bool⟩)) := by
  have hl' : liveTask (begun t s1) (handleOf ((s1.th t).g r).val) = some k := hl
  have hlv : ¬ ((begun t s1).th t).level.val = 0 := by
    rw [begun_th]
    exact Nat.ne_of_gt hlevel
  rw [exec_taskAbort, execTaskAbort]
  refine simple_write h ?_
  simp only [M.bind_run, greg_run, g_begun, hn.start, getT_run, hlv, if_false, hn.handle (List.mem_singleton.mpr rfl), getS_run,
    hl', hst, if_true]
  rfl

theorem taskAbort_run (hst : k.state ≠ .doneSpec) :
    let u := abortTask ((begun t s1).setTh t (((begun t s1).th t).write rd ⟨1, .bool⟩)) (handleOf ((s1.th t).g r).val).index
    exec (.taskAbort t rd cs r) s = .next (done t 4 u (u.th t)) := by
  intro u
  have hl' : liveTask (begun t s1) (handleOf ((s1.th t).g r).val) = some k := hl
  have hlv : ¬ ((begun t s1).th t).level.val = 0 := by
    rw [begun_th]
    exact Nat.ne_of_gt hlevel
  rw [exec_taskAbort, execTaskAbort]
  refine runInstr_done (i := {}) h rfl ?_
  simp only [M.bind_run, greg_run, g_begun, hn.start, getT_run, hlv, if_false, hn.handle (List.mem_singleton.mpr rfl), getS_run,
    hl', hst, putBool, wr_run, modS_run]
  rfl

end Aborts

theorem done_th_status (u : State) (n : Tid) (len : Nat) : ((done t len u (u.th t)).th n).status = (u.th n).status := by
  by_cases hn : t = n
  · subst hn
    rw [done, State.th_setTh]
  · rw [done, State.th_setTh_ne _ _ _ _ hn]

theorem specStoreRelease_goes {n : Fin 16} {slot : Nat} (hs : (s.th t).status = .waiting (.overlay n.val slot))
    (hres : ∀ e, Tab.get? s.epochs (64 * n.val + slot) = some e → e.state ≠ .opened) :
    exec (.specStoreRelease t) s = .next (s.setTh t { s.th t with status := .active, waitsWith := none }) := by
  rw [exec_specStoreRelease, execSpecStoreRelease]
  simp only [hs]
  split
  next e he => rw [if_neg (hres e he)]
  · rfl

theorem specStoreRelease_stays {n : Fin 16} {slot : Nat} {e : Epoch} (hs : (s.th t).status = .waiting (.overlay n.val slot))
    (he : Tab.get? s.epochs (64 * n.val + slot) = some e) (ho : e.state = .opened) : exec (.specStoreRelease t) s = .next s := by
  rw [exec_specStoreRelease, execSpecStoreRelease]
  simp only [hs, he, ho, if_true]

theorem droneTaskAbort_aborts {slot : Nat} (hs : (s.th t).status = .halted) (htask : (s.th t).task = some slot) :
    exec (.droneTaskAbort t) s = .next (abortTask s slot) := by
  rw [exec_droneTaskAbort, execDroneTaskAbort]
  simp [hs, htask]

theorem droneTaskAbort_idle (hs : (s.th t).status ≠ .halted) : exec (.droneTaskAbort t) s = .next s := by
  rw [exec_droneTaskAbort, execDroneTaskAbort, if_pos hs]

end Controls

/-- Settles O29: each command by the slot or the thread it names; an abort by what `abortTask` leaves. -/
theorem taskControls : Obligations.TaskControls := by
  unfold Obligations.TaskControls
  intro t rd rx r cs s
  refine ⟨?_, fun n slot hs => ⟨specStoreRelease_goes hs, fun e he ho => specStoreRelease_stays hs he ho⟩, ?_, droneTaskAbort_idle⟩
  · intro s1 hf _ th h put x m mask
    refine ⟨fun hauth hx hr => ?_, fun htag hten => ⟨?_, ?_, ?_, ?_, ?_⟩⟩
    · have ha : AsksBind t cs rx r s1 := ⟨hauth, hx, hr⟩
      refine ⟨fun hlow hhigh hm hin => ?_, taskBind_range hf ha⟩
      have hgood : ¬ (x = 0 ∨ 63 < x ∨ m = 0 ∨ m &&& mask ≠ m) := by simp [hin, Nat.ne_of_gt hlow, Nat.ne_of_gt hm, hhigh]
      refine ⟨_, taskBind_binds hf ha hgood, rfl, Tab.get?_put .., fun y hy => Tab.get?_put_ne _ _ _ _ hy⟩
    · intro k hkind hl
      have hcode : stateCode s1 h = k.state.code := by simp only [stateCode, hkind, if_true, hl]
      refine (taskState_code hf htag hten (.inl hkind)).trans ?_
      rw [hcode]
      cases k.state <;> rfl
    · intro e hkind hl
      have hcode : stateCode s1 h = e.2.state.code := by simp [stateCode, hkind, hl]
      refine (taskState_code hf htag hten (.inr hkind)).trans ?_
      rw [hcode]
      cases e.2.state <;> rfl
    · intro hkind hl
      have hcode : stateCode s1 h = 0x13 := by simp [stateCode, hkind, hl]
      refine (taskState_code hf htag hten (.inr hkind)).trans ?_
      rw [hcode]
      rfl
    · intro k hauth hkind hl hx
      have hn : NamesSlot t cs r 1 s1 := ⟨hauth, htag, hkind, hten⟩
      refine ⟨taskSig_range hn hx hl hf, taskSig_nowhere hn hx hl hf, fun n hsmall hk => ?_⟩
      refine ⟨_, taskSig_pends hn hx hl hf hsmall hk, done_write_g .., ?_, ?_, rfl⟩
      · exact signalled_th s1 t n _ _
      · exact fun y hyn hyt => signalled_th_ne s1 _ _ hyn hyt
    · intro k hauth hlevel hkind hl
      have hn : NamesSlot t cs r 1 s1 := ⟨hauth, htag, hkind, hten⟩
      refine ⟨taskAbort_spec hf hn hlevel hl, fun hst => ?_⟩
      have hab := abortTask_facts (s := (begun t s1).setTh t (((begun t s1).th t).write rd ⟨1, .bool⟩)) (liveTask_get? (s := s1) hl) hst
      refine ⟨_, taskAbort_run hf hn hlevel hl hst, ?_, hab.gone, hab.ended, fun n hk => ?_⟩
      · have hregs := hab.regs t
        rw [State.th_setTh] at hregs
        rw [done, State.th_setTh]
        exact (congrArg (fun v : Vector Reg 32 => v[rd.val]) hregs).trans (Thread.g_write ..)
      · rw [done_th_status]
        exact (hab.vacant n hk).status
  · intro slot k _ hs htask hk hst hthread
    have hab := abortTask_facts (s := s) hk (by rw [hst]; decide)
    exact ⟨_, droneTaskAbort_aborts hs htask, (hab.vacant t hthread).status, hab.gone, hab.ended⟩

end Sys2Proof.Machine
end

/-!
PROOFS, 25. The resolution of epochs: what stopping tasks, streams and whole tenancies leaves of an epoch that is no longer open (R115, R116,
R132 to R134).
-/

section
namespace Sys2Proof.Machine

/-! ### Epochs that are no longer open -/

/-- No open epoch stands under the key. -/
def Shut (key : Nat) (s : State) : Prop := ∀ e, (key, e) ∈ s.epochs → e.state ≠ .opened

/-- A write of one key leaves every entry but the one it replaces. -/
theorem Tab.mem_put_of_mem {α : Type} {t : Tab α} {i : Nat} (v : α) {e : Nat × α} (h : e ∈ t) :
    e ∈ Tab.put t i v ∨ (e.1 = i ∧ Tab.get? t i = some e.2) := by
  induction t with
  | nil => nomatch h
  | cons a t ih =>
    obtain ⟨k, w⟩ := a
    by_cases hlt : i < k
    · simp only [Tab.put, if_pos hlt]
      exact .inl (List.mem_cons_of_mem _ h)
    by_cases hik : i = k
    · simp only [Tab.put, if_neg hlt, if_pos hik, Tab.get?]
      rcases List.mem_cons.mp h with rfl | ht
      · exact .inr ⟨hik.symm, rfl⟩
      · exact .inl (List.mem_cons_of_mem _ ht)
    · simp only [Tab.put, if_neg hlt, if_neg hik, Tab.get?]
      rcases List.mem_cons.mp h with rfl | ht
      · exact .inl List.mem_cons_self
      · exact (ih ht).imp_left (List.mem_cons_of_mem _)

theorem shut_put_iff {key k : Nat} {s : State} {e e' : Epoch} (he : Tab.get? s.epochs k = some e) (hst : e'.state = e.state) :
    Shut key { s with epochs := Tab.put s.epochs k e' } ↔ Shut key s := by
  constructor
  · intro h q hq hopen
    rcases Tab.mem_put_of_mem e' hq with hmem | ⟨hkey, hsome⟩
    · exact h q hmem hopen
    · obtain rfl : key = k := hkey
      obtain rfl : e = q := Option.some.inj (he.symm.trans hsome)
      have hnew : (key, e') ∈ Tab.put s.epochs key e' := Tab.mem_of_get? (Tab.get?_put ..)
      exact h e' hnew (hst.trans hopen)
  · intro h q hq hopen
    rcases Tab.mem_put hq with heq | hmem
    · obtain ⟨rfl, rfl⟩ := Prod.mk.inj heq
      exact h e (Tab.mem_of_get? he) (hst ▸ hopen)
    · exact h q hmem hopen

theorem shut_apart (key : Nat) : Apart (Shut key) :=
  ⟨⟨fun s => by intros; rfl, fun _ _ _ => rfl, fun _ _ _ _ he hst _ => propext (shut_put_iff he hst)⟩, fun _ _ _ _ _ => rfl⟩

theorem shut_put_ne {key k : Nat} {s : State} (e : Epoch) (h : key ≠ k) :
    Shut key s → Shut key { s with epochs := Tab.put s.epochs k e } := fun hs q hq =>
  (Tab.mem_put hq).elim (fun heq => absurd (Prod.mk.inj heq).1 h) (fun hmem => hs q hmem)

/-- In a table in order, the entry just written is the only one of its key. -/
theorem shut_put_self {key : Nat} {s : State} {e : Epoch} (hw : Tab.wf s.epochs = true) (he : e.state ≠ .opened) :
    Shut key { s with epochs := Tab.put s.epochs key e } := fun q hq hopen => by
  have hget := Tab.get?_of_mem (Tab.wf_put s.epochs key e hw) hq
  obtain rfl : e = q := Option.some.inj ((Tab.get?_put ..).symm.trans hget)
  exact he hopen

/-! ### What the end of tasks leaves -/

/-- From one state to the other no task appears, registers and tenancies of threads stay, a thread keeps its epoch or leaves it, and an epoch
that is not open stays as it is. -/
structure Settles (key : Nat) (s s' : State) : Prop where
  free : ∀ x, Tab.get? s.tasks x = none → Tab.get? s'.tasks x = none
  shut : Shut key s → Shut key s' ∧ epochSummary key s' = epochSummary key s
  regs : ∀ n, (s'.th n).regs = (s.th n).regs
  place : ∀ n, (s'.th n).tenancy = (s.th n).tenancy ∧ (s'.th n).dev = (s.th n).dev
  epoch : ∀ n, (s'.th n).epoch = (s.th n).epoch ∨ (s'.th n).epoch = none

section Relation
variable {key : Nat} {a b c : State}

theorem Settles.refl (key : Nat) (s : State) : Settles key s s :=
  ⟨fun _ h => h, fun h => ⟨h, rfl⟩, fun _ => rfl, fun _ => ⟨rfl, rfl⟩, fun _ => .inl rfl⟩

theorem Settles.trans (h1 : Settles key a b) (h2 : Settles key b c) : Settles key a c where
  free x hx := h2.free x (h1.free x hx)
  shut hs := ⟨(h2.shut (h1.shut hs).1).1, (h2.shut (h1.shut hs).1).2.trans (h1.shut hs).2⟩
  regs n := (h2.regs n).trans (h1.regs n)
  place n := ⟨(h2.place n).1.trans (h1.place n).1, (h2.place n).2.trans (h1.place n).2⟩
  epoch n := by
    rcases h2.epoch n with h | h
    · exact (h1.epoch n).imp h.trans h.trans
    · exact .inr h

/-- A step that needs the epoch shut follows one that keeps it so. -/
theorem Settles.andThen (h1 : Settles key a b) (hs : Shut key a) (h2 : Shut key b → Settles key b c) : Settles key a c :=
  h1.trans (h2 (h1.shut hs).1)

theorem Settles.fold {α : Type} (l : List α) (f : State → α → State) (h : ∀ st, ∀ x ∈ l, Settles key st (f st x)) (s : State) :
    Settles key s (l.foldl f s) := by
  induction l generalizing s with
  | nil => exact .refl ..
  | cons x l ih => exact (h s x List.mem_cons_self).trans (ih (fun st y hy => h st y (List.mem_cons_of_mem _ hy)) _)

/-- A step that no view apart from tasks and streams can see, and that makes no task. -/
theorem Settles.of_apart (htasks : ∀ x, Tab.get? a.tasks x = none → Tab.get? b.tasks x = none)
    (h : ∀ {γ : Type} {g : State → γ}, Apart g → g b = g a) : Settles key a b where
  free := htasks
  shut hs := ⟨(h (shut_apart key)).mpr hs, h (epochSummary_apart key)⟩
  regs n := h (regs_apart n)
  place n := ⟨h (field_apart n (fun th => th.tenancy) fun _ _ _ _ => rfl), h (field_apart n (fun th => th.dev) fun _ _ _ _ => rfl)⟩
  epoch n := .inl (h (field_apart n (fun th => th.epoch) fun _ _ _ _ => rfl))

theorem Settles.of_unseen (h : Unseen a b) : Settles key a b :=
  .of_apart (fun x hx => (congrArg (fun t => Tab.get? t x) (h _ _ tasks_blind)).trans hx) fun hg => h _ _ hg.toBlind

/-- A step that changes threads alone, and of these neither registers nor tenancies. -/
theorem Settles.of_threads (v : Vector Thread 768) (cores : Vector Core 48)
    (h : ∀ n : Tid, v[n.val].regs = (a.th n).regs ∧ v[n.val].tenancy = (a.th n).tenancy ∧ v[n.val].dev = (a.th n).dev ∧
      (v[n.val].epoch = (a.th n).epoch ∨ v[n.val].epoch = none)) : Settles key a { a with threads := v, cores := cores } where
  free _ hx := hx
  shut hs := ⟨hs, rfl⟩
  regs n := (h n).1
  place n := ⟨(h n).2.1, (h n).2.2.1⟩
  epoch n := (h n).2.2.2

theorem emptied_settles (key : Nat) (s : State) (t : Tid) (cores : Vector Core 48) :
    Settles key s { s.setTh t (s.th t).emptied with cores := cores } := by
  refine .of_threads (s.threads.set t.val (s.th t).emptied) cores fun n => ?_
  by_cases h : t.val = n.val
  · obtain rfl := Fin.ext h
    rw [Vector.getElem_set_self]
    exact ⟨rfl, rfl, rfl, .inr rfl⟩
  · rw [Vector.getElem_set_ne _ _ h]
    exact ⟨rfl, rfl, rfl, .inl rfl⟩

end Relation

section Steps
variable (key : Nat) (s : State)

theorem vacated_settles (t : Tid) : Settles key s (emptyThread (dropTileWait (releaseGroup s t) t) t) := by
  obtain ⟨cores, h⟩ := vacated s t
  rw [h]
  exact emptied_settles ..

theorem stopThread_settles (t : Tid) : Settles key s (stopThread s t) :=
  (Settles.of_unseen fun _ _ hg => fenceRel_blind hg s t.core).trans (vacated_settles ..)

theorem signalSuccs_settles (k : Task) : Settles key s (signalSuccs s k) :=
  .of_apart (fun x hx => by simpa [hx] using signalSuccs_isSome s k x) fun hg => signalSuccs_apart hg s k

theorem freeTask_settles (slot : Nat) (st : TaskState) : Settles key s (freeTask s slot st) := by
  refine .of_apart (fun x hx => ?_) fun hg => freeTask_apart hg s slot st
  rw [freeTask_get?, hx, ite_self]

theorem signalCreator_settles (creator creatorTask : Option Nat) (vec ten : Nat) (h : Word) :
    Settles key s (signalCreator s creator creatorTask vec ten h) := .of_unseen fun _ _ hg => signalCreator_blind hg ..

theorem abortTask_settles (slot : Nat) : Settles key s (abortTask s slot) := by
  unfold abortTask
  dsimp only
  split
  · exact .refl ..
  split
  · exact .refl ..
  · refine .trans ?_ ((freeTask_settles ..).trans (signalCreator_settles ..))
    split
    · exact stopThread_settles ..
    · exact .refl ..

end Steps

/-! ### One epoch resolves -/

/-- On a commit a thread of the epoch leaves it (R134). -/
def Thread.leaveEpoch (key : Nat) (th : Thread) : Thread :=
  if th.epoch = some (key % 64) && th.tenancy.val = key / 64 && !th.dev then { th with epoch := none } else th

/-- A commit up to the release of the epoch's threads. -/
def mergedEpoch (s : State) (key : Nat) : State :=
  let s1 := mergeOverlay s key
  { s1 with threads := s1.threads.map (Thread.leaveEpoch key), cores := s1.cores.map (l1Resolve key true) }

/-- The rest of a commit: pages flip, the tasks that have ended are freed, and the creator is told. -/
def commitRest (s : State) (key : Nat) (e : Epoch) : State :=
  let s4 := e.flips.foldl (fun st p => flipPage st (spaceOf (key / 64)) p) s
  let s5 := (epochTasks s4 key).foldl (fun (st : State) x =>
    if x.2.state = .doneSpec then freeTask (signalSuccs st x.2) x.1 .done else st) s4
  signalCreator s5 e.creator e.creatorTask 52 (key / 64) (handleWord 2 (key / 64) false e.gen (key % 64))

/-- A discard up to the end of the epoch's tasks: their threads stop and their lines are dropped. -/
def dropEpoch (s : State) (key : Nat) (ts : List (Nat × Task)) : State :=
  let s1 := ts.foldl (fun (st : State) x => match x.2.thread with
    | some m => emptyThread (dropTileWait (releaseGroup st (tidOf m)) (tidOf m)) (tidOf m)
    | none => st) s
  let s2 := { s1 with cores := s1.cores.map (l1Resolve key false), overlay := Tab.keep s1.overlay (fun k _ => k / 2 ^ 41 != key) }
  ts.foldl (fun (st : State) x => match x.2.thread with
    | some m => fenceRel st (tidOf m).core
    | none => st) s2

/-- The tasks of a discarded epoch end. -/
def discardTasks (s : State) (ts : List (Nat × Task)) : State :=
  ts.foldl (fun (st : State) x => freeTask (signalSuccs st x.2) x.1 .discarded) s

section Resolve
variable {key : Nat} {s : State} {e : Epoch}

theorem resolveEpoch_commit (he : Tab.get? s.epochs key = some e) :
    resolveEpoch s key true = commitRest (mergedEpoch { s with epochs := Tab.put s.epochs key { e with state := .committed } } key) key e := by
  simp only [resolveEpoch, he]
  rfl

theorem resolveEpoch_discard (he : Tab.get? s.epochs key = some e) :
    resolveEpoch s key false =
      let s0 : State := { s with epochs := Tab.put s.epochs key { e with state := .discarded } }
      signalCreator (discardTasks (dropEpoch s0 key (epochTasks s0 key)) (epochTasks s0 key)) e.creator e.creatorTask 52 (key / 64)
        (handleWord 2 (key / 64) false e.gen (key % 64)) := by
  simp only [resolveEpoch, he]
  rfl

theorem resolveEpoch_none (commit : Bool) (he : Tab.get? s.epochs key = none) : resolveEpoch s key commit = s := by
  simp only [resolveEpoch, he]

variable (k : Nat) (s)

theorem mergedEpoch_settles (key : Nat) : Settles k s (mergedEpoch s key) := by
  refine .trans (.of_unseen fun _ _ hg => mergeOverlay_blind hg s key) (.of_threads _ _ fun n => ?_)
  rw [Vector.getElem_map]
  unfold Thread.leaveEpoch
  split
  · exact ⟨rfl, rfl, rfl, .inr rfl⟩
  · exact ⟨rfl, rfl, rfl, .inl rfl⟩

theorem mergedEpoch_leaves (key : Nat) (n : Tid) (hten : ((mergedEpoch s key).th n).tenancy.val = key / 64)
    (hdev : ((mergedEpoch s key).th n).dev = false) : ((mergedEpoch s key).th n).epoch ≠ some (key % 64) := by
  have hth : (mergedEpoch s key).th n = ((mergeOverlay s key).th n).leaveEpoch key := Vector.getElem_map ..
  rw [hth] at hten hdev ⊢
  generalize (mergeOverlay s key).th n = th at hten hdev ⊢
  unfold Thread.leaveEpoch at hten hdev ⊢
  by_cases hgo : (decide (th.epoch = some (key % 64)) && decide (th.tenancy.val = key / 64) && !th.dev) = true
  · rw [if_pos hgo]
    exact fun h => nomatch h
  · rw [if_neg hgo] at hten hdev ⊢
    intro hep
    exact hgo (by simp [hep, hten, hdev])

theorem commitRest_settles (key : Nat) (e : Epoch) : Settles k s (commitRest s key e) := by
  refine .trans (.trans (.fold _ _ (fun st p _ => .of_unseen fun _ _ hg => flipPage_blind hg ..) s) (.fold _ _ (fun st x _ => ?_) _))
    (signalCreator_settles ..)
  split
  · exact (signalSuccs_settles ..).trans (freeTask_settles ..)
  · exact .refl ..

theorem dropEpoch_settles (key : Nat) (ts : List (Nat × Task)) : Settles k s (dropEpoch s key ts) := by
  refine .trans (.trans (.fold ts _ (fun st x _ => ?_) s) (.of_unseen fun _ _ hg => hg.fields ..)) (.fold ts _ (fun st x _ => ?_) _)
  · split
    · exact vacated_settles ..
    · exact .refl ..
  · split
    · exact .of_unseen fun _ _ hg => fenceRel_blind hg ..
    · exact .refl ..

theorem discardTasks_settles (ts : List (Nat × Task)) : Settles k s (discardTasks s ts) :=
  .fold ts _ (fun _ _ _ => (signalSuccs_settles ..).trans (freeTask_settles ..)) s

/-- Every listed task is gone. -/
theorem discardTasks_frees {ts : List (Nat × Task)} {x : Nat × Task} (hx : x ∈ ts) : Tab.get? (discardTasks s ts).tasks x.1 = none := by
  induction ts generalizing s with
  | nil => nomatch hx
  | cons y ts ih =>
    rcases List.mem_cons.mp hx with rfl | hmem
    · refine (discardTasks_settles _ 0 ts).free x.1 ?_
      rw [freeTask_get?, if_pos rfl]
    · exact ih _ hmem

variable {s k}

/-- The resolution of one epoch leaves every other epoch. -/
theorem resolveEpoch_settles {key : Nat} (h : k ≠ key) (commit : Bool) : Settles k s (resolveEpoch s key commit) := by
  cases he : Tab.get? s.epochs key with
  | none =>
    rw [resolveEpoch_none commit he]
    exact .refl ..
  | some e =>
    have hput (e' : Epoch) : Settles k s { s with epochs := Tab.put s.epochs key e' } := by
      refine ⟨fun _ hx => hx, fun hs => ⟨shut_put_ne e' h hs, ?_⟩, fun _ => rfl, fun _ => ⟨rfl, rfl⟩, fun _ => .inl rfl⟩
      simp only [epochSummary, Tab.get?_put_ne _ _ _ _ h]
    cases commit
    · rw [resolveEpoch_discard he]
      exact (hput _).trans ((dropEpoch_settles ..).trans ((discardTasks_settles ..).trans (signalCreator_settles ..)))
    · rw [resolveEpoch_commit he]
      exact (hput _).trans ((mergedEpoch_settles ..).trans (commitRest_settles ..))

end Resolve

end Sys2Proof.Machine
end

/-!
PROOFS, 26. TASK.COMMIT, TASK.DISCARD and the end of an epoch's slot: a resolved epoch stays so through all that its resolution sets off, the
snapshot point and the stop of the tenancy among it (R115, R116, R134).
-/

section
namespace Sys2Proof.Machine

section Discard
variable {k key : Nat} {s : State} {e : Epoch}

/-- What a discard does besides the resolution: a snapshot point that waits for the epoch ends, and a step ends. -/
def discardRest (s : State) (key : Nat) (e : Epoch) : State :=
  let n := key / 64
  let s2 := match (s.tenant n).point with
    | some p =>
      if pointMeets p (handleWord 2 n false e.gen (key % 64)) e.step && !p.deferred then
        syncSnap (endPoint (s.setTenant n { s.tenant n with point := none }) n p.cmd p.host stAborted 0) n
      else s
    | none => s
  if e.step then (stepBoundary s2 n).count n 0x28 1 else s2

theorem discardEpoch_eq (he : Tab.get? s.epochs key = some e) : discardEpoch s key = discardRest (resolveEpoch s key false) key e := by
  simp only [discardEpoch, he]
  rfl

theorem discardRest_unseen (s : State) (key : Nat) (e : Epoch) : Unseen s (discardRest s key e) := fun _ _ hg => by
  unfold discardRest
  dsimp only
  repeat' split
  all_goals simp only [count_blind hg, stepBoundary_blind hg, syncSnap_blind hg, endPoint_blind hg, setTenant_blind hg]

theorem discardEpoch_settles (s : State) {k key : Nat} (h : k ≠ key) : Settles k s (discardEpoch s key) := by
  cases he : Tab.get? s.epochs key with
  | none =>
    have hsame : discardEpoch s key = s := by simp only [discardEpoch, he]
    rw [hsame]
    exact .refl ..
  | some e =>
    rw [discardEpoch_eq he]
    exact (resolveEpoch_settles h false).trans (.of_unseen (discardRest_unseen _ key e))

end Discard

section Tenancy
variable (s : State) (n : Nat)

theorem putStream_settles (k i : Nat) (c : Stream) : Settles k s (s.putStream i c) :=
  .of_apart (fun _ hx => hx) fun hg => putStreams_apart hg s _

theorem haltStream_settles (k i : Nat) (tell : Bool) : Settles k s (haltStream s i tell) := by
  unfold haltStream
  dsimp only
  split
  · exact .refl ..
  split
  · exact .refl ..
  next c _ _ =>
    have hhalt (u : State) (a b : Option Nat) (v m : Nat) (w : Word) : Settles k u (haltDrainsOf (signalCreator u a b v m w) i) :=
      (signalCreator_settles ..).trans (.of_unseen fun _ _ hg => haltDrainsOf_blind hg ..)
    refine (putStream_settles s k i { c with halted := true }).trans ?_
    split
    · exact (hhalt ..).trans (.of_unseen fun _ _ hg => sendCredit_blind hg ..)
    · exact hhalt ..

theorem haltStreams_settles (k : Nat) (keep : Nat → Bool) : Settles k s (haltStreams s n keep) := by
  refine .fold _ _ (fun st e _ => ?_) s
  split
  · exact haltStream_settles ..
  · exact .refl ..

/-- A key that holds no open epoch is not among the open ones. -/
theorem shut_not_open {k : Nat} {s : State} (h : Shut k s) (n : Nat) : k ∉ openEpochs s n := by
  intro hmem
  obtain ⟨⟨key, e⟩, he, rfl⟩ := List.mem_map.mp hmem
  obtain ⟨hin, hopen⟩ := List.mem_filter.mp he
  simp only [Bool.and_eq_true, beq_iff_eq] at hopen
  exact h e hin hopen.2

variable {k : Nat} {s}

theorem stopTenancy_settles (hs : Shut k s) : Settles k s (stopTenancy s n) := by
  have habort := Settles.fold (key := k) (s.tasks.filter (fun e => !e.2.dev && e.2.tenancy.val == n && e.2.state == .running))
    (fun (st : State) e => abortTask st e.1) (fun st e _ => abortTask_settles k st e.1) s
  unfold stopTenancy
  dsimp only
  refine .trans (.andThen habort hs fun hshut => .trans (.fold _ _ (fun st key hkey => discardEpoch_settles st fun heq => ?_) _)
    (.fold _ _ (fun st e _ => ?_) _)) (haltStreams_settles ..)
  · exact shut_not_open hshut n (heq ▸ hkey)
  · exact .of_unseen fun _ _ hg => by rw [finishWith_blind hg, hg.fields]

theorem enterHeld_settles (hs : Shut k s) (case : Nat) : Settles k s (enterHeld s n case) := by
  unfold enterHeld
  dsimp only
  split
  · exact .refl ..
  have hstart (u : State) (x : Tenant) (hu : Unseen s u) : Settles k s (stopTenancy (u.setTenant n x) n) := by
    have hset : Settles k s (u.setTenant n x) := .of_unseen fun _ _ hg => (setTenant_blind hg ..).trans (hu _ _ hg)
    exact hset.trans (stopTenancy_settles n (hset.shut hs).1)
  have htstate (cause : Nat) : Unseen s (setTstate s n tsHeld cause) := fun _ _ hg => setTstate_blind hg ..
  split
  · exact hstart _ _ (htstate _)
  · exact (hstart _ _ (htstate _)).trans (.of_unseen fun _ _ hg => breach_blind hg ..)

theorem drainOn_settles (f : Nat) : ∀ {s : State}, Shut k s → Settles k s (drainOn n f s) := by
  induction f with
  | zero => exact fun _ => .refl ..
  | succ f ih =>
    intro s hs
    rw [drainOn]
    split
    · exact .refl ..
    split
    · split
      · exact .refl ..
      split
      · exact .andThen (.of_unseen fun _ _ hg => haltDrain_blind hg ..) hs (enterHeld_settles n · 3)
      · refine .andThen (.trans (.trans (.of_unseen fun _ _ hg => sendBlockOn_blind hg ..) (putStream_settles ..))
          (.of_unseen fun _ _ hg => setTenant_blind hg ..)) hs ih
    · exact .refl ..

theorem takePoint_settles (hs : Shut k s) (step : Nat) (p : SnapPoint) : Settles k s (takePoint s n step p) := by
  unfold takePoint
  dsimp only
  split
  next i s1 bs runs _ hgroups =>
    exact .andThen (.of_unseen fun _ _ hg => by rw [syncSnap_blind hg, setTenant_blind hg, signId_blind hg, groupBlocks_blind hg _ _ _ _ _ _ _ hgroups])
      hs (drainOn_settles n _)
  · exact .of_unseen fun _ _ hg => by rw [syncSnap_blind hg, endPoint_blind hg, setTenant_blind hg]

theorem pointAtCommit_settles (hs : Shut k s) (step : Nat) (handle : Word) (stepSet : Bool) :
    Settles k s (pointAtCommit s n step handle stepSet) := by
  unfold pointAtCommit
  dsimp only
  split
  · exact .refl ..
  split
  · split
    · exact takePoint_settles n hs ..
    · exact .refl ..
  split
  · exact .refl ..
  split
  · exact .of_unseen fun _ _ hg => by rw [breach_blind hg, setTenant_blind hg]
  · exact takePoint_settles n hs ..

end Tenancy

/-! ### The instructions -/

section Step
variable {key : Nat} {s : State} {e : Epoch} (he : Tab.get? s.epochs key = some e) (hw : Tab.wf s.epochs = true)

theorem epochSummary_put (s : State) (key : Nat) (e : Epoch) :
    epochSummary key { s with epochs := Tab.put s.epochs key e } = some (e.state, e.gen) := by
  simp only [epochSummary, Tab.get?_put, Option.map_some]

theorem epochSummary_some {st : EpochState} {gen : Nat} (h : epochSummary key s = some (st, gen)) :
    ∃ e, Tab.get? s.epochs key = some e ∧ e.state = st ∧ e.gen = gen := by
  obtain ⟨e, he, heq⟩ := Option.map_eq_some_iff.mp h
  obtain ⟨hst, hgen⟩ := Prod.mk.inj heq
  exact ⟨e, he, hst, hgen⟩

/-- The state in which a commit has told its tasks and its creator (R134). -/
theorem resolveStep_commit_settles (he : Tab.get? s.epochs key = some e) {m : State}
    (hm : m = mergedEpoch { s with epochs := Tab.put s.epochs key { e with state := .committed } } key) (hs : Shut key m) :
    Settles key m (resolveStep s key true) := by
  simp only [resolveStep, he, if_true, resolveEpoch_commit he, ← hm]
  have hset (x : Tenant) : Settles key m ((commitRest m key e).setTenant (key / 64) x) :=
    (commitRest_settles ..).trans (.of_unseen fun _ _ hg => setTenant_blind hg ..)
  split
  · exact .trans (.andThen (hset _) hs fun h => pointAtCommit_settles _ h ..) (.of_unseen fun _ _ hg => stepBoundary_blind hg ..)
  · exact .andThen (hset _) hs fun h => pointAtCommit_settles _ h ..

theorem resolveStep_discard_settles (he : Tab.get? s.epochs key = some e) {m : State} (hm : m = resolveEpoch s key false) (hs : Shut key m) :
    Settles key m (resolveStep s key false) := by
  simp only [resolveStep, he, Bool.false_eq_true, if_false, discardEpoch_eq he, ← hm]
  have hset (x : Tenant) : Settles key m ((discardRest m key e).setTenant (key / 64) x) :=
    (Settles.of_unseen (discardRest_unseen m key e)).trans (.of_unseen fun _ _ hg => setTenant_blind hg ..)
  have hheld (c : Prop) [Decidable c] (x : Tenant) : Settles key m
      (if c then enterHeld ((discardRest m key e).setTenant (key / 64) x) (key / 64) 2 else (discardRest m key e).setTenant (key / 64) x) := by
    split
    · exact .andThen (hset x) hs fun h => enterHeld_settles _ h 2
    · exact hset x
  exact hheld _ _

/-- What resolving an open epoch leaves: its slot with the new state, and the registers. -/
structure Resolved (s u : State) (key gen : Nat) (st : EpochState) : Prop where
  summary : epochSummary key u = some (st, gen)
  regs : ∀ n, (u.th n).regs = (s.th n).regs

include he hw

theorem resolveStep_commit : Resolved s (resolveStep s key true) key e.gen .committed ∧
    ∀ n : Tid, ((resolveStep s key true).th n).tenancy.val = key / 64 → ((resolveStep s key true).th n).dev = false →
      ((resolveStep s key true).th n).epoch ≠ some (key % 64) := by
  have hshut : Shut key { s with epochs := Tab.put s.epochs key { e with state := .committed } } := shut_put_self hw (by simp)
  have hmerge := mergedEpoch_settles { s with epochs := Tab.put s.epochs key { e with state := .committed } } key key
  obtain ⟨hmshut, hmsum⟩ := hmerge.shut hshut
  have hrest := resolveStep_commit_settles he rfl hmshut
  refine ⟨⟨(hrest.shut hmshut).2.trans (hmsum.trans (epochSummary_put ..)), fun n => (hrest.regs n).trans (hmerge.regs n)⟩, fun n hten hdev => ?_⟩
  rw [(hrest.place n).1] at hten
  rw [(hrest.place n).2] at hdev
  rcases hrest.epoch n with h | h
  · rw [h]
    exact mergedEpoch_leaves _ key n hten hdev
  · rw [h]
    exact fun h => nomatch h

theorem resolveStep_discard : Resolved s (resolveStep s key false) key e.gen .discarded ∧
    ∀ x ∈ epochTasks s key, Tab.get? (resolveStep s key false).tasks x.1 = none := by
  let s0 : State := { s with epochs := Tab.put s.epochs key { e with state := .discarded } }
  have hshut : Shut key s0 := shut_put_self hw (by simp)
  have hsum : epochSummary key s0 = some (.discarded, e.gen) := epochSummary_put ..
  have hdrop := dropEpoch_settles s0 key key (epochTasks s0 key)
  have hsignal := signalCreator_settles key (discardTasks (dropEpoch s0 key (epochTasks s0 key)) (epochTasks s0 key)) e.creator e.creatorTask 52
    (key / 64) (handleWord 2 (key / 64) false e.gen (key % 64))
  have hall := hdrop.trans ((discardTasks_settles _ key _).trans hsignal)
  rw [← resolveEpoch_discard he] at hall hsignal
  obtain ⟨hmshut, hmsum⟩ := hall.shut hshut
  have hrest := resolveStep_discard_settles he rfl hmshut
  refine ⟨⟨(hrest.shut hmshut).2.trans (hmsum.trans hsum), fun n => (hrest.regs n).trans (hall.regs n)⟩, fun x hx => ?_⟩
  exact hrest.free x.1 (hsignal.free x.1 (discardTasks_frees _ hx))

end Step

section Instr
variable {t : Tid} {rd r : RIdx} {cs : PIdx} {s s1 : State} {key : Nat} {e : Epoch} (hn : NamesSlot t cs r 2 s1)
  (hl : liveEpoch s1 (handleOf ((s1.th t).g r).val) = some (key, e))
include hn hl

theorem theEpoch_run : theEpoch t ((s1.th t).g r).val (begun t s1) = .ok (key, e) (begun t s1) := by
  have hl' : liveEpoch (begun t s1) (handleOf ((s1.th t).g r).val) = some (key, e) := hl
  simp only [theEpoch, M.bind_run, hn.handle (List.mem_singleton.mpr rfl), getS_run, hl', M.pure_run]

theorem resolveOp_conflict (h : Fetches t 4 false s s1) (commit : Bool) (hst : e.state ≠ .opened) :
    simple t (resolveOp t rd cs r commit) s = .next (done t 4 s1 ((s1.th t).write rd ⟨2, .int⟩)) := by
  refine simple_write h ?_
  simp only [resolveOp, M.bind_run, greg_run, g_begun, hn.start, theEpoch_run hn hl, ne_eq, hst, not_false_eq_true, if_true]
  rfl

theorem resolveOp_run (h : Fetches t 4 false s s1) (commit : Bool) (hst : e.state = .opened) :
    let u := resolveStep ((begun t s1).setTh t (((begun t s1).th t).write rd ⟨1, .bool⟩)) key commit
    simple t (resolveOp t rd cs r commit) s = .next (done t 4 u (u.th t)) := by
  intro u
  refine runInstr_done (i := {}) h rfl ?_
  simp only [resolveOp, M.bind_run, greg_run, g_begun, hn.start, theEpoch_run hn hl, ne_eq, hst, not_true_eq_false, if_false, putBool, wr_run,
    modS_run]
  rfl

end Instr

theorem liveEpoch_get? {s : State} {h : HandleF} {key : Nat} {e : Epoch} (hl : liveEpoch s h = some (key, e)) :
    Tab.get? s.epochs key = some e := by
  unfold liveEpoch at hl
  dsimp only at hl
  split at hl
  · split at hl
    next x hx =>
      split at hl
      · cases hl
        exact hx
      · cases hl
    · cases hl
  · cases hl

/-! ### EPOCH_RESOLUTION_COMPLETE -/

section Complete
variable {s : State} {n : Fin 16} {slot : Fin 64}

/-- A task, or a command held for it, still hangs on the epoch (R116). -/
def epochBusy (s : State) (n : Fin 16) (slot : Fin 64) : Bool :=
  !(epochTasks s (64 * n.val + slot.val)).isEmpty ||
    s.cmds.any (fun x => x.2.phase == .held && x.2.tenancy == n && !x.2.dev && x.2.epoch == some slot.val)

theorem epochBusy_iff : epochBusy s n slot = true ↔
    (∃ x ∈ s.tasks, x.2.dev = false ∧ x.2.epoch = some slot.val ∧ x.2.tenancy = n) ∨
      ∃ x ∈ s.cmds, x.2.phase = .held ∧ x.2.tenancy = n ∧ x.2.dev = false ∧ x.2.epoch = some slot.val := by
  have hkey : (64 * n.val + slot.val) % 64 = slot.val ∧ (64 * n.val + slot.val) / 64 = n.val := by omega
  have htasks : (!(epochTasks s (64 * n.val + slot.val)).isEmpty) = true ↔
      ∃ x ∈ s.tasks, x.2.dev = false ∧ x.2.epoch = some slot.val ∧ x.2.tenancy = n := by
    rw [epochTasks, hkey.1, hkey.2, Bool.not_eq_true', ← Bool.not_eq_true, List.isEmpty_iff, List.filter_eq_nil_iff]
    simp [Fin.ext_iff, and_assoc]
  rw [epochBusy, Bool.or_eq_true, htasks]
  simp [and_assoc]

theorem epochResolutionComplete_idle (h : Tab.get? s.epochs (64 * n.val + slot.val) = none ∨
    (∃ e, Tab.get? s.epochs (64 * n.val + slot.val) = some e ∧ e.state = .opened) ∨ epochBusy s n slot = true) :
    exec (.epochResolutionComplete n slot) s = .next s := by
  rw [exec_epochResolutionComplete, execEpochResolutionComplete]
  cases he : Tab.get? s.epochs (64 * n.val + slot.val) with
  | none => rfl
  | some e =>
    have hstay : (decide (e.state = .opened) || epochBusy s n slot) = true := by
      simpa [he] using h
    rw [epochBusy, ← Bool.or_assoc] at hstay
    simp only [hstay, if_true]

theorem epochResolutionComplete_frees {e : Epoch} (he : Tab.get? s.epochs (64 * n.val + slot.val) = some e) (hst : e.state ≠ .opened)
    (hfree : epochBusy s n slot = false) : ∃ u, exec (.epochResolutionComplete n slot) s = .next u ∧
      u.epochs = Tab.del s.epochs (64 * n.val + slot.val) ∧ u.threads = s.threads ∧ u.tasks = s.tasks := by
  have hgo : (decide (e.state = .opened) || epochBusy s n slot) = false := by simp [hst, hfree]
  rw [epochBusy, ← Bool.or_assoc] at hgo
  rw [exec_epochResolutionComplete, execEpochResolutionComplete]
  simp only [he, hgo, Bool.false_eq_true, if_false]
  refine ⟨_, rfl, ?_, ?_, ?_⟩ <;> simp [syncEpochs]

end Complete

/-- Settles O30: what a resolution sets off leaves an epoch that is no longer open; a commit takes its threads out of it and a discard ends its
tasks. -/
theorem epochResolution : Obligations.EpochResolution := by
  unfold Obligations.EpochResolution
  intro t rd r cs s
  refine ⟨?_, ?_⟩
  · intro s1 key e hf _ hwf th h hauth htag hkind hten hl
    have hn : NamesSlot t cs r 2 s1 := ⟨hauth, htag, hkind, hten⟩
    let b := (begun t s1).setTh t (((begun t s1).th t).write rd ⟨1, .bool⟩)
    have he : Tab.get? b.epochs key = some e := liveEpoch_get? hl
    have hrd {u : State} (hregs : ∀ n, (u.th n).regs = (b.th n).regs) : ((done t 4 u (u.th t)).th t).g rd = ⟨1, .bool⟩ := by
      have hb : b.th t = ((begun t s1).th t).write rd ⟨1, .bool⟩ := State.th_setTh ..
      rw [done, State.th_setTh]
      exact (congrArg (fun v : Vector Reg 32 => v[rd.val]) ((hregs t).trans (by rw [hb]))).trans (Thread.g_write ..)
    refine ⟨fun hst => ⟨?_, ?_⟩, fun hst => ⟨resolveOp_conflict hn hl hf true hst, resolveOp_conflict hn hl hf false hst⟩⟩
    · obtain ⟨hres, hleave⟩ := resolveStep_commit he hwf
      obtain ⟨e1, he1, hst1, hgen1⟩ := epochSummary_some hres.summary
      refine ⟨_, e1, resolveOp_run hn hl hf true hst, hrd hres.regs, he1, hst1, hgen1, fun _ n => ?_⟩
      by_cases hnt : t = n
      · subst hnt
        rw [done, State.th_setTh]
        exact hleave t
      · rw [done, State.th_setTh_ne _ _ _ _ hnt]
        exact hleave n
    · obtain ⟨hres, hgone⟩ := resolveStep_discard he hwf
      obtain ⟨e1, he1, hst1, -⟩ := epochSummary_some hres.summary
      refine ⟨_, e1, resolveOp_run hn hl hf false hst, hrd hres.regs, he1, hst1, fun x q hq hdev hqt hqe => ?_⟩
      exact hgone (x, q) (List.mem_filter.mpr ⟨Tab.mem_of_get? hq, by simp [hdev, hqt, hqe]⟩)
  · intro n slot _ key busy
    refine ⟨fun e he hst hfree => ?_, fun hstay => epochResolutionComplete_idle (hstay.imp_right (Or.imp_right epochBusy_iff.mpr))⟩
    obtain ⟨u, hu, hepochs, hthreads, htasks⟩ := epochResolutionComplete_frees he hst (Bool.eq_false_iff.mpr (mt epochBusy_iff.mp hfree))
    refine ⟨u, hu, ?_, hthreads, htasks, fun x hx => ?_⟩
    · rw [hepochs]
      exact Tab.get?_del ..
    · rw [hepochs]
      exact Tab.get?_del_ne _ _ _ hx

end Sys2Proof.Machine
end

/-!
PROOFS, 27. Tile groups: the grant of the lowest free registers and of a partition, and their release (R127, R128, R171 to R175, R204).
-/

section
namespace Sys2Proof.Machine

/-! ### Free registers and partitions -/

theorem upto_eq_range (n : Nat) : upto n = List.range n := by
  induction n with
  | zero => rfl
  | succ n ih => rw [upto, ih, List.range_succ]

/-- The tile registers of an array that no group holds, in ascending order. -/
def freeRegs (k : Core) : List Nat := (upto 64).filter (fun p => (Tab.get? k.tiles p).isNone)

theorem mem_freeRegs {k : Core} {p : Nat} : p ∈ freeRegs k ↔ p < 64 ∧ Tab.get? k.tiles p = none := by
  simp [freeRegs, mem_upto]

theorem freeRegs_ascend (k : Core) : (freeRegs k).Pairwise (· < ·) := by
  rw [freeRegs, upto_eq_range]
  exact List.pairwise_lt_range.filter _

/-- The registers and the partition of a grant: the lowest free registers, and a partition only for a request that names one (R172). -/
structure Fitted (k : Core) (q : TileReq) (regs : List Nat) (idx : Option Nat) : Prop where
  regs_eq : regs = (freeRegs k).take q.shapes.length
  enough : q.shapes.length ≤ (freeRegs k).length
  noPart : q.part = 0 → idx = none
  hasPart : ∀ i, idx = some i → q.part ≠ 0

theorem fitted {k : Core} {q : TileReq} {regs : List Nat} {idx : Option Nat} (h : tileFits k q = some (regs, idx)) :
    Fitted k q regs idx := by
  unfold tileFits at h
  dsimp only at h
  split at h
  · cases h
  next hlen =>
    have henough := Nat.not_lt.mp hlen
    split at h
    next hpart =>
      cases h
      exact ⟨rfl, henough, fun _ => rfl, fun _ h => nomatch h⟩
    next hpart =>
      split at h
      · cases h
      · cases h
        exact ⟨rfl, henough, fun h => absurd h hpart, fun _ _ => hpart⟩

section Fits
variable {k : Core} {q : TileReq} {regs : List Nat} {idx : Option Nat} (h : Fitted k q regs idx)
include h

theorem Fitted.length_eq : regs.length = q.shapes.length := by
  rw [h.regs_eq, List.length_take, Nat.min_eq_left h.enough]

theorem Fitted.nodup : regs.Nodup := by
  rw [h.regs_eq]
  exact ((freeRegs_ascend k).imp Nat.ne_of_lt).sublist (List.take_sublist ..)

theorem Fitted.free {p : Nat} (hp : p ∈ regs) : p < 64 ∧ Tab.get? k.tiles p = none :=
  mem_freeRegs.mp (List.mem_of_mem_take (h.regs_eq ▸ hp))

/-- A free register that was not taken lies above every register that was. -/
theorem Fitted.lowest {p x : Nat} (hp : p < 64) (hfree : Tab.get? k.tiles p = none) (hout : p ∉ regs) (hx : x ∈ regs) : x < p := by
  have hmem := mem_freeRegs.mpr ⟨hp, hfree⟩
  have hsplit := freeRegs_ascend k
  rw [h.regs_eq] at hout hx
  rw [← List.take_append_drop q.shapes.length (freeRegs k)] at hmem hsplit
  have hdrop := (List.mem_append.mp hmem).resolve_left hout
  exact (List.pairwise_append.mp hsplit).2.2 x hx p hdrop

end Fits

/-! ### What a grant makes -/

/-- Registers shaped one after another. -/
def shapeTiles (k : Core) (l : List (Nat × Nat × Nat)) : Core :=
  l.foldl (fun (k : Core) x => { k with tiles := Tab.put k.tiles x.1 ⟨x.2.1, x.2.2, 0, []⟩ }) k

theorem shapeTiles_tile_ne (k : Core) (l : List (Nat × Nat × Nat)) {p : Nat} (hp : p ∉ l.map Prod.fst) :
    (shapeTiles k l).tile p = k.tile p := by
  induction l generalizing k with
  | nil => rfl
  | cons x l ih =>
    simp only [List.map_cons, List.mem_cons, not_or] at hp
    exact (ih _ hp.2).trans (Tab.getD_put_ne _ _ _ _ _ hp.1)

/-- Distinct registers each have their own shape, and no row is valid (R172). -/
theorem shapeTiles_tile (k : Core) {l : List (Nat × Nat × Nat)} (hl : (l.map Prod.fst).Nodup) {x : Nat × Nat × Nat} (hx : x ∈ l) :
    (shapeTiles k l).tile x.1 = ⟨x.2.1, x.2.2, 0, []⟩ := by
  induction l generalizing k with
  | nil => nomatch hx
  | cons y l ih =>
    obtain ⟨hy, hrest⟩ := List.nodup_cons.mp hl
    rcases List.mem_cons.mp hx with rfl | hmem
    · exact (shapeTiles_tile_ne _ l hy).trans (Tab.getD_put ..)
    · exact ih _ hrest hmem

theorem part_setPart (k : Core) (i : Nat) (v : Partition) : (k.setPart i v).part i = v := by
  simp [Core.part, Core.setPart]

theorem get?_freeTiles (k : Core) {regs : List Nat} {p : Nat} (hp : p ∈ regs) : Tab.get? (freeTiles k regs).tiles p = none := by
  cases h : Tab.get? (freeTiles k regs).tiles p with
  | none => rfl
  | some v =>
    have hmem := (List.mem_filter.mp (Tab.mem_of_get? h)).2
    simp [hp] at hmem

section Grant
variable {s : State} {t : Tid} {q : TileReq} {regs : List Nat} {idx : Option Nat}

/-- The array after a grant. -/
def grantedCore (k : Core) (q : TileReq) (regs : List Nat) (idx : Option Nat) : Core :=
  let k1 := shapeTiles k (regs.zip q.shapes)
  match idx with
  | none => k1
  | some i => k1.setPart i { Partition.reset with width := partWidth q.part, holder := some q.thread }

/-- The thread after a grant: its group, and in rd the handle and the member map (R173). -/
def grantedThread (th : Thread) (t : Tid) (q : TileReq) (regs : List Nat) (idx : Option Nat) : Thread :=
  { th with group := some ⟨regs, idx, th.groupGen + 1⟩, groupGen := th.groupGen + 1 }.writePair q.rd
    ⟨⟨handleWord 5 th.tenancy.val th.dev (th.groupGen + 1) t.val, .handle⟩, .int (BitVec.ofNat 64 (memberMap regs q.part idx))⟩

theorem tileGrant_eq (hq : q.thread = t.val) : tileGrant s q regs idx =
    (s.setCore t.core (grantedCore (s.core t.core) q regs idx)).setTh t (grantedThread (s.th t) t q regs idx) := by
  have ht : tidOf q.thread = t := by rw [hq, tidOf_val]
  unfold tileGrant
  rw [ht]
  rfl

theorem grantedCore_tile {k : Core} (hf : Fitted k q regs idx) {x : Nat × Nat × Nat} (hx : x ∈ regs.zip q.shapes) (k' : Core) :
    (grantedCore k' q regs idx).tile x.1 = ⟨x.2.1, x.2.2, 0, []⟩ := by
  have hnodup : ((regs.zip q.shapes).map Prod.fst).Nodup := by
    rw [List.map_fst_zip (Nat.le_of_eq hf.length_eq)]
    exact hf.nodup
  have htile := shapeTiles_tile k' hnodup hx
  unfold grantedCore
  split
  · exact htile
  · exact htile

theorem grantedCore_tileWait (k : Core) (q : TileReq) (regs : List Nat) (idx : Option Nat) :
    (grantedCore k q regs idx).tileWait = k.tileWait := by
  have hshape : (shapeTiles k (regs.zip q.shapes)).tileWait = k.tileWait := by
    unfold shapeTiles
    exact foldl_keep _ _ Core.tileWait (fun _ _ => by rfl) k
  unfold grantedCore
  split <;> exact hshape

theorem grantedCore_part {i : Nat} (k : Core) (hi : idx = some i) (hp : q.part ≠ 0) :
    (grantedCore k q regs idx).part i = { Partition.reset with width := 64 * 2 ^ q.part, holder := some q.thread } := by
  subst hi
  rw [grantedCore, part_setPart, partWidth, if_neg hp]

end Grant

end Sys2Proof.Machine
end

/-!
PROOFS, 28. TCFG, TREL, TSHAPE, TVALID and TMASK, the grant to a waiting thread and the end of a drain (R127, R171 to R175, R204).
-/

section
namespace Sys2Proof.Machine

section Tiles
variable {t : Tid} {rd r : RIdx} {cs : PIdx} {s s1 u : State}

/-! ### TCFG -/

/-- TCFG by a thread without a group reads a block without poison (R171). -/
structure ReadsBlock (t : Tid) (rd r : RIdx) (cs : PIdx) (s1 : State) (bs : List PByte) (u : State) : Prop where
  even : rd.val % 2 = 0
  group : (s1.th t).group = none
  unsealed : ((s1.th t).cap cs).isUnsealed = true
  tag : ((s1.th t).g r).tag = .int
  allowed : Allowed (s1.th t) ((s1.th t).cap cs).toCap 0x0001
    ((((s1.th t).cap cs).toCap.base + ((s1.th t).g r).val.toNat) % 2 ^ 64) 64 64
  load : loadBytes t ((s1.th t).cap cs).toCap.space ((((s1.th t).cap cs).toCap.base + ((s1.th t).g r).val.toNat) % 2 ^ 64) 64 (begun t s1) =
    .ok bs u
  clean : ∀ b ∈ bs, b.2 = false

/-- What TCFG does with its block. -/
def tcfgTail (t : Tid) (rd : RIdx) (block : Nat) : M Unit :=
  match tcfgBlock block with
  | none => wrPair t rd ⟨.int (BitVec.ofNat 64 stRange), .int 0⟩
  | some (shapes, part) => do
    let r : TileReq := ⟨t.val, rd, shapes, part⟩
    let k ← getC t.core
    match k.tileWait, tileFits k r with
    | [], some (regs, idx) => modS (fun s1 => tileGrant s1 r regs idx)
    | _, _ => do
      modC t.core (fun k1 => { k1 with tileWait := k1.tileWait ++ [r] })
      waitFor .tileGrant

/-- An instruction depends on its meaning only in the state in which it starts. -/
theorem simple_congr {body body' : M Unit} (h : Fetches t 4 false s s1) (hb : body (begun t s1) = body' (begun t s1)) :
    simple t body s = simple t body' s := by
  have hp : plain body (startState t false s1) = plain body' (startState t false s1) := by rw [plain_run, plain_run, startState_begun, hb]
  rw [simple, simple, runInstr_run (i := {}) h, runInstr_run (i := {}) h, show ({} : InstrInfo).resumable = false from rfl, hp]

theorem simple_ok {body : M Unit} {v : State} (h : Fetches t 4 false s s1) (hb : body (begun t s1) = .ok () v) :
    simple t body s = .next (done t 4 v (v.th t)) := runInstr_done (i := {}) h rfl hb

theorem simple_waitsIn {body : M Unit} {w : WaitOn} {v : State} (h : Fetches t 4 false s s1)
    (hb : body (begun t s1) = .error (.wait w) v) : simple t body s = .next (setWaiting (markStop v t false false) t w none) := by
  have hp : plain body (startState t false s1) = .error (.wait w) v := by rw [plain_run, startState_begun, hb]
  rw [simple, runInstr_run (i := {}) h, show ({} : InstrInfo).resumable = false from rfl, hp]

theorem tcfg_run {bs : List PByte} (h : Fetches t 4 false s s1) (hb : ReadsBlock t rd r cs s1 bs u) :
    exec (.tcfg t rd cs r) s = simple t (fun _ => tcfgTail t rd (bytesVal bs) u) s := by
  have hops : ∀ o ∈ csOps ((s1.th t).cap cs) ++ [opnd 6 .index ((s1.th t).g r)], o.Fine := fun o ho =>
    (List.mem_append.mp ho).elim (csOps_fine hb.unsealed o) (fun ho => List.mem_singleton.mp ho ▸ index_fine hb.tag 6)
  have heven : ∀ q ∈ [rd], q.val % 2 = 0 := List.forall_mem_singleton.mpr hb.even
  have hclean : bytesPoison bs = false := List.any_eq_false.mpr fun b hm => by simp [hb.clean b hm]
  have hmask : permLD = 0x0001 := rfl
  have hgroup : ((begun t s1).th t).group = none := by rw [begun_th, hb.group]
  have hcap : ((begun t s1).th t).cap cs = (s1.th t).cap cs := by rw [begun_th, cap_withIter]
  rw [exec_tcfg, execTcfg]
  refine simple_congr h ?_
  simp only [M.bind_run, needEven_run heven, getT_run, hgroup, Option.isSome_none, Bool.false_eq_true, if_false, hcap, g_begun,
    checkOps_fine hops, intBits_add, hmask, dataChecks_run hb.allowed.begun, hb.load, hclean]
  rfl

theorem ReadsBlock.th {bs : List PByte} (hb : ReadsBlock t rd r cs s1 bs u) : u.th t = { s1.th t with iter := 0 } := by
  rw [th_of_threads (loadBytes_threads hb.load) t, begun_th]

/-- A block that R171 rejects gives RANGE. -/
theorem tcfg_bad {bs : List PByte} (h : Fetches t 4 false s s1) (hb : ReadsBlock t rd r cs s1 bs u) (hbad : tcfgBlock (bytesVal bs) = none) :
    exec (.tcfg t rd cs r) s = .next (done t 4 u (((begun t s1).th t).writePair rd ⟨⟨5, .int⟩, ⟨0, .int⟩⟩)) := by
  rw [tcfg_run h hb]
  refine simple_done h (s2 := u) ?_ (by rw [hb.th, begun_th]; rfl)
  simp only [tcfgTail, hbad, wrPair_run, hb.th, begun_th]
  rfl

/-- A good block with no one waiting and room is granted at once. -/
theorem tcfg_grants {bs : List PByte} {shapes : List (Nat × Nat)} {part : Nat} {regs : List Nat} {idx : Option Nat}
    (h : Fetches t 4 false s s1) (hb : ReadsBlock t rd r cs s1 bs u) (hgood : tcfgBlock (bytesVal bs) = some (shapes, part))
    (hwait : (u.core t.core).tileWait = []) (hfits : tileFits (u.core t.core) ⟨t.val, rd, shapes, part⟩ = some (regs, idx)) :
    let v := tileGrant u ⟨t.val, rd, shapes, part⟩ regs idx
    exec (.tcfg t rd cs r) s = .next (done t 4 v (v.th t)) := by
  rw [tcfg_run h hb]
  refine simple_ok h ?_
  simp only [tcfgTail, hgood, M.bind_run, getC_run, hwait, hfits, modS_run]

/-- Otherwise the request waits behind the others (R127). -/
theorem tcfg_waits {bs : List PByte} {shapes : List (Nat × Nat)} {part : Nat}
    (h : Fetches t 4 false s s1) (hb : ReadsBlock t rd r cs s1 bs u) (hgood : tcfgBlock (bytesVal bs) = some (shapes, part))
    (hfull : (u.core t.core).tileWait ≠ [] ∨ tileFits (u.core t.core) ⟨t.val, rd, shapes, part⟩ = none) :
    let v := u.setCore t.core { u.core t.core with tileWait := (u.core t.core).tileWait ++ [⟨t.val, rd, shapes, part⟩] }
    exec (.tcfg t rd cs r) s = .next (setWaiting (markStop v t false false) t .tileGrant none) := by
  intro v
  rw [tcfg_run h hb]
  refine simple_waitsIn h ?_
  simp only [tcfgTail, hgood, M.bind_run, getC_run]
  cases hw : (u.core t.core).tileWait with
  | nil =>
    have hnone : tileFits (u.core t.core) ⟨t.val, rd, shapes, part⟩ = none := hfull.resolve_left (fun hne => hne hw)
    rw [hnone]
    rfl
  | cons q l => rfl

/-! ### TREL -/

theorem trel_run (h : Fetches t 4 false s s1) :
    exec (.trel t) s = .next (done t 4 (releaseGroup (begun t s1) t) ((releaseGroup (begun t s1) t).th t)) := by
  rw [exec_trel, execTrel]
  exact simple_ok h (modS_run ..)

/-- The array after the release of a group (R175, R204). -/
def releasedCore (k : Core) (g : TileGroup) : Core := match g.part with
  | none => freeTiles k g.members
  | some p =>
    if (k.part p).queue.any (fun q => q.started) then
      k.setPart p { k.part p with draining := true, queue := (k.part p).queue.filter (fun q => q.started), drainRegs := g.members }
    else freeTiles (k.setPart p (k.part p).freed) g.members

theorem releaseGroup_some {g : TileGroup} (hg : (s.th t).group = some g) : releaseGroup s t =
    (s.setTh t { s.th t with group := none }).setCore t.core (releasedCore (s.core t.core) g) := by
  simp only [releaseGroup, hg, releasedCore]
  cases g.part with
  | none => rfl
  | some p =>
    by_cases hq : ((s.core t.core).part p).queue.any (fun q => q.started) = true
    · simp only [if_pos hq]
      exact if_pos hq
    · simp only [if_neg hq]
      exact if_neg hq

/-! ### TSHAPE, TVALID and TMASK -/

section Members
variable {g : TileGroup} {p : Nat} (hg : (s1.th t).group = some g)
include hg

theorem theGroup_run (operand member : Nat) : theGroup t operand member (begun t s1) = .ok g (begun t s1) := by
  have hgroup : ((begun t s1).th t).group = some g := by rw [begun_th, hg]
  simp only [theGroup, M.bind_run, getT_run, hgroup, M.pure_run]

theorem memberOf_run {member : Nat} (operand : Nat) (hp : g.members[member]? = some p) :
    memberOf t operand member (begun t s1) = .ok p (begun t s1) := by
  simp only [memberOf, M.bind_run, theGroup_run hg, hp, M.pure_run]

theorem tshape_shapes (h : Fetches t 4 false s s1) (hp : g.members[((s1.th t).g r).val.toNat % 8]? = some p)
    (htag : ((s1.th t).g r).tag = .int)
    (hsmall : (((s1.th t).g r).val.toNat / 2 ^ 8 % 128 + 1) * ((((s1.th t).g r).val.toNat / 2 ^ 16 % 128 + 1) * 4) ≤ 32768)
    (hidle : tileBusy (s1.core t.core) p = false) :
    let v : Tile := ⟨((s1.th t).g r).val.toNat / 2 ^ 8 % 128 + 1, (((s1.th t).g r).val.toNat / 2 ^ 16 % 128 + 1) * 4, 0, []⟩
    exec (.tshape t r) s =
      .next (done t 4 (s1.setCore t.core { s1.core t.core with tiles := Tab.put (s1.core t.core).tiles p v }) (s1.th t)) := by
  intro v
  have hfine : ∀ o ∈ [opnd 9 .index ((s1.th t).g r)], o.Fine := List.forall_mem_singleton.mpr (index_fine htag 9)
  have hrows : fld ((s1.th t).g r).val.toNat 14 8 = ((s1.th t).g r).val.toNat / 2 ^ 8 % 128 := rfl
  have hbytes : fld ((s1.th t).g r).val.toNat 22 16 = ((s1.th t).g r).val.toNat / 2 ^ 16 % 128 := rfl
  have hcore : (begun t s1).core t.core = s1.core t.core := rfl
  rw [exec_tshape, execTshape]
  refine (simple_done h (s2 := s1.setCore t.core _) (th := { s1.th t with iter := 0 }) ?_ rfl).trans (congrArg _ (done_iter ..))
  simp only [M.bind_run, greg_run, g_begun, checkOps_fine hfine, memberOf_run hg 6 hp, hrows, hbytes, Nat.not_lt.mpr hsmall, if_false, waitTile,
    getC_run, hcore, hidle, Bool.false_eq_true, putTile, modC_run, M.pure_run]
  rfl

theorem tvalid_reads (h : Fetches t 4 false s s1) (hp : g.members[((s1.th t).g r).val.toNat % 8]? = some p)
    (htag : ((s1.th t).g r).tag = .int) (heven : rd.val % 2 = 0) :
    exec (.tvalid t rd r) s = .next (done t 4 s1 ((s1.th t).writePair rd
      ⟨⟨((s1.core t.core).tile p).valid.truncate 64, .int⟩, ⟨(((s1.core t.core).tile p).valid >>> 64).truncate 64, .int⟩⟩)) := by
  have hfine : ∀ o ∈ [opnd 9 .index ((s1.th t).g r)], o.Fine := List.forall_mem_singleton.mpr (index_fine htag 9)
  have hev : ∀ q ∈ [rd], q.val % 2 = 0 := List.forall_mem_singleton.mpr heven
  have hlow (x : BitVec 128) : BitVec.ofNat 64 x.toNat = x.truncate 64 := rfl
  have hhigh (x : BitVec 128) : BitVec.ofNat 64 (x.toNat / 2 ^ 64) = (x >>> 64).truncate 64 := by
    rw [← hlow, BitVec.toNat_ushiftRight, Nat.shiftRight_eq_div_pow]
  rw [exec_tvalid, execTvalid]
  refine simple_writePair h ?_
  simp only [M.bind_run, needEven_run hev, greg_run, g_begun, checkOps_fine hfine, memberOf_run hg 6 hp, getTile_begun, hlow, hhigh]
  rfl

theorem thePart_run {i : Nat} (hi : g.part = some i) : thePart t (begun t s1) = .ok i (begun t s1) := by
  simp only [thePart, M.bind_run, theGroup_run hg, hi, M.pure_run]

theorem tmask_sets {i : Nat} (h : Fetches t 4 false s s1) (hi : g.part = some i) (heven : r.val % 2 = 0)
    (ha : ((s1.th t).pair r).a.tag = .int) (hb : ((s1.th t).pair r).b.tag = .int) :
    exec (.tmask t r) s = .next (done t 4 (s1.setCore t.core ((s1.core t.core).setPart i
      { (s1.core t.core).part i with mask := ((s1.th t).pair r).b.val ++ ((s1.th t).pair r).a.val })) (s1.th t)) := by
  have hsv {x : Reg} (hx : x.tag = .int) : (opnd 9 .sv x).Fine := opnd_fine (by rw [hx]; rfl) (by rw [hx]; decide)
  have hfine : ∀ o ∈ svOps 9 ((s1.th t).pair r), o.Fine := List.forall_mem_cons.mpr ⟨hsv ha, List.forall_mem_singleton.mpr (hsv hb)⟩
  have hev : ∀ q ∈ [r], q.val % 2 = 0 := List.forall_mem_singleton.mpr heven
  have hpair : ((begun t s1).th t).pair r = (s1.th t).pair r := by rw [begun_th, pair_withIter]
  have hclean : pairPoison ((s1.th t).pair r) = false := by simp [pairPoison, ha, hb]
  have hmask (x y : Word) : BitVec.ofNat 128 (x.toNat + 2 ^ 64 * y.toNat) = y ++ x := by
    apply BitVec.eq_of_toNat_eq
    rw [BitVec.toNat_append, BitVec.toNat_ofNat, Nat.shiftLeft_eq, ← Nat.shiftLeft_eq, ← Nat.shiftLeft_add_eq_or_of_lt x.isLt,
      Nat.shiftLeft_eq]
    omega
  rw [exec_tmask, execTmask]
  refine (simple_done h (s2 := s1.setCore t.core _) (th := { s1.th t with iter := 0 }) ?_ rfl).trans (congrArg _ (done_iter ..))
  simp only [M.bind_run, needEven_run hev, getT_run, hpair, checkOps_fine hfine, thePart_run hg hi, hclean, Bool.false_eq_true, if_false,
    M.pure_run, hmask, modC_run]
  rfl

end Members

/-! ### What a granted thread finds -/

theorem tileGrant_th {q : TileReq} {regs : List Nat} {idx : Option Nat} (hq : q.thread = t.val) :
    (tileGrant s q regs idx).th t = grantedThread (s.th t) t q regs idx := by
  rw [tileGrant_eq hq, State.th_setTh]

theorem tileGrant_core {q : TileReq} {regs : List Nat} {idx : Option Nat} (hq : q.thread = t.val) :
    (tileGrant s q regs idx).core t.core = grantedCore (s.core t.core) q regs idx := by
  rw [tileGrant_eq hq]
  exact State.core_setCore ..

theorem pair_of_regs {a b : Thread} (h : a.regs = b.regs) (q : RIdx) : a.pair q = b.pair q := by
  simp only [Thread.pair, Thread.g, h]

/-- The group, the registers and rd of a thread whose request fitted the array k. -/
theorem grant_facts {k k' : Core} {q : TileReq} {regs : List Nat} {idx : Option Nat} {th : Thread} {v : State}
    (hfits : tileFits k q = some (regs, idx)) (hq : q.thread = t.val) (hgroup : (v.th t).group = (grantedThread th t q regs idx).group)
    (hregs : (v.th t).regs = (grantedThread th t q regs idx).regs) (hcore : v.core t.core = grantedCore k' q regs idx) :
    ∃ g, (v.th t).group = some g ∧ g.members = regs ∧ g.part = idx ∧ g.gen = th.groupGen + 1 ∧
      regs.length = q.shapes.length ∧ regs.Nodup ∧ (∀ p ∈ regs, p < 64 ∧ Tab.get? k.tiles p = none) ∧
      (∀ p < 64, Tab.get? k.tiles p = none → p ∉ regs → ∀ x ∈ regs, x < p) ∧
      (∀ x ∈ regs.zip q.shapes, (v.core t.core).tile x.1 = ⟨x.2.1, x.2.2, 0, []⟩) ∧
      (q.part = 0 → idx = none) ∧
      (∀ i, idx = some i → (v.core t.core).part i = { Partition.reset with width := 64 * 2 ^ q.part, holder := some t.val }) ∧
      (v.th t).pair q.rd = ⟨⟨handleWord 5 th.tenancy.val th.dev g.gen t.val, .handle⟩,
        ⟨BitVec.ofNat 64 (packBits 6 regs + idx.getD 0 * 2 ^ 48 + q.part * 2 ^ 50), .int⟩⟩ := by
  have hf := fitted hfits
  refine ⟨⟨regs, idx, th.groupGen + 1⟩, hgroup, rfl, rfl, rfl, hf.length_eq, hf.nodup, fun p hp => hf.free hp,
    fun p hp hfree hout x hx => hf.lowest hp hfree hout hx, fun x hx => ?_, hf.noPart, fun i hi => ?_, ?_⟩
  · rw [hcore]
    exact grantedCore_tile hf hx k'
  · rw [hcore, grantedCore_part k' hi (hf.hasPart i hi), hq]
  · rw [pair_of_regs hregs]
    exact pair_writePair ..

/-! ### The grant to a waiting thread and the end of a drain -/

theorem tileGroupGrant_grants {q : TileReq} {rest : List TileReq} {regs : List Nat} {idx : Option Nat}
    (hwait : (s.core t.core).tileWait = q :: rest) (hq : q.thread = t.val) (hst : (s.th t).status = .waiting .tileGrant)
    (hfits : tileFits (s.core t.core) q = some (regs, idx)) :
    let s2 := tileGrant (s.setCore t.core { s.core t.core with tileWait := rest }) q regs idx
    exec (.tileGroupGrant t) s = .next (advance t 4 none (s2.setTh t { s2.th t with status := .active, waitsWith := none })) := by
  rw [exec_tileGroupGrant, execTileGroupGrant]
  simp [hwait, hq, hst, hfits]

theorem wakeTiles_core (s : State) (c : CoreId) : (wakeTiles s c).cores = s.cores :=
  foldl_keep _ _ State.cores (fun st t => by dsimp only; split <;> rfl) s

theorem partitionDrainComplete_idle {core : CoreId} {i : Fin 4} (h : ((s.core core).part i.val).draining = false) :
    exec (.partitionDrainComplete core i) s = .next s := by
  rw [exec_partitionDrainComplete, execPartitionDrainComplete]
  simp [h]

theorem partitionDrainComplete_frees {core : CoreId} {i : Fin 4} (h : ((s.core core).part i.val).draining = true) :
    ∃ f, exec (.partitionDrainComplete core i) s = .next f ∧
      f.core core = freeTiles ((s.core core).setPart i.val Partition.reset) ((s.core core).part i.val).drainRegs := by
  refine ⟨_, by rw [exec_partitionDrainComplete, execPartitionDrainComplete]; simp [h]; rfl, ?_⟩
  rw [State.core, wakeTiles_core]
  exact State.core_setCore ..

end Tiles

/-- Settles O33: a grant takes the lowest free registers of the array and a free partition; a release frees them, the partition after its drain
when a pass has started. -/
theorem tileGroups : Obligations.TileGroups := by
  unfold Obligations.TileGroups
  intro t rd r cs s granted
  refine ⟨?_, ?_, fun core i => ?_⟩
  · intro s1 h th c a v k
    refine ⟨fun bs u heven hgroup hun htag hallow hload hclean => ?_, ⟨fun hnone => ?_, fun g hg => ?_⟩, fun g p hg hp => ⟨?_, ?_⟩,
      fun g i hg hi heven ha hb => tmask_sets hg h hi heven ha hb⟩
    · have hb : ReadsBlock t rd r cs s1 bs u := ⟨heven, hgroup, hun, htag, hallow, hload, hclean⟩
      refine ⟨tcfg_bad h hb, fun shapes part hgood => ⟨fun regs idx hwait hfits => ?_, fun hfull => ?_⟩⟩
      · have hth := (tileGrant_th (s := u) (q := ⟨t.val, rd, shapes, part⟩) (regs := regs) (idx := idx) rfl).trans (congrArg (grantedThread · ..) hb.th)
        refine ⟨_, tcfg_grants h hb hgood hwait hfits, grant_facts (th := th) hfits rfl ?_ ?_ (tileGrant_core rfl), ?_⟩
        all_goals rw [done, State.th_setTh, hth]; rfl
      · have hth := hb.th
        refine ⟨_, tcfg_waits h hb hgood hfull, ?_, ?_, congrArg Core.tileWait (State.core_setCore ..)⟩
        · simp [setWaiting, markStop]
        · simp [setWaiting, markStop, hth]
          rfl
    · have hsame : releaseGroup (begun t s1) t = begun t s1 := by
        have hnone' : ((begun t s1).th t).group = none := by rw [begun_th]; exact hnone
        simp only [releaseGroup, hnone']
      rw [trel_run h, hsame, begun_th, done_iter, done_begun]
    · have hg' : ((begun t s1).th t).group = some g := by rw [begun_th]; exact hg
      have hth : (releaseGroup (begun t s1) t).th t = { s1.th t with iter := 0, group := none } := by
        rw [releaseGroup_some hg', begun_th]
        exact State.th_setTh ..
      have hcore : (done t 4 (releaseGroup (begun t s1) t) ((releaseGroup (begun t s1) t).th t)).core t.core = releasedCore k g := by
        rw [releaseGroup_some hg']
        exact State.core_setCore ..
      refine ⟨_, trel_run h, ?_, ?_, fun hpart _ p hp => ?_, fun i _ hpart hidle => ?_, fun i _ hpart hbusy => ?_⟩
      · rw [done, State.th_setTh, hth]
      · rw [done, State.th_setTh, hth]
      · rw [hcore, releasedCore, hpart]
        exact get?_freeTiles k hp
      · have hno : (k.part i).queue.any (fun q => q.started) = false := List.any_eq_false.mpr fun q hq => by simp [hidle q hq]
        simp only [hcore, releasedCore, hpart, hno, Bool.false_eq_true, if_false]
        exact ⟨part_setPart .., fun p hp => get?_freeTiles _ hp⟩
      · have hyes : (k.part i).queue.any (fun q => q.started) = true := List.any_eq_true.mpr hbusy
        simp only [hcore, releasedCore, hpart, hyes, if_true]
        exact ⟨congrArg Partition.draining (part_setPart ..), rfl⟩
    · exact fun htag hsmall hidle => tshape_shapes hg h hp htag hsmall hidle
    · exact fun htag heven => tvalid_reads hg h hp htag heven
  · intro q rest regs idx hwait hq hrd hst hfits
    subst hrd
    have hth := tileGrant_th (s := s.setCore t.core { s.core t.core with tileWait := rest }) (regs := regs) (idx := idx) hq
    have hcore := tileGrant_core (s := s.setCore t.core { s.core t.core with tileWait := rest }) (regs := regs) (idx := idx) hq
    rw [State.core_setCore] at hcore
    refine ⟨_, tileGroupGrant_grants hwait hq hst hfits, grant_facts (th := s.th t) hfits hq ?_ ?_ hcore, ?_, ?_, ?_⟩
    · rw [advance_none, done, State.th_setTh, State.th_setTh, hth]
      rfl
    · rw [advance_none, done, State.th_setTh, State.th_setTh, hth]
      rfl
    · rw [advance_none, done, State.th_setTh, State.th_setTh, hth]
      rfl
    · rw [advance_none, done, State.th_setTh, State.th_setTh]
    · exact (congrArg Core.tileWait hcore).trans (grantedCore_tileWait ..)
  · refine ⟨partitionDrainComplete_idle, fun hdrain => ?_⟩
    obtain ⟨f, hf, hcore⟩ := partitionDrainComplete_frees hdrain
    refine ⟨f, hf, ?_, fun p hp => ?_⟩
    · rw [hcore]
      exact part_setPart ..
    · rw [hcore]
      exact get?_freeTiles _ hp

end Sys2Proof.Machine
end

/-!
PROOFS, 29. Stream channels: opening an end, sending a block packet by packet, and what packets and timers do to an end (R379 to R383).
-/

section
namespace Sys2Proof.Machine

section Streams
variable {t : Tid} {rd rx r : RIdx} {cs : PIdx} {s s1 : State}

/-! ### CH.SOPEN -/

/-- The word and the range of a sending end: one byte whose address names the node (R379). -/
def OpensSender (k : Cap) (v : Nat) : Prop := k.length = 1 ∧ v < 2 ^ 12 ∧ k.base ≤ 0x3FFF

/-- The word and the range of a receiving end: 1 to 128 slots of the size in the word (R379). -/
def OpensReceiver (k : Cap) (v : Nat) : Prop :=
  let size := 2 ^ (v / 2 ^ 16 % 16 + 12)
  k.length ≠ 1 ∧ v < 2 ^ 20 ∧ v / 2 ^ 12 % 16 = 0 ∧ v / 2 ^ 16 ≤ 12 ∧ k.length % size = 0 ∧ 1 ≤ k.length / size ∧ k.length / size ≤ 128

/-- What CH.SOPEN refuses, as its fields are read. -/
def opensBad (k : Cap) (x : Nat) : Bool :=
  let slotBytes := 2 ^ (fld x 19 16 + 12)
  let slots := k.length / slotBytes
  let send := k.length == 1
  fld x 63 20 ≠ 0 || fld x 15 12 ≠ 0 || (send && (fld x 19 16 ≠ 0 || 0x3FFF < k.base)) ||
    (!send && (12 < fld x 19 16 || k.length % slotBytes ≠ 0 || slots = 0 || 128 < slots))

theorem opensBad_iff (k : Cap) {v : Nat} (hv : v < 2 ^ 64) : opensBad k v = false ↔ OpensSender k v ∨ OpensReceiver k v := by
  have h20 : fld v 63 20 = v / 2 ^ 20 % 2 ^ 44 := rfl
  have h12 : fld v 15 12 = v / 2 ^ 12 % 16 := rfl
  have h16 : fld v 19 16 = v / 2 ^ 16 % 16 := rfl
  unfold opensBad OpensSender OpensReceiver
  dsimp only
  rw [h20, h12, h16]
  generalize k.length % 2 ^ (v / 2 ^ 16 % 16 + 12) = m
  generalize k.length / 2 ^ (v / 2 ^ 16 % 16 + 12) = d
  by_cases h1 : k.length = 1
  · simp [h1]
    omega
  · simp [h1]
    omega

/-- The stream that CH.SOPEN makes. -/
def openedStream (s : State) (t : Tid) (p : Pair) (x : Nat) : Stream :=
  let slotBytes := 2 ^ (fld x 19 16 + 12)
  let slots := p.toCap.length / slotBytes
  let send := p.toCap.length == 1
  { gen := Tab.getD s.streamGen (Tab.lowestFree s.streams) 0 + 1, tenancy := (s.th t).tenancy, dev := (s.th t).dev, number := fld x 11 0,
    recv := !send, node := if send then some p.toCap.base else none, ring := p, slotBytes := if send then 0 else slotBytes,
    slots := if send then 0 else slots, answered := false, credit := 0, sent := 0, sending := [], granted := if send then 0 else slots,
    ringSlots := [], nextCue := 0, task := none, halted := false, closing := false, creator := some t.val, creatorTask := creatorKey s t }

theorem openedStream_number (s : State) (t : Tid) (p : Pair) (x : Nat) : (openedStream s t p x).number = x % 4096 := by
  simp [openedStream, fld]

theorem openedStream_sender {s : State} {t : Tid} {p : Pair} {x : Nat} (h : p.toCap.length = 1) :
    (openedStream s t p x).recv = false ∧ (openedStream s t p x).node = some p.toCap.base := by
  simp [openedStream, h]

theorem openedStream_receiver {s : State} {t : Tid} {p : Pair} {x : Nat} (h : p.toCap.length ≠ 1) :
    let c := openedStream s t p x
    let size := 2 ^ (x / 2 ^ 16 % 16 + 12)
    c.recv = true ∧ c.node = none ∧ c.slotBytes = size ∧ c.slots = p.toCap.length / size ∧ c.granted = c.slots := by
  have h16 : fld x 19 16 = x / 2 ^ 16 % 16 := rfl
  simp [openedStream, h, h16]

section Open
variable (h : Fetches t 4 false s s1) (ha : Auth (s1.th t) cs 0x2300) (htag : ((s1.th t).g r).tag = .int)
include ha htag

theorem chSopen_start : taskStart t cs [argOp 9 .index ((s1.th t).g r)] (permCHAN + permDMA + permREMOTE) (begun t s1) = .ok () (begun t s1) :=
  taskStart_run ha (List.forall_mem_singleton.mpr (int_arg_fine htag 9))

include h

theorem chSopen_range (hbad : opensBad ((s1.th t).cap cs).toCap ((s1.th t).g r).val.toNat = true) :
    exec (.chSopen t rd cs r) s = .next (done t 4 s1 ((s1.th t).write rd ⟨5, .int⟩)) := by
  have hcap : ((begun t s1).th t).cap cs = (s1.th t).cap cs := by rw [begun_th, cap_withIter]
  rw [exec_chSopen, execChSopen]
  refine simple_write h ?_
  unfold opensBad at hbad
  dsimp only at hbad
  simp only [M.bind_run, greg_run, g_begun, chSopen_start ha htag, getS_run, getT_run, hcap, hbad, if_true]
  rfl

theorem chSopen_opens (hgood : opensBad ((s1.th t).cap cs).toCap ((s1.th t).g r).val.toNat = false) :
    let i := Tab.lowestFree s1.streams
    let c := openedStream s1 t ((s1.th t).cap cs) ((s1.th t).g r).val.toNat
    let u := { s1 with streamGen := Tab.put s1.streamGen i c.gen }.putStream i c
    exec (.chSopen t rd cs r) s = .next (done t 4 u ((u.th t).write rd ⟨c.handle i, .handle⟩)) := by
  intro i c u
  have hcap : ((begun t s1).th t).cap cs = (s1.th t).cap cs := by rw [begun_th, cap_withIter]
  have hplace : ((begun t s1).th t).tenancy = (s1.th t).tenancy ∧ ((begun t s1).th t).dev = (s1.th t).dev := by rw [begun_th]; exact ⟨rfl, rfl⟩
  rw [exec_chSopen, execChSopen]
  refine simple_wrote h (x := u) ?_
  unfold opensBad at hgood
  dsimp only at hgood
  simp only [M.bind_run, greg_run, g_begun, chSopen_start ha htag, getS_run, getT_run, hcap, hgood, Bool.false_eq_true, if_false, modS_run,
    hplace.1, hplace.2, creatorKey_begun]
  rfl

end Open

/-! ### CH.SSEND -/

/-- CH.SSEND by a thread that has not begun it names a live stream of its tenancy and may read its range (R381). -/
structure AsksSend (t : Tid) (cs : PIdx) (rx r : RIdx) (s1 : State) (c : Stream) : Prop where
  unsealed : ((s1.th t).cap cs).isUnsealed = true
  length : ((s1.th t).g rx).tag = .int
  tag : ((s1.th t).g r).tag = .handle
  allowed : Allowed (s1.th t) ((s1.th t).cap cs).toCap 0x2101 ((s1.th t).cap cs).toCap.base ((s1.th t).g rx).val.toNat 1
  kind : (handleOf ((s1.th t).g r).val).kind = 4
  ten : handleTenancyOk (s1.th t) (handleOf ((s1.th t).g r).val) = true
  live : liveStream s1 (handleOf ((s1.th t).g r).val) = some c
  fresh : (s1.th t).iter = 0

/-- CH.SSEND after its checks, on the stream c under the index i. -/
def ssendTail (t : Tid) (rd : RIdx) (i : Nat) (c : Stream) (k : Cap) (bytes : Nat) : M Unit := do
  let s1 ← getS
  let own := creatorKey s1 t
  if c.halted then putStatus t rd stAborted
  else if c.recv || bytes = 0 || (c.answered && c.slotBytes < bytes) then putStatus t rd stRange
  else match c.sending.find? (fun y => y.1 == t.val && y.2.1 == own) with
    | some y => sendPackets t rd i c k.space k.base bytes y.2.2 (ceilDiv bytes 4096 + 1) none
    | none =>
      if !c.answered || c.credit = 0 then waitFor (.channel i)
      else do
        let c1 := { c with credit := c.credit - 1, sent := c.sent + 1, sending := c.sending ++ [(t.val, own, c.sent)] }
        modS (fun s2 => s2.putStream i c1)
        modT t (fun y => { y with iter := 0 })
        sendPackets t rd i c1 k.space k.base bytes c.sent (ceilDiv bytes 4096 + 1) none

/-- The form of CH.SSEND: it resumes, and waits with itself. -/
def ssendInfo (rd : RIdx) (cs : PIdx) (rx r : RIdx) : InstrInfo := { resumable := true, self := some (.chSsend rd cs rx r) }

theorem runInstr_congr {i : InstrInfo} {body body' : M Unit} (h : Fetches t i.len i.ext s s1)
    (hb : body (startState t i.resumable s1) = body' (startState t i.resumable s1)) :
    runInstr t i (plain body) s = runInstr t i (plain body') s := by
  rw [runInstr_run h, runInstr_run h, plain_run, plain_run, hb]

section Send
variable {c : Stream} (h : Fetches t 4 false s s1) (ha : AsksSend t cs rx r s1 c)
include ha

theorem theStream_run : theStream t ((s1.th t).g r).val s1 = .ok ((handleOf ((s1.th t).g r).val).index, c) s1 := by
  have hkind : [4].contains (handleOf ((s1.th t).g r).val).kind = true := by rw [ha.kind]; rfl
  simp only [theStream, handleKind, M.bind_run, getT_run, hkind, ha.ten, Bool.not_true, Bool.or_self, Bool.false_eq_true, if_false, M.pure_run,
    getS_run, ha.live]

include h

/-- After its checks CH.SSEND goes on in the state in which it was fetched. -/
theorem chSsend_run : exec (.chSsend t rd cs rx r none) s = runInstr t (ssendInfo rd cs rx r)
    (plain fun _ => ssendTail t rd (handleOf ((s1.th t).g r).val).index c ((s1.th t).cap cs).toCap ((s1.th t).g rx).val.toNat s1) s := by
  have hops : ∀ o ∈ csOps ((s1.th t).cap cs) ++ [argOp 6 .index ((s1.th t).g rx), argOp 9 .handle ((s1.th t).g r)], o.Fine := fun o ho =>
    (List.mem_append.mp ho).elim (csOps_fine ha.unsealed o)
      (List.forall_mem_cons.mpr ⟨int_arg_fine ha.length 6, List.forall_mem_singleton.mpr (handle_arg_fine ha.tag 9)⟩ o)
  have hmask : permCHAN + permLD + permDMA = 0x2101 := rfl
  have hiter : ¬ ceilDiv ((s1.th t).g rx).val.toNat 4096 < (s1.th t).iter.toNat := by rw [ha.fresh]; exact Nat.not_lt_zero _
  rw [exec_chSsend, execChSsend]
  refine runInstr_congr (i := ssendInfo rd cs rx r) h ?_
  have hstart : startState t (ssendInfo rd cs rx r).resumable s1 = s1 := rfl
  simp only [hstart, M.bind_run, greg_run, getT_run, checkOps_fine hops, hmask, dataChecks_run ha.allowed, theStream_run ha, hiter, if_false]
  rfl

theorem chSsend_done {u : State}
    (hu : ssendTail t rd (handleOf ((s1.th t).g r).val).index c ((s1.th t).cap cs).toCap ((s1.th t).g rx).val.toNat s1 = .ok () u) :
    exec (.chSsend t rd cs rx r none) s = .next (done t 4 u (u.th t)) := by
  rw [chSsend_run h ha]
  refine runInstr_ok (i := ssendInfo rd cs rx r) (target := none) h ?_
  refine (plain_run _ s1).trans ?_
  rw [hu]

theorem chSsend_halted (hc : c.halted = true) :
    exec (.chSsend t rd cs rx r none) s = .next (done t 4 s1 ((s1.th t).write rd ⟨10, .int⟩)) := by
  have hdone := chSsend_done (rd := rd) (rx := rx) h ha (u := s1.setTh t ((s1.th t).write rd ⟨10, .int⟩)) ?_
  · rw [hdone, State.th_setTh, done_setTh t 4 s1 ((s1.th t).write rd ⟨10, .int⟩) _ rfl]
  simp only [ssendTail, M.bind_run, getS_run, hc, if_true]
  rfl

end Send

/-- The sending end takes a block of the given length. -/
structure TakesBlock (s1 : State) (t : Tid) (c : Stream) (bytes : Nat) : Prop where
  alive : c.halted = false
  sender : c.recv = false
  some_bytes : 1 ≤ bytes
  fits : c.answered = true → bytes ≤ c.slotBytes
  idle : ∀ y ∈ c.sending, ¬ (y.1 = t.val ∧ y.2.1 = creatorKey s1 t)

section Block
variable {c : Stream} {bytes : Nat} (hb : TakesBlock s1 t c bytes)
include hb

/-- A block begins when there is credit, and otherwise waits. -/
theorem ssendTail_begins (rd : RIdx) (i : Nat) (k : Cap) : ssendTail t rd i c k bytes s1 =
    if !c.answered || c.credit = 0 then .error (.wait (.channel i)) s1
    else
      let c1 := { c with credit := c.credit - 1, sent := c.sent + 1, sending := c.sending ++ [(t.val, creatorKey s1 t, c.sent)] }
      sendPackets t rd i c1 k.space k.base bytes c.sent (ceilDiv bytes 4096 + 1) none
        ((s1.putStream i c1).setTh t { s1.th t with iter := 0 }) := by
  have hrange : (c.recv || decide (bytes = 0) || (c.answered && decide (c.slotBytes < bytes))) = false := by
    cases hans : c.answered with
    | false => simp [hb.sender, Nat.ne_of_gt hb.some_bytes]
    | true => simp [hb.sender, Nat.ne_of_gt hb.some_bytes, hb.fits hans]
  have hidle : c.sending.find? (fun y => y.1 == t.val && y.2.1 == creatorKey s1 t) = none := by
    refine List.find?_eq_none.mpr fun y hy hmine => hb.idle y hy ?_
    simpa using hmine
  simp only [ssendTail, M.bind_run, getS_run, hb.alive, hrange, hidle, Bool.false_eq_true, if_false]
  split
  · rfl
  · rfl

theorem chSsend_waits (h : Fetches t 4 false s s1) (ha : AsksSend t cs rx r s1 c) (hbytes : bytes = ((s1.th t).g rx).val.toNat)
    (hc : c.answered = false ∨ c.credit = 0) :
    ∃ u, exec (.chSsend t rd cs rx r none) s = .next u ∧ (u.th t).status = .waiting (.channel (handleOf ((s1.th t).g r).val).index) ∧
      (u.th t).pc = (s1.th t).pc ∧ u.streams = s1.streams ∧ u.outbox = s1.outbox := by
  have hno : (!c.answered || decide (c.credit = 0)) = true := by
    rcases hc with h | h <;> simp [h]
  subst hbytes
  have hwait : plain (fun _ => ssendTail t rd (handleOf ((s1.th t).g r).val).index c ((s1.th t).cap cs).toCap ((s1.th t).g rx).val.toNat s1) s1 =
      .error (.wait (.channel (handleOf ((s1.th t).g r).val).index)) s1 := by
    refine (plain_run _ s1).trans ?_
    rw [ssendTail_begins hb, if_pos hno]
  refine ⟨setWaiting (markStop s1 t false false) t (.channel (handleOf ((s1.th t).g r).val).index) (some (.chSsend rd cs rx r)), ?_, ?_, ?_, rfl, rfl⟩
  · rw [chSsend_run h ha]
    refine (runInstr_run (i := ssendInfo rd cs rx r) h).trans ?_
    rw [show startState t (ssendInfo rd cs rx r).resumable s1 = s1 from rfl, hwait]
    rfl
  · simp [setWaiting]
  · simp [setWaiting, markStop]

end Block

/-! ### The packets of a block -/

/-- What the bytes of one packet are, and the state in which they have been read. -/
def packetBytes (n : Fin 17) (ep : Option Nat) (ps : List (Nat × Nat × Nat)) (u : State) : List PByte × State :=
  ps.foldl (fun (a : List PByte × State) p =>
    let x := readRun a.2 ep p.2.2 p.2.1 (windowAt a.2 n.val p.1)
    (a.1 ++ x.2, x.1)) ([], u)

theorem packetBytes_blind {γ : Type} {g : State → γ} (hg : Blind g) (n : Fin 17) (ep : Option Nat) (ps : List (Nat × Nat × Nat)) (u : State) :
    g (packetBytes n ep ps u).2 = g u :=
  foldl_keep _ _ (fun a : List PByte × State => g a.2) (fun _ _ => sliceRead_blind hg ..) _

/-- A packet without poison is sent with the bytes it has read (R380). -/
theorem sendPacket_sends {c : Stream} {n : Fin 17} {va len block i : Nat} {last : Bool} {ps : List (Nat × Nat × Nat)} {u : State}
    (hx : xlateAll t n .read (pieces (len / 128 + 3) va len) s = .ok ps u)
    (hclean : ∀ y ∈ (packetBytes n (s.th t).ep ps u).1, y.2 = false) :
    let b := packetBytes n (s.th t).ep ps u
    sendPacket t c n va len block i last s = .ok true (b.2.send (c.node.getD 0) 6 (if last then 8 else 0) (jobOf b.2 c.space) len
      (c.number * 2 ^ 20 + block % 256 * 2 ^ 12 + i) (bytesVal b.1)) := by
  intro b
  have hep : (u.th t).ep = (s.th t).ep := by rw [th_of_threads (xlateAll_threads hx) t]
  have hpoison : bytesPoison (packetBytes n (s.th t).ep ps u).1 = false := List.any_eq_false.mpr fun y hy => by simp [hclean y hy]
  simp only [packetBytes] at hpoison
  simp only [sendPacket, M.bind_run, hx, runS_run, hep, hpoison, Bool.false_eq_true, if_false, modS_run]
  rfl

/-- Sending a packet leaves the thread's PC. -/
theorem sendPacket_pc {c : Stream} {n : Fin 17} {va len block i : Nat} {last : Bool} {u : State}
    (h : sendPacket t c n va len block i last s = .ok true u) : (u.th t).pc = (s.th t).pc := by
  obtain ⟨ps, v, hx, h⟩ := M.bind_ok h
  obtain ⟨bs, w, hbytes, h⟩ := M.bind_ok h
  have hpc := field_blind t (fun th => th.pc) fun _ _ _ _ => rfl
  have hv : (v.th t).pc = (s.th t).pc := by rw [th_of_threads (xlateAll_threads hx) t]
  have hw : (w.th t).pc = (v.th t).pc := by
    obtain ⟨-, rfl⟩ := EStateM.Result.ok.inj hbytes
    exact packetBytes_blind hpc n (v.th t).ep ps v
  split at h
  · cases h
  · cases h
    exact hw.trans hv

section Chain
variable {c : Stream} {n : Fin 17} {base bytes block i : Nat} {q : Nat → State}

/-- Packets k onward of a block, each sent from the state that the one before has left. -/
def PacketChain (t : Tid) (c : Stream) (n : Fin 17) (base bytes block : Nat) (q : Nat → State) : Prop :=
  ∀ k < ceilDiv bytes 4096, ∃ u, sendPacket t c n (base + 4096 * k) (min 4096 (bytes - 4096 * k)) block k (k + 1 == ceilDiv bytes 4096) (q k) =
    .ok true u ∧ q (k + 1) = u.setTh t { u.th t with iter := BitVec.ofNat 32 (k + 1) }

/-- A block that has been sent is no longer in progress for the thread. -/
def blockSent (t : Tid) (i : Nat) (s : State) : State := match Tab.get? s.streams i with
  | some x => s.putStream i { x with sending := x.sending.filter (fun y => y.1 != t.val) }
  | none => s

theorem blockSent_eq (t : Tid) (i : Nat) (s : State) : ∃ streams, blockSent t i s = { s with streams := streams } := by
  unfold blockSent
  split
  · exact ⟨_, rfl⟩
  · exact ⟨s.streams, rfl⟩

theorem chain_iter (hq : PacketChain t c n base bytes block q) (h0 : ((q 0).th t).iter = 0) {k : Nat} (hk : k ≤ ceilDiv bytes 4096) :
    ((q k).th t).iter = BitVec.ofNat 32 k := by
  cases k with
  | zero => exact h0
  | succ k =>
    obtain ⟨u, -, hnext⟩ := hq k hk
    rw [hnext, State.th_setTh]

theorem chain_pc (hq : PacketChain t c n base bytes block q) {k : Nat} (hk : k ≤ ceilDiv bytes 4096) :
    ((q k).th t).pc = ((q 0).th t).pc := by
  induction k with
  | zero => rfl
  | succ k ih =>
    obtain ⟨u, hu, hnext⟩ := hq k hk
    rw [hnext, State.th_setTh]
    exact (sendPacket_pc hu).trans (ih (Nat.le_of_succ_le hk))

/-- The packets that are left, one after another, end with BOOL 1. -/
theorem sendPackets_chain (hq : PacketChain t c n base bytes block q) (h0 : ((q 0).th t).iter = 0) (hlt : ceilDiv bytes 4096 < 2 ^ 32) (d : Nat) :
    ∀ k, k + d = ceilDiv bytes 4096 → sendPackets t rd i c n base bytes block (d + 1) none (q k) =
      putBool t rd true (blockSent t i (q (ceilDiv bytes 4096))) := by
  have hiter (k : Nat) (hk : k ≤ ceilDiv bytes 4096) : ((q k).th t).iter.toNat = k := by
    rw [chain_iter hq h0 hk, BitVec.toNat_ofNat]
    exact Nat.mod_eq_of_lt (Nat.lt_of_le_of_lt hk hlt)
  induction d with
  | zero =>
    intro k hk
    obtain rfl : k = ceilDiv bytes 4096 := hk
    simp only [sendPackets, M.bind_run, getT_run, hiter _ le_rfl, le_rfl, if_true, modS_run]
    rfl
  | succ d ih =>
    intro k hk
    obtain ⟨u, hu, hnext⟩ := hq k (by omega)
    have hmore : ¬ ceilDiv bytes 4096 ≤ k := by omega
    rw [sendPackets]
    simp only [M.bind_run, getT_run, hiter k (by omega), hmore, if_false, reduceCtorEq, hu, if_true, modT_run, Option.map_none, ← hnext]
    exact ih (k + 1) (by omega)

end Chain

/-- With credit a block begins, and all its packets are sent (R381). -/
theorem chSsend_sends {c : Stream} (h : Fetches t 4 false s s1) (ha : AsksSend t cs rx r s1 c)
    (hb : TakesBlock s1 t c ((s1.th t).g rx).val.toNat) (hans : c.answered = true) (hcredit : 1 ≤ c.credit)
    (hlt : ((s1.th t).g rx).val.toNat < 2 ^ 43) (q : Nat → State) :
    let c1 := { c with credit := c.credit - 1, sent := c.sent + 1, sending := c.sending ++ [(t.val, creatorKey s1 t, c.sent)] }
    let k := ((s1.th t).cap cs).toCap
    let count := ceilDiv ((s1.th t).g rx).val.toNat 4096
    q 0 = (s1.putStream (handleOf ((s1.th t).g r).val).index c1).setTh t { s1.th t with iter := 0 } →
    PacketChain t c1 k.space k.base ((s1.th t).g rx).val.toNat c.sent q →
    ∃ u, exec (.chSsend t rd cs rx r none) s = .next u ∧ (u.th t).g rd = ⟨1, .bool⟩ ∧ (u.th t).pc = (s1.th t).pc + 4 ∧
      u.outbox = (q count).outbox ∧ u.hbm = (q count).hbm := by
  intro c1 k count hq0 hq
  have hgo : ¬ (!c.answered || decide (c.credit = 0)) = true := by simp [hans, Nat.ne_of_gt hcredit]
  have hcount : count < 2 ^ 32 := by
    show (((s1.th t).g rx).val.toNat + 4096 - 1) / 4096 < 2 ^ 32
    omega
  have hth0 : (q 0).th t = { s1.th t with iter := 0 } := by rw [hq0, State.th_setTh]
  have hpc : ((q count).th t).pc = (s1.th t).pc := (chain_pc hq le_rfl).trans (by rw [hth0])
  obtain ⟨streams, hsent⟩ := blockSent_eq t (handleOf ((s1.th t).g r).val).index (q count)
  have htail := ssendTail_begins hb rd (handleOf ((s1.th t).g r).val).index k
  have hall := sendPackets_chain (rd := rd) (i := (handleOf ((s1.th t).g r).val).index) hq (by rw [hth0]) hcount count 0 (Nat.zero_add _)
  rw [hq0, hsent] at hall
  rw [if_neg hgo] at htail
  refine ⟨_, chSsend_done h ha (htail.trans hall), ?_, ?_, rfl, rfl⟩
  · rw [done, State.th_setTh, State.th_setTh]
    exact Thread.g_write ..
  · rw [done, State.th_setTh, State.th_setTh]
    exact congrArg (· + 4) hpc

/-! ### Packets and timers (R379, R380, R383) -/

section Arrivals
variable {i : Nat} {c : Stream}

theorem strOpenTimer_sends {n : Nat} (hc : Tab.get? s.streams i = some c) (hsend : c.recv = false) (hans : c.answered = false)
    (halive : c.halted = false) (hnode : c.node = some n) : exec (.strOpenTimer i) s =
      .next (s.send n 7 0 (jobOf s c.space) (Config.streamPayload c.number).1 c.number (Config.streamPayload c.number).2) := by
  rw [exec_strOpenTimer, execStrOpenTimer]
  simp only [hc, hsend, hans, halive, hnode]
  rfl

theorem strOpen_binds {src job number : Nat}
    (hc : s.streams.find? (fun e => e.2.recv && e.2.number == number && jobOf s e.2.space == job) = some (i, c)) (hnode : c.node = none) :
    exec (.strOpen src job number) s = .next (sendCredit (s.putStream i { c with node := some src, answered := true }) src c.space number
      (slotLog c.slotBytes * 2 ^ 16 + c.slots)) := by
  rw [exec_strOpen, execStrOpen, streamOpen]
  simp only [hc, hnode]

/-- Without a bound task no cue is due. -/
theorem deliverCues_unbound (f : Nat) (hc : Tab.get? s.streams i = some c) (htask : c.task = none) : deliverCues i f s = s := by
  cases f with
  | zero => rfl
  | succ f =>
    have hbound : boundTask s c.task = none := by rw [htask]; rfl
    simp only [deliverCues, hc, hbound]
    split
    · rfl
    · cases Tab.get? c.ringSlots (c.nextCue % c.slots) <;> rfl

/-- The slot of the ring for block b, as it stands or fresh. -/
def ringSlotFor (c : Stream) (b : Nat) : RingSlot := Tab.getD c.ringSlots (b % c.slots) ⟨b, [], none, false, none⟩

/-- What a packet of block b may not be written for: a place taken, or outside the slot (R380). -/
def placeTaken (c : Stream) (b k len : Nat) : Bool :=
  c.halted || (ringSlotFor c b).block ≠ b || (ringSlotFor c b).cued || (ringSlotFor c b).got.contains k || c.slotBytes < 4096 * k + len

theorem placeTaken_iff {c : Stream} (halive : c.halted = false) (b k len : Nat) : placeTaken c b k len = true ↔
    (ringSlotFor c b).block ≠ b ∨ (ringSlotFor c b).cued = true ∨ k ∈ (ringSlotFor c b).got ∨ c.slotBytes < 4096 * k + len := by
  simp [placeTaken, halive, or_assoc]

/-- The stream after packet k of block b has been written. -/
def packetPlaced (c : Stream) (b k : Nat) (last : Bool) : Stream :=
  let r := ringSlotFor c b
  let r1 := { r with got := r.got ++ [k], last := if last then some k else r.last }
  { c with ringSlots := Tab.put c.ringSlots (b % c.slots) r1 }

section Data
variable {src job tspec len data b : Nat} {last : Bool}
  (hc : s.streams.find? (fun e => e.2.recv && e.2.number == fld tspec 31 20 && jobOf s e.2.space == job && e.2.node == some src) =
    some (i, c))
  (hb : blockNumber c (fld tspec 19 12) = some b)
include hc hb

theorem strData_drops (hbad : placeTaken c b (fld tspec 11 0) len = true) :
    exec (.strData src job tspec len data last) s = .next (s.count c.space 0x2D 1) := by
  rw [exec_strData, execStrData, streamData]
  simp only [hc, hb]
  exact congrArg _ (if_pos hbad)

theorem strData_writes {u : State} (hgood : placeTaken c b (fld tspec 11 0) len = false)
    (hu : writeRing c.ring.toCap.space (len + 2) (c.ring.toCap.base + b % c.slots * c.slotBytes + 4096 * fld tspec 11 0)
      (bytesWith len data 0) s = some u) (htask : c.task = none) :
    exec (.strData src job tspec len data last) s = .next (u.putStream i (packetPlaced c b (fld tspec 11 0) last)) := by
  have hcues := deliverCues_unbound (s := u.putStream i (packetPlaced c b (fld tspec 11 0) last)) (c.slots + 1) (Tab.get?_put ..) htask
  rw [exec_strData, execStrData, streamData]
  simp only [hc, hb]
  refine congrArg _ ((if_neg (Bool.eq_false_iff.mp hgood)).trans ?_)
  simp only [hu]
  exact hcues

end Data

theorem streamBlockTimeout_halts (hc : Tab.get? s.streams i = some c)
    (hstuck : ∃ a ∈ c.ringSlots, a.2.whole = false ∧ a.2.got ≠ []) :
    exec (.streamBlockTimeout i) s = .next (haltStream s i true) := by
  have hany : c.ringSlots.any (fun r => !r.2.whole && !r.2.got.isEmpty) = true := by
    obtain ⟨a, ha, hwhole, hgot⟩ := hstuck
    exact List.any_eq_true.mpr ⟨a, ha, by simp [hwhole, hgot]⟩
  rw [exec_streamBlockTimeout, execStreamBlockTimeout]
  simp only [hc, hany, if_true]

/-- Halting a stream touches no other, and of this one only the mark. -/
theorem haltStream_streams (hc : Tab.get? s.streams i = some c) (halive : c.halted = false) (tell : Bool) :
    (haltStream s i tell).streams = Tab.put s.streams i { c with halted := true } := by
  have hhalt (u : State) (a b : Option Nat) (v m : Nat) (w : Word) : (haltDrainsOf (signalCreator u a b v m w) i).streams = u.streams :=
    (haltDrainsOf_blind streams_blind ..).trans (signalCreator_blind streams_blind ..)
  simp only [haltStream, hc, halive, Bool.false_eq_true, if_false]
  split
  · exact (sendCredit_blind streams_blind ..).trans (hhalt ..)
  · exact hhalt ..

end Arrivals

end Streams

/-- Settles O32: an end opens by the word and the range, a block is sent packet by packet, and an arriving packet or a timer changes one end. -/
theorem streamChannels : Obligations.StreamChannels := by
  unfold Obligations.StreamChannels
  intro t rd rx r cs s
  refine ⟨?_, fun i c hc hsend hans halive n hnode => ?_, fun src job number i c hc hnode => ?_, ?_, fun i c hc halive hstuck => ?_⟩
  · intro s1 hf th v h k put
    refine ⟨?_, ?_, ?_⟩
    · intro hauth htag size sends receives
      have hiff : opensBad k v = false ↔ sends ∨ receives := opensBad_iff k (th.g r).val.isLt
      refine ⟨fun hgood => ?_, fun hs hr => ?_⟩
      · refine ⟨_, _, _, chSopen_opens hf hauth htag (hiff.mpr hgood), Tab.get?_lowestFree _, Tab.get?_put .., openedStream_number .., rfl, rfl,
          rfl, rfl, done_write_g .., fun hsend => ?_, fun hrecv => ?_⟩
        · exact openedStream_sender hsend.1
        · exact openedStream_receiver hrecv.1
      · exact chSopen_range hf hauth htag (Bool.not_eq_false _ ▸ mt hiff.mp (not_or.mpr ⟨hs, hr⟩))
    · intro c hun hlen htag hallow hkind hten hl hiter bytes count own
      have ha : AsksSend t cs rx r s1 c := ⟨hun, hlen, htag, hallow, hkind, hten, hl, hiter⟩
      refine ⟨chSsend_halted hf ha, fun halive hsend hsome hfits hidle => ?_⟩
      have hb : TakesBlock s1 t c bytes := ⟨halive, hsend, hsome, hfits, hidle⟩
      refine ⟨chSsend_waits hb hf ha rfl, fun q hans hcredit => ?_⟩
      intro c1 hq0 hq hlt
      exact chSsend_sends hf ha hb hans hcredit hlt q hq0 hq
    · intro c n va len block i last ps u _ hx rd b hclean
      exact ⟨_, sendPacket_sends hx hclean, rfl⟩
  · exact ⟨_, strOpenTimer_sends hc hsend hans halive hnode, _, rfl, rfl, rfl, rfl, rfl⟩
  · refine ⟨_, _, strOpen_binds hc hnode, Tab.get?_put .., rfl, rfl, rfl, ?_⟩
    show (slotLog c.slotBytes * 2 ^ 16 + c.slots) % 256 = c.slots % 256
    omega
  · intro src job tspec len data i b last c hc hb _ halive htask k slot a
    have hk : fld tspec 11 0 = tspec % 4096 := by simp [fld]
    refine ⟨fun hblock hcued hgot hfits u hu => ?_, fun hbad => ?_⟩
    · have hgood : placeTaken c b (fld tspec 11 0) len = false := by
        refine Bool.eq_false_iff.mpr (mt (placeTaken_iff halive ..).mp ?_)
        rw [hk]
        rintro (h | h | h | h)
        · exact h hblock
        · exact Bool.eq_false_iff.mp hcued h
        · exact hgot h
        · exact absurd hfits (Nat.not_le.mpr h)
      refine ⟨_, _, _, strData_writes hc hb hgood (hk ▸ hu) htask, Tab.get?_put .., Tab.get?_put .., ?_, ?_, rfl⟩
      · rw [hk]
        rfl
      · rw [hk]
        rfl
    · exact strData_drops hc hb ((placeTaken_iff halive ..).mpr (hk ▸ hbad))
  · refine ⟨_, streamBlockTimeout_halts hc hstuck, ?_⟩
    rw [haltStream_streams hc halive]
    exact Tab.get?_put ..

end Sys2Proof.Machine
end

/-!
PROOFS, 30. Long-vector registers: the words and lanes that a register is made of and that are read from it (R139, R141).
-/

section
namespace Sys2Proof.Machine

/-! ### Fields of numbers -/

/-- A field of a field. -/
theorem field_field (x a n b w : Nat) (h : b + w ≤ n) : x / 2 ^ a % 2 ^ n / 2 ^ b % 2 ^ w = x / 2 ^ (a + b) % 2 ^ w := by
  refine Nat.eq_of_testBit_eq fun i => ?_
  simp only [Nat.testBit_mod_two_pow, Nat.testBit_div_two_pow]
  by_cases hi : i < w
  · simp [hi, show i + b < n by omega, show i + b + a = i + (a + b) by omega]
  · simp [hi]

/-- A field below the width to which a number is cut. -/
theorem field_mod (x n lo w : Nat) (h : lo + w ≤ n) : x % 2 ^ n / 2 ^ lo % 2 ^ w = x / 2 ^ lo % 2 ^ w := by
  simpa using field_field x 0 n lo w h

theorem toNat_ofNat_field (x : Nat) {n lo w : Nat} (h : lo + w ≤ n) : (BitVec.ofNat n x).toNat / 2 ^ lo % 2 ^ w = x / 2 ^ lo % 2 ^ w := by
  rw [BitVec.toNat_ofNat, field_mod _ _ _ _ h]

/-- A lane whose width divides 64 lies in one word. -/
theorem lane_in_word {w : Nat} (hw : w ∣ 64) (k : Nat) : w * k % 64 + w ≤ 64 := by
  obtain ⟨d, hd⟩ := hw
  have hpos : 0 < d := Nat.pos_of_ne_zero fun h => by simp [h] at hd
  rw [hd, Nat.mul_mod_mul_left]
  calc w * (k % d) + w = w * (k % d + 1) := by ring
    _ ≤ w * d := Nat.mul_le_mul_left _ (Nat.mod_lt _ hpos)

theorem lane_of_word {w : Nat} (hw : w ∣ 64) (x k : Nat) :
    x / 2 ^ (64 * (w * k / 64)) % 2 ^ 64 / 2 ^ (w * k % 64) % 2 ^ w = x / 2 ^ (w * k) % 2 ^ w := by
  rw [field_field _ _ _ _ _ (lane_in_word hw k), Nat.div_add_mod]

/-- Which word a lane lies in, and where. -/
theorem lane_place {w : Nat} (hw : w ∣ 64) (k : Nat) : w * k / 64 = k / (64 / w) ∧ w * k % 64 = w * (k % (64 / w)) := by
  obtain ⟨d, hd⟩ := hw
  have hpos : 0 < w := Nat.pos_of_ne_zero fun h => by simp [h] at hd
  have hdiv : 64 / w = d := by rw [hd, Nat.mul_div_cancel_left _ hpos]
  rw [hdiv, hd]
  exact ⟨Nat.mul_div_mul_left _ _ hpos, Nat.mul_mod_mul_left ..⟩

/-- Code k of a packed list; a code past its end is 0. -/
theorem packBits_getD (w : Nat) (l : List Nat) (k : Nat) : packBits w l / 2 ^ (w * k) % 2 ^ w = l.getD k 0 % 2 ^ w := by
  by_cases hk : k < l.length
  · rw [packBits_code w l k hk, List.getD_eq_getElem _ _ hk]
  · have hle : 2 ^ (w * l.length) ≤ 2 ^ (w * k) := Nat.pow_le_pow_right (by decide) (Nat.mul_le_mul_left w (Nat.le_of_not_lt hk))
    rw [Nat.div_eq_of_lt (Nat.lt_of_lt_of_le (packBits_lt w l) hle), List.getD_eq_default _ _ (Nat.le_of_not_lt hk)]

theorem packBits_flags (l : List PLane) (j : Nat) : (packBits 1 (l.map (fun x => b2n x.2))).testBit j = (l.getD j (0, false)).2 := by
  have h := packBits_getD 1 (l.map (fun x => b2n x.2)) j
  rw [Nat.one_mul, Nat.pow_one, show (0 : Nat) = b2n ((0, false) : PLane).2 from rfl, List.getD_map] at h
  rw [Nat.testBit_eq_decide_div_mod_eq, h]
  cases (l.getD j (0, false)).2 <;> rfl

/-! ### Words of a long-vector register -/

theorem VReg.word_poison (v : VReg) (j : Nat) : (v.word j).2 = v.poison.toNat.testBit j := bit_eq_testBit ..

theorem vFromWords_word (ws : List PLane) {j : Nat} (hj : j < 64) :
    (vFromWords ws).word j = ((ws.getD j (0, false)).1 % 2 ^ 64, (ws.getD j (0, false)).2) := by
  refine Prod.ext ?_ ?_
  · have hmap := List.getD_map (n := j) ws (0, false) (fun l : PLane => l.1)
    rw [VReg.word, vFromWords, toNat_ofNat_field _ (by omega), packBits_getD]
    exact congrArg (· % 2 ^ 64) hmap
  · rw [VReg.word_poison, vFromWords, BitVec.toNat_ofNat, Nat.testBit_mod_two_pow, packBits_flags]
    simp [hj]

theorem vFromWords_poison (ws : List PLane) {j : Nat} (hj : j < 64) :
    (vFromWords ws).poison.toNat.testBit j = (ws.getD j (0, false)).2 := by
  rw [← VReg.word_poison, vFromWords_word ws hj]

/-- A lane read through its word. -/
theorem VReg.lane_word {w : Nat} (hw : w ∣ 64) (v : VReg) (k : Nat) :
    v.bits.toNat / 2 ^ (w * k) % 2 ^ w = (v.word (w * k / 64)).1 / 2 ^ (w * k % 64) % 2 ^ w := (lane_of_word hw _ k).symm

/-! ### Registers made of lanes (R141) -/

theorem wordsOf_getD (w k n : Nat) (ls : List PLane) {j : Nat} (hj : j < n) :
    (wordsOf w k n ls).getD j (0, false) =
      (if (slice ls (k * j) k).any (fun l => l.2) then 0 else packBits w ((slice ls (k * j) k).map (fun l => l.1)),
        (slice ls (k * j) k).any (fun l => l.2)) := by
  induction n generalizing ls j with
  | zero => omega
  | succ n ih =>
    cases j with
    | zero => rfl
    | succ j =>
      have hs : slice (ls.drop k) (k * j) k = slice ls (k * (j + 1)) k := by
        rw [slice, slice, List.drop_drop, Nat.mul_succ, Nat.add_comm]
      rw [wordsOf, List.getD_cons_succ, ih _ (by omega), hs]

/-- A word is poisoned exactly when one of its lanes is. -/
theorem vFromLanes_poison (w : Nat) (ls : List PLane) {j : Nat} (hj : j < 64) :
    (vFromLanes w ls).poison.toNat.testBit j = (slice ls (64 / w * j) (64 / w)).any (fun l => l.2) := by
  rw [vFromLanes, vFromWords_poison _ hj, wordsOf_getD _ _ _ _ hj]

/-- A lane is the one it was made of, or 0 in a poisoned word. -/
theorem vFromLanes_lane {w : Nat} (hw : w ∣ 64) (ls : List PLane) {k : Nat} (hk : w * k < 4096) :
    (vFromLanes w ls).bits.toNat / 2 ^ (w * k) % 2 ^ w =
      if (vFromLanes w ls).poison.toNat.testBit (w * k / 64) then 0 else (ls.getD k (0, false)).1 % 2 ^ w := by
  obtain ⟨hq, hr⟩ := lane_place hw k
  have hpos : 0 < 64 / w := Nat.div_pos (Nat.le_of_dvd (by decide) hw) (Nat.pos_of_ne_zero fun h => by simp [h] at hw)
  have hj : w * k / 64 < 64 := by omega
  have hget : (slice ls (64 / w * (k / (64 / w))) (64 / w)).getD (k % (64 / w)) (0, false) = ls.getD k (0, false) := by
    rw [slice, List.getD_eq_getElem?_getD, List.getElem?_take_of_lt (Nat.mod_lt _ hpos), List.getElem?_drop, Nat.div_add_mod,
      ← List.getD_eq_getElem?_getD]
  rw [VReg.lane_word hw, vFromLanes_poison w ls hj, vFromLanes, vFromWords_word _ hj, wordsOf_getD _ _ _ _ hj]
  split
  · simp
  · rw [hr, field_mod _ _ _ _ (by simpa only [← hr] using lane_in_word hw k), packBits_getD, hq, ← hget]
    exact congrArg (· % 2 ^ w) (List.getD_map (n := k % (64 / w)) _ (0, false) (fun l : PLane => l.1))

theorem slice_map_range {α : Type} (f : Nat → α) {m k n : Nat} (h : k + n ≤ m) :
    slice ((List.range m).map f) k n = (List.range n).map (fun i => f (k + i)) := by
  refine List.ext_getElem (by simp [slice]; omega) fun i h1 h2 => ?_
  simp [slice]

/-! ### Lanes of a register -/

/-- Lane k of width w. -/
def vLane (w : Nat) (v : VReg) (k : Nat) : BitVec w := BitVec.ofNat w (v.bits.toNat / 2 ^ (w * k))

/-- Whether word j is poisoned. -/
def VReg.bad (v : VReg) (j : Nat) : Bool := v.poison.toNat.testBit j

theorem vLanes_eq (v : VReg) (w : Nat) :
    vLanes v w = (List.range (4096 / w)).map (fun k => ((vLane w v k).toNat, v.bad (w * k / 64))) := by
  simp only [vLanes, upto_eq_range, bit_eq_testBit, VReg.bad, vLane, BitVec.toNat_ofNat]

/-- The register made lane by lane, the mark of a lane being that of its word. -/
def laneReg (w : Nat) (f : Nat → Nat) (p : Nat → Bool) : VReg :=
  vFromLanes w ((List.range (4096 / w)).map (fun k => (f k, p (w * k / 64))))

section LaneReg
variable {w : Nat} (hw : w ∣ 64) (f : Nat → Nat) (p : Nat → Bool)
include hw

theorem laneReg_bad {j : Nat} (hj : j < 64) : (laneReg w f p).bad j = p j := by
  obtain ⟨d, hd⟩ := hw
  have hpos : 0 < w := Nat.pos_of_ne_zero fun h => by simp [h] at hd
  have hdpos : 0 < d := Nat.pos_of_ne_zero fun h => by simp [h] at hd
  have hdiv : 64 / w = d := by rw [hd, Nat.mul_div_cancel_left _ hpos]
  have hle : d * j + d ≤ 4096 / w := by
    rw [show 4096 = w * (d * 64) by rw [← Nat.mul_assoc, ← hd], Nat.mul_div_cancel_left _ hpos]
    exact Nat.mul_le_mul_left d hj
  have hword : ∀ i ∈ List.range d, p (w * (d * j + i) / 64) = p j := by
    intro i hi
    rw [hd, Nat.mul_div_mul_left _ _ hpos, Nat.mul_add_div hdpos, Nat.div_eq_of_lt (List.mem_range.mp hi), Nat.add_zero]
  rw [VReg.bad, laneReg, vFromLanes_poison w _ hj, hdiv, slice_map_range _ hle, List.any_map]
  refine Bool.eq_iff_iff.mpr ⟨fun h => ?_, fun h => ?_⟩
  · obtain ⟨i, hi, h⟩ := List.any_eq_true.mp h
    exact hword i hi ▸ h
  · exact List.any_eq_true.mpr ⟨0, List.mem_range.mpr hdpos, (hword 0 (List.mem_range.mpr hdpos)).trans h⟩

theorem laneReg_lane {k : Nat} (hk : w * k < 4096) :
    vLane w (laneReg w f p) k = if (laneReg w f p).bad (w * k / 64) then 0 else BitVec.ofNat w (f k) := by
  have hpos : 0 < w := Nat.pos_of_dvd_of_pos hw (by decide)
  have hlt : k < 4096 / w := by
    obtain ⟨d, hd⟩ := hw
    have hbits : 4096 = w * (d * 64) := by rw [← Nat.mul_assoc, ← hd]
    rw [hbits, Nat.mul_div_cancel_left _ hpos]
    exact Nat.lt_of_mul_lt_mul_left (hbits ▸ hk)
  apply BitVec.eq_of_toNat_eq
  rw [vLane, BitVec.toNat_ofNat, laneReg, vFromLanes_lane hw _ hk, List.getD_eq_getElem _ _ (by simpa using hlt), VReg.bad]
  split <;> simp

end LaneReg

end Sys2Proof.Machine
end

/-!
PROOFS, 31. The lane operations of VINT, VFP and VFMA (R148 to R150).
-/

section
namespace Sys2Proof.Machine

/-! ### Running a long-vector instruction -/

section Run
variable {t : Tid} {vd vs1 vs2 : RIdx} {w : Nat} {body : M Unit} {s s1 : State}

theorem lvReady_run {u : State} (h : (u.core t.core).lv = .powered) : lvReady t u = .ok () u := by
  rw [lvReady, h]

@[simp] theorem vget_run (r : RIdx) (u : State) : vget t r u = .ok ((u.th t).vregs[r.val]) u := rfl

@[simp] theorem vput_run (r : RIdx) (v : VReg) (u : State) :
    vput t r v u = .ok () (u.setTh t { u.th t with vregs := (u.th t).vregs.set r.val v }) := rfl

/-- On a powered unit a legal instruction is its meaning. -/
theorem lvInstr_powered (h : Fetches t 4 false s s1) (hp : (s1.core t.core).lv = .powered) : lvInstr t true body s = simple t body s := by
  refine simple_congr h ?_
  have hr : lvReady t (begun t s1) = .ok () (begun t s1) := lvReady_run hp
  simp only [Bool.not_true, Bool.false_eq_true, if_false, M.bind_run, hr]

/-- An encoding that is not legal raises ILLEGAL_OP before anything else. -/
theorem lvInstr_illegal (h : Fetches t 4 false s s1) : lvInstr t false body s = .next (trapped t 12 0 0 false s1) :=
  simple_trapped h rfl

/-- A meaning that writes one vector register and nothing else. -/
theorem lvInstr_vput {v : VReg} (h : Fetches t 4 false s s1) (hp : (s1.core t.core).lv = .powered)
    (hb : body (begun t s1) = vput t vd v (begun t s1)) :
    lvInstr t true body s = .next (done t 4 s1 { s1.th t with vregs := (s1.th t).vregs.set vd.val v }) := by
  rw [vput_run, begun_setTh, begun_th] at hb
  rw [lvInstr_powered h hp, simple_done h hb rfl]
  rfl

/-! ### Lane by lane -/

/-- The outcome writes vd: a word is poisoned when it is in a source, a lane is f of the lanes of vs1, vs2 and vd, and nothing else of the
thread or the module changes but the PC (R141, R148). -/
def LongLanes (t : Tid) (vd vs1 vs2 : RIdx) (s1 : State) (o : Host.Outcome State Fault Refusal) (w : Nat) (srcs : List RIdx)
    (f : BitVec w → BitVec w → BitVec w → BitVec w) : Prop :=
  ∃ v : VReg, o = .next (done t 4 s1 { s1.th t with vregs := (s1.th t).vregs.set vd.val v }) ∧
    (∀ j, j < 64 → v.bad j = srcs.any (fun r => (s1.th t).vregs[r.val].bad j)) ∧
    ∀ k, w * k < 4096 → vLane w v k = if v.bad (w * k / 64) then 0 else
      f (vLane w (s1.th t).vregs[vs1.val] k) (vLane w (s1.th t).vregs[vs2.val] k) (vLane w (s1.th t).vregs[vd.val] k)

variable {srcs : List RIdx} {f : BitVec w → BitVec w → BitVec w → BitVec w}

theorem longLanes_of_laneReg {F : Nat → Nat} (hw : w ∣ 64) (h : Fetches t 4 false s s1) (hp : (s1.core t.core).lv = .powered)
    (hb : body (begun t s1) = vput t vd (laneReg w F (fun j => srcs.any (fun r => (s1.th t).vregs[r.val].bad j))) (begun t s1))
    (hF : ∀ k, BitVec.ofNat w (F k) =
      f (vLane w (s1.th t).vregs[vs1.val] k) (vLane w (s1.th t).vregs[vs2.val] k) (vLane w (s1.th t).vregs[vd.val] k)) :
    LongLanes t vd vs1 vs2 s1 (lvInstr t true body s) w srcs f := by
  refine ⟨_, lvInstr_vput h hp hb, fun j hj => laneReg_bad hw F _ hj, fun k hk => ?_⟩
  rw [laneReg_lane hw F _ hk, hF]

variable (hw : w ∣ 64) (h : Fetches t 4 false s s1) (hp : (s1.core t.core).lv = .powered)
include hw h hp

theorem vBinary_lanes {F : Lane2} {f : BitVec w → BitVec w → BitVec w}
    (hF : ∀ x y : BitVec w, BitVec.ofNat w (F x.toNat y.toNat) = f x y) :
    LongLanes t vd vs1 vs2 s1 (lvInstr t true (vBinary t vd vs1 vs2 w F) s) w [vs1, vs2] (fun a b _ => f a b) := by
  refine longLanes_of_laneReg hw h hp ?_ (fun k => hF (vLane w _ k) (vLane w _ k))
  simp only [vBinary, M.bind_run, vget_run, begun_th, vLanes_eq, List.zipWith_map, List.zipWith_self, laneReg, List.any_cons, List.any_nil,
    Bool.or_false]

theorem vUnary_lanes {F : Nat → Nat} {f : BitVec w → BitVec w} (hF : ∀ x : BitVec w, BitVec.ofNat w (F x.toNat) = f x) :
    LongLanes t vd vs1 vs2 s1 (lvInstr t true (vUnary t vd vs1 w F) s) w [vs1] (fun a _ _ => f a) := by
  refine longLanes_of_laneReg hw h hp ?_ (fun k => hF (vLane w _ k))
  simp only [vUnary, M.bind_run, vget_run, begun_th, vLanes_eq, List.map_map, laneReg, List.any_cons, List.any_nil, Bool.or_false]
  rfl

theorem vTernary_lanes {F : Nat → Nat → Nat → Nat} (hF : ∀ x y z : BitVec w, BitVec.ofNat w (F x.toNat y.toNat z.toNat) = f x y z) :
    LongLanes t vd vs1 vs2 s1 (lvInstr t true (vTernary t vd vs1 vs2 w F) s) w [vs1, vs2, vd] f := by
  refine longLanes_of_laneReg hw h hp ?_ (fun k => hF (vLane w _ k) (vLane w _ k) (vLane w _ k))
  simp only [vTernary, M.bind_run, vget_run, begun_th, vLanes_eq, List.zip_map', List.zipWith_map, List.zipWith_self, laneReg, List.any_cons,
    List.any_nil, Bool.or_false, Bool.or_assoc]

end Run

/-! ### The operations -/

/-- VSEL on a lane: bits of x where z is 1, of y where it is 0. -/
theorem ofNat_laneSel {w : Nat} (x y z : BitVec w) :
    BitVec.ofNat w (Nat.lor (Nat.land x.toNat z.toNat) (y.toNat - Nat.land y.toNat z.toNat)) = (x &&& z) ||| (y &&& ~~~z) := by
  have hdisjoint : (y &&& z) &&& (y &&& ~~~z) = 0#w := by
    ext i hi
    simp
    grind
  have hjoin : (y &&& z) ||| (y &&& ~~~z) = y := by
    ext i hi
    simp
    grind
  have hsum : y.toNat = (y &&& z).toNat + (y &&& ~~~z).toNat := by
    rw [← BitVec.toNat_add_of_and_eq_zero hdisjoint, BitVec.add_eq_or_of_and_eq_zero _ _ hdisjoint, hjoin]
  have hdiff : y.toNat - Nat.land y.toNat z.toNat = (y &&& ~~~z).toNat := by
    have hand : Nat.land y.toNat z.toNat = (y &&& z).toNat := (BitVec.toNat_and y z).symm
    omega
  rw [hdiff, show Nat.land x.toNat z.toNat = (x &&& z).toNat from (BitVec.toNat_and x z).symm]
  exact ofNat_laneOr _ _

theorem fpLane_dvd : ∀ lanes : Fin 4, (fpLane lanes).width ∣ 64 := by decide

theorem fpLane_eq : ∀ lanes : Fin 4, [fp32, bf16, fp16, fp64].getD lanes.val fp32 = fpLane lanes := by decide

section Instructions
variable {t : Tid} {vd vs1 vs2 : RIdx} {lanes : Fin 4} {s s1 : State} (h : Fetches t 4 false s s1) (hp : (s1.core t.core).lv = .powered)
include h hp

theorem vInt_lanes {F : Nat → Lane2} {f : BitVec (intLane lanes) → BitVec (intLane lanes) → BitVec (intLane lanes)}
    (hF : ∀ x y : BitVec (intLane lanes), BitVec.ofNat _ (F (intLane lanes) x.toNat y.toNat) = f x y) :
    LongLanes t vd vs1 vs2 s1 (vInt t vd vs1 vs2 lanes F s) (intLane lanes) [vs1, vs2] (fun a b _ => f a b) :=
  vBinary_lanes (intLane_dvd lanes) h hp hF

theorem vFp_lanes {F : FFmt → Lane2} {f : BitVec (fpLane lanes).width → BitVec (fpLane lanes).width → BitVec (fpLane lanes).width}
    (hF : ∀ x y : BitVec (fpLane lanes).width, BitVec.ofNat _ (F (fpLane lanes) x.toNat y.toNat) = f x y) :
    LongLanes t vd vs1 vs2 s1 (vFp t vd vs1 vs2 lanes F s) (fpLane lanes).width [vs1, vs2] (fun a b _ => f a b) :=
  vBinary_lanes (fpLane_dvd lanes) h hp hF

theorem vFma_lanes {op : Nat} : LongLanes t vd vs1 vs2 s1 (vFma t vd vs1 vs2 lanes op s) (fpLane lanes).width [vs1, vs2, vd]
    (fun a b c => BitVec.ofNat _ (laneFma (fpLane lanes) op a.toNat b.toNat c.toNat)) :=
  vTernary_lanes (fpLane_dvd lanes) h hp (fun _ _ _ => rfl)

theorem vSel_lanes : LongLanes t vd vs1 vs2 s1 (execVsel t vd vs1 vs2 lanes s) (intLane lanes) [vs1, vs2, vd]
    (fun a b d => (a &&& d) ||| (b &&& ~~~d)) :=
  vTernary_lanes (intLane_dvd lanes) h hp ofNat_laneSel

end Instructions

/-- Settles O37: packing words and taking lanes of a width that divides 64 are inverse (`laneReg_lane`), and the mark of every lane is that of
its word (`laneReg_bad`). -/
theorem longVectorLanes : Obligations.LongVectorLanes := by
  intro t vd vs1 vs2 s s1 h hp th lane bad res ones sat two three
  refine ⟨fun lanes => ?_, fun lanes => ?_⟩
  · exact ⟨vInt_lanes h hp ofNat_laneAdd, vInt_lanes h hp ofNat_laneSub, vInt_lanes h hp ofNat_laneMul, vInt_lanes h hp ofNat_laneMin,
      vInt_lanes h hp ofNat_laneMax, vInt_lanes h hp ofNat_laneMinu, vInt_lanes h hp ofNat_laneMaxu, vInt_lanes h hp ofNat_laneAnd,
      vInt_lanes h hp ofNat_laneOr, vInt_lanes h hp ofNat_laneXor, vInt_lanes h hp ofNat_laneSll, vInt_lanes h hp ofNat_laneSrl,
      vInt_lanes h hp ofNat_laneSra, vInt_lanes h hp ofNat_laneCmpEq, vInt_lanes h hp ofNat_laneCmpLt, vInt_lanes h hp ofNat_laneSadd,
      vSel_lanes h hp⟩
  · intro f num
    have hf : f = fpLane lanes := fpLane_eq lanes
    clear_value f
    subst hf
    refine ⟨vFp_lanes h hp (fun _ _ => rfl), vFp_lanes h hp (fun _ _ => rfl), vFp_lanes h hp (fun _ _ => rfl), vFp_lanes h hp (fun _ _ => rfl),
      vUnary_lanes (vs2 := vs2) (fpLane_dvd lanes) h hp (fun _ => rfl), vFp_lanes h hp (fun _ _ => rfl), vFp_lanes h hp (fun _ _ => rfl),
      vFp_lanes (F := laneFcmpLt) h hp (fun _ _ => ofNat_laneMask _), vFp_lanes (F := laneFcmpEq) h hp (fun _ _ => ofNat_laneMask _),
      vFma_lanes h hp, vFma_lanes h hp, vFma_lanes h hp, vFma_lanes h hp, ?_, fun hne => ?_⟩
    · rintro rfl
      exact ⟨vUnary_lanes (vs2 := vs2) (by decide) h hp (fun _ => rfl), vUnary_lanes (vs2 := vs2) (by decide) h hp (fun _ => rfl)⟩
    · have hillegal : (lanes.val == 0) = false := beq_eq_false_iff_ne.mpr (fun h0 => hne (Fin.ext h0))
      rw [exec_vfexp, exec_vfln, execVfexp, execVfln, hillegal]
      exact ⟨lvInstr_illegal h, lvInstr_illegal h⟩

end Sys2Proof.Machine
end

/-!
PROOFS, 32. VLD and VST (R146, R154, R155).
-/

section
namespace Sys2Proof.Machine

section Access
variable {t : Tid} {vd : RIdx} {cs : PIdx} {m : VMForm} {s s1 s2 u : State}

/-- The registers of a VM or VR instruction carry their tags: an unsealed capability, INT in rx and in the count (R31, R146). -/
structure VmAddrOk (th : Thread) (cs : PIdx) (m : VMForm) : Prop where
  unsealed : (th.cap cs).isUnsealed = true
  index : match m with
    | .short x _ => (th.g x).tag = .int
    | .ext _ _ => True
  count : (th.g (vmCount m)).tag = .int

theorem vmOps_fine {th : Thread} (h : VmAddrOk th cs m) : ∀ o ∈ vmOps th cs m, o.Fine := by
  obtain ⟨hcap, hindex, hcount⟩ := h
  intro o ho
  rcases List.mem_append.mp ho with ho | ho
  · rcases List.mem_append.mp ho with ho | ho
    · exact csOps_fine hcap o ho
    · cases m with
      | short rx rl =>
        rw [List.mem_singleton.mp ho]
        exact index_fine hindex 6
      | ext rl imm => nomatch ho
  · rw [List.mem_singleton.mp ho]
    exact count_fine hcount 9

theorem VmAddrOk.begun (h : VmAddrOk (s1.th t) cs m) : VmAddrOk ((begun t s1).th t) cs m := by
  obtain ⟨hcap, hindex, hcount⟩ := h
  refine ⟨by simpa using hcap, ?_, by simpa using hcount⟩
  cases m with
  | short rx rl => simpa using hindex
  | ext rl imm => trivial

@[simp] theorem vmAddr_withIter (th : Thread) (n : BitVec 32) (off : Int) : vmAddr { th with iter := n } cs m off = vmAddr th cs m off := by
  simp only [vmAddr, cap_withIter, g_withIter]

/-- A count that carries its tag and is in range leaves the checks of the operands. -/
theorem countFirst_inRange {o : Opnd} {d : Nat} {all : List Opnd} (h : ∀ o ∈ all, o.Fine) : countFirst o false d all u = .ok () u := by
  rw [countFirst, Bool.and_false, if_neg Bool.false_ne_true, checkOps_fine h]

/-- One out of range is refused before them (R68). -/
theorem countFirst_outOfRange {o : Opnd} {d : Nat} {all : List Opnd} (h : o.Fine) :
    countFirst o true d all u = .error (.exc ⟨12, d, 0⟩) u := by
  rw [countFirst, h.1, h.2]
  rfl

/-! ### VLD and VST (R154, R155) -/

theorem vmLen_run {th : Thread} (hok : VmAddrOk th cs m) (h1 : 1 ≤ (th.g (vmCount m)).val.toNat)
    (h512 : (th.g (vmCount m)).val.toNat ≤ 512) : vmLen th cs m u = .ok (th.g (vmCount m)).val.toNat u := by
  have hrange : ((th.g (vmCount m)).val.toNat == 0 || decide (512 < (th.g (vmCount m)).val.toNat)) = false := by
    simp
    omega
  simp only [vmLen, M.bind_run, hrange, countFirst_inRange (vmOps_fine hok), M.pure_run]

theorem vmLen_bad {th : Thread} (htag : (th.g (vmCount m)).tag = .int)
    (h : (th.g (vmCount m)).val.toNat = 0 ∨ 512 < (th.g (vmCount m)).val.toNat) : vmLen th cs m u = .error (.exc ⟨12, 0x60, 0⟩) u := by
  have hrange : ((th.g (vmCount m)).val.toNat == 0 || decide (512 < (th.g (vmCount m)).val.toNat)) = true := by simpa using h
  simp only [vmLen, M.bind_run, hrange, countFirst_outOfRange (count_fine htag 9)]

variable {c : Cap} {a n align : Nat} {bs : List PByte}

/-- The bytes of a vector register, each marked as its word is. -/
def regLow (v : VReg) (n : Nat) : List PByte :=
  (List.range n).map (fun k => (v.bits.toNat / 256 ^ k % 256, v.poison.toNat.testBit (k / 8)))

theorem vLanes_take (v : VReg) (hn : n ≤ 512) : (vLanes v 8).take n = regLow v n := by
  rw [vLanes, upto_eq_range, ← List.map_take, List.take_range, Nat.min_eq_left (by omega), regLow]
  refine List.map_congr_left fun k _ => ?_
  have hword : 8 * k / 64 = k / 8 := by omega
  rw [bit_eq_testBit, Nat.pow_mul, hword]
  rfl

/-- What a vector load or store asks of the thread: its unit, its operands and its length. -/
structure VmReady (t : Tid) (cs : PIdx) (m : VMForm) (s1 : State) (c : Cap) (a n : Nat) : Prop where
  powered : (s1.core t.core).lv = .powered
  operands : VmAddrOk (s1.th t) cs m
  cap : ((s1.th t).cap cs).toCap = c
  addr : vmAddr (s1.th t) cs m 0 = a
  len : ((s1.th t).g (vmCount m)).val.toNat = n
  pos : 1 ≤ n
  le : n ≤ 512

theorem VmReady.lvReady (hr : VmReady t cs m s1 c a n) : Machine.lvReady t (Machine.begun t s1) = .ok () (Machine.begun t s1) :=
  lvReady_run hr.powered

theorem VmReady.vmLen (hr : VmReady t cs m s1 c a n) :
    Machine.vmLen ((Machine.begun t s1).th t) cs m (Machine.begun t s1) = .ok n (Machine.begun t s1) := by
  have hlen : (((Machine.begun t s1).th t).g (vmCount m)).val.toNat = n := by rw [g_begun, hr.len]
  rw [← hlen]
  exact vmLen_run hr.operands.begun (hlen ▸ hr.pos) (hlen ▸ hr.le)

theorem vld_ok (h : Fetches t (lenOf m.isExt) m.isExt s s1) (hr : VmReady t cs m s1 c a n) (ha : Allowed (s1.th t) c 0x0001 a n align)
    (hd : demandBytes t c a n (begun t s1) = .ok bs s2) :
    simpleX t m.isExt (vldOp t vd cs m align) s =
      .next (done t (lenOf m.isExt) s2 { s2.th t with vregs := (s2.th t).vregs.set vd.val (vFromLanes 8 bs) }) := by
  have ha' : Allowed ((begun t s1).th t) c permLD a n align := ha.begun
  refine simpleX_done h ?_ rfl
  simp only [vldOp, M.bind_run, getT_run, hr.lvReady, hr.vmLen]
  rw [begun_th, cap_withIter, vmAddr_withIter, hr.cap, hr.addr]
  simp only [dataChecks_run ha', hd, vput_run]

theorem vst_ok (h : Fetches t (lenOf m.isExt) m.isExt s s1) (hr : VmReady t cs m s1 c a n) (ha : Allowed (s1.th t) c 0x0002 a n align)
    (hs : Stores t c.space a (regLow (s1.th t).vregs[vd.val] n) false (begun t s1) s2) :
    simpleX t m.isExt (vstOp t vd cs m align 0) s = .next (done t (lenOf m.isExt) s2 (s2.th t)) := by
  have ha' : Allowed ((begun t s1).th t) c permST a n align := ha.begun
  refine simpleX_ok h ?_
  simp only [vstOp, M.bind_run, getT_run, hr.lvReady, hr.vmLen]
  rw [begun_th, cap_withIter, vmAddr_withIter, hr.cap, hr.addr]
  simp only [dataChecks_run ha', vget_run, begun_th, vLanes_take _ hr.le, hs.run]

/-- A length that VLD and VST do not take: ILLEGAL_OP with detail 0x60 (R154). -/
theorem vm_badLength {rest : Thread → Nat → M Unit} (h : Fetches t (lenOf m.isExt) m.isExt s s1) (hp : (s1.core t.core).lv = .powered)
    (htag : ((s1.th t).g (vmCount m)).tag = .int)
    (hn : ((s1.th t).g (vmCount m)).val.toNat = 0 ∨ 512 < ((s1.th t).g (vmCount m)).val.toNat) :
    simpleX t m.isExt (lvReady t >>= fun _ => getT t >>= fun th => vmLen th cs m >>= rest th) s =
      .next (trapped t 12 0x60 0 m.isExt s1) := by
  have hready : lvReady t (begun t s1) = .ok () (begun t s1) := lvReady_run hp
  have hbad := vmLen_bad (cs := cs) (u := begun t s1) (th := (begun t s1).th t) (by rwa [g_begun]) (by rwa [g_begun])
  refine simpleX_trapped h ?_
  simp only [M.bind_run, getT_run, hready, hbad]

end Access

/-- Settles O39: the operands and checks pass; a loaded byte is a lane of 8 bits of vd (`vFromLanes_lane`), a stored one a lane of vs
(`vLanes_take`). -/
theorem vectorLoadsAndStores : Obligations.VectorLoadsAndStores := by
  intro t vd cs m s s1 s2 h hp th c a r n hh v low rx htag
  have hready (hun : (th.cap cs).isUnsealed = true) (hrx : rx) (h1 : 1 ≤ n) (h512 : n ≤ 512) : VmReady t cs m s1 c a n :=
    ⟨hp, ⟨hun, hrx, htag⟩, rfl, rfl, rfl, h1, h512⟩
  refine ⟨fun hun hrx h1 h512 => ⟨fun bs hd => ⟨vFromLanes 8 bs, ?_, ?_, fun ha => vld_ok h (hready hun hrx h1 h512) ha hd,
    fun ha => vld_ok h (hready hun hrx h1 h512) ha hd⟩, fun hs => ⟨fun ha => vst_ok h (hready hun hrx h1 h512) ha hs,
    fun ha => vst_ok h (hready hun hrx h1 h512) ha hs⟩⟩, fun hn => ?_⟩
  · exact fun j hj => vFromLanes_poison 8 bs hj
  · intro k hk
    have hlane := vFromLanes_lane (w := 8) (by decide) bs (k := k) (by omega)
    have hword : 8 * k / 64 = k / 8 := by omega
    rwa [Nat.pow_mul, hword] at hlane
  · simp only [List.forall_mem_cons, List.not_mem_nil, IsEmpty.forall_iff, implies_true, and_true]
    exact ⟨vm_badLength h hp htag hn, vm_badLength h hp htag hn, vm_badLength h hp htag hn, vm_badLength h hp htag hn⟩

end Sys2Proof.Machine
end

/-!
PROOFS, 33. The summation order of the reductions (R160).
-/

section
namespace Sys2Proof.Machine

/-! ### The tree of a block -/

theorem pairSums_append : ∀ (k : Nat) {l m : List PLane}, l.length = 2 * k → pairSums (l ++ m) = pairSums l ++ pairSums m
  | 0, [], _, _ => rfl
  | k + 1, x :: y :: l, m, h => by
    have hl : l.length = 2 * k := by simpa [Nat.mul_succ] using h
    simp only [List.cons_append, pairSums, pairSums_append k hl]

theorem pairSums_length : ∀ (k : Nat) {l : List PLane}, l.length = 2 * k → (pairSums l).length = k
  | 0, [], _ => rfl
  | k + 1, x :: y :: l, h => by
    have hl : l.length = 2 * k := by simpa [Nat.mul_succ] using h
    simp only [pairSums, List.length_cons, pairSums_length k hl]

theorem pairSums_poison : ∀ l : List PLane, (pairSums l).any (fun x => x.2) = l.any (fun x => x.2)
  | [] => rfl
  | [_] => rfl
  | x :: y :: l => by simp only [pairSums, List.any_cons, pairSums_poison l, Bool.or_assoc]

/-- A tree is poisoned when one of its terms is. -/
theorem treeSum_poison {n : Nat} {l : List PLane} (h : l.length = 2 ^ n) : (treeSum n l).2 = l.any (fun x => x.2) := by
  induction n generalizing l with
  | zero =>
    obtain ⟨x, rfl⟩ := List.length_eq_one_iff.mp h
    simp [treeSum]
  | succ n ih => rw [treeSum, ih (pairSums_length _ (by rw [h, Nat.pow_succ, Nat.mul_comm])), pairSums_poison]

/-- The last addition of a tree joins its two halves. -/
theorem treeSum_halves {n : Nat} {l m : List PLane} (hl : l.length = 2 ^ n) (hm : m.length = 2 ^ n) :
    (treeSum (n + 1) (l ++ m)).1 = fAdd fp32 .rne (treeSum n l).1 (treeSum n m).1 := by
  induction n generalizing l m with
  | zero =>
    obtain ⟨x, rfl⟩ := List.length_eq_one_iff.mp hl
    obtain ⟨y, rfl⟩ := List.length_eq_one_iff.mp hm
    rfl
  | succ n ih =>
    have hl2 : l.length = 2 * 2 ^ n := by rw [hl, Nat.pow_succ, Nat.mul_comm]
    have hm2 : m.length = 2 * 2 ^ n := by rw [hm, Nat.pow_succ, Nat.mul_comm]
    rw [treeSum, pairSums_append _ hl2, ih (pairSums_length _ hl2) (pairSums_length _ hm2)]
    rfl

/-- Adding level by level is the tree whose left operands cover the lower indices. -/
theorem treeSum_tree {n : Nat} {l : List PLane} (h : l.length = 2 ^ n) : (treeSum n l).1 = treeOf n (l.map (fun x => x.1)) := by
  induction n generalizing l with
  | zero =>
    obtain ⟨x, rfl⟩ := List.length_eq_one_iff.mp h
    rfl
  | succ n ih =>
    have hlow : (l.take (2 ^ n)).length = 2 ^ n := by rw [List.length_take, h, Nat.pow_succ]; omega
    have hhigh : (l.drop (2 ^ n)).length = 2 ^ n := by rw [List.length_drop, h, Nat.pow_succ]; omega
    rw [treeOf, ← List.map_take, ← List.map_drop, ← ih hlow, ← ih hhigh, ← treeSum_halves hlow hhigh, List.take_append_drop]

section Block
variable {terms : List PLane} (h : terms.length ≤ 128)
include h

theorem blockTerms_length : (terms ++ List.replicate (128 - terms.length) (f32zero, false)).length = 2 ^ 7 := by
  rw [List.length_append, List.length_replicate]
  omega

theorem blockSum_poison : (blockSum terms).2 = terms.any (fun x => x.2) := by
  have hnone : (List.replicate (128 - terms.length) ((f32zero, false) : PLane)).any (fun x => x.2) = false :=
    List.any_eq_false.mpr fun x hx => by simp [(List.mem_replicate.mp hx).2]
  rw [blockSum, treeSum_poison (blockTerms_length h), List.any_append, hnone, Bool.or_false]

theorem blockSum_tree : (blockSum terms).1 = treeOf 7 (terms.map (fun x => x.1) ++ List.replicate (128 - terms.length) 0) := by
  rw [blockSum, treeSum_tree (blockTerms_length h), List.map_append, List.map_replicate]
  rfl

end Block

/-- A code of FP32 has 32 bits. -/
theorem encodeF_fp32_lt (mode : RMode) (x : Num) (sticky : Bool) : encodeF fp32 mode x sticky < 2 ^ 32 := by
  have hsign (neg : Bool) {mag : Nat} (hm : mag < 2 ^ 31) : withSign fp32 neg mag < 2 ^ 32 := by
    cases neg <;> simp [withSign, fp32, b2n] <;> omega
  have hinf (neg : Bool) : infCode fp32 neg < 2 ^ 32 := hsign neg (by decide)
  cases x with
  | nan => exact (by decide : nanCode fp32 < 2 ^ 32)
  | inf neg => exact hinf neg
  | fin neg m e =>
    rw [encodeF]
    split
    · exact hsign neg (by decide)
    dsimp only
    split
    · rename_i hle
      exact hsign neg (Nat.lt_of_le_of_lt hle (by decide))
    · have hover : overflowCode fp32 mode neg = infCode fp32 neg ∨ overflowCode fp32 mode neg = withSign fp32 neg fp32.maxMag :=
        ite_eq_or_eq ..
      obtain h | h := hover
      · exact h ▸ hinf neg
      · exact h ▸ hsign neg (by decide)

theorem fAdd_fp32_lt (a b : Nat) : fAdd fp32 .rne a b < 2 ^ 32 := encodeF_fp32_lt ..

theorem blockSum_lt {terms : List PLane} (h : terms.length ≤ 128) : (blockSum terms).1 < 2 ^ 32 := by
  rw [blockSum_tree h, treeOf]
  exact fAdd_fp32_lt ..

/-! ### Words and lanes replaced (R141) -/

theorem VReg.setWord_word (v : VReg) {k j : Nat} (x : PLane) (hj : j < 64) :
    (v.setWord k x).word j = if j = k then (if x.2 then 0 else x.1 % 2 ^ 64, x.2) else v.word j := by
  rw [VReg.setWord, vFromWords_word _ hj, upto_eq_range, List.getD_eq_getElem _ _ (by simpa using hj), List.getElem_set]
  by_cases h : k = j
  · rw [if_pos h, if_pos h.symm]
    cases x.2 <;> simp
  · rw [if_neg h, if_neg (Ne.symm h)]
    simp [VReg.word]

/-- One half of a word replaced. -/
theorem setFld_half (w x : Nat) {a b : Nat} (ha : a < 2) (hb : b < 2) :
    setFld w (32 * a + 31) (32 * a) x / 2 ^ (32 * b) % 2 ^ 32 = if b = a then x % 2 ^ 32 else w / 2 ^ (32 * b) % 2 ^ 32 := by
  interval_cases a <;> interval_cases b <;> simp [setFld, fld] <;> omega

theorem VReg.setLane32_poison (v : VReg) {k j : Nat} (x : PLane) (hj : j < 128) :
    ((v.setLane32 k x).lane32 j).2 = ((v.lane32 j).2 || decide (j / 2 = k / 2) && x.2) := by
  rw [VReg.lane32, VReg.setLane32, VReg.setWord_word _ _ (by omega)]
  by_cases h : j / 2 = k / 2 <;> simp [h, VReg.lane32]

/-- A lane written into a word without poison. -/
theorem VReg.setLane32_lane (v : VReg) {k j : Nat} (x : PLane) (hj : j < 128) (hv : (v.lane32 k).2 = false) (hx : x.2 = false) :
    ((v.setLane32 k x).lane32 j).1 = if j = k then x.1 % 2 ^ 32 else (v.lane32 j).1 := by
  have hclean : (v.word (k / 2)).2 = false := hv
  rw [VReg.lane32, VReg.setLane32, VReg.setWord_word _ _ (by omega)]
  by_cases h : j / 2 = k / 2
  · have hplace : j % 2 = k % 2 ↔ j = k := by omega
    have hmod : 32 * (j % 2) + 32 ≤ 64 := by omega
    simp only [h, if_true, hclean, hx, Bool.or_self, Bool.false_eq_true, if_false]
    rw [field_mod _ _ _ _ hmod, setFld_half _ _ (Nat.mod_lt _ (by decide)) (Nat.mod_lt _ (by decide))]
    simp only [hplace, VReg.lane32, h]
  · have hne : j ≠ k := fun he => h (he ▸ rfl)
    simp only [h, hne, if_false, VReg.lane32]

/-! ### The levels (R160) -/

/-- No level is poisoned. -/
def LevelsClean (v : VReg) : Prop := ∀ i, i < 32 → (v.lane32 i).2 = false

/-- The list holds the levels from l on: level l + i is occupied when bit i of q is 1. -/
structure LevelsAt (q l : Nat) (v : VReg) (levels : List (Option Nat)) : Prop where
  length : levels.length + l ≤ 32
  level : ∀ i, l + i < 32 → levels.getD i none = if q.testBit i then some (v.lane32 (l + i)).1 else none

/-- Some occupied level from l on is poisoned. -/
def LevelPoison (q l : Nat) (v : VReg) : Prop := ∃ i, l + i < 32 ∧ q.testBit i = true ∧ (v.lane32 (l + i)).2 = true

theorem testBit_add_one_even {q i : Nat} (h : q % 2 = 0) : (q + 1).testBit i = (decide (i = 0) || q.testBit i) := by
  cases i with
  | zero => simp [Nat.testBit_zero]; omega
  | succ i => simp [Nat.testBit_succ, show (q + 1) / 2 = q / 2 by omega]

theorem testBit_add_one_odd {q i : Nat} (h : q % 2 = 1) : (q + 1).testBit i = (decide (i ≠ 0) && (q / 2 + 1).testBit (i - 1)) := by
  cases i with
  | zero => simp [Nat.testBit_zero]; omega
  | succ i => simp [Nat.testBit_succ, show (q + 1) / 2 = q / 2 + 1 by omega]

/-- A block's sum joins the levels as combine says. -/
theorem combineAt_levels {m f l : Nat} {v : VReg} {x : PLane} {levels : List (Option Nat)} (hf : l + f = 32) (hq : m / 2 ^ l + 1 < 2 ^ f)
    (hv : LevelsClean v) (hl : LevelsAt (m / 2 ^ l) l v levels) (hx : x.2 = false) (hlt : x.1 < 2 ^ 32) :
    LevelsClean (combineAt m f l v x) ∧ LevelsAt (m / 2 ^ l + 1) l (combineAt m f l v x) (carrySum levels x.1) := by
  induction f generalizing l v x levels with
  | zero => exact absurd hq (by simp)
  | succ f ih =>
    have h0 := hl.level 0 (by omega)
    rw [Nat.testBit_zero] at h0
    rw [combineAt, bit_eq]
    by_cases hodd : m / 2 ^ l % 2 = 1
    · have hhalf : m / 2 ^ (l + 1) = m / 2 ^ l / 2 := by rw [Nat.pow_succ, Nat.div_div_eq_div_mul]
      have hclean : (v.lane32 l).2 = false := hv l (by omega)
      obtain _ | ⟨y, rest⟩ := levels
      · simp [hodd] at h0
      obtain rfl : y = some (v.lane32 l).1 := by simpa [hodd] using h0
      have hrest : LevelsAt (m / 2 ^ (l + 1)) (l + 1) v rest := by
        refine ⟨by have := hl.length; simp at this; omega, fun i hi => ?_⟩
        have := hl.level (i + 1) (by omega)
        rwa [List.getD_cons_succ, Nat.testBit_succ, ← hhalf, show l + (i + 1) = l + 1 + i by omega] at this
      obtain ⟨hc, hr⟩ := ih (x := (fAdd fp32 .rne (v.lane32 l).1 x.1, (v.lane32 l).2 || x.2)) (by omega)
        (by rw [hhalf]; rw [Nat.pow_succ] at hq; omega) hv hrest (by simp [hclean, hx]) (fAdd_fp32_lt ..)
      simp only [hodd, decide_true, if_true, carrySum]
      have hlen : (carrySum rest (fAdd fp32 .rne (v.lane32 l).1 x.1)).length + (l + 1) ≤ 32 := hr.length
      refine ⟨hc, by rw [List.length_cons]; omega, fun i hi => ?_⟩
      rw [testBit_add_one_odd hodd]
      cases i with
      | zero => simp
      | succ i =>
        rw [List.getD_cons_succ, hr.level i (by omega), hhalf]
        simp [show l + (i + 1) = l + 1 + i by omega]
    · have heven : m / 2 ^ l % 2 = 0 := by omega
      have hset (i : Nat) (hi : l + i < 32) : ((v.setLane32 l x).lane32 (l + i)).1 = if i = 0 then x.1 else (v.lane32 (l + i)).1 := by
        rw [VReg.setLane32_lane _ _ (by omega) (hv l (by omega)) hx, Nat.mod_eq_of_lt hlt]
        simp
      have hcarry : carrySum levels x.1 = some x.1 :: levels.tail := by
        obtain _ | ⟨y, rest⟩ := levels
        · rfl
        · obtain rfl : y = none := by simpa [hodd] using h0
          rfl
      simp only [hodd, decide_false, Bool.false_eq_true, if_false]
      refine ⟨fun i hi => ?_, ?_, fun i hi => ?_⟩
      · rw [VReg.setLane32_poison _ _ (by omega), hv i hi, hx]
        simp
      · have := hl.length
        rw [hcarry]
        simp
        omega
      · rw [hcarry, hset i hi, testBit_add_one_even heven]
        cases i with
        | zero => simp
        | succ i =>
          have := hl.level (i + 1) hi
          rw [List.getD_cons_succ]
          rw [show levels.tail.getD i none = levels.getD (i + 1) none by cases levels <;> simp, this]
          simp

/-- Poison in the block or in an occupied level reaches an occupied level. -/
theorem combineAt_poison {m f l : Nat} {v : VReg} {x : PLane} (hf : l + f = 32) (hq : m / 2 ^ l + 1 < 2 ^ f)
    (h : x.2 = true ∨ LevelPoison (m / 2 ^ l) l v) : LevelPoison (m / 2 ^ l + 1) l (combineAt m f l v x) := by
  induction f generalizing l x with
  | zero => exact absurd hq (by simp)
  | succ f ih =>
    rw [combineAt, bit_eq]
    by_cases hodd : m / 2 ^ l % 2 = 1
    · have hhalf : m / 2 ^ (l + 1) = m / 2 ^ l / 2 := by rw [Nat.pow_succ, Nat.div_div_eq_div_mul]
      have hnext : ((v.lane32 l).2 || x.2) = true ∨ LevelPoison (m / 2 ^ (l + 1)) (l + 1) v := by
        obtain hx | ⟨i, hi, hb, hp⟩ := h
        · exact .inl (by simp [hx])
        · cases i with
          | zero => exact .inl (by rw [Nat.add_zero] at hp; simp [hp])
          | succ i => exact .inr ⟨i, by omega, by rwa [hhalf, ← Nat.testBit_succ], by rwa [show l + 1 + i = l + (i + 1) by omega]⟩
      obtain ⟨i, hi, hb, hp⟩ := ih (x := (fAdd fp32 .rne (v.lane32 l).1 x.1, (v.lane32 l).2 || x.2)) (by omega)
        (by rw [hhalf]; rw [Nat.pow_succ] at hq; omega) hnext
      simp only [hodd, decide_true, if_true]
      exact ⟨i + 1, by omega, by rw [testBit_add_one_odd hodd, ← hhalf]; simpa using hb, by rwa [show l + (i + 1) = l + 1 + i by omega]⟩
    · have heven : m / 2 ^ l % 2 = 0 := by omega
      simp only [hodd, decide_false, Bool.false_eq_true, if_false]
      obtain hx | ⟨i, hi, hb, hp⟩ := h
      · exact ⟨0, by omega, by simp [testBit_add_one_even heven], by rw [VReg.setLane32_poison _ _ (by omega)]; simp [hx]⟩
      · exact ⟨i, hi, by simp [testBit_add_one_even heven, hb], by rw [VReg.setLane32_poison _ _ (by omega)]; simp [hp]⟩

/-! ### finish (R160) -/

/-- The occupied levels of a register after n blocks. -/
def levelList (n : Nat) (v : VReg) : List (Option PLane) := (List.range 32).map (fun l => if bit n l then some (v.lane32 l) else none)

/-- A level joins the sum of the lower ones. -/
def joinLevel : Option PLane → Option PLane → Option PLane
  | r, none => r
  | none, some y => some y
  | some x, some y => some (fAdd fp32 .rne y.1 x.1, y.2 || x.2)

theorem foldLevels_eq (n : Nat) (v : VReg) : foldLevels n v = ((levelList n v).foldl joinLevel none).getD (f32zero, false) := by
  have hfold (F : Option PLane → Nat → Option PLane)
      (hF : ∀ r l, F r l = joinLevel r (if bit n l then some (v.lane32 l) else none)) :
      (upto 32).foldl F none = (levelList n v).foldl joinLevel none := by
    rw [levelList, List.foldl_map, upto_eq_range]
    exact congrArg (fun f => List.foldl f none (List.range 32)) (funext fun r => funext (hF r))
  unfold foldLevels
  rw [hfold]
  · cases (levelList n v).foldl joinLevel none <;> rfl
  · intro r l
    cases bit n l <;> cases r <;> rfl

theorem joinLevels_poison (l : List (Option PLane)) (r : Option PLane) :
    ((l.foldl joinLevel r).getD (f32zero, false)).2 = (r.any (fun x => x.2) || l.any (fun o => o.any (fun x => x.2))) := by
  induction l generalizing r with
  | nil => cases r <;> simp
  | cons o l ih =>
    rw [List.foldl_cons, ih]
    cases r <;> cases o <;> simp [joinLevel, Bool.or_left_comm, Bool.or_assoc]

theorem joinLevels_finish (l : List (Option PLane)) (r : Option PLane) :
    ((l.foldl joinLevel r).getD (f32zero, false)).1 = finishSum (r.map (fun x => x.1)) (l.map (Option.map (fun x => x.1))) := by
  induction l generalizing r with
  | nil => cases r <;> rfl
  | cons o l ih =>
    rw [List.foldl_cons, ih]
    cases r <;> cases o <;> rfl

theorem finishSum_nones (l : List (Option Nat)) (r : Option Nat) (k : Nat) : finishSum r (l ++ List.replicate k none) = finishSum r l := by
  induction l generalizing r with
  | nil =>
    induction k with
    | zero => rfl
    | succ k ih => cases r <;> exact ih
  | cons o l ih => cases r <;> cases o <;> exact ih _

/-- The levels of a register are those of the list, then unoccupied ones. -/
theorem levelList_eq {n : Nat} {v : VReg} {levels : List (Option Nat)} (h : LevelsAt n 0 v levels) :
    (levelList n v).map (Option.map (fun x => x.1)) = levels ++ List.replicate (32 - levels.length) none := by
  have hlen := h.length
  refine List.ext_getElem (by simp [levelList]; omega) fun i h1 h2 => ?_
  have hi : i < 32 := by simpa [levelList] using h1
  have hlevel := h.level i (by omega)
  have hget : (levels ++ List.replicate (32 - levels.length) none)[i] = levels.getD i none := by
    by_cases hlt : i < levels.length
    · rw [List.getElem_append_left hlt, List.getD_eq_getElem _ _ hlt]
    · rw [List.getElem_append_right (by omega), List.getElem_replicate, List.getD_eq_default _ _ (by omega)]
  rw [hget, hlevel, Nat.zero_add]
  simp only [levelList, List.getElem_map, List.getElem_range, bit_eq_testBit]
  cases n.testBit i <;> rfl

theorem levelList_poison {n : Nat} {v : VReg} :
    (levelList n v).any (fun o => o.any (fun x => x.2)) = true ↔ LevelPoison n 0 v := by
  simp only [levelList, List.any_map, List.any_eq_true, List.mem_range, LevelPoison, Nat.zero_add, Function.comp_apply, bit_eq_testBit]
  refine exists_congr fun i => and_congr_right fun _ => ?_
  cases n.testBit i <;> simp

theorem LevelsClean.not_levelPoison {n : Nat} {v : VReg} (h : LevelsClean v) : ¬ LevelPoison n 0 v := by
  rintro ⟨i, hi, -, hp⟩
  rw [h (0 + i) hi] at hp
  nomatch hp

/-! ### All blocks -/

/-- The levels after blocks, each combined under its number. -/
def levelsAfter (blocks : List (List PLane)) (v : VReg) : VReg :=
  (blocks.zip (List.range blocks.length)).foldl (fun w x => combineAt x.2 32 0 w (blockSum x.1)) v

theorem levelsAfter_concat (blocks : List (List PLane)) (b : List PLane) (v : VReg) :
    levelsAfter (blocks ++ [b]) v = combineAt blocks.length 32 0 (levelsAfter blocks v) (blockSum b) := by
  rw [levelsAfter, List.length_append, List.length_singleton, List.range_succ, List.zip_append List.length_range.symm, List.foldl_append]
  rfl

/-- Some term of some block is poisoned. -/
def blocksPoison (blocks : List (List PLane)) : Bool := blocks.any (fun b => b.any (fun x => x.2))

theorem levelsAfter_spec {blocks : List (List PLane)} {v : VReg} (hn : blocks.length < 2 ^ 32) (hb : ∀ b ∈ blocks, b.length ≤ 128)
    (hv : LevelsClean v) :
    (blocksPoison blocks = true → LevelPoison blocks.length 0 (levelsAfter blocks v)) ∧
    (blocksPoison blocks = false → LevelsClean (levelsAfter blocks v) ∧
      LevelsAt blocks.length 0 (levelsAfter blocks v) (blocks.foldl (fun l b => carrySum l (blockSum b).1) [])) := by
  induction blocks using List.reverseRecOn with
  | nil => exact ⟨nofun, fun _ => ⟨hv, by decide, fun i _ => by simp⟩⟩
  | append_singleton blocks b ih =>
    have hlen : (blocks ++ [b]).length = blocks.length + 1 := by simp
    have hb1 : b.length ≤ 128 := hb b (by simp)
    obtain ⟨hpoison, hclean⟩ := ih (by omega) (fun b hm => hb b (List.mem_append_left _ hm))
    have hq : blocks.length / 2 ^ 0 + 1 < 2 ^ 32 := by omega
    have hany : blocksPoison (blocks ++ [b]) = (blocksPoison blocks || (blockSum b).2) := by
      simp [blocksPoison, blockSum_poison hb1]
    rw [hany, levelsAfter_concat, hlen]
    refine ⟨fun h => ?_, fun h => ?_⟩
    · have := combineAt_poison (v := levelsAfter blocks v) (x := blockSum b) (by decide) hq
        ((Bool.or_eq_true_iff.mp h).symm.imp_right fun h => by simpa using hpoison h)
      simpa using this
    · obtain ⟨h1, h2⟩ := Bool.or_eq_false_iff.mp h
      obtain ⟨hc, hl⟩ := hclean h1
      have := combineAt_levels (l := 0) (by decide) hq hc (by simpa using hl) h2 (blockSum_lt hb1)
      rw [List.foldl_append]
      simpa using this

/-- Settles O41: the levels kept in vd under the count of blocks are the list of combine (`levelsAfter_spec`), and their fold is finish
(`joinLevels_finish`). -/
theorem summationOrder : Obligations.SummationOrder := by
  refine ⟨fun terms h => ⟨blockSum_poison h, blockSum_tree h⟩, fun blocks v hn hb hv => ?_⟩
  intro levels r
  have hclean : LevelsClean v := fun i hi => by rw [VReg.lane32, hv (i / 2) (by omega)]
  obtain ⟨hpoison, hlevels⟩ := levelsAfter_spec hn hb hclean
  have hr : r.2 = (levelList blocks.length levels).any (fun o => o.any (fun x => x.2)) :=
    (congrArg Prod.snd (foldLevels_eq blocks.length levels)).trans (joinLevels_poison _ none)
  have hfinish : r.1 = finishSum none ((levelList blocks.length levels).map (Option.map (fun x => x.1))) :=
    (congrArg Prod.fst (foldLevels_eq blocks.length levels)).trans (joinLevels_finish _ none)
  cases hany : blocksPoison blocks with
  | true =>
    have hp : r.2 = true := hr.trans (levelList_poison.mpr (hpoison hany))
    exact ⟨hp.trans hany.symm, fun h => by simp [hp] at h⟩
  | false =>
    obtain ⟨hc, hat⟩ := hlevels hany
    have hp : r.2 = false := hr.trans (Bool.eq_false_iff.mpr fun h => hc.not_levelPoison (levelList_poison.mp h))
    exact ⟨hp.trans hany.symm, fun _ => hfinish.trans ((congrArg (finishSum none) (levelList_eq hat)).trans (finishSum_nones ..))⟩

end Sys2Proof.Machine
end

/-!
PROOFS, 34. The blocks of VNORM, VSMAX and VLOSS (R157 to R163).
-/

section
namespace Sys2Proof.Machine

/-! ### Elements of a block (R157, R158) -/

theorem vrElems_eq (e k : Nat) (bs : List PByte) :
    vrElems e k bs = (List.range k).map (fun j => (bytesVal (slice bs (j * e) e), (slice bs (j * e) e).any (fun b => b.2))) := by
  induction k generalizing bs with
  | zero => rfl
  | succ k ih =>
    rw [vrElems, ih, List.range_succ_eq_map, List.map_cons, List.map_map, Nat.zero_mul]
    refine congrArg₂ _ rfl (List.map_congr_left fun j _ => ?_)
    have hs : slice (bs.drop e) (j * e) e = slice bs ((j + 1) * e) e := by
      rw [slice, slice, List.drop_drop, Nat.succ_mul, Nat.add_comm]
    simp only [hs, Function.comp_apply]

/-- The elements of a block in FP32, each with its mark. -/
def vrTerms (fmt : BitVec 4) (f : FFmt) (e k : Nat) (bs : List PByte) : List PLane :=
  (List.range k).map (fun j =>
    (if fmt = 0 then bytesVal (slice bs (j * e) e) else fCvt f fp32 .rne (bytesVal (slice bs (j * e) e)),
      (slice bs (j * e) e).any (fun b => b.2)))

theorem toNat_eq_zero_iff {w : Nat} (x : BitVec w) : x.toNat = 0 ↔ x = 0 := by
  rw [BitVec.toNat_eq, show (0 : BitVec w).toNat = 0 from Nat.zero_mod _]

theorem vrIn_eq {fmt : BitVec 4} {f : FFmt} (hf : vrFmt fmt.toNat = f) (x : Nat) :
    vrIn fmt.toNat x = if fmt = 0 then x else fCvt f fp32 .rne x := by
  simp only [vrIn, toNat_eq_zero_iff, hf]

theorem vrTerms_eq {fmt : BitVec 4} {f : FFmt} (hf : vrFmt fmt.toNat = f) (e k : Nat) (bs : List PByte) :
    (vrElems e k bs).map (fun x => (vrIn fmt.toNat x.1, x.2)) = vrTerms fmt f e k bs := by
  rw [vrElems_eq, List.map_map, vrTerms]
  exact List.map_congr_left fun j _ => by simp only [Function.comp_apply, vrIn_eq hf]

section Checks
variable {t : Tid} {c : Cap} {mask a e k : Nat} {u : State}

/-- A block that may be accessed as a whole passes the checks of its elements (R45). -/
theorem vrChecks_run (hk : 0 < k) (h : Allowed (u.th t) c mask a (k * e) e) : vrChecks t c mask a e k u = .ok () u := by
  obtain ⟨href, hret, hperm, hlo, hhi, halign⟩ := h
  have hfirst : e ≤ k * e := Nat.le_mul_of_pos_left _ hk
  have hall : ∀ i ∈ upto k, (decide (a + i * e < c.base) || decide (c.top < a + (i + 1) * e)) = false := by
    intro i hi
    have hle : (i + 1) * e ≤ k * e := Nat.mul_le_mul_right e (mem_upto.mp hi)
    simp
    omega
  have hone : dataChecks t c mask a e e u = .ok () u := dataChecks_run ⟨href, hret, hperm, hlo, by omega, halign⟩
  simp only [vrChecks, M.bind_run, hone, vrOutside, findIdx?_none hall, M.pure_run]

end Checks

/-! ### vd replaced, and the state in which the blocks start (R158) -/

/-- The state with a vector register of a thread replaced. -/
def putVreg (t : Tid) (vd : RIdx) (v : VReg) (u : State) : State :=
  u.setTh t { u.th t with vregs := (u.th t).vregs.set vd.val v }

section PutVreg
variable {t : Tid} {vd : RIdx} {v w : VReg} {u : State}

@[simp] theorem putVreg_th : (putVreg t vd v u).th t = { u.th t with vregs := (u.th t).vregs.set vd.val v } := by simp [putVreg]

theorem putVreg_putVreg : putVreg t vd w (putVreg t vd v u) = putVreg t vd w u := by
  rw [putVreg, putVreg_th]
  simp [putVreg]

/-- A register replaced by itself. -/
theorem putVreg_self : putVreg t vd (u.th t).vregs[vd.val] u = u := by
  have hv : (u.th t).vregs.set vd.val (u.th t).vregs[vd.val] = (u.th t).vregs := Vector.set_getElem_self _
  rw [putVreg, hv]
  show { u with threads := u.threads.set t.val u.threads[t.val] } = u
  rw [Vector.set_getElem_self]

theorem done_putVreg (len : Nat) : done t len (putVreg t vd v u) ((putVreg t vd v u).th t) =
    done t len u { u.th t with vregs := (u.th t).vregs.set vd.val v } := by
  rw [putVreg_th]
  exact done_setTh t len u _ _ rfl

theorem afterIter_th (n : Nat) : (afterIter t u n).th t = { u.th t with iter := BitVec.ofNat 32 n } := by simp [afterIter]

/-- The iteration counter is overwritten at the end of the instruction. -/
theorem done_afterIter (len n : Nat) (th : Thread) : done t len (afterIter t u n) th = done t len u th :=
  done_setTh t len u _ _ rfl

theorem afterIter_self : afterIter t u (u.th t).iter.toNat = u := by
  rw [afterIter, BitVec.ofNat_toNat, BitVec.setWidth_eq]
  show { u with threads := u.threads.set t.val u.threads[t.val] } = u
  rw [Vector.set_getElem_self]

theorem putVreg_afterIter (n : Nat) : putVreg t vd v (afterIter t u n) = afterIter t (putVreg t vd v u) n := by
  simp [putVreg, afterIter]

end PutVreg

/-- Only the vector registers of the thread may differ. -/
def VregsOnly (t : Tid) (s1 u : State) : Prop := ∃ v, u.th t = { s1.th t with vregs := v }

theorem VregsOnly.refl (t : Tid) (s1 : State) : VregsOnly t s1 s1 := ⟨_, rfl⟩

theorem VregsOnly.putVreg {t : Tid} {vd : RIdx} {v : VReg} {s1 u : State} (h : VregsOnly t s1 u) : VregsOnly t s1 (putVreg t vd v u) := by
  obtain ⟨w, h⟩ := h
  exact ⟨_, by rw [putVreg_th, h]⟩

theorem VregsOnly.congr {t : Tid} {s1 u w : State} (h : VregsOnly t s1 u) (hw : w.threads = u.threads) : VregsOnly t s1 w := by
  obtain ⟨v, h⟩ := h
  exact ⟨v, by rw [th_of_threads hw, h]⟩

theorem VregsOnly.allowed {t : Tid} {s1 u : State} {c : Cap} {mask a len align : Nat} (h : VregsOnly t s1 u)
    (ha : Allowed (s1.th t) c mask a len align) : Allowed (u.th t) c mask a len align := by
  obtain ⟨v, h⟩ := h
  rw [h]
  exact ha

section Instruction
variable {t : Tid} {vd : RIdx} {cs : PIdx} {m : VMForm} {fmt : BitVec 4} {f : FFmt} {kind : VrKind} {c : Cap} {a n e : Nat}
  {lim : Option Nat} {s s1 sa : State}

/-- The conditions under which a VR instruction starts (R157, R162). -/
structure VrReady (t : Tid) (cs : PIdx) (m : VMForm) (fmt : BitVec 4) (s1 : State) (c : Cap) (a n e : Nat) (f : FFmt) : Prop where
  powered : (s1.core t.core).lv = .powered
  operands : VmAddrOk (s1.th t) cs m
  cap : ((s1.th t).cap cs).toCap = c
  addr : vmAddr (s1.th t) cs m 0 = a
  len : ((s1.th t).g (vmCount m)).val.toNat = n
  short : n < 2 ^ 32
  format : fmt.toNat ≤ 4
  size : vrSize fmt.toNat = e
  float : vrFmt fmt.toNat = f
  boundary : (s1.th t).iter.toNat % 128 = 0
  within : (s1.th t).iter.toNat ≤ n

/-- The state in which the blocks start: with PROG 0, vd cleared after the first block's reading has been translated (R158). -/
structure VrCleared (t : Tid) (vd : RIdx) (c : Cap) (a e n : Nat) (s1 sa : State) : Prop where
  resumed : (s1.th t).iter.toNat ≠ 0 → sa = s1
  empty : (s1.th t).iter.toNat = 0 → n = 0 → sa = putVreg t vd (vrClear (s1.th t).vregs[vd.val]) s1
  first : (s1.th t).iter.toNat = 0 → n ≠ 0 → ∃ ps sx, xlateAll t c.space .read (pieces 8 a (e * min 128 n)) s1 = .ok ps sx ∧
    sa = putVreg t vd (vrClear (sx.th t).vregs[vd.val]) sx

/-- Elements of the block at PROG. -/
def vrCount (t : Tid) (s1 : State) (n : Nat) : Nat := min 128 (n - (s1.th t).iter.toNat)

theorem VrCleared.vregsOnly (hc : VrCleared t vd c a e n s1 sa) : VregsOnly t s1 sa := by
  by_cases hi : (s1.th t).iter.toNat = 0
  · by_cases hn : n = 0
    · exact hc.empty hi hn ▸ (VregsOnly.refl t s1).putVreg
    · obtain ⟨ps, sx, hx, rfl⟩ := hc.first hi hn
      exact ((VregsOnly.refl t s1).congr (xlateAll_threads hx)).putVreg
  · exact hc.resumed hi ▸ .refl t s1

theorem VrCleared.iter (hc : VrCleared t vd c a e n s1 sa) : (sa.th t).iter.toNat = (s1.th t).iter.toNat := by
  obtain ⟨w, hw⟩ := hc.vregsOnly
  rw [hw]

theorem count_passes (hr : VrReady t cs m fmt s1 c a n e f) :
    (opnd 9 .count ((s1.th t).g (vmCount m))).bad = false ∧ (opnd 9 .count ((s1.th t).g (vmCount m))).traps = false :=
  count_fine hr.operands.count 9

theorem vrStart_run (hr : VrReady t cs m fmt s1 c a n e f) : vrStart t cs m fmt s1 = .ok (n, c, a) s1 := by
  obtain ⟨hbad, htraps⟩ := count_passes hr
  have hn : decide (2 ^ 32 ≤ n) = false := decide_eq_false (Nat.not_le.mpr hr.short)
  have hcount (o : Opnd) : countFirst o false 0x10 [] s1 = .ok () s1 := countFirst_inRange nofun
  simp only [vrStart, Nat.not_lt.mpr hr.format, if_false, M.bind_run, lvReady_run hr.powered, getT_run, hr.len, hn, hcount, hbad, htraps,
    hr.boundary, Nat.not_lt.mpr hr.within, Bool.not_false, Bool.and_self, decide_false, ne_eq, not_true_eq_false, Bool.or_self,
    Bool.and_false, Bool.false_eq_true, checkOps_fine (vmOps_fine hr.operands), hr.cap, hr.addr, M.pure_run]

/-- What follows the last block: the fold of a sum into lane 127, the maximum of no elements (R158, R159). -/
def vrFinal (kind : VrKind) (n : Nat) (v : VReg) : VReg :=
  match kind with
  | .sum _ _ => v.setLane32 127 (foldLevels ((n + 127) / 128) v)
  | .max => if n = 0 then v.setLane32 127 (f32ninf, false) else v
  | .map _ _ _ => v

/-- What a VR instruction does after its last block. -/
def vrEnd (t : Tid) (vd : RIdx) (kind : VrKind) (n : Nat) : M Unit :=
  match kind with
  | .sum _ _ => do
    let v ← vget t vd
    vput t vd (v.setLane32 127 (foldLevels ((n + 127) / 128) v))
  | .max =>
    if n = 0 then do
      let v ← vget t vd
      vput t vd (v.setLane32 127 (f32ninf, false))
    else pure ()
  | .map _ _ _ => pure ()

theorem vrEnd_run (u : State) : vrEnd t vd kind n u = .ok () (putVreg t vd (vrFinal kind n (u.th t).vregs[vd.val]) u) := by
  cases kind with
  | sum usesM f => rfl
  | max =>
    rw [vrEnd, vrFinal]
    split
    · rfl
    · exact congrArg _ putVreg_self.symm
  | map usesS usesT f => exact congrArg _ putVreg_self.symm

/-- The blocks of a VR instruction and what follows them. -/
def vrBlocks (t : Tid) (vd : RIdx) (c : Cap) (a fmt : Nat) (kind : VrKind) (n : Nat) (lim : Option Nat) : M Unit := do
  vrLoop t vd c a fmt kind n (n / 128 + 1) lim
  vrEnd t vd kind n

theorem iter_eq_zero_iff {th : Thread} : th.iter = 0 ↔ th.iter.toNat = 0 := (toNat_eq_zero_iff th.iter).symm

/-- The meaning of a VR instruction: the start, the cleared register, then the blocks. -/
theorem vrOp_run (hr : VrReady t cs m fmt s1 c a n e f) (hc : VrCleared t vd c a e n s1 sa)
    (ha : 0 < vrCount t s1 n → Allowed (s1.th t) c (if kind.stores then 0x0003 else 0x0001) (a + (s1.th t).iter.toNat * e)
      (vrCount t s1 n * e) e) :
    vrOp t vd cs m fmt kind lim s1 = vrBlocks t vd c a fmt.toNat kind n lim sa := by
  have htail : vrOp t vd cs m fmt kind lim s1 = (do
      if (s1.th t).iter = 0 then
        if n ≠ 0 then
          vrChecks t c (if kind.stores then permLD + permST else permLD) a e (min 128 n)
          let _ ← xlateAll t c.space .read (pieces 8 a (e * min 128 n))
        modT t (fun h => { h with vregs := h.vregs.set vd.val (vrClear h.vregs[vd.val]) })
      vrBlocks t vd c a fmt.toNat kind n lim : M Unit) s1 := by
    rw [vrOp, M.bind_run, vrStart_run hr, ← hr.size]
    rfl
  rw [htail]
  by_cases hi : (s1.th t).iter.toNat = 0
  · by_cases hn : n = 0
    · simp only [iter_eq_zero_iff, hi, hn, hc.empty hi hn, if_true, M.bind_run, ne_eq, not_true_eq_false, if_false, modT_run]
      rfl
    · obtain ⟨ps, sx, hx, rfl⟩ := hc.first hi hn
      have hk : vrCount t s1 n = min 128 n := by rw [vrCount, hi, Nat.sub_zero]
      rw [hk, hi, Nat.zero_mul, Nat.add_zero] at ha
      have hchecks := vrChecks_run (by omega) (ha (by omega))
      have hmask : (if kind.stores then permLD + permST else permLD) = if kind.stores then 0x0003 else 0x0001 := rfl
      simp only [iter_eq_zero_iff, hi, hn, if_true, M.bind_run, ne_eq, not_false_eq_true, hmask, hchecks, hx, modT_run]
      rfl
  · simp only [iter_eq_zero_iff, hi, if_false, hc.resumed hi]

/-! ### One block (R158) -/

section Block
variable {i k : Nat} {bs out : List PByte} {s2 s3 s4 : State} {v : VReg}
  (hsize : vrSize fmt.toNat = e) (hfloat : vrFmt fmt.toNat = f) (hk : 0 < k)
  (hload : loadBytes t c.space (a + i * e) (k * e) sa = .ok bs s2) (hv : (s2.th t).vregs[vd.val] = v)
include hsize hfloat hk hload hv

theorem vrBlock_sum {usesM : Bool} {g : Nat → Nat → Nat} (ha : Allowed (sa.th t) c 0x0001 (a + i * e) (k * e) e) :
    vrBlock t vd c a fmt.toNat (.sum usesM g) i k sa = .ok () (putVreg t vd (combineAt (i / 128) 32 0 v
      (blockSum ((vrTerms fmt f e k bs).map fun x => (g x.1 (v.lane32 124).1, x.2 || (usesM && (v.lane32 124).2))))) s2) := by
  have hchecks : vrChecks t c (permLD) (a + i * e) e k sa = .ok () sa := vrChecks_run hk ha
  simp only [vrBlock, VrKind.stores, hsize, M.bind_run, hchecks, hload, vrTerms_eq hfloat, vget_run, hv, vput_run, Bool.false_eq_true, if_false]
  rfl

theorem vrBlock_max (ha : Allowed (sa.th t) c 0x0001 (a + i * e) (k * e) e) :
    vrBlock t vd c a fmt.toNat .max i k sa = .ok () (putVreg t vd (v.setLane32 127 ((vrTerms fmt f e k bs).foldl
      (fun (y x : PLane) => (fMax fp32 y.1 x.1, y.2 || x.2)) (if i = 0 then (f32ninf, false) else v.lane32 127))) s2) := by
  have hchecks : vrChecks t c (permLD) (a + i * e) e k sa = .ok () sa := vrChecks_run hk ha
  simp only [vrBlock, VrKind.stores, hsize, M.bind_run, hchecks, hload, vrTerms_eq hfloat, vget_run, hv, vput_run, Bool.false_eq_true, if_false]
  rfl


theorem vrBlock_map {usesS usesT : Bool} {g : Nat → Nat → Nat → Nat → Nat → Num}
    (ha : Allowed (sa.th t) c 0x0003 (a + i * e) (k * e) e)
    (hout : vrMapped fmt.toNat e (((List.range k).zip (vrTerms fmt f e k bs)).map fun x =>
      ((x.2.1, x.2.2 || (v.lane32 124).2 || (usesS && (v.lane32 125).2) || (usesT && (v.lane32 126).2)),
        g (i + x.1) x.2.1 (v.lane32 124).1 (v.lane32 125).1 (v.lane32 126).1)) s2 = .ok out s3)
    (hstore : Stores t c.space (a + i * e) out false s3 s4) :
    vrBlock t vd c a fmt.toNat (.map usesS usesT g) i k sa = .ok () s4 := by
  have hchecks : vrChecks t c (permLD + permST) (a + i * e) e k sa = .ok () sa := vrChecks_run hk ha
  have hzip {β : Type} (h : PLane → Nat → β) : ((vrTerms fmt f e k bs).zip (upto k)).map (fun p => h p.1 p.2) =
      ((List.range k).zip (vrTerms fmt f e k bs)).map (fun x => h x.2 x.1) := by
    rw [upto_eq_range, ← List.zip_swap (List.range k), List.map_map]
    rfl
  rw [← hzip fun x j => ((x.1, x.2 || (v.lane32 124).2 || (usesS && (v.lane32 125).2) || (usesT && (v.lane32 126).2)),
        g (i + j) x.1 (v.lane32 124).1 (v.lane32 125).1 (v.lane32 126).1)] at hout
  simp only [vrBlock, VrKind.stores, hsize, M.bind_run, hchecks, hload, vrTerms_eq hfloat, vget_run, hv, if_true, hout, hstore.run]

end Block

/-- The code stored for a result, 0 for a poisoned one. -/
def vrCode (fmt : Nat) (bad : Bool) (r : Num) : M Nat := if bad then pure 0 else vrOut fmt r

theorem vrMapped_cons (fmt e : Nat) (x : PLane) (r : Num) (ys : List (PLane × Num)) :
    vrMapped fmt e ((x, r) :: ys) = vrCode fmt x.2 r >>= fun code => vrMapped fmt e ys >>= fun bs => pure (mkBytes e code x.2 ++ bs) := by
  rw [vrMapped, vrCode]
  split <;> rfl

section Mapped
variable {ys : List (PLane × Num)}

theorem vrOut_threads {x : Num} {r : Nat} (h : vrOut fmt.toNat x sa = .ok r s3) : s3.threads = sa.threads := by
  have hpure {y : Nat} (h : (pure y : M Nat) sa = .ok r s3) : s3.threads = sa.threads := by
    obtain ⟨-, rfl⟩ := EStateM.Result.ok.inj h
    rfl
  have hdraw (h : (drawM >>= fun z => pure (z.toNat % 256) : M Nat) sa = .ok r s3) : s3.threads = sa.threads := by
    obtain ⟨-, rfl⟩ := EStateM.Result.ok.inj h
    rfl
  unfold vrOut at h
  split at h
  · split at h
    · exact hpure h
    · exact hdraw h
    · dsimp only at h
      split at h
      · exact hdraw h
      · exact hpure h
  · exact hpure h

/-- The rounding of the results of a block, E4M3 beyond its range included, reads free values only. -/
theorem vrMapped_threads (h : vrMapped fmt.toNat e ys sa = .ok out s3) : s3.threads = sa.threads := by
  induction ys generalizing out sa with
  | nil =>
    obtain ⟨-, rfl⟩ := EStateM.Result.ok.inj h
    rfl
  | cons y ys ih =>
    obtain ⟨x, r⟩ := y
    rw [vrMapped_cons] at h
    obtain ⟨code, u, hcode, h⟩ := M.bind_ok h
    obtain ⟨bs, w, hrest, h⟩ := M.bind_ok h
    obtain ⟨-, rfl⟩ := EStateM.Result.ok.inj h
    refine (ih hrest).trans ?_
    rw [vrCode] at hcode
    split at hcode
    · obtain ⟨-, rfl⟩ := EStateM.Result.ok.inj hcode
      rfl
    · exact vrOut_threads hcode

/-- The bytes of results rounded to a format, least significant first; a poisoned one is 0 (R158). -/
def vrExact (f : FFmt) (e : Nat) (ys : List (PLane × Num)) : List PByte :=
  ys.flatMap fun y => (List.range e).map fun j => (if y.1.2 then 0 else encodeF f .rne y.2 / 256 ^ j % 256, y.1.2)

/-- A format other than E4M3 stores each result rounded, a poisoned one as 0. -/
theorem vrMapped_exact (hne : fmt ≠ 3) (hfloat : vrFmt fmt.toNat = f) : vrMapped fmt.toNat e ys sa =
    .ok (vrExact f e ys) sa := by
  have h3 : fmt.toNat ≠ 3 := fun h => hne (BitVec.eq_of_toNat_eq h)
  induction ys with
  | nil => rfl
  | cons y ys ih =>
    obtain ⟨⟨x, bad⟩, r⟩ := y
    have hcode : vrCode fmt.toNat bad r sa = .ok (if bad then 0 else encodeF f .rne r) sa := by
      cases bad
      · simp only [vrCode, Bool.false_eq_true, if_false, vrOut, h3, hfloat, M.pure_run]
      · rfl
    simp only [vrMapped_cons, hcode, M.bind_run, ih, M.pure_run, mkBytes_eq, vrExact, List.flatMap_cons]
    cases bad <;> simp

end Mapped

/-! ### The loop over the blocks (R161) -/

section Loop
variable {i fuel : Nat} {u u' : State}

theorem vrLoop_step (hi : (u.th t).iter.toNat = i) (hn : i < n) (hl : lim ≠ some 0)
    (hb : vrBlock t vd c a fmt.toNat kind i (min 128 (n - i)) u = .ok () u') :
    vrLoop t vd c a fmt.toNat kind n (fuel + 1) lim u =
      vrLoop t vd c a fmt.toNat kind n fuel (lim.map (fun l => l - 1)) (afterIter t u' (i + min 128 (n - i))) := by
  simp only [vrLoop, M.bind_run, getT_run, hi, Nat.not_le.mpr hn, hl, if_false, hb, modT_run]
  rfl

theorem vrLoop_end (hi : n ≤ (u.th t).iter.toNat) : vrLoop t vd c a fmt.toNat kind n fuel lim u = .ok () u := by
  cases fuel with
  | zero => rfl
  | succ fuel => simp only [vrLoop, M.bind_run, getT_run, hi, if_true, M.pure_run]

theorem vrLoop_pause (hi : (u.th t).iter.toNat < n) : vrLoop t vd c a fmt.toNat kind n (fuel + 1) (some 0) u = .error .pause u := by
  simp only [vrLoop, M.bind_run, getT_run, Nat.not_le.mpr hi, if_false, if_true, pauseM_run]

end Loop

/-! ### The instruction: completed, or stopped after the block (R161) -/

/-- How an instruction ends whose block was the last, and how one ends that is stopped after another block: mid is vd after the
block, fin after the last one. -/
def VrEnds (t : Tid) (vd : RIdx) (ext : Bool) (n : Nat) (s1 : State) (run : Option Nat → Host.Outcome State Fault Refusal) (u : State)
    (mid fin : VReg) : Prop :=
  ((s1.th t).iter.toNat + vrCount t s1 n = n → ∀ lim ∈ [none, some 1],
    run lim = .next (done t (lenOf ext) u { u.th t with vregs := (u.th t).vregs.set vd.val fin })) ∧
  ((s1.th t).iter.toNat + vrCount t s1 n < n → ∃ w, run (some 1) = .next w ∧ (w.th t).pc = (s1.th t).pc ∧
    (w.th t).iter.toNat = (s1.th t).iter.toNat + 128 ∧ (w.th t).vregs = (u.th t).vregs.set vd.val mid ∧ (w.th t).regs = (u.th t).regs ∧
    w.slc = u.slc ∧ w.hbm = u.hbm)

section Ends
variable {u : State} {mid v : VReg}

/-- The block at PROG leaves mid in vd and the rest as in u; where there is none, u is the state in which it would start. -/
structure VrRan (t : Tid) (vd : RIdx) (c : Cap) (a fmt : Nat) (kind : VrKind) (n : Nat) (s1 sa u : State) (mid : VReg) : Prop where
  none : vrCount t s1 n = 0 → sa = putVreg t vd mid u
  block : 0 < vrCount t s1 n → vrBlock t vd c a fmt kind (s1.th t).iter.toNat (vrCount t s1 n) sa = .ok () (putVreg t vd mid u)
  same : VregsOnly t s1 u

theorem vrInstr_run {w : State} (h : Fetches t (lenOf m.isExt) m.isExt s s1)
    (hr : vrOp t vd cs m fmt kind lim s1 = .ok () w) : vrInstr t vd cs m fmt kind lim s = .next (done t (lenOf m.isExt) w (w.th t)) := by
  have hb : plain (vrOp t vd cs m fmt kind lim) (startState t true s1) = .ok none w := by rw [plain_run, startState_true, hr]
  rw [vrInstr, runInstr_ok (i := { len := lenOf m.isExt, ext := m.isExt, resumable := true }) h hb, advance_none]

theorem vrInstr_pause {w : State} (h : Fetches t (lenOf m.isExt) m.isExt s s1) (hr : vrOp t vd cs m fmt kind lim s1 = .error .pause w) :
    vrInstr t vd cs m fmt kind lim s = .next (markStop w t false m.isExt) := by
  rw [vrInstr, runInstr_run (i := { len := lenOf m.isExt, ext := m.isExt, resumable := true }) h, plain_run, startState_true, hr]

section Ran
variable (hr : VrReady t cs m fmt s1 c a n e f) (hc : VrCleared t vd c a e n s1 sa) (hb : VrRan t vd c a fmt.toNat kind n s1 sa u mid)
include hr hc hb

theorem vrLoop_last (hlast : (s1.th t).iter.toNat + vrCount t s1 n = n) (hlim : lim ≠ some 0) :
    ∃ j, vrLoop t vd c a fmt.toNat kind n (n / 128 + 1) lim sa = .ok () (afterIter t (putVreg t vd mid u) j) := by
  obtain ⟨hnone, hblock, -⟩ := hb
  have hi := hc.iter
  by_cases hk : vrCount t s1 n = 0
  · refine ⟨((putVreg t vd mid u).th t).iter.toNat, ?_⟩
    rw [afterIter_self, ← hnone hk]
    exact vrLoop_end (by omega)
  · refine ⟨n, ?_⟩
    rw [vrLoop_step (i := (s1.th t).iter.toNat) hi (by omega) hlim (hblock (by omega))]
    rw [show _ + min 128 _ = n from hlast]
    exact vrLoop_end (by rw [afterIter_th]; exact (Nat.mod_eq_of_lt hr.short).ge)

theorem vrLoop_stopped (hmore : (s1.th t).iter.toNat + vrCount t s1 n < n) :
    vrLoop t vd c a fmt.toNat kind n (n / 128 + 1) (some 1) sa =
      .error .pause (afterIter t (putVreg t vd mid u) ((s1.th t).iter.toNat + 128)) := by
  have hk : vrCount t s1 n = 128 := by
    rw [vrCount] at hmore ⊢
    omega
  rw [hk] at hmore
  have hshort := hr.short
  obtain ⟨q, hq⟩ := Nat.exists_eq_succ_of_ne_zero (show n / 128 ≠ 0 by omega)
  rw [vrLoop_step (i := (s1.th t).iter.toNat) hc.iter (by omega) (by decide) (hb.block (by omega)), hq,
    show _ + min 128 _ = (s1.th t).iter.toNat + 128 from congrArg _ hk]
  refine vrLoop_pause ?_
  rw [afterIter_th]
  exact (Nat.mod_le _ _).trans_lt hmore

/-- What the instruction does once its block has run. -/
theorem vrInstr_ends (h : Fetches t (lenOf m.isExt) m.isExt s s1)
    (ha : 0 < vrCount t s1 n → Allowed (s1.th t) c (if kind.stores then 0x0003 else 0x0001) (a + (s1.th t).iter.toNat * e)
      (vrCount t s1 n * e) e) :
    VrEnds t vd m.isExt n s1 (fun lim => vrInstr t vd cs m fmt kind lim s) u mid (vrFinal kind n mid) := by
  refine ⟨fun hlast lim hlim => ?_, fun hmore => ?_⟩
  · obtain ⟨j, hj⟩ := vrLoop_last hr hc hb hlast (lim := lim) (by rintro rfl; simp at hlim)
    have hrun : vrOp t vd cs m fmt kind lim s1 = .ok () (afterIter t (putVreg t vd (vrFinal kind n mid) u) j) := by
      rw [vrOp_run hr hc ha, vrBlocks, M.bind_run, hj]
      refine (vrEnd_run _).trans ?_
      rw [putVreg_afterIter, putVreg_putVreg]
      simp [afterIter_th]
    refine (vrInstr_run h hrun).trans (congrArg _ ?_)
    rw [afterIter_th, done_afterIter]
    exact done_putVreg (lenOf m.isExt)
  · have hrun : vrOp t vd cs m fmt kind (some 1) s1 = .error .pause (afterIter t (putVreg t vd mid u) ((s1.th t).iter.toNat + 128)) := by
      rw [vrOp_run hr hc ha, vrBlocks, M.bind_run, vrLoop_stopped hr hc hb hmore]
    have hshort := hr.short
    refine ⟨_, vrInstr_pause h hrun, ?_⟩
    obtain ⟨w, hw⟩ := hb.same
    have hword : (s1.th t).iter.toNat + 128 < 2 ^ 32 := by
      rw [vrCount] at hmore
      omega
    simp only [markStop, afterIter, State.th_setTh, putVreg_th, hw, BitVec.toNat_ofNat, Nat.mod_eq_of_lt hword, true_and]
    exact ⟨rfl, rfl⟩

end Ran

/-- A block may be loaded: the start, the access and the bytes. -/
structure VrLoaded (t : Tid) (vd : RIdx) (cs : PIdx) (m : VMForm) (fmt : BitVec 4) (s1 sa s2 : State) (c : Cap) (a n e : Nat) (f : FFmt)
    (mask : Nat) (bs : List PByte) (v : VReg) : Prop where
  ready : VrReady t cs m fmt s1 c a n e f
  cleared : VrCleared t vd c a e n s1 sa
  allowed : 0 < vrCount t s1 n → Allowed (s1.th t) c mask (a + (s1.th t).iter.toNat * e) (vrCount t s1 n * e) e
  bytes : loadBytes t c.space (a + (s1.th t).iter.toNat * e) (vrCount t s1 n * e) sa = .ok bs s2
  vector : (s2.th t).vregs[vd.val] = v

/-- The load of no bytes does nothing. -/
theorem loadBytes_zero {sp : Fin 17} {b : Nat} {bs : List PByte} {s2 : State} (h : loadBytes t sp b 0 sa = .ok bs s2) : s2 = sa := by
  obtain ⟨-, rfl⟩ := EStateM.Result.ok.inj h
  rfl

section Loaded
variable {s2 s3 s4 : State} {mask : Nat} {bs out : List PByte}

theorem VrLoaded.same (hl : VrLoaded t vd cs m fmt s1 sa s2 c a n e f mask bs v) : VregsOnly t s1 s2 :=
  hl.cleared.vregsOnly.congr (loadBytes_threads hl.bytes)

theorem VrLoaded.allowedAt (hl : VrLoaded t vd cs m fmt s1 sa s2 c a n e f mask bs v) (hk : 0 < vrCount t s1 n) :
    Allowed (sa.th t) c mask (a + (s1.th t).iter.toNat * e) (vrCount t s1 n * e) e :=
  hl.cleared.vregsOnly.allowed (hl.allowed hk)

/-- Where no element is left the register stays. -/
theorem VrLoaded.none (hl : VrLoaded t vd cs m fmt s1 sa s2 c a n e f mask bs v) (hk : vrCount t s1 n = 0) : sa = putVreg t vd v s2 := by
  have hbytes := hl.bytes
  rw [hk, Nat.zero_mul] at hbytes
  rw [← hl.vector, putVreg_self, loadBytes_zero hbytes]

/-- VNORM.SUM, VNORM.SSQ and VSMAX.SUM: the block's sum joins the levels, and their fold follows the last block (R158, R160). -/
theorem vrSum_ends {usesM : Bool} {g : Nat → Nat → Nat} {terms : List PLane} (h : Fetches t (lenOf m.isExt) m.isExt s s1)
    (hl : VrLoaded t vd cs m fmt s1 sa s2 c a n e f 0x0001 bs v)
    (hterms : (vrTerms fmt f e (vrCount t s1 n) bs).map (fun x => (g x.1 (v.lane32 124).1, x.2 || (usesM && (v.lane32 124).2))) = terms)
    (hmid : mid = if vrCount t s1 n = 0 then v else combineAt ((s1.th t).iter.toNat / 128) 32 0 v (blockSum terms)) :
    VrEnds t vd m.isExt n s1 (fun lim => vrInstr t vd cs m fmt (.sum usesM g) lim s) s2 mid
      (mid.setLane32 127 (foldLevels ((n + 127) / 128) mid)) := by
  refine vrInstr_ends hl.ready hl.cleared ⟨fun hk => ?_, fun hk => ?_, hl.same⟩ h hl.allowed
  · rw [hmid, if_pos hk, hl.none hk]
  · rw [hmid, if_neg hk.ne', ← hterms]
    exact vrBlock_sum hl.ready.size hl.ready.float hk hl.bytes hl.vector (hl.allowedAt hk)

/-- VSMAX.MAX: the maximum so far stands in lane 127; that of no elements is minus infinity (R158, R159). -/
theorem vrMax_ends (h : Fetches t (lenOf m.isExt) m.isExt s s1) (hl : VrLoaded t vd cs m fmt s1 sa s2 c a n e f 0x0001 bs v)
    (hmid : mid = if vrCount t s1 n = 0 then (if n = 0 then v.setLane32 127 (f32ninf, false) else v) else
      v.setLane32 127 ((vrTerms fmt f e (vrCount t s1 n) bs).foldl (fun (y x : PLane) => (fMax fp32 y.1 x.1, y.2 || x.2))
        (if (s1.th t).iter.toNat = 0 then (f32ninf, false) else v.lane32 127))) :
    VrEnds t vd m.isExt n s1 (fun lim => vrInstr t vd cs m fmt .max lim s) s2 mid mid := by
  by_cases hk : vrCount t s1 n = 0
  · rw [if_pos hk] at hmid
    have hends := vrInstr_ends hl.ready hl.cleared (kind := .max) (mid := v)
      ⟨hl.none, fun h => absurd hk h.ne', hl.same⟩ h hl.allowed
    refine ⟨hmid ▸ hends.1, fun hlt => ?_⟩
    rw [vrCount] at hk hlt
    omega
  · rw [if_neg hk] at hmid
    have hn : n ≠ 0 := fun hn => hk (by rw [vrCount, hn, Nat.zero_sub, Nat.min_zero])
    have hends := vrInstr_ends hl.ready hl.cleared (kind := .max) (mid := mid)
      ⟨fun h => absurd h hk, fun hk => hmid ▸ vrBlock_max hl.ready.size hl.ready.float hk hl.bytes hl.vector (hl.allowedAt hk), hl.same⟩ h
      hl.allowed
    rwa [vrFinal, if_neg hn] at hends

section InPlace
variable {usesS usesT bad : Bool} {g : Nat → Nat → Nat → Nat → Nat → Num} {g' : Nat → Nat → Num}

/-- The results of an in-place block (R158). -/
def vrResults (i k : Nat) (xs : List PLane) (bad : Bool) (g : Nat → Nat → Num) : List (PLane × Num) :=
  ((List.range k).zip xs).map fun x => ((x.2.1, x.2.2 || bad), g (i + x.1) x.2.1)

/-- The in-place forms store their results and leave vd (R158). -/
theorem vrMap_ends (h : Fetches t (lenOf m.isExt) m.isExt s s1) (hl : VrLoaded t vd cs m fmt s1 sa s2 c a n e f 0x0003 bs v)
    (hbad : ((v.lane32 124).2 || (usesS && (v.lane32 125).2) || (usesT && (v.lane32 126).2)) = bad)
    (hg : (fun j x => g j x (v.lane32 124).1 (v.lane32 125).1 (v.lane32 126).1) = g')
    (hk : 0 < vrCount t s1 n)
    (hout : vrMapped fmt.toNat e (vrResults (s1.th t).iter.toNat (vrCount t s1 n) (vrTerms fmt f e (vrCount t s1 n) bs) bad g') s2 = .ok out s3)
    (hstore : Stores t c.space (a + (s1.th t).iter.toNat * e) out false s3 s4) :
    VrEnds t vd m.isExt n s1 (fun lim => vrInstr t vd cs m fmt (.map usesS usesT g) lim s) s4 v v := by
  have hthreads : s4.threads = s2.threads := hstore.threads.trans (vrMapped_threads hout)
  have hself : putVreg t vd v s4 = s4 := by rw [← hl.vector, ← th_of_threads hthreads, putVreg_self]
  subst hbad hg
  refine vrInstr_ends hl.ready hl.cleared (kind := .map usesS usesT g)
    ⟨fun h => absurd h hk.ne', fun hk => ?_, hl.same.congr hthreads⟩ h hl.allowed
  rw [hself]
  refine vrBlock_map hl.ready.size hl.ready.float hk hl.bytes hl.vector (hl.allowedAt hk) ?_ hstore
  simpa only [vrResults, Bool.or_assoc] using hout

theorem size_of_e4m3 (hl : VrReady t cs m 3 s1 c a n e f) : e = 1 := hl.size.symm

/-- E4M3 beyond its range takes free values; every other format is rounded (R158). -/
theorem vrMap_results (h : Fetches t (lenOf m.isExt) m.isExt s s1) (hl : VrLoaded t vd cs m fmt s1 sa s2 c a n e f 0x0003 bs v)
    (hbad : ((v.lane32 124).2 || (usesS && (v.lane32 125).2) || (usesT && (v.lane32 126).2)) = bad)
    (hk : 0 < vrCount t s1 n) (hstore : Stores t c.space (a + (s1.th t).iter.toNat * e) out false s3 s4) :
    let ys := vrResults (s1.th t).iter.toNat (vrCount t s1 n) (vrTerms fmt f e (vrCount t s1 n) bs) bad
      (fun j x => g j x (v.lane32 124).1 (v.lane32 125).1 (v.lane32 126).1)
    (fmt ≠ 3 → out = vrExact f e ys → s3 = s2 →
      VrEnds t vd m.isExt n s1 (fun lim => vrInstr t vd cs m fmt (.map usesS usesT g) lim s) s4 v v) ∧
    (fmt = 3 → vrMapped 3 1 ys s2 = .ok out s3 →
      VrEnds t vd m.isExt n s1 (fun lim => vrInstr t vd cs m fmt (.map usesS usesT g) lim s) s4 v v) := by
  refine ⟨fun h3 hout hs => ?_, fun h3 hout => ?_⟩
  · subst hs hout
    exact vrMap_ends h hl hbad rfl hk (vrMapped_exact h3 hl.ready.float) hstore
  · subst h3
    obtain rfl := size_of_e4m3 hl.ready
    exact vrMap_ends h hl hbad rfl hk hout hstore

/-- With no element left nothing is stored. -/
theorem vrMap_ends_none (h : Fetches t (lenOf m.isExt) m.isExt s s1) (hl : VrLoaded t vd cs m fmt s1 sa s2 c a n e f 0x0003 bs v)
    (hk : vrCount t s1 n = 0) : VrEnds t vd m.isExt n s1 (fun lim => vrInstr t vd cs m fmt (.map usesS usesT g) lim s) s2 v v :=
  vrInstr_ends hl.ready hl.cleared (kind := .map usesS usesT g) ⟨hl.none, fun h => absurd hk h.ne', hl.same⟩ h hl.allowed

end InPlace

end Loaded

end Ends

/-! ### What VR instructions refuse (R157, R159, R162) -/

section Refused
variable {d : Nat}

/-- What the start refuses, every VR instruction takes. -/
theorem vr_refused (h : Fetches t (lenOf m.isExt) m.isExt s s1) (hs : vrStart t cs m fmt s1 = .error (.exc ⟨12, d, 0⟩) s1) :
    (∀ kind lim, vrInstr t vd cs m fmt kind lim s = .next (takeTrap t ⟨12, d, 0, false, m.isExt, false, false⟩ s1)) ∧
    execVlossXent t vd cs m fmt s = .next (takeTrap t ⟨12, d, 0, false, m.isExt, false, false⟩ s1) := by
  refine ⟨fun kind lim => ?_, ?_⟩
  · refine runInstr_exc (i := { len := lenOf m.isExt, ext := m.isExt, resumable := true }) (e := ⟨12, d, 0⟩) h ?_
    rw [plain_run, startState_true, vrOp, M.bind_run, hs]
  · refine runInstr_exc (i := { len := lenOf m.isExt, ext := m.isExt, resumable := true }) (e := ⟨12, d, 0⟩) h ?_
    rw [plain_run, startState_true, M.bind_run, hs]

theorem vrStart_badFormat (hf : 4 < fmt.toNat) : vrStart t cs m fmt s1 = .error (.exc ⟨12, 0, 0⟩) s1 := by
  simp only [vrStart, hf, if_true, M.bind_run]
  rfl

theorem vrStart_badProg (hf : fmt.toNat ≤ 4) (hp : (s1.core t.core).lv = .powered) (hok : VmAddrOk (s1.th t) cs m)
    (hn : ((s1.th t).g (vmCount m)).val.toNat < 2 ^ 32)
    (hi : (s1.th t).iter.toNat % 128 ≠ 0 ∨ ((s1.th t).g (vmCount m)).val.toNat < (s1.th t).iter.toNat) :
    vrStart t cs m fmt s1 = .error (.exc ⟨12, 0x61, 0⟩) s1 := by
  obtain ⟨hbad, htraps⟩ := count_fine hok.count 9
  have hn' : decide (2 ^ 32 ≤ ((s1.th t).g (vmCount m)).val.toNat) = false := decide_eq_false (Nat.not_le.mpr hn)
  have hcount (o : Opnd) : countFirst o false 0x10 [] s1 = .ok () s1 := countFirst_inRange nofun
  have hprog : (decide ((s1.th t).iter.toNat % 128 ≠ 0) || decide (((s1.th t).g (vmCount m)).val.toNat < (s1.th t).iter.toNat)) = true := by
    simpa using hi
  simp only [vrStart, Nat.not_lt.mpr hf, if_false, M.bind_run, lvReady_run hp, getT_run, hn', hcount, hbad, htraps, hprog, Bool.not_false,
    Bool.and_self, if_true]
  rfl

end Refused

/-! ### VLOSS.XENT (R158, R159) -/

section Xent
variable {v : VReg} {s2 : State} {bs : List PByte}

/-- The loss of one element: (ln s + m) − x, with the poison of its operands (R158). -/
def xentLane (fmt : BitVec 4) (f : FFmt) (v : VReg) (bs : List PByte) : PLane :=
  (fSub fp32 .rne (fAdd fp32 .rne (fln (v.lane32 125).1) (v.lane32 124).1) (if fmt = 0 then bytesVal bs else fCvt f fp32 .rne (bytesVal bs)),
    bs.any (fun b => b.2) || (v.lane32 124).2 || (v.lane32 125).2 || (v.lane32 126).2)

/-- vd with the loss in lane 127, cleared before at PROG 0 (R158). -/
def xentReg (fmt : BitVec 4) (f : FFmt) (i : Nat) (v : VReg) (bs : List PByte) : VReg :=
  (if i = 0 then vrClear v else v).setLane32 127 (xentLane fmt f v bs)

theorem vlossXent_ok (h : Fetches t (lenOf m.isExt) m.isExt s s1) (hr : VrReady t cs m fmt s1 c a n e f)
    (hv : (s1.th t).vregs[vd.val] = v) (ht : (v.lane32 126).1 < n)
    (ha : Allowed (s1.th t) c 0x0001 (a + (v.lane32 126).1 * e) e e) (halign : a % e = 0)
    (hload : loadBytes t c.space (a + (v.lane32 126).1 * e) e s1 = .ok bs s2) :
    execVlossXent t vd cs m fmt s = .next (done t (lenOf m.isExt) s2
      { s2.th t with vregs := (s2.th t).vregs.set vd.val (xentReg fmt f (s1.th t).iter.toNat v bs) }) := by
  obtain ⟨href, hret, hperm, hlo, hhi, -⟩ := ha
  have hret' : c.has permRET = false := hret
  have hperm' : capPerms c permLD a s1 = .ok () s1 := by rw [capPerms, if_pos (show c.has permLD = true from hperm), M.pure_run]
  have hrange : (decide ((v.lane32 126).1 < n) && (decide (a + (v.lane32 126).1 * e < c.base) ||
      decide (c.top < a + (v.lane32 126).1 * e + e))) = false := by
    simp
    omega
  have hiter : (s2.th t).iter.toNat = (s1.th t).iter.toNat := by rw [th_of_threads (loadBytes_threads hload) t]
  rw [execVlossXent, runInstr_ok (i := { len := lenOf m.isExt, ext := m.isExt, resumable := true }) (target := none)
    (s2 := putVreg t vd (xentReg fmt f (s1.th t).iter.toNat v bs) s2) h, advance_none]
  · exact congrArg _ (done_putVreg (lenOf m.isExt))
  · simp only [plain_run, startState_true, M.bind_run, vrStart_run hr, vget_run, hv, hr.size, capUse_run href, hret', Bool.false_eq_true,
      if_false, hperm', hrange, halign, ne_eq, not_true_eq_false, Nat.not_le.mpr ht, hload, getT_run, iter_eq_zero_iff,
      hiter, vrIn_eq hr.float, vput_run]
    rfl

/-- An index beyond the elements is an ARITH (R159). -/
theorem vlossXent_beyond (h : Fetches t (lenOf m.isExt) m.isExt s s1) (hr : VrReady t cs m fmt s1 c a n e f)
    (ht : n ≤ ((s1.th t).vregs[vd.val].lane32 126).1) (ha : Allowed (s1.th t) c 0x0001 a 0 e) :
    execVlossXent t vd cs m fmt s = .next (takeTrap t ⟨14, 2, 0, false, m.isExt, false, false⟩ s1) := by
  obtain ⟨href, hret, hperm, -, -, halign⟩ := ha
  have hret' : c.has permRET = false := hret
  have hperm' : capPerms c permLD a s1 = .ok () s1 := by rw [capPerms, if_pos (show c.has permLD = true from hperm), M.pure_run]
  refine runInstr_exc (i := { len := lenOf m.isExt, ext := m.isExt, resumable := true }) (e := ⟨14, 2, 0⟩) h ?_
  simp only [plain_run, startState_true, M.bind_run, vrStart_run hr, vget_run, hr.size, capUse_run href, hret', Bool.false_eq_true,
    if_false, hperm', Nat.not_lt.mpr ht, decide_false, Bool.false_and, halign, ne_eq, not_true_eq_false, ht, if_true]
  rfl

end Xent

end Instruction

/-! ### The obligation -/

section Terms
variable (xs : List PLane) (a b c : Bool)

/-- The terms of a sum that takes no lane 124 keep the marks of the elements. -/
theorem map_unpoisoned (g : Nat → Nat) : (xs.map fun x => (g x.1, x.2 || (false && b))) = xs.map fun x => (g x.1, x.2) := by
  simp only [Bool.false_and, Bool.or_false]

theorem map_unpoisoned_id : (xs.map fun x => (x.1, x.2 || (false && b))) = xs := by
  rw [map_unpoisoned xs b fun x => x]
  exact List.map_id xs

theorem marks_lane124 : (a || (false && b) || (false && c)) = a := by simp

theorem marks_lanes124_125 : (a || (true && b) || (false && c)) = (a || b) := by simp

end Terms

theorem vrSize_eq : ∀ fmt : BitVec 4, fmt.toNat ≤ 4 → vrSize fmt.toNat = [4, 2, 2, 1, 1].getD fmt.toNat 1 := by decide

theorem vrFmt_eq {fmt : BitVec 4} (h : fmt.toNat ≤ 4) : vrFmt fmt.toNat = [fp32, bf16, fp16, e4m3, e5m2].getD fmt.toNat fp32 := by
  generalize fmt.toNat = x at h
  interval_cases x <;> rfl

/-- Settles O40: the block of a sum, of the maximum or of an in-place form, then the instruction's end or its stop; and what is refused. -/
theorem vectorReductions : Obligations.VectorReductions := by
  intro t vd cs m fmt s s1 h hp th c a r n i0 k e f rx trap clear ends htag hn hun hrx
  have hok : VmAddrOk th cs m := ⟨hun, hrx, htag⟩
  refine ⟨fun hf hb hle => ?_, fun hf hprog lim => ?_, fun hf lim => ?_⟩
  · have hr : VrReady t cs m fmt s1 c a n e f := ⟨hp, hok, rfl, rfl, rfl, hn, hf, vrSize_eq fmt hf, vrFmt_eq hf, hb, hle⟩
    clear_value e f
    refine ⟨?_, ?_⟩
    · intro store sa s2 bs hclear ha hload code xs v pm ps pt sum ex
      have hcl : VrCleared t vd c a e n s1 sa := ⟨hclear.2.1, hclear.1, hclear.2.2⟩
      refine ⟨?_, ?_, ?_, ?_⟩
      · rintro rfl
        have hl : VrLoaded t vd cs m fmt s1 sa s2 c a n e f 0x0001 bs v := ⟨hr, hcl, ha, hload, rfl⟩
        exact ⟨vrSum_ends h hl (map_unpoisoned_id _ _) rfl,
          vrSum_ends h hl (map_unpoisoned _ _ fun x => fMul fp32 .rne x x) rfl, vrSum_ends h hl rfl rfl⟩
      · rintro rfl
        have hl : VrLoaded t vd cs m fmt s1 sa s2 c a n e f 0x0001 bs v := ⟨hr, hcl, ha, hload, rfl⟩
        exact vrMax_ends h hl rfl
      · rintro rfl out s3 s4 hstore hk
        have hl : VrLoaded t vd cs m fmt s1 sa s2 c a n e f 0x0003 bs v := ⟨hr, hcl, ha, hload, rfl⟩
        exact ⟨vrMap_results h hl (usesS := false) (usesT := false) (g := fun _ x p _ _ => (f32 x).mul (f32 p))
            (marks_lane124 _ _ _) hk hstore,
          vrMap_results h hl (usesS := true) (usesT := false) (g := fun _ x p q _ => f32 (fDiv fp32 .rne (expTerm x p) q))
            (marks_lanes124_125 _ _ _) hk hstore,
          vrMap_results h hl (usesS := true) (usesT := true) (g := fun i x p q ti =>
            f32 (fSub fp32 .rne (fDiv fp32 .rne (expTerm x p) q) (if i = ti then f32one else f32zero))) rfl hk hstore⟩
      · rintro rfl hk
        have hl : VrLoaded t vd cs m fmt s1 sa s2 c a n e f 0x0003 bs v := ⟨hr, hcl, ha, hload, rfl⟩
        simp only [List.forall_mem_cons, List.not_mem_nil, IsEmpty.forall_iff, implies_true, and_true]
        exact ⟨vrMap_ends_none h hl hk, vrMap_ends_none h hl hk, vrMap_ends_none h hl hk⟩
    · intro v ti
      exact ⟨fun bs s2 hti ha halign hload => vlossXent_ok h hr rfl hti ha halign hload, fun hti ha => vlossXent_beyond h hr hti ha⟩
  · obtain ⟨hall, hxent⟩ := vr_refused (vd := vd) h (vrStart_badProg hf hp hok hn hprog)
    exact ⟨hall _ lim, hall _ lim, hall _ lim, hxent⟩
  · obtain ⟨hall, hxent⟩ := vr_refused (vd := vd) h (vrStart_badFormat (cs := cs) (m := m) hf)
    exact ⟨hall _ lim, hall _ lim, hxent⟩

end Sys2Proof.Machine
end

/-!
PROOFS, 35. Conversions: what the tensor record, the conversion and the tiles of a destination leave alone (R168, R200, R220).
-/

section
namespace Sys2Proof.Machine

/-! ### The tensor record: a translation that gives an address, and the read (R220, R250) -/

theorem ptMachineCheck_sliceKeep (s : State) (epa : Nat) : SliceKeep s (ptMachineCheck s epa) :=
  ⟨by simp [ptMachineCheck], by simp [ptMachineCheck], by simp [ptMachineCheck],
    State.dev_log _ _ _ _ _ (fun k hk => devKey_ne _ _ _ _ (by decide) hk (.inl (by decide)))
      (devKey_ne _ _ _ _ (by decide) (by decide) (.inl (by decide)))⟩

theorem walkFrom_sliceKeep (n : Fin 17) (va f level node : Nat) (s : State) : SliceKeep s (walkFrom s n va f level node).1 := by
  induction f generalizing s level node with
  | zero => exact .refl s
  | succ f ih =>
    have hread (pa : Nat) : SliceKeep s (readWord s n.val pa).1 := readWord_sliceKeep ..
    have hleaf {c : Prop} [Decidable c] (pa : Nat) (x y : Walk) :
        SliceKeep s (if c then ((readWord s n.val pa).1, x) else ((readWord s n.val pa).1, y)).1 := by
      split <;> exact hread pa
    rw [walkFrom]
    dsimp only
    split
    · exact .refl s
    split
    · exact (ptMachineCheck_sliceKeep ..).after (hread _)
    split
    · exact hread _
    · split
      · exact hread _
      · exact (ih ..).after (hread _)
    · exact hleaf ..
    · exact hleaf ..
    · exact hleaf ..
    · exact hread _

theorem walk_sliceKeep (s : State) (n : Fin 17) (va : Nat) : SliceKeep s (walk s n va).1 := by
  unfold walk
  split
  · exact .refl s
  · exact walkFrom_sliceKeep ..

theorem setAccDirty_sliceKeep (s : State) (n : Fin 17) (epa e : Nat) (write : Bool) : SliceKeep s (setAccDirty s n epa e write) :=
  .ite (.refl s) (writeWord_sliceKeep ..)

/-- A thread's translation that gives an address is the walk and the update of its entry: all else makes the thread wait or fault. -/
theorem translate_ok {s : State} {n : Fin 17} {va pa : Nat} {k : AccKind} {t : Tid} {alt : Bool}
    (h : (translate s n va k (.thread t) alt).2 = .ok pa) :
    ∃ epa e w, (translate s n va k (.thread t) alt).1 = setAccDirty (walk s n va).1 n epa e w := by
  revert h
  unfold translate
  dsimp only
  split
  · nofun
  · nofun
  split
  · split
    · nofun
    · nofun
    · nofun
    split
    · split
      · exact fun _ => ⟨_, _, _, rfl⟩
      · nofun
    · split
      · nofun
      · split <;> nofun
  split
  · nofun
  split
  · split
    · nofun
    · split <;> nofun
  split
  · nofun
  · exact fun _ => ⟨_, _, _, rfl⟩

theorem xlate_sliceKeep {t : Tid} {n : Fin 17} {va pa : Nat} {k : AccKind} {s u : State} (h : xlate t n va k s = .ok pa u) : SliceKeep s u := by
  unfold xlate at h
  dsimp only at h
  split at h
  next he =>
    obtain ⟨-, rfl⟩ := EStateM.Result.ok.inj h
    obtain ⟨epa, e, w, hw⟩ := translate_ok he
    rw [hw]
    exact (setAccDirty_sliceKeep ..).after (walk_sliceKeep ..)
  all_goals nomatch h

theorem readTensor_sliceKeep {t : Tid} {d : Fmt} {rcd : Nat} {s u : State} (h : readTensor t d s = .ok rcd u) : SliceKeep s u := by
  rw [readTensor] at h
  split at h
  · obtain ⟨-, rfl⟩ := EStateM.Result.ok.inj h
    exact .refl s
  · obtain ⟨s0, s1, h0, h⟩ := M.bind_ok h
    obtain ⟨rfl, rfl⟩ := EStateM.Result.ok.inj h0
    obtain ⟨pa, v, hx, h⟩ := M.bind_ok h
    simp only [M.bind_run, getS_run, setS_run] at h
    split at h
    · nomatch h
    · obtain ⟨-, rfl⟩ := EStateM.Result.ok.inj h
      exact (sliceRead_sliceKeep ..).after (xlate_sliceKeep hx)

/-! ### The conversion: counters only (R232, R235) -/

theorem attempts_length {f : Nat → List RunOut} {m : Nat} (h : ∀ k, (f k).length = m) (n k : Nat) : (attempts f n k).2.length = m := by
  induction n generalizing k with
  | zero => exact h k
  | succ n ih =>
    rw [attempts]
    split
    · exact ih (k + 1)
    · exact h k

theorem convertRows_sliceKeep {t : Tid} {d : Fmt} {rcd source : Nat} {sA sB : Num} {rows : List CvtRow} {rowNos : List Nat} {s u : State}
    {r : CvtOut} (h : convertRows t d rcd sA sB rows source rowNos s = .ok r u) : SliceKeep s u ∧ r.rows.length = rows.length := by
  obtain ⟨hr, hu⟩ := EStateM.Result.ok.inj h
  subst hr hu
  have hcount (v : State) (a k m : Nat) (hk : k < 256) := count_sliceKeep v a k m hk
  refine ⟨?_, attempts_length (fun k => List.length_map _) 4 0⟩
  exact .ite (hcount _ _ _ _ (by decide)) ((hcount _ _ _ _ (by decide)).after ((hcount _ _ _ _ (by decide)).after (hcount _ _ _ _ (by decide))))

/-! ### The tiles of a destination (R168, R199, R200) -/

/-- Two states that differ in the tile registers of a core and in the count of free values only, as far as threads and partitions go. -/
structure TilesOnly (c : CoreId) (s u : State) : Prop where
  threads : u.threads = s.threads
  parts : (u.core c).parts = (s.core c).parts

theorem TilesOnly.refl (c : CoreId) (s : State) : TilesOnly c s s := ⟨rfl, rfl⟩

theorem TilesOnly.trans {c : CoreId} {s u w : State} (h1 : TilesOnly c s u) (h2 : TilesOnly c u w) : TilesOnly c s w :=
  ⟨h2.threads.trans h1.threads, h2.parts.trans h1.parts⟩

/-- A meaning that always ends well and touches tile registers only. -/
def RunsOnTiles (t : Tid) (m : M Unit) : Prop := ∀ s, ∃ u, m s = .ok () u ∧ TilesOnly t.core s u

section Tiles
variable {t : Tid}

theorem RunsOnTiles.pure : RunsOnTiles t (pure ()) := fun s => ⟨s, rfl, .refl t.core s⟩

theorem RunsOnTiles.bind {m : M Unit} {f : Unit → M Unit} (hm : RunsOnTiles t m) (hf : RunsOnTiles t (f ())) : RunsOnTiles t (m >>= f) := by
  intro s
  obtain ⟨u, hu, hsu⟩ := hm s
  obtain ⟨w, hw, huw⟩ := hf u
  exact ⟨w, by rw [M.bind_run, hu]; exact hw, hsu.trans huw⟩

theorem RunsOnTiles.forM {α : Type} {f : α → M Unit} (hf : ∀ x, RunsOnTiles t (f x)) (l : List α) : RunsOnTiles t (l.forM f) := by
  induction l with
  | nil => exact .pure
  | cons x l ih => exact (hf x).bind ih

/-- A tile register computed from itself. -/
theorem updateTile_runs (p : Nat) (f : Tile → Tile) : RunsOnTiles t (do
    let v ← getTile t p
    putTile t p (f v)) := fun s => by
  refine ⟨_, rfl, rfl, ?_⟩
  rw [State.core_setCore]

theorem scaleRow_runs (p r : Nat) (o : RunOut) : RunsOnTiles t (do
    let v ← getTile t p
    let left := v.rowBytes - o.scales.length
    let g ← runS (drawBits ((left + 3) / 4))
    putTile t p (v.setRow r ⟨packBits 8 o.scales + g % 256 ^ left * 256 ^ o.scales.length, 0⟩)) := fun s => by
  refine ⟨_, rfl, ?_, ?_⟩
  · show (drawBits _ s).2.threads = s.threads
    rw [drawBits_eq]
  · show ((drawBits _ s).2.setCore _ _ |>.core t.core).parts = _
    rw [State.core_setCore, drawBits_eq]
    rfl

theorem putOut_runs (c r : Nat) (dregs : List Nat) (dscale : Option Nat) (o : RunOut) : RunsOnTiles t (putOut t c r dregs dscale o) := by
  refine (RunsOnTiles.forM (fun (x : Nat × Nat) => updateTile_runs x.1 _) _).bind ?_
  cases dscale with
  | none => exact .pure
  | some p => exact scaleRow_runs p r o

/-- A row of a tile register of the thread's core written. -/
def putTileRow (t : Tid) (p r : Nat) (x : TRow) (s : State) : State :=
  s.setCore t.core { s.core t.core with tiles := Tab.put (s.core t.core).tiles p (((s.core t.core).tile p).setRow r x) }

theorem putTileRow_row (p r i : Nat) (x : TRow) (s : State) :
    (((putTileRow t p r x s).core t.core).tile p).row i = if i = r then x else ((s.core t.core).tile p).row i := by
  rw [putTileRow, putTile_tile, Tile.row, Tile.setRow]
  split
  · subst i
    exact Tab.getD_put ..
  · exact Tab.getD_put_ne _ _ _ _ _ ‹_›

/-- With one member and no block scales the elements go to its row. -/
theorem putOut_one (c r p : Nat) (o : RunOut) (s : State) :
    putOut t c r [p] none o s = .ok () (putTileRow t p r (outRow c o.elems) s) := by
  have hall : slice o.elems (0 * (o.elems.length / max 1 1)) (o.elems.length / max 1 1) = o.elems := by simp [slice]
  have hrun : putOut t c r [p] none o s =
      .ok () (putTileRow t p r (outRow c (slice o.elems (0 * (o.elems.length / max 1 1)) (o.elems.length / max 1 1))) s) := rfl
  rw [hrun, hall]

/-- Rows of a tile register written one after another. -/
def putTileRows (t : Tid) (p c : Nat) (l : List (Nat × RunOut)) (s : State) : State :=
  l.foldl (fun u x => putTileRow t p x.1 (outRow c x.2.elems) u) s

theorem putOuts_one (c p : Nat) (l : List (Nat × RunOut)) (s : State) :
    l.forM (fun x => putOut t c x.1 [p] none x.2) s = .ok () (putTileRows t p c l s) := by
  induction l generalizing s with
  | nil => rfl
  | cons x l ih =>
    show (putOut t c x.1 [p] none x.2 >>= fun _ => l.forM fun x => putOut t c x.1 [p] none x.2) s = _
    rw [M.bind_run, putOut_one]
    exact ih _

theorem putTileRows_row_of_notMem {p c i : Nat} {l : List (Nat × RunOut)} (h : i ∉ l.map Prod.fst) (s : State) :
    (((putTileRows t p c l s).core t.core).tile p).row i = ((s.core t.core).tile p).row i := by
  induction l generalizing s with
  | nil => rfl
  | cons x l ih =>
    obtain ⟨hx, hl⟩ := List.ne_and_not_mem_of_not_mem_cons h
    exact (ih hl _).trans ((putTileRow_row ..).trans (if_neg hx))

theorem putTileRows_row {p c : Nat} {l : List (Nat × RunOut)} (h : (l.map Prod.fst).Nodup) (s : State) :
    ∀ x ∈ l, (((putTileRows t p c l s).core t.core).tile p).row x.1 = outRow c x.2.elems := by
  induction l generalizing s with
  | nil => nofun
  | cons y l ih =>
    obtain ⟨hy, hl⟩ := List.nodup_cons.mp h
    intro x hx
    rcases List.mem_cons.mp hx with rfl | hx
    · exact (putTileRows_row_of_notMem hy _).trans ((putTileRow_row ..).trans (if_pos rfl))
    · exact ih hl _ x hx

end Tiles

/-! ### Threads that wait for tiles go on (R180) -/

/-- What a thread does not wait with stays. -/
theorem wakeTiles_keep {γ : Type} (g : Thread → γ) (hg : ∀ (th : Thread) x y, g { th with status := x, waitsWith := y } = g th) (s : State)
    (c : CoreId) (t : Tid) : g ((wakeTiles s c).th t) = g (s.th t) := by
  refine foldl_keep _ _ (fun u : State => g (u.th t)) (fun st i => ?_) s
  dsimp only
  split
  · by_cases hi : i = t
    · subst hi
      rw [State.th_setTh, hg]
    · rw [State.th_setTh_ne _ _ _ _ hi]
  · rfl

/-! ### A readout (R199, R200, R213) -/

section Readout
variable {t : Tid} {rfd : RIdx} {wd : Word} {rcd source : Nat} {scales : Num × Num} {rows : List CvtRow} {dst dregs : List Nat}
  {dscale : Option Nat} {s v : State} {r : CvtOut}

/-- A conversion that ends well writes its rows, then the descriptor. -/
theorem readout_converts (hp : (fmtOf wd).probe = false)
    (hc : convertRows t (fmtOf wd) rcd scales.1 scales.2 rows source dst s = .ok r v) (hex : r.exhausted = none) (hlen : rows.length = dst.length) :
    ∃ w, readout t rfd wd rcd scales rows dst source dregs dscale s =
        .ok none (w.setTh t ((w.th t).write rfd ⟨fmtWriteBack wd r.scale r.retry, .fmt⟩)) ∧
      TilesOnly t.core v w ∧
      ∀ p, dregs = [p] → dscale = none → dst.Nodup → ∀ x ∈ dst.zip r.rows,
        ((w.core t.core).tile p).row x.1 = outRow (fmtOf wd).format x.2.elems := by
  have hruns : RunsOnTiles t ((dst.zip r.rows).forM fun x => putOut t (fmtOf wd).format x.1 dregs dscale x.2) :=
    .forM (fun (x : Nat × RunOut) => putOut_runs (fmtOf wd).format x.1 dregs dscale x.2) _
  obtain ⟨w, hw, htiles⟩ := hruns v
  refine ⟨w, ?_, htiles, fun p hd hs hnodup => ?_⟩
  · simp only [readout, hp, Bool.false_eq_true, if_false, M.bind_run, hc, hex, hw, wr_run, M.pure_run]
  · subst hd hs
    rw [putOuts_one] at hw
    obtain ⟨-, rfl⟩ := EStateM.Result.ok.inj hw
    refine putTileRows_row ?_ v
    rwa [List.map_fst_zip (by rw [(convertRows_sliceKeep hc).2, hlen])]

/-- An exhausted one clears its tiles and answers its detail word (R234). -/
theorem readout_exhausted {detail : Nat} (hp : (fmtOf wd).probe = false)
    (hc : convertRows t (fmtOf wd) rcd scales.1 scales.2 rows source dst s = .ok r v) (hex : r.exhausted = some detail) :
    ∃ w, readout t rfd wd rcd scales rows dst source dregs dscale s = .ok (some detail) w ∧ TilesOnly t.core v w := by
  have hruns : RunsOnTiles t ((dregs ++ dscale.toList).forM fun p => do
      let v ← getTile t p
      putTile t p v.cleared) := .forM (fun p => updateTile_runs p Tile.cleared) _
  obtain ⟨w, hw, htiles⟩ := hruns v
  refine ⟨w, ?_, htiles⟩
  simp only [readout, hp, Bool.false_eq_true, if_false, M.bind_run, hc, hex]
  rw [hw]
  rfl

end Readout

end Sys2Proof.Machine
end

/-!
PROOFS, 36. TMMA.CVT, TMMA.CVT.F, TRDA.CVT and VCVT (R152, R199 to R201, R213, R217, R234).
-/

section
namespace Sys2Proof.Machine

/-! ### Operands and waits -/

section Waits
variable {t : Tid} {u : State}

theorem fmt_fine {r : Reg} (h : r.tag = .fmt) (slot : Nat) : (opnd slot .fmt r).Fine :=
  opnd_fine (by rw [h]; rfl) (by rw [h]; decide)

theorem waitTile_free {p : Nat} (h : tileBusy (u.core t.core) p = false) : waitTile t p u = .ok () u := by
  simp only [waitTile, M.bind_run, getC_run, h, Bool.false_eq_true, if_false, M.pure_run]

theorem waitTiles_free {l : List Nat} (h : ∀ p ∈ l, tileBusy (u.core t.core) p = false) : l.forM (waitTile t) u = .ok () u := by
  induction l with
  | nil => rfl
  | cons p l ih =>
    obtain ⟨hp, hl⟩ := List.forall_mem_cons.mp h
    show (waitTile t p >>= fun _ => l.forM (waitTile t)) u = _
    rw [M.bind_run, waitTile_free hp]
    exact ih hl

theorem finishQueue_idle {p : Nat} {c : CoreId} (h : ((u.core c).part p).queue = []) (n : Nat) : finishQueue c p n u = u := by
  cases n with
  | zero => rfl
  | succ n => rw [finishQueue, h]

theorem full_idle {pt : Partition} (h : pt.queue = []) : pt.full = false := by
  rw [Partition.full, h]
  rfl

end Waits

/-! ### TMMA.CVT and TMMA.CVT.F (R200, R201) -/

section Mma
variable {t : Tid} {td ta tb : MIdx} {bank : Fin 2} {fa fb fd : RIdx} {wa wb wd : Word} {pl : PassPlan} {rcd : Nat} {s s1 s2 s4 : State}
  {fused : Bool} {r : CvtOut}

/-- A converting pass may be performed: descriptors, checks, free tiles, an idle partition, and the tensor record. -/
structure CvtPass (t : Tid) (td ta tb : MIdx) (bank : Fin 2) (fa fb fd : RIdx) (wa wb wd : Word) (pl : PassPlan) (rcd : Nat) (s1 s2 : State) :
    Prop where
  a : Holds (s1.th t) fa wa .fmt
  b : Holds (s1.th t) fb wb .fmt
  d : Holds (s1.th t) fd wd .fmt
  plan : passPlan t ta tb bank wa wb (some (td, wd)) (begun t s1) = .ok pl (begun t s1)
  free : ∀ p ∈ pl.dregs ++ pl.dscale.toList, tileBusy (s1.core t.core) p = false
  idle : ((s1.core t.core).part pl.part).queue = []
  probe : (fmtOf wd).probe = false
  record : readTensor t (fmtOf wd) (begun t s1) = .ok rcd s2

/-- The bank after a converting pass; TMMA.CVT.F starts from zeroed rows (R201). -/
def cvtBank (k : Core) (pl : PassPlan) (bank : Fin 2) (fused : Bool) : Bank :=
  passInto k pl.width pl.pass
    (if fused then ((k.part pl.part).bank bank).zeroRows pl.pass.liveRows else (k.part pl.part).bank bank)

/-- The state after a converting pass, its rows zeroed again by TMMA.CVT.F (R201). -/
def cvtPassed (t : Tid) (pl : PassPlan) (bank : Fin 2) (fused : Bool) (s2 : State) : State :=
  let k := s2.core t.core
  let pt := k.part pl.part
  let b1 := cvtBank k pl bank fused
  wakeTiles ((countPass s2 pt pl.pass).setCore t.core (k.setPart pl.part
    (pt.setBank bank (if fused then b1.zeroRows pl.pass.liveRows else b1)))) t.core

/-- The conversion that follows the pass. -/
def cvtReadout (t : Tid) (fd : RIdx) (wd : Word) (rcd : Nat) (pl : PassPlan) (bank : Fin 2) (fused : Bool) (s2 : State) : M (Option Nat) :=
  let b1 := cvtBank (s2.core t.core) pl bank fused
  readout t fd wd rcd (bankScales b1) (bankRows b1 pl.width pl.pass.liveRows 0 pl.width) pl.pass.liveRows (if fused then 3 else 2) pl.dregs
    pl.dscale

/-- SCALE_EXHAUSTED where the exception is selected (R234). -/
def raiseExhausted : Option Nat → M Unit
  | some detail => raise vecScaleExhausted detail 0
  | none => pure ()

theorem core_of_cores {s u : State} (h : u.cores = s.cores) (c : CoreId) : u.core c = s.core c := by rw [State.core, State.core, h]

theorem mmaCvt_run (hc : CvtPass t td ta tb bank fa fb fd wa wb wd pl rcd s1 s2) :
    mmaCvt t td ta tb bank fa fb fd fused (begun t s1) =
      (cvtReadout t fd wd rcd pl bank fused s2 >>= raiseExhausted) (cvtPassed t pl bank fused s2) := by
  obtain ⟨ha, hb, hd, hplan, hfree, hidle, hprobe, hrecord⟩ := hc
  have hfine : ∀ o ∈ [opnd 2 .fmt ⟨wa, .fmt⟩, opnd 3 .fmt ⟨wb, .fmt⟩, opnd 0xA .fmt ⟨wd, .fmt⟩], o.Fine := by
    simpa using And.intro (fmt_fine rfl 2) (And.intro (fmt_fine rfl 3) (fmt_fine rfl 0xA))
  have hga : ((begun t s1).th t).g fa = ⟨wa, .fmt⟩ := g_begun.trans ha
  have hgb : ((begun t s1).th t).g fb = ⟨wb, .fmt⟩ := g_begun.trans hb
  have hgd : ((begun t s1).th t).g fd = ⟨wd, .fmt⟩ := g_begun.trans hd
  have hcore : s2.core t.core = s1.core t.core := core_of_cores (readTensor_sliceKeep hrecord).cores t.core
  have hfull : (((begun t s1).core t.core).part pl.part).full = false := full_idle hidle
  have hqueue : finishQueue t.core pl.part 3 s2 = s2 := finishQueue_idle (by rw [hcore, hidle]) 3
  have hcount : (countPass s2 ((s2.core t.core).part pl.part) pl.pass).core t.core = s2.core t.core :=
    core_of_cores (State.count_cores ..) t.core
  simp only [mmaCvt, M.bind_run, greg_run, hga, hgb, hgd, checkOps_fine hfine, hplan, waitTiles_free (u := begun t s1) hfree, getC_run, hfull,
    hprobe, hrecord, modS_run, hqueue, hcount, modC_run, Bool.false_eq_true, if_false]
  rfl

/-- The passes and the record leave the thread's place and registers. -/
theorem cvtPassed_keep {γ : Type} (g : Thread → γ) (hg : ∀ (th : Thread) x y, g { th with status := x, waitsWith := y } = g th)
    (hc : CvtPass t td ta tb bank fa fb fd wa wb wd pl rcd s1 s2) :
    g ((cvtPassed t pl bank fused s2).th t) = g { s1.th t with iter := 0 } := by
  have hcount (s : State) (pt : Partition) (q : Pass) (k : Core) : ((countPass s pt q).setCore t.core k).th t = s.th t :=
    th_of_threads (State.count_threads ..) t
  rw [cvtPassed, wakeTiles_keep g hg, hcount, th_of_threads (readTensor_sliceKeep hc.record).threads, begun_th]

/-- The instruction in its two forms. -/
theorem exec_mmaCvt : exec (if fused then .tmmaCvtF t td ta tb bank fa fb fd else .tmmaCvt t td ta tb bank fa fb fd) s =
    runInstr t { self := some (if fused then .tmmaCvtF td ta tb bank fa fb fd else .tmmaCvt td ta tb bank fa fb fd) }
      (plain (mmaCvt t td ta tb bank fa fb fd fused)) s := by
  cases fused <;> rfl

section Converted
variable (h : Fetches t 4 false s s1) (hc : CvtPass t td ta tb bank fa fb fd wa wb wd pl rcd s1 s2)
  (hconv : convertRows t (fmtOf wd) rcd (bankScales (cvtBank (s2.core t.core) pl bank fused)).1
    (bankScales (cvtBank (s2.core t.core) pl bank fused)).2
    (bankRows (cvtBank (s2.core t.core) pl bank fused) pl.width pl.pass.liveRows 0 pl.width) (if fused then 3 else 2) pl.pass.liveRows
    (cvtPassed t pl bank fused s2) = .ok r s4)
include h hc hconv

theorem mmaCvt_converts (hex : r.exhausted = none) :
    ∃ u, exec (if fused then .tmmaCvtF t td ta tb bank fa fb fd else .tmmaCvt t td ta tb bank fa fb fd) s = .next u ∧
      (u.th t).pc = (s1.th t).pc + 4 ∧ (u.th t).g fd = ⟨fmtWriteBack wd r.scale r.retry, .fmt⟩ ∧
      (u.core t.core).parts = ((cvtPassed t pl bank fused s2).core t.core).parts ∧
      ∀ p, pl.dregs = [p] → pl.dscale = none → ∀ x ∈ pl.pass.liveRows.zip r.rows, x.1 < 128 → pl.pass.liveRows.Nodup →
        ((u.core t.core).tile p).row x.1 = outRow (fmtOf wd).format x.2.elems := by
  have hkeep := (convertRows_sliceKeep hconv).1
  obtain ⟨w, hrun, htiles, hrows⟩ := readout_converts (rfd := fd) (dregs := pl.dregs) (dscale := pl.dscale) hc.probe hconv hex (List.length_map _)
  have hbody : mmaCvt t td ta tb bank fa fb fd fused (begun t s1) = .ok ()
      (w.setTh t ((w.th t).write fd ⟨fmtWriteBack wd r.scale r.retry, .fmt⟩)) := by
    rw [mmaCvt_run hc, M.bind_run, cvtReadout, hrun]
    rfl
  have hpc : (w.th t).pc = (s1.th t).pc := by
    rw [th_of_threads (htiles.threads.trans hkeep.threads), cvtPassed_keep Thread.pc (fun _ _ _ => rfl) hc]
  refine ⟨_, exec_mmaCvt.trans (runInstr_done h rfl hbody), ?_, ?_, ?_, fun p hd hs x hx _ hnodup => hrows p hd hs hnodup x hx⟩
  · rw [done, State.th_setTh, State.th_setTh, Thread.write_pc, hpc]
    rfl
  · rw [done, State.th_setTh, State.th_setTh]
    exact Thread.g_write ..
  · exact htiles.parts.trans (congrArg Core.parts (core_of_cores hkeep.cores t.core))

theorem mmaCvt_exhausted {detail : Nat} (hex : r.exhausted = some detail) :
    ∃ u, exec (if fused then .tmmaCvtF t td ta tb bank fa fb fd else .tmmaCvt t td ta tb bank fa fb fd) s =
        .next (takeTrap t ⟨15, detail, 0, false, false, false, false⟩ u) ∧
      (u.th t).pc = (s1.th t).pc ∧ (u.th t).g fd = (s1.th t).g fd := by
  have hkeep := (convertRows_sliceKeep hconv).1
  obtain ⟨w, hrun, htiles⟩ := readout_exhausted (rfd := fd) (dregs := pl.dregs) (dscale := pl.dscale) hc.probe hconv hex
  have hbody : mmaCvt t td ta tb bank fa fb fd fused (begun t s1) = .error (.exc ⟨15, detail, 0⟩) w := by
    rw [mmaCvt_run hc, M.bind_run, cvtReadout, hrun]
    rfl
  have hplain : plain (mmaCvt t td ta tb bank fa fb fd fused) (startState t false s1) = .error (.exc ⟨15, detail, 0⟩) w := by
    rw [plain_run, startState_begun, hbody]
  have hth : w.th t = (cvtPassed t pl bank fused s2).th t := th_of_threads (htiles.threads.trans hkeep.threads) t
  refine ⟨w, exec_mmaCvt.trans (runInstr_exc (i := { self := _ }) (e := ⟨15, detail, 0⟩) h hplain), ?_, ?_⟩
  · rw [hth, cvtPassed_keep Thread.pc (fun _ _ _ => rfl) hc]
  · rw [hth, cvtPassed_keep (Thread.g · fd) (fun _ _ _ => rfl) hc, g_withIter]

end Converted

end Mma

/-! ### TRDA.CVT (R199) -/

section Trda
variable {t : Tid} {td : MIdx} {bank : Fin 2} {fd ro : RIdx} {wd v : Word} {g : TileGroup} {i p rcd : Nat} {s s1 s2 s4 : State} {r : CvtOut}

theorem roffOf_eq (v : Word) : roffOf v = (v.toNat % 128, v.toNat / 2 ^ 16 % 512) := by
  have hrow : fld v.toNat 6 0 = v.toNat % 128 := congrArg (· % 128) (Nat.div_one _)
  exact Prod.ext hrow rfl

/-- A rectangle of a bank may be converted into a member: descriptor, shape, no pass before it, and the tensor record. -/
structure CvtRectangle (t : Tid) (td : MIdx) (bank : Fin 2) (fd ro : RIdx) (wd v : Word) (g : TileGroup) (i p rcd : Nat) (s1 s2 : State) :
    Prop where
  descriptor : Holds (s1.th t) fd wd .fmt
  offset : Holds (s1.th t) ro v .int
  group : (s1.th t).group = some g
  part : g.part = some i
  member : g.members[td.val]? = some p
  format : fmtReadout (fmtOf wd).format = true
  whole : ((s1.core t.core).tile p).rowBytes * 8 % fmtStore (fmtOf wd).format = 0
  rows : v.toNat % 128 + ((s1.core t.core).tile p).rows ≤ 128
  columns : v.toNat / 2 ^ 16 % 512 + ((s1.core t.core).tile p).rowBytes * 8 / fmtStore (fmtOf wd).format ≤ ((s1.core t.core).part i).width
  plain : (fmtOf wd).mx = false
  idle : ∀ q ∈ ((s1.core t.core).part i).queue, q.bank ≠ bank
  free : tileBusy (s1.core t.core) p = false
  probe : (fmtOf wd).probe = false
  record : readTensor t (fmtOf wd) (begun t s1) = .ok rcd s2

theorem waitBank_free (hidle : ∀ q ∈ ((s1.core t.core).part i).queue, q.bank ≠ bank) (hfree : tileBusy (s1.core t.core) p = false) :
    waitBank t i bank p (begun t s1) = .ok () (begun t s1) := by
  have hnone : (((begun t s1).core t.core).part i).queue.any (fun q => q.bank == bank) = false :=
    List.any_eq_false.mpr fun q hq => by simpa using hidle q hq
  have hwait : waitTile t p (begun t s1) = .ok () (begun t s1) := waitTile_free hfree
  simp only [waitBank, M.bind_run, getC_run, hnone, Bool.false_eq_true, if_false, hwait]

/-- The conversion of a rectangle. -/
def rectangleReadout (t : Tid) (bank : Fin 2) (fd : RIdx) (wd v : Word) (i p rcd : Nat) (k : Core) : M (Option Nat) :=
  let x := k.tile p
  let bk := (k.part i).bank bank
  readout t fd wd rcd (bankScales bk) (bankRows bk (k.part i).width ((List.range x.rows).map (fun j => v.toNat % 128 + j))
    (v.toNat / 2 ^ 16 % 512) (x.rowBytes * 8 / fmtStore (fmtOf wd).format)) (List.range x.rows) 1 [p] none

theorem trdaCvt_run (h : Fetches t 4 false s s1) (hc : CvtRectangle t td bank fd ro wd v g i p rcd s1 s2) :
    exec (.trdaCvt t td bank fd ro) s =
      simple t (do
        let rcd ← readTensor t (fmtOf wd)
        rectangleReadout t bank fd wd v i p rcd (s1.core t.core) >>= raiseExhausted) s := by
  obtain ⟨hdesc, hoff, hgroup, hpart, hmember, hformat, hwhole, hrows, hcols, hmx, hidle, hfree, hprobe, hrecord⟩ := hc
  have hfine : ∀ o ∈ [opnd 2 .fmt ⟨wd, .fmt⟩, opnd 3 .index ⟨v, .int⟩], o.Fine :=
    List.forall_mem_cons.mpr ⟨fmt_fine rfl 2, List.forall_mem_singleton.mpr (index_fine rfl 3)⟩
  have hgd : ((begun t s1).th t).g fd = ⟨wd, .fmt⟩ := g_begun.trans hdesc
  have hgo : ((begun t s1).th t).g ro = ⟨v, .int⟩ := g_begun.trans hoff
  have hcore : (begun t s1).core t.core = s1.core t.core := rfl
  have hnoScales : (Option.toList (none : Option Nat)).forM (waitTile t) (begun t s1) = .ok () (begun t s1) := rfl
  rw [exec_trdaCvt, execTrdaCvt]
  refine simple_congr h ?_
  simp only [M.bind_run, greg_run, hgd, hgo, checkOps_fine hfine, thePart_run hgroup hpart, memberOf_run hgroup 2 hmember, getTile_begun,
    hformat, hwhole, roffOf_eq, getC_run, hcore, Nat.not_lt.mpr hrows, Nat.not_lt.mpr hcols, decide_false, Bool.or_self, hmx,
    waitBank_free hidle hfree, hnoScales, Bool.not_true, Bool.false_eq_true, if_false, ne_eq, not_true_eq_false, M.pure_run, upto_eq_range]
  rfl

theorem trdaCvt_converts (h : Fetches t 4 false s s1) (hc : CvtRectangle t td bank fd ro wd v g i p rcd s1 s2)
    (hconv : let x := (s1.core t.core).tile p
      let bk := ((s1.core t.core).part i).bank bank
      convertRows t (fmtOf wd) rcd (bankScales bk).1 (bankScales bk).2
        (bankRows bk ((s1.core t.core).part i).width ((List.range x.rows).map (fun j => v.toNat % 128 + j)) (v.toNat / 2 ^ 16 % 512)
          (x.rowBytes * 8 / fmtStore (fmtOf wd).format)) 1 (List.range x.rows) s2 = .ok r s4)
    (hex : r.exhausted = none) :
    ∃ u, exec (.trdaCvt t td bank fd ro) s = .next u ∧ (u.th t).pc = (s1.th t).pc + 4 ∧
      (u.th t).g fd = ⟨fmtWriteBack wd r.scale r.retry, .fmt⟩ ∧ (u.core t.core).parts = (s1.core t.core).parts ∧
      ∀ y ∈ (List.range ((s1.core t.core).tile p).rows).zip r.rows,
        ((u.core t.core).tile p).row y.1 = outRow (fmtOf wd).format y.2.elems := by
  have hkeep := (readTensor_sliceKeep hc.record).trans (convertRows_sliceKeep hconv).1
  obtain ⟨w, hrun, htiles, hrows⟩ := readout_converts (rfd := fd) (dregs := [p]) (dscale := none) hc.probe hconv hex
    ((List.length_map _).trans (List.length_map _))
  have hpc : (w.th t).pc = (s1.th t).pc := by rw [th_of_threads (htiles.threads.trans hkeep.threads), begun_th]
  refine ⟨_, (trdaCvt_run h hc).trans (simple_ok h (v := w.setTh t ((w.th t).write fd ⟨fmtWriteBack wd r.scale r.retry, .fmt⟩)) ?_),
    ?_, ?_, ?_, hrows p rfl rfl List.nodup_range⟩
  · rw [M.bind_run, hc.record]
    show (rectangleReadout t bank fd wd v i p rcd (s1.core t.core) >>= raiseExhausted) s2 = _
    rw [M.bind_run, rectangleReadout, hrun]
    rfl
  · rw [done, State.th_setTh, State.th_setTh, Thread.write_pc, hpc]
    rfl
  · rw [done, State.th_setTh, State.th_setTh]
    exact Thread.g_write ..
  · exact htiles.parts.trans (congrArg Core.parts (core_of_cores hkeep.cores t.core))

end Trda

/-! ### VCVT (R152, R209, R217) -/

section Vcvt
variable {t : Tid} {vd vs1 rs2 : RIdx} {w : Word} {rcd : Nat} {s s1 s2 s3 : State} {r : CvtOut}

/-- The descriptor of VCVT is one that it takes. -/
theorem vcvtDesc_run {widen : Bool} (hw : Holds (s1.th t) rs2 w .fmt) (h0 : (fmtOf w).format ≠ 0) (h13 : (fmtOf w).format ≠ 13)
    (h14 : (fmtOf w).format ≠ 14) (h15 : widen = true → (fmtOf w).format ≠ 15) :
    vcvtDesc t rs2 widen (begun t s1) = .ok (w, fmtOf w) (begun t s1) := by
  have hg : ((begun t s1).th t).g rs2 = ⟨w, .fmt⟩ := g_begun.trans hw
  have hfine : ∀ o ∈ [opnd 2 .fmt ⟨w, .fmt⟩], o.Fine := List.forall_mem_singleton.mpr (fmt_fine rfl 2)
  have hlast : (widen && (fmtOf w).format == 15) = false := by
    cases widen with
    | false => rfl
    | true => simpa using h15 rfl
  simp only [vcvtDesc, M.bind_run, greg_run, hg, checkOps_fine hfine, h0, h13, h14, hlast, decide_false, Bool.or_self, Bool.false_eq_true,
    if_false, M.pure_run]

/-- The lanes that VCVT narrows. -/
def narrowRows (v : VReg) : List CvtRow := [(0, (vLanes v 32).map (fun x => (decodeF fp32 x.1, x.2)))]

theorem vcvtNarrow_converts (h : Fetches t 4 false s s1) (hp : (s1.core t.core).lv = .powered) (hw : Holds (s1.th t) rs2 w .fmt)
    (h0 : (fmtOf w).format ≠ 0) (h13 : (fmtOf w).format ≠ 13) (h14 : (fmtOf w).format ≠ 14) (hprobe : (fmtOf w).probe = false)
    (hrecord : readTensor t (fmtOf w) (begun t s1) = .ok rcd s2)
    (hconv : convertRows t (fmtOf w) rcd numOne numOne (narrowRows (s1.th t).vregs[vs1.val]) 0 [] s2 = .ok r s3) (hex : r.exhausted = none) :
    ∃ u, exec (.vcvtNarrow t vd vs1 rs2) s = .next u ∧ (u.th t).pc = (s1.th t).pc + 4 ∧
      (u.th t).g rs2 = ⟨fmtWriteBack w r.scale r.retry, .fmt⟩ ∧ ∃ o, r.rows = [o] ∧
      (u.th t).vregs[vd.val] = packedReg (fmtStore (fmtOf w).format) o.elems (packBits 8 o.scales * 2 ^ (8 * 508)) := by
  obtain ⟨hkeep, hlen⟩ := convertRows_sliceKeep hconv
  obtain ⟨o, ho⟩ := List.length_eq_one_iff.mp hlen
  have hth : s3.th t = { s1.th t with iter := 0 } := by
    rw [th_of_threads ((readTensor_sliceKeep hrecord).trans hkeep).threads, begun_th]
  have hv : ((begun t s1).th t).vregs[vs1.val] = (s1.th t).vregs[vs1.val] := by rw [begun_th]
  let x := putVreg t vd (packedReg (fmtStore (fmtOf w).format) o.elems (packBits 8 o.scales * 2 ^ (8 * 508))) s3
  have hrun : exec (.vcvtNarrow t vd vs1 rs2) s =
      .next (done t 4 (x.setTh t ((x.th t).write rs2 ⟨fmtWriteBack w r.scale r.retry, .fmt⟩))
        ((x.setTh t ((x.th t).write rs2 ⟨fmtWriteBack w r.scale r.retry, .fmt⟩)).th t)) := by
    rw [exec_vcvtNarrow, execVcvtNarrow, lvInstr_powered h hp]
    refine simple_ok h ?_
    rw [narrowRows, ← hv] at hconv
    simp only [M.bind_run, vcvtDesc_run hw h0 h13 h14 (widen := false) nofun, vget_run, hrecord, hprobe, Bool.false_eq_true, if_false, hconv, hex,
      ho, vput_run]
    rfl
  refine ⟨_, hrun, ?_, ?_, o, ho, ?_⟩
  · rw [done, State.th_setTh, State.th_setTh, Thread.write_pc, putVreg_th, hth]
    rfl
  · rw [done, State.th_setTh, State.th_setTh]
    exact Thread.g_write ..
  · rw [done, State.th_setTh, State.th_setTh, Thread.write_vregs, putVreg_th]
    exact Vector.getElem_set_self ..

/-- The element of a lane that VCVT widens, without block scales. -/
def widenLane (d : Fmt) (v : VReg) (j : Nat) : PLane :=
  (widenElem d (elemNum d.format false (v.bits.toNat / 2 ^ (fmtStore d.format * j) % 2 ^ fmtStore d.format)),
    spanPoison v.poison.toNat (fmtStore d.format * j) (fmtStore d.format))

theorem vcvtWiden_run (h : Fetches t 4 false s s1) (hp : (s1.core t.core).lv = .powered) (hw : Holds (s1.th t) rs2 w .fmt)
    (h0 : (fmtOf w).format ≠ 0) (h13 : (fmtOf w).format ≠ 13) (h14 : (fmtOf w).format ≠ 14) (h15 : (fmtOf w).format ≠ 15)
    (hmx : (fmtOf w).mx = false) : exec (.vcvtWiden t vd vs1 rs2) s = .next (done t 4 s1 { s1.th t with
      vregs := (s1.th t).vregs.set vd.val (vFromLanes 32 ((List.range 128).map (widenLane (fmtOf w) (s1.th t).vregs[vs1.val]))) }) := by
  have hv : ((begun t s1).th t).vregs[vs1.val] = (s1.th t).vregs[vs1.val] := by rw [begun_th]
  rw [exec_vcvtWiden, execVcvtWiden]
  refine lvInstr_vput h hp ?_
  simp only [M.bind_run, vcvtDesc_run hw h0 h13 h14 (widen := true) (fun _ => h15), vget_run, hv, hmx, Bool.false_eq_true, if_false,
    Bool.false_and, Bool.or_false, upto_eq_range]
  rfl

/-- A lane without poison holds its element (R213). -/
theorem widenLane_lane {d : Fmt} {v : VReg} {j : Nat} (hj : j < 128) {c : PLane}
    (hc : (vLanes (vFromLanes 32 ((List.range 128).map (widenLane d v))) 32)[j]? = some c) (hclean : c.2 = false) :
    c.1 = (widenLane d v j).1 := by
  rw [vLanes_eq] at hc
  simp only [List.getElem?_map, List.getElem?_range, show j < 4096 / 32 from hj, Option.map_some, Option.some.injEq] at hc
  subst hc
  have hlane := vFromLanes_lane (w := 32) (by decide) ((List.range 128).map (widenLane d v)) (k := j) (by omega)
  have hbad : (vFromLanes 32 ((List.range 128).map (widenLane d v))).poison.toNat.testBit (32 * j / 64) = false := hclean
  have hget : ((List.range 128).map (widenLane d v)).getD j (0, false) = widenLane d v j := by
    rw [List.getD_eq_getElem _ _ (by simpa using hj), List.getElem_map, List.getElem_range]
  rw [hbad, if_neg Bool.false_ne_true, hget, Nat.mod_eq_of_lt (show (widenLane d v j).1 < 2 ^ 32 from encodeF_fp32_lt ..)] at hlane
  rw [vLane, BitVec.toNat_ofNat, hlane]

end Vcvt

/-! ### The obligation -/

/-- Settles O36: a converting pass, a rectangle of a bank and a vector register go through `convertRows`, whose rows and descriptor are
written back. -/
theorem conversions : Obligations.Conversions := by
  intro t s s1 h th b
  refine ⟨?_, ?_, ?_⟩
  · intro td ta tb bank fa fb fd wa wb wd pl rcd s2 fused ha hb hd hplan hfree hidle hprobe hrecord q k pt b0 b1 s3 r s4 hconv i
    have hc : CvtPass t td ta tb bank fa fb fd wa wb wd pl rcd s1 s2 := ⟨ha, hb, hd, hplan, hfree, hidle, hprobe, hrecord⟩
    exact ⟨mmaCvt_converts h hc hconv, fun detail hex => mmaCvt_exhausted h hc hconv hex⟩
  · intro td bank fd ro wd v g i p rcd s2 s4 r hd ho hg hpart hp k x d e n bk r0 c0 hformat hwhole hrows hcols hmx hidle hfree hprobe hrecord
      hconv hex
    exact trdaCvt_converts h ⟨hd, ho, hg, hpart, hp, hformat, hwhole, hrows, hcols, hmx, hidle, hfree, hprobe, hrecord⟩ hconv hex
  · intro vd vs1 rs2 w hw hlv d h0 h13 h14
    refine ⟨fun rcd s2 s3 r hprobe hrecord hconv hex => vcvtNarrow_converts h hlv hw h0 h13 h14 hprobe hrecord hconv hex, fun h15 hmx => ?_⟩
    refine ⟨_, vcvtWiden_run h hlv hw h0 h13 h14 h15 hmx, ?_, ?_, fun j hj => ?_⟩
    · rw [done, State.th_setTh]
      rfl
    · rw [done, State.th_setTh]
    · intro e _ c hc hclean
      rw [done, State.th_setTh, Vector.getElem_set_self] at hc
      exact widenLane_lane hj hc hclean

end Sys2Proof.Machine
end

/-!
PROOFS, 37. The tile registers of a core across the memory accesses of its threads (R165, R291).
-/

section
namespace Sys2Proof.Machine

/-! ### Tile registers across memory accesses (R165, R291) -/

/-- The tile registers of a core. -/
def tilesOf (c : CoreId) (s : State) : Tab Tile := (s.core c).tiles

section Accesses
variable {t : Tid} {c : CoreId}

theorem SliceKeep.tiles {s u : State} (h : SliceKeep s u) : tilesOf c u = tilesOf c s := congrArg Core.tiles (core_of_cores h.cores c)

theorem setL1_tiles (s : State) (l : Tab CLine) : tilesOf c (setL1 s c l) = tilesOf c s := by
  rw [tilesOf, setL1, State.core_setCore, tilesOf]

theorem count_tiles (s : State) (a k n : Nat) : tilesOf c (s.count a k n) = tilesOf c s :=
  congrArg Core.tiles (core_of_cores (State.count_cores ..) c)

theorem sliceRead_tiles (s : State) (ln sectors : Nat) (ac : Acc) : tilesOf c (sliceRead s ln sectors ac) = tilesOf c s :=
  (sliceRead_sliceKeep ..).tiles

theorem writeBack_tiles (s : State) (ln : Nat) (l : CLine) : tilesOf c (writeBack s ln l) = tilesOf c s :=
  (writeBack_sliceKeep ..).tiles

theorem l1Room_tiles (s : State) (ln : Nat) : tilesOf c (l1Room s c ln) = tilesOf c s := by
  unfold l1Room
  dsimp only
  split
  · rfl
  split
  · rfl
  · rw [writeBack_tiles, setL1_tiles]
    rfl

theorem l1Match_tiles (s : State) (ep : Option Nat) (ln : Nat) : tilesOf c (l1Match s c ep ln) = tilesOf c s := by
  unfold l1Match
  split
  · rfl
  split
  · rfl
  · rw [setL1_tiles, writeBack_tiles]

theorem l1Read_tiles (s : State) (ep : Option Nat) (ln sectors n : Nat) (ac : Acc) :
    tilesOf c (l1Read s c ep ln sectors n ac).1 = tilesOf c s := by
  unfold l1Read
  dsimp only
  refine ite_keep (f := fun r : State × Full => tilesOf c r.1) ?_ (ite_keep (f := fun r : State × Full => tilesOf c r.1) ?_ ?_)
  · rw [count_tiles, sliceRead_tiles]
  · split
    · rw [count_tiles, l1Match_tiles]
    · rw [l1Match_tiles]
  · rw [setL1_tiles]
    refine ite_keep (f := tilesOf c) ?_ ?_
    · rw [count_tiles, sliceRead_tiles, l1Match_tiles]
    · rw [l1Room_tiles, count_tiles, sliceRead_tiles, l1Match_tiles]

theorem xlateAll_sliceKeep {n : Fin 17} {k : AccKind} {l : List (Nat × Nat)} {ps : List (Nat × Nat × Nat)} {s u : State}
    (h : xlateAll t n k l s = .ok ps u) : SliceKeep s u := by
  induction l generalizing ps s with
  | nil =>
    obtain ⟨-, rfl⟩ := EStateM.Result.ok.inj h
    exact .refl s
  | cons p l ih =>
    obtain ⟨pa, s1, h1, h⟩ := M.bind_ok h
    obtain ⟨r, s2, h2, h⟩ := M.bind_ok h
    obtain ⟨-, rfl⟩ := EStateM.Result.ok.inj h
    exact (xlate_sliceKeep h1).trans (ih h2)

theorem readPieces_tiles {n : Fin 17} {ps : List (Nat × Nat × Nat)} {bs : List PByte} {s u : State}
    (h : readPieces t n ps s = .ok bs u) : tilesOf t.core u = tilesOf t.core s := by
  induction ps generalizing bs s with
  | nil =>
    obtain ⟨-, rfl⟩ := EStateM.Result.ok.inj h
    rfl
  | cons p ps ih =>
    rw [readPieces] at h
    dsimp only at h
    split at h
    next h1 =>
      obtain ⟨-, rfl⟩ := EStateM.Result.ok.inj h
      rw [ih h1, l1Read_tiles]
    next => nomatch h

theorem loadBytes_tiles {n : Fin 17} {va len : Nat} {bs : List PByte} {s u : State} (h : loadBytes t n va len s = .ok bs u) :
    tilesOf t.core u = tilesOf t.core s := by
  obtain ⟨ps, s1, hx, hr⟩ := M.bind_ok h
  rw [readPieces_tiles hr, (xlateAll_sliceKeep hx).tiles]

theorem prefetchSector_tiles (s : State) (ep : Option Nat) (n : Fin 17) (a pa : Nat) :
    tilesOf t.core (prefetchSector s t ep n a pa) = tilesOf t.core s := by
  unfold prefetchSector
  exact ite_keep rfl (l1Read_tiles ..)

theorem prefetchRun_tiles (ep : Option Nat) (c : Cap) (st : Int) (f a page : Nat) (s : State) :
    tilesOf t.core (prefetchRun t ep c st f a page s) = tilesOf t.core s := by
  induction f generalizing a page s with
  | zero => rfl
  | succ f ih =>
    unfold prefetchRun
    dsimp only
    split
    · rfl
    split
    · rfl
    next p _ =>
      have hgo : tilesOf t.core (if p.1 = page then (true, s) else if !p.2.1 then (false, s) else
          (bit (drawFree s).1.toNat 0, (drawFree s).2)).2 = tilesOf t.core s :=
        ite_keep (f := fun r : Bool × State => tilesOf t.core r.2) rfl (ite_keep (f := fun r : Bool × State => tilesOf t.core r.2) rfl rfl)
      exact ite_keep (by rw [ih, prefetchSector_tiles, hgo]) hgo

theorem prefetchAfter_tiles (s : State) (ep : Option Nat) (c : Cap) (va : Nat) :
    tilesOf t.core (prefetchAfter s t ep c va) = tilesOf t.core s := by
  unfold prefetchAfter
  dsimp only
  split
  · rfl
  split
  · rfl
  · exact prefetchRun_tiles ..

/-- A read by a thread leaves the tile registers of its core. -/
theorem demandBytes_tiles {c : Cap} {va len : Nat} {bs : List PByte} {s u : State} (h : demandBytes t c va len s = .ok bs u) :
    tilesOf t.core u = tilesOf t.core s := by
  obtain ⟨v, hv, rfl | rfl⟩ := demandBytes_loadBytes h
  · exact loadBytes_tiles hv
  · rw [prefetchAfter_tiles, loadBytes_tiles hv]

end Accesses

end Sys2Proof.Machine
end

/-!
PROOFS, 38. TLD, TLD.ALL and TST (R166, R168, R176 to R179).
-/

section
namespace Sys2Proof.Machine

/-! ### One row (R168, R176, R179) -/

/-- A tile register of the thread's core replaced. -/
def putTileReg (t : Tid) (p : Nat) (x : Tile) (u : State) : State :=
  u.setCore t.core { u.core t.core with tiles := Tab.put (u.core t.core).tiles p x }

/-- Marks joined one by one: a bit is set where it was, or where a marked byte lies in its 4-byte word. -/
theorem joinMarks_testBit (l : List (PByte × Nat)) (m j : Nat) :
    (l.foldl (fun (m : Nat) x => if x.1.2 then Nat.lor m (2 ^ (x.2 / 4)) else m) m).testBit j =
      (m.testBit j || l.any (fun x => x.1.2 && decide (x.2 / 4 = j))) := by
  induction l generalizing m with
  | nil => simp
  | cons x l ih =>
    rw [List.foldl_cons, ih, List.any_cons, ← Bool.or_assoc]
    congr 1
    cases x.1.2
    · simp
    · simp only [if_true, Bool.true_and]
      rw [show Nat.lor m (2 ^ (x.2 / 4)) = m ||| 2 ^ (x.2 / 4) from rfl, Nat.testBit_or, Nat.testBit_two_pow]

/-- A 4-byte word with a marked byte is poisoned (R168). -/
theorem rowOfBytes_poison {bs : List PByte} {i : Nat} (h : (bs.getD i (0, false)).2 = true) :
    (rowOfBytes bs).poison.testBit (i / 4) = true := by
  have hi : i < bs.length := by
    by_contra hlen
    rw [List.getD_eq_default _ _ (Nat.le_of_not_lt hlen)] at h
    nomatch h
  rw [List.getD_eq_getElem _ _ hi] at h
  rw [rowOfBytes, joinMarks_testBit, upto_eq_range, Nat.zero_testBit, Bool.false_or]
  refine List.any_eq_true.mpr ⟨(bs[i], i), List.mem_iff_getElem.mpr ⟨i, by simpa using hi, by simp⟩, ?_⟩
  rw [h, decide_eq_true rfl, Bool.and_self]

section Rows
variable {t : Tid} {p a r : Nat} {c : Cap} {w w1 u : State} {bs : List PByte}

/-- A row that may be read is written into the tile as it is after the read. -/
theorem loadRow_run (ha : Allowed (w.th t) c 0x0001 a ((w.core t.core).tile p).rowBytes 4)
    (hd : demandBytes t c a ((w.core t.core).tile p).rowBytes w = .ok bs u) :
    loadRow t p c a r w = .ok () (putTileReg t p (((w.core t.core).tile p).setRow r (rowOfBytes bs)) u) := by
  have ha' : Allowed (w.th t) c permLD a ((w.core t.core).tile p).rowBytes 4 := ha
  have hget (v : State) : getTile t p v = .ok ((v.core t.core).tile p) v := rfl
  have htile : (u.core t.core).tile p = (w.core t.core).tile p := congrArg (Tab.getD · p _) (demandBytes_tiles hd)
  simp only [loadRow, M.bind_run, hget, dataChecks_run ha', hd, htile, putTile, modC_run]
  rfl

theorem rowBytesOf_eq (n : Nat) (x : TRow) :
    rowBytesOf n x = (List.range n).map (fun i => (x.data / 256 ^ i % 256, x.poison.testBit (i / 4))) := by
  simp only [rowBytesOf, upto_eq_range, bit_eq_testBit]

/-- A valid row whose place can be written is stored with its marks. -/
theorem storeRow_run {ps : List (Nat × Nat × Nat)} (ha : Allowed (w.th t) c 0x0002 a ((w.core t.core).tile p).rowBytes 4)
    (hv : ((w.core t.core).tile p).rowValid r = true)
    (hx : xlateAll t c.space .write (pieces 8 a ((w.core t.core).tile p).rowBytes) w = .ok ps w1)
    (hs : Stores t c.space a (rowBytesOf ((w.core t.core).tile p).rowBytes (((w.core t.core).tile p).row r)) false w1 u) :
    storeRow t p c a r w = .ok () u := by
  have ha' : Allowed (w.th t) c permST a ((w.core t.core).tile p).rowBytes 4 := ha
  have hget : getTile t p w = .ok ((w.core t.core).tile p) w := rfl
  simp only [storeRow, M.bind_run, hget, dataChecks_run ha', hx, hv, Bool.not_true, Bool.false_eq_true, if_false, hs.run]

end Rows

/-! ### Row after row (R177 to R179) -/

section Loops
variable {t : Tid} {p rows n : Nat} {c : Cap} {addr : Nat → Nat} {act : Nat → M Unit} {w u : State} {q : Nat → State}

/-- The states before each row of a TLD: a valid row is left, another is read with its number in the iteration counter (R177). -/
structure TldChain (t : Tid) (p : Nat) (c : Cap) (addr : Nat → Nat) (q : Nat → State) (rows : Nat) : Prop where
  kept : ∀ r < rows, (((q r).core t.core).tile p).rowValid r = true → q (r + 1) = q r
  read : ∀ r < rows, (((q r).core t.core).tile p).rowValid r = false → loadRow t p c (addr r) r (afterIter t (q r) r) = .ok () (q (r + 1))

/-- TLD goes through the rows that are left. -/
theorem tldRows_chain (h : TldChain t p c addr q rows) {f r : Nat} (hf : r + f = rows) :
    tldRows t p c addr rows f r none (q r) = .ok () (q rows) := by
  induction f generalizing r with
  | zero =>
    rw [Nat.add_zero] at hf
    rw [hf]
    rfl
  | succ f ih =>
    have hr : r < rows := by omega
    have hrest := ih (r := r + 1) (by omega)
    have hget : getTile t p (q r) = .ok (((q r).core t.core).tile p) (q r) := rfl
    cases hv : (((q r).core t.core).tile p).rowValid r with
    | true =>
      rw [h.kept r hr hv] at hrest
      simp only [tldRows, M.bind_run, hget, Nat.not_le.mpr hr, hv, if_false, if_true, hrest]
    | false =>
      have hset : setIter t r (q r) = .ok () (afterIter t (q r) r) := rfl
      have hnone : (none : Option Nat) ≠ some 0 := nofun
      simp only [tldRows, M.bind_run, hget, Nat.not_le.mpr hr, hv, if_false, Bool.false_eq_true, hset, hnone, h.read r hr hv,
        Option.map_none, hrest]

/-- The states before each of the first n rows, the iteration counter of each being the rows done (R178, R179). -/
def RowChain (t : Tid) (act : Nat → M Unit) (q : Nat → State) (n : Nat) : Prop :=
  ∀ r < n, ∃ u, act r (q r) = .ok () u ∧ q (r + 1) = afterIter t u (r + 1)

theorem RowChain.iter (h : RowChain t act q n) (h0 : ((q 0).th t).iter = 0) (hn : n < 2 ^ 32) : ((q n).th t).iter.toNat = n := by
  cases n with
  | zero => simp [h0]
  | succ n =>
    obtain ⟨u, -, hq⟩ := h n (Nat.lt_succ_self n)
    rw [hq, afterIter_th]
    exact Nat.mod_eq_of_lt hn

theorem rowsFrom_step {r f : Nat} {lim : Option Nat} (hi : (w.th t).iter.toNat = r) (hr : r < rows) (hlim : lim ≠ some 0)
    (h : act r w = .ok () u) :
    rowsFrom t act rows (f + 1) lim w = rowsFrom t act rows f (lim.map (fun l => l - 1)) (afterIter t u (r + 1)) := by
  have hset : setIter t (r + 1) u = .ok () (afterIter t u (r + 1)) := rfl
  simp only [rowsFrom, M.bind_run, getT_run, hi, Nat.not_le.mpr hr, hlim, if_false, h, hset]

/-- The rows of a chain, one after another. -/
theorem rowsFrom_chain {f : Nat} {lim : Option Nat} (h : RowChain t act q n) (h0 : ((q 0).th t).iter = 0) (hn : n ≤ rows)
    (hrows : rows < 2 ^ 32) (hlim : ∀ l, lim = some l → n ≤ l) :
    rowsFrom t act rows (n + f) lim (q 0) = rowsFrom t act rows f (lim.map (fun l => l - n)) (q n) := by
  induction n generalizing f with
  | zero => simp
  | succ n ih =>
    have hc : RowChain t act q n := fun r hr => h r (Nat.lt_succ_of_lt hr)
    obtain ⟨u, hu, hq⟩ := h n (Nat.lt_succ_self n)
    have hne : lim.map (fun l => l - n) ≠ some 0 := by
      intro he
      obtain ⟨l, hl, hz⟩ := Option.map_eq_some_iff.mp he
      have := hlim l hl
      omega
    have hsub : (lim.map (fun l => l - n)).map (fun l => l - 1) = lim.map (fun l => l - (n + 1)) := by
      rw [Option.map_map]
      rfl
    rw [show n + 1 + f = n + (f + 1) by omega, ih hc (by omega) (fun l hl => by have := hlim l hl; omega),
      rowsFrom_step (hc.iter h0 (by omega)) (by omega) hne hu, hsub, hq]

theorem rowsFrom_end {f : Nat} {lim : Option Nat} (hi : (w.th t).iter.toNat = rows) : rowsFrom t act rows (f + 1) lim w = .ok () w := by
  simp only [rowsFrom, M.bind_run, getT_run, hi, Nat.le_refl, if_true, M.pure_run]

theorem rowsFrom_pause {f : Nat} (hi : (w.th t).iter.toNat < rows) : rowsFrom t act rows (f + 1) (some 0) w = .error .pause w := by
  simp only [rowsFrom, M.bind_run, getT_run, Nat.not_le.mpr hi, if_false, if_true, pauseM_run]

end Loops

/-! ### The instructions -/

section Instructions
variable {t : Tid} {td : MIdx} {cs : PIdx} {m : TMForm} {g : TileGroup} {p rows n : Nat} {ext : Bool} {act : Nat → M Unit}
  {s s1 u : State} {q : Nat → State}

/-- The registers of a tile move carry their tags: an unsealed capability, and INT in rx and rstride (R31, R176). -/
def TmAddrOk (th : Thread) (cs : PIdx) (m : TMForm) : Prop :=
  (th.cap cs).isUnsealed = true ∧ match m with
    | .short rx rst => (th.g rx).tag = .int ∧ (th.g rst).tag = .int
    | .ext rst _ => (th.g rst).tag = .int

theorem tmOps_fine {th : Thread} (h : TmAddrOk th cs m) : ∀ o ∈ tmOps th cs m, o.Fine := by
  obtain ⟨hcap, hregs⟩ := h
  intro o ho
  rcases List.mem_append.mp ho with ho | ho
  · exact csOps_fine hcap o ho
  · cases m with
    | short rx rst =>
      obtain ⟨hx, hst⟩ := hregs
      exact List.forall_mem_cons.mpr ⟨index_fine hx 6, List.forall_mem_singleton.mpr (index_fine hst 9)⟩ o ho
    | ext rst imm => exact List.forall_mem_singleton.mpr (index_fine hregs 0) o ho

theorem memberOf_at {member : Nat} (operand : Nat) (hg : (u.th t).group = some g) (hp : g.members[member]? = some p) :
    memberOf t operand member u = .ok p u := by
  simp only [memberOf, theGroup, M.bind_run, getT_run, hg, M.pure_run, hp]

/-- How an instruction runs that goes on from its iteration counter (R99). -/
def resumableInstr (t : Tid) (ext : Bool) (body : M Unit) (s : State) : Host.Outcome State Fault Refusal :=
  runInstr t { len := lenOf ext, ext := ext, resumable := true } (plain body) s

theorem resumableInstr_done {body : M Unit} (h : Fetches t (lenOf ext) ext s s1) (hb : body s1 = .ok () u) :
    resumableInstr t ext body s = .next (done t (lenOf ext) u (u.th t)) := by
  have hp : plain body (startState t true s1) = .ok none u := by rw [plain_run, startState_true, hb]
  rw [resumableInstr, runInstr_ok (i := { len := lenOf ext, ext := ext, resumable := true }) h hp, advance_none]

theorem resumableInstr_pause {body : M Unit} (h : Fetches t (lenOf ext) ext s s1) (hb : body s1 = .error .pause u) :
    resumableInstr t ext body s = .next (markStop u t false ext) := by
  rw [resumableInstr, runInstr_run (i := { len := lenOf ext, ext := ext, resumable := true }) h, plain_run, startState_true, hb]

/-- How a move ends after n rows: as the last, or stopped with the counter at n (R178, R179). -/
theorem rowMove_ends {run : Option Nat → Host.Outcome State Fault Refusal} (h : Fetches t (lenOf ext) ext s s1)
    (hb : ∀ lim, ∃ body, run lim = resumableInstr t ext body s ∧ body s1 = rowsFrom t act rows (rows + 1) lim (q 0))
    (hc : RowChain t act q n) (h0 : ((q 0).th t).iter = 0) (hn : n ≤ rows) (hrows : rows ≤ 128) :
    (n = rows → run none = .next (done t (lenOf ext) (q n) ((q n).th t))) ∧
      (n < rows → run (some n) = .next (markStop (q n) t false ext)) := by
  have hi := hc.iter h0 (by omega)
  refine ⟨fun hall => ?_, fun hmore => ?_⟩
  · obtain ⟨body, hrun, hbody⟩ := hb none
    rw [← hall, rowsFrom_chain (rows := n) (lim := none) hc h0 (Nat.le_refl n) (by omega) nofun] at hbody
    exact hrun.trans (resumableInstr_done h (hbody.trans (rowsFrom_end hi)))
  · obtain ⟨body, hrun, hbody⟩ := hb (some n)
    obtain ⟨f, hf⟩ := Nat.exists_eq_add_of_lt hmore
    refine hrun.trans (resumableInstr_pause h (hbody.trans ?_))
    rw [show rows + 1 = n + (f + 1 + 1) by omega,
      rowsFrom_chain hc h0 hn (by omega) (fun l hl => (Option.some.inj hl).le), Option.map_some, Nat.sub_self]
    exact rowsFrom_pause (by rw [hi]; exact hmore)

section Member
variable (hok : TmAddrOk (s1.th t) cs m) (hg : (s1.th t).group = some g) (hp : g.members[td.val]? = some p)
include hok hg hp

theorem tld_run (h : Fetches t (lenOf m.isExt) m.isExt s s1) (hidle : tileBusy (s1.core t.core) p = false) (hq : q 0 = s1)
    (hc : TldChain t p ((s1.th t).cap cs).toCap (rowAddr (s1.th t) cs m) q ((s1.core t.core).tile p).rows) :
    exec (.tld t td cs m none) s = .next (done t (lenOf m.isExt) (q ((s1.core t.core).tile p).rows)
      ((q ((s1.core t.core).tile p).rows).th t)) := by
  have hget : getTile t p s1 = .ok ((s1.core t.core).tile p) s1 := rfl
  refine (exec_tld ..).trans (resumableInstr_done h ?_)
  simp only [M.bind_run, getT_run, checkOps_fine (tmOps_fine hok), memberOf_at 6 hg hp, waitTile_free hidle, hget]
  rw [← tldRows_chain hc (Nat.zero_add _), hq]

/-- The rows of a TLD.ALL. -/
theorem tldAll_ends (h : Fetches t (lenOf m.isExt) m.isExt s s1) (hiter : (s1.th t).iter = 0)
    (hidle : tileBusy (s1.core t.core) p = false) (hpos : 1 ≤ ((s1.core t.core).tile p).rows) (hrows : ((s1.core t.core).tile p).rows ≤ 128)
    (ha : Allowed (s1.th t) ((s1.th t).cap cs).toCap 0x0001 (rowAddr (s1.th t) cs m 0) ((s1.core t.core).tile p).rowBytes 4)
    (hq : q 0 = putTileReg t p ((s1.core t.core).tile p).cleared s1) (hn : n ≤ ((s1.core t.core).tile p).rows)
    (hc : RowChain t (fun r => loadRow t p ((s1.th t).cap cs).toCap (rowAddr (s1.th t) cs m r) r) q n) :
    (n = ((s1.core t.core).tile p).rows → exec (.tldAll t td cs m none) s = .next (done t (lenOf m.isExt) (q n) ((q n).th t))) ∧
      (n < ((s1.core t.core).tile p).rows → exec (.tldAll t td cs m (some n)) s = .next (markStop (q n) t false m.isExt)) := by
  have hget : getTile t p s1 = .ok ((s1.core t.core).tile p) s1 := rfl
  have ha' : Allowed (s1.th t) ((s1.th t).cap cs).toCap permLD (rowAddr (s1.th t) cs m 0) ((s1.core t.core).tile p).rowBytes 4 := ha
  have hfresh : ¬ ((s1.core t.core).tile p).rows ≤ (0 : BitVec 32).toNat := Nat.not_le.mpr hpos
  have h0 : ((q 0).th t).iter = 0 := by rw [hq]; exact hiter
  refine rowMove_ends (run := fun lim => exec (.tldAll t td cs m lim) s) h (fun lim => ⟨_, rfl, ?_⟩) hc h0 hn hrows
  simp only [M.bind_run, getT_run, checkOps_fine (tmOps_fine hok), memberOf_at 6 hg hp, waitTile_free hidle, hget, hiter,
    hfresh, if_false, if_true, dataChecks_run ha', putTile, modC_run, hq]
  rfl

/-- The rows of a TST. -/
theorem tst_ends (h : Fetches t (lenOf m.isExt) m.isExt s s1) (hiter : (s1.th t).iter = 0)
    (hpos : 1 ≤ ((s1.core t.core).tile p).rows) (hrows : ((s1.core t.core).tile p).rows ≤ 128) (hq : q 0 = s1)
    (hn : n ≤ ((s1.core t.core).tile p).rows)
    (hc : RowChain t (fun r => storeRow t p ((s1.th t).cap cs).toCap (rowAddr (s1.th t) cs m r) r) q n) :
    (n = ((s1.core t.core).tile p).rows → exec (.tst t td cs m none) s = .next (done t (lenOf m.isExt) (q n) ((q n).th t))) ∧
      (n < ((s1.core t.core).tile p).rows → exec (.tst t td cs m (some n)) s = .next (markStop (q n) t false m.isExt)) := by
  have hget : getTile t p s1 = .ok ((s1.core t.core).tile p) s1 := rfl
  have hfresh : ¬ ((s1.core t.core).tile p).rows ≤ (0 : BitVec 32).toNat := Nat.not_le.mpr hpos
  have h0 : ((q 0).th t).iter = 0 := by rw [hq]; exact hiter
  refine rowMove_ends (run := fun lim => exec (.tst t td cs m lim) s) h (fun lim => ⟨_, rfl, ?_⟩) hc h0 hn hrows
  simp only [M.bind_run, getT_run, checkOps_fine (tmOps_fine hok), memberOf_at 6 hg hp, hget, hiter, hfresh, if_false, hq]

end Member

end Instructions

/-- Settles O34: the loops over the rows follow the chain q (`tldRows_chain`, `rowsFrom_chain`), and one row is a read or a store of the
thread that leaves every other tile register (`loadRow_run`, `storeRow_run`). -/
theorem tileMoves : Obligations.TileMoves := by
  intro t td cs m g p s s1 q len th c v iter put h hun hregs hg hp hrows
  have hok : TmAddrOk th cs m := ⟨hun, hregs⟩
  refine ⟨fun hidle hq hkept hread => tld_run hok hg hp h hidle hq ⟨hkept, hread⟩,
    fun hiter hidle hpos ha hq n hn hc => tldAll_ends hok hg hp h hiter hidle hpos hrows ha hq hn hc,
    fun hiter hpos hq n hn hc => tst_ends hok hg hp h hiter hpos hrows hq hn hc, ?_, ?_⟩
  · intro a r w u bs x ha hd
    refine ⟨x.setRow r (rowOfBytes bs), loadRow_run ha hd, rfl, rfl, rfl, congrArg TRow.data (Tab.getD_put ..), fun i _ hi => ?_,
      fun i hi => Tab.get?_put_ne _ _ _ _ hi⟩
    rw [Tile.setRow, Tab.getD_put]
    exact rowOfBytes_poison hi
  · intro a r w ps w1 u x bs ha hv hx hs
    exact storeRow_run ha hv hx ((rowBytesOf_eq ..).symm ▸ hs)

end Sys2Proof.Machine
end

/-!
PROOFS, 39. What a pass adds to the cells of a bank (R181, R190, R193).
-/

section
namespace Sys2Proof.Machine

/-! ### Rows of a bank as cells (R181) -/

section Cells
variable {b : Bank} {w r i j : Nat} {cs : List (Nat × Bool)}

/-- A row of a bank; a zero-flagged one is zero (R181). -/
def Bank.row (b : Bank) (r : Nat) : BankRow := if b.zero.toNat.testBit r then ⟨0, 0⟩ else Tab.getD b.rows r ⟨0, 0⟩

theorem Bank.cells_eq (b : Bank) (w r : Nat) :
    b.cells w r = (List.range w).map (fun j => ((b.row r).data / 2 ^ (32 * j) % 2 ^ 32, (b.row r).poison.testBit j)) := by
  simp only [Bank.cells, upto_eq_range, bit_eq_testBit]
  rfl

theorem Bank.cells_lt {c : Nat × Bool} (h : (b.cells w r)[j]? = some c) : c.1 < 2 ^ 32 := by
  rw [Bank.cells_eq, List.getElem?_map, Option.map_eq_some_iff] at h
  obtain ⟨k, -, rfl⟩ := h
  exact Nat.mod_lt _ (by decide)

/-- A cell read from packed cells. -/
theorem packCells_data (cs : List (Nat × Bool)) (j : Nat) :
    packBits 32 (cs.map (fun c => c.1)) / 2 ^ (32 * j) % 2 ^ 32 = (cs.getD j (0, false)).1 % 2 ^ 32 := by
  rw [packBits_getD]
  exact congrArg (· % 2 ^ 32) (List.getD_map (n := j) cs (0, false) (fun c : Nat × Bool => c.1))

/-- The set of one row. -/
theorem oneRow_getLsbD (r i : Nat) : (1#128 <<< r).getLsbD i = (decide (i < 128) && decide (i = r)) := by
  rw [BitVec.getLsbD_shiftLeft, BitVec.getLsbD_one]
  by_cases hlt : i < r
  · simp [hlt, hlt.ne]
  · have hsub : i - r = 0 ↔ i = r := by omega
    simp [hlt, hsub]

/-- A set of rows without one row. -/
theorem testBit_clear (z : BitVec 128) (r i : Nat) :
    (z &&& ~~~(1#128 <<< r)).toNat.testBit i = (z.toNat.testBit i && decide (i ≠ r)) := by
  rw [BitVec.testBit_toNat, BitVec.testBit_toNat, BitVec.getLsbD_and, BitVec.getLsbD_not, oneRow_getLsbD]
  by_cases hi : i < 128
  · simp [hi]
  · simp [BitVec.getLsbD_of_ge, Nat.le_of_not_lt hi]

theorem Bank.putCells_row (b : Bank) (r : Nat) (cs : List (Nat × Bool)) (i : Nat) : (b.putCells r cs).row i = if i = r then
    ⟨packBits 32 (cs.map (fun c => c.1)), packBits 1 (cs.map (fun c => b2n c.2))⟩ else b.row i := by
  rw [Bank.row, Bank.putCells, testBit_clear]
  by_cases hi : i = r
  · subst hi
    simp
  · simp [hi, Bank.row, Tab.getD_put_ne]

theorem Bank.cells_congr {b' : Bank} (h : b.row i = b'.row i) : b.cells w i = b'.cells w i := by
  rw [Bank.cells_eq, Bank.cells_eq, h]

theorem Bank.putCells_cells_ne (h : i ≠ r) : (b.putCells r cs).cells w i = b.cells w i :=
  Bank.cells_congr ((Bank.putCells_row ..).trans (if_neg h))

/-- The cells written do not depend on what the bank held. -/
theorem Bank.putCells_cells_eq (b b' : Bank) : (b.putCells r cs).cells w r = (b'.putCells r cs).cells w r :=
  Bank.cells_congr (by rw [Bank.putCells_row, Bank.putCells_row, if_pos rfl, if_pos rfl])

/-- Cells written to a row are read from it. -/
theorem Bank.putCells_cell (hj : j < w) {c : Nat × Bool} (hc : cs[j]? = some c) (hlt : c.1 < 2 ^ 32) :
    ((b.putCells r cs).cells w r)[j]? = some c := by
  have hget : cs.getD j (0, false) = c := by rw [List.getD_eq_getElem?_getD, hc, Option.getD_some]
  rw [Bank.cells_eq, Bank.putCells_row, if_pos rfl, List.getElem?_map, List.getElem?_range hj, Option.map_some, packCells_data,
    packBits_flags, hget, Nat.mod_eq_of_lt hlt]

end Cells

/-! ### The rows of a pass (R193) -/

section Rows
variable {k : Core} {q : Pass} {w r : Nat} {b : Bank} {f : Nat → List (Nat × Bool) → List (Nat × Bool)} {l : List Nat}

/-- Rows of a bank computed one after another, each from its own cells. -/
def Bank.mapRows (w : Nat) (f : Nat → List (Nat × Bool) → List (Nat × Bool)) (l : List Nat) (b : Bank) : Bank :=
  l.foldl (fun (x : Bank) r => x.putCells r (f r (x.cells w r))) b

theorem Bank.mapRows_cells_notMem (hr : r ∉ l) : (b.mapRows w f l).cells w r = b.cells w r := by
  induction l generalizing b with
  | nil => rfl
  | cons x l ih =>
    obtain ⟨hne, hmem⟩ := List.ne_and_not_mem_of_not_mem_cons hr
    exact (ih hmem).trans (Bank.putCells_cells_ne hne)

/-- A row among distinct ones is computed once, from the cells that it had. -/
theorem Bank.mapRows_cells (hnodup : l.Nodup) (hr : r ∈ l) :
    (b.mapRows w f l).cells w r = (b.putCells r (f r (b.cells w r))).cells w r := by
  induction l generalizing b with
  | nil => nomatch hr
  | cons x l ih =>
    obtain ⟨hout, hnd⟩ := List.nodup_cons.mp hnodup
    show ((b.putCells x (f x (b.cells w x))).mapRows w f l).cells w r = _
    rcases List.mem_cons.mp hr with rfl | hmem
    · exact Bank.mapRows_cells_notMem hout
    · have hne : r ≠ x := fun he => hout (he ▸ hmem)
      rw [ih hnd hmem, Bank.putCells_cells_ne hne]
      exact Bank.putCells_cells_eq ..

theorem Pass.liveRows_nodup : q.liveRows.Nodup := by
  rw [Pass.liveRows, upto_eq_range]
  exact List.nodup_range.filter _

/-- What a pass writes into the cells of a row that it feeds. -/
theorem passInto_cell (hr : r ∈ q.liveRows) {j : Nat} (hj : j < w) {c : Nat × Bool}
    (hc : (passRow k q w (bRows k q w) r (b.cells w r))[j]? = some c) (hlt : c.1 < 2 ^ 32) :
    ((passInto k w q b).cells w r)[j]? = some c := by
  have hmap : passInto k w q b = Bank.mapRows w (passRow k q w (bRows k q w)) q.liveRows
      { b with kind := if b.kind = .unset then q.kind else b.kind, last := some (q.fmtA, q.fmtB) } := rfl
  rw [hmap, Bank.mapRows_cells Pass.liveRows_nodup hr]
  exact Bank.putCells_cell hj hc hlt

end Rows

/-! ### Integer products (R190) -/

section Products
variable {cells : List (Nat × Bool)} {a : Num × Bool} {x : List (Num × Bool)} {y : Num} {j c : Nat}

/-- The product that an element of A and the element j of a row of B stand for. -/
def intProduct (j : Nat) (a : Num × Bool) (x : List (Num × Bool)) : Int := numInt (a.1.mul (x.getD j (.nan, false)).1)

theorem acc_intBits (c : Nat) (v : Int) : (((c + intBits 32 v) % 2 ^ 32 : Nat) : Int) = ((c : Int) + v) % 2 ^ 32 := by
  rw [intBits]
  omega

/-- One product joins a cell without poison. -/
theorem productStep_cell (hc : cells[j]? = some (c, false)) (ha : a.2 = false) (hx : x[j]? = some (y, false)) :
    (productStep true cells a x)[j]? = some (((c : Int) + intProduct j a x) % 2 ^ 32 |>.toNat, false) := by
  have hget : intProduct j a x = numInt (a.1.mul y) := by rw [intProduct, List.getD_eq_getElem?_getD, hx, Option.getD_some]
  have hprod : (productsOf a x)[j]? = some (a.1.mul y, false) := by
    rw [productsOf, List.getElem?_map, hx, Option.map_some, ha, Bool.or_self]
  have hzip : (cells.zip (productsOf a x))[j]? = some ((c, false), (a.1.mul y, false)) := List.getElem?_zip_eq_some.mpr ⟨hc, hprod⟩
  rw [productStep, List.getElem?_map, hzip, Option.map_some, hget, ← acc_intBits, Int.toNat_natCast]
  rfl

/-- The products of a row, one after another, grow a cell by their sum modulo 2^32. -/
theorem productSteps_cell {as : List (Num × Bool)} {bs : List (List (Num × Bool))} (hc : cells[j]? = some (c, false)) (hlt : c < 2 ^ 32)
    (has : ∀ a ∈ as, a.2 = false) (hbs : ∀ x ∈ bs, ∃ y, x[j]? = some (y, false)) :
    ((as.zip bs).foldl (fun (cs : List (Nat × Bool)) x => productStep true cs x.1 x.2) cells)[j]? =
      some (((c : Int) + (List.zipWith (intProduct j) as bs).sum) % 2 ^ 32 |>.toNat, false) := by
  induction as generalizing cells c bs with
  | nil =>
    rw [List.zip_nil_left, List.foldl_nil, hc, List.zipWith_nil_left, List.sum_nil]
    congr 2
    omega
  | cons a as ih =>
    cases bs with
    | nil =>
      rw [List.zip_nil_right, List.foldl_nil, hc, List.zipWith_nil_right, List.sum_nil]
      congr 2
      omega
    | cons x bs =>
      obtain ⟨ha, has⟩ := List.forall_mem_cons.mp has
      obtain ⟨⟨y, hy⟩, hbs⟩ := List.forall_mem_cons.mp hbs
      have hstep := productStep_cell hc ha hy
      rw [List.zip_cons_cons, List.foldl_cons, ih hstep (by omega) has hbs, List.zipWith_cons_cons, List.sum_cons]
      congr 2
      omega

/-- An integer pass grows a cell without poison by the sum of its products (R190). -/
theorem passInto_intCell {k : Core} {w : Nat} {q : Pass} {b : Bank} {r : Nat} (hint : q.integer = true) (hr : r ∈ q.liveRows) (hj : j < w)
    (hc : (b.cells w r)[j]? = some (c, false))
    (has : ∀ a ∈ rowElems (fmtOf q.fmtA).format (fmtOf q.fmtA).mx q.k ((k.tile q.a).row r), a.2 = false)
    (hbs : ∀ x ∈ bRows k q w, ∃ y, x[j]? = some (y, false)) :
    ((passInto k w q b).cells w r)[j]? = some (((c : Int) + (List.zipWith (intProduct j)
      (rowElems (fmtOf q.fmtA).format (fmtOf q.fmtA).mx q.k ((k.tile q.a).row r)) (bRows k q w)).sum) % 2 ^ 32 |>.toNat, false) := by
  refine passInto_cell hr hj ?_ (by dsimp only; omega)
  rw [passRow]
  simp only [hint, Bool.true_or, if_true]
  exact productSteps_cell hc (Bank.cells_lt hc) has hbs

end Products

end Sys2Proof.Machine
end

/-!
PROOFS, 40. The queue of a partition: TMMA, TZ, the start and the end of a pass, and TRDA.RAW (R195, R197 to R199, R206).
-/

section
namespace Sys2Proof.Machine

/-! ### TMMA and TZ (R197, R198) -/

section Queue
variable {t : Tid} {ta tb : MIdx} {bank : Fin 2} {fa fb : RIdx} {wa wb : Word} {pl : PassPlan} {g : TileGroup} {p : Nat} {q : Pass}
  {i : InstrInfo} {body : M Unit} {s s1 u w : State}

/-- An array with an entry appended to the queue of a partition. -/
def Core.withPass (k : Core) (p : Nat) (q : Pass) : Core := k.setPart p { k.part p with queue := (k.part p).queue ++ [q] }

theorem enqueuePass_room (h : ((u.core t.core).part p).full = false) :
    enqueuePass t p q u = .ok () (u.setCore t.core ((u.core t.core).withPass p q)) := by
  simp only [enqueuePass, M.bind_run, getC_run, h, Bool.false_eq_true, if_false, modC_run]
  rfl

theorem enqueuePass_full (h : ((u.core t.core).part p).full = true) : enqueuePass t p q u = .error (.wait .tileQueue) u := by
  simp only [enqueuePass, M.bind_run, getC_run, h, if_true, waitFor_run]

/-- An instruction that appends an entry completes when the queue has room. -/
theorem enqueues_room (h : Fetches t i.len i.ext s s1) (hr : i.resumable = false) (hb : body (begun t s1) = enqueuePass t p q (begun t s1))
    (hroom : ((s1.core t.core).part p).full = false) :
    runInstr t i (plain body) s = .next (done t i.len (s1.setCore t.core ((s1.core t.core).withPass p q)) (s1.th t)) := by
  have hrun : enqueuePass t p q (begun t s1) = .ok () (begun t (s1.setCore t.core ((s1.core t.core).withPass p q))) :=
    enqueuePass_room (u := begun t s1) hroom
  rw [runInstr_done h hr (hb.trans hrun), begun_th, done_iter, done_begun]
  rfl

/-- Otherwise the thread waits with nothing done (R197). -/
theorem enqueues_full (h : Fetches t i.len i.ext s s1) (hr : i.resumable = false) (hb : body (begun t s1) = enqueuePass t p q (begun t s1))
    (hfull : ((s1.core t.core).part p).full = true) :
    ∃ u, runInstr t i (plain body) s = .next u ∧ (u.th t).status = .waiting .tileQueue ∧ (u.th t).waitsWith = i.self ∧
      (u.th t).pc = (s1.th t).pc ∧ u.cores = s1.cores := by
  obtain ⟨hst, hself, hpc, -⟩ := waitingState_facts (t := t) (s1 := s1) .tileQueue i
  exact ⟨_, runInstr_waits h hr (hb.trans (enqueuePass_full (u := begun t s1) hfull)), hst, hself, hpc, rfl⟩

/-- What TMMA does once its operands are read. -/
def tmmaMeaning (t : Tid) (ta tb : MIdx) (bank : Fin 2) (rfa rfb : RIdx) : M Unit := do
  let a ← greg t rfa
  let b ← greg t rfb
  checkOps [opnd 2 .fmt a, opnd 3 .fmt b]
  let q ← passPlan t ta tb bank a.val b.val none
  enqueuePass t q.part q.pass

theorem exec_tmma_eq : exec (.tmma t ta tb bank fa fb) s =
    runInstr t { self := some (.tmma ta tb bank fa fb) } (plain (tmmaMeaning t ta tb bank fa fb)) s := rfl

theorem tmmaMeaning_run (ha : Holds (s1.th t) fa wa .fmt) (hb : Holds (s1.th t) fb wb .fmt)
    (hplan : passPlan t ta tb bank wa wb none (begun t s1) = .ok pl (begun t s1)) :
    tmmaMeaning t ta tb bank fa fb (begun t s1) = enqueuePass t pl.part pl.pass (begun t s1) := by
  have hfine : ∀ o ∈ [opnd 2 .fmt ⟨wa, .fmt⟩, opnd 3 .fmt ⟨wb, .fmt⟩], o.Fine :=
    List.forall_mem_cons.mpr ⟨fmt_fine rfl 2, List.forall_mem_singleton.mpr (fmt_fine rfl 3)⟩
  have hga : ((begun t s1).th t).g fa = ⟨wa, .fmt⟩ := g_begun.trans ha
  have hgb : ((begun t s1).th t).g fb = ⟨wb, .fmt⟩ := g_begun.trans hb
  simp only [tmmaMeaning, M.bind_run, greg_run, hga, hgb, checkOps_fine hfine, hplan]

/-- A thread that waits with a TMMA issues it again (R197). -/
theorem tmmaQueueAccept_runs (hst : (w.th t).status = .waiting .tileQueue) (hw : (w.th t).waitsWith = some (.tmma ta tb bank fa fb)) :
    exec (.tmmaQueueAccept t) w =
      exec (.tmma t ta tb bank fa fb) (w.setTh t { w.th t with status := .active, waitsWith := none }) := by
  rw [exec_tmmaQueueAccept, execTmmaQueueAccept]
  simp only [hst, hw, ne_eq, not_true_eq_false, if_false]
  rfl

/-- The entry of a TZ (R198). -/
def tzPass (bank : Fin 2) : Pass := Pass.mk true bank 0 [] none none 0 0 0 0 0 false

theorem exec_tz_eq : exec (.tz t bank) s =
    runInstr t { self := some (.tz bank) } (plain (thePart t >>= fun p => enqueuePass t p (tzPass bank))) s := rfl

theorem tzMeaning_run (hg : (s1.th t).group = some g) (hp : g.part = some p) :
    (thePart t >>= fun p => enqueuePass t p (tzPass bank)) (begun t s1) = enqueuePass t p (tzPass bank) (begun t s1) := by
  rw [M.bind_run, thePart_run hg hp]

end Queue

/-! ### The start and the end of a pass (R181, R195, R206) -/

section Passes
variable {core : CoreId} {i : Fin 4} {q : Pass} {pre post : List Pass} {s : State}

theorem fmtOf_format_lt (w : Word) : (fmtOf w).format < 256 := Nat.lt_of_lt_of_le (Nat.mod_lt _ (by decide)) (by decide)

/-- The state after a pass has started: it is counted and marked (R195, R206). -/
def passStarted (core : CoreId) (i : Fin 4) (q : Pass) (pre post : List Pass) (s : State) : State :=
  let pt := (s.core core).part i.val
  (countPass s pt q).setCore core ((s.core core).setPart i.val { pt with queue := pre ++ { q with started := true } :: post })

/-- The first entry that has not started starts. -/
theorem tmmaPassStart_starts (hq : ((s.core core).part i.val).queue = pre ++ q :: post) (hpre : ∀ x ∈ pre, x.started = true)
    (hpost : ∀ x ∈ post, x.started = false) (hst : q.started = false) (htz : q.isTz = false) :
    exec (.tmmaPassStart core i) s = .next (passStarted core i q pre post s) := by
  have hfind : (pre ++ q :: post).find? (fun q => !q.started) = some q := by
    rw [List.find?_append, List.find?_eq_none.mpr fun x hx => by simp [hpre x hx], List.find?_cons_of_pos (by simp [hst])]
    rfl
  have hcount : ((pre ++ q :: post).filter (fun x => x.started)).length = pre.length := by
    rw [List.filter_append, List.filter_eq_self.mpr hpre, List.filter_eq_nil_iff.mpr, List.append_nil]
    exact fun x hx => by rcases List.mem_cons.mp hx with rfl | hx <;> simp [*]
  have hcore : (countPass s ((s.core core).part i.val) q).core core = s.core core := core_of_cores (State.count_cores ..) core
  rw [exec_tmmaPassStart, execTmmaPassStart]
  simp only [hq, hfind]
  rw [if_neg (by simp [htz])]
  simp only [hcount, hcore, List.set_append_right _ _ (Nat.le_refl _), Nat.sub_self, List.set_cons_zero]
  rfl

theorem passStarted_part :
    (((passStarted core i q pre post s).core core).part i.val) =
      { (s.core core).part i.val with queue := pre ++ { q with started := true } :: post } := by
  rw [passStarted, State.core_setCore, part_setPart]

theorem passStarted_threads : (passStarted core i q pre post s).threads = s.threads := State.count_threads ..

theorem passStarted_count : (passStarted core i q pre post s).dev 0x9000 (fmtOf q.fmtA).format =
    s.dev 0x9000 (fmtOf q.fmtA).format + q.liveRows.length * ((s.core core).part i.val).width * q.k :=
  (State.dev_setCore ..).trans (State.dev_count _ _ _ _ (fmtOf_format_lt _))

/-- The head of a queue leaves it: a TZ resets its bank, a pass leaves its sums in it. -/
theorem finishHead_part {k : Core} {p : Nat} (h : (k.part p).queue = q :: post) :
    (k.finishHead p).part p = ({ k.part p with queue := post } : Partition).setBank q.bank
      (if q.isTz then Bank.reset else passInto k (k.part p).width q ((k.part p).bank q.bank)) := by
  rw [Core.finishHead]
  simp only [h]
  split <;> exact part_setPart ..

/-- The same in the state in which the threads that waited go on. -/
theorem finished_part (h : ((s.core core).part i.val).queue = q :: post) :
    ((wakeTiles (s.setCore core ((s.core core).finishHead i.val)) core).core core).part i.val =
      ({ (s.core core).part i.val with queue := post } : Partition).setBank q.bank
        (if q.isTz then Bank.reset else passInto (s.core core) ((s.core core).part i.val).width q (((s.core core).part i.val).bank q.bank)) := by
  rw [core_of_cores (wakeTiles_core ..) core, State.core_setCore, finishHead_part h]

theorem tmmaPassComplete_finishes (h : ((s.core core).part i.val).queue = q :: post) (hst : q.started = true)
    (hdrain : ((s.core core).part i.val).draining = false) :
    exec (.tmmaPassComplete core i) s = .next (wakeTiles (s.setCore core ((s.core core).finishHead i.val)) core) := by
  rw [exec_tmmaPassComplete, execTmmaPassComplete]
  simp only [h, hst, hdrain, Bool.not_true, Bool.false_eq_true, if_false]

theorem tzTurn_finishes (h : ((s.core core).part i.val).queue = q :: post) (htz : q.isTz = true) :
    exec (.tzTurn core i) s = .next (wakeTiles (s.setCore core ((s.core core).finishHead i.val)) core) := by
  rw [exec_tzTurn, execTzTurn]
  simp only [h, htz, if_true]

/-- Nothing happens to an empty queue. -/
theorem emptyQueue_stays (h : ((s.core core).part i.val).queue = []) :
    exec (.tzTurn core i) s = .next s ∧ exec (.tmmaPassComplete core i) s = .next s ∧ exec (.tmmaPassStart core i) s = .next s := by
  refine ⟨?_, ?_, ?_⟩
  · rw [exec_tzTurn, execTzTurn]
    simp only [h]
  · rw [exec_tmmaPassComplete, execTmmaPassComplete]
    simp only [h]
  · rw [exec_tmmaPassStart, execTmmaPassStart]
    simp only [h, List.find?_nil]

end Passes

/-! ### TRDA.RAW (R199) -/

section Trda
variable {t : Tid} {td : MIdx} {bank : Fin 2} {ro : RIdx} {v : Word} {g : TileGroup} {i p r : Nat} {f : Nat → TRow} {l : List Nat} {x : Tile}
  {s s1 u : State}

/-- Rows of a tile written one after another. -/
def Tile.setRows (f : Nat → TRow) (l : List Nat) (x : Tile) : Tile := l.foldl (fun x r => x.setRow r (f r)) x

theorem Tile.setRow_row (x : Tile) (r j : Nat) (y : TRow) : (x.setRow r y).row j = if j = r then y else x.row j := by
  rw [Tile.row, Tile.setRow]
  split
  · subst j
    exact Tab.getD_put ..
  · exact Tab.getD_put_ne _ _ _ _ _ ‹_›

theorem Tile.setRow_rowValid {j : Nat} (hj : j < 128) (x : Tile) (r : Nat) (y : TRow) :
    (x.setRow r y).rowValid j = (x.rowValid j || decide (j = r)) := by
  rw [Tile.rowValid, Tile.setRow, BitVec.toNat_or, Nat.testBit_or, BitVec.testBit_toNat (1#128 <<< r), oneRow_getLsbD, decide_eq_true hj,
    Bool.true_and]
  rfl

theorem Tile.setRows_rows : (x.setRows f l).rows = x.rows := foldl_keep _ _ Tile.rows (fun _ _ => by rfl) x

theorem Tile.setRows_row_notMem (h : r ∉ l) : (x.setRows f l).row r = x.row r := by
  induction l generalizing x with
  | nil => rfl
  | cons y l ih =>
    obtain ⟨hy, hl⟩ := List.ne_and_not_mem_of_not_mem_cons h
    exact (ih hl).trans ((Tile.setRow_row ..).trans (if_neg hy))

/-- A row written holds what was written last, whichever rows follow. -/
theorem Tile.setRows_row (h : r ∈ l) : (x.setRows f l).row r = f r := by
  induction l generalizing x with
  | nil => nomatch h
  | cons y l ih =>
    by_cases hl : r ∈ l
    · exact ih hl
    · obtain rfl : r = y := (List.mem_cons.mp h).resolve_right hl
      exact (Tile.setRows_row_notMem hl).trans ((Tile.setRow_row ..).trans (if_pos rfl))

theorem Tile.setRows_rowValid (hr : r < 128) : (x.setRows f l).rowValid r = (x.rowValid r || decide (r ∈ l)) := by
  induction l generalizing x with
  | nil => simp [Tile.setRows]
  | cons y l ih =>
    refine (ih (x := x.setRow y (f y))).trans ?_
    rw [Tile.setRow_rowValid hr, Bool.or_assoc, ← Bool.decide_or]
    simp only [List.mem_cons]

/-- Rows of a tile register of the thread's core written one after another. -/
def writeRows (t : Tid) (p : Nat) (f : Nat → TRow) (l : List Nat) : M Unit := l.forM fun r => do
  let x ← getTile t p
  putTile t p (x.setRow r (f r))

theorem writeRows_cons : writeRows t p f (r :: l) s = writeRows t p f l (putTileRow t p r (f r) s) := rfl

theorem writeRows_run (s : State) : ∃ u, writeRows t p f l s = .ok () u ∧ u.threads = s.threads ∧
    (u.core t.core).tile p = ((s.core t.core).tile p).setRows f l := by
  induction l generalizing s with
  | nil => exact ⟨s, rfl, rfl, rfl⟩
  | cons r l ih =>
    obtain ⟨u, hu, hth, htile⟩ := ih (putTileRow t p r (f r) s)
    refine ⟨u, writeRows_cons.trans hu, hth, ?_⟩
    rw [htile, putTileRow, putTile_tile]
    rfl

/-- A rectangle of a bank may be copied into a member: its offset, its shape, and no pass before it. -/
structure RawRectangle (t : Tid) (td : MIdx) (bank : Fin 2) (ro : RIdx) (v : Word) (g : TileGroup) (i p : Nat) (s1 : State) : Prop where
  offset : Holds (s1.th t) ro v .int
  group : (s1.th t).group = some g
  part : g.part = some i
  member : g.members[td.val]? = some p
  rows : v.toNat % 128 + ((s1.core t.core).tile p).rows ≤ 128
  columns : v.toNat / 2 ^ 16 % 512 + ((s1.core t.core).tile p).rowBytes / 4 ≤ ((s1.core t.core).part i).width
  idle : ∀ q ∈ ((s1.core t.core).part i).queue, q.bank ≠ bank
  free : tileBusy (s1.core t.core) p = false

/-- The cells of a rectangle's row r. -/
def rawCells (v : Word) (i p : Nat) (bank : Fin 2) (k : Core) (r : Nat) : List (Nat × Bool) :=
  slice (((k.part i).bank bank).cells (k.part i).width (v.toNat % 128 + r)) (v.toNat / 2 ^ 16 % 512) ((k.tile p).rowBytes / 4)

/-- Cells as a row of a tile. -/
def cellsRow (cs : List (Nat × Bool)) : TRow := ⟨packBits 32 (cs.map (fun c => c.1)), packBits 1 (cs.map (fun c => b2n c.2))⟩

theorem trdaRaw_copies (h : Fetches t 4 false s s1) (hc : RawRectangle t td bank ro v g i p s1) :
    ∃ u, exec (.trdaRaw t td bank ro) s = .next u ∧ u.threads = (done t 4 s1 (s1.th t)).threads ∧
      (u.core t.core).tile p = ((s1.core t.core).tile p).setRows (fun r => cellsRow (rawCells v i p bank (s1.core t.core) r))
        (List.range ((s1.core t.core).tile p).rows) := by
  obtain ⟨hoff, hgroup, hpart, hmember, hrows, hcols, hidle, hfree⟩ := hc
  obtain ⟨u, hu, hth, htile⟩ := writeRows_run (t := t) (p := p) (f := fun r => cellsRow (rawCells v i p bank (s1.core t.core) r))
    (l := List.range ((s1.core t.core).tile p).rows) (begun t s1)
  have hfine : ∀ o ∈ [opnd 3 .index ⟨v, .int⟩], o.Fine := List.forall_mem_singleton.mpr (index_fine rfl 3)
  have hgo : ((begun t s1).th t).g ro = ⟨v, .int⟩ := g_begun.trans hoff
  have hcore : (begun t s1).core t.core = s1.core t.core := rfl
  refine ⟨done t 4 u (u.th t), ?_, ?_, htile⟩
  · rw [exec_trdaRaw, execTrdaRaw]
    refine simple_ok h ?_
    simp only [M.bind_run, greg_run, hgo, checkOps_fine hfine, thePart_run hgroup hpart, memberOf_run hgroup 2 hmember, getTile_begun,
      roffOf_eq, getC_run, hcore, Nat.not_lt.mpr hrows, Nat.not_lt.mpr hcols, decide_false, Bool.or_self, waitBank_free hidle hfree,
      Bool.false_eq_true, if_false, upto_eq_range]
    exact hu
  · have hbegun : (done t 4 u (u.th t)).threads = (done t 4 (begun t s1) ((begun t s1).th t)).threads := by
      simp only [done, State.setTh, State.th, hth]
    rw [hbegun, begun_th, done_iter, done_begun]

theorem slice_getD {α : Type} {cs : List α} {c d : α} {k n j : Nat} (hj : j < n) (h : cs[k + j]? = some c) : (slice cs k n).getD j d = c := by
  rw [List.getD_eq_getElem?_getD, slice, List.getElem?_take_of_lt hj, List.getElem?_drop, h, Option.getD_some]

end Trda

/-- Settles O35: an entry joins the queue when there is room (`enqueues_room`), starts counted (`tmmaPassStart_starts`) and leaves its sums
in the bank (`finishHead_part`), which for integers grow cell by cell (`passInto_intCell`); TRDA.RAW writes the cells as rows
(`trdaRaw_copies`). -/
theorem matrixPasses : Obligations.MatrixPasses := by
  intro t bank s
  refine ⟨?_, ?_, ?_⟩
  · intro s1 h th k b push waits
    refine ⟨?_, ?_⟩
    · intro ta tb fa fb wa wb pl ha hb hplan
      have hbody := tmmaMeaning_run ha hb hplan
      refine ⟨fun hroom => ?_, fun hfull => ?_⟩
      · have hrun : exec (.tmma t ta tb bank fa fb) s = .next (push pl.part pl.pass) := exec_tmma_eq.trans (enqueues_room h rfl hbody hroom)
        refine ⟨hrun, fun w hst hw hs => ?_⟩
        rw [tmmaQueueAccept_runs hst hw, ← hs, hrun]
      · exact enqueues_full (i := { self := some (.tmma ta tb bank fa fb) }) h rfl hbody hfull
    · intro g i hg hi
      have hbody := tzMeaning_run (bank := bank) hg hi
      refine ⟨fun hroom => exec_tz_eq.trans (enqueues_room h rfl hbody hroom),
        fun hfull => enqueues_full (i := { self := some (.tz bank) }) h rfl hbody hfull, ?_⟩
      intro td ro p v ho hp x r0 c0 n cells hrows hcols h128 hidle hfree
      obtain ⟨u, hu, hth, htile⟩ := trdaRaw_copies h ⟨ho, hg, hi, hp, hrows, hcols, hidle, hfree⟩
      refine ⟨u, hu, hth, (congrArg Tile.rows htile).trans Tile.setRows_rows, fun r hr => ⟨?_, fun j hj c hc => ?_⟩⟩
      · rw [htile, Tile.setRows_rowValid (by omega), decide_eq_true (List.mem_range.mpr hr), Bool.or_true]
      · have hcell : (rawCells v i p bank k r).getD j (0, false) = c := slice_getD hj hc
        rw [htile, Tile.setRows_row (List.mem_range.mpr hr), cellsRow, packCells_data, packBits_flags, hcell]
        exact ⟨Nat.mod_eq_of_lt (Bank.cells_lt hc), rfl⟩
  · intro core i q pre post k pt
    refine ⟨fun hq hpre hpost hst htz => ⟨_, tmmaPassStart_starts hq hpre hpost hst htz, passStarted_part, passStarted_threads,
      passStarted_count⟩, fun hq hst htz hdrain => ⟨_, tmmaPassComplete_finishes hq hst hdrain, ?_⟩,
      fun hq htz => ⟨_, tzTurn_finishes hq htz, ?_⟩, emptyQueue_stays⟩
    · rw [finished_part hq, htz, if_neg Bool.false_ne_true]
    · rw [finished_part hq, htz, if_pos rfl]
  · intro k w q b r j c d as bs hint hr hj hc has hbs
    exact passInto_intCell hint hr hj hc has fun x hx => (hbs x hx).2

end Sys2Proof.Machine
end
